-- ==== Sys2Proof/Word.lean ====
section
/-! DEFINITION. The word types of the F9 and their plainest arithmetic (00/R4: little-endian throughout). -/

namespace Sys2Proof

/-- A 32-bit register or instruction word. -/
abbrev Word := BitVec 32

/-- A 64-bit value: a register pair, a CSR of width 64, an address. -/
abbrev DWord := BitVec 64

/-- One byte of any memory. -/
abbrev Byte := BitVec 8

/-- A hierarchical mask (02/R23): bit `p` is bit `p % 32` of mask word `W[p / 32]`. -/
abbrev Mask := BitVec 1024

/-- Join a low and a high word to the 64-bit value of a register pair (02/R29). -/
def pairOf (lo hi : Word) : DWord := hi ++ lo

/-- The low word of a pair. -/
def lo32 (x : DWord) : Word := x.truncate 32

/-- The high word of a pair. -/
def hi32 (x : DWord) : Word := (x >>> 32).truncate 32

/-- The byte of index `i`, counted from the least significant. -/
def byteOf {n : Nat} (x : BitVec n) (i : Nat) : Byte := (x >>> (8 * i)).truncate 8

/-- The halfword of index `i`, counted from the least significant. -/
def halfOf {n : Nat} (x : BitVec n) (i : Nat) : BitVec 16 := (x >>> (16 * i)).truncate 16

/-- One bit as a natural number. -/
def bitNat (b : Bool) : Nat := if b then 1 else 0

/-- One bit as a word: 1 or 0. -/
def boolWord (b : Bool) : Word := if b then 1 else 0

end Sys2Proof
end

