-- ==== Sys2Proof/Config.lean ====
section
/-! DEFINITION. What an implementation fixes and the spec leaves open: constants without a body, so that no proof can
see a value. A statement that holds, holds for every value of each. -/

namespace Sys2Proof.Config

/-- The special functions whose result the spec bounds and does not fix (03/R72). -/
inductive Sfu where
  | exp2 | log2 | rsq | sin2pi | cos2pi | tanh
deriving DecidableEq, Repr

/-- A free value: the n-th 64-bit value the spec leaves open, drawn by the counter of State (log entry 3). -/
opaque freeValue : Nat → BitVec 64

/-- The SFU's result bits outside its exact cases, a function of the operand bits and ftz (03/R72, R73; log entry 9). -/
opaque sfu : Sfu → Word → Bool → Word

/-- Three times the skew of a place's reading of TIME is free; only its remainder by 3 is used, so readings lie within
2 ns of each other (01/R17, 08/R239; log entry 12). Places are numbered: core c is c, slice k is 2000 + k. -/
opaque skewRaw : Nat → Nat

/-- The slice among `n` that the hash gives a line (01/R13; log entry 15). -/
opaque homeHash : Nat → Nat → Nat → Nat

/-- The root port on a slice's die, by a hash of the 64 KiB page of which only the remainder by 6 is used (17/R377; log entry
15). -/
opaque portHash : Nat → Nat

/-- The energy measured for a context on a die in a window (10/R294; log entry 24). -/
opaque measuredEnergy : Nat → Nat → Nat → Nat

/-- Bytes through the root ports measured for a context in a window besides those of its lines: page walks and tables (14/R339;
log entry 24). -/
opaque otherBytes : Nat → Nat → Nat

/-- Whether the system software trusts a chain of certificates (16/R357; log entry 25). -/
opaque chainTrusted : List Byte → Bool

/-- The parts of a firmware image, whose layout the spec does not give (20/R434; log entry 25): what its signature covers,
together with its security version; the signature; its chain of certificates; the microcode it includes. -/
opaque imageBody : List Byte → Nat → List Byte
/-- See imageBody. -/
opaque imageSignature : List Byte → Nat × Nat
/-- See imageBody. -/
opaque imageChain : List Byte → List Byte
/-- See imageBody. -/
opaque imageMicrocode : List Byte → List Byte

/-- Whether a chain of certificates is that of a Lyssal key, up to the Lyssal root (20/R434; log entry 25). -/
opaque lyssalRooted : List Byte → Bool

/-- The device's private identity key, and the number an ECDSA signature of a message draws at an attempt (20/R435; log entry
26). -/
opaque identityKey : Nat
/-- See identityKey. -/
opaque signatureDraw : List Byte → Nat → Nat

/-- The certificate chain of the device (20/R435; log entry 26). -/
opaque certificateChain : List Byte

/-- The digest of the boot ROM (20/R436; log entry 26). -/
opaque bootRomDigest : List Byte

/-- The verdict of a slice's array tester at a time: none passes, some (upc, cause) is a mismatch with its detail word (20/R430;
log entry 29). -/
opaque selfTest : Nat → Nat → Option (Nat × Nat)

/-- Whether the results that a core's test has left do not match, at a time (20/R430; log entry 29). -/
opaque testMismatch : Nat → Nat → Bool

/-- Whether a link leads towards a device, directly or by way of others (19/R415; log entry 28). -/
opaque tieRoute : Nat → Nat → Bool

/-- Whether a link is on the tree of a reduction group (19/R418, R420; log entry 28). -/
opaque onTree : Word → Nat → Bool

/-- The slot in which the oldest waiting message of a mailbox stands: head address, time (14/R320; log entry 31). -/
opaque firstSlot : Nat → Nat → Nat

/-- What a patrol visit finds in a line at a time: 0 nothing, 1 a corrected error, 2 + sector an uncorrectable one
(20/R422; log entry 29). -/
opaque scrubFinds : Nat → Nat → Nat → Nat

/-- Which version of a code table a DEC uses whose cached lengths are no longer those in memory (10/R308; log entry 85). -/
opaque tableVersion : Nat → Bool

/-- A telemetry figure at a time: power, current, four junctions, inlet and outlet temperature (20/R437). -/
opaque telemetry : Nat → Nat → Nat

/-- The offset tag a return capability carries for a frame or trap record (04/R97; log entry 8). -/
opaque offsetTag : Nat → BitVec 15

/-- The corrected-error threshold per hour is 64 by default (20/R422). -/
def softThreshold : Nat := 64

/-- Physical cores per cluster and slices per die (20/R427). -/
def physCores : Nat := 50
/-- See physCores. -/
def physSlices : Nat := 25

end Sys2Proof.Config
end

