-- ==== Sys2Proof/Syntax.lean ====
section
/-! DEFINITION. The instructions of the F9, one constructor per row of the opcode table: the words with the fields of
their format (04/R75), and the steps of the device that have no word, each with the names of what it moves. -/

namespace Sys2Proof

/-- F-V3 (04/R75): guard and three 7-bit register fields. -/
structure FV3 where
  pg : BitVec 2
  d : BitVec 7
  a : BitVec 7
  b : BitVec 7
deriving DecidableEq, Repr

/-- F-VI (04/R75): guard, two register fields and IMM7. -/
structure FVI where
  pg : BitVec 2
  d : BitVec 7
  a : BitVec 7
  imm : BitVec 7
deriving DecidableEq, Repr

/-- F-RI (04/R75): guard, one register field and IMM16. -/
structure FRI where
  pg : BitVec 2
  d : BitVec 7
  imm : BitVec 16
deriving DecidableEq, Repr

/-- F-S3 (04/R75): three s registers and CF. -/
structure FS3 where
  sd : BitVec 6
  sa : BitVec 6
  sb : BitVec 6
  cf : BitVec 3
deriving DecidableEq, Repr

/-- F-SI (04/R75): two s registers and IMM11. -/
structure FSI where
  sd : BitVec 6
  sa : BitVec 6
  imm : BitVec 11
deriving DecidableEq, Repr

/-- F-BR (04/R75): SEL and OFF20; COND is the constructor, or the condition of BRU. -/
structure FBR where
  sel : BitVec 4
  off : BitVec 20
deriving DecidableEq, Repr

/-- F-M (04/R75): guard, data and offset registers, base SB and scale SC. -/
structure FM where
  pg : BitVec 2
  d : BitVec 7
  a : BitVec 7
  sb : BitVec 6
  sc : BitVec 1
deriving DecidableEq, Repr

/-- F-E (04/R75): handle, tile, parameter block, energy class and flags. -/
structure FE where
  h : BitVec 5
  mt : BitVec 4
  sa : BitVec 6
  ec : BitVec 2
  f : BitVec 6
deriving DecidableEq, Repr

/-- F-SY (04/R75): scope, order, two s registers and H. -/
structure FSY where
  scp : BitVec 3
  ord : BitVec 2
  sa : BitVec 6
  sb : BitVec 6
  h : BitVec 5
deriving DecidableEq, Repr

/-- The CSR form of F-SYS (04/R91): SRG, three reserved bits, CSRN. -/
structure FCSR where
  srg : BitVec 6
  rsv : BitVec 3
  csrn : BitVec 12
deriving DecidableEq, Repr

/-- The conditions of BRU (05/R115). -/
inductive Cond where
  | al | zr | nz | ng | nn | any | all | none
deriving DecidableEq, Repr

/-- The sizes of LD and LDS (06/R147). -/
inductive LoadSize where
  | b8 | s8 | b16 | s16 | b32 | b64 | b128
deriving DecidableEq, Repr

/-- The sizes of ST and STS (06/R148, R156). -/
inductive StoreSize where
  | b8 | b16 | b32 | b64 | b128
deriving DecidableEq, Repr

/-- The sizes of LDU and STU (06/R153). -/
inductive UniSize where
  | b32 | b64
deriving DecidableEq, Repr

/-- One request of a memory instruction: the instruction's number in its sheaf, the lane (or 1024 for a uniform
form) and the part (a b128 access is two parts, 06/R149). -/
structure AccId where
  seq : Nat
  lid : Nat
  part : Nat
deriving DecidableEq, Repr

/-- Who waits for a page: a core (17/R381, R382) or the launch arbiter of a die (14/R323). -/
inductive Requester where
  | core (c : Nat)
  | arbiter (die : Nat)
deriving DecidableEq, Repr

/-- A Page Request: requester, context on whose behalf, and 64 KiB page number (18/R404). -/
structure PageReq where
  who : Requester
  ctx : Nat
  page : Nat
deriving DecidableEq, Repr

/-- A write on its way to a home (08/R243): a drained access of a sheaf, or a destination unit of an engine operation. -/
inductive WriteId where
  | acc (uid : Nat) (a : AccId)
  | unit (op : Nat) (n : Nat)
  | part (op : Nat) (n k : Nat)
deriving DecidableEq, Repr

/-- For whom a home grants a copy (08/R245): the L1 that serves an access, or an engine operation. -/
inductive FillFor where
  | acc (uid : Nat) (a : AccId)
  | op (op : Nat) (line : Nat)
deriving DecidableEq, Repr

/-- What an engine operation does at a scratch step (08/R253): read its n-th operand range, or the k-th aligned 8 bytes of it;
write the n-th unit of its destination, or the k-th aligned 8 bytes of it. -/
inductive EngAct where
  | read (n : Nat)
  | readPart (n k : Nat)
  | write (n : Nat)
  | writePart (n k : Nat)
deriving DecidableEq, Repr

/-- A system command (17/R380, 20/R428): its context, operands and status address. -/
structure Cmd where
  ctx : Word
  a : DWord
  b : DWord
  stat : DWord
deriving DecidableEq, Repr

/-- What a tie flit's payload stands for; the spec gives the payload no layout (log entry 28): the bytes of a remote
operation's n-th range; the refusal of one; a write or a read of a context of this device; a partial of a reduction that
stands for `n` contributions, its elements in the format `fmt`, or for a floating-point sum in XA320 (V, then the flags). -/
inductive Carry where
  | nothing
  | readData (op : Nat) (n : Nat) (bytes : List Byte)
  | refused (op : Nat) (addr : DWord)
  | remoteWrite (ctx va : Nat) (bytes : List Byte)
  | remoteRead (ctx va n : Nat)
  | partialOf (gid : Nat) (dev : Nat) (rows cols : Nat) (op : BitVec 2) (ty fmt : BitVec 5) (n : Nat) (elems : List (List Byte))
deriving DecidableEq, Repr

/-- A reduction group record (19/R418). -/
structure GroupRec where
  gid : Word
  ncont : Nat
  rootDev : Nat
  rootCtx : Nat
  op : BitVec 8
  ty : BitVec 5
  rows : Nat
  cols : Nat
  epoch : Word
deriving DecidableEq, Repr

/-- A firmware image (20/R434): security version, build number (the newer image has the greater one), bytes. -/
structure FwImage where
  svn : Nat
  build : Nat
  bytes : List Byte
deriving DecidableEq, Repr

/-- A load request (16/R363): the context, the file, the address at which each section is placed and after these each
into the loaded object of the same name, for a swap (16/R370). -/
structure LoadReq where
  ctx : Nat
  file : List Byte
  place : List Nat
  needSig : Bool
  rslv : List Byte
  rslvPlace : List Nat
  swap : Bool
deriving DecidableEq, Repr

/-- The instructions and steps of the F9, one constructor per row of spec/opcode_table.json. -/
inductive Instr where
  /-- R110. Raises trap cause 0x10 with TRAPA set to the code. -/
  | trap (imm : BitVec 21)
  /-- R110. Raises trap cause 0x11 with TRAPA set to the code. -/
  | brk (imm : BitVec 21)
  /-- R111. Marks a safe point; stops the sheaf there if a pre-emption request is pending. -/
  | safe (imm : BitVec 21)
  /-- R112. Makes the sheaf issue nothing until TIME reaches its issue time plus the duration. -/
  | sleep (imm : BitVec 21)
  /-- R115. Moves the whole current path to the target when its condition holds. -/
  | bru (cond : Cond) (o : FBR)
  /-- R33. Splits the current path on a predicate into taken and fall-through paths and compacts their lanes. -/
  | brd (o : FBR)
  /-- R33. Pushes a reconvergence record with the target as RPC and links the current path to it. -/
  | rcv (o : FBR)
  /-- R118. Pushes a call frame and transfers to a target in the same segment. -/
  | call (o : FBR)
  /-- R118. Checks an entry capability, pushes a call frame and transfers to the entry of its segment. -/
  | callx (o : FBR)
  /-- R119. Pops the top call frame, returns to its return point and re-links the path. -/
  | ret (o : FBR)
  /-- R121. Jumps through a bounded table of offsets indexed by an s register. -/
  | jtab (o : FBR)
  /-- R122. Writes the 32-bit sum of two s registers. -/
  | saluAdd (o : FS3)
  /-- R122. Writes the 32-bit difference of two s registers. -/
  | saluSub (o : FS3)
  /-- R122. Writes the low 32 bits of the product of two s registers. -/
  | saluMul (o : FS3)
  /-- R122. Writes the high 32 bits of the signed product. -/
  | saluMulh (o : FS3)
  /-- R122. Writes the high 32 bits of the unsigned product. -/
  | saluMulhn (o : FS3)
  /-- R122. Writes the bitwise AND of two s registers. -/
  | saluAnd (o : FS3)
  /-- R122. Writes the bitwise OR of two s registers. -/
  | saluOr (o : FS3)
  /-- R122. Writes the bitwise XOR of two s registers. -/
  | saluXor (o : FS3)
  /-- R122. Writes a AND NOT b. -/
  | andn (o : FS3)
  /-- R122. Shifts an s register left by the low five bits of the count. -/
  | saluShl (o : FS3)
  /-- R122. Shifts an s register right with zero fill. -/
  | saluShr (o : FS3)
  /-- R122. Shifts an s register right with sign fill. -/
  | saluSar (o : FS3)
  /-- R122. Rotates an s register left. -/
  | rotl (o : FS3)
  /-- R122. Writes the signed minimum. -/
  | saluMin (o : FS3)
  /-- R122. Writes the signed maximum. -/
  | saluMax (o : FS3)
  /-- R122. Writes the unsigned minimum. -/
  | minn (o : FS3)
  /-- R122. Writes the unsigned maximum. -/
  | maxn (o : FS3)
  /-- R122. Writes 1 if a is below b as signed, else 0. -/
  | slt (o : FS3)
  /-- R122. Writes 1 if a is below b as unsigned, else 0. -/
  | sltn (o : FS3)
  /-- R122. Writes 1 if a equals b, else 0. -/
  | seq (o : FS3)
  /-- R122. Selects a or b by the destination register's value. -/
  | saluSel (o : FS3)
  /-- R122. Writes the number of leading zeros. -/
  | clz (o : FS3)
  /-- R122. Writes the number of one bits. -/
  | popc (o : FS3)
  /-- R122. Writes the bit-reversed value. -/
  | brev (o : FS3)
  /-- R123. Adds two 64-bit s pairs. -/
  | add64 (o : FS3)
  /-- R123. Subtracts two 64-bit s pairs. -/
  | sub64 (o : FS3)
  /-- R123. Shifts a 64-bit s pair left. -/
  | shl64 (o : FS3)
  /-- R123. Shifts a 64-bit s pair right with zero fill. -/
  | shr64 (o : FS3)
  /-- R124. Adds an immediate to an s register. -/
  | saluiAddi (o : FSI)
  /-- R124. ANDs an s register with an immediate. -/
  | saluiAndi (o : FSI)
  /-- R124. ORs an s register with an immediate. -/
  | saluiOri (o : FSI)
  /-- R124. XORs an s register with an immediate. -/
  | saluiXori (o : FSI)
  /-- R124. Shifts an s register left by an immediate. -/
  | saluiShli (o : FSI)
  /-- R124. Shifts an s register right with zero fill by an immediate. -/
  | saluiShri (o : FSI)
  /-- R124. Shifts an s register right with sign fill by an immediate. -/
  | saluiSari (o : FSI)
  /-- R124. Writes an immediate to an s register. -/
  | saluiMovi (o : FSI)
  /-- R124. Sets bits 31 to 21 from the immediate and keeps the low 21 bits. -/
  | saluiMovhi (o : FSI)
  /-- R124. Writes 1 if a is below the immediate as signed. -/
  | slti (o : FSI)
  /-- R125. Adds per lane, wrapping or saturating under TY. -/
  | vintAdd (o : FV3)
  /-- R125. Subtracts per lane, wrapping or saturating under TY. -/
  | vintSub (o : FV3)
  /-- R125. Adds with carry in and out through k15. -/
  | addc (o : FV3)
  /-- R125. Subtracts with borrow in and out through k15. -/
  | subb (o : FV3)
  /-- R125. Writes the low 32 bits of the per-lane product. -/
  | vintMul (o : FV3)
  /-- R125. Writes the high 32 bits of the signed per-lane product. -/
  | vintMulh (o : FV3)
  /-- R125. Writes the high 32 bits of the unsigned per-lane product. -/
  | vintMulhn (o : FV3)
  /-- R125. Multiplies and adds into the destination per lane. -/
  | mad (o : FV3)
  /-- R125. Per-lane bitwise AND. -/
  | vintAnd (o : FV3)
  /-- R125. Per-lane bitwise OR. -/
  | vintOr (o : FV3)
  /-- R125. Per-lane bitwise XOR. -/
  | vintXor (o : FV3)
  /-- R125. Per-lane shift left. -/
  | vintShl (o : FV3)
  /-- R125. Per-lane shift right with zero fill. -/
  | vintShr (o : FV3)
  /-- R125. Per-lane shift right with sign fill. -/
  | vintSar (o : FV3)
  /-- R126. Per-lane minimum under TY. -/
  | vintMin (o : FV3)
  /-- R126. Per-lane maximum under TY. -/
  | vintMax (o : FV3)
  /-- R127. Adds an immediate per lane. -/
  | vintiAddi (o : FVI)
  /-- R127. ANDs with an immediate per lane. -/
  | vintiAndi (o : FVI)
  /-- R127. ORs with an immediate per lane. -/
  | vintiOri (o : FVI)
  /-- R127. XORs with an immediate per lane. -/
  | vintiXori (o : FVI)
  /-- R127. Shifts left by an immediate per lane. -/
  | vintiShli (o : FVI)
  /-- R127. Shifts right with zero fill by an immediate per lane. -/
  | vintiShri (o : FVI)
  /-- R127. Shifts right with sign fill by an immediate per lane. -/
  | vintiSari (o : FVI)
  /-- R127. Multiplies by an immediate per lane. -/
  | muli (o : FVI)
  /-- R128. Writes a sign-extended 16-bit or extended immediate to a v register. -/
  | vriMovi (o : FRI)
  /-- R128. Sets the high half of a v register from the immediate. -/
  | vriMovhi (o : FRI)
  /-- R128. Adds a sign-extended immediate to a v register. -/
  | addi16 (o : FRI)
  /-- R129. FP32 addition rounded once. -/
  | fadd (o : FV3)
  /-- R129. FP32 subtraction rounded once. -/
  | fsub (o : FV3)
  /-- R129. FP32 multiplication rounded once. -/
  | fmul (o : FV3)
  /-- R52. IEEE minimumNumber. -/
  | fmin (o : FV3)
  /-- R52. IEEE maximumNumber. -/
  | fmax (o : FV3)
  /-- R52. IEEE minimum, NaN-propagating. -/
  | fminm (o : FV3)
  /-- R52. IEEE maximum, NaN-propagating. -/
  | fmaxm (o : FV3)
  /-- R129. Copies the sign of b onto a. -/
  | fcps (o : FV3)
  /-- R129. Rounds to an integral value towards minus infinity. -/
  | fflr (o : FV3)
  /-- R129. Rounds to an integral value towards plus infinity. -/
  | fceil (o : FV3)
  /-- R129. Rounds to an integral value, ties to even. -/
  | frne (o : FV3)
  /-- R129. Rounds to an integral value towards zero. -/
  | ftrn (o : FV3)
  /-- R129. Clears the sign bit. -/
  | fabs (o : FV3)
  /-- R129. Inverts the sign bit. -/
  | fneg (o : FV3)
  /-- R129. Clamps to the range +0 to 1.0. -/
  | fsat (o : FV3)
  /-- R129. Scales by a power of two and rounds once. -/
  | fscl (o : FV3)
  /-- R130. Fused a times b plus d, rounded once. -/
  | fma (o : FV3)
  /-- R130. Fused a times b minus d, rounded once. -/
  | fms (o : FV3)
  /-- R130. Fused minus a times b minus d, rounded once. -/
  | fnma (o : FV3)
  /-- R130. Fused minus a times b plus d, rounded once. -/
  | fnms (o : FV3)
  /-- R130. Two independent FP16 fused multiply-adds. -/
  | hfma2 (o : FV3)
  /-- R130. Two independent BF16 fused multiply-adds. -/
  | bfma2 (o : FV3)
  /-- R130. Four E4M3 products added exactly to an FP32 accumulator. -/
  | dot4e4 (o : FV3)
  /-- R130. Four E5M2 products added exactly to an FP32 accumulator. -/
  | dot4e5 (o : FV3)
  /-- R130. Four s8 products added to an s32 accumulator, wrapping. -/
  | dot4i (o : FV3)
  /-- R130. Two FP16 products added exactly to an FP32 accumulator. -/
  | dot2h (o : FV3)
  /-- R132. Converts one value between float formats. -/
  | cvtf (o : FV3)
  /-- R132. Converts one value between integer and float or integer types. -/
  | cvti (o : FV3)
  /-- R133. Converts FP32 values and packs them into one register. -/
  | cvtp (o : FV3)
  /-- R134. Expands storage-format codes exactly to E4M3 or BF16. -/
  | expn (o : FV3)
  /-- R134. Expands 4-bit lookup codes through a per-lane table. -/
  | lutx (o : FV3)
  /-- R135. Writes the MX scale code for a block maximum. -/
  | mxsc (o : FV3)
  /-- R136. Sets a predicate where a equals b. -/
  | feq (o : FV3)
  /-- R136. Sets a predicate where a does not equal b. -/
  | fne (o : FV3)
  /-- R136. Sets a predicate where a is below b, signalling. -/
  | flt (o : FV3)
  /-- R136. Sets a predicate where a is at most b, signalling. -/
  | fle (o : FV3)
  /-- R136. Sets a predicate where either operand is NaN. -/
  | fun (o : FV3)
  /-- R137. Sets a predicate where the operand's class is in the mask. -/
  | fcls (o : FV3)
  /-- R136. Integer equality predicate. -/
  | ieq (o : FV3)
  /-- R136. Integer inequality predicate. -/
  | ine (o : FV3)
  /-- R136. Signed less-than predicate. -/
  | ilt (o : FV3)
  /-- R136. Signed less-or-equal predicate. -/
  | ile (o : FV3)
  /-- R136. Unsigned less-than predicate. -/
  | iltn (o : FV3)
  /-- R136. Unsigned less-or-equal predicate. -/
  | ilen (o : FV3)
  /-- R138. Per-lane predicate AND. -/
  | kand (o : FV3)
  /-- R138. Per-lane predicate OR. -/
  | kor (o : FV3)
  /-- R138. Per-lane predicate XOR. -/
  | kxor (o : FV3)
  /-- R138. Per-lane predicate AND NOT. -/
  | kandn (o : FV3)
  /-- R138. Per-lane predicate NOT. -/
  | knot (o : FV3)
  /-- R138. Per-lane predicate move. -/
  | kmov (o : FV3)
  /-- R138. Sets a predicate to an immediate bit. -/
  | kset (o : FV3)
  /-- R138. Writes to s the count of lanes with the predicate true. -/
  | kcnt (o : FV3)
  /-- R138. Writes to s the LID of the first lane with the predicate true. -/
  | kfirst (o : FV3)
  /-- R138. Writes to s whether every lane has the predicate true. -/
  | kall (o : FV3)
  /-- R138. Writes to s whether some lane has the predicate true. -/
  | kany (o : FV3)
  /-- R139. Copies a v register or a broadcast s value to each lane. -/
  | mov (o : FV3)
  /-- R139. Selects per lane between two operands by a predicate. -/
  | vmovSel (o : FV3)
  /-- R140. Reads a lane of the stalk by index. -/
  | shfl (o : FV3)
  /-- R140. Reads a lane of the stalk by XOR of the position. -/
  | shflx (o : FV3)
  /-- R140. Reads the lane a distance below in the stalk. -/
  | shflup (o : FV3)
  /-- R140. Reads the lane a distance above in the stalk. -/
  | shfldn (o : FV3)
  /-- R141. Writes to s the value of the first active lane. -/
  | rdfl (o : FV3)
  /-- R141. Writes to s the value of the lane with a given LID. -/
  | rdln (o : FV3)
  /-- R141. Broadcasts the value of the lane with a given LID to each lane. -/
  | bcst (o : FV3)
  /-- R139. Writes each lane's identity. -/
  | lid (o : FV3)
  /-- R139. Writes each lane's position. -/
  | lpos (o : FV3)
  /-- R142. Computes 2 to the power x. -/
  | exp2 (o : FV3)
  /-- R142. Computes the base-2 logarithm. -/
  | log2 (o : FV3)
  /-- R142. Computes the correctly rounded reciprocal. -/
  | rcp (o : FV3)
  /-- R142. Computes the reciprocal square root. -/
  | rsq (o : FV3)
  /-- R142. Computes the correctly rounded square root. -/
  | sqrt (o : FV3)
  /-- R142. Computes sin 2 pi x. -/
  | sin2pi (o : FV3)
  /-- R142. Computes cos 2 pi x. -/
  | cos2pi (o : FV3)
  /-- R142. Computes tanh x. -/
  | tanh (o : FV3)
  /-- R147. Loads size bytes per lane from global or slice memory. -/
  | ld (sz : LoadSize) (o : FM)
  /-- R153. Uniform load of 32 or 64 bits into s registers. -/
  | ldu (sz : UniSize) (o : FM)
  /-- R148. Stores size bytes per lane to global or slice memory. -/
  | st (sz : StoreSize) (o : FM)
  /-- R153. Uniform store of 32 or 64 bits from s registers. -/
  | stu (sz : UniSize) (o : FM)
  /-- R156. Loads from own or peer scratch per lane. -/
  | lds (sz : LoadSize) (o : FM)
  /-- R156. Stores to own or peer scratch per lane. -/
  | sts (sz : StoreSize) (o : FM)
  /-- R160. Atomic add returning the old word. -/
  | aadd (o : FM)
  /-- R160. Atomic signed minimum. -/
  | amin (o : FM)
  /-- R160. Atomic signed maximum. -/
  | amax (o : FM)
  /-- R160. Atomic unsigned minimum. -/
  | aminn (o : FM)
  /-- R160. Atomic unsigned maximum. -/
  | amaxn (o : FM)
  /-- R160. Atomic AND. -/
  | aand (o : FM)
  /-- R160. Atomic OR. -/
  | aor (o : FM)
  /-- R160. Atomic XOR. -/
  | axor (o : FM)
  /-- R160. Atomic exchange. -/
  | axchg (o : FM)
  /-- R161. Atomic compare and swap. -/
  | acas (o : FM)
  /-- R162. Atomic FP32 add rounded once under rne. -/
  | afadd (o : FM)
  /-- R162. Atomic add of two BF16 halves. -/
  | abfadd2 (o : FM)
  /-- R94. Loads a 32-bit literal into an s register. -/
  | ldls (o : FRI)
  /-- R94. Loads a 32-bit literal into a v register of each lane. -/
  | ldlv (o : FRI)
  /-- R94. Loads a 64-bit literal into an s pair. -/
  | ldl64 (o : FRI)
  /-- R196. Per-lane copy from global or slice memory to own scratch. -/
  | lg2s (o : FE)
  /-- R196. Per-lane copy from own scratch to global or slice memory. -/
  | ls2g (o : FE)
  /-- R197. Copies one tile between tensor-table entries, optionally converting. -/
  | bulk (o : FE)
  /-- R199. Copies one tile into the scratch of each named stook member. -/
  | mcast (o : FE)
  /-- R201. Decodes an LSC stream into a BMP64 tile. -/
  | dec (o : FE)
  /-- R200. Copies bytes from own scratch into a peer member's scratch. -/
  | peer (o : FE)
  /-- R202. Declares a global range dead and drops its lines without write-back. -/
  | dscd (o : FE)
  /-- R203. Brings a global range into L2. -/
  | pref (o : FE)
  /-- R204. Sends a tile as one contribution to a fabric reduction group. -/
  | red (o : FE)
  /-- R206. Dense matrix multiply-accumulate into an accumulator tile. -/
  | mma (o : FE)
  /-- R206. Dense matrix multiply with C taken as +0. -/
  | mmaz (o : FE)
  /-- R208. Loads an accumulator tile from own scratch. -/
  | mmld (o : FE)
  /-- R208. Stores an accumulator tile to own scratch, optionally converting. -/
  | mmst (o : FE)
  /-- R208. Clears an accumulator tile to zero. -/
  | mmcl (o : FE)
  /-- R209. Converts an accumulator tile to scaled blocks. -/
  | mmcv (o : FE)
  /-- R210. Sparse matrix multiply-accumulate over the present elements of B. -/
  | mmsp (o : FE)
  /-- R211. Prunes a dense tile to k of g entries and writes the sparse form. -/
  | spcmp (o : FE)
  /-- R212. Asks for a bitmap tile to be compiled in the pattern cache. -/
  | pcomp (o : FE)
  /-- R212. Drops a pattern-cache entry. -/
  | pinv (o : FE)
  /-- R212. Writes the non-zero count of a tile to an s register. -/
  | nnz (o : FE)
  /-- R214. Appends the kept rows of an activation tile to a winnow stream. -/
  | wnw (o : FE)
  /-- R215. Flushes the partial tile of a winnow stream. -/
  | wnf (o : FE)
  /-- R216. Scatters result rows back to token order. -/
  | wnx (o : FE)
  /-- R164. Places release and or acquire markers at a scope. -/
  | fence (o : FSY)
  /-- R167. Releases, drops the ASID's L1 lines and then acquires. -/
  | fencesc (o : FSY)
  /-- R168. Holds the next engine command until earlier writes are performed. -/
  | ofence (o : FSY)
  /-- R172. Arrives at a barrier word and waits for the phase. -/
  | bar (o : FSY)
  /-- R172. Arrives at a barrier word and writes a barrier handle. -/
  | bara (o : FSY)
  /-- R172. Waits on a barrier handle and acquires. -/
  | barw (o : FSY)
  /-- R172. Tests a barrier handle without waiting. -/
  | bart (o : FSY)
  /-- R175. Initialises a transaction barrier. -/
  | txbi (o : FSY)
  /-- R175. Adds expected sectors to a transaction barrier. -/
  | txbe (o : FSY)
  /-- R175. Releases, adds sectors and arrives at a transaction barrier. -/
  | txba (o : FSY)
  /-- R175. Waits until a transaction barrier's phase moves on and acquires. -/
  | txbw (o : FSY)
  /-- R175. Reads the low word of a transaction barrier. -/
  | txbt (o : FSY)
  /-- R178. Waits until a scratch word meets a condition and acquires. -/
  | waita (o : FSY)
  /-- R182. Waits until a handle is complete and writes its status. -/
  | hwait (o : FSY)
  /-- R182. Writes a handle's status without waiting. -/
  | htest (o : FSY)
  /-- R183. Requests cancellation of a pending operation. -/
  | hcan (o : FSY)
  /-- R184. Exports a handle as a token. -/
  | hexp (o : FSY)
  /-- R184. Imports a handle from a token. -/
  | himp (o : FSY)
  /-- R218. Joins or creates a named stook with a member index. -/
  | sjoin (o : FS3)
  /-- R219. Leaves the sheaf's stook. -/
  | sleave (o : FS3)
  /-- R220. Writes stook information selected by CF. -/
  | sinfo (o : FS3)
  /-- R221. Subscribes an own range to a publisher's region. -/
  | ssub (o : FS3)
  /-- R222. Removes a subscription. -/
  | sunsub (o : FS3)
  /-- R222. Waits until a subscription is live and acquires. -/
  | ssync (o : FS3)
  /-- R225. Starts the lane's iteration state of a nest level. -/
  | nbeg (o : FVI)
  /-- R225. Advances the lane to its next iteration of a nest level. -/
  | nxt (o : FVI)
  /-- R225. Writes the lane's current index of a nest level. -/
  | nidx (o : FVI)
  /-- R227. Waits until every agent of the iteration has arrived. -/
  | nbar (o : FVI)
  /-- R228. Contributes to, or collects, the exact reduction of a nest iteration. -/
  | nred (o : FVI)
  /-- R229. Broadcasts iteration 0's value to the inner iterations. -/
  | nbc (o : FVI)
  /-- R230. Writes MAPL and EXTL of a level to an s pair. -/
  | nmap (o : FVI)
  /-- R230. Writes the offset and member of the level-local memory. -/
  | nllm (o : FVI)
  /-- R231. Enqueues one task per active lane in the cluster's task queue. -/
  | spawn (o : FV3)
  /-- R232. Posts a launch packet from own scratch to a launch port. -/
  | launch (o : FV3)
  /-- R233. Ends the active task lanes. -/
  | tdone (o : FV3)
  /-- R234. Reads a CSR into an s register. -/
  | csrr (o : FCSR)
  /-- R234. Writes a CSR from an s register. -/
  | csrw (o : FCSR)
  /-- R234. Sets CSR bits from an s register. -/
  | csrs (o : FCSR)
  /-- R234. Clears CSR bits from an s register. -/
  | csrc (o : FCSR)
  /-- R235. Posts a message from own scratch to a mailbox. -/
  | mpost (o : FS3)
  /-- R235. Takes the head message of a mailbox into own scratch. -/
  | mtake (o : FS3)
  /-- R235. Writes the length of a mailbox's head message. -/
  | mpeek (o : FS3)
  /-- R81. Extension word supplying a 32-bit immediate. -/
  | ximm (payload : BitVec 24)
  /-- R82. Extension word supplying further register operands and broadcast bits. -/
  | xreg (payload : BitVec 24)
  /-- R83. Extension word setting the guard predicate. -/
  | xprd (payload : BitVec 24)
  /-- R84. Extension word carrying rounding, flush, saturation and formats. -/
  | xmod (payload : BitVec 24)
  /-- R86. Extension word carrying space, scope, order, hint and member. -/
  | xmem (payload : BitVec 24)
  /-- R87. Extension word carrying issue-selector hints. -/
  | xsch (payload : BitVec 24)
  /-- R88. Extension word adding a signed byte offset to an access. -/
  | xoff (payload : BitVec 24)
  /-- R108. Does nothing. -/
  | nop
  /-- R109. Every lane of the current path leaves the sheaf and the path ends. -/
  | exit
  /-- R33. Moves the current path below the lowest pending path of its record and makes the top pending path current. -/
  | yld
  /-- R113. Returns from a trap handler through TRAPE and ends handler state. -/
  | eret
  /-- R114. Holds the next fetch until earlier accesses are performed and discards cached instruction lines and literals. -/
  | ifence
  /-- R96. The core fetches the next instruction unit of a path. -/
  | fetch (uid : Nat)
  /-- R381. A Success response arrives and parked sheaves or log entries replay. -/
  | pageResponseSuccess (r : PageReq)
  /-- R381. An Invalid Request response arrives and the fault becomes a trap. -/
  | pageResponseInvalidRequest (r : PageReq)
  /-- R151. Waiting lane requests leave the gather collector after 64 cycles or at 512 requests. -/
  | gatherFlush (core : Nat)
  /-- R42. A late data fault in a memory-side TLB logs the lane's access in the operand log. -/
  | operandLogEntry (uid : Nat) (a : AccId)
  /-- R384. A serviced operand-log entry is replayed and its destination written. -/
  | operandLogReplay (uid : Nat) (seq : Nat)
  /-- R42. An unserviceable logged access traps at the sheaf's next instruction boundary. -/
  | lateTrap (uid : Nat)
  /-- R242. A store buffer entry is written into L1 and sent towards its home. -/
  | storeDrain (uid : Nat) (a : AccId)
  /-- R243. A write takes effect at its line's home and returns GWCT. -/
  | homeWritePerform (w : WriteId)
  /-- R244. A load takes its value from the store buffer, an L1 copy or the home. -/
  | loadPerform (uid : Nat) (a : AccId)
  /-- R247. A global atomic is performed at the home as one read and write. -/
  | atomicPerform (uid : Nat) (a : AccId)
  /-- R250. A slice-memory access is performed at its slice in arrival order. -/
  | sliceAccessPerform (uid : Nat) (a : AccId)
  /-- R245. A home grants a leased copy of a line to an L1 or an engine read. -/
  | fill (f : FillFor)
  /-- R246. An L1 copy leaves before its core's reading reaches its lease end plus 2 ns. -/
  | expire (l1 asid line : Nat)
  /-- R251. The head request of a scratch channel is performed at the target scratchpad. -/
  | deliver (src dst : Nat)
  /-- R279. An open subscription batch is sent after 32 cycles, when full, or at a release. -/
  | batchSend (sub batch : Nat)
  /-- R252. A sent subscription batch is applied to the subscriber's copy and acknowledged. -/
  | forward (sub batch : Nat)
  /-- R255. A release, acquire or waiting marker has its condition met and is satisfied. -/
  | wait (uid : Nat) (seq : Nat)
  /-- R253. An engine operation finishes: TXB decrement, flag store, then handle status. -/
  | complete (op : Nat)
  /-- R199. The transfer of a multicast to one member starts after its membership check. -/
  | mcastTransferStart (op member : Nat)
  /-- R285. A matrix operation commits one row of 64 results to its tile. -/
  | rowCommit (op : Nat)
  /-- R290. A matrix engine that commits no row for 65,536 cycles is reset and replays. -/
  | mmStallReset (core : Nat)
  /-- R299. A pattern compile finishes and the entry becomes COMPILED or DENSE. -/
  | patternCompileDone (core entry : Nat)
  /-- R293. At each 1 µs window the power manager refills BUD less the measured shortfall. -/
  | energyWindow (die : Nat)
  /-- R112. A sleeping sheaf becomes able to issue when TIME reaches its end. -/
  | sleepWake (uid : Nat)
  /-- R390. A pre-emption request reaches a core and names sheaves to stop. -/
  | preemptRequest (uids : List Nat)
  /-- R390. PRETO cycles pass and the sheaf stops at the next instruction boundary. -/
  | pretoExpiry (uid : Nat)
  /-- R262. A saved sheaf is placed again and resumes behind an acquire at device scope. -/
  | sheafResume (uid core : Nat)
  /-- R262. The tiller moves a sheaf between cores of its cluster. -/
  | sheafMigrate (uid core : Nat)
  /-- R282. A dirty sector is fetched from the publisher and its bit cleared. -/
  | subscriptionResyncFetch (sub sector : Nat)
  /-- R320. A host write of one whole message to a mailbox's POST field. -/
  | hostPost (fn off : Nat) (bytes : List Byte)
  /-- R323. The arbiter takes a packet from a launch port and checks it. -/
  | launchPacketCheck (port : Nat)
  /-- R324. The arbiter reads an event word as an acquire and may satisfy a dependence. -/
  | dependenceRead (launch dep : Nat)
  /-- R338. The arbiter admits a sheaf or stook unit under the context's budgets. -/
  | sheafAdmit (launch cluster : Nat)
  /-- R340. The tiller places an admitted sheaf on a core where its allotments fit. -/
  | sheafPlace (uid core : Nat)
  /-- R335. A task group closes at 32 tasks or 2 µs and becomes one sheaf. -/
  | groupClose (cluster group : Nat)
  /-- R22. A draining sheaf finishes draining and its allotments are released. -/
  | drainEnd (uid : Nat)
  /-- R325. A complete launch increments its completion word as a release at system scope. -/
  | launchComplete (launch : Nat)
  /-- R379. Removes cached translations and lines of a range and waits out their leases. -/
  | shoot (c : Cmd)
  /-- R392. Stops every sheaf of a context and writes its context image. -/
  | ctxsave (c : Cmd)
  /-- R398. Checks and restores a context image and queues its sheaves. -/
  | ctxload (c : Cmd)
  /-- R387. Drains a halted sheaf. -/
  | shend (c : Cmd)
  /-- R399. Turns dirty-page logging on or off for a function. -/
  | dirtset (c : Cmd)
  /-- R400. Writes back, returns and clears the dirty bits of a range of pages. -/
  | dirtclr (c : Cmd)
  /-- R380. Creates a mailbox in a granted slice-memory window. -/
  | mbxmake (c : Cmd)
  /-- R380. Frees a mailbox and discards its waiting messages. -/
  | mbxfree (c : Cmd)
  /-- R432. Changes a slice's cache and slice-memory ways. -/
  | slflush (c : Cmd)
  /-- R429. Takes a core, cluster or slice out of service. -/
  | quiesce (c : Cmd)
  /-- R430. Runs built-in self-test on a quiesced target. -/
  | test (c : Cmd)
  /-- R428. Maps a spare in or a part out in the repair map. -/
  | remap (c : Cmd)
  /-- R428. Returns a repaired target to service. -/
  | resume (c : Cmd)
  /-- R363. The loader places, relocates and seals the segments of an object. -/
  | segmentLoad (r : LoadReq)
  /-- R370. The loader swaps a segment for a new translation and retires it. -/
  | segmentRetire (ctx old new : Nat)
  /-- R372. An unload frees the object's segments whose REFC is 0, or returns BUSY. -/
  | unload (ctx obj : Nat)
  /-- R372. A forced unload revokes the object's segments and clears its slots and cells. -/
  | forcedUnload (ctx obj : Nat)
  /-- R105. The management controller writes SEQM and may start sequencer mode. -/
  | seqmWrite (core : Nat) (v : Word)
  /-- R104. The sequencer executes one microword and selects the next. -/
  | microword (core : Nat)
  /-- R431. Firmware writes WAYMK, setting a pending way mask for a slice. -/
  | waymkWrite (die : Nat) (v : Word)
  /-- R414. A root port receives the CXL.mem completion of a pooled-memory write. -/
  | poolWriteCompletion (asid line : Nat)
  /-- R414. The pool returns poisoned data and the requester receives an error response. -/
  | poisonResponse (asid line : Nat) (sectors : BitVec 4)
  /-- R412. The fabric manager assigns a dynamic-capacity extent to the device. -/
  | extentAdd (base len port : Nat)
  /-- R413. The fabric manager asks the device to release an extent. -/
  | extentReleaseRequest (base : Nat)
  /-- R416. The fabric manager installs a binding of a local context to a remote device. -/
  | fabricBindingInstall (ctx rdev rctx : Nat)
  /-- R418. The fabric manager installs a reduction group record. -/
  | reductionGroupInstall (g : GroupRec)
  /-- R415. An idle flit arrives on a tie link. -/
  | tieFlitIdle (link : Nat) (flit : List Byte)
  /-- R415. A request flit arrives on a tie link. -/
  | tieFlitRequest (link : Nat) (flit : List Byte) (carry : Carry)
  /-- R415. A data flit arrives on a tie link. -/
  | tieFlitData (link : Nat) (flit : List Byte) (carry : Carry)
  /-- R415. An acknowledgement and credit flit arrives on a tie link. -/
  | tieFlitAckCredit (link : Nat) (flit : List Byte)
  /-- R419. A reduction partial flit arrives and is combined exactly. -/
  | tieFlitReductionPartial (link : Nat) (flit : List Byte) (carry : Carry)
  /-- R415. After 8 failed replays of one flit the link is declared down. -/
  | linkDeclaredDown (link : Nat)
  /-- R417. A remote device acknowledges a write once its reading reaches GWCT plus 4. -/
  | remoteWriteAck (op n : Nat)
  /-- R419. The root rounds a full round once, writes the result and advances EPOCH. -/
  | reductionRoundClose (gid : Word)
  /-- R420. A lost link or abort discards the open reduction round. -/
  | groupAbort (gid : Word)
  /-- R435. SPDM request for supported versions. -/
  | getVersion
  /-- R435. SPDM request for capabilities. -/
  | getCapabilities
  /-- R435. SPDM algorithm negotiation. -/
  | negotiateAlgorithms
  /-- R435. SPDM request for certificate chain digests. -/
  | getDigests
  /-- R435. SPDM request for the certificate chain. -/
  | getCertificate
  /-- R435. SPDM challenge signed with the identity key. -/
  | challenge (nonce : List Byte)
  /-- R436. SPDM request for the signed measurement blocks. -/
  | getMeasurements (index : Nat)
  /-- R422. Patrol scrubbing visits and corrects an L2 line. -/
  | patrolScrub (asid line : Nat)
  /-- R437. Power, current and temperature telemetry is reported every 10 ms. -/
  | telemetryReport
  /-- R437. A junction above 100 °C lowers that die's clock. -/
  | thermalThrottle (die : Nat)
  /-- R437. A junction at 115 °C stops every core from issuing. -/
  | thermalShutdown (die : Nat)
  /-- R437. Power is removed 1 s after a thermal shutdown. -/
  | powerRemoval
  /-- R434. The boot ROM starts the newest valid firmware image at power-on. -/
  | boot
  /-- R434. An update writes and verifies the inactive firmware image. -/
  | firmwareUpdate (img : FwImage)
  /-- R434. Activation restarts the management controller on the new image. -/
  | firmwareActivate
  /-- R78. A fetched word that decodes to no assigned form (MAJ 0x1E, an unassigned OPX, XW kind 7, a non-zero reserved field or value) traps at decode with cause 0x01 or 0x02 and has no effect. -/
  | illegalInstruction (w : Word)
  /-- R380. A system command whose completion condition has come to hold stores its 16-byte status at the status address as a release at system scope. -/
  | commandCompletion (id : Nat)
  /-- R253. An engine operation reads its scratch operands, or writes a destination sector or winnow row into a scratchpad, at a step between its issue and its Complete. -/
  | engineScratchAccess (op : Nat) (act : EngAct)
  /-- R248. A line's home moves towards its most frequent user, carrying value, LEMAX, LL and write order in one step of the home. -/
  | homeMigration (asid line slice : Nat)
  /-- R423. The device evicts an L2 line and writes back its good dirty sectors to pooled memory. -/
  | l2LineEviction (asid line : Nat)
  /-- R406. A host memory write through BAR0 that is not one whole message to a POST field: it lands in a window's slice memory, is dropped, or is a partial post discarded with a fault record of reason 0x08. -/
  | hostBar0Write (fn off : Nat) (bytes : List Byte)
  /-- R16. The power manager lowers the arithmetic clock within the supply range to hold module power, or raises it again, changing timing only. -/
  | arithmeticClockChange (die mhz : Nat)
  /-- R434. The restarted management controller's new firmware image takes over and replaces the RATE values that each die kept during the restart. -/
  | newImageTakeover (rates : List Nat)
deriving DecidableEq, Repr

end Sys2Proof
end

