-- ==== Sys2Proof/WellFormed.lean ====
section
/-! DEFINITION. Which register class each form gives each field, which fields are reserved (04/R76, 05/R107), and which
instructions are well formed as words. What depends on the extension words before an instruction or on the sheaf's
allotments is checked at decode time by Machine/Operands.lean. -/

namespace Sys2Proof

/-- How a form reads one field (04/R76, R77). -/
inductive Use where
  | unused            -- reserved: must be zero
  | v (n : Nat)       -- first of a group of n v registers
  | s                 -- an s register
  | pair              -- an even/odd pair of s registers
  | block (n : Nat)   -- first of a parameter block of n s registers (07/R188)
  | k                 -- a k register
  | h                 -- a handle register
  | tile              -- an accumulator tile
  | imm               -- an immediate: every value
deriving DecidableEq, Repr

/-- Whether the instruction reads or writes the register at its issue (02/R31). -/
inductive Role where
  | rd | wr | rw
deriving DecidableEq, Repr

/-- One field of an instruction: its use, its role and its bits. -/
structure Field where
  use : Use
  role : Role
  val : Nat
deriving DecidableEq, Repr

/-- The bits the class leaves unread are zero (04/R76). -/
def Field.ok (f : Field) : Bool :=
  match f.use with
  | .unused => f.val == 0
  | .s | .pair | .block _ => f.val < 64
  | .k | .tile => f.val < 16
  | .h => f.val < 32
  | .v _ | .imm => true

/-- The D, A and B fields of an F-V3 word. -/
def FV3.fs (o : FV3) (d : Use) (r : Role) (a b : Use) : List Field :=
  [⟨d, r, o.d.toNat⟩, ⟨a, .rd, o.a.toNat⟩, ⟨b, .rd, o.b.toNat⟩]

/-- The D and A fields of an F-VI word. -/
def FVI.fs (o : FVI) (d a : Use) : List Field := [⟨d, .wr, o.d.toNat⟩, ⟨a, .rd, o.a.toNat⟩]

/-- The SD, SA and SB fields of an F-S3 word. -/
def FS3.fs (o : FS3) (d : Use) (r : Role) (a b : Use) : List Field :=
  [⟨d, r, o.sd.toNat⟩, ⟨a, .rd, o.sa.toNat⟩, ⟨b, .rd, o.sb.toNat⟩]

/-- The fields of an F-M word: data register, lane offset, base. -/
def FM.fs (o : FM) (d : Use) (r : Role) (a sb : Use) : List Field :=
  [⟨d, r, o.d.toNat⟩, ⟨a, .rd, o.a.toNat⟩, ⟨sb, .rd, o.sb.toNat⟩]

/-- The fields of an F-E word: handle, tile, parameter block. -/
def FE.fs (o : FE) (uh mt sa : Use) : List Field :=
  [⟨uh, .wr, o.h.toNat⟩, ⟨mt, .rw, o.mt.toNat⟩, ⟨sa, .rd, o.sa.toNat⟩]

/-- The SA, SB and H fields of an F-SY word. -/
def FSY.fs (o : FSY) (sa : Use) (ra : Role) (sb : Use) (rb : Role) (uh : Use) (rh : Role) : List Field :=
  [⟨sa, ra, o.sa.toNat⟩, ⟨sb, rb, o.sb.toNat⟩, ⟨uh, rh, o.h.toNat⟩]

/-- Registers of a load group (06/R147). -/
def LoadSize.regs : LoadSize → Nat
  | .b64 => 2 | .b128 => 4 | _ => 1

/-- Bytes of a load. -/
def LoadSize.bytes : LoadSize → Nat
  | .b8 | .s8 => 1 | .b16 | .s16 => 2 | .b32 => 4 | .b64 => 8 | .b128 => 16

/-- Registers of a store group (06/R148). -/
def StoreSize.regs : StoreSize → Nat
  | .b64 => 2 | .b128 => 4 | _ => 1

/-- Bytes of a store. -/
def StoreSize.bytes : StoreSize → Nat
  | .b8 => 1 | .b16 => 2 | .b32 => 4 | .b64 => 8 | .b128 => 16

/-- Bytes of a uniform access (06/R153). -/
def UniSize.bytes : UniSize → Nat
  | .b32 => 4 | .b64 => 8

/-- The s operand of a uniform access: one register or an even pair (06/R153). -/
def UniSize.use : UniSize → Use
  | .b32 => .s | .b64 => .pair

/-- NRED get:1 (07/R223). -/
def FVI.get (o : FVI) : Bool := o.imm.getLsbD 4

/-- The register fields of every word, in the order of its format, each with its class (05, 06, 07). A step without a
word has none. -/
def Instr.fields : Instr → List Field
  | .bru c o => (match c with
      | .al => [⟨.unused, .rd, o.sel.toNat⟩]
      | .zr | .nz | .ng | .nn => [⟨.s, .rd, o.sel.toNat⟩]
      | .any | .all | .none => [⟨.k, .rd, o.sel.toNat⟩])
  | .brd o => [⟨.k, .rd, o.sel.toNat⟩]
  | .rcv o | .call o => [⟨.unused, .rd, o.sel.toNat⟩]
  | .callx o => [⟨.pair, .rd, 2 * o.sel.toNat⟩, ⟨.unused, .rd, o.off.toNat⟩]
  | .ret o => [⟨.unused, .rd, o.sel.toNat⟩, ⟨.unused, .rd, o.off.toNat⟩]
  | .jtab o => [⟨.s, .rd, o.sel.toNat⟩]
  | .saluAdd o | .saluSub o | .saluMul o | .saluMulh o | .saluMulhn o | .saluAnd o | .saluOr o | .saluXor o | .andn o
  | .saluShl o | .saluShr o | .saluSar o | .rotl o | .saluMin o | .saluMax o | .minn o | .maxn o | .slt o | .sltn o
  | .seq o => o.fs .s .wr .s .s
  | .saluSel o => o.fs .s .rw .s .s
  | .clz o | .popc o | .brev o => o.fs .s .wr .s .unused
  | .add64 o | .sub64 o => o.fs .pair .wr .pair .pair
  | .shl64 o | .shr64 o => o.fs .pair .wr .pair .s
  | .saluiAddi o | .saluiAndi o | .saluiOri o | .saluiXori o | .saluiShli o | .saluiShri o | .saluiSari o
  | .saluiMovhi o | .slti o => [⟨.s, .wr, o.sd.toNat⟩, ⟨.s, .rd, o.sa.toNat⟩]
  | .saluiMovi o => [⟨.s, .wr, o.sd.toNat⟩, ⟨.unused, .rd, o.sa.toNat⟩]
  | .vintAdd o | .vintSub o | .vintMul o | .vintMulh o | .vintMulhn o | .vintAnd o | .vintOr o | .vintXor o
  | .vintShl o | .vintShr o | .vintSar o | .vintMin o | .vintMax o => o.fs (.v 1) .wr (.v 1) (.v 1)
  | .addc o | .subb o => o.fs (.v 1) .wr (.v 1) (.v 1)
  | .mad o => o.fs (.v 1) .rw (.v 1) (.v 1)
  | .vintiAddi o | .vintiAndi o | .vintiOri o | .vintiXori o | .vintiShli o | .vintiShri o | .vintiSari o
  | .muli o => o.fs (.v 1) (.v 1)
  | .vriMovi o => [⟨.v 1, .wr, o.d.toNat⟩]
  | .vriMovhi o | .addi16 o => [⟨.v 1, .rw, o.d.toNat⟩]
  | .fadd o | .fsub o | .fmul o | .fmin o | .fmax o | .fminm o | .fmaxm o | .fcps o | .fscl o =>
      o.fs (.v 1) .wr (.v 1) (.v 1)
  | .fflr o | .fceil o | .frne o | .ftrn o | .fabs o | .fneg o | .fsat o => o.fs (.v 1) .wr (.v 1) .unused
  | .fma o | .fms o | .fnma o | .fnms o | .hfma2 o | .bfma2 o | .dot4e4 o | .dot4e5 o | .dot4i o | .dot2h o =>
      o.fs (.v 1) .rw (.v 1) (.v 1)
  | .cvtf o | .cvti o | .expn o | .mxsc o => o.fs (.v 1) .wr (.v 1) .unused
  | .cvtp o => o.fs (.v 1) .wr (.v 1) (.v 1)
  | .lutx o => o.fs (.v 1) .wr (.v 1) (.v 1)
  | .feq o | .fne o | .flt o | .fle o | .fun o | .ieq o | .ine o | .ilt o | .ile o | .iltn o | .ilen o =>
      o.fs .k .wr (.v 1) (.v 1)
  | .fcls o => o.fs .k .wr (.v 1) .imm
  | .kand o | .kor o | .kxor o | .kandn o => o.fs .k .wr .k .k
  | .knot o | .kmov o => o.fs .k .wr .k .unused
  | .kset o => o.fs .k .wr .unused .imm
  | .kcnt o | .kfirst o | .kall o | .kany o => o.fs .s .wr .k .unused
  | .mov o => o.fs (.v 1) .wr (.v 1) .unused
  | .vmovSel o | .shfl o | .shflx o | .shflup o | .shfldn o => o.fs (.v 1) .wr (.v 1) (.v 1)
  | .rdfl o => o.fs .s .wr (.v 1) .unused
  | .rdln o => o.fs .s .wr (.v 1) .s
  | .bcst o => o.fs (.v 1) .wr (.v 1) .s
  | .lid o | .lpos o => o.fs (.v 1) .wr .unused .unused
  | .exp2 o | .log2 o | .rcp o | .rsq o | .sqrt o | .sin2pi o | .cos2pi o | .tanh o => o.fs (.v 1) .wr (.v 1) .unused
  | .ld sz o => o.fs (.v sz.regs) .wr (.v 1) .pair
  | .st sz o => o.fs (.v sz.regs) .rd (.v 1) .pair
  | .ldu sz o => o.fs sz.use .wr .unused .pair
  | .stu sz o => o.fs sz.use .rd .unused .pair
  | .lds sz o => o.fs (.v sz.regs) .wr (.v 1) .s
  | .sts sz o => o.fs (.v sz.regs) .rd (.v 1) .s
  | .aadd o | .amin o | .amax o | .aminn o | .amaxn o | .aand o | .aor o | .axor o | .axchg o | .afadd o
  | .abfadd2 o => o.fs (.v 1) .rw (.v 1) .s
  | .acas o => o.fs (.v 2) .rw (.v 1) .s
  | .ldls o => [⟨.s, .wr, o.d.toNat⟩]
  | .ldlv o => [⟨.v 1, .wr, o.d.toNat⟩]
  | .ldl64 o => [⟨.pair, .wr, o.d.toNat⟩]
  | .lg2s o | .ls2g o => o.fs .h .unused (.block 4)
  | .bulk o => o.fs .h .unused (.block 6)
  | .mcast o => o.fs .h .unused (.block 8)
  | .dec o => o.fs .h .unused (.block 6)
  | .peer o => o.fs .h .unused (.block 7)
  | .dscd o => o.fs .h .unused (.block 4)
  | .pref o => o.fs .h .unused (.block 3)
  | .red o => o.fs .h .unused (.block 5)
  | .mma o | .mmaz o => o.fs .h .tile (.block 3)
  | .mmld o | .mmst o => o.fs .h .tile (.block 2)
  | .mmcl o => o.fs .unused .tile .unused
  | .mmcv o => o.fs .h .tile (.block 4)
  | .mmsp o => o.fs .h .tile (.block 4)
  | .spcmp o => o.fs .h .unused (.block 4)
  | .pcomp o => o.fs .h .unused (.block 2)
  | .pinv o => o.fs .unused .unused (.block 2)
  | .nnz o => o.fs .unused .unused (.block 3) ++ [⟨.s, .wr, o.sa.toNat + 2⟩]
  | .wnw o => o.fs .h .unused (.block 6)
  | .wnf o => o.fs .h .unused (.block 1)
  | .wnx o => o.fs .h .unused (.block 5)
  | .fence o | .fencesc o | .ofence o => o.fs .unused .rd .unused .rd .unused .rd
  | .bar o => o.fs .s .rd .s .rd .unused .rd
  | .bara o => o.fs .s .rd .s .rd .h .wr
  | .barw o => o.fs .unused .rd .unused .rd .h .rd
  | .bart o => o.fs .s .wr .unused .rd .h .rd
  | .txbi o | .txbe o | .txba o | .txbw o => o.fs .s .rd .s .rd .unused .rd
  | .txbt o => o.fs .s .rd .s .wr .unused .rd
  | .waita o => o.fs .s .rd .s .rd .imm .rd
  | .hwait o | .htest o => o.fs .pair .wr .unused .rd .h .rd
  | .hcan o => o.fs .unused .rd .unused .rd .h .rd
  | .hexp o => o.fs .pair .wr .unused .rd .h .rd
  | .himp o => o.fs .pair .rd .unused .rd .h .wr
  | .sjoin o => o.fs .s .wr .s .s
  | .sleave o => o.fs .s .wr .unused .unused
  | .sinfo o => o.fs .s .wr .s .unused
  | .ssub o => o.fs .s .wr .pair .pair
  | .sunsub o | .ssync o => o.fs .unused .rd .s .unused
  | .nbeg o | .nxt o => o.fs .k .unused
  | .nidx o => o.fs (.v 1) .unused
  | .nbar o => o.fs .unused .unused
  | .nred o => if o.get then o.fs (.v 1) .unused else o.fs .unused (.v 1)
  | .nbc o => o.fs (.v 1) (.v 1)
  | .nmap o => o.fs .pair .unused
  | .nllm o => [⟨.v 1, .wr, o.d.toNat⟩, ⟨.s, .wr, o.a.toNat⟩]
  | .spawn o => o.fs .unused .rd (.v 8) .pair
  | .launch o => o.fs .unused .rd .s .pair
  | .tdone o => o.fs .unused .rd .unused .unused
  | .csrr o => [⟨.s, .wr, o.srg.toNat⟩]
  | .csrw o | .csrs o | .csrc o => [⟨.s, .rd, o.srg.toNat⟩]
  | .mpost o | .mtake o => o.fs .s .wr .pair .s
  | .mpeek o => o.fs .s .wr .pair .unused
  | _ => []

/-- The PG field of the formats that have one. -/
def Instr.pg : Instr → Option (BitVec 2)
  | .vintAdd o | .vintSub o | .addc o | .subb o | .vintMul o | .vintMulh o | .vintMulhn o | .mad o | .vintAnd o
  | .vintOr o | .vintXor o | .vintShl o | .vintShr o | .vintSar o | .vintMin o | .vintMax o
  | .fadd o | .fsub o | .fmul o | .fmin o | .fmax o | .fminm o | .fmaxm o | .fcps o | .fflr o | .fceil o | .frne o
  | .ftrn o | .fabs o | .fneg o | .fsat o | .fscl o | .fma o | .fms o | .fnma o | .fnms o | .hfma2 o | .bfma2 o
  | .dot4e4 o | .dot4e5 o | .dot4i o | .dot2h o | .cvtf o | .cvti o | .cvtp o | .expn o | .lutx o | .mxsc o
  | .feq o | .fne o | .flt o | .fle o | .fun o | .fcls o | .ieq o | .ine o | .ilt o | .ile o | .iltn o | .ilen o
  | .kand o | .kor o | .kxor o | .kandn o | .knot o | .kmov o | .kset o | .kcnt o | .kfirst o | .kall o | .kany o
  | .mov o | .vmovSel o | .shfl o | .shflx o | .shflup o | .shfldn o | .rdfl o | .rdln o | .bcst o | .lid o | .lpos o
  | .exp2 o | .log2 o | .rcp o | .rsq o | .sqrt o | .sin2pi o | .cos2pi o | .tanh o
  | .spawn o | .launch o | .tdone o => some o.pg
  | .vintiAddi o | .vintiAndi o | .vintiOri o | .vintiXori o | .vintiShli o | .vintiShri o | .vintiSari o | .muli o
  | .nbeg o | .nxt o | .nidx o | .nbar o | .nred o | .nbc o | .nmap o | .nllm o => some o.pg
  | .vriMovi o | .vriMovhi o | .addi16 o | .ldls o | .ldlv o | .ldl64 o => some o.pg
  | .ld _ o | .ldu _ o | .st _ o | .stu _ o | .lds _ o | .sts _ o => some o.pg
  | .aadd o | .amin o | .amax o | .aminn o | .amaxn o | .aand o | .aor o | .axor o | .axchg o | .acas o | .afadd o
  | .abfadd2 o => some o.pg
  | _ => none

/-- The forms that have a PG field and take no guard: PG must be 00 (04/R83, R94; 06/R153; 07/R223, R232). -/
def Instr.pgZero : Instr → Bool
  | .ldls _ | .ldl64 _ | .ldu _ _ | .stu _ _ | .nbar _ | .nbc _ | .nmap _ | .launch _ => true
  | .nred o => o.get
  | _ => false

/-- The forms that take a guard from XPRD: the swept forms and BRD (04/R83, R89; 07/R223). -/
def Instr.xprdOk : Instr → Bool
  | .bru c _ => (match c with | .any | .all | .none => true | _ => false)
  | .brd _ | .lg2s _ | .ls2g _ => true
  | i => i.pg.isSome && !i.pgZero

/-- Reserved fields and field values of the word other than register classes (04/R78; 05 to 07 per form). -/
def Instr.extraOk : Instr → Bool
  | .saluAdd o | .saluSub o | .saluMul o | .saluMulh o | .saluMulhn o | .saluAnd o | .saluOr o | .saluXor o | .andn o
  | .saluShl o | .saluShr o | .saluSar o | .rotl o | .saluMin o | .saluMax o | .minn o | .maxn o | .slt o | .sltn o
  | .seq o | .saluSel o | .clz o | .popc o | .brev o | .add64 o | .sub64 o | .shl64 o | .shr64 o => o.cf == 0
  | .saluiShli o | .saluiShri o | .saluiSari o => o.imm.extractLsb' 5 6 == 0
  | .vintiShli o | .vintiShri o | .vintiSari o => o.imm.extractLsb' 5 2 == 0
  | .kset o => o.b.extractLsb' 1 6 == 0
  | .ldu _ o | .stu _ o => o.sc == 0
  | .lg2s o | .ls2g o => o.ec == 0 && o.f.extractLsb' 3 3 == 0 && o.f.extractLsb' 0 2 != 3
  | .bulk o => o.ec == 0 && o.f.extractLsb' 3 3 == 0
  | .mcast o | .dec o | .peer o => o.ec == 0 && o.f.extractLsb' 2 4 == 0
  | .dscd o | .pref o => o.ec == 0 && o.f == 0
  | .red o => o.ec == 0 && o.f.extractLsb' 3 3 == 0 && o.f.extractLsb' 0 2 != 3
  | .mma o | .mmaz o => o.f.extractLsb' 1 5 == 0
  | .mmld o | .mmst o | .mmcl o => o.ec == 0 && o.f == 0
  | .mmcv o | .spcmp o | .wnx o => o.ec == 0 && o.f.extractLsb' 1 5 == 0
  | .mmsp o => (if o.f.extractLsb' 0 2 == 1 then o.f.extractLsb' 4 2 != 0 else o.f.extractLsb' 4 2 == 0)
      && o.f.extractLsb' 0 2 != 3
  | .pcomp o | .pinv o => o.ec == 0 && o.f.extractLsb' 2 4 == 0 && o.f.extractLsb' 0 2 != 3
  | .nnz o => o.ec == 0 && o.f == 0
  | .wnw o => o.ec == 0 && o.f.extractLsb' 3 3 == 0
  | .wnf o => o.ec == 0 && o.f.extractLsb' 2 4 == 0
  | .fence o => o.scp != 7 && o.ord != 0
  | .fencesc o => o.scp != 7 && o.ord == 0
  | .ofence o => o.scp == 0 && o.ord == 0
  | .bar o | .bara o | .barw o | .bart o | .txba o | .txbw o => o.scp != 0 && o.scp != 7 && o.ord == 0
  | .txbi o | .txbe o | .txbt o | .hwait o | .htest o | .hcan o | .hexp o | .himp o => o.scp == 0 && o.ord == 0
  | .waita o => o.scp != 0 && o.scp != 7 && o.ord == 0 && o.h.extractLsb' 2 3 == 0
  | .sjoin o | .sleave o | .ssub o | .sunsub o | .ssync o => o.cf == 0
  | .sinfo o => o.cf != 6 && o.cf != 7
  | .nbeg o | .nxt o | .nidx o | .nbar o | .nbc o | .nmap o | .nllm o => o.imm.extractLsb' 2 5 == 0
  | .nred o => o.imm.extractLsb' 5 2 == 0 && o.imm.extractLsb' 2 2 != 3
  | .csrr o | .csrw o | .csrs o | .csrc o => o.rsv == 0
  | .mpost o | .mtake o => o.cf.extractLsb' 1 2 == 0
  | .mpeek o => o.cf == 0
  | _ => true

/-- A well-formed instruction: every field as its form requires. -/
def Instr.wf (i : Instr) : Bool :=
  i.fields.all Field.ok && i.extraOk && (!i.pgZero || i.pg == some 0)

/-- The parameter word of SYS forms and the payloads of extension words take every value. -/
def Instr.WellFormed (i : Instr) : Prop := i.wf = true

end Sys2Proof
end

