-- ==== Sys2Proof/Decode.lean ====
section
/-! DEFINITION. The decoder, total on every word, and the encoder (04/R74, R75, R90, R91). A word is decoded in two
parts: `decodeForm` finds the form from MAJ and OPX and reads its fields; `decode` accepts the instruction if no
reserved field or value stands in the word. -/

namespace Sys2Proof

/-- The fields of an F-V3 word. -/
def FV3.ofWord (w : Word) : FV3 := ⟨w.extractLsb' 21 2, w.extractLsb' 14 7, w.extractLsb' 7 7, w.extractLsb' 0 7⟩
/-- An F-V3 word with the given MAJ and OPX. -/
def FV3.word (o : FV3) (maj : BitVec 5) (opx : BitVec 4) : Word := maj ++ opx ++ o.pg ++ o.d ++ o.a ++ o.b
/-- The fields of an F-VI word. -/
def FVI.ofWord (w : Word) : FVI := ⟨w.extractLsb' 21 2, w.extractLsb' 14 7, w.extractLsb' 7 7, w.extractLsb' 0 7⟩
/-- An F-VI word. -/
def FVI.word (o : FVI) (maj : BitVec 5) (opx : BitVec 4) : Word := maj ++ opx ++ o.pg ++ o.d ++ o.a ++ o.imm
/-- The fields of an F-RI word. -/
def FRI.ofWord (w : Word) : FRI := ⟨w.extractLsb' 23 2, w.extractLsb' 16 7, w.extractLsb' 0 16⟩
/-- An F-RI word. -/
def FRI.word (o : FRI) (maj : BitVec 5) (opx : BitVec 2) : Word := maj ++ opx ++ o.pg ++ o.d ++ o.imm
/-- The fields of an F-S3 word. -/
def FS3.ofWord (w : Word) : FS3 := ⟨w.extractLsb' 15 6, w.extractLsb' 9 6, w.extractLsb' 3 6, w.extractLsb' 0 3⟩
/-- An F-S3 word. -/
def FS3.word (o : FS3) (maj : BitVec 5) (opx : BitVec 6) : Word := maj ++ opx ++ o.sd ++ o.sa ++ o.sb ++ o.cf
/-- The fields of an F-SI word. -/
def FSI.ofWord (w : Word) : FSI := ⟨w.extractLsb' 17 6, w.extractLsb' 11 6, w.extractLsb' 0 11⟩
/-- An F-SI word. -/
def FSI.word (o : FSI) (maj : BitVec 5) (opx : BitVec 4) : Word := maj ++ opx ++ o.sd ++ o.sa ++ o.imm
/-- The fields of an F-BR word. -/
def FBR.ofWord (w : Word) : FBR := ⟨w.extractLsb' 20 4, w.extractLsb' 0 20⟩
/-- An F-BR word. -/
def FBR.word (o : FBR) (maj : BitVec 5) (cond : BitVec 3) : Word := maj ++ cond ++ o.sel ++ o.off
/-- The fields of an F-M word. -/
def FM.ofWord (w : Word) : FM :=
  ⟨w.extractLsb' 21 2, w.extractLsb' 14 7, w.extractLsb' 7 7, w.extractLsb' 1 6, w.extractLsb' 0 1⟩
/-- An F-M word. -/
def FM.word (o : FM) (maj : BitVec 5) (opx : BitVec 4) : Word := maj ++ opx ++ o.pg ++ o.d ++ o.a ++ o.sb ++ o.sc
/-- The fields of an F-E word. -/
def FE.ofWord (w : Word) : FE :=
  ⟨w.extractLsb' 18 5, w.extractLsb' 14 4, w.extractLsb' 8 6, w.extractLsb' 6 2, w.extractLsb' 0 6⟩
/-- An F-E word. -/
def FE.word (o : FE) (maj : BitVec 5) (opx : BitVec 4) : Word := maj ++ opx ++ o.h ++ o.mt ++ o.sa ++ o.ec ++ o.f
/-- The fields of an F-SY word. -/
def FSY.ofWord (w : Word) : FSY :=
  ⟨w.extractLsb' 19 3, w.extractLsb' 17 2, w.extractLsb' 11 6, w.extractLsb' 5 6, w.extractLsb' 0 5⟩
/-- An F-SY word. -/
def FSY.word (o : FSY) (maj : BitVec 5) (opx : BitVec 5) : Word := maj ++ opx ++ o.scp ++ o.ord ++ o.sa ++ o.sb ++ o.h
/-- The fields of a CSR word. -/
def FCSR.ofWord (w : Word) : FCSR := ⟨w.extractLsb' 15 6, w.extractLsb' 12 3, w.extractLsb' 0 12⟩
/-- A CSR word. -/
def FCSR.word (o : FCSR) (maj : BitVec 5) (opx : BitVec 6) : Word := maj ++ opx ++ o.srg ++ o.rsv ++ o.csrn
/-- A SYS word. -/
def sysWord (opx : BitVec 6) (imm : BitVec 21) : Word := (0 : BitVec 5) ++ opx ++ imm
/-- An extension word (04/R79). -/
def xwWord (kind : BitVec 3) (p : BitVec 24) : Word := (0x1F : BitVec 5) ++ kind ++ p

/-- The code of a BRU condition. -/
def Cond.code : Cond → BitVec 3
  | .al => 0 | .zr => 1 | .nz => 2 | .ng => 3 | .nn => 4 | .any => 5 | .all => 6 | .none => 7
/-- The SZ code of a load size in LD and LDS. -/
def LoadSize.code : LoadSize → BitVec 4
  | .b8 => 0 | .s8 => 1 | .b16 => 2 | .s16 => 3 | .b32 => 4 | .b64 => 5 | .b128 => 6
/-- The SZ code of a store size in ST; STS adds 8. -/
def StoreSize.code : StoreSize → BitVec 4
  | .b8 => 0 | .b16 => 2 | .b32 => 4 | .b64 => 5 | .b128 => 6
/-- The SZ code of LDU and STU. -/
def UniSize.code : UniSize → BitVec 4
  | .b32 => 8 | .b64 => 9

/-- The forms of SYS (04/R91). -/
def decodeSys (w : Word) : Option Instr :=
  match (w.extractLsb' 21 6).toNat with
  | 0 => some .nop
  | 1 => some .exit
  | 2 => some (.trap (w.extractLsb' 0 21))
  | 3 => some (.brk (w.extractLsb' 0 21))
  | 4 => some (.safe (w.extractLsb' 0 21))
  | 5 => some .yld
  | 6 => some (.sleep (w.extractLsb' 0 21))
  | 7 => some .eret
  | 8 => some .ifence
  | _ => none

/-- The condition of a BRU word; all eight codes are assigned. -/
def Cond.ofCode (c : BitVec 3) : Cond :=
  match c.toNat with
  | 0 => .al | 1 => .zr | 2 => .nz | 3 => .ng | 4 => .nn | 5 => .any | 6 => .all | _ => .none

/-- The forms of BRD (04/R91). -/
def decodeBrd (w : Word) : Option Instr :=
  match (w.extractLsb' 24 3).toNat with
  | 0 => some (.brd (FBR.ofWord w))
  | 1 => some (.rcv (FBR.ofWord w))
  | _ => none

/-- The forms of JMP (04/R91). -/
def decodeJmp (w : Word) : Option Instr :=
  match (w.extractLsb' 24 3).toNat with
  | 0 => some (.call (FBR.ofWord w))
  | 1 => some (.callx (FBR.ofWord w))
  | 2 => some (.ret (FBR.ofWord w))
  | 3 => some (.jtab (FBR.ofWord w))
  | _ => none

/-- The forms of LD (04/R91). -/
def decodeLd (w : Word) : Option Instr :=
  match (w.extractLsb' 23 4).toNat with
  | 0 => some (.ld .b8 (FM.ofWord w))
  | 1 => some (.ld .s8 (FM.ofWord w))
  | 2 => some (.ld .b16 (FM.ofWord w))
  | 3 => some (.ld .s16 (FM.ofWord w))
  | 4 => some (.ld .b32 (FM.ofWord w))
  | 5 => some (.ld .b64 (FM.ofWord w))
  | 6 => some (.ld .b128 (FM.ofWord w))
  | 8 => some (.ldu .b32 (FM.ofWord w))
  | 9 => some (.ldu .b64 (FM.ofWord w))
  | _ => none

/-- The forms of ST (04/R91). -/
def decodeSt (w : Word) : Option Instr :=
  match (w.extractLsb' 23 4).toNat with
  | 0 => some (.st .b8 (FM.ofWord w))
  | 2 => some (.st .b16 (FM.ofWord w))
  | 4 => some (.st .b32 (FM.ofWord w))
  | 5 => some (.st .b64 (FM.ofWord w))
  | 6 => some (.st .b128 (FM.ofWord w))
  | 8 => some (.stu .b32 (FM.ofWord w))
  | 9 => some (.stu .b64 (FM.ofWord w))
  | _ => none

/-- The forms of LDS/STS (04/R91). -/
def decodeScr (w : Word) : Option Instr :=
  match (w.extractLsb' 23 4).toNat with
  | 0 => some (.lds .b8 (FM.ofWord w))
  | 1 => some (.lds .s8 (FM.ofWord w))
  | 2 => some (.lds .b16 (FM.ofWord w))
  | 3 => some (.lds .s16 (FM.ofWord w))
  | 4 => some (.lds .b32 (FM.ofWord w))
  | 5 => some (.lds .b64 (FM.ofWord w))
  | 6 => some (.lds .b128 (FM.ofWord w))
  | 8 => some (.sts .b8 (FM.ofWord w))
  | 10 => some (.sts .b16 (FM.ofWord w))
  | 12 => some (.sts .b32 (FM.ofWord w))
  | 13 => some (.sts .b64 (FM.ofWord w))
  | 14 => some (.sts .b128 (FM.ofWord w))
  | _ => none

/-- The extension words (04/R79, R80). -/
def decodeXw (w : Word) : Option Instr :=
  match (w.extractLsb' 24 3).toNat with
  | 0 => some (.ximm (w.extractLsb' 0 24))
  | 1 => some (.xreg (w.extractLsb' 0 24))
  | 2 => some (.xprd (w.extractLsb' 0 24))
  | 3 => some (.xmod (w.extractLsb' 0 24))
  | 4 => some (.xmem (w.extractLsb' 0 24))
  | 5 => some (.xsch (w.extractLsb' 0 24))
  | 6 => some (.xoff (w.extractLsb' 0 24))
  | _ => none

/-- The forms of SALU (04/R91). -/
def decodeSalu (w : Word) : Option Instr :=
  match (w.extractLsb' 21 6).toNat with
  | 0x0 => some (.saluAdd (FS3.ofWord w))
  | 0x1 => some (.saluSub (FS3.ofWord w))
  | 0x2 => some (.saluMul (FS3.ofWord w))
  | 0x3 => some (.saluMulh (FS3.ofWord w))
  | 0x4 => some (.saluMulhn (FS3.ofWord w))
  | 0x5 => some (.saluAnd (FS3.ofWord w))
  | 0x6 => some (.saluOr (FS3.ofWord w))
  | 0x7 => some (.saluXor (FS3.ofWord w))
  | 0x8 => some (.andn (FS3.ofWord w))
  | 0x9 => some (.saluShl (FS3.ofWord w))
  | 0xA => some (.saluShr (FS3.ofWord w))
  | 0xB => some (.saluSar (FS3.ofWord w))
  | 0xC => some (.rotl (FS3.ofWord w))
  | 0xD => some (.saluMin (FS3.ofWord w))
  | 0xE => some (.saluMax (FS3.ofWord w))
  | 0xF => some (.minn (FS3.ofWord w))
  | 0x10 => some (.maxn (FS3.ofWord w))
  | 0x11 => some (.slt (FS3.ofWord w))
  | 0x12 => some (.sltn (FS3.ofWord w))
  | 0x13 => some (.seq (FS3.ofWord w))
  | 0x14 => some (.saluSel (FS3.ofWord w))
  | 0x15 => some (.clz (FS3.ofWord w))
  | 0x16 => some (.popc (FS3.ofWord w))
  | 0x17 => some (.brev (FS3.ofWord w))
  | 0x18 => some (.add64 (FS3.ofWord w))
  | 0x19 => some (.sub64 (FS3.ofWord w))
  | 0x1A => some (.shl64 (FS3.ofWord w))
  | 0x1B => some (.shr64 (FS3.ofWord w))
  | _ => none

/-- The forms of SALUI (04/R91). -/
def decodeSalui (w : Word) : Option Instr :=
  match (w.extractLsb' 23 4).toNat with
  | 0x0 => some (.saluiAddi (FSI.ofWord w))
  | 0x1 => some (.saluiAndi (FSI.ofWord w))
  | 0x2 => some (.saluiOri (FSI.ofWord w))
  | 0x3 => some (.saluiXori (FSI.ofWord w))
  | 0x4 => some (.saluiShli (FSI.ofWord w))
  | 0x5 => some (.saluiShri (FSI.ofWord w))
  | 0x6 => some (.saluiSari (FSI.ofWord w))
  | 0x7 => some (.saluiMovi (FSI.ofWord w))
  | 0x8 => some (.saluiMovhi (FSI.ofWord w))
  | 0x9 => some (.slti (FSI.ofWord w))
  | _ => none

/-- The forms of VINT (04/R91). -/
def decodeVint (w : Word) : Option Instr :=
  match (w.extractLsb' 23 4).toNat with
  | 0x0 => some (.vintAdd (FV3.ofWord w))
  | 0x1 => some (.vintSub (FV3.ofWord w))
  | 0x2 => some (.addc (FV3.ofWord w))
  | 0x3 => some (.subb (FV3.ofWord w))
  | 0x4 => some (.vintMul (FV3.ofWord w))
  | 0x5 => some (.vintMulh (FV3.ofWord w))
  | 0x6 => some (.vintMulhn (FV3.ofWord w))
  | 0x7 => some (.mad (FV3.ofWord w))
  | 0x8 => some (.vintAnd (FV3.ofWord w))
  | 0x9 => some (.vintOr (FV3.ofWord w))
  | 0xA => some (.vintXor (FV3.ofWord w))
  | 0xB => some (.vintShl (FV3.ofWord w))
  | 0xC => some (.vintShr (FV3.ofWord w))
  | 0xD => some (.vintSar (FV3.ofWord w))
  | 0xE => some (.vintMin (FV3.ofWord w))
  | 0xF => some (.vintMax (FV3.ofWord w))
  | _ => none

/-- The forms of VINTI (04/R91). -/
def decodeVinti (w : Word) : Option Instr :=
  match (w.extractLsb' 23 4).toNat with
  | 0x0 => some (.vintiAddi (FVI.ofWord w))
  | 0x1 => some (.vintiAndi (FVI.ofWord w))
  | 0x2 => some (.vintiOri (FVI.ofWord w))
  | 0x3 => some (.vintiXori (FVI.ofWord w))
  | 0x4 => some (.vintiShli (FVI.ofWord w))
  | 0x5 => some (.vintiShri (FVI.ofWord w))
  | 0x6 => some (.vintiSari (FVI.ofWord w))
  | 0x7 => some (.muli (FVI.ofWord w))
  | _ => none

/-- The forms of VF32 (04/R91). -/
def decodeVf32 (w : Word) : Option Instr :=
  match (w.extractLsb' 23 4).toNat with
  | 0x0 => some (.fadd (FV3.ofWord w))
  | 0x1 => some (.fsub (FV3.ofWord w))
  | 0x2 => some (.fmul (FV3.ofWord w))
  | 0x3 => some (.fmin (FV3.ofWord w))
  | 0x4 => some (.fmax (FV3.ofWord w))
  | 0x5 => some (.fminm (FV3.ofWord w))
  | 0x6 => some (.fmaxm (FV3.ofWord w))
  | 0x7 => some (.fcps (FV3.ofWord w))
  | 0x8 => some (.fflr (FV3.ofWord w))
  | 0x9 => some (.fceil (FV3.ofWord w))
  | 0xA => some (.frne (FV3.ofWord w))
  | 0xB => some (.ftrn (FV3.ofWord w))
  | 0xC => some (.fabs (FV3.ofWord w))
  | 0xD => some (.fneg (FV3.ofWord w))
  | 0xE => some (.fsat (FV3.ofWord w))
  | 0xF => some (.fscl (FV3.ofWord w))
  | _ => none

/-- The forms of VFMA (04/R91). -/
def decodeVfma (w : Word) : Option Instr :=
  match (w.extractLsb' 23 4).toNat with
  | 0x0 => some (.fma (FV3.ofWord w))
  | 0x1 => some (.fms (FV3.ofWord w))
  | 0x2 => some (.fnma (FV3.ofWord w))
  | 0x3 => some (.fnms (FV3.ofWord w))
  | 0x4 => some (.hfma2 (FV3.ofWord w))
  | 0x5 => some (.bfma2 (FV3.ofWord w))
  | 0x6 => some (.dot4e4 (FV3.ofWord w))
  | 0x7 => some (.dot4e5 (FV3.ofWord w))
  | 0x8 => some (.dot4i (FV3.ofWord w))
  | 0x9 => some (.dot2h (FV3.ofWord w))
  | _ => none

/-- The forms of VCVT (04/R91). -/
def decodeVcvt (w : Word) : Option Instr :=
  match (w.extractLsb' 23 4).toNat with
  | 0x0 => some (.cvtf (FV3.ofWord w))
  | 0x1 => some (.cvti (FV3.ofWord w))
  | 0x2 => some (.cvtp (FV3.ofWord w))
  | 0x3 => some (.expn (FV3.ofWord w))
  | 0x4 => some (.lutx (FV3.ofWord w))
  | 0x5 => some (.mxsc (FV3.ofWord w))
  | _ => none

/-- The forms of VCMP (04/R91). -/
def decodeVcmp (w : Word) : Option Instr :=
  match (w.extractLsb' 23 4).toNat with
  | 0x0 => some (.feq (FV3.ofWord w))
  | 0x1 => some (.fne (FV3.ofWord w))
  | 0x2 => some (.flt (FV3.ofWord w))
  | 0x3 => some (.fle (FV3.ofWord w))
  | 0x4 => some (.fun (FV3.ofWord w))
  | 0x5 => some (.fcls (FV3.ofWord w))
  | 0x6 => some (.ieq (FV3.ofWord w))
  | 0x7 => some (.ine (FV3.ofWord w))
  | 0x8 => some (.ilt (FV3.ofWord w))
  | 0x9 => some (.ile (FV3.ofWord w))
  | 0xA => some (.iltn (FV3.ofWord w))
  | 0xB => some (.ilen (FV3.ofWord w))
  | _ => none

/-- The forms of KOPS (04/R91). -/
def decodeKops (w : Word) : Option Instr :=
  match (w.extractLsb' 23 4).toNat with
  | 0x0 => some (.kand (FV3.ofWord w))
  | 0x1 => some (.kor (FV3.ofWord w))
  | 0x2 => some (.kxor (FV3.ofWord w))
  | 0x3 => some (.kandn (FV3.ofWord w))
  | 0x4 => some (.knot (FV3.ofWord w))
  | 0x5 => some (.kmov (FV3.ofWord w))
  | 0x6 => some (.kset (FV3.ofWord w))
  | 0x7 => some (.kcnt (FV3.ofWord w))
  | 0x8 => some (.kfirst (FV3.ofWord w))
  | 0x9 => some (.kall (FV3.ofWord w))
  | 0xA => some (.kany (FV3.ofWord w))
  | _ => none

/-- The forms of VMOV (04/R91). -/
def decodeVmov (w : Word) : Option Instr :=
  match (w.extractLsb' 23 4).toNat with
  | 0x0 => some (.mov (FV3.ofWord w))
  | 0x1 => some (.vmovSel (FV3.ofWord w))
  | 0x2 => some (.shfl (FV3.ofWord w))
  | 0x3 => some (.shflx (FV3.ofWord w))
  | 0x4 => some (.shflup (FV3.ofWord w))
  | 0x5 => some (.shfldn (FV3.ofWord w))
  | 0x6 => some (.rdfl (FV3.ofWord w))
  | 0x7 => some (.rdln (FV3.ofWord w))
  | 0x8 => some (.bcst (FV3.ofWord w))
  | 0x9 => some (.lid (FV3.ofWord w))
  | 0xA => some (.lpos (FV3.ofWord w))
  | _ => none

/-- The forms of VSFU (04/R91). -/
def decodeVsfu (w : Word) : Option Instr :=
  match (w.extractLsb' 23 4).toNat with
  | 0x0 => some (.exp2 (FV3.ofWord w))
  | 0x1 => some (.log2 (FV3.ofWord w))
  | 0x2 => some (.rcp (FV3.ofWord w))
  | 0x3 => some (.rsq (FV3.ofWord w))
  | 0x4 => some (.sqrt (FV3.ofWord w))
  | 0x5 => some (.sin2pi (FV3.ofWord w))
  | 0x6 => some (.cos2pi (FV3.ofWord w))
  | 0x7 => some (.tanh (FV3.ofWord w))
  | _ => none

/-- The forms of VRI (04/R91). -/
def decodeVri (w : Word) : Option Instr :=
  match (w.extractLsb' 25 2).toNat with
  | 0x0 => some (.vriMovi (FRI.ofWord w))
  | 0x1 => some (.vriMovhi (FRI.ofWord w))
  | 0x2 => some (.addi16 (FRI.ofWord w))
  | _ => none

/-- The forms of ATOM (04/R91). -/
def decodeAtom (w : Word) : Option Instr :=
  match (w.extractLsb' 23 4).toNat with
  | 0x0 => some (.aadd (FM.ofWord w))
  | 0x1 => some (.amin (FM.ofWord w))
  | 0x2 => some (.amax (FM.ofWord w))
  | 0x3 => some (.aminn (FM.ofWord w))
  | 0x4 => some (.amaxn (FM.ofWord w))
  | 0x5 => some (.aand (FM.ofWord w))
  | 0x6 => some (.aor (FM.ofWord w))
  | 0x7 => some (.axor (FM.ofWord w))
  | 0x8 => some (.axchg (FM.ofWord w))
  | 0x9 => some (.acas (FM.ofWord w))
  | 0xA => some (.afadd (FM.ofWord w))
  | 0xB => some (.abfadd2 (FM.ofWord w))
  | _ => none

/-- The forms of LDL (04/R91). -/
def decodeLdl (w : Word) : Option Instr :=
  match (w.extractLsb' 25 2).toNat with
  | 0x0 => some (.ldls (FRI.ofWord w))
  | 0x1 => some (.ldlv (FRI.ofWord w))
  | 0x2 => some (.ldl64 (FRI.ofWord w))
  | _ => none

/-- The forms of CPY (04/R91). -/
def decodeCpy (w : Word) : Option Instr :=
  match (w.extractLsb' 23 4).toNat with
  | 0x0 => some (.lg2s (FE.ofWord w))
  | 0x1 => some (.ls2g (FE.ofWord w))
  | 0x2 => some (.bulk (FE.ofWord w))
  | 0x3 => some (.mcast (FE.ofWord w))
  | 0x4 => some (.dec (FE.ofWord w))
  | 0x5 => some (.peer (FE.ofWord w))
  | 0x6 => some (.dscd (FE.ofWord w))
  | 0x7 => some (.pref (FE.ofWord w))
  | 0x8 => some (.red (FE.ofWord w))
  | _ => none

/-- The forms of MMA (04/R91). -/
def decodeMma (w : Word) : Option Instr :=
  match (w.extractLsb' 23 4).toNat with
  | 0x0 => some (.mma (FE.ofWord w))
  | 0x1 => some (.mmaz (FE.ofWord w))
  | 0x2 => some (.mmld (FE.ofWord w))
  | 0x3 => some (.mmst (FE.ofWord w))
  | 0x4 => some (.mmcl (FE.ofWord w))
  | 0x5 => some (.mmcv (FE.ofWord w))
  | _ => none

/-- The forms of SPX (04/R91). -/
def decodeSpx (w : Word) : Option Instr :=
  match (w.extractLsb' 23 4).toNat with
  | 0x0 => some (.mmsp (FE.ofWord w))
  | 0x1 => some (.spcmp (FE.ofWord w))
  | 0x2 => some (.pcomp (FE.ofWord w))
  | 0x3 => some (.pinv (FE.ofWord w))
  | 0x4 => some (.nnz (FE.ofWord w))
  | 0x5 => some (.wnw (FE.ofWord w))
  | 0x6 => some (.wnf (FE.ofWord w))
  | 0x7 => some (.wnx (FE.ofWord w))
  | _ => none

/-- The forms of SYNC (04/R91). -/
def decodeSync (w : Word) : Option Instr :=
  match (w.extractLsb' 22 5).toNat with
  | 0x0 => some (.fence (FSY.ofWord w))
  | 0x1 => some (.fencesc (FSY.ofWord w))
  | 0x2 => some (.ofence (FSY.ofWord w))
  | 0x3 => some (.bar (FSY.ofWord w))
  | 0x4 => some (.bara (FSY.ofWord w))
  | 0x5 => some (.barw (FSY.ofWord w))
  | 0x6 => some (.bart (FSY.ofWord w))
  | 0x7 => some (.txbi (FSY.ofWord w))
  | 0x8 => some (.txbe (FSY.ofWord w))
  | 0x9 => some (.txba (FSY.ofWord w))
  | 0xA => some (.txbw (FSY.ofWord w))
  | 0xB => some (.txbt (FSY.ofWord w))
  | 0xC => some (.waita (FSY.ofWord w))
  | 0xD => some (.hwait (FSY.ofWord w))
  | 0xE => some (.htest (FSY.ofWord w))
  | 0xF => some (.hcan (FSY.ofWord w))
  | 0x10 => some (.hexp (FSY.ofWord w))
  | 0x11 => some (.himp (FSY.ofWord w))
  | _ => none

/-- The forms of STK (04/R91). -/
def decodeStk (w : Word) : Option Instr :=
  match (w.extractLsb' 21 6).toNat with
  | 0x0 => some (.sjoin (FS3.ofWord w))
  | 0x1 => some (.sleave (FS3.ofWord w))
  | 0x2 => some (.sinfo (FS3.ofWord w))
  | 0x3 => some (.ssub (FS3.ofWord w))
  | 0x4 => some (.sunsub (FS3.ofWord w))
  | 0x5 => some (.ssync (FS3.ofWord w))
  | _ => none

/-- The forms of NEST (04/R91). -/
def decodeNest (w : Word) : Option Instr :=
  match (w.extractLsb' 23 4).toNat with
  | 0x0 => some (.nbeg (FVI.ofWord w))
  | 0x1 => some (.nxt (FVI.ofWord w))
  | 0x2 => some (.nidx (FVI.ofWord w))
  | 0x3 => some (.nbar (FVI.ofWord w))
  | 0x4 => some (.nred (FVI.ofWord w))
  | 0x5 => some (.nbc (FVI.ofWord w))
  | 0x6 => some (.nmap (FVI.ofWord w))
  | 0x7 => some (.nllm (FVI.ofWord w))
  | _ => none

/-- The forms of TASK (04/R91). -/
def decodeTask (w : Word) : Option Instr :=
  match (w.extractLsb' 23 4).toNat with
  | 0x0 => some (.spawn (FV3.ofWord w))
  | 0x1 => some (.launch (FV3.ofWord w))
  | 0x2 => some (.tdone (FV3.ofWord w))
  | _ => none

/-- The forms of CSR (04/R91). -/
def decodeCsr (w : Word) : Option Instr :=
  match (w.extractLsb' 21 6).toNat with
  | 0x0 => some (.csrr (FCSR.ofWord w))
  | 0x1 => some (.csrw (FCSR.ofWord w))
  | 0x2 => some (.csrs (FCSR.ofWord w))
  | 0x3 => some (.csrc (FCSR.ofWord w))
  | _ => none

/-- The forms of MBX (04/R91). -/
def decodeMbx (w : Word) : Option Instr :=
  match (w.extractLsb' 21 6).toNat with
  | 0x0 => some (.mpost (FS3.ofWord w))
  | 0x1 => some (.mtake (FS3.ofWord w))
  | 0x2 => some (.mpeek (FS3.ofWord w))
  | _ => none

/-- The form of a word with its fields, whatever its reserved fields hold; none for an unassigned MAJ, OPX, COND or SZ
and for extension-word kind 7 (04/R90, R91). -/
def decodeForm (w : Word) : Option Instr :=
  match (w.extractLsb' 27 5).toNat with
  | 0x00 => decodeSys w
  | 0x01 => some (.bru (Cond.ofCode (w.extractLsb' 24 3)) (FBR.ofWord w))
  | 0x02 => decodeBrd w
  | 0x03 => decodeJmp w
  | 0x04 => decodeSalu w
  | 0x05 => decodeSalui w
  | 0x06 => decodeVint w
  | 0x07 => decodeVinti w
  | 0x08 => decodeVf32 w
  | 0x09 => decodeVfma w
  | 0x0A => decodeVcvt w
  | 0x0B => decodeVcmp w
  | 0x0C => decodeKops w
  | 0x0D => decodeVmov w
  | 0x0E => decodeVsfu w
  | 0x0F => decodeVri w
  | 0x10 => decodeLd w
  | 0x11 => decodeSt w
  | 0x12 => decodeScr w
  | 0x13 => decodeAtom w
  | 0x14 => decodeLdl w
  | 0x15 => decodeCpy w
  | 0x16 => decodeMma w
  | 0x17 => decodeSpx w
  | 0x18 => decodeSync w
  | 0x19 => decodeStk w
  | 0x1A => decodeNest w
  | 0x1B => decodeTask w
  | 0x1C => decodeCsr w
  | 0x1D => decodeMbx w
  | 0x1F => decodeXw w
  | _ => none

/-- The word of an instruction (04/R75, R91). A step without a word has none: it answers the word of reserved kind 7,
which decodes to nothing. -/
def encode : Instr → Word
  | .nop => sysWord 0 0
  | .exit => sysWord 1 0
  | .trap imm => sysWord 2 imm
  | .brk imm => sysWord 3 imm
  | .safe imm => sysWord 4 imm
  | .yld => sysWord 5 0
  | .sleep imm => sysWord 6 imm
  | .eret => sysWord 7 0
  | .ifence => sysWord 8 0
  | .bru c o => o.word 1 c.code
  | .brd o => o.word 2 0
  | .rcv o => o.word 2 1
  | .call o => o.word 3 0
  | .callx o => o.word 3 1
  | .ret o => o.word 3 2
  | .jtab o => o.word 3 3
  | .saluAdd o => o.word 0x4 0x0
  | .saluSub o => o.word 0x4 0x1
  | .saluMul o => o.word 0x4 0x2
  | .saluMulh o => o.word 0x4 0x3
  | .saluMulhn o => o.word 0x4 0x4
  | .saluAnd o => o.word 0x4 0x5
  | .saluOr o => o.word 0x4 0x6
  | .saluXor o => o.word 0x4 0x7
  | .andn o => o.word 0x4 0x8
  | .saluShl o => o.word 0x4 0x9
  | .saluShr o => o.word 0x4 0xA
  | .saluSar o => o.word 0x4 0xB
  | .rotl o => o.word 0x4 0xC
  | .saluMin o => o.word 0x4 0xD
  | .saluMax o => o.word 0x4 0xE
  | .minn o => o.word 0x4 0xF
  | .maxn o => o.word 0x4 0x10
  | .slt o => o.word 0x4 0x11
  | .sltn o => o.word 0x4 0x12
  | .seq o => o.word 0x4 0x13
  | .saluSel o => o.word 0x4 0x14
  | .clz o => o.word 0x4 0x15
  | .popc o => o.word 0x4 0x16
  | .brev o => o.word 0x4 0x17
  | .add64 o => o.word 0x4 0x18
  | .sub64 o => o.word 0x4 0x19
  | .shl64 o => o.word 0x4 0x1A
  | .shr64 o => o.word 0x4 0x1B
  | .saluiAddi o => o.word 0x5 0x0
  | .saluiAndi o => o.word 0x5 0x1
  | .saluiOri o => o.word 0x5 0x2
  | .saluiXori o => o.word 0x5 0x3
  | .saluiShli o => o.word 0x5 0x4
  | .saluiShri o => o.word 0x5 0x5
  | .saluiSari o => o.word 0x5 0x6
  | .saluiMovi o => o.word 0x5 0x7
  | .saluiMovhi o => o.word 0x5 0x8
  | .slti o => o.word 0x5 0x9
  | .vintAdd o => o.word 0x6 0x0
  | .vintSub o => o.word 0x6 0x1
  | .addc o => o.word 0x6 0x2
  | .subb o => o.word 0x6 0x3
  | .vintMul o => o.word 0x6 0x4
  | .vintMulh o => o.word 0x6 0x5
  | .vintMulhn o => o.word 0x6 0x6
  | .mad o => o.word 0x6 0x7
  | .vintAnd o => o.word 0x6 0x8
  | .vintOr o => o.word 0x6 0x9
  | .vintXor o => o.word 0x6 0xA
  | .vintShl o => o.word 0x6 0xB
  | .vintShr o => o.word 0x6 0xC
  | .vintSar o => o.word 0x6 0xD
  | .vintMin o => o.word 0x6 0xE
  | .vintMax o => o.word 0x6 0xF
  | .vintiAddi o => o.word 0x7 0x0
  | .vintiAndi o => o.word 0x7 0x1
  | .vintiOri o => o.word 0x7 0x2
  | .vintiXori o => o.word 0x7 0x3
  | .vintiShli o => o.word 0x7 0x4
  | .vintiShri o => o.word 0x7 0x5
  | .vintiSari o => o.word 0x7 0x6
  | .muli o => o.word 0x7 0x7
  | .fadd o => o.word 0x8 0x0
  | .fsub o => o.word 0x8 0x1
  | .fmul o => o.word 0x8 0x2
  | .fmin o => o.word 0x8 0x3
  | .fmax o => o.word 0x8 0x4
  | .fminm o => o.word 0x8 0x5
  | .fmaxm o => o.word 0x8 0x6
  | .fcps o => o.word 0x8 0x7
  | .fflr o => o.word 0x8 0x8
  | .fceil o => o.word 0x8 0x9
  | .frne o => o.word 0x8 0xA
  | .ftrn o => o.word 0x8 0xB
  | .fabs o => o.word 0x8 0xC
  | .fneg o => o.word 0x8 0xD
  | .fsat o => o.word 0x8 0xE
  | .fscl o => o.word 0x8 0xF
  | .fma o => o.word 0x9 0x0
  | .fms o => o.word 0x9 0x1
  | .fnma o => o.word 0x9 0x2
  | .fnms o => o.word 0x9 0x3
  | .hfma2 o => o.word 0x9 0x4
  | .bfma2 o => o.word 0x9 0x5
  | .dot4e4 o => o.word 0x9 0x6
  | .dot4e5 o => o.word 0x9 0x7
  | .dot4i o => o.word 0x9 0x8
  | .dot2h o => o.word 0x9 0x9
  | .cvtf o => o.word 0xA 0x0
  | .cvti o => o.word 0xA 0x1
  | .cvtp o => o.word 0xA 0x2
  | .expn o => o.word 0xA 0x3
  | .lutx o => o.word 0xA 0x4
  | .mxsc o => o.word 0xA 0x5
  | .feq o => o.word 0xB 0x0
  | .fne o => o.word 0xB 0x1
  | .flt o => o.word 0xB 0x2
  | .fle o => o.word 0xB 0x3
  | .fun o => o.word 0xB 0x4
  | .fcls o => o.word 0xB 0x5
  | .ieq o => o.word 0xB 0x6
  | .ine o => o.word 0xB 0x7
  | .ilt o => o.word 0xB 0x8
  | .ile o => o.word 0xB 0x9
  | .iltn o => o.word 0xB 0xA
  | .ilen o => o.word 0xB 0xB
  | .kand o => o.word 0xC 0x0
  | .kor o => o.word 0xC 0x1
  | .kxor o => o.word 0xC 0x2
  | .kandn o => o.word 0xC 0x3
  | .knot o => o.word 0xC 0x4
  | .kmov o => o.word 0xC 0x5
  | .kset o => o.word 0xC 0x6
  | .kcnt o => o.word 0xC 0x7
  | .kfirst o => o.word 0xC 0x8
  | .kall o => o.word 0xC 0x9
  | .kany o => o.word 0xC 0xA
  | .mov o => o.word 0xD 0x0
  | .vmovSel o => o.word 0xD 0x1
  | .shfl o => o.word 0xD 0x2
  | .shflx o => o.word 0xD 0x3
  | .shflup o => o.word 0xD 0x4
  | .shfldn o => o.word 0xD 0x5
  | .rdfl o => o.word 0xD 0x6
  | .rdln o => o.word 0xD 0x7
  | .bcst o => o.word 0xD 0x8
  | .lid o => o.word 0xD 0x9
  | .lpos o => o.word 0xD 0xA
  | .exp2 o => o.word 0xE 0x0
  | .log2 o => o.word 0xE 0x1
  | .rcp o => o.word 0xE 0x2
  | .rsq o => o.word 0xE 0x3
  | .sqrt o => o.word 0xE 0x4
  | .sin2pi o => o.word 0xE 0x5
  | .cos2pi o => o.word 0xE 0x6
  | .tanh o => o.word 0xE 0x7
  | .vriMovi o => o.word 0xF 0x0
  | .vriMovhi o => o.word 0xF 0x1
  | .addi16 o => o.word 0xF 0x2
  | .aadd o => o.word 0x13 0x0
  | .amin o => o.word 0x13 0x1
  | .amax o => o.word 0x13 0x2
  | .aminn o => o.word 0x13 0x3
  | .amaxn o => o.word 0x13 0x4
  | .aand o => o.word 0x13 0x5
  | .aor o => o.word 0x13 0x6
  | .axor o => o.word 0x13 0x7
  | .axchg o => o.word 0x13 0x8
  | .acas o => o.word 0x13 0x9
  | .afadd o => o.word 0x13 0xA
  | .abfadd2 o => o.word 0x13 0xB
  | .ldls o => o.word 0x14 0x0
  | .ldlv o => o.word 0x14 0x1
  | .ldl64 o => o.word 0x14 0x2
  | .lg2s o => o.word 0x15 0x0
  | .ls2g o => o.word 0x15 0x1
  | .bulk o => o.word 0x15 0x2
  | .mcast o => o.word 0x15 0x3
  | .dec o => o.word 0x15 0x4
  | .peer o => o.word 0x15 0x5
  | .dscd o => o.word 0x15 0x6
  | .pref o => o.word 0x15 0x7
  | .red o => o.word 0x15 0x8
  | .mma o => o.word 0x16 0x0
  | .mmaz o => o.word 0x16 0x1
  | .mmld o => o.word 0x16 0x2
  | .mmst o => o.word 0x16 0x3
  | .mmcl o => o.word 0x16 0x4
  | .mmcv o => o.word 0x16 0x5
  | .mmsp o => o.word 0x17 0x0
  | .spcmp o => o.word 0x17 0x1
  | .pcomp o => o.word 0x17 0x2
  | .pinv o => o.word 0x17 0x3
  | .nnz o => o.word 0x17 0x4
  | .wnw o => o.word 0x17 0x5
  | .wnf o => o.word 0x17 0x6
  | .wnx o => o.word 0x17 0x7
  | .fence o => o.word 0x18 0x0
  | .fencesc o => o.word 0x18 0x1
  | .ofence o => o.word 0x18 0x2
  | .bar o => o.word 0x18 0x3
  | .bara o => o.word 0x18 0x4
  | .barw o => o.word 0x18 0x5
  | .bart o => o.word 0x18 0x6
  | .txbi o => o.word 0x18 0x7
  | .txbe o => o.word 0x18 0x8
  | .txba o => o.word 0x18 0x9
  | .txbw o => o.word 0x18 0xA
  | .txbt o => o.word 0x18 0xB
  | .waita o => o.word 0x18 0xC
  | .hwait o => o.word 0x18 0xD
  | .htest o => o.word 0x18 0xE
  | .hcan o => o.word 0x18 0xF
  | .hexp o => o.word 0x18 0x10
  | .himp o => o.word 0x18 0x11
  | .sjoin o => o.word 0x19 0x0
  | .sleave o => o.word 0x19 0x1
  | .sinfo o => o.word 0x19 0x2
  | .ssub o => o.word 0x19 0x3
  | .sunsub o => o.word 0x19 0x4
  | .ssync o => o.word 0x19 0x5
  | .nbeg o => o.word 0x1A 0x0
  | .nxt o => o.word 0x1A 0x1
  | .nidx o => o.word 0x1A 0x2
  | .nbar o => o.word 0x1A 0x3
  | .nred o => o.word 0x1A 0x4
  | .nbc o => o.word 0x1A 0x5
  | .nmap o => o.word 0x1A 0x6
  | .nllm o => o.word 0x1A 0x7
  | .spawn o => o.word 0x1B 0x0
  | .launch o => o.word 0x1B 0x1
  | .tdone o => o.word 0x1B 0x2
  | .csrr o => o.word 0x1C 0x0
  | .csrw o => o.word 0x1C 0x1
  | .csrs o => o.word 0x1C 0x2
  | .csrc o => o.word 0x1C 0x3
  | .mpost o => o.word 0x1D 0x0
  | .mtake o => o.word 0x1D 0x1
  | .mpeek o => o.word 0x1D 0x2
  | .ld sz o => o.word 0x10 sz.code
  | .ldu sz o => o.word 0x10 sz.code
  | .st sz o => o.word 0x11 sz.code
  | .stu sz o => o.word 0x11 sz.code
  | .lds sz o => o.word 0x12 sz.code
  | .sts sz o => o.word 0x12 (8 + sz.code)
  | .ximm p => xwWord 0 p
  | .xreg p => xwWord 1 p
  | .xprd p => xwWord 2 p
  | .xmod p => xwWord 3 p
  | .xmem p => xwWord 4 p
  | .xsch p => xwWord 5 p
  | .xoff p => xwWord 6 p
  | _ => 0xFFFFFFFF

/-- The decoder: the form, if the word holds no non-zero reserved field and no reserved value. A word it refuses is
the unassigned or reserved encoding of 04/R78, which `.illegalInstruction` traps. -/
def decode (w : Word) : Option Instr :=
  match decodeForm w with
  | some i => if i.wf && encode i == w then some i else none
  | none => none

/-- The word stored little-endian at the lowest four bytes (04/R74). -/
def wordOfBytes (b0 b1 b2 b3 : Byte) : Word := b3 ++ b2 ++ b1 ++ b0

/-- The instruction the decoder reads from the word `w` of a row of the opcode table; every row with a word has 32
bits, which lie in memory little-endian. -/
def decodeTableWord (nbits w : Nat) : Option Instr :=
  if nbits = 0 then none
  else
    let x : Word := BitVec.ofNat 32 w
    decode (wordOfBytes (byteOf x 0) (byteOf x 1) (byteOf x 2) (byteOf x 3))

end Sys2Proof
end

