-- ==== Sys2Proof/Machine/State.lean ====
section
/-! DEFINITION. The state of the F9 as plain data: every piece of state the spec gives the machine (INVENTORY.md lists
them with their rules), the few fields of the model's own (`Ctl`), the reasons of a stop, and the state after reset. -/

namespace Sys2Proof.Machine

/-- Bytes by address in canonical form: addresses strictly rising, no zero byte listed. An unlisted byte reads 0
(DESIGN CHOICE, log entry 6). -/
abbrev Mem := List Host.Cell

/-- A program counter: segment handle and byte offset (04/R96). -/
structure Pc where
  seg : BitVec 16
  gen : BitVec 8
  off : Word
deriving DecidableEq, Repr

/-- A call frame: its return point (05/R120). The identifier tells stored frames apart (02/R35, R37). -/
structure Frame where
  pc : Pc
  id : Nat
deriving DecidableEq, Repr

/-- A path: PC, mask, call stack (innermost frame first) and the record it is linked to (02/R33, R35). -/
structure Path where
  pc : Pc
  mask : Mask
  frames : List Frame
  link : Option Nat
deriving DecidableEq, Repr

/-- An entry of the reconvergence stack (02/R33, R37): a record with the call stack of the path that pushed it, or a
pending path. -/
inductive StackEntry where
  | record (id : Nat) (rpc : Pc) (arrived : Mask) (frames : List Frame)
  | pending (p : Path)
deriving DecidableEq, Repr

/-- The nest state of a lane at one level (07/R224). -/
structure NestLv where
  ix : Word
  rc : Word
deriving DecidableEq, Repr

/-- A lane: identity, position, whether it has left, its v and k registers and its nest state (02/R21, R22, R29). -/
structure Lane where
  lid : Nat
  lpos : Nat
  left : Bool
  v : List Word
  k : BitVec 16
  nest : List NestLv
deriving DecidableEq, Repr

/-- A barrier handle (06/R172, R173): offset and member index of the word, the sheaf that holds it, the phase of the
arrival, the status code, the phases that have passed while its sheaf was stopped, and whether the word had reserved bits
set at the arrival, or lay in the destination of an operation not observed yet, which leaves the results undefined (06/R169,
R170). -/
structure BarHandle where
  off : Nat
  member : Nat
  own : Bool
  holder : Nat
  ph : Nat
  code : Nat
  passed : Nat
  bad : Bool
deriving DecidableEq, Repr

/-- A barrier arrival a sheaf has sent over a channel (08/R251): on its way, refused with the cause of its error response,
or made with its record; `back` once the response has returned. -/
inductive Arrival where
  | sent
  | refused (cause : Nat) (back : Bool)
  | made (b : BarHandle) (back : Bool)
deriving DecidableEq, Repr

/-- A handle register (06/R180): empty, an engine operation, or a barrier handle. -/
inductive Handle where
  | empty
  | op (id : Nat)
  | bar (b : BarHandle)
deriving DecidableEq, Repr

/-- An accumulator tile: its rows (none: never written, 02/R29 undefined), bad rows (20/R421), and the counter value its
free contents are drawn from. -/
structure Tile where
  seed : Nat
  rows : List (Option (List Word))
  bad : BitVec 64
deriving DecidableEq, Repr

/-- The space of an access that waits in the sheaf's queues (06/R144). -/
inductive Space where
  | glob | slm
deriving DecidableEq, Repr

/-- What an access does. -/
inductive AccKind where
  | load
  | store
  | atomic (op : Nat)
deriving DecidableEq, Repr

/-- Where a returned value goes: registers from `reg` of a lane (v) or of the sheaf (s); sign-extended or not. -/
structure Dest where
  isV : Bool
  reg : Nat
  signed : Bool
deriving DecidableEq, Repr

/-- How far an access has come: waiting, drained towards its home (with its drain number), or in the operand log (with its
drain number, if it had been drained before). -/
inductive Stage where
  | queued
  | drained (n : Nat)
  | logged (sent : Option Nat)
deriving DecidableEq, Repr

/-- One memory request of a sheaf (08/R238): address, size in bytes, store data or atomic operands, destination, scope,
order and hint, its instruction and unit, how long it still waits in the gather collector, in thousandths of a cycle
(06/R151), whether 06/R169 leaves its value undefined, its stage, and of a b128 load the value of the half that has been performed (02/R40). -/
structure Access where
  id : AccId
  kind : AccKind
  space : Space
  addr : Nat
  size : Nat
  data : BitVec 128
  dest : Option Dest
  scp : BitVec 3
  ord : BitVec 2
  ch : BitVec 2
  insn : Word
  xmem : BitVec 24
  pc : Pc
  gath : Nat
  undef : Bool
  stage : Stage
  held : Option DWord
deriving DecidableEq, Repr

/-- An entry of the sheaf's memory queues in program order: IQ and SB of 08/R238 in one list. -/
inductive MqEntry where
  | acc (a : Access)
  | release (seq : Nat) (scp : BitVec 3)
  | acqOf (seq : Nat) (scp : BitVec 3)
  | acqFence (seq : Nat) (scp : BitVec 3)
deriving DecidableEq, Repr

/-- A sheaf's status (02/R22, 17/R381, R387, R390, R395). A parked sheaf waits for the page of `va`: of a fetch, or of
the engine command whose word is given (07/R190). -/
inductive Run where
  | running
  | parked (va : Nat) (command : Option Word)
  | halted
  | draining
  | stopped (code : Nat) (safe : Option Nat)
  | waiting            -- admitted, not yet placed
  | ended
deriving DecidableEq, Repr

/-- Trap state of a sheaf (17/R385, R386); `ret` is the point TRAPE resolves to, `seq` the number the sheaf had reached when it
entered the handler. -/
structure Trap where
  v : DWord
  e : DWord
  a : DWord
  c : Word
  i : Word
  inH : Bool
  ret : Option Pc
  seq : Nat
deriving DecidableEq, Repr

/-- The chain of extension words read so far: payloads by kind and the PC of the first (04/R79). -/
structure Chain where
  pc0 : Option Pc
  words : List (Nat × BitVec 24)
deriving DecidableEq, Repr

/-- A scratch allotment: base and size in KiB within the core's scratchpad, and its identifier (09/R268, 10/R297). -/
structure Alloc where
  base : Nat
  kib : Nat
  id : Nat
deriving DecidableEq, Repr

/-- A stop request on a sheaf (17/R390): what is left of PRETO, in thousandths of a cycle (01/R16), and whether PRETO has
expired. -/
structure StopReq where
  left : Nat
  due : Bool
deriving DecidableEq, Repr

/-- A result still on its way to a register group (02/R31, R38): first register, registers, the lanes, by LID, and whether FFLG
is pending with it. -/
structure LateRes where
  reg : Nat
  n : Nat
  lids : List Nat
  flags : Bool
deriving DecidableEq, Repr

/-- An operand-log entry (17/R383): its lanes are the accesses of the sheaf with stage `logged` named in `accs`; `addrs` holds
each lane's LID and address, `cause` what an unserviceable entry raises, `unit` the sheaf's number of the instruction. -/
structure LogEntry where
  uid : Nat
  core : Nat
  seq : Nat
  insn : Word
  xmem : BitVec 24
  page : Nat
  state : Nat
  accs : List AccId
  addrs : List (Nat × DWord)
  pc : Pc
  cause : Nat
  unit : Nat
deriving DecidableEq, Repr

/-- A sheaf and everything it owns (02/R21 to R37, 04/R92, 17/R395). `origins` are the launches whose tasks a task sheaf
holds (14/R325); `lvf` the FLAGS of the levels of its nest (14/R326); `saved` and `savedBad` the scratch image of a stopped sheaf, by offset (17/R392); `late` the SFU and
conversion results on their way; `arr` a barrier arrival on its way; `txbs` the own offsets of live transaction barriers
(06/R174); `lastU` and `lastV` when it last issued on the uniform and on the vector pipe, `rdy` how long it has been
ready since, in thousandths of a cycle (14/R342), `hinted` whether it has given hints to the issue selector (04/R87); `raised` the causes of its units found outside the operand
log and still to be raised (02/R40, R41), each as an entry of its lanes; `queued` marks a sheaf read from a context image that
has not resumed yet (17/R398). -/
structure Sheaf where
  uid : Nat
  shid : Word
  shln : Nat
  vn : Nat
  mt : Nat
  core : Nat
  ctx : Nat
  ln : Word
  launch : Nat
  prio : Nat
  task : Bool
  seqr : Bool
  taskSlot : Option Nat
  origins : List Nat
  alloc : Alloc
  s : List Word
  h : List Handle
  tiles : List Tile
  gw : Nat
  fflg : BitVec 5
  dthr : BitVec 13
  mapl : List Word
  extl : List Word
  llmTab : List (Nat × Nat)
  lvf : List Nat
  lanes : List Lane
  path : Option Path
  stack : List StackEntry
  chain : Chain
  trap : Trap
  sstk : DWord
  sstks : Word
  stook : Option (Nat × Nat)
  mq : List MqEntry
  nseq : Nat
  ofence : Option Nat
  unfenced : List Host.Cell
  bar : Option BarHandle
  arr : Option Arrival
  late : List LateRes
  raised : List LogEntry
  txbs : List Nat
  lastU : Nat
  lastV : Nat
  rdy : Nat
  hinted : Bool
  waiting : Bool
  sleep : Nat
  timeL : Option Word
  run : Run
  stop : Option StopReq
  fbuf : Option Word
  safeV : BitVec 128
  saved : Mem
  savedBad : List Nat
  admitAt : Nat
  admitFused : Bool
  queued : Bool
deriving DecidableEq, Repr

/-- The energy budget of a context on one die (10/R292 to R294): BUD, RATE, the debits of the window, SHORT, the
window last begun, whether work of a declared class has been done in it, and the energy measured in the one before. -/
structure Energy where
  bud : Int
  rate : Nat
  debits : Nat
  short : Nat
  win : Nat
  work : Bool
  last : Nat
deriving DecidableEq, Repr

/-- A slot of the export table (06/R184, 17/R393): generation and, when in use, the operation. -/
structure Export where
  slot : Nat
  gen : Word
  op : Option Nat
deriving DecidableEq, Repr

/-- A slice-memory window grant (17/R394). -/
structure Window where
  pos : Nat
  num : Nat
  slice : Nat
  kib : Nat
  base : Nat
deriving DecidableEq, Repr

/-- A loaded object (16/R363): name, segment indices, exports (name, capability), link slots (VA, cell), import cells
(name, VA), tensor indices, and the indices of its retired segments (16/R366, R372). -/
structure Obj where
  id : Nat
  name : List Byte
  segs : List Nat
  exports : List (List Byte × DWord)
  slots : List (Nat × Nat)
  cells : List (List Byte × Nat)
  tensors : List Nat
  old : List Nat
deriving DecidableEq, Repr

/-- A context: the fields of its record (17/R394) and the state the device keeps for it; `resolver` is the capability of its
resolver entry, 0 for none (16/R363, R369); `wrote` holds the lines written
since its last CTXSAVE (20/R421). -/
structure Ctx where
  id : Nat
  live : Bool
  asid : Nat
  vf : Nat
  ptroot : Nat
  tdbase : Nat
  cb : Nat
  bb : Nat
  pb : Nat
  preto : Nat
  fmbx : Nat
  csa : Nat
  sgrant : List Nat
  sgrantVa : Nat
  flost : Word
  lnext : Word
  bidx : Nat
  tstk : DWord
  tstkn : Nat
  tstks : Nat
  win : List Window
  exports : List Export
  energy : List Energy
  tasks : List (Nat × Nat)
  objs : List Obj
  resolver : DWord
  stopped : Bool
  wrote : List Nat
deriving DecidableEq, Repr

/-- The STATE of a segment (16/R362). -/
inductive SegState where
  | free | live | retired | revoked
deriving DecidableEq, Repr

/-- An entry of a segment's entry list (16/R350). -/
structure EntryRec where
  off : Word
  vn : Nat
  mt : Nat
  scr : Nat
  sstks : Nat
  launch : Bool
  task : Bool
deriving DecidableEq, Repr

/-- A safe-point record (16/R351). -/
structure SafeRec where
  vlive : BitVec 128
  slive : BitVec 64
  hlive : BitVec 32
  klive : BitVec 16
deriving DecidableEq, Repr

/-- A segment table entry (16/R362). Entry list and safe-point table are kept with it as the loader placed them. REFC is
derived (log entry 35). -/
structure Seg where
  idx : Nat
  base : Nat
  len : Nat
  gen : BitVec 8
  state : SegState
  owner : Nat
  elistVa : Nat
  sptVa : Nat
  elist : List EntryRec
  spt : List SafeRec
deriving DecidableEq, Repr

/-- The home of a line (08/R238): value, dirty and bad bytes, LEMAX, LL, the order of the writes performed since it entered
L2 (writer, offset, bytes; the first performed first), page-logged mark, PA, permissions of its translation, home slice,
the sheaves with writes not yet at the pool (06/R165, 19/R414), and when patrol scrubbing last visited it (20/R422). -/
structure Home where
  asid : Nat
  line : Nat
  data : BitVec 1024
  dirty : BitVec 128
  bad : BitVec 128
  lemax : Nat
  ll : Nat
  writes : List (Nat × Nat × List Byte)
  logged : Bool
  pa : Nat
  hm : Bool
  r : Bool
  w : Bool
  x : Bool
  slice : Nat
  owed : List Nat
  seen : Nat
deriving DecidableEq, Repr

/-- A leased copy in an L1 (08/R238): which L1 (core, or 10000 + cluster when fused), value, bytes of bad sectors
(20/R423) and lease end. -/
structure Copy where
  l1 : Nat
  asid : Nat
  line : Nat
  data : BitVec 1024
  bad : BitVec 128
  le : Nat
deriving DecidableEq, Repr

/-- A cached translation (17/R377): the TLB that holds it (core c's engine TLB is c, the memory-side TLB of port p is
2000 + p), ASID (0 for a global mapping), first page and page count in 64 KiB units, PA, and the leaf's bits. -/
structure Tlb where
  place : Nat
  asid : Nat
  page : Nat
  n : Nat
  pa : Nat
  hm : Bool
  r : Bool
  w : Bool
  x : Bool
  pte : Nat
deriving DecidableEq, Repr

/-- An instruction-cache line (01/R14, 16/R364): the words of an aligned 64-byte block of a segment. -/
structure ICLine where
  core : Nat
  seg : BitVec 16
  gen : BitVec 8
  blk : Nat
  words : List Word
deriving DecidableEq, Repr

/-- What a request on a scratch channel does: an access of a lane, a barrier arrival, or a read or an aligned 8-byte write
(or part of one) of an engine operation, given with its unit (08/R251, R253). -/
inductive ChanKind where
  | acc (k : AccKind)
  | arrive
  | opRead (op unit : Nat)
  | opWrite (op unit : Nat)
deriving DecidableEq, Repr

/-- A request on a scratch channel (08/R251): source and target core, issuing sheaf, what it does, resolved byte
address in the target scratchpad, where a value returns, its unit and TRAPA, whether 06/R169 leaves its value undefined, and
of a b128 load what the half that has returned gave: its value, or none where it was uncorrectable. -/
structure ChanReq where
  src : Nat
  dst : Nat
  uid : Nat
  id : AccId
  kind : ChanKind
  addr : Nat
  size : Nat
  data : BitVec 128
  dest : Option Dest
  holder : Nat
  insn : Word
  pc : Pc
  trapa : DWord
  undef : Bool
  half : Option (Option DWord)
deriving DecidableEq, Repr

/-- A response or acknowledgement on its way back over a channel (08/R238): the request, the value read, and whether the
data was uncorrectable. -/
structure ChanResp where
  req : ChanReq
  val : Nat
  bad : Bool
deriving DecidableEq, Repr

/-- Memory of the device (01, 08, 17). `badScr` lists the bad 4-byte words of scratch by absolute address, `badSlm` the bad
bytes of slice memory (20/R421, R423); `moved` the bytes of lines moved between L2 and the pool in this microsecond and the
last one (ASID, microsecond, bytes; 14/R339); `chans` and `backs` are the two FIFOs of every channel, oldest first. -/
structure MemSys where
  pool : Mem
  host : Mem
  slm : Mem
  scr : Mem
  holder : List (Nat × Nat)
  badScr : List Nat
  badSlm : List Nat
  homes : List Home
  l1 : List Copy
  ic : List ICLine
  tlb : List Tlb
  moved : List (Nat × Nat × Nat)
  chans : List ChanReq
  backs : List ChanResp
deriving DecidableEq, Repr

/-- A member entry (09/R268). -/
structure Member where
  idx : Nat
  uid : Nat
  hld : Bool
deriving DecidableEq, Repr

/-- A stook (09/R267): name, context, cluster, kind, anchor, members. -/
structure Stook where
  id : Nat
  name : Word
  ctx : Nat
  cluster : Nat
  launched : Bool
  anch : Nat
  members : List Member
deriving DecidableEq, Repr

/-- A reduction of a nest iteration (07/R228, 14/R332): the XA320 value or integer sum and its flags, TY and op of its
contributions, their number, the least or greatest so far, and whether TY or op differed. -/
structure NestAcc where
  v : BitVec 320
  f : BitVec 3
  ty : Nat
  op : Nat
  n : Nat
  mm : Option DWord
  mixed : Bool
deriving DecidableEq, Repr

/-- The synchronisation state of one iteration of a nest level (07/R226 to R229, 14/R332): the agents' launch, level and
iteration coordinates; the agents that have arrived at an NBAR, each with the phase it arrived in, and the phase; the
open reduction, the one closed last, the agents that have executed get:1, each with its round, and the round; the values
iteration 0 has supplied by NBC (number, lane, value) and how many NBC each agent has executed (agent, iteration,
count). -/
structure NestSync where
  launch : Nat
  lv : Nat
  key : List Nat
  arr : List (Nat × Nat)
  phase : Nat
  acc : NestAcc
  last : NestAcc
  got : List (Nat × Nat)
  round : Nat
  nbc : List (Nat × Nat × Word)
  nbcN : List (Nat × Nat × Nat)
deriving DecidableEq, Repr

/-- The state of a subscription (09/R276, R278). -/
inductive SubState where
  | live | detached | resync
deriving DecidableEq, Repr

/-- A batch of a subscription (09/R279): its line, the updates, the parties that caused them, whether it is sent. -/
structure Batch where
  id : Nat
  line : Nat
  bytes : List Host.Cell
  causes : List Nat
  sent : Bool
deriving DecidableEq, Repr

/-- A subscription (09/R276). -/
structure Sub where
  uid : Nat
  id : Nat
  subr : Nat
  pubr : Nat
  soff : Nat
  poff : Nat
  len : Nat
  state : SubState
  dirty : List Nat
  batches : List Batch
deriving DecidableEq, Repr

/-- Stooks, subscriptions and nest synchronisation. -/
structure StookSys where
  stooks : List Stook
  subs : List Sub
  nests : List NestSync
deriving DecidableEq, Repr

/-- A tensor-table entry, decoded (07/R186). VER goes with the operation; no record of the spec has a field for it (log entry 74). -/
structure Entry where
  base : Nat
  rstr : Nat
  rows : Nat
  cols : Nat
  trow : Nat
  tcol : Nat
  scoff : Int
  scstr : Nat
  ver : Nat
  fmt : Nat
  spc : Nat
  lay : Nat
  skr : Bool
  pmem : Nat
  rdev : Nat
deriving DecidableEq, Repr

/-- The kinds of engine operation (07). -/
inductive OpKind where
  | lg2s | ls2g | bulk | mcast | dec | peer | dscd | pref | red | wnx
  | mma | mmaz | mmld | mmst | mmcl | mmcv | mmsp | spcmp | pcomp | nnz | wnw | wnf
deriving DecidableEq, Repr

/-- One lane of a per-lane copy: LID, global or slice address, scratch offset, skipped or not. -/
structure LaneCopy where
  lid : Nat
  g : Nat
  o : Nat
  skip : Bool
deriving DecidableEq, Repr

/-- A multicast's transfer to one member (07/R199): index, receiving sheaf once started, suppressed or not. -/
structure Xfer where
  idx : Nat
  tgt : Option Nat
  supp : Bool
deriving DecidableEq, Repr

/-- A page an engine operation pins: ASID, 64 KiB page, and the page's PA, in host memory or the pool (17/R378, 19/R413). -/
structure Pin where
  asid : Nat
  page : Nat
  pa : Nat
  hm : Bool
deriving DecidableEq, Repr

/-- An engine operation (08/R238): command and parameters, tensor entries as read at issue, captured operands by unit,
lines copied under lease with their bytes of bad sectors, units written, units counted at a TXB, row progress, flags, OPGW, status; `viol` the error conditions met, each cause once with its first address (17/R389); `fva` the address whose page a suspended operation waits for (10/R289). `srcR` and `dstR` are the
ranges it reads and writes, as (space, address, length): space 0 global, 1 scratch (absolute), 2 slice memory; `txbs` the transaction
barriers it names, by absolute scratch address. `raw` marks an operation read from a context image that has not re-entered
its engine yet: its entries and ranges are still to be read, and `rp` holds its PROG (17/R397). `seq` is the number its sheaf
had reached at the submission; `seenBy` the sheaves that have observed it outside PENDING (06/R169, R182); `regs` the v
registers it names as operands (06/R169); `stage` how far its Complete has come: 0 not begun, 1 the TXB decrements made,
2 the flag store made (08/R253); `idle` the thousandths of a cycle since its last progress (10/R290); `parts` the aligned 8-byte
parts written of units not written whole (08/R253). -/
structure Op where
  id : Nat
  sheaf : Nat
  core : Nat
  ctx : Nat
  hreg : Nat
  kind : OpKind
  insn : Word
  xmod : BitVec 24
  xmem : BitVec 24
  blk : List Word
  tile : Nat
  ents : List Entry
  lanes : List LaneCopy
  xfers : List Xfer
  cap : List (Nat × List Byte)
  lines : List (Nat × BitVec 1024 × BitVec 128)
  done : List Nat
  counted : List Nat
  rp : Nat
  susp : Bool
  fva : Nat
  facc : BitVec 5
  opgw : Nat
  code : Nat
  detail : BitVec 48
  viol : List (Nat × DWord)
  status : Option DWord
  taint : Bool
  trunc : Bool
  srcR : List (Nat × Nat × Nat)
  dstR : List (Nat × Nat × Nat)
  txbs : List Nat
  stale : List Host.Cell
  comp : Option Bool
  stalls : Nat
  resting : Bool
  raw : Bool
  seq : Nat
  seenBy : List Nat
  regs : List Nat
  stage : Nat
  idle : Nat
  parts : List (Nat × Nat)
  pins : List Pin
deriving DecidableEq, Repr

/-- The state of a pattern-cache entry (10/R299). -/
inductive PatState where
  | compiling | compiled | dense
deriving DecidableEq, Repr

/-- A pattern-cache entry (10/R297 to R302). -/
structure Pattern where
  id : Nat
  core : Nat
  ctx : Nat
  alloc : Nat
  off : Nat
  fmt : Nat
  dthr : Nat
  state : PatState
  uops : Nat
  bits : List Nat
  used : Nat
deriving DecidableEq, Repr

/-- A code table held by a core's decompressor (10/R308). -/
structure CodeTab where
  core : Nat
  asid : Nat
  va : Nat
  ctid : Word
  lens : List Nat
  used : Nat
deriving DecidableEq, Repr

/-- The engines. -/
structure EngSys where
  ops : List Op
  pats : List Pattern
  tabs : List CodeTab
  fenced : List Nat
  fails : List (Nat × Nat)
deriving DecidableEq, Repr

/-- A violation entry (17/R389). -/
structure Viol where
  core : Nat
  ctx : Nat
  shid : Word
  cause : Nat
  addr : DWord
deriving DecidableEq, Repr

/-- Faults: operand log, Page Requests outstanding, violation rings (newest first) and counts. -/
structure FltSys where
  log : List LogEntry
  reqs : List PageReq
  refused : List PageReq
  ring : List Viol
  counts : List (Nat × Nat × Nat)
deriving DecidableEq, Repr

/-- A mailbox (14/R320): head address in slice memory (slice · 2^26 + offset), kind, slots, owner, waiting messages
oldest first. -/
structure Mbx where
  head : Nat
  kind : Nat
  nslot : Nat
  slotb : Nat
  ctx : Nat
  msgs : List (List Byte)
deriving DecidableEq, Repr

/-- A queued task (14/R335): its record, context, capability, the launch of the spawning sheaf, the launches whose
completion waits for the task (14/R325), the priority, and when it was queued. -/
structure Task where
  regs : List Word
  ctx : Nat
  cap : DWord
  ln : Word
  launch : Nat
  froms : List Nat
  prio : Nat
  at_ : Nat
deriving DecidableEq, Repr

/-- A launch (14/R319 to R331): the port it came from, packet, launch number, dependences satisfied, mapping, level-local regions, FLAGS of the
levels, sheaf shape and number, allotment, entry, members of each launch-created stook (0: no stook), the place in the order in which
launches became ready, sheaves admitted, task sheaves formed, completed. -/
structure Launch where
  id : Nat
  ctx : Nat
  die : Nat
  port : Nat
  packet : List Byte
  ln : Word
  deps : List Bool
  ready : Bool
  mapl : List Word
  extl : List Word
  llmTab : List (Nat × Nat)
  lvf : List Nat
  shln : Nat
  n : Nat
  scr : Nat
  entry : Pc
  unitN : Nat
  order : Nat
  started : Nat
  taskN : Nat
  done : Bool
deriving DecidableEq, Repr

/-- The launch side: mailboxes, task queues per cluster, launches. -/
structure JobSys where
  mbx : List Mbx
  tasks : List (Nat × Task)
  launches : List Launch
deriving DecidableEq, Repr

/-- A system command in progress (17/R380): its status and detail so far, and the reading by which the leases it waits
for have ended. -/
structure CmdRun where
  id : Nat
  op : Nat
  cmd : Cmd
  status : Word
  detail : DWord
  until_ : Nat
deriving DecidableEq, Repr

/-- Dirty logging of a function (17/R399). -/
structure DirtyLog where
  vf : Nat
  bitmap : Nat
  len : Nat
deriving DecidableEq, Repr

/-- The mask of a slice (20/R431): in effect, and pending. -/
structure Ways where
  slice : Nat
  mask : BitVec 16
  pend : Option (BitVec 16)
deriving DecidableEq, Repr

/-- A quiesced or mapped-out part: kind 1 core, 2 cluster, 3 slice, with its global number (20/R428). -/
structure Part where
  kind : Nat
  num : Nat
deriving DecidableEq, Repr

/-- A message to management or, through it, to the host driver: the 24 bytes of an event (20/R426), the answer to a request
(20/R435, R437), telemetry, the answer about an extent (19/R413). -/
inductive MgmtMsg where
  | event (bytes : List Byte)
  | answer (kind : String) (bytes : List Byte)
  | telemetry (figures : List Nat)
  | extentAnswer (base : Nat) (released : Bool)
deriving DecidableEq, Repr

/-- Repair, health, firmware and management (20). -/
structure RepSys where
  quiesced : List Part
  out : List Part
  binding : List (Nat × Nat)
  spareCores : List (Nat × Nat)
  spareSlices : List (Nat × Nat)
  ways : List Ways
  waySel : List (Nat × Nat)
  repl : Bool
  fatal : Bool
  runB : Bool
  imgA : Option FwImage
  imgB : Option FwImage
  fuse : Nat
  restarting : Bool
  corrected : List (Nat × Nat)
  msgs : List MgmtMsg
  vfs : Nat
  sriov : Bool
  ats : Bool
  clock : List Nat
  hot : List Nat
  on : Bool
  shutdown : Option Nat
  booted : Bool
deriving DecidableEq, Repr

/-- What the sheaf-stack region of a saved sheaf holds besides its record (17/R396): paths, frames, the trap's return
point, the level-local regions and FLAGS of its nest, what its lanes have done in the nest synchronisations they take part
in (by LID), the operations its handle registers hold with whether it has observed them and its other operations (register 32),
its barrier handles by register and its BAR record (register 32), its live transaction barriers, all scratch addresses relative
to the allotment; the queue of its logged accesses and markers with its number, its causes still to be raised (17/R383), the export slots of its
operations by register (06/R184), the launch numbers of its tasks (14/R325), the task sheaves its launch has formed (14/R335) and the number it had reached
when it entered its handler; the region keeps them in an arrangement of the device's own (02/R37; log entry 37). -/
structure SavedStack where
  ctx : Nat
  ln : Word
  shid : Word
  path : Option Path
  stack : List StackEntry
  ret : Option Pc
  llmTab : List (Nat × Nat)
  lvf : List Nat
  syncs : List NestSync
  held : List (Nat × Bool × Op)
  bars : List (Nat × BarHandle)
  txbs : List Nat
  mq : List MqEntry
  log : List LogEntry
  raised : List LogEntry
  nseq : Nat
  exps : List (Nat × Nat)
  origins : List Word
  taskN : Nat
  trapSeq : Nat
deriving DecidableEq, Repr

/-- System commands, their statuses stored in host memory, dirty logging, what host reads of BAR0 have returned (function, offset,
bytes; 19/R405, R406), and the launch numbers behind the queued tasks of each saved context, record by record (14/R325). -/
structure SysSys where
  cmds : List CmdRun
  logs : List DirtyLog
  lastVf : List (Nat × Nat)
  statuses : List (DWord × Word × DWord)
  regions : List SavedStack
  reads : List (Nat × Nat × List Byte)
  queued : List (Nat × List (List Word))
deriving DecidableEq, Repr

/-- A tie link (19/R415). -/
structure Link where
  num : Nat
  up : Bool
  next : Nat
  fails : Nat
deriving DecidableEq, Repr

/-- What a reduction round holds of its contributions (19/R419): a contribution of this device, with the root's operation,
or a partial that stands for `n` of them; operator, result format, format of the elements, `wide` for XA320 elements. -/
structure Contrib where
  gid : Word
  op : Option Nat
  rows : Nat
  cols : Nat
  kind : BitVec 2
  ty : BitVec 5
  fmt : Nat
  n : Nat
  wide : Bool
  elems : List (List Byte)
deriving DecidableEq, Repr

/-- A capacity extent of the pool: base, length, root port, and the function it is assigned to (19/R412, 17/R399). -/
structure Extent where
  base : Nat
  len : Nat
  port : Nat
  fn : Nat
deriving DecidableEq, Repr

/-- The tie fabric and the pool's extents (19); `self` is the device's own number on the fabric, which groups and tensor entries
name (19/R418, R419; log entry 80). -/
structure FabSys where
  links : List Link
  bindings : List (Nat × Nat × Nat)
  groups : List GroupRec
  contribs : List Contrib
  extents : List Extent
  releasing : List Nat
  self : Nat
deriving DecidableEq, Repr

/-- The sequencer of a core (04/R105): SEQM's fields, the sheaf it runs, the first address of the chain being read. -/
structure Seqr where
  core : Nat
  en : Bool
  flag : Bool
  link : Nat
  upc : Nat
  next : Option Nat
  uid : Nat
  chain0 : Option Nat
deriving DecidableEq, Repr

/-- An error in a stored array (20/R421; log entry 29): corrected in an array; uncorrectable in an L1 copy (of a fused L1, in the part of the
named core; in its data or its tags), an instruction-cache line, a translation, a 32-byte sector of an L2 line or of slice memory, a 4-byte word of a scratchpad by absolute address,
a row of a tile, a register (class 1 v, 2 s, 3 k, 4 h, 5 stack), an operand-log entry, or a table of the device. -/
inductive Upset where
  | corrected (array : Nat)
  | l1 (l1 asid line core : Nat) (tags : Bool)
  | ic (core seg blk : Nat)
  | tlb (place asid page : Nat)
  | l2 (asid line sector : Nat)
  | slm (sector : Nat)
  | scratch (word : Nat)
  | row (uid tile r : Nat)
  | reg (uid cls n : Nat)
  | log (uid seq : Nat)
  | table (array : Nat)
deriving DecidableEq, Repr

/-- What the outside world does to the machine besides the steps that have a row in the opcode table (log entry 1): a host read
through BAR0 of a function (19/R405, R406); a host access to a page of host memory that a context's page maps (19/R408); management reading the
health register, a core's violation ring or a CSR that firmware sees (20/R425, R426, R431; 17/R399; 04/R105); the configuration of
the host port (20/R436); the fabric manager assigning an extent to a function (17/R399). -/
inductive Outside where
  | readBar (fn off n : Nat)
  | touchPage (pa : Nat)
  | readHealth
  | readRing (core : Nat)
  | readCsr (csr place : Nat)
  | hostPort (vfs : Nat) (sriov ats : Bool)
  | assignExtent (base fn : Nat)
deriving DecidableEq, Repr

/-- What the schedule does next: a step of the device, an issue by a sheaf, the passing of time, an error in an array, or an act of the
outside world (log entry 1). -/
inductive Move where
  | event (i : Instr)
  | issue (uid : Nat)
  | elapse (ns : Nat)
  | upset (u : Upset)
  | outside (o : Outside)
deriving DecidableEq, Repr

/-- The model's own fields (log entries 1 and 3): moves the environment and the device have chosen; whose turn it is when
none is chosen; the sheaf that issues next; the place in the round of the device's own steps; the counter of free values;
the counter of fresh identifiers; TIME in nanoseconds. -/
structure Ctl where
  agenda : List Move
  svc : Bool
  cur : Nat
  turn : Nat
  free : Nat
  nextId : Nat
  time : Nat
deriving DecidableEq, Repr

/-- The state of the machine. -/
structure State where
  ctl : Ctl
  sheaves : List Sheaf
  ctxs : List Ctx
  segs : List Seg
  mm : MemSys
  stk : StookSys
  eng : EngSys
  flt : FltSys
  job : JobSys
  sys : SysSys
  rep : RepSys
  fab : FabSys
  seqs : List Seqr
deriving DecidableEq, Repr

/-- Why the machine stops with a fault. -/
inductive Fault where
  /-- Raised by every instruction word when the schedule's current sheaf is no sheaf of the machine: no sheaf can be
  said to execute it. Safe: no program of the device is in that position (log entry 4). -/
  | noSheaf
deriving DecidableEq, Repr

/-- Why an instruction has no meaning in the model. -/
inductive Refusal where
  /-- Raised by the arm of an instruction that is not modelled yet. Safe: the model stops where the device goes on. -/
  | notModelled (mnemonic : String)
deriving DecidableEq, Repr

/-- The model's answer. -/
abbrev Out := Host.Outcome State Fault Refusal

/-- The state at power-on, before the boot ROM runs: no sheaf, no context, no segment, every cache empty, every
scratchpad unit held by no context (09/R264), every way cache (20/R433), two spare cores a cluster and one spare slice a
die (20/R425), both firmware images as delivered (log entry 36), all links up, arithmetic clocks at 3300 MHz, which is the
model's choice: 01/R16 gives only a maximum (log entry 54). -/
def State.reset : State where
  ctl := { agenda := [], svc := false, cur := 0, turn := 0, free := 0, nextId := 1, time := 0 }
  sheaves := []
  ctxs := []
  segs := []
  mm := { pool := [], host := [], slm := [], scr := [], holder := [], badScr := [], badSlm := [], homes := [], l1 := [], ic := [],
          tlb := [], moved := [], chans := [], backs := [] }
  stk := { stooks := [], subs := [], nests := [] }
  eng := { ops := [], pats := [], tabs := [], fenced := [], fails := [] }
  flt := { log := [], reqs := [], refused := [], ring := [], counts := [] }
  job := { mbx := [], tasks := [], launches := [] }
  sys := { cmds := [], logs := [], lastVf := [], statuses := [], regions := [], reads := [], queued := [] }
  rep := { quiesced := [], out := [], binding := [], spareCores := [], spareSlices := [], ways := [], waySel := [],
           repl := false, fatal := false, runB := false, imgA := some ⟨1, 1, []⟩, imgB := none, fuse := 1,
           restarting := false, corrected := [], msgs := [], vfs := 1, sriov := true, ats := true, clock := [3300, 3300, 3300, 3300], hot := [],
           on := true, shutdown := none, booted := false }
  fab := { links := [], bindings := [], groups := [], contribs := [], extents := [], releasing := [], self := 0 }
  seqs := []

end Sys2Proof.Machine
end

