-- ==== Sys2Proof/Machine/Ops.lean ====
section
/-! DEFINITION. The named operations over registers, memory and the sheaf's paths, taking a trap and returning from one. -/

namespace Sys2Proof.Machine

/-! ### Numbers and free values -/

/-- Sign-extend a bit vector to an integer offset. -/
def sextInt {n : Nat} (x : BitVec n) : Int := x.toInt

/-- The low word of the n-th free value (log entry 3). -/
def freeWord (n : Nat) : Word := (Config.freeValue n).truncate 32

/-- The low byte of the n-th free value. -/
def freeByte (n : Nat) : Byte := (Config.freeValue n).truncate 8

/-- The low bit of the n-th free value. -/
def freeBit (n : Nat) : Bool := (Config.freeValue n).getLsbD 0

/-- Draw `k` free values: the counter moves past them. -/
def State.draw (s : State) (k : Nat) : State := { s with ctl := { s.ctl with free := s.ctl.free + k } }

/-- A fresh identifier is `s.ctl.nextId`; this moves the counter past `k` of them. -/
def State.fresh (s : State) (k : Nat) : State := { s with ctl := { s.ctl with nextId := s.ctl.nextId + k } }

/-! ### Byte memory -/

/-- The byte at an address. -/
def Mem.get : Mem → Nat → Byte
  | [], _ => 0
  | (k, b) :: m, a => if k = a then b else if a < k then 0 else Mem.get m a

/-- Write one byte, keeping the canonical form. -/
def Mem.put : Mem → Nat → Byte → Mem
  | [], a, b => if b = 0 then [] else [(a, b)]
  | (k, c) :: m, a, b =>
    if a < k then (if b = 0 then (k, c) :: m else (a, b) :: (k, c) :: m)
    else if a = k then (if b = 0 then m else (a, b) :: m)
    else (k, c) :: Mem.put m a b

/-- Write consecutive bytes. -/
def Mem.write : Mem → Nat → List Byte → Mem
  | m, _, [] => m
  | m, a, b :: bs => Mem.write (Mem.put m a b) (a + 1) bs

/-- Read `n` consecutive bytes. -/
def Mem.read (m : Mem) (a n : Nat) : List Byte := (List.range n).map fun i => Mem.get m (a + i)

/-- Remove every byte of a range: it reads as zero again. -/
def Mem.clear (m : Mem) (a n : Nat) : Mem := m.filter fun c => c.1 < a || a + n ≤ c.1

/-- Every listed address lies above `lo`, addresses rise strictly, no listed byte is zero. -/
def Mem.wfFrom : Nat → Mem → Bool
  | _, [] => true
  | lo, (k, b) :: m => decide (lo ≤ k) && b != 0 && Mem.wfFrom (k + 1) m

/-- The canonical form of a memory. -/
def Mem.wf (m : Mem) : Bool := Mem.wfFrom 0 m

/-- Bytes to a number, little-endian (00/R4). -/
def leNat : List Byte → Nat
  | [] => 0
  | b :: bs => b.toNat + 256 * leNat bs

/-- The low `n` bytes of a number, little-endian. -/
def natLe : Nat → Nat → List Byte
  | 0, _ => []
  | n + 1, x => BitVec.ofNat 8 x :: natLe n (x / 256)

/-- Bytes of a bit vector, little-endian. -/
def bvLe {w : Nat} (x : BitVec w) (n : Nat) : List Byte := natLe n x.toNat

/-- Read a little-endian number. -/
def Mem.readNat (m : Mem) (a n : Nat) : Nat := leNat (Mem.read m a n)

/-- A byte of a byte list, zero past its end. -/
def byteAt (l : List Byte) (i : Nat) : Byte := l.getD i 0

/-- A little-endian number within a byte list. -/
def natAt (l : List Byte) (off n : Nat) : Nat := leNat ((l.drop off).take n)

/-- The bytes `off` to `off + n` of a line. -/
def lineBytes (d : BitVec 1024) (off n : Nat) : List Byte := (List.range n).map fun i => byteOf d (off + i)

/-- Put bytes into a line. -/
def putLine (d : BitVec 1024) (off : Nat) : List Byte → BitVec 1024
  | [] => d
  | b :: bs =>
    putLine ((d &&& ~~~((0xFF : BitVec 1024) <<< (8 * off))) ||| ((b.setWidth 1024) <<< (8 * off))) (off + 1) bs

/-- The last `n` entries that satisfy `p`, with every entry that does not: an array of `n` places that drops its oldest
entry for a new one (01/R14). -/
def newest {α : Type} (p : α → Bool) (n : Nat) (l : List α) : List α :=
  let extra := (l.filter p).length - n
  (l.foldl (fun (q : Nat × List α) (x : α) => if p x && q.1 < extra then (q.1 + 1, q.2) else (q.1, x :: q.2)) (0, [])).2.reverse

/-- A mask of `n` bits from bit `off`. -/
def rangeMask (w off n : Nat) : BitVec w := ((BitVec.ofNat w (2 ^ n - 1)) <<< off)

/-- The value of 128 bytes as a line. -/
def lineOf (bs : List Byte) : BitVec 1024 := BitVec.ofNat 1024 (leNat bs)

/-! ### The device's parts -/

/-- Die of a core; cores are numbered die · 288 + cluster · 48 + CORE (01/R8, R9). -/
def dieOf (core : Nat) : Nat := core / 288
/-- Global cluster of a core, 0 to 23. -/
def clusterOf (core : Nat) : Nat := core / 48
/-- The place of a slice for readings of TIME (08/R248). -/
def slicePlace (slice : Nat) : Nat := 2000 + slice

/-- A place's reading of TIME (08/R239). -/
def State.reading (s : State) (place : Nat) : Nat := s.ctl.time + Config.skewRaw place % 3

/-- The latency class between two cores of a cluster (01/R9, 09/R273). -/
def latencyClass (a b : Nat) : Nat :=
  let ra := a % 48 / 8
  let rb := b % 48 / 8
  if a = b then 0 else if ra = rb then 1 else if ra / 3 = rb / 3 then 2 else 3

/-- Whether a part is quiesced or mapped out: kind 1 core, 2 cluster, 3 slice. -/
def State.partDown (s : State) (kind num : Nat) : Bool :=
  (s.rep.quiesced ++ s.rep.out).any fun p => p.kind == kind && p.num == num

/-- Slices of the device. -/
def nSlices : Nat := 96

/-- The part a target of a repair command names, none where it is malformed (20/R428). -/
def targetOf (a : DWord) : Option Part :=
  let die := (a.extractLsb' 8 8).toNat
  let sub := (a.extractLsb' 16 8).toNat
  let core := (a.extractLsb' 24 8).toNat
  if a.extractLsb' 32 32 != 0 || 4 ≤ die then none
  else match (a.extractLsb' 0 8).toNat with
    | 1 => if sub < 6 && core < 48 then some ⟨1, die * 288 + sub * 48 + core⟩ else none
    | 2 => if sub < 6 then some ⟨2, die * 6 + sub⟩ else none
    | 3 => if sub < 24 then some ⟨3, die * 24 + sub⟩ else none
    | _ => none

/-- Whether requests to a slice are held: while its QUIESCE is in progress; they are served where its lines and ways have gone
to (20/R429). -/
def State.sliceHeld (s : State) (slice : Nat) : Bool :=
  s.sys.cmds.any fun (r : CmdRun) => r.op == 0x11 && r.status == 0 && targetOf r.cmd.a == some ⟨3, slice⟩

/-- The slices in service, which hold the homes (01/R13, 20/R429). -/
def State.slicesUp (s : State) : List Nat := (List.range nSlices).filter fun k => !s.partDown 3 k

/-- The home slice of a line: the hash chooses among the slices in service (01/R13; log entry 15). -/
def State.homeSlice (s : State) (asid line : Nat) : Nat :=
  let up := s.slicesUp
  up.getD (Config.homeHash asid line up.length % up.length) 0

/-- Bytes of a scratchpad. -/
def scratchSize : Nat := 524288

/-! ### Sheaves and their registers -/

/-- The sheaf of an identifier. -/
def State.sheaf? (s : State) (uid : Nat) : Option Sheaf := s.sheaves.find? fun h => h.uid == uid

/-- Replace a sheaf. -/
def State.putSheaf (s : State) (h : Sheaf) : State :=
  { s with sheaves := s.sheaves.map fun x => if x.uid == h.uid then h else x }

/-- Change one sheaf, if it exists. -/
def State.modSheaf (s : State) (uid : Nat) (f : Sheaf → Sheaf) : State :=
  { s with sheaves := s.sheaves.map fun x => if x.uid == uid then f x else x }

/-- The sheaf that issues. -/
def State.cur? (s : State) : Option Sheaf := s.sheaf? s.ctl.cur

/-- The context of an identifier. -/
def State.ctx? (s : State) (id : Nat) : Option Ctx := s.ctxs.find? fun c => c.id == id && c.live

/-- Change one context. -/
def State.modCtx (s : State) (id : Nat) (f : Ctx → Ctx) : State :=
  { s with ctxs := s.ctxs.map fun c => if c.id == id then f c else c }

/-- The ASID of a context, 0 where there is none. -/
def State.asidOf (s : State) (ctx : Nat) : Nat := ((s.ctx? ctx).map (·.asid)).getD 0

/-- An s register; s0 reads zero (02/R29). -/
def Sheaf.getS (h : Sheaf) (n : Nat) : Word := if n = 0 then 0 else h.s.getD n 0

/-- Write an s register; a write to s0 is ignored. -/
def Sheaf.setS (h : Sheaf) (n : Nat) (w : Word) : Sheaf := if n = 0 then h else { h with s := h.s.set n w }

/-- A pair of s registers, low half in the even register. -/
def Sheaf.getPair (h : Sheaf) (n : Nat) : DWord := pairOf (h.getS n) (h.getS (n + 1))

/-- Write a pair of s registers. -/
def Sheaf.setPair (h : Sheaf) (n : Nat) (x : DWord) : Sheaf := (h.setS n (lo32 x)).setS (n + 1) (hi32 x)

/-- A handle register. -/
def Sheaf.getH (h : Sheaf) (n : Nat) : Handle := h.h.getD n .empty

/-- Write a handle register. -/
def Sheaf.setH (h : Sheaf) (n : Nat) (x : Handle) : Sheaf := { h with h := h.h.set n x }

/-- A v register of a lane. -/
def Lane.getV (l : Lane) (n : Nat) : Word := l.v.getD n 0

/-- Write a v register of a lane. -/
def Lane.setV (l : Lane) (n : Nat) (w : Word) : Lane := { l with v := l.v.set n w }

/-- A k register of a lane; k0 reads true (02/R29). -/
def Lane.getK (l : Lane) (n : Nat) : Bool := n == 0 || l.k.getLsbD n

/-- Write a k register of a lane; a write to k0 is ignored. -/
def Lane.setK (l : Lane) (n : Nat) (b : Bool) : Lane :=
  if n = 0 then l
  else { l with k := if b then l.k ||| (1 <<< n) else l.k &&& ~~~((1 : BitVec 16) <<< n) }

/-- A v pair of a lane. -/
def Lane.getV2 (l : Lane) (n : Nat) : DWord := pairOf (l.getV n) (l.getV (n + 1))

/-- Write a v pair of a lane. -/
def Lane.setV2 (l : Lane) (n : Nat) (x : DWord) : Lane := (l.setV n (lo32 x)).setV (n + 1) (hi32 x)

/-- The lane of a LID that has not left. -/
def Sheaf.lane? (h : Sheaf) (lid : Nat) : Option Lane := h.lanes.find? fun l => l.lid == lid && !l.left

/-- The lane at a position that has not left. -/
def Sheaf.laneAt? (h : Sheaf) (p : Nat) : Option Lane := h.lanes.find? fun l => l.lpos == p && !l.left

/-- The mask of the current path; empty without one. -/
def Sheaf.mask (h : Sheaf) : Mask := ((h.path.map (·.mask)).getD 0)

/-- Whether a lane is on the current path. -/
def Sheaf.onPath (h : Sheaf) (l : Lane) : Bool := !l.left && h.mask.getLsbD l.lpos

/-- The PC of the current path. -/
def Sheaf.pc (h : Sheaf) : Pc := (h.path.map (·.pc)).getD ⟨0, 0, 0⟩

/-- Call depth of the current path (02/R35). -/
def Sheaf.depth (h : Sheaf) : Nat := (h.path.map (·.frames.length)).getD 0

/-- Replace the PC of the current path. -/
def Sheaf.setPc (h : Sheaf) (pc : Pc) : Sheaf := { h with path := h.path.map fun p => { p with pc := pc } }

/-- The PC a given number of bytes on. -/
def Pc.add (p : Pc) (n : Word) : Pc := { p with off := p.off + n }

/-- The first word of the unit in progress: the first extension word, or the instruction (04/R79). -/
def Sheaf.unitPc (h : Sheaf) : Pc := h.chain.pc0.getD h.pc

/-- Smallest-LPOS-first order of lanes (02/R25). -/
def insertBy {α : Type} (key : α → Nat) (x : α) : List α → List α
  | [] => [x]
  | y :: ys => if key x ≤ key y then x :: y :: ys else y :: insertBy key x ys

/-- Sort by a key, stable. -/
def sortBy {α : Type} (key : α → Nat) : List α → List α
  | [] => []
  | x :: xs => insertBy key x (sortBy key xs)

/-! ### Reconvergence (02/R33 to R37) -/

/-- Whether a stack entry is the record of an identifier. -/
def StackEntry.isRecord (e : StackEntry) (id : Nat) : Bool :=
  match e with
  | .record i _ _ _ => i == id
  | .pending _ => false

/-- Whether a pending path is linked to a record. -/
def StackEntry.linkedTo (e : StackEntry) (id : Nat) : Bool :=
  match e with
  | .record _ _ _ _ => false
  | .pending p => p.link == some id

/-- The first record of a stack, if any. -/
def firstRecord : List StackEntry → Option Nat
  | [] => none
  | .record id _ _ _ :: _ => some id
  | .pending _ :: es => firstRecord es

/-- Take the topmost pending path off a stack. -/
def takePending : List StackEntry → Option (Path × List StackEntry)
  | [] => none
  | .pending p :: es => some (p, es)
  | e :: es => (takePending es).map fun r => (r.1, e :: r.2)

/-- The loop of `end_path` (02/R34): pop records to which no live path is linked; the first with arrived lanes becomes
the current path; otherwise the topmost pending path does. -/
def popDone : List StackEntry → Option Path × List StackEntry
  | .record id rpc arrived frames :: es =>
    if es.any (·.linkedTo id) then
      match takePending (.record id rpc arrived frames :: es) with
      | some (p, rest) => (some p, rest)
      | none => (none, .record id rpc arrived frames :: es)
    else if arrived != 0 then (some ⟨rpc, arrived, frames, firstRecord es⟩, es)
    else popDone es
  | es =>
    match takePending es with
    | some (p, rest) => (some p, rest)
    | none => (none, es)

/-- End the current path (02/R34). -/
def Sheaf.endPath (h : Sheaf) : Sheaf :=
  let r := popDone h.stack
  { h with path := r.1, stack := r.2 }

/-- The records a path may arrive at: its linked record and those below it. -/
def recordsFrom (link : Option Nat) (stack : List StackEntry) : List StackEntry :=
  match link with
  | none => []
  | some id => stack.dropWhile fun e => !e.isRecord id

/-- The innermost record the path has reached, at equal depth (02/R34). -/
def arrivesAt (p : Path) (stack : List StackEntry) : Option Nat :=
  (recordsFrom p.link stack).findSome? fun e =>
    match e with
    | .record id rpc _ frames => if rpc == p.pc && frames.length == p.frames.length then some id else none
    | .pending _ => none

/-- Add arrived lanes to a record. -/
def addArrived (id : Nat) (m : Mask) (e : StackEntry) : StackEntry :=
  match e with
  | .record i rpc a fr => if i == id then .record i rpc (a ||| m) fr else e
  | .pending _ => e

/-- Check for arrival, and again for the path made current, until none arrives (02/R34). -/
def Sheaf.settle : Nat → Sheaf → Sheaf
  | 0, h => h
  | n + 1, h =>
    match h.path with
    | none => h
    | some p =>
      match arrivesAt p h.stack with
      | none => h
      | some id => Sheaf.settle n (Sheaf.endPath { h with stack := h.stack.map (addArrived id p.mask) })

/-- Settle after a change of PC. -/
def Sheaf.settled (h : Sheaf) : Sheaf := h.settle (h.stack.length + 1)

/-- The call stacks a sheaf holds: of the current path, of pending paths and of records. -/
def Sheaf.callStacks (h : Sheaf) : List (List Frame) :=
  (h.path.map (·.frames)).toList ++ h.stack.map fun e =>
    match e with
    | .record _ _ _ fr => fr
    | .pending p => p.frames

/-- Bytes the sheaf-stack region must hold (02/R37): 16 a frame as stored, 160 a spilled entry. -/
def Sheaf.stackBytes (h : Sheaf) : Nat :=
  16 * ((h.callStacks.flatten.map (·.id)).dedup).length + 160 * (h.stack.length - 32)

/-- Whether the frames and spilled entries of a sheaf exceed its region (02/R37). -/
def Sheaf.overflows (h : Sheaf) : Bool := decide (h.sstks.toNat < h.stackBytes)

/-- Remove the lanes of a mask from every path and record, ending pending paths left empty (02/R22, R23). -/
def dropLanes (m : Mask) (st : List StackEntry) : List StackEntry :=
  st.filterMap fun e =>
    match e with
    | .record i rpc a fr => some (.record i rpc (a &&& ~~~m) fr)
    | .pending p => if (p.mask &&& ~~~m) == 0 then none else some (.pending { p with mask := p.mask &&& ~~~m })

/-- Lanes leave the sheaf: their mask bits are cleared in every path and record; a path left empty ends; a sheaf left
without a path drains (02/R22, R23, R34). -/
def Sheaf.leave (h : Sheaf) (m : Mask) : Sheaf :=
  let h1 : Sheaf := { h with
    lanes := h.lanes.map fun l => if m.getLsbD l.lpos && !l.left then { l with left := true } else l
    stack := dropLanes m h.stack
    path := h.path.map fun p => { p with mask := p.mask &&& ~~~m } }
  let h2 := if h1.mask == 0 then h1.endPath else h1
  if h2.path.isNone then { h2 with run := .draining } else h2

/-! ### Capabilities (04/R97, R98) -/

/-- The segment table entry of an index. -/
def State.seg? (s : State) (idx : Nat) : Option Seg := s.segs.find? fun g => g.idx == idx

/-- Whether a context owns or has been granted a segment. -/
def State.granted (s : State) (ctx : Nat) (g : Seg) : Bool :=
  g.owner == ctx || (((s.ctx? ctx).map fun c => c.sgrant.contains g.idx).getD false)

/-- The fields of a code capability. -/
def capGen (c : DWord) : BitVec 8 := c.extractLsb' 56 8
/-- SEG of a capability. -/
def capSeg (c : DWord) : BitVec 16 := c.extractLsb' 40 16
/-- RK of a capability. -/
def capRk (c : DWord) : Bool := c.getLsbD 39
/-- ENT of a capability. -/
def capEnt (c : DWord) : BitVec 15 := c.extractLsb' 24 15

/-- An entry capability. -/
def entryCap (seg : BitVec 16) (gen : BitVec 8) (ent : BitVec 15) : DWord := gen ++ seg ++ (0 : BitVec 1) ++ ent ++ (0 : BitVec 24)

/-- A return capability with its offset tag (log entry 8). -/
def returnCap (pc : Pc) (id : Nat) : DWord :=
  pc.gen ++ pc.seg ++ (1 : BitVec 1) ++ Config.offsetTag id ++ (0 : BitVec 24)

/-- The check of an entry capability (04/R98): segment owned or granted, in a state of `states`, GEN equal, ENT below the
entry count, reserved bits zero. Answers the segment and the entry record. -/
def State.checkEntry (s : State) (ctx : Nat) (c : DWord) (states : List SegState) : Option (Seg × EntryRec) :=
  match s.seg? (capSeg c).toNat with
  | none => none
  | some g =>
    if s.granted ctx g && states.contains g.state && g.gen == capGen c && !capRk c && c.extractLsb' 0 24 == 0 then
      (g.elist[(capEnt c).toNat]?).map fun e => (g, e)
    else none

/-- The PC an entry capability names. -/
def Seg.entryPc (g : Seg) (e : EntryRec) : Pc := ⟨BitVec.ofNat 16 g.idx, g.gen, e.off⟩

/-- The check of a return point (04/R98): its segment still exists at its GEN and is live, retired or revoked (a revoked
segment raises its cause at the first fetch). -/
def State.checkReturn (s : State) (ctx : Nat) (pc : Pc) : Bool :=
  match s.seg? pc.seg.toNat with
  | none => false
  | some g => s.granted ctx g && g.gen == pc.gen && g.state != .free

/-! ### Mailboxes (14/R320) and fault records (17/R388) -/

/-- The mailbox at a head address of slice memory. -/
def State.mbx? (s : State) (head : Nat) : Option Mbx := s.job.mbx.find? fun m => m.head == head

/-- Change the mailbox at a head. -/
def State.modMbx (s : State) (head : Nat) (f : Mbx → Mbx) : State :=
  { s with job := { s.job with mbx := s.job.mbx.map fun m => if m.head == head then f m else m } }

/-- Slice-memory position (slice · 2^26 + offset) of an address of a context's windows (06/R154). -/
def State.slmPos (s : State) (ctx : Nat) (addr : Nat) (n : Nat) : Option Nat :=
  if 2 ^ 48 ≤ addr then none
  else (s.ctx? ctx).bind fun c =>
    (c.win.find? fun w => w.num == addr / 2 ^ 40).bind fun w =>
      let off := addr % 2 ^ 40
      if off + n ≤ w.kib * 1024 then some (w.slice * 2 ^ 26 + w.base + off) else none

/-- Bytes of a mailbox's region (14/R320). -/
def Mbx.size (m : Mbx) : Nat := (256 + m.nslot * m.slotb + 127) / 128 * 128

/-- The fields a load may read: FREE, USED, KIND, a reserved byte, NSLOT, SLOTB, CTXID, from offset 0x80 (14/R320). -/
def Mbx.ctrl (m : Mbx) : List Byte :=
  natLe 4 (m.nslot - m.msgs.length) ++ natLe 4 m.msgs.length ++ natLe 1 m.kind ++ [0] ++ natLe 2 m.nslot ++
  natLe 4 m.slotb ++ natLe 4 m.ctx

/-- Whether a load (`rd`) or another access of slice memory keeps off every mailbox region, but for loads of the fields of
its control block (14/R320). -/
def State.slmAllowed (s : State) (p n : Nat) (rd : Bool) : Bool :=
  s.job.mbx.all fun (m : Mbx) =>
    !(decide (p < m.head + m.size) && decide (m.head < p + n)) ||
    (rd && decide (m.head + 0x80 ≤ p) && decide (p + n ≤ m.head + 0x94) &&
      !(decide (p ≤ m.head + 0x89) && decide (m.head + 0x89 < p + n)))

/-- A byte of slice memory as a load reads it: the control block of a mailbox, or the memory's own byte. -/
def State.slmByte (s : State) (p : Nat) : Byte :=
  match s.job.mbx.find? fun (m : Mbx) => decide (m.head + 0x80 ≤ p) && decide (p < m.head + 0x94) with
  | some m => byteAt m.ctrl (p - m.head - 0x80)
  | none => s.mm.slm.get p

/-- Bytes of slice memory as a load reads them. -/
def State.slmRead (s : State) (p n : Nat) : List Byte := (List.range n).map fun k => s.slmByte (p + k)

/-- Write slice memory; the bytes written are good again (20/R423). -/
def State.slmWrite (s : State) (a : Nat) (bs : List Byte) : State :=
  { s with mm := { s.mm with
      slm := s.mm.slm.write a bs
      badSlm := s.mm.badSlm.filter fun b => !(decide (a ≤ b) && decide (b < a + bs.length)) } }

/-- Whether a range of slice memory touches a bad sector (20/R421, R423). -/
def State.slmBad (s : State) (a n : Nat) : Bool :=
  s.mm.badSlm.any fun b => decide (a < b / 32 * 32 + 32) && decide (b / 32 * 32 < a + n)

/-- Free bytes. -/
def freeBytes (k n : Nat) : List Byte := (List.range n).map fun j => freeByte (k + j)

/-- Post a fault record to the context's fault mailbox; a full or missing mailbox drops it and counts it (17/R388). -/
def State.postFault (s : State) (ctx : Nat) (rec : List Byte) : State :=
  match s.ctx? ctx with
  | none => s
  | some c =>
    match (s.slmPos ctx c.fmbx 128).bind s.mbx? with
    | some m =>
      if m.kind == 3 && m.msgs.length < m.nslot then s.modMbx m.head fun m => { m with msgs := m.msgs ++ [rec] }
      else s.modCtx ctx fun c => { c with flost := c.flost + 1 }
    | none => s.modCtx ctx fun c => { c with flost := c.flost + 1 }

/-- A fault record (17/R388). -/
def faultRecord (kind code flags ctx shid ln : Nat) (pc : Pc) (trapi : Nat) (trapa time die clus core : Nat) : List Byte :=
  natLe 1 kind ++ natLe 1 code ++ natLe 1 flags ++ natLe 1 0 ++ natLe 4 ctx ++ natLe 4 shid ++ natLe 4 ln ++
  natLe 2 pc.seg.toNat ++ natLe 1 pc.gen.toNat ++ natLe 1 0 ++ natLe 4 pc.off.toNat ++ natLe 4 trapi ++ natLe 4 0 ++
  natLe 8 trapa ++ natLe 8 time ++ natLe 1 die ++ natLe 1 clus ++ natLe 1 core ++ natLe 13 0

/-! ### Violations (17/R389) -/

/-- Whether a cause enters the violation ring. -/
def causeLogged (c : Nat) : Bool := c == 4 || c == 6 || c == 7 || c == 8 || c == 0x12

/-- Saturating count of a context's violations on a core. -/
def bumpCount (core ctx : Nat) : List (Nat × Nat × Nat) → List (Nat × Nat × Nat)
  | [] => [(core, ctx, 1)]
  | (a, b, n) :: l => if a = core ∧ b = ctx then (a, b, min (n + 1) 0xFFFF) :: l else (a, b, n) :: bumpCount core ctx l

/-- Keep the newest 16 entries of each core's ring. -/
def trimRing (core : Nat) (l : List Viol) : List Viol :=
  let mine := (l.filter fun v => v.core == core).take 16
  mine ++ l.filter fun v => v.core != core

/-- Enter a violation into the ring of a core. -/
def State.violate (s : State) (core ctx : Nat) (shid : Word) (cause : Nat) (addr : DWord) : State :=
  { s with flt := { s.flt with
      ring := trimRing core (⟨core, ctx, shid, cause, addr⟩ :: s.flt.ring)
      counts := bumpCount core ctx s.flt.counts } }

/-- Enter every logged cause of one instruction, one entry each. -/
def State.violateAll (s : State) (h : Sheaf) : List (Nat × DWord) → State
  | [] => s
  | (c, a) :: l => State.violateAll (if causeLogged c then s.violate h.core h.ctx h.shid c a else s) h l

/-! ### Traps (02/R40, R41; 17/R385 to R387) -/

/-- Post the fault record of a halting sheaf. -/
def State.postHalt (s : State) (h : Sheaf) (cause : Nat) (addr : DWord) (insn : Word) (late nested : Bool) (pc : Pc) : State :=
  s.postFault h.ctx (faultRecord 1 cause (bitNat nested + 2 * bitNat late) h.ctx h.shid.toNat h.ln.toNat pc insn.toNat
    addr.toNat s.ctl.time (dieOf h.core) (clusterOf h.core % 6) (h.core % 48))

/-- Halt a sheaf without running a handler (17/R387, 20/R421). -/
def State.haltSheaf (s : State) (h : Sheaf) (cause : Nat) (addr : DWord) (insn : Word) (late : Bool) (pc : Pc) : State :=
  (s.putSheaf { h with run := .halted, chain := ⟨none, []⟩, fbuf := none, waiting := false }).postHalt
    h cause addr insn late h.trap.inH pc

/-- The sequencer of a core. -/
def State.seqr? (s : State) (core : Nat) : Option Seqr := s.seqs.find? fun q => q.core == core

/-- Change a core's sequencer. -/
def State.modSeqr (s : State) (core : Nat) (f : Seqr → Seqr) : State :=
  { s with seqs := s.seqs.map fun q => if q.core == core then f q else q }

/-- A sequencer sheaf `h` leaves its core, whose EN is cleared (04/R105, R106): its operations go, its allotment is given up, and
its registers stay as they are to be read. No context holds the units it used, which are zeroed before the next grant
(09/R264). -/
def State.endSeq (s : State) (h : Sheaf) (f : Seqr → Seqr) : State :=
  let s1 := s.putSheaf { h with chain := ⟨none, []⟩, fbuf := none, waiting := false, run := .ended }
  State.modSeqr { s1 with
    eng := { s1.eng with
      ops := s1.eng.ops.filter fun (o : Op) => o.sheaf != h.uid
      pats := s1.eng.pats.filter fun (p : Pattern) => p.core != h.core }
    mm := { s1.mm with holder := s1.mm.holder.filter fun (p : Nat × Nat) => p.1 / 512 != h.core } } h.core
    fun q => { f q with en := false, next := none, chain0 := none }

/-- TRAPC: the cause, and LATE (17/R385). -/
def trapcWord (cause : Nat) (late : Bool) : Word := BitVec.ofNat 32 (cause + 512 * bitNat late)

/-- The trap CSRs as a trap writes them (17/R385, R386): TRAPE names the point `ret`. A trap that halts the sheaf writes them
too (11 gives them for such a trap; log entry 17). -/
def Sheaf.trapCsrs (h : Sheaf) (cause : Nat) (addr : DWord) (insn : Word) (late : Bool) (ret : Pc) (id : Nat) : Sheaf :=
  { h with trap := { h.trap with e := returnCap ret id, a := addr, c := trapcWord cause late, i := insn, ret := some ret } }

/-- Take a trap: `pc` is the trapped unit, `ret` the point to which ERET returns. In sequencer mode EN is cleared and the
CSRs are set (04/R106). Otherwise the CSRs are written; with a valid TRAPV outside a handler, handler state is entered and
the current path goes to the handler's entry, mask, depth and call stack unchanged (17/R386); else the sheaf halts and a
fault record is posted (17/R387). -/
def State.takeTrap (s : State) (h : Sheaf) (cause : Nat) (addr : DWord) (insn : Word) (late : Bool) (pc ret : Pc) : State :=
  if h.seqr then
    s.endSeq { h with trap := { h.trap with c := trapcWord cause late, a := addr, i := insn } } fun q => { q with upc := q.chain0.getD q.upc }
  else
    let h1 := h.trapCsrs cause addr insn late ret s.ctl.nextId
    let s1 := s.fresh 1
    if h.trap.inH || h.trap.v == 0 then s1.haltSheaf h1 cause addr insn late pc
    else
      match s.checkEntry h.ctx h.trap.v [.live, .retired] with
      | none => s1.haltSheaf h1 cause addr insn late pc
      | some (g, e) =>
        let h2 : Sheaf := { h1 with trap := { h1.trap with inH := true, seq := h.nseq }, chain := ⟨none, []⟩, fbuf := none, waiting := false }
        s1.putSheaf (h2.setPc (g.entryPc e)).settled

/-- The lowest cause of a list, with its address (02/R40). -/
def lowestCause : List (Nat × DWord) → Option (Nat × DWord)
  | [] => none
  | (c, a) :: l =>
    match lowestCause l with
    | none => some (c, a)
    | some (c', a') => if c ≤ c' then some (c, a) else some (c', a')

/-- Raise the causes found for the unit in progress: each enters the violation ring, the lowest is the trap (02/R41). -/
def State.raise (s : State) (h : Sheaf) (insn : Word) (cs : List (Nat × DWord)) : State :=
  match lowestCause cs with
  | none => s
  | some (c, a) => (s.violateAll h cs).takeTrap h c a insn false h.unitPc h.unitPc

/-- Return from the trap handler (05/R113): through the point TRAPE resolves to, ending handler state. -/
def Sheaf.leaveHandler (h : Sheaf) (pc : Pc) : Sheaf :=
  ({ h with trap := { h.trap with inH := false, ret := none } }.setPc pc)

/-! ### Engine operations -/

/-- The operation of an identifier. -/
def State.op? (s : State) (id : Nat) : Option Op := s.eng.ops.find? fun o => o.id == id

/-- Change an operation. -/
def State.modOp (s : State) (id : Nat) (f : Op → Op) : State :=
  { s with eng := { s.eng with ops := s.eng.ops.map fun o => if o.id == id then f o else o } }

/-- Whether an operation is still running. -/
def Op.live (o : Op) : Bool := o.status.isNone

/-- Record an error condition: the largest CODE stands (07/R192); the first address of each cause is kept for the violation
ring (17/R389). -/
def Op.fail (o : Op) (code cause : Nat) (addr : DWord) : Op :=
  { o with
    code := max o.code code
    detail := if code == 5 && o.code ≤ 5 then addr.extractLsb' 9 48 else o.detail
    viol := if o.viol.any fun v => v.1 == cause then o.viol else o.viol ++ [(cause, addr)] }

/-- Whether a handle is pending (06/R180). -/
def State.hPending (s : State) (x : Handle) : Bool :=
  match x with
  | .empty => false
  | .op id => ((s.op? id).map (·.live)).getD false
  | .bar b => b.code == 1 && !b.bad

/-! ### Places in scratch -/

/-- Absolute scratch address (core · 524,288 + byte) of an own offset. -/
def Sheaf.scrAbs (h : Sheaf) (off : Nat) : Nat := h.core * scratchSize + h.alloc.base * 1024 + off

/-- Bytes of the sheaf's allotment. -/
def Sheaf.scrBytes (h : Sheaf) : Nat := h.alloc.kib * 1024

/-- The stook a sheaf belongs to. -/
def State.stookOf (s : State) (h : Sheaf) : Option Stook :=
  h.stook.bind fun p => s.stk.stooks.find? fun k => k.id == p.1

/-- The member of the sheaf's stook at an index, resolved now (09/R270). -/
def State.member? (s : State) (h : Sheaf) (idx : Nat) : Option (Member × Sheaf) :=
  (s.stookOf h).bind fun k => (k.members.find? fun m => m.idx == idx).bind fun m => (s.sheaf? m.uid).map fun x => (m, x)

/-- Address form of a peer access for TRAPA and the ring (06/R146). -/
def peerAddr (member off : Nat) : DWord := BitVec.ofNat 64 (member * 2 ^ 32 + off)

/-- Whether a sheaf's allotment is resident: placed, not saved, not ended. -/
def Sheaf.resident (h : Sheaf) : Bool :=
  match h.run with
  | .stopped _ _ | .waiting | .ended => false
  | _ => true

/-- Whether the sheaf of an identifier is resident. -/
def State.isResident (s : State) (uid : Nat) : Bool := ((s.sheaf? uid).map Sheaf.resident).getD false

/-! ### Writes to a scratchpad (06/R157) -/

/-- Whether two byte ranges meet. -/
def meets (a n b m : Nat) : Bool := decide (a < b + m) && decide (b < a + n)

/-- Bytes per value of a sparse format (10/R295). -/
def sparseBytes (fmt : Nat) : Nat := if fmt == 1 || fmt == 2 then 2 else 1

/-- The watch ranges of a pattern-cache entry, as absolute scratch ranges (10/R301). -/
def State.watch (s : State) (p : Pattern) : List (Nat × Nat) :=
  match s.sheaves.find? fun h => h.alloc.id == p.alloc && h.core == p.core && h.resident with
  | none => []
  | some h =>
    let len := match p.state with
      | .compiling => min (4096 * sparseBytes p.fmt) (h.scrBytes - (p.off + 512))
      | _ => p.bits.length * sparseBytes p.fmt
    [(h.scrAbs p.off, 512), (h.scrAbs (p.off + 512), len)]

/-- Add an update to the open batch of its line, opening one; a fifth open line sends the oldest batch (09/R279). -/
def joinBatch (id line : Nat) (c : Host.Cell) (cause : Nat) (bs : List Batch) : List Batch :=
  if bs.any fun b => b.line == line && !b.sent then
    bs.map fun b => if b.line == line && !b.sent then
      { b with bytes := (b.bytes.filter fun x => x.1 != c.1) ++ [c], causes := if b.causes.contains cause then b.causes else b.causes ++ [cause] }
    else b
  else
    let opened := bs.filter fun b => !b.sent
    let bs := if opened.length < 4 then bs
      else match opened with
        | [] => bs
        | o :: _ => bs.map fun b => if b.id == o.id then { b with sent := true } else b
    bs ++ [⟨id, line, [c], [cause], false⟩]

/-- One subscription's view of one written byte: a detached one marks the sector, another queues the update (09/R279,
R281). Byte addresses are offsets in the publisher's allotment. -/
def Sub.write (p : Sub) (id : Nat) (off : Nat) (b : Byte) (cause : Nat) : Sub :=
  if p.poff ≤ off ∧ off < p.poff + 32 * p.len then
    let sec := (off - p.poff) / 32
    match p.state with
    | .detached => { p with dirty := if p.dirty.contains sec then p.dirty else p.dirty ++ [sec] }
    | _ => { p with batches := joinBatch id ((off - p.poff) / 128) (p.soff + (off - p.poff), b) cause p.batches }
  else p

/-- Forward one written scratch byte to every subscription of the resident sheaf whose allotment holds it. -/
def State.forwardByte (s : State) (a : Nat) (b : Byte) (cause : Nat) : State :=
  match s.sheaves.find? fun h => h.resident && h.scrAbs 0 ≤ a && a < h.scrAbs h.scrBytes &&
      s.stk.subs.any (fun p => p.pubr == h.uid) with
  | none => s
  | some h =>
    ({ s with stk := { s.stk with subs := s.stk.subs.map fun (p : Sub) =>
        if p.pubr == h.uid then p.write s.ctl.nextId (a - h.scrAbs 0) b cause else p } }).fresh 1

/-- Forward consecutive bytes. -/
def State.forwardBytes (s : State) (a : Nat) (cause : Nat) : List Byte → State
  | [] => s
  | b :: bs => State.forwardBytes (s.forwardByte a b cause) (a + 1) cause bs

/-- A write to the bitmap of an MMSP pat 0 that its engine holds leaves its tile undefined (10/R301). The bitmap is its first
source; one at rest reads it again where its sheaf resumes (10/R288). -/
def Op.bitmapHit (o : Op) (a n : Nat) : Bool :=
  o.live && !o.resting && o.kind == .mmsp && o.insn.extractLsb' 0 2 == 0 &&
  match o.srcR with
  | (1, b, m) :: _ => meets a n b m
  | _ => false

/-- Where subscriptions carry the bytes of some ranges (sheaf, first offset, end) on (09/R280). -/
def subImage (subs : List Sub) (l : List (Nat × Nat × Nat)) : List (Nat × Nat × Nat) :=
  l.flatMap fun r => subs.filterMap fun (q : Sub) =>
    if q.pubr == r.1 && meets r.2.1 (r.2.2 - r.2.1) q.poff (32 * q.len) then
      some (q.subr, q.soff + (max r.2.1 q.poff - q.poff), q.soff + (min r.2.2 (q.poff + 32 * q.len) - q.poff))
    else none

/-- The ranges reached from some ranges in at most `n` steps, beyond those already seen. -/
def subReach (subs : List Sub) : Nat → List (Nat × Nat × Nat) → List (Nat × Nat × Nat) → List (Nat × Nat × Nat)
  | 0, _, seen => seen
  | n + 1, l, seen =>
    match (subImage subs l).dedup.filter fun r => !seen.contains r with
    | [] => seen
    | new => subReach subs n new (seen ++ new)

/-- Whether a subscription's updates return to its own publisher's region (09/R280). Ranges are whole sectors, so a return takes
no more steps than there are sectors published. -/
def subCycle (subs : List Sub) (p : Sub) : Bool :=
  let r := (p.subr, p.soff, p.soff + 32 * p.len)
  (subReach subs ((subs.map fun (q : Sub) => q.len).sum + 1) [r] [r]).any fun r =>
    r.1 == p.pubr && meets r.2.1 (r.2.2 - r.2.1) p.poff (32 * p.len)

/-- Whether a scratch byte lies in the ranges of a cycle of subscriptions (09/R280). -/
def State.cyclicAt (s : State) (a : Nat) : Bool :=
  s.stk.subs.any fun p => subCycle s.stk.subs p && s.sheaves.any fun h => h.resident &&
    ((h.uid == p.pubr && meets a 1 (h.scrAbs p.poff) (32 * p.len)) || (h.uid == p.subr && meets a 1 (h.scrAbs p.soff) (32 * p.len)))

/-- The bytes of a write as they land: free within a cycle of subscriptions (09/R280). -/
def State.landing (s : State) (a : Nat) (bs : List Byte) : List Byte :=
  if s.stk.subs.any (subCycle s.stk.subs) then
    bs.zipIdx.map fun p => if s.cyclicAt (a + p.2) then freeByte (s.ctl.free + p.2) else p.1
  else bs

/-- Perform a write at a scratchpad, by the party `cause` (a sheaf): the bytes, the words it makes good again (20/R421),
the pattern-cache entries it removes and the bitmaps it hits (10/R301), the subscription updates it causes. -/
def State.scrWrite (s0 : State) (a : Nat) (bs0 : List Byte) (cause : Nat) : State :=
  let n := bs0.length
  let bs := s0.landing a bs0
  let s := if s0.stk.subs.any (subCycle s0.stk.subs) then s0.draw n else s0
  let pats := s.eng.pats.filter fun p => !((s.watch p).any fun r => meets a n r.1 r.2)
  let s1 : State := { s with
    mm := { s.mm with
      scr := Mem.write s.mm.scr a bs
      badScr := s.mm.badScr.filter fun w => !(decide (a ≤ w) && decide (w + 4 ≤ a + n)) }
    eng := { s.eng with
      pats := pats
      ops := s.eng.ops.map fun o =>
        if o.bitmapHit a n then { o with taint := true } else o } }
  if s.stk.subs.isEmpty then s1 else s1.forwardBytes a cause bs

/-- Read scratch bytes. -/
def State.scrRead (s : State) (a n : Nat) : List Byte := Mem.read s.mm.scr a n

/-- Bytes of a sheaf's allotment: in its scratchpad, or in the image of a stopped one (17/R392). -/
def State.allotRead (s : State) (x : Sheaf) (off n : Nat) : List Byte :=
  if x.resident then s.scrRead (x.scrAbs off) n else x.saved.read off n

/-- Write bytes of a sheaf's allotment wherever it stands. -/
def State.allotWrite (s : State) (x : Sheaf) (off : Nat) (bs : List Byte) (cause : Nat) : State :=
  if x.resident then s.scrWrite (x.scrAbs off) bs cause else s.modSheaf x.uid fun y => { y with saved := y.saved.write off bs }

/-- Whether a scratch range touches a bad word (20/R421). -/
def State.scrBad (s : State) (a n : Nat) : Bool := s.mm.badScr.any fun w => meets a n w 4

end Sys2Proof.Machine
end

