-- ==== Sys2Proof/Machine/Flags.lean ====
section
/-! DEFINITION. The flags of FFLG (03/R53), carries and borrows, and the rounding of an exact dyadic value to any format
of the device (03/R47 to R57, R60). -/

namespace Sys2Proof.Machine

/-- Flag bits of FFLG. -/
abbrev Flags := BitVec 5
/-- Invalid. -/
def fIV : Flags := 1
/-- Division by zero. -/
def fDZ : Flags := 2
/-- Overflow. -/
def fOF : Flags := 4
/-- Underflow. -/
def fUF : Flags := 8
/-- Inexact. -/
def fNX : Flags := 16

/-- Carry out of bit 31 of a + b + c (05/R125). -/
def carryOut (a b : Word) (c : Bool) : Bool := decide (2 ^ 32 ≤ a.toNat + b.toNat + bitNat c)

/-- Borrow of a − b − c: a < b + c unsigned (05/R125). -/
def borrowOut (a b : Word) (c : Bool) : Bool := decide (a.toNat < b.toNat + bitNat c)

/-- Set sticky flags of a sheaf (03/R53). -/
def Sheaf.orFlags (h : Sheaf) (f : Flags) : Sheaf := { h with fflg := h.fflg ||| f }

/-- How a format treats its top exponent. -/
inductive Special where
  | ieee     -- infinities and NaNs (03/R47; E5M2 03/R56)
  | e4m3     -- one NaN encoding per sign, no infinity (03/R56)
  | finite   -- neither (03/R58, R60)
deriving DecidableEq, Repr

/-- A floating-point format: exponent and mantissa bits, bias, specials. -/
structure Fmt where
  ebits : Nat
  mbits : Nat
  bias : Nat
  special : Special
deriving DecidableEq, Repr

/-- FP32. -/
def f32 : Fmt := ⟨8, 23, 127, .ieee⟩
/-- FP16. -/
def f16 : Fmt := ⟨5, 10, 15, .ieee⟩
/-- BF16. -/
def bf16 : Fmt := ⟨8, 7, 127, .ieee⟩
/-- E4M3. -/
def e4m3 : Fmt := ⟨4, 3, 7, .e4m3⟩
/-- E5M2. -/
def e5m2 : Fmt := ⟨5, 2, 15, .ieee⟩
/-- E2M1. -/
def e2m1 : Fmt := ⟨2, 1, 1, .finite⟩
/-- E2M3. -/
def e2m3 : Fmt := ⟨2, 3, 1, .finite⟩
/-- E3M2. -/
def e3m2 : Fmt := ⟨3, 2, 3, .finite⟩

/-- The float format of a code of 04/R85. -/
def fmtOf (code : Nat) : Option Fmt :=
  match code with
  | 0 => some f32 | 1 => some f16 | 2 => some bf16 | 3 => some e4m3 | 4 => some e5m2 | 5 => some e2m1
  | 6 => some e2m3 | 7 => some e3m2 | _ => none

/-- Width of a format in bits. -/
def Fmt.width (f : Fmt) : Nat := 1 + f.ebits + f.mbits

/-- Smallest normal exponent. -/
def Fmt.emin (f : Fmt) : Int := 1 - (f.bias : Int)

/-- Largest finite exponent. -/
def Fmt.emax (f : Fmt) : Int :=
  match f.special with
  | .ieee => 2 ^ f.ebits - 2 - (f.bias : Int)
  | _ => 2 ^ f.ebits - 1 - (f.bias : Int)

/-- Largest finite significand, as an integer of mbits + 1 bits. -/
def Fmt.rmax (f : Fmt) : Nat :=
  match f.special with
  | .e4m3 => 2 ^ (f.mbits + 1) - 2
  | _ => 2 ^ (f.mbits + 1) - 1

/-- Encoding of the largest finite magnitude. -/
def Fmt.maxBits (f : Fmt) : Nat := ((f.emax + (f.bias : Int)).toNat - 1) * 2 ^ f.mbits + f.rmax

/-- Encoding of an infinity's magnitude. -/
def Fmt.infBits (f : Fmt) : Nat := (2 ^ f.ebits - 1) * 2 ^ f.mbits

/-- The canonical NaN (03/R47, R56). -/
def Fmt.nan (f : Fmt) : Nat :=
  match f.special with
  | .ieee => f.infBits + 2 ^ (f.mbits - 1)
  | .e4m3 => 2 ^ (f.ebits + f.mbits) - 1
  | .finite => 0

/-- The sign bit's weight. -/
def Fmt.signBit (f : Fmt) : Nat := 2 ^ (f.ebits + f.mbits)

/-- A decoded value: NaN, an infinity, or ± m · 2^e. -/
inductive FVal where
  | nan
  | inf (neg : Bool)
  | fin (neg : Bool) (m : Nat) (e : Int)
deriving DecidableEq, Repr

/-- Decode an encoding; `ftz` reads a subnormal as a zero of its sign (03/R51). -/
def Fmt.decode (f : Fmt) (bits : Nat) (ftz : Bool) : FVal :=
  let neg := bits / f.signBit % 2 == 1
  let ex := bits / 2 ^ f.mbits % 2 ^ f.ebits
  let fr := bits % 2 ^ f.mbits
  if f.special == .ieee && ex == 2 ^ f.ebits - 1 then (if fr == 0 then .inf neg else .nan)
  else if f.special == .e4m3 && ex == 2 ^ f.ebits - 1 && fr == 2 ^ f.mbits - 1 then .nan
  else if ex == 0 then (if ftz then .fin neg 0 0 else .fin neg fr (f.emin - f.mbits))
  else .fin neg (2 ^ f.mbits + fr) (f.emin - f.mbits + (ex : Int) - 1)

/-- Whether the formats of ftz's rule are meant (03/R51). -/
def Fmt.ftzApplies (f : Fmt) : Bool := f == f32 || f == f16 || f == bf16

/-- Whether the discarded part rounds the quotient up: `rem` of `2^k`, by mode (03/R49). -/
def roundUp (rm : Nat) (neg : Bool) (q rem half : Nat) : Bool :=
  match rm with
  | 0 => half < rem || (rem == half && q % 2 == 1)
  | 1 => false
  | 2 => neg && rem != 0
  | 3 => !neg && rem != 0
  | _ => half ≤ rem && rem != 0

/-- m · 2^e in units of 2^q, rounded, and whether that was inexact. -/
def roundAt (rm : Nat) (neg : Bool) (m : Nat) (e q : Int) : Nat × Bool :=
  if q ≤ e then (m * 2 ^ (e - q).toNat, false)
  else
    let k := (q - e).toNat
    if m.log2 + 2 < k then (if m == 0 then (0, false) else (bitNat (roundUp rm neg 0 1 2), true))
    else
      let d := 2 ^ k
      let r := m % d
      let up := roundUp rm neg (m / d) (2 * r) d
      (m / d + bitNat up, r != 0)

/-- A magnitude with its sign bit. -/
def Fmt.signed (f : Fmt) (neg : Bool) (bits : Nat) : Nat := bits + (if neg then f.signBit else 0)

/-- Whether an overflow goes to infinity under a mode (03/R50). -/
def overflowsToInf (rm : Nat) (neg : Bool) : Bool :=
  match rm with
  | 1 => false
  | 2 => neg
  | 3 => !neg
  | _ => true

/-- The result of an overflow (03/R50, R57): saturating, or per format. -/
def Fmt.overflow (f : Fmt) (rm : Nat) (sat neg : Bool) : Nat × Flags :=
  match f.special with
  | .finite => (f.signed neg f.maxBits, fOF ||| fNX)
  | .e4m3 => if sat then (f.signed neg f.maxBits, fOF ||| fNX) else (f.nan, fOF ||| fNX)
  | .ieee =>
    if sat || !overflowsToInf rm neg then (f.signed neg f.maxBits, fOF ||| fNX)
    else (f.signed neg f.infBits, fOF ||| fNX)

/-- Round ± m · 2^e, m > 0, to a format (03/R50, R51, R57). -/
def Fmt.roundFin (f : Fmt) (rm : Nat) (ftz sat neg : Bool) (m : Nat) (e : Int) : Nat × Flags :=
  let ex := e + m.log2
  let u := roundAt rm neg m e (ex - f.mbits)
  let ux := if u.1 == 2 ^ (f.mbits + 1) then ex + 1 else ex
  let ur := if u.1 == 2 ^ (f.mbits + 1) then 2 ^ f.mbits else u.1
  if f.emax < ux || (ux == f.emax && f.rmax < ur) then f.overflow rm sat neg
  else
    let tiny := decide (ux < f.emin)
    if tiny && ftz && f.ftzApplies then (f.signed neg 0, fUF ||| fNX)
    else
      let q := max ex f.emin - f.mbits
      let r := roundAt rm neg m e q
      let bits := (q - (f.emin - f.mbits)).toNat * 2 ^ f.mbits + r.1
      (f.signed neg bits, if r.2 then (if tiny then fUF ||| fNX else fNX) else 0)

/-- Round any value: NaN canonical, infinities by format and sat (03/R57), zeros keep their sign. -/
def Fmt.round (f : Fmt) (rm : Nat) (ftz sat : Bool) (v : FVal) : Nat × Flags :=
  match v with
  | .nan => (f.nan, 0)
  | .inf neg =>
    match f.special with
    | .ieee => if sat then (f.signed neg f.maxBits, 0) else (f.signed neg f.infBits, 0)
    | .e4m3 => if sat then (f.signed neg f.maxBits, 0) else (f.nan, fIV)
    | .finite => (f.signed neg f.maxBits, fOF)
  | .fin neg m e => if m == 0 then (f.signed neg 0, 0) else f.roundFin rm ftz sat neg m e

/-- An exact dyadic number n · 2^e. -/
structure Dy where
  n : Int
  e : Int
deriving DecidableEq, Repr

/-- Exact sum. -/
def Dy.add (a b : Dy) : Dy :=
  let e := min a.e b.e
  ⟨a.n * 2 ^ (a.e - e).toNat + b.n * 2 ^ (b.e - e).toNat, e⟩

/-- Exact product. -/
def Dy.mul (a b : Dy) : Dy := ⟨a.n * b.n, a.e + b.e⟩

/-- The dyadic of a finite value; zero otherwise. -/
def FVal.dy : FVal → Dy
  | .fin neg m e => ⟨if neg then -(m : Int) else m, e⟩
  | _ => ⟨0, 0⟩

/-- The sign of a value; a NaN has none. -/
def FVal.neg : FVal → Bool
  | .nan => false
  | .inf n => n
  | .fin n _ _ => n

/-- Whether a value is ±0. -/
def FVal.isZero : FVal → Bool
  | .fin _ m _ => m == 0
  | _ => false

/-- Whether a value is a NaN. -/
def FVal.isNan : FVal → Bool
  | .nan => true
  | _ => false

/-- Whether a value is an infinity. -/
def FVal.isInf : FVal → Bool
  | .inf _ => true
  | _ => false

/-- The value with its sign changed. -/
def FVal.negate : FVal → FVal
  | .nan => .nan
  | .inf n => .inf (!n)
  | .fin n m e => .fin (!n) m e

/-- The value of a dyadic, with the sign given for a zero. -/
def Dy.val (d : Dy) (zeroNeg : Bool) : FVal :=
  if d.n == 0 then .fin zeroNeg 0 0 else .fin (decide (d.n < 0)) d.n.natAbs d.e

/-- Whether a product is 0 · ∞ (03/R55). -/
def invalidProduct (a b : FVal) : Bool := (a.isZero && b.isInf) || (a.isInf && b.isZero)

/-- The exact product of two values that is no NaN case: an infinity or a finite value with the sign of a product. -/
def FVal.mul (a b : FVal) : FVal :=
  let s := a.neg != b.neg
  if a.isNan || b.isNan || invalidProduct a b then .nan
  else if a.isInf || b.isInf then .inf s
  else match a, b with
    | .fin _ m e, .fin _ m' e' => .fin s (m * m') (e + e')
    | _, _ => .nan

/-- The sum of two values with the zero rule of IEEE 754 (03/R50): exact zeros are +0, −0 under rdn, and two zeros of one
sign keep it. Answers the value and IV for ∞ − ∞. -/
def FVal.add (rm : Nat) (a b : FVal) : FVal × Flags :=
  if a.isNan || b.isNan then (.nan, 0)
  else if a.isInf && b.isInf then (if a.neg == b.neg then (a, 0) else (.nan, fIV))
  else if a.isInf then (a, 0)
  else if b.isInf then (b, 0)
  else
    let z := if a.isZero && b.isZero && a.neg == b.neg then a.neg else rm == 2
    ((a.dy.add b.dy).val z, 0)

/-- a · b + d rounded once (03/R71): 0 · ∞ raises IV whatever the addend. -/
def Fmt.fma (f : Fmt) (rm : Nat) (ftz : Bool) (a b d : FVal) : Nat × Flags :=
  if invalidProduct a b then (f.nan, fIV)
  else
    let r := FVal.add rm (a.mul b) d
    let q := f.round rm ftz false r.1
    (q.1, r.2 ||| q.2)

/-- The rounded sum of an accumulator and exact products, by the rules of 03/R63. -/
def Fmt.sumOf (f : Fmt) (rm : Nat) (ftz : Bool) (c : FVal) (ps : List (FVal × FVal)) : Nat × Flags :=
  let prods := ps.map fun p => p.1.mul p.2
  if ps.any fun p => invalidProduct p.1 p.2 then (f.nan, fIV)
  else if c.isNan || ps.any fun p => p.1.isNan || p.2.isNan then (f.nan, 0)
  else
    let terms := c :: prods
    let pinf := terms.any fun t => t.isInf && !t.neg
    let ninf := terms.any fun t => t.isInf && t.neg
    if pinf && ninf then (f.nan, fIV)
    else if pinf then f.round rm ftz false (.inf false)
    else if ninf then f.round rm ftz false (.inf true)
    else
      let sum : Dy := terms.foldl (fun (acc : Dy) (t : FVal) => acc.add t.dy) (⟨0, 0⟩ : Dy)
      if sum.n == 0 then (f.signed (terms.all fun t => t.isZero && t.neg) 0, 0)
      else f.round rm ftz false (sum.val false)

/-- A total order on values: −∞ < … < −0 < +0 < … < +∞ (03/R52), for values that are no NaN. -/
def FVal.lt (a b : FVal) : Bool :=
  match a, b with
  | .inf n, .inf n' => n && !n'
  | .inf n, _ => n
  | _, .inf n' => !n'
  | .fin n m e, .fin n' m' e' =>
    let d := (FVal.fin n m e).dy.add ⟨-(FVal.fin n' m' e').dy.n, e'⟩
    if m == 0 && m' == 0 then n && !n' else decide (d.n < 0)
  | _, _ => false

/-- Numeric order, −0 = +0. -/
def FVal.ltNum (a b : FVal) : Bool := if a.isZero && b.isZero then false else a.lt b

/-- Numeric equality, −0 = +0; false with a NaN. -/
def FVal.eqNum (a b : FVal) : Bool := !a.isNan && !b.isNan && !a.ltNum b && !b.ltNum a

end Sys2Proof.Machine
end

