-- ==== Sys2Proof/Machine/Operands.lean ====
section
/-! DEFINITION. Every operand form: extension words and which instruction accepts and uses each (04/R79 to R89), the
checks of decode (04/R78), the guard and the effective mask (02/R24), operand reads with broadcast (04/R82), the
scoreboard (02/R31), and the frame every instruction word shares: issue, retire, trap. -/

namespace Sys2Proof

/-- The groups of the opcode map (04/R90). -/
inductive Grp where
  | sys | bru | brd | jmp | salu | salui | vint | vinti | vf32 | vfma | vcvt | vcmp | kops | vmov | vsfu | vri
  | ld | st | scr | atom | ldl | cpy | mma | spx | sync | stk | nest | task | csr | mbx | xw | step
deriving DecidableEq, Repr

/-- The group of an instruction; a step without a word is `step`. -/
def Instr.grp : Instr → Grp
  | .nop | .exit | .trap _ | .brk _ | .safe _ | .yld | .sleep _ | .eret | .ifence => .sys
  | .bru _ _ => .bru
  | .brd _ | .rcv _ => .brd
  | .call _ | .callx _ | .ret _ | .jtab _ => .jmp
  | .saluAdd _ | .saluSub _ | .saluMul _ | .saluMulh _ | .saluMulhn _ | .saluAnd _ | .saluOr _ | .saluXor _ | .andn _
  | .saluShl _ | .saluShr _ | .saluSar _ | .rotl _ | .saluMin _ | .saluMax _ | .minn _ | .maxn _ | .slt _ | .sltn _
  | .seq _ | .saluSel _ | .clz _ | .popc _ | .brev _ | .add64 _ | .sub64 _ | .shl64 _ | .shr64 _ => .salu
  | .saluiAddi _ | .saluiAndi _ | .saluiOri _ | .saluiXori _ | .saluiShli _ | .saluiShri _ | .saluiSari _
  | .saluiMovi _ | .saluiMovhi _ | .slti _ => .salui
  | .vintAdd _ | .vintSub _ | .addc _ | .subb _ | .vintMul _ | .vintMulh _ | .vintMulhn _ | .mad _ | .vintAnd _
  | .vintOr _ | .vintXor _ | .vintShl _ | .vintShr _ | .vintSar _ | .vintMin _ | .vintMax _ => .vint
  | .vintiAddi _ | .vintiAndi _ | .vintiOri _ | .vintiXori _ | .vintiShli _ | .vintiShri _ | .vintiSari _
  | .muli _ => .vinti
  | .vriMovi _ | .vriMovhi _ | .addi16 _ => .vri
  | .fadd _ | .fsub _ | .fmul _ | .fmin _ | .fmax _ | .fminm _ | .fmaxm _ | .fcps _ | .fflr _ | .fceil _ | .frne _
  | .ftrn _ | .fabs _ | .fneg _ | .fsat _ | .fscl _ => .vf32
  | .fma _ | .fms _ | .fnma _ | .fnms _ | .hfma2 _ | .bfma2 _ | .dot4e4 _ | .dot4e5 _ | .dot4i _ | .dot2h _ => .vfma
  | .cvtf _ | .cvti _ | .cvtp _ | .expn _ | .lutx _ | .mxsc _ => .vcvt
  | .feq _ | .fne _ | .flt _ | .fle _ | .fun _ | .fcls _ | .ieq _ | .ine _ | .ilt _ | .ile _ | .iltn _ | .ilen _ => .vcmp
  | .kand _ | .kor _ | .kxor _ | .kandn _ | .knot _ | .kmov _ | .kset _ | .kcnt _ | .kfirst _ | .kall _
  | .kany _ => .kops
  | .mov _ | .vmovSel _ | .shfl _ | .shflx _ | .shflup _ | .shfldn _ | .rdfl _ | .rdln _ | .bcst _ | .lid _
  | .lpos _ => .vmov
  | .exp2 _ | .log2 _ | .rcp _ | .rsq _ | .sqrt _ | .sin2pi _ | .cos2pi _ | .tanh _ => .vsfu
  | .ld _ _ | .ldu _ _ => .ld
  | .st _ _ | .stu _ _ => .st
  | .lds _ _ | .sts _ _ => .scr
  | .aadd _ | .amin _ | .amax _ | .aminn _ | .amaxn _ | .aand _ | .aor _ | .axor _ | .axchg _ | .acas _ | .afadd _
  | .abfadd2 _ => .atom
  | .ldls _ | .ldlv _ | .ldl64 _ => .ldl
  | .lg2s _ | .ls2g _ | .bulk _ | .mcast _ | .dec _ | .peer _ | .dscd _ | .pref _ | .red _ => .cpy
  | .mma _ | .mmaz _ | .mmld _ | .mmst _ | .mmcl _ | .mmcv _ => .mma
  | .mmsp _ | .spcmp _ | .pcomp _ | .pinv _ | .nnz _ | .wnw _ | .wnf _ | .wnx _ => .spx
  | .fence _ | .fencesc _ | .ofence _ | .bar _ | .bara _ | .barw _ | .bart _ | .txbi _ | .txbe _ | .txba _ | .txbw _
  | .txbt _ | .waita _ | .hwait _ | .htest _ | .hcan _ | .hexp _ | .himp _ => .sync
  | .sjoin _ | .sleave _ | .sinfo _ | .ssub _ | .sunsub _ | .ssync _ => .stk
  | .nbeg _ | .nxt _ | .nidx _ | .nbar _ | .nred _ | .nbc _ | .nmap _ | .nllm _ => .nest
  | .spawn _ | .launch _ | .tdone _ => .task
  | .csrr _ | .csrw _ | .csrs _ | .csrc _ => .csr
  | .mpost _ | .mtake _ | .mpeek _ => .mbx
  | .ximm _ | .xreg _ | .xprd _ | .xmod _ | .xmem _ | .xsch _ | .xoff _ => .xw
  | _ => .step

/-- The forms that accept XIMM (04/R81). -/
def Instr.ximmOk : Instr → Bool
  | .saluiAddi _ | .saluiAndi _ | .saluiOri _ | .saluiXori _ | .saluiMovi _ | .slti _ | .vintiAddi _ | .vintiAndi _
  | .vintiOri _ | .vintiXori _ | .muli _ | .vriMovi _ | .addi16 _ => true
  | _ => false

/-- The forms that accept XREG (04/R89). -/
def Instr.xregOk (i : Instr) : Bool :=
  match i.grp with
  | .vint | .vf32 | .vfma | .vcvt | .vcmp | .vmov | .vsfu => true
  | _ => match i with | .lg2s _ | .ls2g _ => true | _ => false

/-- The forms that accept XMOD (04/R89). -/
def Instr.xmodOk (i : Instr) : Bool :=
  match i.grp with
  | .vint | .vinti | .vf32 | .vfma | .vcvt | .vcmp | .vsfu => true
  | _ =>
    match i with
    | .mma _ | .mmaz _ | .mmld _ | .mmst _ | .mmcv _ | .mmsp _ | .spcmp _ | .bulk _ | .mcast _ | .peer _ | .red _
    | .nred _ => true
    | _ => false

/-- The forms that accept XOFF (04/R88). -/
def Instr.xoffOk (i : Instr) : Bool :=
  match i.grp with
  | .ld | .st | .scr | .atom => true
  | _ => false

/-- The forms that accept XMEM (04/R89). -/
def Instr.xmemOk (i : Instr) : Bool :=
  i.xoffOk || match i with
    | .lg2s _ | .ls2g _ | .bulk _ | .mcast _ | .peer _ | .dec _ | .pref _ | .red _ => true
    | _ => false

/-- Whether an instruction accepts an extension word of a kind (04/R89). -/
def Instr.accepts (i : Instr) (kind : Nat) : Bool :=
  match kind with
  | 0 => i.ximmOk
  | 1 => i.xregOk
  | 2 => i.xprdOk
  | 3 => i.xmodOk
  | 4 => i.xmemOk
  | 5 => true
  | 6 => i.xoffOk
  | _ => false

/-- RM of an XMOD payload (04/R80). -/
def xRm (x : BitVec 24) : Nat := (x.extractLsb' 21 3).toNat
/-- FTZ. -/
def xFtz (x : BitVec 24) : Bool := x.getLsbD 20
/-- SAT. -/
def xSat (x : BitVec 24) : Bool := x.getLsbD 19
/-- TY. -/
def xTy (x : BitVec 24) : Nat := (x.extractLsb' 14 5).toNat
/-- TYS. -/
def xTys (x : BitVec 24) : Nat := (x.extractLsb' 9 5).toNat
/-- C of an XREG payload. -/
def xC (x : BitVec 24) : Nat := (x.extractLsb' 17 7).toNat
/-- E. -/
def xE (x : BitVec 24) : Nat := (x.extractLsb' 10 7).toNat
/-- AS. -/
def xAs (x : BitVec 24) : Bool := x.getLsbD 9
/-- BS. -/
def xBs (x : BitVec 24) : Bool := x.getLsbD 8
/-- SPC of an XMEM payload: 0 glob, 1 scr, 2 peer, 3 slm. -/
def xSpc (x : BitVec 24) : Nat := (x.extractLsb' 21 3).toNat
/-- SCP. -/
def xScp (x : BitVec 24) : BitVec 3 := x.extractLsb' 18 3
/-- ORD. -/
def xOrd (x : BitVec 24) : BitVec 2 := x.extractLsb' 16 2
/-- CH. -/
def xCh (x : BitVec 24) : BitVec 2 := x.extractLsb' 14 2
/-- MSS. -/
def xMss (x : BitVec 24) : Bool := x.getLsbD 13
/-- MEM. -/
def xMem (x : BitVec 24) : Nat := (x.extractLsb' 7 6).toNat

/-- The XMOD fields an instruction uses: RM, FTZ, SAT, TY, TYS (05, 07). -/
structure XmodUse where
  rm : Bool
  ftz : Bool
  sat : Bool
  ty : Bool
  tys : Bool
deriving DecidableEq, Repr

/-- Which XMOD fields each instruction uses. MXSC, EXPN and LUTX name no FTZ field, so ftz:1 raises 0x02 on them (03/R51; log entry
76). -/
def Instr.xmodUse : Instr → XmodUse
  | .vintAdd _ | .vintSub _ => ⟨false, false, true, true, false⟩
  | .vintMin _ | .vintMax _ => ⟨false, false, false, true, false⟩
  | .fadd _ | .fsub _ | .fmul _ | .fscl _ | .fma _ | .fms _ | .fnma _ | .fnms _ | .hfma2 _ | .bfma2 _ | .dot4e4 _
  | .dot4e5 _ | .dot2h _ => ⟨true, true, false, false, false⟩
  | .fmin _ | .fmax _ | .fminm _ | .fmaxm _ | .fflr _ | .fceil _ | .frne _ | .ftrn _ | .fsat _ | .feq _ | .fne _
  | .flt _ | .fle _ | .fun _ | .fcls _ | .exp2 _ | .log2 _ | .rcp _ | .rsq _ | .sqrt _ | .sin2pi _ | .cos2pi _
  | .tanh _ => ⟨false, true, false, false, false⟩
  | .cvtf _ | .cvti _ | .cvtp _ => ⟨true, true, true, true, true⟩
  | .expn _ | .lutx _ | .mxsc _ => ⟨false, false, false, true, true⟩
  | .mma _ | .mmaz _ | .mmsp _ => ⟨true, false, false, false, false⟩
  | .mmld _ => ⟨false, false, false, false, true⟩
  | .mmst _ => ⟨true, false, true, true, false⟩
  | .mmcv _ | .red _ | .nred _ => ⟨true, false, false, true, false⟩
  | .bulk o => ⟨o.f.getLsbD 2, false, o.f.getLsbD 2, false, false⟩
  | _ => ⟨false, false, false, false, false⟩

/-- The forms on which rna is a rounding: the conversions (03/R49). -/
def Instr.rnaOk (i : Instr) (x : BitVec 24) : Bool :=
  match i with
  | .cvtf _ | .cvti _ | .cvtp _ | .mmcv _ => true
  | .mmst _ => xTy x != 0 && xTy x != 0x10
  | _ => false

/-- Float codes that CVTF and CVTI write (05/R132). -/
def isFloatTy (c : Nat) : Bool := c ≤ 4
/-- Integer codes of CVTI (05/R132). -/
def isIntTy (c : Nat) : Bool := 0x0C ≤ c && c ≤ 0x13

/-- Whether TY and TYS are permitted for the operand (04/R85; 05/R126, R132; 07/R208, R209, R223). `x` is the XMOD payload,
zero where there is none. -/
def Instr.tyOk (i : Instr) (x : Option (BitVec 24)) : Bool :=
  let p := x.getD 0
  match i with
  | .vintAdd _ | .vintSub _ | .vintMin _ | .vintMax _ =>
    (match x with | none => true | some q => xTy q == 0x10 || xTy q == 0x11)
  | .cvtf _ => (isFloatTy (xTys p) || xTys p == 5 || (xTys p == 8 && xTy p == 0)) && isFloatTy (xTy p)
  | .cvti _ => (isIntTy (xTys p) && (isFloatTy (xTy p) || isIntTy (xTy p))) || (isFloatTy (xTys p) && isIntTy (xTy p))
  | .cvtp _ => xTys p == 0 && 1 ≤ xTy p && xTy p ≤ 4
  | .expn _ => (xTys p == 6 || xTys p == 7 || xTys p == 0xA || xTys p == 0xB) && (xTy p == 3 || xTy p == 2)
  | .lutx _ => xTys p == 9 && (xTy p == 3 || xTy p == 2)
  | .mxsc _ => xTys p == 0 && (xTy p == 5 || xTy p == 3 || xTy p == 4)
  | .mmld _ => xTys p == 0 || xTys p == 1 || xTys p == 2 || xTys p == 0x10
  | .mmst _ => xTy p ≤ 4 || xTy p == 0x10 || xTy p == 0x0C
  | .mmcv _ => xTy p == 3 || xTy p == 4 || xTy p == 5
  | .nred _ => xTy p ≤ 4 || (0x10 ≤ xTy p && xTy p ≤ 0x13)
  | .red _ => xTy p ≤ 4 || xTy p == 0x10
  | _ => true

/-- Whether ftz:1 meets an FP32, FP16 or BF16 operand or result (03/R51). -/
def Instr.ftzOk (i : Instr) (x : BitVec 24) : Bool :=
  match i with
  | .cvtf _ | .cvti _ => !xFtz x || xTy x ≤ 2 || xTys x ≤ 2
  | _ => true

/-- The XREG fields an instruction uses: C, E, AS, BS (05; 07/R196). -/
structure XregUse where
  c : Use
  e : Use
  as : Bool
  bs : Bool
deriving DecidableEq, Repr

/-- Which XREG fields each instruction uses. `ty` is TY of its XMOD word. -/
def Instr.xregUse (i : Instr) (ty : Nat) : XregUse :=
  match i with
  | .lg2s _ | .ls2g _ => ⟨.v 1, .v 1, false, false⟩
  | .fflr _ | .fceil _ | .frne _ | .ftrn _ | .fabs _ | .fneg _ | .fsat _ => ⟨.unused, .unused, true, false⟩
  | .cvtf _ | .cvti _ | .mxsc _ => ⟨.unused, .unused, true, false⟩
  | .cvtp _ => if ty == 3 || ty == 4 then ⟨.v 1, .v 1, true, true⟩ else ⟨.unused, .unused, true, true⟩
  | .expn _ | .lutx _ => ⟨.unused, .unused, false, false⟩
  | .fcls _ => ⟨.unused, .unused, true, false⟩
  | .mov _ => ⟨.unused, .unused, true, false⟩
  | .vmovSel _ => ⟨.k, .unused, true, true⟩
  | .shfl _ | .shflx _ | .shflup _ | .shfldn _ => ⟨.unused, .unused, false, true⟩
  | .rdfl _ | .rdln _ | .bcst _ | .lid _ | .lpos _ => ⟨.unused, .unused, false, false⟩
  | .exp2 _ | .log2 _ | .rcp _ | .rsq _ | .sqrt _ | .sin2pi _ | .cos2pi _ | .tanh _ => ⟨.unused, .unused, true, false⟩
  | i => match i.grp with
    | .vint | .vf32 | .vfma | .vcmp => ⟨.unused, .unused, true, true⟩
    | _ => ⟨.unused, .unused, false, false⟩

/-- The forms that require an XREG word (04/R82; 05/R133, R139). -/
def Instr.xregNeeded (i : Instr) (ty : Nat) : Bool :=
  match i with
  | .lg2s _ | .ls2g _ | .vmovSel _ => true
  | .cvtp _ => ty == 3 || ty == 4
  | _ => false

/-- The default XMEM payload of a form: its space, order rlx, its scope, hint norm (06/R145; 07/R194). -/
def Instr.xmemDefault (i : Instr) : BitVec 24 :=
  match i.grp with
  | .scr => (1 : BitVec 3) ++ (2 : BitVec 3) ++ (0 : BitVec 18)
  | _ => (0 : BitVec 3) ++ (5 : BitVec 3) ++ (0 : BitVec 18)

/-- Whether the spaces and orders of an XMEM word are permitted for the form, and its reserved subfields zero
(04/R80, R86; 06/R145; 07/R194, R196). -/
def Instr.xmemVals (i : Instr) (x : BitVec 24) : Bool :=
  let spc := xSpc x
  let mss0 := !xMss x && xMem x == 0
  xScp x != 7 && x.extractLsb' 0 7 == 0 &&
  (match i.grp with
   | .ld => (spc == 0 || spc == 3) && (xOrd x == 0 || xOrd x == 1) && mss0
   | .st => (spc == 0 || spc == 3) && (xOrd x == 0 || xOrd x == 2) && mss0
   | .scr => (spc == 1 || spc == 2) && decide (xScp x ≤ 2) && (spc == 2 || mss0) &&
      (match i with | .lds _ _ => xOrd x == 0 || xOrd x == 1 | _ => xOrd x == 0 || xOrd x == 2)
   | .atom => spc ≤ 3 && (spc == 0 || spc == 3 || decide (xScp x ≤ 2)) && (spc == 2 || mss0)
   | _ => mss0 && (match i with
      | .lg2s _ | .ls2g _ => spc == 0 || spc == 3
      | _ => spc == 0 && xOrd x == 0))

/-- The bits above bit 7 of an immediate field widened by XIMM (04/R81). -/
def Instr.ximmHighZero : Instr → Bool
  | .saluiAddi o | .saluiAndi o | .saluiOri o | .saluiXori o | .saluiMovi o | .slti o => o.imm.extractLsb' 8 3 == 0
  | .vriMovi o | .addi16 o => o.imm.extractLsb' 8 8 == 0
  | _ => true

/-- Forms a sequencer sheaf may not execute (04/R106). -/
def Instr.seqForbidden (i : Instr) : Bool :=
  match i.grp with
  | .bru | .brd | .jmp => true
  | _ => match i with | .safe _ | .yld | .eret => true | _ => false

/-- The level of a nest form (07/R223). -/
def Instr.lv : Instr → Nat
  | .nbeg o | .nxt o | .nidx o | .nbar o | .nred o | .nbc o | .nmap o | .nllm o => (o.imm.extractLsb' 0 2).toNat
  | _ => 0

/-- The CSR number of a CSR form. -/
def Instr.csrn : Instr → Option Nat
  | .csrr o | .csrw o | .csrs o | .csrc o => some o.csrn.toNat
  | _ => none

/-- Whether a CSR number is assigned (04/R92). -/
def csrAssigned (n : Nat) : Bool :=
  n ≤ 8 || (0x10 ≤ n && n ≤ 0x17) || (0x20 ≤ n && n ≤ 0x22) || n == 0x30 || n == 0x40 || n == 0x41 ||
  (0x50 ≤ n && n ≤ 0x54) || n == 0x60 || n == 0x61 || n == 0x70 || n == 0x71 || n == 0x80 ||
  (0x800 ≤ n && n ≤ 0x802)

/-- Whether a CSR has 64 bits (04/R92). -/
def csrWide (n : Nat) : Bool := n == 0x22 || n == 0x50 || n == 0x51 || n == 0x53 || n == 0x60 || n == 0x71 || n == 0x801

/-- Whether a value of a 64-bit type occupies a v pair (05/R132; 07/R228). -/
def wideTy (c : Nat) : Bool := c == 0x12 || c == 0x13

/-- Widen a field's use by the types of a conversion or a reduction, a table of LUTX, and AS or BS (04/R82; 05/R132,
R134; 07/R228). -/
def Field.as (f : Field) (wide : Bool) (group : Nat) (scalar : Bool) : Field :=
  match f.use with
  | .v 1 => { f with use := if scalar then (if wide then .pair else .s) else if wide then .v 2 else if group ≤ 1 then .v 1 else .v group }
  | _ => f

/-- Whether a field breaks the register limits: cause 0x01 (02/R30, 04/R77, 07/R188). -/
def Field.beyond (f : Field) (vn mt : Nat) : Bool :=
  match f.use with
  | .v n => f.val % n != 0 || vn < f.val + n
  | .pair => f.val % 2 != 0
  | .block n => f.val % 2 != 0 || 64 < f.val + n
  | .tile => mt ≤ f.val
  | _ => false

/-- The forms whose result arrives after their issue: SFU and conversions (02/R38). -/
def Instr.slow (i : Instr) : Bool := i.grp == .vsfu || i.grp == .vcvt

/-- Whether an instruction reads or writes FFLG (03/R53): it raises flags, observes an operation that may have, or names the
CSR. -/
def Instr.usesFlags (i : Instr) : Bool :=
  i.csrn == some 0x30 || i.grp == .vf32 || i.grp == .vfma || i.grp == .vcvt || i.grp == .vcmp || i.grp == .vsfu ||
  match i with
  | .hwait _ | .htest _ | .nred _ => true
  | _ => false

end Sys2Proof

namespace Sys2Proof.Machine

/-- The payload of a kind in the chain before the instruction. -/
def Chain.get (c : Chain) (k : Nat) : Option (BitVec 24) := (c.words.find? fun w => w.1 == k).map (·.2)

/-- XMOD of the unit, zero without one. -/
def Sheaf.xmod (h : Sheaf) : BitVec 24 := (h.chain.get 3).getD 0

/-- XREG of the unit, zero without one. -/
def Sheaf.xreg (h : Sheaf) : BitVec 24 := (h.chain.get 1).getD 0

/-- XMEM of the unit, or the form's default. -/
def Sheaf.xmem (h : Sheaf) (i : Instr) : BitVec 24 := (h.chain.get 4).getD i.xmemDefault

/-- XOFF of the unit, zero without one. -/
def Sheaf.xoff (h : Sheaf) : Int := ((h.chain.get 6).getD 0).toInt

/-- The register fields of the unit, extension words taken into account. -/
def Sheaf.operands (h : Sheaf) (i : Instr) : List Field :=
  let xm := h.xmod
  let xr := h.xreg
  let u := i.xregUse (xTy xm)
  let dW := match i with | .cvti _ => wideTy (xTy xm) | .nred _ => wideTy (xTy xm) | _ => false
  let aW := match i with | .cvti _ => wideTy (xTys xm) | .nred _ => wideTy (xTy xm) | _ => false
  let bG := match i with | .lutx _ => (if xTy xm == 2 then 8 else if xTy xm == 3 then 4 else 1) | _ => 1
  let base := match i.fields with
    | [d, a, b] =>
      let b1 := if i.grp == Grp.atom && (xSpc (h.xmem i) == 0 || xSpc (h.xmem i) == 3) then { b with use := .pair } else b
      [Field.as d dW 1 false, Field.as a aW 1 (xAs xr && u.as), Field.as b1 false bG (xBs xr && u.bs)]
    | [d, a] => [Field.as d dW 1 false, Field.as a aW 1 false]
    | l => l
  let csr := match i.csrn, base with
    | some n, [f] => if csrWide n then [{ f with use := .pair }] else base
    | _, _ => base
  let ext := [⟨u.c, .rd, xC xr⟩, ⟨u.e, .rd, xE xr⟩]
  let mss := if i.xmemOk && xMss (h.xmem i) then [(⟨.s, .rd, xMem (h.xmem i)⟩ : Field)] else []
  csr ++ (if (h.chain.get 1).isSome then ext else []) ++ mss

/-- Depth of the sheaf's nest (07/R223). -/
def Sheaf.nestDepth (h : Sheaf) : Nat := h.mapl.length

/-- The segment of the current path. -/
def State.curSeg (s : State) (h : Sheaf) : Option Seg := s.seg? h.pc.seg.toNat

/-- The causes decode finds in a unit (04/R78, with the per-form rules of 05 to 07). -/
def State.decodeCauses (s : State) (h : Sheaf) (i : Instr) : List Nat :=
  let xm := h.xmod
  let u := i.xregUse (xTy xm)
  let xr := h.xreg
  let m := i.xmodUse
  let ops := h.operands i
  let c (b : Bool) (n : Nat) : List Nat := if b then [n] else []
  -- cause 0x01
  c (h.chain.words.any fun w => !i.accepts w.1) 1 ++
  c (decide ¬ (h.chain.words.map (·.1)).Nodup) 1 ++
  c (ops.any fun f => f.beyond h.vn h.mt) 1 ++
  c (i.xregNeeded (xTy xm) && (h.chain.get 1).isNone) 1 ++
  c (i.xmodOk && xRm xm == 4 && !i.rnaOk xm) 1 ++
  c ((match i.csrn with | some n => !csrAssigned n | none => false)) 1 ++
  c ((match i with | .safe k => decide ((((s.curSeg h).map fun g => g.spt.length).getD 0) ≤ k.toNat) | _ => false)) 1 ++
  c (h.seqr && i.seqForbidden) 1 ++
  -- cause 0x02
  c (!i.wf) 2 ++
  c (ops.any fun f => !f.ok) 2 ++
  c (i.xmodOk && (4 < xRm xm || 0x13 < xTy xm || 0x13 < xTys xm || xm.extractLsb' 0 9 != 0)) 2 ++
  c (i.xmodOk && ((!m.rm && xRm xm != 0) || (!m.ftz && xFtz xm) || (!m.sat && xSat xm) || (!m.ty && xTy xm != 0) ||
    (!m.tys && xTys xm != 0))) 2 ++
  c (!i.tyOk (h.chain.get 3) || !i.ftzOk xm) 2 ++
  c (i.xregOk && ((u.c == .unused && xC xr != 0) || (u.e == .unused && xE xr != 0) || (!u.as && xAs xr) ||
    (!u.bs && xBs xr) || xr.extractLsb' 0 8 != 0)) 2 ++
  c ((match h.chain.get 2 with | some p => p.extractLsb' 0 19 != 0 || (i.pg.getD 0) != 0 | none => false)) 2 ++
  c ((match h.chain.get 4 with | some p => i.xmemOk && !i.xmemVals p | none => false)) 2 ++
  c ((match h.chain.get 5 with | some p => p.extractLsb' 0 19 != 0 | none => false)) 2 ++
  c ((h.chain.get 0).isSome && !i.ximmHighZero) 2 ++
  c (i.grp == .nest && (match i with | .nmap _ => false | .nbc _ => decide (h.nestDepth ≤ i.lv + 1) | _ => decide (h.nestDepth ≤ i.lv)) && !h.seqr) 2 ++
  -- cause 0x03
  c ((match i.csrn with | some n => decide (0x800 ≤ n) | none => false)) 3

/-- The guard of the unit for a lane (02/R24, 04/R83). -/
def Sheaf.guard (h : Sheaf) (i : Instr) (l : Lane) : Bool :=
  match h.chain.get 2 with
  | some p => l.getK (p.extractLsb' 20 4).toNat != p.getLsbD 19
  | none => l.getK ((i.pg.getD 0).toNat)

/-- The effective mask of the unit, lane by lane (02/R24). -/
def Sheaf.eff (h : Sheaf) (i : Instr) (l : Lane) : Bool := h.onPath l && h.guard i l

/-- The lanes of the effective mask, in LID order. -/
def Sheaf.effLanes (h : Sheaf) (i : Instr) : List Lane := h.lanes.filter fun l => h.eff i l

/-- Operand A of a lane: the broadcast s register under AS (05/R107). -/
def Sheaf.opA (h : Sheaf) (a : BitVec 7) (l : Lane) : Word := if xAs h.xreg then h.getS a.toNat else l.getV a.toNat

/-- Operand B of a lane, with BS. -/
def Sheaf.opB (h : Sheaf) (b : BitVec 7) (l : Lane) : Word := if xBs h.xreg then h.getS b.toNat else l.getV b.toNat

/-- A 64-bit operand A: the s pair under AS (05/R132). -/
def Sheaf.opA2 (h : Sheaf) (a : BitVec 7) (l : Lane) : DWord := if xAs h.xreg then h.getPair a.toNat else l.getV2 a.toNat

/-- The immediate of an IMM7 form (05/R127, 04/R81). -/
def Sheaf.imm7 (h : Sheaf) (f : BitVec 7) : Word :=
  match h.chain.get 0 with
  | some p => ((p ++ f : BitVec 31)).signExtend 32
  | none => f.signExtend 32

/-- The immediate of an IMM11 form (05/R124, 04/R81). -/
def Sheaf.imm11 (h : Sheaf) (f : BitVec 11) : Word :=
  match h.chain.get 0 with
  | some p => p ++ f.extractLsb' 0 8
  | none => f.signExtend 32

/-- The immediate of an IMM16 form (05/R128, 04/R81). -/
def Sheaf.imm16 (h : Sheaf) (f : BitVec 16) : Word :=
  match h.chain.get 0 with
  | some p => p ++ f.extractLsb' 0 8
  | none => f.signExtend 32

/-! ### The scoreboard (02/R31, R32) -/

/-- Registers a returning value of `size` bytes fills. -/
def Dest.covers (d : Dest) (size : Nat) (isV : Bool) (n : Nat) : Bool :=
  d.isV == isV && d.reg ≤ n && n < d.reg + max 1 (size / 4)

/-- The destination of the other half of a b128 access, of which `part` is one (06/R149). -/
def Dest.other (d : Dest) (part : Nat) : Dest := { d with reg := if part == 0 then d.reg + 2 else d.reg - 2 }

/-- Whether a queued access will write a register: its own, and those of the half it holds the value for. -/
def MqEntry.writes (e : MqEntry) (isV : Bool) (n : Nat) : Bool :=
  match e with
  | .acc a => (match a.dest with
    | some d => d.covers a.size isV n || (a.held.isSome && (d.other a.id.part).covers 8 isV n)
    | none => false)
  | _ => false

/-- Whether a channel request will write a register of the sheaf. -/
def ChanReq.writes (r : ChanReq) (uid : Nat) (isV : Bool) (n : Nat) : Bool :=
  r.uid == uid && match r.dest with
    | some d => d.covers r.size isV n || (r.half.isSome && (d.other r.id.part).covers 8 isV n)
    | none => false

/-- Whether a result on its way will write a v register (02/R31). -/
def LateRes.writes (r : LateRes) (n : Nat) : Bool := r.reg ≤ n && n < r.reg + r.n

/-- The requests of all channels, answered or not, oldest first of each kind. -/
def State.requests (s : State) : List ChanReq := s.mm.chans ++ s.mm.backs.map (·.req)

/-- The pending bit of a v register. -/
def State.vPending (s : State) (h : Sheaf) (n : Nat) : Bool :=
  h.mq.any (·.writes true n) || (s.requests.any fun (r : ChanReq) => r.writes h.uid true n) || h.late.any (·.writes n)

/-- The pending bit of an s register: an LDU in flight, or an NNZ still counting (07/R212). -/
def State.sPending (s : State) (h : Sheaf) (n : Nat) : Bool :=
  h.mq.any (·.writes false n) ||
  s.eng.ops.any fun (o : Op) => o.sheaf == h.uid && o.kind == .nnz && o.live && o.hreg == n

/-- The pending bit of a tile (02/R32): the sheaf's MMCL, MMLD and MMST that have not yet read or written it. -/
def State.tilePending (s : State) (h : Sheaf) (n : Nat) : Bool :=
  s.eng.ops.any fun (o : Op) => o.sheaf == h.uid && o.tile == n && o.live &&
    (o.kind == .mmcl || o.kind == .mmld || o.kind == .mmst) && o.rp < 64

/-- Whether a field's registers are pending. A handle read by HTEST, HCAN, HEXP, BARW or BART is read without waiting by
the instruction itself (06/R172, R181); every other use of a pending handle waits. -/
def State.busy (s : State) (h : Sheaf) (f : Field) : Bool :=
  match f.use with
  | .v n => (List.range n).any fun k => s.vPending h (f.val + k)
  | .s => s.sPending h f.val
  | .pair => s.sPending h f.val || s.sPending h (f.val + 1)
  | .block n => (List.range n).any fun k => s.sPending h (f.val + k)
  | .h => f.role == .wr && s.hPending (h.getH f.val)
  | .tile => s.tilePending h f.val
  | _ => false

/-- Whether the scoreboard holds the instruction (02/R31); FFLG is pending until every SFU and conversion result is there. -/
def State.hazard (s : State) (h : Sheaf) (i : Instr) : Bool :=
  ((h.operands i).any fun f => s.busy h f) || (i.usesFlags && h.late.any fun r => r.flags)

/-! ### Undefined values of 06/R169 -/

/-- The kinds whose operation a handle holds. -/
def OpKind.handled : OpKind → Bool
  | .nnz | .mmcl => false
  | _ => true

/-- The operations of a sheaf that it has not yet observed outside PENDING; that their handle has been overwritten changes
nothing (06/R169). -/
def State.unseen (s : State) (h : Sheaf) : List Op :=
  s.eng.ops.filter fun (o : Op) => o.sheaf == h.uid && o.kind.handled && !o.seenBy.contains h.uid

/-- Whether a range meets one of a list of ranges. -/
def touches (rs : List (Nat × Nat × Nat)) (sp a n : Nat) : Bool := rs.any fun r => r.1 == sp && meets r.2.1 r.2.2 a n

/-- Whether the bytes are in the destination of an unobserved operation of the sheaf. -/
def State.clouded (s : State) (h : Sheaf) (sp a n : Nat) : Bool := (s.unseen h).any fun o => touches o.dstR sp a n

/-- Fill the parts of some ranges that lie in a sheaf's own allotment with free bytes (06/R169: no other sheaf is affected). -/
def State.spoilRanges (s : State) (h : Sheaf) : List (Nat × Nat × Nat) → State
  | [] => s
  | r :: rs =>
    let lo := max r.2.1 (h.scrAbs 0)
    let n := min (r.2.1 + r.2.2) (h.scrAbs h.scrBytes) - lo
    if r.1 == 1 && n != 0 then State.spoilRanges ((s.draw n).allotWrite h (lo - h.scrAbs 0) (freeBytes s.ctl.free n) h.uid) h rs
    else State.spoilRanges s h rs

/-- An accumulator tile whose contents are free values. -/
def freeTile (seed : Nat) : Tile := { seed := seed, rows := List.replicate 64 none, bad := 0 }

/-- The kinds that name an accumulator tile as their destination. -/
def OpKind.writesTile : OpKind → Bool
  | .mma | .mmaz | .mmld | .mmcl | .mmsp => true
  | _ => false

/-- Leave an operation's destination undefined within its sheaf's allotments (06/R169, R183). -/
def State.spoil (s : State) (o : Op) : State :=
  match s.sheaf? o.sheaf with
  | none => s
  | some h =>
    let s1 := s.spoilRanges h o.dstR
    if o.kind.writesTile then
      (s1.draw 4096).modSheaf o.sheaf fun h => { h with tiles := h.tiles.set o.tile (freeTile s1.ctl.free) }
    else s1

/-- Operations whose values 06/R169 leaves undefined: a running one is tainted, a finished one's destination becomes
undefined at once. -/
def State.cloud (s : State) (os : List Op) : State :=
  os.foldl (fun (t : State) (o : Op) => if o.live then t.modOp o.id fun x => { x with taint := true } else t.spoil o) s

/-- The unobserved operations whose regions an access of their sheaf meets (06/R169). -/
def State.met (s : State) (h : Sheaf) (sp a n : Nat) (wr : Bool) : List Op :=
  (s.unseen h).filter fun o => touches o.dstR sp a n || (wr && touches o.srcR sp a n)

/-- An access of a sheaf meets the regions of its unobserved operations. -/
def State.touch (s : State) (h : Sheaf) (sp a n : Nat) (wr : Bool) : State := s.cloud (s.met h sp a n wr)

/-- The sheaf with the tiles the state holds for it, after `touch`. -/
def Sheaf.retile (h : Sheaf) (s : State) : Sheaf := { h with tiles := ((s.sheaf? h.uid).map (·.tiles)).getD h.tiles }

/-- The v registers an instruction writes. -/
def Sheaf.writesV (h : Sheaf) (i : Instr) : List Nat :=
  (h.operands i).flatMap fun f => match f.use with
    | .v n => if f.role != .rd then (List.range n).map fun k => f.val + k else []
    | _ => []

/-- The unobserved per-lane copies whose register operands an instruction writes in one of their lanes (06/R169). -/
def State.clobbered (s : State) (h : Sheaf) (i : Instr) : List Op :=
  (s.unseen h).filter fun o => (o.regs.any fun r => (h.writesV i).contains r) &&
    (h.effLanes i).any fun l => o.lanes.any fun c => c.lid == l.lid

/-! ### Issue, retire, trap -/

/-- Whether an operand-log entry of a sheaf waits for the ERET of the handler the sheaf runs: it is older than the handler
(17/R382; log entry 61). -/
def LogEntry.asleep (e : LogEntry) (h : Sheaf) : Bool := h.trap.inH && decide (e.unit < h.trap.seq)

/-- The unserviceable operand-log entries of a sheaf and the causes found outside the log that may trap now (02/R41, R42;
17/R382). -/
def State.lateEntries (s : State) (h : Sheaf) : List LogEntry :=
  (s.flt.log.filter fun e => e.uid == h.uid && e.state == 3 && !e.asleep h) ++ h.raised.filter fun e => !e.asleep h

/-- Whether an agent of the sheaf has been let through a nest wait that its sheaf has not left yet. -/
def State.letThrough (s : State) (h : Sheaf) : Bool :=
  s.stk.nests.any fun n => n.launch == h.launch &&
    ((n.arr.any fun a => a.1 / 1024 == h.uid && a.2 != n.phase) || n.got.any fun a => a.1 / 1024 == h.uid && a.2 != n.round)

/-- Whether the sheaf may issue: running, with a path, awake, no late cause waiting, no boundary stop due outside a
chain (17/R390, 02/R28) and outside an arrival under way, the device on. -/
def State.canIssue (s : State) (h : Sheaf) : Bool :=
  h.run == .running && h.path.isSome && h.sleep == 0 && ((s.lateEntries h).isEmpty || h.chain.pc0.isSome || h.arr.isSome) &&
  s.rep.on && s.rep.shutdown.isNone &&
  (match h.stop with | some r => !r.due || (h.chain.pc0.isSome && !h.waiting) || h.arr.isSome || s.letThrough h | none => true)

/-- The unit is over: the chain is spent, arrival is checked (02/R34). -/
def Sheaf.close (h : Sheaf) : Sheaf :=
  Sheaf.settled { h with chain := ⟨none, []⟩, fbuf := none, waiting := false, timeL := none }

/-- The unit is over and the path goes on at `pc`. -/
def Sheaf.retire (h : Sheaf) (pc : Pc) : Sheaf := (h.setPc pc).close

/-- The next instruction's PC. -/
def Sheaf.nextPc (h : Sheaf) : Pc := h.pc.add 4

/-- Complete the unit with the sheaf changed to `h`. -/
def State.done (s : State) (h : Sheaf) : State := s.putSheaf (h.retire h.nextPc)

/-- Complete the unit by going to `pc`. -/
def State.goTo (s : State) (h : Sheaf) (pc : Pc) : State := s.putSheaf (h.retire pc)

/-- One entry per cause: the first lane's (02/R40, 17/R389). -/
def firstPer : List (Nat × DWord) → List (Nat × DWord)
  | [] => []
  | (c, a) :: l => (c, a) :: (firstPer l).filter fun x => x.1 != c

/-- End the unit: retire, or raise the causes found, every effect standing (02/R40). -/
def State.finish (s : State) (h : Sheaf) (i : Instr) (cs : List (Nat × DWord)) : State :=
  if cs.isEmpty then s.done h else s.raise h (encode i) (firstPer cs)

/-- End a unit some of whose lanes' requests are still out: it retires, and the causes found, each with its lane, are raised at the
boundary together with those that the answers bring (02/R41). -/
def State.finishLater (s : State) (h : Sheaf) (i : Instr) (unit : Nat) (cs : List (Nat × Nat × DWord)) : State :=
  let es := cs.map fun c => (⟨h.uid, h.core, 0, encode i, 0, 0, 3, [], [(c.1, c.2.2)], h.unitPc, c.2.1, unit⟩ : LogEntry)
  s.done { h with raised := h.raised ++ es }

/-- Raise one cause of the instruction class: no effect (02/R41). -/
def State.trapNow (s : State) (h : Sheaf) (i : Instr) (cause : Nat) (addr : DWord) : State :=
  s.raise h (encode i) [(cause, addr)]

/-- Take a trap of decode: TRAPA is not stated, so it is a free value (log entry 7). -/
def State.decodeTrap (s : State) (h : Sheaf) (insn : Word) (cause : Nat) : State :=
  (s.draw 1).raise h insn [(cause, Config.freeValue s.ctl.free)]

/-- The least of a list of causes. -/
def leastCause : List Nat → Option Nat
  | [] => none
  | c :: cs => some ((leastCause cs).elim c fun d => min c d)

/-- What needs an address space, a stook, a launch or a task queue, which a sequencer sheaf has not (04/R106): a literal
needs a code segment, a flag in a peer's scratch a stook (log entry 57). -/
def Sheaf.needsSpace (h : Sheaf) (i : Instr) : Bool :=
  match i.grp with
  | .ld | .st => true
  | .atom => xSpc (h.xmem i) != 1
  | .scr => xSpc (h.xmem i) == 2
  | .stk | .task | .mbx | .nest | .ldl => true
  | _ =>
    match i with
    | .bulk o => o.f.getLsbD 1 && (h.getS (o.sa.toNat + 4)).getLsbD 25
    | .lg2s _ | .ls2g _ | .dec _ | .dscd _ | .pref _ | .red _ | .peer _ | .mcast _ => true
    | .bar o | .bara o => o.sb != 0
    | _ => false

/-- What the current sheaf does with an instruction word: nothing while it may not issue or a register is pending; the
trap of decode; or the instruction's own effect, after what a write of an unobserved copy's register operands leaves
undefined (06/R169). -/
def State.issueBy (s : State) (h : Sheaf) (i : Instr) (body : Sheaf → State → State) : State :=
  if s.canIssue h then
    match leastCause (s.decodeCauses h i) with
    | some c => s.decodeTrap h (encode i) c
    | none =>
      if s.hazard h i then s
      else if h.seqr && h.needsSpace i then s.trapNow h i 6 0
      else match s.clobbered h i with
        | [] => body h s
        | o :: os => let s1 := s.cloud (o :: os); body (h.retile s1) s1
  else s

/-- Execute an instruction word for the current sheaf. -/
def issue (i : Instr) (s : State) (body : Sheaf → State → State) : Out :=
  match s.cur? with
  | none => .fault .noSheaf
  | some h => .next (s.issueBy h i body)

/-! ### Declared energy (10/R292, R293) -/

/-- The cost of a declared class (07/R193). -/
def energyCost (c : Nat) : Nat := 2 ^ c

/-- The budget of a sheaf's context on its die. -/
def State.energyOf (s : State) (h : Sheaf) : Option Energy := (s.ctx? h.ctx).bind fun c => c.energy[dieOf h.core]?

/-- Whether the budget covers a cost; a sequencer sheaf is not debited (04/R106). -/
def State.canSpend (s : State) (h : Sheaf) (cost : Nat) : Bool :=
  h.seqr || match s.energyOf h with | some e => decide ((cost : Int) ≤ e.bud) | none => true

/-- Debit a cost. -/
def State.spend (s : State) (h : Sheaf) (cost : Nat) : State :=
  if h.seqr then s
  else s.modCtx h.ctx fun c => { c with energy := c.energy.modify (dieOf h.core) fun (e : Energy) =>
    { e with bud := e.bud - (cost : Int), debits := e.debits + cost, work := true } }

/-- The results on their way once an instruction has issued: the registers it has written stay pending in its lanes until
they have arrived (02/R31). -/
def Sheaf.lateAfter (h : Sheaf) (i : Instr) : List LateRes :=
  if i.slow && !(h.effLanes i).isEmpty then
    h.late ++ (h.operands i).filterMap fun f => match f.use with
      | .v n => if f.role != .rd then some ⟨f.val, n, (h.effLanes i).map (·.lid), true⟩ else none
      | _ => none
  else h.late

/-- Change the lanes of the effective mask, all reading before any writes (02/R26), and OR their flags. -/
def Sheaf.sweep (h : Sheaf) (i : Instr) (f : Lane → Lane × Flags) : Sheaf :=
  { h with
    late := h.lateAfter i
    lanes := h.lanes.map fun l => if h.eff i l then (f l).1 else l
    fflg := (h.effLanes i).foldl (fun (g : Flags) (l : Lane) => g ||| (f l).2) h.fflg }

/-- A swept instruction that changes registers of lanes and FFLG. -/
def swept (i : Instr) (s : State) (f : Sheaf → Lane → Lane × Flags) : Out :=
  issue i s fun h s => s.done (h.sweep i (f h))

/-- A swept instruction of a declared class: it does not issue while the budget is below its cost. -/
def sweptAt (cls : Nat) (i : Instr) (s : State) (f : Sheaf → Lane → Lane × Flags) : Out :=
  issue i s fun h s =>
    if s.canSpend h (energyCost cls) then (s.spend h (energyCost cls)).done (h.sweep i (f h)) else s

/-- A uniform instruction that writes one s register. -/
def scalar (i : Instr) (s : State) (n : Nat) (f : Sheaf → Word) : Out :=
  issue i s fun h s => s.done (h.setS n (f h))

/-- A uniform instruction that writes an s pair. -/
def scalarPair (i : Instr) (s : State) (n : Nat) (f : Sheaf → DWord) : Out :=
  issue i s fun h s => s.done (h.setPair n (f h))

end Sys2Proof.Machine
end

