-- ==== Sys2Proof/Machine/Memory.lean ====
section
/-! DEFINITION. Global memory: translation (17/R374 to R377), the homes of lines and writes performed at them (08/R238,
R243, R245), write-back (19/R414), dirty logging (17/R399), and the fetch of code words (04/R96, 17/R381). -/

namespace Sys2Proof.Machine

/-! ### Page tables -/

/-- The outcome of a translation: a page, a page that is not present or malformed, one owned by the host, or a table in no
extent (19/R412). -/
inductive Xl where
  | page (t : Tlb)
  | absent
  | host
  | refused
deriving DecidableEq, Repr

/-- A page-table entry at a PA. -/
def pteAt (m : Mem) (pa : Nat) : BitVec 64 := BitVec.ofNat 64 (m.readNat pa 8)

/-- What a leaf entry gives, at a level of `bits` bits of page size; malformed counts as absent (17/R376). -/
def leafOf (e : BitVec 64) (pte va bits : Nat) (asid : Nat) : Xl :=
  let pa := (e.extractLsb' 12 40).toNat * 4096
  if e.extractLsb' 52 12 != 0 || e.extractLsb' 10 2 != 0 || pa % 2 ^ bits != 0 || (e.getLsbD 3 && !e.getLsbD 2) then .absent
  else if e.getLsbD 8 then .host
  else
    let n := 2 ^ (bits - 16)
    .page ⟨0, if e.getLsbD 7 then 0 else asid, va / 2 ^ bits * n, n, pa, e.getLsbD 9, e.getLsbD 2, e.getLsbD 3,
      e.getLsbD 4, pte⟩

/-- Walk the tables from a level (17/R375, R376); `ok` tells the PAs of assigned extents (19/R412). -/
def walk (ok : Nat → Bool) (m : Mem) (asid va : Nat) : Nat → Nat → Xl
  | 0, t =>
    let p := t + 8 * (va / 2 ^ 16 % 32)
    let e := pteAt m p
    if !ok p then .refused
    else if e.getLsbD 0 && e.getLsbD 1 then leafOf e p va 16 asid else .absent
  | n + 1, t =>
    let sh := 12 + 9 * (n + 1)
    let p := t + 8 * (va / 2 ^ sh % 512)
    let e := pteAt m p
    if !ok p then .refused
    else if !e.getLsbD 0 then .absent
    else if e.getLsbD 1 then (if n ≤ 1 then leafOf e p va sh asid else .absent)
    else if e.extractLsb' 52 12 != 0 || e.extractLsb' 2 6 != 0 then .absent
    else if n == 0 then walk ok m asid va n ((e.extractLsb' 8 44).toNat * 256)
    else if e.extractLsb' 8 4 != 0 then .absent
    else walk ok m asid va n ((e.extractLsb' 12 40).toNat * 4096)

/-- Whether a cached translation is one of an address for an ASID (17/R374, R377). -/
def Tlb.hits (t : Tlb) (asid va : Nat) : Bool :=
  (t.asid == asid || t.asid == 0) && t.page ≤ va / 65536 && va / 65536 < t.page + t.n

/-- The translation of an address that a TLB holds. -/
def State.tlb? (s : State) (place asid va : Nat) : Option Tlb := s.mm.tlb.find? fun t => t.place == place && t.hits asid va

/-- Translations a TLB holds: 1024 in an engine TLB (01/R14), 8192 in a memory-side one (01/R18). -/
def tlbSize (place : Nat) : Nat := if place < 2000 then 1024 else 8192

/-- Whether an engine operation pins a page of a translation (17/R378). -/
def State.tlbPinned (s : State) (t : Tlb) : Bool :=
  s.eng.ops.any fun (o : Op) => o.pins.any fun p => p.asid == t.asid && t.page ≤ p.page && p.page < t.page + t.n

/-- Put a translation into a TLB. The oldest unpinned one leaves a full TLB, or the oldest where all are pinned (log entry 14). -/
def State.cacheTlb (s : State) (place : Nat) (t : Tlb) : State :=
  let here := s.mm.tlb.filter fun x => x.place == place
  let out := if here.length < tlbSize place then none else (here.find? fun x => !s.tlbPinned x).or here.head?
  { s with mm := { s.mm with tlb := (match out with | some x => s.mm.tlb.erase x | none => s.mm.tlb) ++ [{ t with place := place }] } }

/-- The memory-side TLB that serves an address: of a root port on the die of the line's slice (17/R377; log entry 15). -/
def State.memTlb (s : State) (asid va : Nat) : Nat :=
  2000 + s.homeSlice asid (va / 128) / 24 * 6 + Config.portHash (va / 65536) % 6

/-- Whether a PA lies in host memory or in an assigned extent (19/R412). -/
def State.assigned (s : State) (hm : Bool) (pa : Nat) : Bool :=
  hm || s.fab.extents.any fun (e : Extent) => e.base ≤ pa && pa < e.base + e.len

/-- Set bits of a byte of the pool with an atomic OR; at a PA in no extent nothing is written (19/R412). -/
def State.orPte (s : State) (pte : Nat) (bits : Byte) : State :=
  if s.assigned false pte then { s with mm := { s.mm with pool := s.mm.pool.put pte (s.mm.pool.get pte ||| bits) } } else s

/-- What the walker finds for an address of a context. -/
def State.walked (s : State) (c : Ctx) (va : Nat) : Xl := walk (s.assigned false) s.mm.pool c.asid va 4 c.ptroot

/-- Translate an address of a context at the memory side, caching what the walker finds and setting A (17/R376, R377). -/
def State.translate (s : State) (ctx va : Nat) : State × Xl :=
  match s.ctx? ctx with
  | none => (s, .absent)
  | some c =>
    match s.tlb? (s.memTlb c.asid va) c.asid va with
    | some t => (s, .page t)
    | none =>
      match s.walked c va with
      | .page t => ((s.orPte t.pte 0x20).cacheTlb (s.memTlb c.asid va) t, .page t)
      | x => (s, x)

/-- Translate an address at submission: in the core's engine TLB, which asks the memory side on a miss (17/R377). -/
def State.engTranslate (s : State) (core ctx va : Nat) : State × Xl :=
  match s.tlb? core (s.asidOf ctx) va with
  | some t => (s, .page t)
  | none =>
    match s.translate ctx va with
    | (s1, .page t) => (s1.cacheTlb core t, .page t)
    | r => r

/-- The PA of an address within its translation. -/
def Tlb.paOf (t : Tlb) (va : Nat) : Nat := t.pa + (va - t.page * 65536)

/-! ### Pins (17/R378) -/

/-- Whether two pins are of one page. -/
def Pin.same (p q : Pin) : Bool := p.asid == q.asid && p.page == q.page

/-- The pin of the page of an address under its translation. -/
def Tlb.pinOf (t : Tlb) (va : Nat) : Pin := ⟨t.asid, va / 65536, t.paOf (va / 65536 * 65536), t.hm⟩

/-- Add a pin to those of an operation. -/
def Pin.into (p : Pin) (ps : List Pin) : List Pin := p :: ps.filter fun q => !q.same p

/-- The operations that hold pins on a die. -/
def State.pinners (s : State) (die : Nat) : List Op := s.eng.ops.filter fun (o : Op) => o.live && dieOf o.core == die

/-- The pin count of a page on a die, derived from the operations that hold pins. -/
def State.pinCount (s : State) (die : Nat) (p : Pin) : Nat := ((s.pinners die).filter fun o => o.pins.any p.same).length

/-- The pages of a list of pins, each once. -/
def pinPages (ps : List Pin) : List (Nat × Nat) := (ps.map fun p => (p.asid, p.page)).dedup

/-- Whether the page-lock table of a die takes further pins. -/
def State.canPin (s : State) (die : Nat) (ps : List Pin) : Bool :=
  ps.all (fun p => decide (s.pinCount die p < 65535)) &&
  decide ((pinPages (((s.pinners die).flatMap fun (o : Op) => o.pins) ++ ps)).length ≤ 65536)

/-! ### Homes -/

/-- Read backing memory: the pool, or host memory. -/
def State.backRead (s : State) (hm : Bool) (pa n : Nat) : List Byte :=
  if hm then s.mm.host.read pa n else s.mm.pool.read pa n

/-- Write backing memory; at a PA in no extent nothing is written (19/R412). -/
def State.backWrite (s : State) (hm : Bool) (pa : Nat) (bs : List Byte) : State :=
  if hm then { s with mm := { s.mm with host := s.mm.host.write pa bs } }
  else if s.assigned false pa then { s with mm := { s.mm with pool := s.mm.pool.write pa bs } }
  else s

/-- What an access to a line of a context finds; `denied` a page without the access needed, or a PA in no extent. -/
inductive HomeRes where
  | ok (h : Home)
  | absent
  | host
  | denied
deriving DecidableEq, Repr

/-- What a request needs of a page: nothing (an error report), to read, to write, both, or to fetch code. -/
inductive Need where
  | any
  | read
  | write
  | both
  | fetch
deriving DecidableEq, Repr

/-- Whether the permissions of a page give what a request needs. -/
def Need.met (n : Need) (r w x : Bool) : Bool :=
  match n with
  | .any => true
  | .read => r
  | .write => w
  | .both => r && w
  | .fetch => x

/-- Whether a line in L2 serves a request. A hit is not checked again (17/R377), but data in an execute-only page are never
read or written (16/R364; log entry 32). -/
def Home.serves (h : Home) (n : Need) : Bool := n == .any || n == .fetch || h.r || !h.x

/-- The home of a line in L2, by tag and line. -/
def State.home? (s : State) (asid line : Nat) : Option Home :=
  s.mm.homes.find? fun h => (h.asid == asid || h.asid == 0) && h.line == line

/-- Whether requests to the line of an address of a context are held, its slice being taken out of service (20/R429). -/
def State.lineHeld (s : State) (ctx va : Nat) : Bool :=
  ((s.home? (s.asidOf ctx) (va / 128)).map fun (h : Home) => s.sliceHeld h.slice).getD false

/-- Change one home. -/
def State.modHome (s : State) (asid line : Nat) (f : Home → Home) : State :=
  { s with mm := { s.mm with homes := s.mm.homes.map fun h => if h.asid == asid && h.line == line then f h else h } }

/-- Whether a byte range of a line touches a bad sector: every byte of the sector is an error until all 32 have been
written (20/R423). -/
def badIn (bad : BitVec 128) (off n : Nat) : Bool :=
  (List.range 4).any fun k => meets off n (32 * k) 32 && (bad.extractLsb' (32 * k) 32) != 0

/-- Whether a range of a home's line touches a bad sector. -/
def Home.badAt (h : Home) (off n : Nat) : Bool := badIn h.bad off n

/-- Count bytes moved between L2 and the pool for an address space (14/R339). -/
def State.countPool (s : State) (asid n : Nat) : State :=
  let w := s.ctl.time / 1000
  let here := fun (x : Nat × Nat × Nat) => x.1 == asid && x.2.1 == w
  let old := ((s.mm.moved.find? here).map (·.2.2)).getD 0
  let rest := s.mm.moved.filter fun (x : Nat × Nat × Nat) => !here x && decide (w ≤ x.2.1 + 1)
  { s with mm := { s.mm with moved := rest ++ [(asid, w, old + n)] } }

/-- Write the dirty bytes of a line's good sectors back, and give its writers their completions (19/R414; log entry 18). -/
def State.writeBack (s : State) (h : Home) : State :=
  let s1 := (List.range 128).foldl (fun (t : State) (k : Nat) =>
    if h.dirty.getLsbD k && !h.badAt k 1 then t.backWrite h.hm (h.pa + k) [byteOf h.data k] else t) s
  (if h.hm then s1 else s1.countPool h.asid ((List.range 128).filter fun k => h.dirty.getLsbD k && !h.badAt k 1).length).modHome h.asid h.line fun x => { x with
    dirty := (List.range 4).foldl (fun (d : BitVec 128) (k : Nat) =>
      if x.badAt (32 * k) 32 then d else d &&& ~~~(rangeMask 128 (32 * k) 32)) x.dirty
    owed := if (List.range 4).any fun k => x.badAt (32 * k) 32 && x.dirty.extractLsb' (32 * k) 32 != 0 then x.owed else [] }

/-- Remove a line from L2. -/
def State.dropHome (s : State) (asid line : Nat) : State :=
  { s with mm := { s.mm with homes := s.mm.homes.filter fun (h : Home) => !(h.asid == asid && h.line == line) } }

/-- Drop copies. -/
def State.dropCopies (s : State) (p : Copy → Bool) : State :=
  { s with mm := { s.mm with l1 := s.mm.l1.filter fun c => !p c } }

/-- Lines a slice may hold: 4 MiB in each of its cache ways (01/R19, 20/R431). -/
def State.sliceLines (s : State) (slice : Nat) : Nat :=
  let mask := ((s.rep.ways.find? fun (w : Ways) => w.slice == slice).map fun (w : Ways) => w.mask).getD 0xFFFF
  32768 * ((List.range 16).filter fun k => mask.getLsbD k).length

/-- A line is written back and leaves L2, and its copies leave the L1s, which may happen at any time (08/R246). -/
def State.evict (s : State) (h : Home) : State :=
  ((s.writeBack h).dropHome h.asid h.line).dropCopies fun c => c.asid == h.asid && c.line == h.line

/-- Make room for `n` lines in a slice: its oldest lines without a bad sector (20/R423) leave it (log entry 58). -/
def State.makeRoom (s : State) (slice n : Nat) : State :=
  let here := s.mm.homes.filter fun h => h.slice == slice
  if here.length + n ≤ s.sliceLines slice then s
  else ((here.filter fun h => h.bad == 0).take (here.length + n - s.sliceLines slice)).foldl State.evict s

/-- Whether a line of another address or address space lies in the same physical page, with one of the two writable
(17/R374). -/
def Home.synonym (x h : Home) : Bool :=
  x.hm == h.hm && x.pa / 65536 == h.pa / 65536 && (x.asid != h.asid || x.line / 512 != h.line / 512) && (x.w || h.w)

/-- A line with undefined contents, drawn from counter value `k`. -/
def Home.free (h : Home) (k : Nat) : Home := { h with data := lineOf (freeBytes k 128), dirty := BitVec.allOnes 128 }

/-- A line enters L2. Writable synonyms are not kept coherent: what L2 holds of their pages is undefined (17/R374). -/
def State.enterHome (s : State) (h : Home) : State :=
  if s.mm.homes.any fun x => x.synonym h then
    let t := (s.dropCopies fun c => s.mm.homes.any fun x => x.synonym h && c.asid == x.asid && c.line == x.line).draw (128 * (s.mm.homes.length + 1))
    { t with mm := { t.mm with
        homes := (t.mm.homes.zipIdx.map fun p => if p.1.synonym h then p.1.free (s.ctl.free + 128 * (p.2 + 1)) else p.1) ++ [h.free s.ctl.free] } }
  else { s with mm := { s.mm with homes := s.mm.homes ++ [h] } }

/-- The home of the line of an address, brought into L2 if it is not there: an L2 hit is not translated again (17/R377). A miss
is refused where the page does not give what is needed or its PA lies in no extent (17/R382, 19/R412). -/
def State.homeOf (s : State) (ctx va : Nat) (need : Need) : State × HomeRes :=
  match s.home? (s.asidOf ctx) (va / 128) with
  | some h => (s, if h.serves need then .ok h else .denied)
  | none =>
    match s.translate ctx va with
    | (s1, .page t) =>
      let line := va / 128
      let pa := t.paOf (line * 128)
      if need != .any && !(need.met t.r t.w t.x && s1.assigned t.hm pa) then (s1, .denied)
      else
      let s2 := s1.makeRoom (s1.homeSlice t.asid line) 1
      let h : Home := ⟨t.asid, line, lineOf (s2.backRead t.hm pa 128), 0, 0, 0, 128, [], false, pa, t.hm, t.r, t.w, t.x,
        s1.homeSlice t.asid line, [], s1.ctl.time⟩
      let s3 := if t.hm then s2 else s2.countPool (s.asidOf ctx) 128
      let s4 := s3.enterHome h
      (s4, .ok ((s4.home? t.asid line).getD h))
    | (s1, .absent) => (s1, .absent)
    | (s1, .host) => (s1, .host)
    | (s1, .refused) => (s1, .denied)

/-- Put bytes into a home's line: dirty, and good again byte by byte. -/
def Home.put (h : Home) (off : Nat) (bs : List Byte) : Home :=
  { h with
    data := putLine h.data off bs
    dirty := h.dirty ||| rangeMask 128 off bs.length
    bad := h.bad &&& ~~~(rangeMask 128 off bs.length) }

/-- Index of a PA's 64 KiB page in the capacity of a function, counted over its extents in order (17/R399). -/
def pageIndex (pa : Nat) : List Extent → Nat → Option Nat
  | [], _ => none
  | e :: l, acc =>
    if e.base ≤ pa ∧ pa < e.base + e.len then some (acc + (pa - e.base) / 65536) else pageIndex pa l (acc + e.len / 65536)

/-- The extents assigned to a function, in order. -/
def State.extentsOf (s : State) (fn : Nat) : List Extent := s.fab.extents.filter fun e => e.fn == fn

/-- The dirty log of the function of a context. -/
def State.logOf (s : State) (ctx : Nat) : Option DirtyLog :=
  (s.ctx? ctx).bind fun c => s.sys.logs.find? fun l => l.vf == c.vf

/-- The first logged write of a page: its bit, D, and the mark on every line of the page (17/R399). -/
def State.logWrite (s : State) (ctx : Nat) (h : Home) : State :=
  match s.logOf ctx with
  | none => s
  | some l =>
    if h.logged || h.hm then s
    else
      let s1 := match pageIndex h.pa (s.extentsOf l.vf) 0 with
        | some i => if i < l.len then s.orPte (l.bitmap + i / 8) (1 <<< (i % 8)) else s
        | none => s
      let pte := match s1.mm.tlb.find? fun t => t.hits h.asid (h.line * 128), s1.ctx? ctx with
        | some t, _ => some t.pte
        | none, some c => match s1.walked c (h.line * 128) with | .page t => some t.pte | _ => none
        | none, none => none
      let s2 := match pte with | some a => s1.orPte a 0x40 | none => s1
      { s2 with mm := { s2.mm with homes := s2.mm.homes.map fun (x : Home) =>
          if x.asid == h.asid && x.line / 512 == h.line / 512 then { x with logged := true } else x } }

/-- Remember which function's context last wrote through a core (17/R399, DIRTB). -/
def State.wroteThrough (s : State) (core ctx : Nat) : State :=
  match s.ctx? ctx with
  | none => s
  | some c => { s with sys := { s.sys with lastVf := (core, c.vf) :: s.sys.lastVf.filter fun (p : Nat × Nat) => p.1 != core } }

/-- A frame whose return point has become undefined: a free offset of its segment. -/
def Frame.spoil (seed : Nat) (f : Frame) : Frame := { f with pc := { f.pc with off := freeWord (seed + f.id) &&& 0xFFFFFFFC } }

/-- A stack entry after a program store into the sheaf-stack region: frames and the point of a merge are undefined. -/
def StackEntry.spoil (seed : Nat) (e : StackEntry) : StackEntry :=
  match e with
  | .record id rpc a fr => .record id { rpc with off := freeWord (seed + id) &&& 0xFFFFFFFC } a (fr.map (Frame.spoil seed))
  | .pending p => .pending { p with frames := p.frames.map (Frame.spoil seed) }

/-- A store into the stack region of a sheaf leaves that sheaf's later returns and merges undefined (05/R120). -/
def State.spoilStacks (s : State) (ctx va n : Nat) : State :=
  let hit := fun (h : Sheaf) => h.ctx == ctx && !h.seqr && meets va n h.sstk.toNat h.sstks.toNat
  if s.sheaves.any hit then
    let k := s.ctl.free
    State.draw { s with sheaves := s.sheaves.map fun (h : Sheaf) => if hit h then { h with
        path := h.path.map fun (p : Path) => { p with frames := p.frames.map (Frame.spoil k) }
        stack := h.stack.map (StackEntry.spoil k) } else h } s.ctl.nextId
  else s

/-- Perform a write at its home (08/R243): the value, its place in the write order, LL; answers GWCT. The writer (a sheaf, or
the sheaf of an engine operation) is owed a completion at the pool (06/R165). -/
def State.homeWrite (s : State) (ctx core uid : Nat) (h : Home) (off : Nat) (bs : List Byte) : State × Nat :=
  let gwct := max (s.reading (slicePlace h.slice)) h.lemax
  let s0 := ((s.logWrite ctx h).wroteThrough core ctx).spoilStacks ctx (h.line * 128 + off) bs.length
  let s1 := s0.modCtx ctx fun c => if c.wrote.contains h.line then c else { c with wrote := h.line :: c.wrote }
  (s1.modHome h.asid h.line fun x => { x.put off bs with
      ll := 64, writes := x.writes ++ [(uid, off, bs)]
      owed := if x.owed.contains uid then x.owed else x.owed ++ [uid] }, gwct)

/-- Grant a copy under lease (08/R245): answers the lease end. -/
def State.grant (s : State) (h : Home) : State × Nat :=
  let le := s.reading (slicePlace h.slice) + h.ll
  (s.modHome h.asid h.line fun x => { x with lemax := max x.lemax le, ll := min (2 * x.ll) 8192 }, le)

/-! ### L1 copies -/

/-- Whether the L1s of a cluster are fused: while a sheaf that asks for it is resident there (14/R340). -/
def State.fused (s : State) (cluster : Nat) : Bool :=
  s.sheaves.any fun h => h.resident && h.admitFused && clusterOf h.core == cluster

/-- The L1 of a core: its own, or its cluster's fused one (08/R249). -/
def State.l1Of (s : State) (core : Nat) : Nat := if s.fused (clusterOf core) then 10000 + clusterOf core else core

/-- A live copy in an L1. -/
def State.copy? (s : State) (l1 asid line : Nat) : Option Copy :=
  s.mm.l1.find? fun c => c.l1 == l1 && (c.asid == asid || c.asid == 0) && c.line == line

/-- Whether a copy stands in an L1 that its core's cluster does not use now (08/R249). -/
def State.strayCopy (s : State) (c : Copy) : Bool :=
  if c.l1 < 10000 then s.fused (clusterOf c.l1) else !s.fused (c.l1 - 10000)

/-- Put the home's line under a lease into an L1, in the place of an older copy. An L1 has 1024 sets of 12 lines, a fused one
the ways of its 48 cores (01/R14, R19); a line falls into the set of its number modulo 1024, and the oldest copy of a full set
expires (08/R246; log entry 58). -/
def State.putCopy (s : State) (l1 : Nat) (h : Home) (le : Nat) : State :=
  let s1 := s.dropCopies fun c => c.l1 == l1 && c.asid == h.asid && c.line == h.line
  { s1 with mm := { s1.mm with
      l1 := newest (fun c => c.l1 == l1 && c.line % 1024 == h.line % 1024) (if l1 < 10000 then 12 else 576)
        (s1.mm.l1 ++ [⟨l1, h.asid, h.line, h.data, h.bad, le⟩]) } }

/-- The drain number of an access that has been drained and not yet performed. -/
def Stage.sent : Stage → Option Nat
  | .queued => none
  | .drained n => some n
  | .logged n => n

/-- Whether an access is in the operand log. -/
def Stage.logged? (g : Stage) : Bool := match g with | .logged _ => true | _ => false

/-- Whether a write or an atomic of a sheaf is on its way to a line. -/
def MqEntry.onItsWay (e : MqEntry) (line : Nat) : Bool :=
  match e with
  | .acc a => a.space == .glob && a.addr / 128 == line && a.stage.sent.isSome
  | _ => false

/-- Whether a drained write or atomic of a sheaf of an L1 has still to be performed at a line: no sheaf that has seen it in a
copy may see an older value from the home (06/R150; 08/R244, R259, R261; log entry 59). -/
def State.inFlight (s : State) (l1 asid line : Nat) : Bool :=
  s.sheaves.any fun h => (h.mq.any fun e => e.onItsWay line) && s.l1Of h.core == l1 && (asid == 0 || s.asidOf h.ctx == asid)

/-- Change copies of a line in an L1. -/
def State.writeCopy (s : State) (l1 asid line off : Nat) (bs : List Byte) : State :=
  { s with mm := { s.mm with l1 := s.mm.l1.map fun c =>
      if c.l1 == l1 && (c.asid == asid || c.asid == 0) && c.line == line then
        { c with data := putLine c.data off bs, bad := c.bad &&& ~~~(rangeMask 128 off bs.length) } else c } }

/-- The place whose reading an L1 compares lease ends with (08/R246). -/
def l1Place (l1 : Nat) : Nat := if l1 < 10000 then l1 else (l1 - 10000) * 48

/-! ### Code words -/

/-- What a read of code finds. -/
inductive CodeRes where
  | word (w : Word)
  | missing
  | noX
  | bad
deriving DecidableEq, Repr

/-- An instruction-cache line of a core. -/
def State.ic? (s : State) (core : Nat) (seg : BitVec 16) (gen : BitVec 8) (blk : Nat) : Option ICLine :=
  s.mm.ic.find? fun c => c.core == core && c.seg == seg && c.gen == gen && c.blk == blk

/-- Read a word of a segment through the core's instruction cache of 64 KiB (01/R14; 04/R94, R96; 16/R364; 17/R377). -/
def State.codeWord (s : State) (core ctx : Nat) (g : Seg) (off : Nat) : State × CodeRes :=
  match s.ic? core (BitVec.ofNat 16 g.idx) g.gen (off / 64) with
  | some c => (s, .word (c.words.getD (off % 64 / 4) 0))
  | none =>
    let va := g.base + off
    match s.homeOf ctx va .fetch with
    | (s1, .denied) => (s1, .noX)
    | (s1, .ok h) =>
      if h.badAt (va / 64 * 64 % 128) 64 then (s1, .bad)
      else
        let ws := (List.range 16).map fun k => BitVec.ofNat 32 (leNat (lineBytes h.data (va / 64 * 64 % 128 + 4 * k) 4))
        let lines := s1.mm.ic ++ [⟨core, BitVec.ofNat 16 g.idx, g.gen, off / 64, ws⟩]
        ({ s1 with mm := { s1.mm with ic := newest (fun c => c.core == core) 1024 lines } }, .word (ws.getD (off % 64 / 4) 0))
    | (s1, _) => (s1, .missing)

/-- Whether a word of a segment would be read from a line that is held (20/R429). -/
def State.codeHeld (s : State) (core ctx : Nat) (g : Seg) (off : Nat) : Bool :=
  (s.ic? core (BitVec.ofNat 16 g.idx) g.gen (off / 64)).isNone && s.lineHeld ctx (g.base + off)

/-- Park a sheaf at its unit and ask for the page (17/R381, 07/R190). -/
def State.park (s : State) (h : Sheaf) (va : Nat) (command : Option Word) : State :=
  let r : PageReq := ⟨.core h.core, h.ctx, va / 65536⟩
  let s1 := s.putSheaf { h.setPc h.unitPc with chain := ⟨none, []⟩, fbuf := none, waiting := false, run := .parked va command }
  if s1.flt.reqs.contains r then s1 else { s1 with flt := { s1.flt with reqs := s1.flt.reqs ++ [r] } }

/-- Raise a fetch cause. No word has been fetched, so the spec states no TRAPI: it is a free value (log entry 7). -/
def State.fetchTrap (s : State) (h : Sheaf) (cause : Nat) (addr : DWord) : State :=
  (s.draw 1).raise h (freeWord s.ctl.free) [(cause, addr)]

/-- Fetch the next word of a sheaf's current path into its buffer, or raise the fetch cause, or park (04/R96; 16/R373;
17/R381). A sequencer sheaf is fed by the microword step. -/
def State.fetchFor (s : State) (h : Sheaf) : State :=
  if h.fbuf.isSome || h.seqr || !s.canIssue h then s
  else
    match s.seg? h.pc.seg.toNat with
    | none => s.fetchTrap h 0x0A (BitVec.ofNat 64 h.pc.off.toNat)
    | some g =>
      let va := g.base + h.pc.off.toNat
      if g.state == .revoked then s.fetchTrap h 0x0A (BitVec.ofNat 64 va)
      else if g.len ≤ h.pc.off.toNat then s.fetchTrap h 6 (BitVec.ofNat 64 va)
      else if s.codeHeld h.core h.ctx g h.pc.off.toNat then s
      else
        match s.codeWord h.core h.ctx g h.pc.off.toNat with
        | (s1, .word w) => s1.putSheaf { h with fbuf := some w }
        | (s1, .missing) => s1.park h va none
        | (s1, .noX) => s1.fetchTrap h 6 (BitVec.ofNat 64 va)
        | (s1, .bad) => s1.fetchTrap h 0x12 (BitVec.ofNat 64 va)

end Sys2Proof.Machine
end

