-- ==== Sys2Proof/Machine/Flow.lean ====
section
/-! DEFINITION. The groups SYS, BRU, BRD, JMP and LDL: traps, waits, branches, splits, calls, tables, literals
(05/R108 to R121, 02/R33 to R38, 04/R94). -/

namespace Sys2Proof.Machine

/-- A branch target: the word's PC plus four times the signed offset (05, Branches). -/
def Sheaf.target (h : Sheaf) (off : BitVec 20) : Pc := h.pc.add (off.signExtend 32 <<< 2)

/-- TRAPA of a sheaf-stack overflow (02/R37). -/
def Sheaf.stackEnd (h : Sheaf) : DWord := h.sstk + h.sstks.setWidth 64

/-- Complete the unit with a changed sheaf unless its stacks overflow, which has no effect but the trap (02/R37). -/
def State.pushTo (s : State) (h h' : Sheaf) (i : Instr) (pc : Pc) : State :=
  if h'.overflows then s.trapNow h i 6 h.stackEnd else (s.fresh 1).goTo h' pc

/-! ### SYS -/

/-- NOP (05/R108). -/
def execNop (s : State) : Out := issue .nop s fun h s => s.done h

/-- EXIT: every lane of the current path leaves (05/R109); in sequencer mode EN is cleared (04/R106). -/
def execExit (s : State) : Out :=
  issue .exit s fun h s =>
    if h.seqr then s.endSeq h id
    else s.putSheaf (h.leave h.mask).close

/-- TRAP and BRK: the cause with its code; ERET resumes at the next instruction (05/R110). -/
def State.softTrap (s : State) (h : Sheaf) (i : Instr) (cause : Nat) (code : BitVec 21) : State :=
  s.takeTrap h cause (code.setWidth 64) (encode i) false h.unitPc h.nextPc

/-- TRAP (05/R110). -/
def execTrap (imm : BitVec 21) (s : State) : Out :=
  issue (.trap imm) s fun h s => s.softTrap h (.trap imm) 0x10 imm

/-- BRK (05/R110). -/
def execBrk (imm : BitVec 21) (s : State) : Out :=
  issue (.brk imm) s fun h s => s.softTrap h (.brk imm) 0x11 imm

/-- Whether an entry is a pending path linked as `link`. Paths linked to no record count as sharing one (log entry 62). -/
def StackEntry.sameLink (e : StackEntry) (link : Option Nat) : Bool :=
  match e with
  | .record _ _ _ _ => false
  | .pending p => p.link == link

/-- Put a path just below the lowest pending path of its record (02/R33). The list's head is the top of the stack. -/
def insertBelow (p : Path) : List StackEntry → List StackEntry
  | [] => []
  | e :: es =>
    if es.any (·.sameLink p.link) then e :: insertBelow p es
    else if e.sameLink p.link then e :: .pending p :: es
    else e :: insertBelow p es

/-- The yield of the current path at `pc`: unchanged where no other pending path shares its record (02/R33). -/
def Sheaf.yield (h : Sheaf) (pc : Pc) : Sheaf :=
  match h.path with
  | none => h
  | some p =>
    if h.stack.any (·.sameLink p.link) then
      match takePending (insertBelow { p with pc := pc } h.stack) with
      | some (q, rest) => { h with path := some q, stack := rest }
      | none => h
    else { h with path := some { p with pc := pc } }

/-- YLD (02/R33, 05/R108). Its space is counted once the two paths have changed places, so it never overflows (log entry
63). -/
def execYld (s : State) : Out :=
  issue .yld s fun h s =>
    let h1 := h.yield h.nextPc
    if h1.overflows then s.trapNow h .yld 6 h.stackEnd else s.putSheaf h1.close

/-- SLEEP: nothing is issued until TIME has passed T0 plus the duration (05/R112). -/
def execSleep (imm : BitVec 21) (s : State) : Out :=
  issue (.sleep imm) s fun h s =>
    s.done { h with sleep := if imm == 0 then 0 else s.reading h.core + imm.toNat }

/-- ERET (05/R113): cause 0x01 outside a handler, 0x0B where TRAPE fails 04/R98. -/
def execEret (s : State) : Out :=
  issue .eret s fun h s =>
    if !h.trap.inH then s.decodeTrap h (encode .eret) 1
    else match h.trap.ret with
      | none => s.decodeTrap h (encode .eret) 0x0B
      | some pc =>
        if s.checkReturn h.ctx pc then s.putSheaf (h.leaveHandler pc).close
        else s.decodeTrap h (encode .eret) 0x0B

/-- Whether every earlier load and store of a sheaf has been performed (05/R114). -/
def State.memQuiet (s : State) (h : Sheaf) : Bool :=
  !(h.mq.any fun e => match e with | .acc _ => true | _ => false) &&
  !(s.requests.any fun (r : ChanReq) => r.uid == h.uid)

/-- IFENCE: waits for the sheaf's accesses, then discards the core's instruction lines and literals of the context's
segments (05/R114). -/
def execIfence (s : State) : Out :=
  issue .ifence s fun h s =>
    if s.memQuiet h then
      ({ s with mm := { s.mm with ic := s.mm.ic.filter fun (c : ICLine) =>
          !(c.core == h.core && ((s.seg? c.seg.toNat).map fun g => s.granted h.ctx g).getD true) } }).done h
    else s

/-! ### Branches -/

/-- Whether a BRU is taken (05/R115). -/
def Sheaf.takes (h : Sheaf) (i : Instr) (c : Cond) (sel : BitVec 4) : Bool :=
  let a := h.getS sel.toNat
  let ls := h.effLanes i
  match c with
  | .al => true
  | .zr => a == 0
  | .nz => a != 0
  | .ng => a.getLsbD 31
  | .nn => !a.getLsbD 31
  | .any => ls.any (·.getK sel.toNat)
  | .all => ls.all (·.getK sel.toNat)
  | .none => !ls.any (·.getK sel.toNat)

/-- BRU (05/R115). -/
def execBru (c : Cond) (o : FBR) (s : State) : Out :=
  issue (.bru c o) s fun h s =>
    if h.takes (.bru c o) c o.sel then s.goTo h (h.target o.off) else s.done h

/-- Whether a lane has a register write outstanding, which pins it (02/R38). -/
def State.pinned (s : State) (h : Sheaf) (l : Lane) : Bool :=
  (h.mq.any fun e => match e with
    | .acc a => a.id.lid == l.lid && (match a.dest with | some d => d.isV | none => false)
    | _ => false) ||
  (s.requests.any fun (r : ChanReq) => r.uid == h.uid && r.id.lid == l.lid &&
    (match r.dest with | some d => d.isV | none => false)) ||
  h.late.any fun r => r.lids.contains l.lid

/-- Give slots in ascending order to lanes in the order listed: (LID, new LPOS) (02/R38). -/
def place : List Lane → List Nat → List (Nat × Nat)
  | l :: ls, p :: ps => (l.lid, p) :: place ls ps
  | _, _ => []

/-- Mask of the positions of some lanes. -/
def maskOf (ls : List Lane) : Mask := ls.foldl (fun (m : Mask) (l : Lane) => m ||| (1 <<< l.lpos)) 0

/-- The compaction of 02/R38: the lanes with their new positions, fall-through lanes first. -/
def State.compact (s : State) (h : Sheaf) (taken : Lane → Bool) : List Lane :=
  let ls := h.lanes.filter h.onPath
  let pin := ls.filter (s.pinned h)
  let q := (List.range 1024).filter fun p => h.mask.getLsbD p
  let slots := q.filter fun p => !(pin.any fun l => l.lpos == p)
  let un := ls.filter fun l => !s.pinned h l
  let moves := place ((un.filter fun l => !taken l) ++ un.filter taken) slots
  h.lanes.map fun l =>
    match moves.find? fun m => m.1 == l.lid && h.onPath l with
    | some m => { l with lpos := m.2 }
    | none => l

/-- The split of BRD with both sides non-empty (02/R33). -/
def State.split (s : State) (h : Sheaf) (p : Path) (taken : Lane → Bool) (target : Pc) : Sheaf :=
  let ls := s.compact h taken
  let mine := ls.filter fun l => (h.lanes.any fun x => x.lid == l.lid && h.onPath x)
  let t := maskOf (mine.filter taken)
  let f := maskOf (mine.filter fun l => !taken l)
  { h with
    lanes := ls
    stack := .pending ⟨target, t, p.frames, p.link⟩ :: h.stack
    path := some { p with mask := f } }

/-- BRD (05/R116, 02/R33): a uniform branch where one side is empty. -/
def execBrd (o : FBR) (s : State) : Out :=
  issue (.brd o) s fun h s =>
    let taken := fun (l : Lane) => h.guard (.brd o) l && l.getK o.sel.toNat
    let ls := h.lanes.filter h.onPath
    match h.path with
    | none => s
    | some p =>
      if !ls.any taken then s.done h
      else if ls.all taken then s.goTo h (h.target o.off)
      else s.pushTo h (s.split h p taken (h.target o.off)) (.brd o) h.nextPc

/-- RCV (02/R33, 05/R116). -/
def execRcv (o : FBR) (s : State) : Out :=
  issue (.rcv o) s fun h s =>
    match h.path with
    | none => s
    | some p =>
      let id := s.ctl.nextId
      s.pushTo h { h with
        stack := .record id (h.target o.off) 0 p.frames :: h.stack
        path := some { p with link := some id } } (.rcv o) h.nextPc

/-! ### Calls -/

/-- The largest call depth (02/R35). -/
def maxDepth : Nat := 65535

/-- The sheaf with a frame pushed for the return to the next instruction. -/
def Sheaf.pushFrame (h : Sheaf) (id : Nat) : Sheaf :=
  { h with path := h.path.map fun p => { p with frames := ⟨h.nextPc, id⟩ :: p.frames } }

/-- The causes of a call: depth, region and capability (02/R35, R37; 05/R118). -/
def State.callCauses (s : State) (h : Sheaf) (badCap : Bool) : List (Nat × DWord) :=
  (if h.depth == maxDepth then [(6, BitVec.allOnes 64)]
   else if (h.pushFrame s.ctl.nextId).overflows then [(6, h.stackEnd)] else []) ++
  (if badCap then [(0x0B, Config.freeValue s.ctl.free)] else [])

/-- CALL (05/R118). -/
def execCall (o : FBR) (s : State) : Out :=
  issue (.call o) s fun h s =>
    match s.callCauses h false with
    | [] => (s.fresh 1).goTo (h.pushFrame s.ctl.nextId) (h.target o.off)
    | cs => s.raise h (encode (.call o)) cs

/-- CALLX (05/R118): the segment must be live; a revoked one is found at the first fetch (04/R98). -/
def execCallx (o : FBR) (s : State) : Out :=
  issue (.callx o) s fun h s =>
    let e := s.checkEntry h.ctx (h.getPair (2 * o.sel.toNat)) [.live, .revoked]
    match s.callCauses h e.isNone, e with
    | [], some (g, r) => (s.fresh 1).goTo (h.pushFrame s.ctl.nextId) (g.entryPc r)
    | cs, _ => (s.draw 1).raise h (encode (.callx o)) cs

/-- The innermost record, from the path's own downwards, whose depth does not exceed a depth (02/R35). -/
def relink (link : Option Nat) (stack : List StackEntry) (depth : Nat) : Option Nat :=
  (recordsFrom link stack).findSome? fun e =>
    match e with
    | .record id _ _ frames => if frames.length ≤ depth then some id else none
    | .pending _ => none

/-- RET (05/R119). A record it leaves without a linked path completes at the next end of a path (log entry 64). -/
def execRet (o : FBR) (s : State) : Out :=
  issue (.ret o) s fun h s =>
    match h.path with
    | none => s
    | some p =>
      match p.frames with
      | [] => s.decodeTrap h (encode (.ret o)) 0x0B
      | f :: fs =>
        if s.checkReturn h.ctx f.pc then
          s.goTo { h with path := some { p with frames := fs, link := relink p.link h.stack fs.length } } f.pc
        else s.decodeTrap h (encode (.ret o)) 0x0B

/-! ### Words of the segment: JTAB and LDL -/

/-- What the reads of an instruction's pool words give: the words, a cause with its address, or a park. -/
inductive PoolRes where
  | words (l : List Word)
  | cause (c : Nat) (a : DWord)
  | park (va : Nat)
deriving DecidableEq, Repr

/-- Read pool words of the current segment at exact byte offsets (04/R94, 05/R121). -/
def State.pool (s : State) (h : Sheaf) (g : Seg) : List Int → State × PoolRes
  | [] => (s, .words [])
  | off :: offs =>
    let va := g.base + off.toNat
    if off < 0 ∨ (g.len : Int) ≤ off then (s, .cause 6 (BitVec.ofInt 64 (g.base + off)))
    else
      match s.codeWord h.core h.ctx g off.toNat with
      | (s1, .word w) =>
        match State.pool s1 h g offs with
        | (s2, .words l) => (s2, .words (w :: l))
        | r => r
      | (s1, .missing) => (s1, .park va)
      | (s1, .noX) => (s1, .cause 6 (BitVec.ofNat 64 va))
      | (s1, .bad) => (s1, .cause 0x12 (BitVec.ofNat 64 va))

/-- Run the rest of an instruction on pool words. A page that is not there parks the sheaf as a fetch of the word would (log
entry 65). -/
def State.withPool (s : State) (h : Sheaf) (i : Instr) (offs : List Int) (k : State → List Word → State) : State :=
  match s.curSeg h with
  | none => s
  | some g =>
    if offs.any fun off => s.codeHeld h.core h.ctx g off.toNat then s
    else match s.pool h g offs with
    | (s1, .words l) => k s1 l
    | (s1, .cause c a) => s1.trapNow h i c a
    | (s1, .park va) => s1.park h va none

/-- The exact offset of word 0 of a table (05/R121). -/
def Sheaf.tableAt (h : Sheaf) (off : BitVec 20) : Int := h.pc.off.toNat + 4 * off.toInt

/-- JTAB (05/R121): the index must be below word 0 of the table. A target no PC can hold is a transfer beyond the segment
(log entry 66). -/
def execJtab (o : FBR) (s : State) : Out :=
  issue (.jtab o) s fun h s =>
    let t := h.tableAt o.off
    let idx := h.getS o.sel.toNat
    s.withPool h (.jtab o) [t] fun s1 l =>
      if l.getD 0 0 ≤ idx then s1.decodeTrap h (encode (.jtab o)) 0x0C
      else s1.withPool h (.jtab o) [t + 4 + 4 * idx.toNat] fun s2 l2 =>
        let e := t + 4 * (l2.getD 0 0).toInt
        if e < 0 ∨ 2 ^ 32 ≤ e then
          s2.trapNow h (.jtab o) 6 (BitVec.ofInt 64 ((((s2.curSeg h).map (·.base)).getD 0 : Nat) + e))
        else s2.goTo h { h.pc with off := BitVec.ofInt 32 e }

/-- The literal's exact offset (04/R94). -/
def Sheaf.literal (h : Sheaf) (imm : BitVec 16) : Int := h.pc.off.toNat + 4 * imm.toInt

/-- LDLS (04/R94). -/
def execLdls (o : FRI) (s : State) : Out :=
  issue (.ldls o) s fun h s =>
    s.withPool h (.ldls o) [h.literal o.imm] fun s1 l => s1.done (h.setS o.d.toNat (l.getD 0 0))

/-- LDLV (04/R94). -/
def execLdlv (o : FRI) (s : State) : Out :=
  issue (.ldlv o) s fun h s =>
    s.withPool h (.ldlv o) [h.literal o.imm] fun s1 l =>
      s1.done (h.sweep (.ldlv o) fun x => (x.setV o.d.toNat (l.getD 0 0), 0))

/-- LDL64 (04/R94): the literal lies at a multiple of 8. -/
def execLdl64 (o : FRI) (s : State) : Out :=
  issue (.ldl64 o) s fun h s =>
    let off := h.literal o.imm
    if off % 8 != 0 then
      s.trapNow h (.ldl64 o) 4 (BitVec.ofInt 64 ((((s.curSeg h).map (·.base)).getD 0 : Nat) + off))
    else s.withPool h (.ldl64 o) [off, off + 4] fun s1 l =>
      s1.done (h.setPair o.d.toNat (pairOf (l.getD 0 0) (l.getD 1 0)))

end Sys2Proof.Machine
end

