-- ==== Sys2Proof/Machine/Scalar.lean ====
section
/-! DEFINITION. The groups SALU and SALUI (05/R122 to R124): uniform arithmetic on s registers. -/

namespace Sys2Proof.Machine

/-- Leading zeros of a word, 0 to 32 (05/R122). -/
def clzWord (a : Word) : Nat := ((List.range 32).takeWhile fun k => !a.getLsbD (31 - k)).length

/-- Ones of a word. -/
def popcWord (a : Word) : Nat := ((List.range 32).filter fun k => a.getLsbD k).length

/-- A word with bit i moved to bit 31 − i. -/
def brevWord (a : Word) : Word :=
  (List.range 32).foldl (fun (r : Word) (k : Nat) => if a.getLsbD k then r ||| (1 <<< (31 - k)) else r) 0

/-- The smaller by signed order. -/
def sMin (a b : Word) : Word := if a.slt b then a else b
/-- The larger by signed order. -/
def sMax (a b : Word) : Word := if a.slt b then b else a
/-- The smaller by unsigned order. -/
def uMin (a b : Word) : Word := if a < b then a else b
/-- The larger by unsigned order. -/
def uMax (a b : Word) : Word := if a < b then b else a
/-- Bits 63 to 32 of the signed product. -/
def mulHigh (a b : Word) : Word := BitVec.ofInt 32 (a.toInt * b.toInt / 2 ^ 32)
/-- Bits 63 to 32 of the unsigned product. -/
def mulHighN (a b : Word) : Word := BitVec.ofNat 32 (a.toNat * b.toNat / 2 ^ 32)
/-- The low five bits of a count. -/
def sh5 (b : Word) : Nat := b.toNat % 32
/-- The low six bits of a count. -/
def sh6 (b : Word) : Nat := b.toNat % 64

/-- A comparison: its bit also sets FLAG of a sequencer sheaf (04/R106). -/
def compare (i : Instr) (s : State) (n : Nat) (f : Sheaf → Bool) : Out :=
  issue i s fun h s =>
    let s1 := if h.seqr then s.modSeqr h.core fun q => { q with flag := f h } else s
    s1.done (h.setS n (boolWord (f h)))

/-- SALU ADD (05/R122). -/
def execSaluAdd (o : FS3) (s : State) : Out :=
  scalar (.saluAdd o) s o.sd.toNat fun h => (h.getS o.sa.toNat) + (h.getS o.sb.toNat)

/-- SALU SUB (05/R122). -/
def execSaluSub (o : FS3) (s : State) : Out :=
  scalar (.saluSub o) s o.sd.toNat fun h => (h.getS o.sa.toNat) - (h.getS o.sb.toNat)

/-- SALU MUL (05/R122). -/
def execSaluMul (o : FS3) (s : State) : Out :=
  scalar (.saluMul o) s o.sd.toNat fun h => (h.getS o.sa.toNat) * (h.getS o.sb.toNat)

/-- SALU MULH (05/R122). -/
def execSaluMulh (o : FS3) (s : State) : Out :=
  scalar (.saluMulh o) s o.sd.toNat fun h => mulHigh (h.getS o.sa.toNat) (h.getS o.sb.toNat)

/-- SALU MULHN (05/R122). -/
def execSaluMulhn (o : FS3) (s : State) : Out :=
  scalar (.saluMulhn o) s o.sd.toNat fun h => mulHighN (h.getS o.sa.toNat) (h.getS o.sb.toNat)

/-- SALU AND (05/R122). -/
def execSaluAnd (o : FS3) (s : State) : Out :=
  scalar (.saluAnd o) s o.sd.toNat fun h => (h.getS o.sa.toNat) &&& (h.getS o.sb.toNat)

/-- SALU OR (05/R122). -/
def execSaluOr (o : FS3) (s : State) : Out :=
  scalar (.saluOr o) s o.sd.toNat fun h => (h.getS o.sa.toNat) ||| (h.getS o.sb.toNat)

/-- SALU XOR (05/R122). -/
def execSaluXor (o : FS3) (s : State) : Out :=
  scalar (.saluXor o) s o.sd.toNat fun h => (h.getS o.sa.toNat) ^^^ (h.getS o.sb.toNat)

/-- SALU ANDN (05/R122). -/
def execAndn (o : FS3) (s : State) : Out :=
  scalar (.andn o) s o.sd.toNat fun h => (h.getS o.sa.toNat) &&& ~~~(h.getS o.sb.toNat)

/-- SALU SHL (05/R122). -/
def execSaluShl (o : FS3) (s : State) : Out :=
  scalar (.saluShl o) s o.sd.toNat fun h => (h.getS o.sa.toNat) <<< sh5 (h.getS o.sb.toNat)

/-- SALU SHR (05/R122). -/
def execSaluShr (o : FS3) (s : State) : Out :=
  scalar (.saluShr o) s o.sd.toNat fun h => (h.getS o.sa.toNat) >>> sh5 (h.getS o.sb.toNat)

/-- SALU SAR (05/R122). -/
def execSaluSar (o : FS3) (s : State) : Out :=
  scalar (.saluSar o) s o.sd.toNat fun h => (h.getS o.sa.toNat).sshiftRight (sh5 (h.getS o.sb.toNat))

/-- SALU ROTL (05/R122). -/
def execRotl (o : FS3) (s : State) : Out :=
  scalar (.rotl o) s o.sd.toNat fun h => (h.getS o.sa.toNat).rotateLeft (sh5 (h.getS o.sb.toNat))

/-- SALU MIN (05/R122). -/
def execSaluMin (o : FS3) (s : State) : Out :=
  scalar (.saluMin o) s o.sd.toNat fun h => sMin (h.getS o.sa.toNat) (h.getS o.sb.toNat)

/-- SALU MAX (05/R122). -/
def execSaluMax (o : FS3) (s : State) : Out :=
  scalar (.saluMax o) s o.sd.toNat fun h => sMax (h.getS o.sa.toNat) (h.getS o.sb.toNat)

/-- SALU MINN (05/R122). -/
def execMinn (o : FS3) (s : State) : Out :=
  scalar (.minn o) s o.sd.toNat fun h => uMin (h.getS o.sa.toNat) (h.getS o.sb.toNat)

/-- SALU MAXN (05/R122). -/
def execMaxn (o : FS3) (s : State) : Out :=
  scalar (.maxn o) s o.sd.toNat fun h => uMax (h.getS o.sa.toNat) (h.getS o.sb.toNat)

/-- SALU SLT (05/R122). -/
def execSlt (o : FS3) (s : State) : Out :=
  compare (.slt o) s o.sd.toNat fun h => (h.getS o.sa.toNat).slt (h.getS o.sb.toNat)

/-- SALU SLTN (05/R122). -/
def execSltn (o : FS3) (s : State) : Out :=
  compare (.sltn o) s o.sd.toNat fun h => decide ((h.getS o.sa.toNat) < (h.getS o.sb.toNat))

/-- SALU SEQ (05/R122). -/
def execSeq (o : FS3) (s : State) : Out :=
  compare (.seq o) s o.sd.toNat fun h => (h.getS o.sa.toNat) == (h.getS o.sb.toNat)

/-- SALU SEL (05/R122). -/
def execSaluSel (o : FS3) (s : State) : Out :=
  scalar (.saluSel o) s o.sd.toNat fun h => if (h.getS o.sd.toNat) != 0 then (h.getS o.sa.toNat) else (h.getS o.sb.toNat)

/-- SALU CLZ (05/R122). -/
def execClz (o : FS3) (s : State) : Out :=
  scalar (.clz o) s o.sd.toNat fun h => BitVec.ofNat 32 (clzWord (h.getS o.sa.toNat))

/-- SALU POPC (05/R122). -/
def execPopc (o : FS3) (s : State) : Out :=
  scalar (.popc o) s o.sd.toNat fun h => BitVec.ofNat 32 (popcWord (h.getS o.sa.toNat))

/-- SALU BREV (05/R122). -/
def execBrev (o : FS3) (s : State) : Out :=
  scalar (.brev o) s o.sd.toNat fun h => brevWord (h.getS o.sa.toNat)

/-- SALU ADD64 (05/R122, R123). -/
def execAdd64 (o : FS3) (s : State) : Out :=
  scalarPair (.add64 o) s o.sd.toNat fun h => (h.getPair o.sa.toNat) + (h.getPair o.sb.toNat)

/-- SALU SUB64 (05/R122, R123). -/
def execSub64 (o : FS3) (s : State) : Out :=
  scalarPair (.sub64 o) s o.sd.toNat fun h => (h.getPair o.sa.toNat) - (h.getPair o.sb.toNat)

/-- SALU SHL64 (05/R122, R123). -/
def execShl64 (o : FS3) (s : State) : Out :=
  scalarPair (.shl64 o) s o.sd.toNat fun h => (h.getPair o.sa.toNat) <<< sh6 (h.getS o.sb.toNat)

/-- SALU SHR64 (05/R122, R123). -/
def execShr64 (o : FS3) (s : State) : Out :=
  scalarPair (.shr64 o) s o.sd.toNat fun h => (h.getPair o.sa.toNat) >>> sh6 (h.getS o.sb.toNat)

/-- The count of an immediate shift. -/
def immSh (imm : BitVec 11) : Nat := imm.toNat % 32

/-- SALUI ADDI (05/R124). -/
def execSaluiAddi (o : FSI) (s : State) : Out :=
  scalar (.saluiAddi o) s o.sd.toNat fun h => (h.getS o.sa.toNat) + (h.imm11 o.imm)

/-- SALUI ANDI (05/R124). -/
def execSaluiAndi (o : FSI) (s : State) : Out :=
  scalar (.saluiAndi o) s o.sd.toNat fun h => (h.getS o.sa.toNat) &&& (h.imm11 o.imm)

/-- SALUI ORI (05/R124). -/
def execSaluiOri (o : FSI) (s : State) : Out :=
  scalar (.saluiOri o) s o.sd.toNat fun h => (h.getS o.sa.toNat) ||| (h.imm11 o.imm)

/-- SALUI XORI (05/R124). -/
def execSaluiXori (o : FSI) (s : State) : Out :=
  scalar (.saluiXori o) s o.sd.toNat fun h => (h.getS o.sa.toNat) ^^^ (h.imm11 o.imm)

/-- SALUI SHLI (05/R124). -/
def execSaluiShli (o : FSI) (s : State) : Out :=
  scalar (.saluiShli o) s o.sd.toNat fun h => (h.getS o.sa.toNat) <<< immSh o.imm

/-- SALUI SHRI (05/R124). -/
def execSaluiShri (o : FSI) (s : State) : Out :=
  scalar (.saluiShri o) s o.sd.toNat fun h => (h.getS o.sa.toNat) >>> immSh o.imm

/-- SALUI SARI (05/R124). -/
def execSaluiSari (o : FSI) (s : State) : Out :=
  scalar (.saluiSari o) s o.sd.toNat fun h => (h.getS o.sa.toNat).sshiftRight (immSh o.imm)

/-- SALUI MOVI (05/R124). -/
def execSaluiMovi (o : FSI) (s : State) : Out :=
  scalar (.saluiMovi o) s o.sd.toNat fun h => (h.imm11 o.imm)

/-- SALUI MOVHI (05/R124). -/
def execSaluiMovhi (o : FSI) (s : State) : Out :=
  scalar (.saluiMovhi o) s o.sd.toNat fun h => o.imm ++ (h.getS o.sa.toNat).extractLsb' 0 21

/-- SALUI SLTI (05/R124). -/
def execSlti (o : FSI) (s : State) : Out :=
  compare (.slti o) s o.sd.toNat fun h => (h.getS o.sa.toNat).slt (h.imm11 o.imm)

end Sys2Proof.Machine
end

