-- ==== Sys2Proof/Machine/Vector.lean ====
section
/-! DEFINITION. The groups VINT, VINTI, VRI, VF32, VFMA, VCVT, VCMP, KOPS and VMOV (05/R125 to R141). -/

namespace Sys2Proof.Machine

/-! ### Integer arithmetic -/

/-- Clamp an exact integer to s32, or to n32 (05/R126). -/
def clamp32 (ty : Nat) (x : Int) : Word :=
  if ty == 0x11 then BitVec.ofInt 32 (max 0 (min x (2 ^ 32 - 1)))
  else BitVec.ofInt 32 (max (-2 ^ 31) (min x (2 ^ 31 - 1)))

/-- The integer a word stands for under TY. -/
def intOf32 (ty : Nat) (a : Word) : Int := if ty == 0x11 then (a.toNat : Int) else a.toInt

/-- TY of a VINT form: s32 without an XMOD word (05/R126). -/
def Sheaf.vintTy (h : Sheaf) : Nat := if (h.chain.get 3).isSome then xTy h.xmod else 0x10

/-- A swept form of two v operands that writes v[D] and raises no flag. -/
def vec2 (i : Instr) (o : FV3) (s : State) (f : Sheaf → Lane → Word → Word → Word) : Out :=
  swept i s fun h l => (l.setV o.d.toNat (f h l (h.opA o.a l) (h.opB o.b l)), 0)

/-- A swept form of one v operand and an immediate. -/
def vecImm (i : Instr) (o : FVI) (s : State) (f : Word → Word → Word) : Out :=
  swept i s fun h l => (l.setV o.d.toNat (f (l.getV o.a.toNat) (h.imm7 o.imm)), 0)

/-- VINT ADD (05/R125, R126). -/
def execVintAdd (o : FV3) (s : State) : Out :=
  vec2 (.vintAdd o) o s fun h _ a b =>
    if xSat h.xmod then clamp32 h.vintTy (intOf32 h.vintTy a + intOf32 h.vintTy b) else a + b

/-- VINT SUB (05/R125, R126). -/
def execVintSub (o : FV3) (s : State) : Out :=
  vec2 (.vintSub o) o s fun h _ a b =>
    if xSat h.xmod then clamp32 h.vintTy (intOf32 h.vintTy a - intOf32 h.vintTy b) else a - b

/-- ADDC: carry in and out through k15 (05/R125). -/
def execAddc (o : FV3) (s : State) : Out :=
  swept (.addc o) s fun h l =>
    let a := h.opA o.a l
    let b := h.opB o.b l
    let c := l.getK 15
    ((l.setV o.d.toNat (a + b + boolWord c)).setK 15 (carryOut a b c), 0)

/-- SUBB: borrow in and out through k15 (05/R125). -/
def execSubb (o : FV3) (s : State) : Out :=
  swept (.subb o) s fun h l =>
    let a := h.opA o.a l
    let b := h.opB o.b l
    let c := l.getK 15
    ((l.setV o.d.toNat (a - b - boolWord c)).setK 15 (borrowOut a b c), 0)

/-- VINT MUL (05/R125). -/
def execVintMul (o : FV3) (s : State) : Out :=
  vec2 (.vintMul o) o s fun _ _ a b => a * b

/-- VINT MULH (05/R125). -/
def execVintMulh (o : FV3) (s : State) : Out :=
  vec2 (.vintMulh o) o s fun _ _ a b => mulHigh a b

/-- VINT MULHN (05/R125). -/
def execVintMulhn (o : FV3) (s : State) : Out :=
  vec2 (.vintMulhn o) o s fun _ _ a b => mulHighN a b

/-- VINT MAD (05/R125). -/
def execMad (o : FV3) (s : State) : Out :=
  vec2 (.mad o) o s fun _ l a b => a * b + l.getV o.d.toNat

/-- VINT AND (05/R125). -/
def execVintAnd (o : FV3) (s : State) : Out :=
  vec2 (.vintAnd o) o s fun _ _ a b => a &&& b

/-- VINT OR (05/R125). -/
def execVintOr (o : FV3) (s : State) : Out :=
  vec2 (.vintOr o) o s fun _ _ a b => a ||| b

/-- VINT XOR (05/R125). -/
def execVintXor (o : FV3) (s : State) : Out :=
  vec2 (.vintXor o) o s fun _ _ a b => a ^^^ b

/-- VINT SHL (05/R125). -/
def execVintShl (o : FV3) (s : State) : Out :=
  vec2 (.vintShl o) o s fun _ _ a b => a <<< sh5 b

/-- VINT SHR (05/R125). -/
def execVintShr (o : FV3) (s : State) : Out :=
  vec2 (.vintShr o) o s fun _ _ a b => a >>> sh5 b

/-- VINT SAR (05/R125). -/
def execVintSar (o : FV3) (s : State) : Out :=
  vec2 (.vintSar o) o s fun _ _ a b => a.sshiftRight (sh5 b)

/-- VINT MIN (05/R125, R126). -/
def execVintMin (o : FV3) (s : State) : Out :=
  vec2 (.vintMin o) o s fun h _ a b => if h.vintTy == 0x11 then uMin a b else sMin a b

/-- VINT MAX (05/R125, R126). -/
def execVintMax (o : FV3) (s : State) : Out :=
  vec2 (.vintMax o) o s fun h _ a b => if h.vintTy == 0x11 then uMax a b else sMax a b

/-- VINTI ADDI (05/R127). -/
def execVintiAddi (o : FVI) (s : State) : Out :=
  vecImm (.vintiAddi o) o s fun a i => a + i

/-- VINTI ANDI (05/R127). -/
def execVintiAndi (o : FVI) (s : State) : Out :=
  vecImm (.vintiAndi o) o s fun a i => a &&& i

/-- VINTI ORI (05/R127). -/
def execVintiOri (o : FVI) (s : State) : Out :=
  vecImm (.vintiOri o) o s fun a i => a ||| i

/-- VINTI XORI (05/R127). -/
def execVintiXori (o : FVI) (s : State) : Out :=
  vecImm (.vintiXori o) o s fun a i => a ^^^ i

/-- VINTI SHLI (05/R127). -/
def execVintiShli (o : FVI) (s : State) : Out :=
  vecImm (.vintiShli o) o s fun a i => a <<< sh5 i

/-- VINTI SHRI (05/R127). -/
def execVintiShri (o : FVI) (s : State) : Out :=
  vecImm (.vintiShri o) o s fun a i => a >>> sh5 i

/-- VINTI SARI (05/R127). -/
def execVintiSari (o : FVI) (s : State) : Out :=
  vecImm (.vintiSari o) o s fun a i => a.sshiftRight (sh5 i)

/-- VINTI MULI (05/R127). -/
def execMuli (o : FVI) (s : State) : Out :=
  vecImm (.muli o) o s fun a i => a * i

/-- VRI MOVI (05/R128). -/
def execVriMovi (o : FRI) (s : State) : Out :=
  swept (.vriMovi o) s fun h l => (l.setV o.d.toNat (h.imm16 o.imm), 0)

/-- VRI MOVHI (05/R128). -/
def execVriMovhi (o : FRI) (s : State) : Out :=
  swept (.vriMovhi o) s fun _ l => (l.setV o.d.toNat (o.imm ++ (l.getV o.d.toNat).extractLsb' 0 16), 0)

/-- VRI ADDI16 (05/R128). -/
def execAddi16 (o : FRI) (s : State) : Out :=
  swept (.addi16 o) s fun h l => (l.setV o.d.toNat (l.getV o.d.toNat + h.imm16 o.imm), 0)

/-! ### FP32 arithmetic -/

/-- An FP32 operand as a value, under the unit's FTZ (03/R51). -/
def Sheaf.fp (h : Sheaf) (w : Word) : FVal := f32.decode w.toNat (xFtz h.xmod)

/-- A rounded result as a word and its flags. -/
def wordFlags (r : Nat × Flags) : Word × Flags := (BitVec.ofNat 32 r.1, r.2)

/-- A swept FP32 form of two operands. -/
def fvec2 (i : Instr) (o : FV3) (s : State) (f : Nat → Bool → FVal → FVal → Nat × Flags) : Out :=
  swept i s fun h l =>
    let r := wordFlags (f (xRm h.xmod) (xFtz h.xmod) (h.fp (h.opA o.a l)) (h.fp (h.opB o.b l)))
    (l.setV o.d.toNat r.1, r.2)

/-- A swept FP32 form of one operand. -/
def fvec1 (i : Instr) (o : FV3) (s : State) (f : FVal → FVal) : Out :=
  swept i s fun h l => (l.setV o.d.toNat (wordFlags (f32.round 0 false false (f (h.fp (h.opA o.a l))))).1, 0)

/-- A rounded sum (03/R50, R55). -/
def fpAdd (rm : Nat) (ftz : Bool) (a b : FVal) : Nat × Flags :=
  let r := FVal.add rm a b
  let q := f32.round rm ftz false r.1
  (q.1, r.2 ||| q.2)

/-- A rounded product (03/R50, R55). -/
def fpMul (rm : Nat) (ftz : Bool) (a b : FVal) : Nat × Flags :=
  if invalidProduct a b then (f32.nan, fIV) else f32.round rm ftz false (a.mul b)

/-- minimumNumber or maximumNumber (03/R52): `lt` picks the first where it is below. -/
def pickNum (mx : Bool) (a b : FVal) : FVal :=
  if a.isNan then b else if b.isNan then a else if b.lt a then (if mx then a else b) else (if mx then b else a)

/-- minimum or maximum, NaN-propagating (03/R52). -/
def pickAny (mx : Bool) (a b : FVal) : FVal := if a.isNan || b.isNan then .nan else pickNum mx a b

/-- A value re-encoded without rounding and without flags. -/
def exactly (v : FVal) : Nat × Flags := ((f32.round 0 false false v).1, 0)

/-- A value rounded to an integral value; zeros keep the sign (05/R129). -/
def integral (rm : Nat) (v : FVal) : FVal :=
  match v with
  | .fin neg m e => if 0 ≤ e then v else .fin neg (roundAt rm neg m e 0).1 0
  | v => v

/-- A value clamped to the range +0 to 1.0 (05/R129). -/
def saturate (v : FVal) : FVal :=
  match v with
  | .nan => .fin false 0 0
  | .inf neg => if neg then .fin false 0 0 else .fin false 1 0
  | .fin neg m e => if neg || m == 0 then .fin false 0 0 else if (FVal.fin false 1 0).ltNum (.fin neg m e) then .fin false 1 0 else .fin neg m e

/-- FADD (05/R129). -/
def execFadd (o : FV3) (s : State) : Out :=
  fvec2 (.fadd o) o s fun rm z a b => fpAdd rm z a b

/-- FSUB (05/R129). -/
def execFsub (o : FV3) (s : State) : Out :=
  fvec2 (.fsub o) o s fun rm z a b => fpAdd rm z a b.negate

/-- FMUL (05/R129). -/
def execFmul (o : FV3) (s : State) : Out :=
  fvec2 (.fmul o) o s fun rm z a b => fpMul rm z a b

/-- FMIN (03/R52). -/
def execFmin (o : FV3) (s : State) : Out :=
  fvec2 (.fmin o) o s fun _ _ a b => exactly (pickNum false a b)

/-- FMAX (03/R52). -/
def execFmax (o : FV3) (s : State) : Out :=
  fvec2 (.fmax o) o s fun _ _ a b => exactly (pickNum true a b)

/-- FMINM (03/R52). -/
def execFminm (o : FV3) (s : State) : Out :=
  fvec2 (.fminm o) o s fun _ _ a b => exactly (pickAny false a b)

/-- FMAXM (03/R52). -/
def execFmaxm (o : FV3) (s : State) : Out :=
  fvec2 (.fmaxm o) o s fun _ _ a b => exactly (pickAny true a b)

/-- FCPS: bits 30 to 0 of a, bit 31 of b (05/R129). -/
def execFcps (o : FV3) (s : State) : Out :=
  vec2 (.fcps o) o s fun _ _ a b => (a &&& 0x7FFFFFFF) ||| (b &&& 0x80000000)

/-- FFLR (05/R129). -/
def execFflr (o : FV3) (s : State) : Out :=
  fvec1 (.fflr o) o s fun a => integral 2 a

/-- FCEIL (05/R129). -/
def execFceil (o : FV3) (s : State) : Out :=
  fvec1 (.fceil o) o s fun a => integral 3 a

/-- FRNE (05/R129). -/
def execFrne (o : FV3) (s : State) : Out :=
  fvec1 (.frne o) o s fun a => integral 0 a

/-- FTRN (05/R129). -/
def execFtrn (o : FV3) (s : State) : Out :=
  fvec1 (.ftrn o) o s fun a => integral 1 a

/-- FABS (05/R129). -/
def execFabs (o : FV3) (s : State) : Out :=
  vec2 (.fabs o) o s fun _ _ a _ => a &&& 0x7FFFFFFF

/-- FNEG (05/R129). -/
def execFneg (o : FV3) (s : State) : Out :=
  vec2 (.fneg o) o s fun _ _ a _ => a ^^^ 0x80000000

/-- FSAT (05/R129). -/
def execFsat (o : FV3) (s : State) : Out :=
  fvec1 (.fsat o) o s fun a => saturate a

/-- A value scaled by a power of two. -/
def FVal.scale (v : FVal) (n : Int) : FVal :=
  match v with
  | .fin neg m e => .fin neg m (e + n)
  | v => v

/-- FSCL: a · 2^b, rounded once (05/R129). -/
def execFscl (o : FV3) (s : State) : Out :=
  swept (.fscl o) s fun h l =>
    let r := wordFlags (f32.round (xRm h.xmod) (xFtz h.xmod) false ((h.fp (h.opA o.a l)).scale (h.opB o.b l).toInt))
    (l.setV o.d.toNat r.1, r.2)

/-! ### The FMA family -/

/-- A swept FP32 form of three operands, D the addend (05/R130, 03/R71). -/
def fvec3 (i : Instr) (o : FV3) (s : State) (na nd : Bool) : Out :=
  swept i s fun h l =>
    let a := h.fp (h.opA o.a l)
    let d := h.fp (l.getV o.d.toNat)
    let r := wordFlags (f32.fma (xRm h.xmod) (xFtz h.xmod) (if na then a.negate else a) (h.fp (h.opB o.b l))
      (if nd then d.negate else d))
    (l.setV o.d.toNat r.1, r.2)

/-- FMA (05/R130). -/
def execFma (o : FV3) (s : State) : Out := fvec3 (.fma o) o s false false

/-- FMS (05/R130). -/
def execFms (o : FV3) (s : State) : Out := fvec3 (.fms o) o s false true

/-- FNMA (05/R130). -/
def execFnma (o : FV3) (s : State) : Out := fvec3 (.fnma o) o s true true

/-- FNMS (05/R130). -/
def execFnms (o : FV3) (s : State) : Out := fvec3 (.fnms o) o s true false

/-- Two independent 16-bit FMAs (05/R130, 03/R71). -/
def fmaHalves (i : Instr) (f : Fmt) (o : FV3) (s : State) : Out :=
  swept i s fun h l =>
    let z := xFtz h.xmod
    let g := fun (k : Nat) =>
      let v := fun (w : Word) => f.decode (halfOf w k).toNat z
      f.fma (xRm h.xmod) z (v (h.opA o.a l)) (v (h.opB o.b l)) (v (l.getV o.d.toNat))
    (l.setV o.d.toNat (BitVec.ofNat 16 (g 1).1 ++ BitVec.ofNat 16 (g 0).1), (g 0).2 ||| (g 1).2)

/-- HFMA2 (05/R130). -/
def execHfma2 (o : FV3) (s : State) : Out := fmaHalves (.hfma2 o) f16 o s

/-- BFMA2 (05/R130). -/
def execBfma2 (o : FV3) (s : State) : Out := fmaHalves (.bfma2 o) bf16 o s

/-- A dot form into FP32 (05/R130, 03/R63, R71), of declared class 1 (05/R131): `n` elements of `w` bits. -/
def dotForm (i : Instr) (f : Fmt) (n : Nat) (o : FV3) (s : State) : Out :=
  sweptAt 1 i s fun h l =>
    let z := xFtz h.xmod
    let el := fun (x : Word) (k : Nat) => f.decode ((x >>> (f.width * k)).toNat % 2 ^ f.width) (z && f.ftzApplies)
    let ps := (List.range n).map fun k => (el (h.opA o.a l) k, el (h.opB o.b l) k)
    let r := wordFlags (f32.sumOf (xRm h.xmod) z (h.fp (l.getV o.d.toNat)) ps)
    (l.setV o.d.toNat r.1, r.2)

/-- DOT4E4 (05/R130). -/
def execDot4e4 (o : FV3) (s : State) : Out := dotForm (.dot4e4 o) e4m3 4 o s

/-- DOT4E5 (05/R130). -/
def execDot4e5 (o : FV3) (s : State) : Out := dotForm (.dot4e5 o) e5m2 4 o s

/-- DOT2H (05/R130). -/
def execDot2h (o : FV3) (s : State) : Out := dotForm (.dot2h o) f16 2 o s

/-- DOT4I: four s8 products added modulo 2^32 (05/R130, 03/R46). -/
def execDot4i (o : FV3) (s : State) : Out :=
  sweptAt 1 (.dot4i o) s fun h l =>
    let a := h.opA o.a l
    let b := h.opB o.b l
    let t := (List.range 4).foldl (fun (x : Int) (k : Nat) => x + (byteOf a k).toInt * (byteOf b k).toInt) (l.getV o.d.toNat).toInt
    (l.setV o.d.toNat (BitVec.ofInt 32 t), 0)

/-! ### Conversions -/

/-- Convert a value of a float format to another (03/R57, R61): equal formats copy, canonicalise and flush. -/
def cvtFloat (rm : Nat) (ftz sat : Bool) (src dst : Nat) (bits : Nat) : Nat × Flags :=
  if src == 8 then
    (if bits % 256 == 0xFF then (f32.nan, 0) else f32.round rm ftz false (.fin false 1 ((bits % 256 : Nat) - 127)))
  else
    match fmtOf src, fmtOf dst with
    | some f, some g =>
      let v := f.decode (bits % 2 ^ f.width) (ftz && f.ftzApplies)
      if src == dst then ((g.round 0 false false v).1, 0) else g.round rm ftz (sat && dst != 0) v
    | _, _ => (0, 0)

/-- Width of an integer code in bits (04/R85). -/
def intBits (c : Nat) : Nat :=
  match c with
  | 0xA | 0xB => 4 | 0xC | 0xD => 8 | 0xE | 0xF => 16 | 0x10 | 0x11 => 32 | _ => 64

/-- Whether an integer code is signed: the even ones. -/
def intSigned (c : Nat) : Bool := c % 2 == 0

/-- Least value of an integer code. -/
def intLo (c : Nat) : Int := if intSigned c then -2 ^ (intBits c - 1) else 0

/-- Greatest value of an integer code. -/
def intHi (c : Nat) : Int := if intSigned c then 2 ^ (intBits c - 1) - 1 else 2 ^ intBits c - 1

/-- Read an integer from the low bits of a value. -/
def intRead (c : Nat) (x : Nat) : Int :=
  let u := x % 2 ^ intBits c
  if intSigned c && 2 ^ (intBits c - 1) ≤ u then (u : Int) - 2 ^ intBits c else u

/-- A float value to an integer type (03/R61). -/
def toInt (rm : Nat) (c : Nat) (v : FVal) : Int × Flags :=
  match v with
  | .nan => (0, fIV)
  | .inf neg => (if neg then intLo c else intHi c, fIV)
  | .fin neg m e =>
    let r := roundAt rm neg m e 0
    let n : Int := if neg then -(r.1 : Int) else r.1
    if n < intLo c then (intLo c, fIV) else if intHi c < n then (intHi c, fIV) else (n, if r.2 then fNX else 0)

/-- An integer to a float format (03/R61). -/
def ofInt (rm : Nat) (sat : Bool) (g : Fmt) (n : Int) : Nat × Flags :=
  g.round rm false (sat && g != f32) (.fin (decide (n < 0)) n.natAbs 0)

/-- The result of CVTI as an integer of 64 bits: negative values sign-extended (05/R132). -/
def cvtInt (rm : Nat) (ftz sat : Bool) (src dst : Nat) (bits : Nat) : Int × Flags :=
  match fmtOf src, fmtOf dst with
  | some f, _ => toInt rm dst (f.decode (bits % 2 ^ f.width) (ftz && f.ftzApplies))
  | none, some g => let r := ofInt rm sat g (intRead src bits); ((r.1 : Int), r.2)
  | none, none =>
    let n := intRead src bits
    if sat then (max (intLo dst) (min n (intHi dst)), 0) else (intRead dst (BitVec.ofInt 64 n).toNat, 0)

/-- CVTF (05/R132). -/
def execCvtf (o : FV3) (s : State) : Out :=
  swept (.cvtf o) s fun h l =>
    let x := h.xmod
    let r := wordFlags (cvtFloat (xRm x) (xFtz x) (xSat x) (xTys x) (xTy x) (h.opA o.a l).toNat)
    (l.setV o.d.toNat r.1, r.2)

/-- CVTI (05/R132). -/
def execCvti (o : FV3) (s : State) : Out :=
  swept (.cvti o) s fun h l =>
    let x := h.xmod
    let a := if wideTy (xTys x) then (h.opA2 o.a l).toNat else (h.opA o.a l).toNat
    let r := cvtInt (xRm x) (xFtz x) (xSat x) (xTys x) (xTy x) a
    (if wideTy (xTy x) then l.setV2 o.d.toNat (BitVec.ofInt 64 r.1) else l.setV o.d.toNat (BitVec.ofInt 32 r.1), r.2)

/-- CVTP (05/R133). -/
def execCvtp (o : FV3) (s : State) : Out :=
  swept (.cvtp o) s fun h l =>
    let x := h.xmod
    let g := fun (w : Word) => cvtFloat (xRm x) (xFtz x) (xSat x) 0 (xTy x) w.toNat
    let a := g (h.opA o.a l)
    let b := g (h.opB o.b l)
    if xTy x ≤ 2 then (l.setV o.d.toNat (BitVec.ofNat 16 b.1 ++ BitVec.ofNat 16 a.1), a.2 ||| b.2)
    else
      let c := g (l.getV (xC h.xreg))
      let e := g (l.getV (xE h.xreg))
      (l.setV o.d.toNat (BitVec.ofNat 8 e.1 ++ BitVec.ofNat 8 c.1 ++ BitVec.ofNat 8 b.1 ++ BitVec.ofNat 8 a.1),
        a.2 ||| b.2 ||| c.2 ||| e.2)

/-- Element `k` of a storage format in a register, as a value (03/R60, 05/R134). -/
def storageElem (src : Nat) (w : Word) (k : Nat) : FVal :=
  match fmtOf src with
  | some f => f.decode ((w >>> (6 * k)).toNat % 64) false
  | none =>
    let n := intRead src (w >>> (4 * k)).toNat
    .fin (decide (n < 0)) n.natAbs 0

/-- Pack expanded elements into a register: four E4M3 bytes, or two BF16 halves (05/R134). -/
def packElems (ty : Nat) (g : Nat → Nat) : Word :=
  if ty == 3 then BitVec.ofNat 8 (g 3) ++ BitVec.ofNat 8 (g 2) ++ BitVec.ofNat 8 (g 1) ++ BitVec.ofNat 8 (g 0)
  else BitVec.ofNat 16 (g 1) ++ BitVec.ofNat 16 (g 0)

/-- EXPN (05/R134). -/
def execExpn (o : FV3) (s : State) : Out :=
  swept (.expn o) s fun h l =>
    let x := h.xmod
    let f := if xTy x == 3 then e4m3 else bf16
    (l.setV o.d.toNat (packElems (xTy x) fun k => (f.round 0 false false (storageElem (xTys x) (l.getV o.a.toNat) k)).1), 0)

/-- LUTX (05/R134). -/
def execLutx (o : FV3) (s : State) : Out :=
  swept (.lutx o) s fun h l =>
    let ty := xTy h.xmod
    let g := fun (k : Nat) =>
      let j := (l.getV o.a.toNat >>> (4 * k)).toNat % 16
      if ty == 3 then (byteOf (l.getV (o.b.toNat + j / 4)) (j % 4)).toNat
      else (halfOf (l.getV (o.b.toNat + j / 2)) (j % 2)).toNat
    (l.setV o.d.toNat (packElems ty g), 0)

/-- The scale code of a block maximum (03/R59, 05/R135). -/
def scaleCode (emax : Int) (v : FVal) : Nat × Flags :=
  match v with
  | .nan | .inf _ => (0xFF, fIV)
  | .fin _ m e =>
    if m == 0 then (0, 0) else ((max (-127) (min (e + m.log2 - emax) 127) + 127).toNat, 0)

/-- emax of an element format (05/R135). -/
def scaleEmax (ty : Nat) : Int := match ty with | 5 => 2 | 3 => 8 | _ => 15

/-- MXSC (05/R135). -/
def execMxsc (o : FV3) (s : State) : Out :=
  swept (.mxsc o) s fun h l =>
    let r := wordFlags (scaleCode (scaleEmax (xTy h.xmod)) (f32.decode (h.opA o.a l).toNat false))
    (l.setV o.d.toNat r.1, r.2)

/-! ### Comparisons and predicates -/

/-- A float comparison (05/R136). -/
def fcmp (i : Instr) (o : FV3) (s : State) (f : FVal → FVal → Bool) (signalling : Bool) : Out :=
  swept i s fun h l =>
    let a := h.fp (h.opA o.a l)
    let b := h.fp (h.opB o.b l)
    (l.setK o.d.toNat (f a b), if signalling && (a.isNan || b.isNan) then fIV else 0)

/-- An integer comparison (05/R136). -/
def icmp (i : Instr) (o : FV3) (s : State) (f : Word → Word → Bool) : Out :=
  swept i s fun h l => (l.setK o.d.toNat (f (h.opA o.a l) (h.opB o.b l)), 0)

/-- FEQ (05/R136). -/
def execFeq (o : FV3) (s : State) : Out :=
  fcmp (.feq o) o s (fun a b => a.eqNum b) false

/-- FNE (05/R136). -/
def execFne (o : FV3) (s : State) : Out :=
  fcmp (.fne o) o s (fun a b => !a.eqNum b) false

/-- FLT (05/R136). -/
def execFlt (o : FV3) (s : State) : Out :=
  fcmp (.flt o) o s (fun a b => !a.isNan && !b.isNan && a.ltNum b) true

/-- FLE (05/R136). -/
def execFle (o : FV3) (s : State) : Out :=
  fcmp (.fle o) o s (fun a b => !a.isNan && !b.isNan && !b.ltNum a) true

/-- FUN (05/R136). -/
def execFun (o : FV3) (s : State) : Out :=
  fcmp (.fun o) o s (fun a b => a.isNan || b.isNan) false

/-- The class bit of an operand (05/R137). -/
def classBit (w : Word) (ftz : Bool) : Nat :=
  match f32.decode w.toNat ftz with
  | .nan => 0
  | .inf neg => if neg then 1 else 2
  | .fin neg m _ => if m == 0 then 3 else if m < 2 ^ 23 then 4 else if neg then 5 else 6

/-- FCLS (05/R137). -/
def execFcls (o : FV3) (s : State) : Out :=
  swept (.fcls o) s fun h l => (l.setK o.d.toNat (o.b.getLsbD (classBit (h.opA o.a l) (xFtz h.xmod))), 0)

/-- IEQ (05/R136). -/
def execIeq (o : FV3) (s : State) : Out := icmp (.ieq o) o s fun a b => a == b

/-- INE (05/R136). -/
def execIne (o : FV3) (s : State) : Out := icmp (.ine o) o s fun a b => a != b

/-- ILT (05/R136). -/
def execIlt (o : FV3) (s : State) : Out := icmp (.ilt o) o s fun a b => a.slt b

/-- ILE (05/R136). -/
def execIle (o : FV3) (s : State) : Out := icmp (.ile o) o s fun a b => !b.slt a

/-- ILTN (05/R136). -/
def execIltn (o : FV3) (s : State) : Out := icmp (.iltn o) o s fun a b => decide (a < b)

/-- ILEN (05/R136). -/
def execIlen (o : FV3) (s : State) : Out := icmp (.ilen o) o s fun a b => decide (a ≤ b)

/-- A predicate form (05/R138). -/
def kform (i : Instr) (o : FV3) (s : State) (f : Bool → Bool → Bool) : Out :=
  swept i s fun _ l => (l.setK o.d.toNat (f (l.getK o.a.toNat) (l.getK o.b.toNat)), 0)

/-- KAND (05/R138). -/
def execKand (o : FV3) (s : State) : Out := kform (.kand o) o s fun a b => a && b

/-- KOR (05/R138). -/
def execKor (o : FV3) (s : State) : Out := kform (.kor o) o s fun a b => a || b

/-- KXOR (05/R138). -/
def execKxor (o : FV3) (s : State) : Out := kform (.kxor o) o s fun a b => a != b

/-- KANDN (05/R138). -/
def execKandn (o : FV3) (s : State) : Out := kform (.kandn o) o s fun a b => a && !b

/-- KNOT (05/R138). -/
def execKnot (o : FV3) (s : State) : Out := kform (.knot o) o s fun a _ => !a

/-- KMOV (05/R138). -/
def execKmov (o : FV3) (s : State) : Out := kform (.kmov o) o s fun a _ => a

/-- KSET (05/R138). -/
def execKset (o : FV3) (s : State) : Out :=
  swept (.kset o) s fun _ l => (l.setK o.d.toNat (o.b.getLsbD 0), 0)

/-- Lanes in LPOS order (02/R25, 05/R138). -/
def byPos (ls : List Lane) : List Lane := sortBy (fun (l : Lane) => l.lpos) ls

/-- A form that writes s[D] from a k register over the effective mask (05/R138). -/
def kcount (i : Instr) (o : FV3) (s : State) (f : List Lane → (Lane → Bool) → Word) : Out :=
  scalar i s o.d.toNat fun h => f (byPos (h.effLanes i)) fun (l : Lane) => l.getK o.a.toNat

/-- KCNT (05/R138). -/
def execKcnt (o : FV3) (s : State) : Out :=
  kcount (.kcnt o) o s fun ls p => BitVec.ofNat 32 (ls.filter p).length

/-- KFIRST (05/R138). -/
def execKfirst (o : FV3) (s : State) : Out :=
  kcount (.kfirst o) o s fun ls p => match ls.find? p with | some l => BitVec.ofNat 32 l.lid | none => 0xFFFFFFFF

/-- KALL (05/R138). -/
def execKall (o : FV3) (s : State) : Out := kcount (.kall o) o s fun ls p => boolWord (ls.all p)

/-- KANY (05/R138). -/
def execKany (o : FV3) (s : State) : Out := kcount (.kany o) o s fun ls p => boolWord (ls.any p)

/-! ### Moves and lane exchange -/

/-- MOV (05/R139). -/
def execMov (o : FV3) (s : State) : Out := vec2 (.mov o) o s fun _ _ a _ => a

/-- SEL (05/R139). -/
def execVmovSel (o : FV3) (s : State) : Out :=
  vec2 (.vmovSel o) o s fun h l a b => if l.getK (xC h.xreg) then a else b

/-- The value a lane receives from a position: its own where none, or no lane of its path lies there (05/R140). -/
def Sheaf.shuffled (h : Sheaf) (a : BitVec 7) (l : Lane) (src : Option Nat) : Word :=
  match src with
  | none => l.getV a.toNat
  | some p =>
    match h.lanes.find? fun x => x.lpos == p && h.onPath x with
    | some x => x.getV a.toNat
    | none => l.getV a.toNat

/-- A shuffle within the lane's stalk (05/R140): `src p n` from the position and the operand. -/
def shuffle (i : Instr) (o : FV3) (s : State) (src : Nat → Nat → Option Nat) : Out :=
  swept i s fun h l => (l.setV o.d.toNat (h.shuffled o.a l (src l.lpos (h.opB o.b l).toNat)), 0)

/-- SHFL (05/R140). -/
def execShfl (o : FV3) (s : State) : Out := shuffle (.shfl o) o s fun p n => some (p / 32 * 32 + n % 32)

/-- SHFLX (05/R140). -/
def execShflx (o : FV3) (s : State) : Out :=
  shuffle (.shflx o) o s fun p n => some (p / 32 * 32 + Nat.xor (p % 32) (n % 32))

/-- SHFLUP (05/R140). -/
def execShflup (o : FV3) (s : State) : Out :=
  shuffle (.shflup o) o s fun p n => if n ≤ p % 32 then some (p - n) else none

/-- SHFLDN (05/R140). -/
def execShfldn (o : FV3) (s : State) : Out :=
  shuffle (.shfldn o) o s fun p n => if p % 32 + n ≤ 31 then some (p + n) else none

/-- RDFL (05/R141). -/
def execRdfl (o : FV3) (s : State) : Out :=
  scalar (.rdfl o) s o.d.toNat fun h =>
    match byPos (h.effLanes (.rdfl o)) with
    | l :: _ => l.getV o.a.toNat
    | [] => 0

/-- v[A] of the lane with a LID, 0 where there is none (05/R141). -/
def Sheaf.readLane (h : Sheaf) (a : BitVec 7) (lid : Nat) : Word := ((h.lane? lid).map fun l => l.getV a.toNat).getD 0

/-- RDLN (05/R141). -/
def execRdln (o : FV3) (s : State) : Out :=
  scalar (.rdln o) s o.d.toNat fun h => h.readLane o.a (h.getS o.b.toNat).toNat

/-- BCST (05/R141). -/
def execBcst (o : FV3) (s : State) : Out :=
  swept (.bcst o) s fun h l => (l.setV o.d.toNat (h.readLane o.a (h.getS o.b.toNat).toNat), 0)

/-- LID (05/R139). -/
def execLid (o : FV3) (s : State) : Out := swept (.lid o) s fun _ l => (l.setV o.d.toNat (BitVec.ofNat 32 l.lid), 0)

/-- LPOS (05/R139). -/
def execLpos (o : FV3) (s : State) : Out := swept (.lpos o) s fun _ l => (l.setV o.d.toNat (BitVec.ofNat 32 l.lpos), 0)

end Sys2Proof.Machine
end

