-- ==== Sys2Proof/Machine/Sfu.lean ====
section
/-! DEFINITION. The group VSFU (05/R142, 03/R72, R73): the correctly rounded functions, the exact cases and special
values of the others. Outside those the spec holds the result within 1 or 2 ulp and does not fix it: it is a free value
within that bound, the same for the same operand bits and modifiers (log entry 9). -/

namespace Sys2Proof.Machine

/-- A quotient 2^k / m with its remainder folded into one sticky bit. -/
def stickyDiv (k m : Nat) : Nat := 2 * (2 ^ k / m) + bitNat (2 ^ k % m != 0)

/-- The integer square root, one bit at a time from `b` down. -/
def isqrt (n : Nat) : Nat → Nat → Nat
  | 0, r => r
  | b + 1, r => isqrt n b (if (r + 2 ^ b) * (r + 2 ^ b) ≤ n then r + 2 ^ b else r)

/-- 1/x correctly rounded (03/R72). -/
def rcpVal (ftz : Bool) (v : FVal) : Nat × Flags :=
  match v with
  | .nan => (f32.nan, 0)
  | .inf neg => (f32.signed neg 0, 0)
  | .fin neg m e =>
    if m == 0 then (f32.signed neg f32.infBits, fDZ)
    else
      let k := m.log2 + 60
      f32.roundFin 0 ftz false neg (stickyDiv k m) (-(k : Int) - 1 - e)

/-- √x correctly rounded (03/R72). -/
def sqrtVal (ftz : Bool) (v : FVal) : Nat × Flags :=
  match v with
  | .nan => (f32.nan, 0)
  | .inf neg => if neg then (f32.nan, fIV) else (f32.infBits, 0)
  | .fin neg m e =>
    if m == 0 then (f32.signed neg 0, 0)
    else if neg then (f32.nan, fIV)
    else
      let odd := e % 2 != 0
      let n := (if odd then 2 * m else m) * 2 ^ 60
      let ex : Int := ((if odd then e - 1 else e) - 60) / 2
      let r := isqrt n 44 0
      f32.roundFin 0 ftz false false (2 * r + bitNat (r * r != n)) (ex - 1)

/-! ### Values to about 200 bits, for the bounds of 03/R72 -/

/-- 2π, ln 2 and 1 / ln 2 in units of 2^-200. -/
def twoPi : Nat := 10096689509235987743946820282484873672429286842977325943070736
/-- See twoPi. -/
def lnTwo : Nat := 1113844574712631719546256151097547306333272293549090750737802
/-- See twoPi. -/
def invLnTwo : Nat := 2318321547468254865173387471183990171487108758923299108729110

/-- 1 in units of 2^-200. -/
def fxOne : Nat := 2 ^ 200

/-- A product in those units. -/
def fxMul (a b : Nat) : Nat := a * b / fxOne

/-- The first terms of a power series in y: each term is the one before it times y over d; `alt` alternates the signs. -/
def series (alt : Bool) (d : Nat → Nat) (y : Nat) : Nat → Nat → Nat → Int
  | 0, _, _ => 0
  | n + 1, k, t => (t : Int) + (if alt then -1 else 1) * series alt d y n (k + 1) (fxMul t y / d k)

/-- e^y for 0 ≤ y < 1. -/
def expFx (y : Nat) : Nat := (series false (fun k => k + 1) y 64 0 fxOne).toNat

/-- sin y / y and sinh y / y by y². -/
def sincFx (alt : Bool) (y2 : Nat) : Nat := (series alt (fun k => (2 * k + 2) * (2 * k + 3)) y2 64 0 fxOne).toNat

/-- cos y and cosh y by y². -/
def cosFx (alt : Bool) (y2 : Nat) : Nat := (series alt (fun k => (2 * k + 1) * (2 * k + 2)) y2 64 0 fxOne).toNat

/-- artanh z / z by z². -/
def artanhFx (z2 : Nat) : Nat → Nat → Nat → Nat
  | 0, _, _ => 0
  | n + 1, k, t => t / (2 * k + 1) + artanhFx z2 n (k + 1) (fxMul t z2)

/-- 2^x for x below 128; below −200 the bounds no longer tell values apart. -/
def exp2Near (neg : Bool) (m : Nat) (e : Int) : Dy :=
  if (FVal.fin neg m e).ltNum (.fin true 200 0) then ⟨1, -200⟩
  else
    let x : Int := (if neg then -1 else 1) * (m * 2 ^ (e + 149).toNat : Nat)
    let f := (x % 2 ^ 149).toNat * 2 ^ 51
    ⟨(expFx (fxMul f lnTwo) : Nat), x / 2 ^ 149 - 200⟩

/-- log₂ of m · 2^e. -/
def log2Near (m : Nat) (e : Int) : Dy :=
  let z := (m - 2 ^ m.log2) * fxOne / (m + 2 ^ m.log2)
  let ln := 2 * fxMul z (artanhFx (fxMul z z) 64 0 fxOne)
  ⟨(e + m.log2) * fxOne + (fxMul ln invLnTwo : Nat), -200⟩

/-- 1 / √(m · 2^e). -/
def rsqNear (m : Nat) (e : Int) : Dy :=
  let odd := e % 2 != 0
  ⟨(isqrt (2 ^ 600 / (if odd then 2 * m else m)) 301 0 : Nat), -300 - (if odd then e - 1 else e) / 2⟩

/-- The sine (`co` false) or cosine of 2πu for u = r · 2^-k with 0 < u < 1/4. -/
def turnNear (co : Bool) (r k : Nat) : Dy :=
  let far := decide (2 ^ k < 8 * r)
  let q := if far then 2 ^ k / 4 - r else r
  let y := twoPi * q / 2 ^ k
  let y2 := fxMul y y
  if co == far then ⟨(twoPi * q * sincFx true y2 : Nat), -(k : Int) - 400⟩
  else ⟨(min (cosFx true y2) (fxOne - 1) : Nat), -200⟩

/-- sin 2πx (`co` false) or cos 2πx for x = m · 2^e that is no multiple of 0.25. -/
def circleNear (co neg : Bool) (m : Nat) (e : Int) : Dy :=
  let k := (-e).toNat
  let q := 4 * (m % 2 ^ k)
  let quad := (q / 2 ^ k + bitNat co) % 4
  let d := turnNear ((q / 2 ^ k % 2 == 1) != co) (q % 2 ^ k) (k + 2)
  if decide (2 ≤ quad) != (neg && !co) then ⟨-d.n, d.e⟩ else d

/-- tanh x for x ≠ 0; from 40 on the bounds no longer tell values apart. -/
def tanhNear (neg : Bool) (m : Nat) (e : Int) : Dy :=
  let sg : Int := if neg then -1 else 1
  let big := (FVal.fin false 40 0).ltNum (.fin false m e)
  let x := if big then 40 * fxOne else m * 2 ^ (e + 200).toNat
  if x < fxOne then
    let y2 := fxMul x x
    ⟨sg * (m * (sincFx false y2 * fxOne / cosFx false y2) : Nat), e - 200⟩
  else
    let w := fxMul (2 * x) invLnTwo
    let t := fxOne * fxOne / expFx (fxMul (w % fxOne) lnTwo) / 2 ^ (w / fxOne)
    ⟨sg * ((fxOne - t) * fxOne / (fxOne + t) : Nat), -200⟩

/-- |r − y| < n · ulp(y) (03/R72). -/
def Dy.within (r y : Dy) (n : Nat) : Bool :=
  let d := r.add ⟨-y.n, y.e⟩
  let u : Dy := ⟨n, max (y.e + y.n.natAbs.log2) (-126) - 23⟩
  decide (((⟨d.n.natAbs, d.e⟩ : Dy).add ⟨-u.n, u.e⟩).n < 0)

/-- A result that the spec holds within n ulp of y and does not fix: the free value where it lies there and has y's sign, and
y rounded where it does not; flushed under ftz, UF where it is tiny, NX always (03/R51, R72; log entry 9). -/
def openResult (f : Config.Sfu) (n : Nat) (y : Dy) (w : Word) (ftz : Bool) : Nat × Flags :=
  let near : Word := BitVec.ofNat 32 (f32.roundFin 0 false false (decide (y.n < 0)) y.n.natAbs y.e).1
  let r := match f32.decode (Config.sfu f w ftz).toNat false with
    | .fin neg m e => if neg == decide (y.n < 0) && (FVal.fin neg m e).dy.within y n then Config.sfu f w ftz else near
    | _ => near
  if r.extractLsb' 23 8 == 0 then ((if ftz then (r &&& 0x80000000).toNat else r.toNat), fUF ||| fNX) else (r.toNat, fNX)

/-- 4x mod 4 for a finite x that is a multiple of 0.25. -/
def quarterTurn (neg : Bool) (m : Nat) (e : Int) : Option Nat :=
  let q := if 0 ≤ e + 2 then some (m * 2 ^ (e + 2).toNat) else if m % 2 ^ (-(e + 2)).toNat == 0 then some (m / 2 ^ (-(e + 2)).toNat) else none
  q.map fun n => if neg then (4 - n % 4) % 4 else n % 4

/-- The integer x stands for, if it is one. -/
def integerOf (neg : Bool) (m : Nat) (e : Int) : Option Int :=
  let q := if 0 ≤ e then some (m * 2 ^ e.toNat) else if m % 2 ^ (-e).toNat == 0 then some (m / 2 ^ (-e).toNat) else none
  q.map fun n => if neg then -(n : Int) else (n : Int)

/-- The exponent n where a positive m · 2^e is 2^n. -/
def powerOf (m : Nat) (e : Int) : Option Int := if m == 2 ^ m.log2 then some (e + m.log2) else none

/-- 1.0 -/
def oneBits : Nat := 0x3F800000

/-- EXP2 (03/R72). -/
def exp2Val (w : Word) (ftz : Bool) (v : FVal) : Nat × Flags :=
  match v with
  | .nan => (f32.nan, 0)
  | .inf neg => if neg then (0, 0) else (f32.infBits, 0)
  | .fin neg m e =>
    if (FVal.fin false 1 7).ltNum (.fin neg m e) || (FVal.fin false 1 7).eqNum (.fin neg m e) then (f32.infBits, fOF ||| fNX)
    else match integerOf neg m e with
      | some n => if -149 ≤ n then f32.round 0 ftz false (.fin false 1 n) else openResult .exp2 1 (exp2Near neg m e) w ftz
      | none => openResult .exp2 1 (exp2Near neg m e) w ftz

/-- LOG2 (03/R72). -/
def log2Val (w : Word) (ftz : Bool) (v : FVal) : Nat × Flags :=
  match v with
  | .nan => (f32.nan, 0)
  | .inf neg => if neg then (f32.nan, fIV) else (f32.infBits, 0)
  | .fin neg m e =>
    if m == 0 then (f32.signed true f32.infBits, fDZ)
    else if neg then (f32.nan, fIV)
    else match powerOf m e with
      | some n => f32.round 0 false false (.fin (decide (n < 0)) n.natAbs 0)
      | none => openResult .log2 1 (log2Near m e) w ftz

/-- RSQ (03/R72). -/
def rsqVal (w : Word) (ftz : Bool) (v : FVal) : Nat × Flags :=
  match v with
  | .nan => (f32.nan, 0)
  | .inf neg => if neg then (f32.nan, fIV) else (0, 0)
  | .fin neg m e =>
    if m == 0 then (f32.signed neg f32.infBits, fDZ)
    else if neg then (f32.nan, fIV)
    else match powerOf m e with
      | some n => if n % 2 == 0 then f32.round 0 false false (.fin false 1 (-(n / 2))) else openResult .rsq 1 (rsqNear m e) w ftz
      | none => openResult .rsq 1 (rsqNear m e) w ftz

/-- SIN2PI (03/R72). -/
def sinVal (w : Word) (ftz : Bool) (v : FVal) : Nat × Flags :=
  match v with
  | .nan => (f32.nan, 0)
  | .inf _ => (f32.nan, fIV)
  | .fin neg m e =>
    if m == 0 then (f32.signed neg 0, 0)
    else match quarterTurn neg m e with
      | some k => (if k == 1 then oneBits else if k == 3 then f32.signed true oneBits else 0, 0)
      | none => openResult .sin2pi 1 (circleNear false neg m e) w ftz

/-- COS2PI (03/R72). -/
def cosVal (w : Word) (ftz : Bool) (v : FVal) : Nat × Flags :=
  match v with
  | .nan => (f32.nan, 0)
  | .inf _ => (f32.nan, fIV)
  | .fin neg m e =>
    match quarterTurn neg m e with
      | some k => (if k == 0 then oneBits else if k == 2 then f32.signed true oneBits else 0, 0)
      | none => openResult .cos2pi 1 (circleNear true neg m e) w ftz

/-- TANH (03/R72). -/
def tanhVal (w : Word) (ftz : Bool) (v : FVal) : Nat × Flags :=
  match v with
  | .nan => (f32.nan, 0)
  | .inf neg => (f32.signed neg oneBits, 0)
  | .fin neg m e => if m == 0 then (f32.signed neg 0, 0) else openResult .tanh 2 (tanhNear neg m e) w ftz

/-- A VSFU form (05/R142), of declared class 0 (05/R131): `f` from the operand bits, FTZ and the value. -/
def sfuForm (i : Instr) (o : FV3) (s : State) (f : Word → Bool → FVal → Nat × Flags) : Out :=
  sweptAt 0 i s fun h l =>
    let a := h.opA o.a l
    let z := xFtz h.xmod
    let r := wordFlags (f a z (h.fp a))
    (l.setV o.d.toNat r.1, r.2)

/-- EXP2 (05/R142). -/
def execExp2 (o : FV3) (s : State) : Out := sfuForm (.exp2 o) o s exp2Val
/-- LOG2 (05/R142). -/
def execLog2 (o : FV3) (s : State) : Out := sfuForm (.log2 o) o s log2Val
/-- RCP (05/R142). -/
def execRcp (o : FV3) (s : State) : Out := sfuForm (.rcp o) o s fun _ z v => rcpVal z v
/-- RSQ (05/R142). -/
def execRsq (o : FV3) (s : State) : Out := sfuForm (.rsq o) o s rsqVal
/-- SQRT (05/R142). -/
def execSqrt (o : FV3) (s : State) : Out := sfuForm (.sqrt o) o s fun _ z v => sqrtVal z v
/-- SIN2PI (05/R142). -/
def execSin2pi (o : FV3) (s : State) : Out := sfuForm (.sin2pi o) o s sinVal
/-- COS2PI (05/R142). -/
def execCos2pi (o : FV3) (s : State) : Out := sfuForm (.cos2pi o) o s cosVal
/-- TANH (05/R142). -/
def execTanh (o : FV3) (s : State) : Out := sfuForm (.tanh o) o s tanhVal

end Sys2Proof.Machine
end

