-- ==== Sys2Proof/Machine/Ext.lean ====
section
/-! DEFINITION. The extension words (04/R79 to R88) and the words that decode to no form (04/R78). An extension word
joins the chain of its sheaf; the instruction that ends the chain checks and uses it. -/

namespace Sys2Proof.Machine

/-- The sheaf with an extension word read: the chain grows, the path goes on inside the unit (04/R79). -/
def Sheaf.extend (h : Sheaf) (kind : Nat) (p : BitVec 24) : Sheaf :=
  { h.setPc h.nextPc with
    chain := ⟨some h.unitPc, h.chain.words ++ [(kind, p)]⟩
    fbuf := none }

/-- Execute an extension word. In sequencer mode the chain's first microword address is kept (04/R106). -/
def extension (kind : Nat) (p : BitVec 24) (s : State) : Out :=
  match s.cur? with
  | none => .fault .noSheaf
  | some h =>
    if s.canIssue h then
      .next ((s.putSheaf (h.extend kind p)).modSeqr h.core fun q =>
        if h.seqr then { q with chain0 := some (q.chain0.getD q.upc) } else q)
    else .next s

/-- XIMM (04/R80). -/
def execXimm (p : BitVec 24) (s : State) : Out := extension 0 p s

/-- XREG (04/R80). -/
def execXreg (p : BitVec 24) (s : State) : Out := extension 1 p s

/-- XPRD (04/R80). -/
def execXprd (p : BitVec 24) (s : State) : Out := extension 2 p s

/-- XMOD (04/R80). -/
def execXmod (p : BitVec 24) (s : State) : Out := extension 3 p s

/-- XMEM (04/R80). -/
def execXmem (p : BitVec 24) (s : State) : Out := extension 4 p s

/-- XSCH (04/R80). -/
def execXsch (p : BitVec 24) (s : State) : Out := extension 5 p s

/-- XOFF (04/R80). -/
def execXoff (p : BitVec 24) (s : State) : Out := extension 6 p s

/-- The causes of a word the decoder refuses: 0x01 where it is of no form, 0x02 for a reserved field or value, and what
else decode finds in it (04/R78). -/
def State.illegalCauses (s : State) (h : Sheaf) (w : Word) : List Nat :=
  match decodeForm w with
  | none => [1]
  | some i => 2 :: s.decodeCauses h i

/-- A fetched word that the decoder refuses traps at decode (04/R78). -/
def execIllegalInstruction (w : Word) (s : State) : Out :=
  match s.cur? with
  | none => .fault .noSheaf
  | some h =>
    if s.canIssue h && (decode w).isNone then
      .next (match leastCause (s.illegalCauses h w) with
        | some c => s.decodeTrap h w c
        | none => s)
    else .next s

end Sys2Proof.Machine
end

