-- ==== Sys2Proof/Machine/MemInstr.lean ====
section
/-! DEFINITION. The groups LD, ST, LDS/STS and ATOM (06/R143 to R162): addresses, per-lane conditions, and what each
instruction requests of the ordering machine (08/R240, R241). Own scratch is accessed at the issue; peer scratch through
the channels; global and slice memory through the sheaf's queue, whose steps are in MemSteps.lean. -/

namespace Sys2Proof.Machine

/-! ### Markers and conditions of order (06/R165, R166; 08/R241, R255) -/

/-- Whether an entry of the queue is a release marker. -/
def MqEntry.isRelease : MqEntry → Bool
  | .release _ _ => true
  | _ => false

/-- Whether an entry is an acquire marker. -/
def MqEntry.isAcquire : MqEntry → Bool
  | .acqOf _ _ | .acqFence _ _ => true
  | _ => false

/-- Whether a channel request is a lane's access of a sheaf, issued before its number `n`. -/
def ChanReq.earlier (r : ChanReq) (uid n : Nat) : Bool :=
  r.uid == uid && decide (r.id.seq < n) && match r.kind with | .acc _ => true | _ => false

/-- The conditions of a release at a scope, placed at the sheaf's number `n`, over the earlier entries of the queue and
earlier peer requests (06/R165): 0 sheaf, 1 core, 2 to 4 stook, cluster and die, 5 device, 6 system. -/
def State.releaseOk (s : State) (h : Sheaf) (es : List MqEntry) (n : Nat) (scp : BitVec 3) : Bool :=
  scp == 0 ||
  (!s.requests.any fun (r : ChanReq) => r.earlier h.uid n && r.dest.isSome) &&
  ((!es.any fun e => match e with
      | .acc a => (match a.kind with
        | .load => true
        | _ => a.stage.logged? || (a.space == .glob && a.stage == .queued) || a.dest.isSome)
      | _ => false) &&
   (scp == 1 ||
     ((!es.any fun e => match e with | .acc _ => true | _ => false) &&
      (!s.requests.any fun (r : ChanReq) => r.earlier h.uid n) &&
      (!s.stk.subs.any fun (p : Sub) => p.batches.any fun (b : Batch) => b.causes.contains h.uid) &&
      decide (h.gw + 4 ≤ s.reading h.core) &&
      (decide (scp.toNat < 5) ||
        ((!s.flt.log.any fun (e : LogEntry) => e.uid == h.uid && decide (e.unit < n)) &&
         (decide (scp.toNat < 6) || !s.mm.homes.any fun (x : Home) => x.owed.contains h.uid))))))

/-- Whether a release that an instruction waits for itself may pass: every earlier entry of the sheaf's queue, markers
too, is done with at the scope. -/
def State.released (s : State) (h : Sheaf) (scp : BitVec 3) : Bool :=
  !(h.mq.any fun e => e.isRelease || e.isAcquire) && s.releaseOk h h.mq h.nseq scp

/-- A release sends the open batches the sheaf caused (08/R252). -/
def State.sendBatches (s : State) (uid : Nat) : State :=
  { s with stk := { s.stk with subs := s.stk.subs.map fun (p : Sub) =>
      { p with batches := p.batches.map fun (b : Batch) => if b.causes.contains uid then { b with sent := true } else b } } }

/-- A fence, an ordered access or a wait sends the sheaf's requests on from the gather collector (06/R151). -/
def Sheaf.ungather (h : Sheaf) : Sheaf :=
  { h with mq := h.mq.map fun e => match e with | .acc a => .acc { a with gath := 0 } | e => e }

/-- Cycles a request waits in the gather collector, in thousandths (06/R151). -/
def gatherTime : Nat := 64000

/-- The requests that wait in the gather collector of a core (06/R151). -/
def State.gathering (s : State) (core : Nat) : Nat :=
  ((s.sheaves.filter fun h => h.core == core).flatMap fun h => h.mq.filter fun e => match e with
    | .acc a => a.gath != 0
    | _ => false).length

/-- The requests a gather collector holds (01/R14). -/
def gatherRoom : Nat := 512

/-- Whether 512 requests wait in the gather collector of a core (06/R151). -/
def State.gatherFull (s : State) (core : Nat) : Bool := decide (gatherRoom ≤ s.gathering core)

/-- An instruction that waits: it stays, its sheaf's gathered requests and batches go on. `stop` marks the waits before
which a pre-emption stops at once (17/R390). -/
def State.hold (s : State) (h : Sheaf) (stop : Bool) : State :=
  (s.sendBatches h.uid).putSheaf { h.ungather with waiting := h.waiting || stop }

/-- Wait as a release at a scope, then go on (06/R165). -/
def State.afterRelease (s : State) (h : Sheaf) (scp : BitVec 3) (stop : Bool) (k : Sheaf → State → State) : State :=
  if s.released h scp then k h s else s.hold h stop

/-! ### Addresses -/

/-- The offset-and-base address of a lane (06/R144); a uniform form has no lane. -/
def Sheaf.ea (h : Sheaf) (o : FM) (size : Nat) (pair : Bool) (l : Option Lane) : Int :=
  let base : Nat := if pair then (h.getPair o.sb.toNat).toNat else (h.getS o.sb.toNat).toNat
  let off : Int := match l with
    | some l => (l.getV o.a.toNat).toInt * (if o.sc == 1 then (size : Int) else 1)
    | none => 0
  base + off + h.xoff

/-- The member index a peer form names (04/R86). -/
def Sheaf.memIndex (h : Sheaf) (x : BitVec 24) : Nat := if xMss x then (h.getS (xMem x)).toNat else xMem x

/-- The causes of one access: 0x04 where it is misaligned, `cause` where it is not inside (06/R144, R146). -/
def accCauses (a : Int) (size : Nat) (inside : Bool) (cause : Nat) (trapa : DWord) : List (Nat × DWord) :=
  (if a % (size : Int) != 0 then [(4, trapa)] else []) ++ (if inside then [] else [(cause, trapa)])

/-- The causes of a global or slice-memory access, `rd` for a load (06/R144, R154; 14/R320). -/
def State.globCauses (s : State) (h : Sheaf) (spc : Nat) (a : Int) (size : Nat) (rd : Bool) : List (Nat × DWord) :=
  let slm := match s.slmPos h.ctx a.toNat size with | some p => s.slmAllowed p size rd | none => false
  let inside := decide (0 ≤ a) && (if spc == 3 then slm else decide (a < 2 ^ 57))
  accCauses a size inside 6 (BitVec.ofInt 64 a)

/-- Where a scratch access of the sheaf goes: absolute base, size of the allotment, holder, core; and the form of TRAPA. -/
structure ScrTarget where
  base : Nat
  bytes : Nat
  holder : Nat
  core : Nat
  member : Option Nat
  held : Bool
deriving DecidableEq, Repr

/-- Resolve own scratch, or a peer's member entry (09/R270). -/
def State.target (s : State) (h : Sheaf) (peer : Option Nat) : Option ScrTarget :=
  match peer with
  | none => some ⟨h.scrAbs 0, h.scrBytes, h.uid, h.core, none, false⟩
  | some m => (s.member? h m).map fun r => ⟨r.2.scrAbs 0, r.2.scrBytes, r.2.uid, r.2.core, some m, r.1.hld⟩

/-- TRAPA of a scratch access (06/R146); of an offset that is negative or wider than its field the low bits are kept (log
entry 60). -/
def scrTrapa (member : Option Nat) (a : Int) : DWord :=
  match member with
  | none => BitVec.ofInt 64 a
  | some m => BitVec.ofInt 64 (m * 2 ^ 32) ||| (BitVec.ofInt 32 a).setWidth 64

/-- The part of a space where an access of 06/R169 is looked for: global addresses, places of scratch, places of slice
memory. -/
def State.place? (s : State) (h : Sheaf) (a : Access) : Nat × Nat :=
  match a.space with
  | .glob => (0, a.addr)
  | .slm => (2, (s.slmPos h.ctx a.addr a.size).getD 0)

/-- The causes of a scratch access at a target. -/
def ScrTarget.causes (t : ScrTarget) (a : Int) (size : Nat) : List (Nat × DWord) :=
  accCauses a size (decide (0 ≤ a) && decide (a + size ≤ t.bytes)) 8 (scrTrapa t.member a)

/-! ### Data -/

/-- The low bytes of a register group, low register first. -/
def Lane.group (l : Lane) (d : Nat) (regs : Nat) : BitVec 128 :=
  (List.range regs).foldl (fun (x : BitVec 128) (k : Nat) => x ||| ((l.getV (d + k)).setWidth 128 <<< (32 * k))) 0

/-- A returned value of `size` bytes in a register: zero- or sign-extended (06/R147). -/
def extendTo32 (size : Nat) (signed : Bool) (x : Nat) : Word :=
  if size == 1 then (if signed then (BitVec.ofNat 8 x).signExtend 32 else BitVec.ofNat 32 (x % 256))
  else if size == 2 then (if signed then (BitVec.ofNat 16 x).signExtend 32 else BitVec.ofNat 32 (x % 65536))
  else BitVec.ofNat 32 x

/-- Write a returned value to a lane. -/
def Lane.receive (l : Lane) (d : Dest) (size : Nat) (x : Nat) : Lane :=
  if size == 8 then l.setV2 d.reg (BitVec.ofNat 64 x) else l.setV d.reg (extendTo32 size d.signed x)

/-- Write a returned value to the sheaf: to the lane of the LID, or to an s register. -/
def Sheaf.receive (h : Sheaf) (lid : Nat) (d : Dest) (size : Nat) (x : Nat) : Sheaf :=
  if d.isV then { h with lanes := h.lanes.map fun l => if l.lid == lid then l.receive d size x else l }
  else if size == 8 then h.setPair d.reg (BitVec.ofNat 64 x) else h.setS d.reg (BitVec.ofNat 32 x)

/-- The new word of an atomic (06/R160 to R162): x is v[D], y is v[D+1]. -/
def atomicNew (op : Nat) (old x y : Word) : Word :=
  match op with
  | 0 => old + x
  | 1 => sMin old x
  | 2 => sMax old x
  | 3 => uMin old x
  | 4 => uMax old x
  | 5 => old &&& x
  | 6 => old ||| x
  | 7 => old ^^^ x
  | 8 => x
  | 9 => if old == x then y else old
  | 10 => BitVec.ofNat 32 (fpAdd 0 false (f32.decode old.toNat false) (f32.decode x.toNat false)).1
  | _ =>
    let half := fun (k : Nat) =>
      let v := fun (w : Word) => bf16.decode (halfOf w k).toNat false
      BitVec.ofNat 16 (bf16.round 0 false false (FVal.add 0 (v old) (v x)).1).1
    half 1 ++ half 0

/-- The parts of an access: two of 8 bytes for b128 (06/R149). -/
def parts (size : Nat) : List (Nat × Nat) := if size == 16 then [(0, 8), (1, 8)] else [(0, size)]

/-- Of accesses in LID order, those no later one overwrites (06/R148, 09/R266). -/
def keepLast {α : Type} (key : α → Nat) : List α → List α
  | [] => []
  | x :: xs => if xs.any fun y => key y == key x then keepLast key xs else x :: keepLast key xs

/-! ### Global and slice memory -/

/-- What one memory form asks for. -/
structure MemReq where
  i : Instr
  o : FM
  size : Nat
  regs : Nat
  kind : AccKind
  signed : Bool
  uniform : Bool

/-- The accesses of one lane or of a uniform form. -/
def MemReq.accs (r : MemReq) (h : Sheaf) (lid : Nat) (addr : Nat) (data : BitVec 128) (undef : Bool) : List Access :=
  let x := h.xmem r.i
  (parts r.size).map fun p =>
    { id := ⟨h.nseq, lid, p.1⟩, kind := r.kind, space := if xSpc x == 3 then .slm else .glob
      addr := addr + 8 * p.1, size := p.2, data := data >>> (64 * p.1)
      dest := if r.kind == .store then none else some ⟨!r.uniform, r.o.d.toNat + 2 * p.1, r.signed⟩
      scp := xScp x, ord := xOrd x, ch := xCh x, insn := encode r.i, xmem := (h.chain.get 4).getD 0, pc := h.unitPc
      gath := if !r.uniform && xOrd x == 0 then gatherTime + 1 else 0, undef := undef, stage := .queued, held := none }

/-- Put an instruction's accesses into the queue with the markers of its order (06/R159, R165, R166; 08/R241). -/
def Sheaf.enqueue (h : Sheaf) (as : List Access) (ord : BitVec 2) (scp : BitVec 3) : Sheaf :=
  let h1 := if ord == 0 then h else h.ungather
  let pre := if ord.getLsbD 1 then [MqEntry.release h.nseq scp] else []
  let post := if ord.getLsbD 0 then [MqEntry.acqOf (h.nseq + 1) scp] else []
  { h1 with mq := h1.mq ++ pre ++ as.map .acc ++ post, nseq := h1.nseq + 2 }

/-- Bytes an entry takes in a core's operand log: a record for each lane (17/R383). -/
def LogEntry.bytes (e : LogEntry) : Nat := 32 + 32 * ((e.accs.map fun (a : AccId) => a.lid).dedup).length

/-- Whether a core's operand log has no room for another entry (02/R42). -/
def State.logFull (s : State) (core : Nat) : Bool :=
  decide (65536 < (((s.flt.log.filter fun (e : LogEntry) => e.core == core).map fun (e : LogEntry) => e.bytes).sum) + 64)

/-- Whether an instruction may not yet put its accesses out: a full operand log for a per-lane global access, a full gather
collector for what passes through it (01/R14). -/
def State.memHeld (s : State) (h : Sheaf) (r : MemReq) : Bool :=
  !r.uniform && ((xSpc (h.xmem r.i) == 0 && s.logFull h.core) || (xOrd (h.xmem r.i) == 0 && s.gatherFull h.core))

/-- Requests as they reach the gather collector: those it has no room for go on at once, as those do that fill it (06/R151,
01/R14). -/
def State.intoGather (s : State) (core : Nat) (as : List Access) : List Access :=
  as.zipIdx.map fun p => if gatherRoom ≤ s.gathering core + p.2 then { p.1 with gath := 0 } else p.1

/-- Touch the regions of the sheaf's own operations with a list of accesses. -/
def State.touchAll (s : State) (h : Sheaf) (as : List Access) : State :=
  as.foldl (fun (t : State) (a : Access) => t.touch h (s.place? h a).1 (s.place? h a).2 a.size (a.kind != .load)) s

/-- A global or slice-memory form (06/R147, R148, R153, R159). A uniform form with a cause has no effect; the causes of a swept
one join those its other lanes may still meet (02/R41). -/
def State.globForm (s : State) (h : Sheaf) (r : MemReq) : State :=
  let x := h.xmem r.i
  let spc := xSpc x
  let who : List (Option Lane) := if r.uniform then [none] else (h.effLanes r.i).map some
  let lid := fun (l : Option Lane) => (l.map fun (y : Lane) => y.lid).getD 1024
  let addr := fun (l : Option Lane) => h.ea r.o r.size true l
  let data := fun (l : Option Lane) => match l with
    | some y => y.group r.o.d.toNat r.regs
    | none => (if r.size == 8 then (h.getPair r.o.d.toNat).setWidth 128 else (h.getS r.o.d.toNat).setWidth 128)
  let found := who.flatMap fun l => (s.globCauses h spc (addr l) r.size (r.kind == .load)).map fun c => (lid l, c)
  let causes := found.map (·.2)
  let good := who.filter fun l => (s.globCauses h spc (addr l) r.size (r.kind == .load)).isEmpty
  let kept := if r.kind == .store then keepLast (fun l => (addr l).toNat) good else good
  let as := s.intoGather h.core <| kept.flatMap fun l =>
    (r.accs h (lid l) (addr l).toNat (data l) false).map fun a =>
      { a with undef := s.clouded h (s.place? h a).1 (s.place? h a).2 a.size }
  if s.memHeld h r then s
  else if r.uniform && !causes.isEmpty then s.finish h r.i causes
  else
    let s1 := (if (xOrd x).getLsbD 1 then s.sendBatches h.uid else s).touchAll h as
    let h1 := (h.retile s1).enqueue as (xOrd x) (xScp x)
    if as.isEmpty then s1.finish h1 r.i causes else s1.finishLater h1 r.i h.nseq found

/-! ### Scratch -/

/-- The live transaction barriers (06/R174): sheaf, own offset, absolute place. -/
def State.liveTxbs (s : State) : List (Nat × Nat × Nat) :=
  (s.sheaves.filter Sheaf.resident).flatMap fun h => h.txbs.map fun o => (h.uid, o, h.scrAbs o)

/-- A write by a copy, an atomic or a store: a live transaction barrier that it covers in part becomes undefined, and is one
no longer (06/R174). -/
def State.plainWrite (s : State) (a : Nat) (bs : List Byte) (uid : Nat) : State :=
  (s.liveTxbs.filter fun r => meets r.2.2 16 a bs.length).foldl (fun (t : State) (r : Nat × Nat × Nat) =>
    ((t.draw 16).scrWrite r.2.2 (freeBytes t.ctl.free 16) uid).modSheaf r.1 fun h => { h with txbs := h.txbs.filter (· != r.2.1) })
    (s.scrWrite a bs uid)

/-- The barrier records of a sheaf that wait: its handles and its BAR record while pending, and an arrival made whose response has
not been taken (06/R170). -/
def Sheaf.barWaits (h : Sheaf) : List BarHandle :=
  (((h.h.filterMap fun x => match x with | .bar b => some b | _ => none) ++ h.bar.toList).filter fun b => b.code == 1) ++
  (match h.arr with | some (.made b back) => if !back || b.code == 1 then [b] else [] | _ => [])

/-- The barrier words with arrivals or waits in flight, as absolute places; the word of a holder that is not resident has none
(06/R170). -/
def State.waitedWords (s : State) : List Nat :=
  (s.mm.chans.filter fun r => r.kind == .arrive).map (·.addr) ++
  (s.sheaves.flatMap Sheaf.barWaits).filterMap fun b =>
    (s.sheaf? b.holder).bind fun x => if x.resident then some (x.scrAbs b.off) else none

/-- A write by STS: it leaves a barrier word with arrivals or waits in flight undefined too (06/R170). -/
def State.stsWrite (s : State) (a : Nat) (bs : List Byte) (uid : Nat) : State :=
  (s.waitedWords.filter fun r => meets r 8 a bs.length).foldl (fun (t : State) (r : Nat) =>
    (t.draw 8).scrWrite r (freeBytes t.ctl.free 8) uid) (s.plainWrite a bs uid)

/-- A load, store or atomic of a word of scratch by one lane, performed at the scratchpad: the state, the value read, and
whether the word was uncorrectable. -/
def State.scrAccess (s : State) (uid : Nat) (kind : AccKind) (a size : Nat) (data : BitVec 128) : State × Nat × Bool :=
  match kind with
  | .load => (s, leNat (s.scrRead a size), s.scrBad a size)
  | .store => (s.stsWrite a (bvLe data size) uid, 0, false)
  | .atomic op =>
    let old := BitVec.ofNat 32 (leNat (s.scrRead a 4))
    if s.scrBad a 4 then (s, 0, true)
    else (s.plainWrite a (bvLe (atomicNew op old (data.truncate 32) ((data >>> 32).truncate 32)) 4) uid, old.toNat, false)

/-- Remember the old bytes of an own-scratch write until the next OFENCE: an engine command may read either (06/R168). -/
def State.keepOld (s : State) (h : Sheaf) (a n : Nat) : Sheaf :=
  { h with unfenced := h.unfenced ++ (((List.range n).filter fun k => !(h.unfenced.any fun c => c.1 == a + k)).map fun k =>
      ((a + k, s.mm.scr.get (a + k)) : Host.Cell)) }

/-- One own-scratch access of a lane at its issue (06/R158, 08/R251): answers the state, the sheaf and the causes. A lane
that reads a bad word is removed whole (02/R40, 20/R421). -/
def State.ownAccess (s : State) (h : Sheaf) (r : MemReq) (l : Lane) (off : Nat) : State × Sheaf × List (Nat × DWord) :=
  let a := h.scrAbs off
  let s0 := s.touch h 1 a r.size (r.kind != .load)
  let h0 := if r.kind == .load then h else s0.keepOld (h.retile s0) a r.size
  let step := fun (q : State × Sheaf) (p : Nat × Nat) =>
    let res := q.1.scrAccess h.uid r.kind (a + 8 * p.1) p.2 ((l.group r.o.d.toNat r.regs) >>> (64 * p.1))
    let cloud := s.clouded h 1 (a + 8 * p.1) p.2
    let val := if cloud then (Config.freeValue res.1.ctl.free).toNat % 256 ^ p.2 else res.2.1
    (if cloud then res.1.draw 1 else res.1,
      if r.kind == .store then q.2 else q.2.receive l.lid ⟨true, r.o.d.toNat + 2 * p.1, r.signed⟩ p.2 val)
  if r.kind != .store && s0.scrBad a r.size then (s0, h0, [(0x12, BitVec.ofNat 64 off)])
  else
    let q := (parts r.size).foldl step (s0, h0)
    (q.1, q.2, [])

/-- The channel requests of one lane (08/R251). -/
def MemReq.chan (r : MemReq) (s : State) (h : Sheaf) (t : ScrTarget) (l : Lane) (off : Nat) : List ChanReq :=
  (parts r.size).map fun p =>
    { src := h.core, dst := t.core, uid := h.uid, id := ⟨h.nseq, l.lid, p.1⟩, kind := .acc r.kind
      addr := t.base + off + 8 * p.1, size := p.2, data := (l.group r.o.d.toNat r.regs) >>> (64 * p.1)
      dest := if r.kind == .store then none else some ⟨true, r.o.d.toNat + 2 * p.1, r.signed⟩, holder := t.holder
      insn := encode r.i, pc := h.unitPc, trapa := scrTrapa t.member off
      undef := s.clouded h 1 (t.base + off + 8 * p.1) p.2, half := none }

/-- Whether a request of the sheaf to its own member index has still to be delivered: its own-scratch accesses take effect in
program order (06/R158). -/
def State.ownBehind (s : State) (h : Sheaf) : Bool :=
  s.mm.chans.any fun (r : ChanReq) => r.uid == h.uid && r.holder == h.uid && match r.kind with
    | .acc _ | .arrive => true
    | _ => false

/-- A scratch form (06/R156 to R159): held behind the sheaf's unsatisfied markers (08/R241), and behind a release of its
own; an unresolved member is cause 0x07 in every lane, beside 0x04 in a misaligned one; a held one holds the sheaf (09/R270). A
value loaded arrives in its register later (02/R27, R31). -/
def State.scrForm (s : State) (h0 : Sheaf) (r : MemReq) : State :=
  let x := h0.xmem r.i
  let h := if xOrd x == 0 then h0 else h0.ungather
  let peer := if xSpc x == 2 then some (h.memIndex x) else none
  let ls := h.effLanes r.i
  let off := fun (l : Lane) => h.ea r.o r.size false (some l)
  if (h.mq.any fun e => e.isAcquire || (r.kind != .load && e.isRelease)) then s.hold h false
  else if (xOrd x).getLsbD 1 && !s.released h (xScp x) then s.hold h false
  else
    match s.target h peer with
    | none => s.finish h r.i (ls.flatMap fun l => accCauses (off l) r.size false 7 (scrTrapa peer (off l)))
    | some t =>
      if t.held then s.hold h true
      else if peer.isNone && s.ownBehind h then s.hold h false
      else
        let found := ls.flatMap fun l => (t.causes (off l) r.size).map fun c => (l.lid, c)
        let causes := found.map (·.2)
        let good := ls.filter fun l => (t.causes (off l) r.size).isEmpty
        let kept := if r.kind == .store then keepLast (fun l => (off l).toNat) good else good
        match peer with
        | none =>
          let res := kept.foldl (fun (q : State × Sheaf × List (Nat × DWord)) (l : Lane) =>
            let y := q.1.ownAccess q.2.1 r l (off l).toNat
            (y.1, y.2.1, q.2.2 ++ y.2.2)) (s, h, causes)
          let late := if r.kind == .store || kept.isEmpty then []
            else [⟨r.o.d.toNat, if r.kind == .load then r.regs else 1, kept.map (·.lid), false⟩]
          res.1.finish { res.2.1 with late := res.2.1.late ++ late } r.i res.2.2
        | some _ =>
          let rs := kept.flatMap fun l => r.chan s h t l (off l).toNat
          let s1 := rs.foldl (fun (u : State) (c : ChanReq) => u.touch h 1 c.addr c.size (r.kind != .load)) s
          let h1 := { h.retile s1 with
            nseq := h.nseq + 2
            mq := h.mq ++ (if (xOrd x).getLsbD 0 then [MqEntry.acqOf (h.nseq + 1) (xScp x)] else []) }
          let s2 : State := { s1 with mm := { s1.mm with chans := s1.mm.chans ++ rs } }
          if rs.isEmpty then s2.finish h1 r.i causes else s2.finishLater h1 r.i h.nseq found

/-! ### The instructions -/

/-- LD (06/R147). -/
def execLd (sz : LoadSize) (o : FM) (s : State) : Out :=
  issue (.ld sz o) s fun h s => s.globForm h ⟨.ld sz o, o, sz.bytes, sz.regs, .load, sz == .s8 || sz == .s16, false⟩

/-- ST (06/R148). -/
def execSt (sz : StoreSize) (o : FM) (s : State) : Out :=
  issue (.st sz o) s fun h s => s.globForm h ⟨.st sz o, o, sz.bytes, sz.regs, .store, false, false⟩

/-- LDU (06/R153). -/
def execLdu (sz : UniSize) (o : FM) (s : State) : Out :=
  issue (.ldu sz o) s fun h s => s.globForm h ⟨.ldu sz o, o, sz.bytes, 1, .load, false, true⟩

/-- STU (06/R153). -/
def execStu (sz : UniSize) (o : FM) (s : State) : Out :=
  issue (.stu sz o) s fun h s => s.globForm h ⟨.stu sz o, o, sz.bytes, 1, .store, false, true⟩

/-- LDS (06/R156). -/
def execLds (sz : LoadSize) (o : FM) (s : State) : Out :=
  issue (.lds sz o) s fun h s => s.scrForm h ⟨.lds sz o, o, sz.bytes, sz.regs, .load, sz == .s8 || sz == .s16, false⟩

/-- STS (06/R156). -/
def execSts (sz : StoreSize) (o : FM) (s : State) : Out :=
  issue (.sts sz o) s fun h s => s.scrForm h ⟨.sts sz o, o, sz.bytes, sz.regs, .store, false, false⟩

/-- An atomic in any space (06/R159): `regs` operand registers from D. -/
def atomicForm (i : Instr) (o : FM) (op regs : Nat) (s : State) : Out :=
  issue i s fun h s =>
    let r : MemReq := ⟨i, o, 4, regs, .atomic op, false, false⟩
    if xSpc (h.xmem i) == 1 || xSpc (h.xmem i) == 2 then s.scrForm h r else s.globForm h r

/-- AADD (06/R160). -/
def execAadd (o : FM) (s : State) : Out := atomicForm (.aadd o) o 0 1 s

/-- AMIN (06/R160). -/
def execAmin (o : FM) (s : State) : Out := atomicForm (.amin o) o 1 1 s

/-- AMAX (06/R160). -/
def execAmax (o : FM) (s : State) : Out := atomicForm (.amax o) o 2 1 s

/-- AMINN (06/R160). -/
def execAminn (o : FM) (s : State) : Out := atomicForm (.aminn o) o 3 1 s

/-- AMAXN (06/R160). -/
def execAmaxn (o : FM) (s : State) : Out := atomicForm (.amaxn o) o 4 1 s

/-- AAND (06/R160). -/
def execAand (o : FM) (s : State) : Out := atomicForm (.aand o) o 5 1 s

/-- AOR (06/R160). -/
def execAor (o : FM) (s : State) : Out := atomicForm (.aor o) o 6 1 s

/-- AXOR (06/R160). -/
def execAxor (o : FM) (s : State) : Out := atomicForm (.axor o) o 7 1 s

/-- AXCHG (06/R160). -/
def execAxchg (o : FM) (s : State) : Out := atomicForm (.axchg o) o 8 1 s

/-- ACAS (06/R161). -/
def execAcas (o : FM) (s : State) : Out := atomicForm (.acas o) o 9 2 s

/-- AFADD (06/R162). -/
def execAfadd (o : FM) (s : State) : Out := atomicForm (.afadd o) o 10 1 s

/-- ABFADD2 (06/R162). -/
def execAbfadd2 (o : FM) (s : State) : Out := atomicForm (.abfadd2 o) o 11 1 s

end Sys2Proof.Machine
end

