-- ==== Sys2Proof/Machine/MemSteps.lean ====
section
/-! DEFINITION. The steps of the ordering machine for a sheaf's accesses (08/R240 to R255): drains, performs, fills,
expiry, delivery, waits; the gather collector (06/R151); the operand log and its replay (02/R42, 17/R382 to R384); fetch and wake-up. A step whose precondition does not hold changes nothing (log entry 2). -/

namespace Sys2Proof.Machine

/-! ### The sheaf's queue -/

/-- Whether an entry is the access of an identifier. -/
def MqEntry.isAcc (e : MqEntry) (a : AccId) : Bool :=
  match e with
  | .acc x => x.id == a
  | _ => false

/-- The access of an identifier. -/
def Sheaf.acc? (h : Sheaf) (a : AccId) : Option Access :=
  h.mq.findSome? fun e => match e with | .acc x => if x.id == a then some x else none | _ => none

/-- The entries before an access. -/
def Sheaf.before (h : Sheaf) (a : AccId) : List MqEntry := h.mq.takeWhile fun e => !e.isAcc a

/-- The queue without an access. -/
def Sheaf.dropAcc (h : Sheaf) (a : AccId) : Sheaf := { h with mq := h.mq.filter fun e => !e.isAcc a }

/-- Change one access. -/
def Sheaf.modAcc (h : Sheaf) (a : AccId) (f : Access → Access) : Sheaf :=
  { h with mq := h.mq.map fun e => match e with | .acc x => if x.id == a then .acc (f x) else e | e => e }

/-- Whether two accesses overlap. -/
def Access.overlaps (x y : Access) : Bool := x.space == y.space && meets x.addr x.size y.addr y.size

/-- Whether two accesses go to one 128-byte line. -/
def Access.sameLine (x y : Access) : Bool := x.space == y.space && x.addr / 128 == y.addr / 128

/-- Whether an earlier entry holds an access back for its bytes: an overlapping access not yet performed, but for stores
that `passes` lets pass, or a logged access to the same 128-byte line (08/R241, 17/R384). -/
def MqEntry.blocks (e : MqEntry) (x : Access) (passes : Access → Bool) : Bool :=
  match e with
  | .acc y => (y.overlaps x && !passes y) || (y.stage.logged? && y.sameLine x)
  | _ => false

/-- Whether a load may be performed: earlier acquires satisfied, overlapping loads and atomics done, and at a slice the
drained stores too, since no copy holds their bytes (08/R241, R250). -/
def Sheaf.loadReady (h : Sheaf) (x : Access) : Bool :=
  x.kind == .load && x.stage == .queued && x.gath == 0 &&
  !(h.before x.id).any fun e => e.isAcquire || e.blocks x fun y => y.kind == .store && (x.space == .glob || y.stage == .queued)

/-- Whether a store or atomic may be drained (08/R242, R241). -/
def Sheaf.drainReady (h : Sheaf) (x : Access) : Bool :=
  x.kind != .load && x.stage == .queued && x.gath == 0 &&
  !(h.before x.id).any fun e => e.isAcquire || e.isRelease || e.blocks x fun y =>
    y.kind == .store && (match y.stage with | .drained _ => true | _ => false)

/-- Whether an entry was drained before drain `n`, among those that satisfy `p`. -/
def MqEntry.drainedBefore (e : MqEntry) (n : Nat) (p : Access → Bool) : Bool :=
  match e with
  | .acc y => p y && (match y.stage.sent with | some m => decide (m < n) | none => false)
  | _ => false

/-- Whether an entry is a logged access to the line of another. -/
def MqEntry.loggedAt (e : MqEntry) (x : Access) : Bool :=
  match e with
  | .acc y => y.stage.logged? && y.sameLine x
  | _ => false

/-- Whether another sheaf of the same L1 has drained a write to the bytes of an access before drain `n` and not yet performed it:
what has stood in a copy is performed in the order in which it stood there (08/R243, R259; log entry 59). -/
def State.waitsTurn (s : State) (h : Sheaf) (x : Access) (n : Nat) (p : Access → Bool) : Bool :=
  x.space == .glob && s.sheaves.any fun g => (g.mq.any fun e => e.drainedBefore n fun y => y.overlaps x && p y) &&
    g.uid != h.uid && s.l1Of g.core == s.l1Of h.core && s.asidOf g.ctx == s.asidOf h.ctx

/-- Whether a drained access stands before its home: it is the first of its sheaf to its line in drain order, and no earlier access
of the sheaf to the line is in the log (08/R243, 17/R384). -/
def Sheaf.reaches (h : Sheaf) (x : Access) : Bool :=
  match x.stage with
  | .drained n => !(h.mq.any fun e => e.drainedBefore n fun y => y.sameLine x && !y.stage.logged?) &&
      !(h.before x.id).any fun e => e.loggedAt x
  | _ => false

/-- Whether a drained access may be performed: it stands before its home, and no other sheaf's write goes before it. -/
def State.performReady (s : State) (h : Sheaf) (x : Access) : Bool :=
  h.reaches x && !s.waitsTurn h x ((x.stage.sent).getD 0) fun _ => true

/-- The byte of an address in the youngest of the undrained stores that covers it (08/R242). -/
def storedByte (es : List MqEntry) (sp : Space) (a : Nat) : Option Byte :=
  es.foldl (fun (r : Option Byte) (e : MqEntry) => match e with
    | .acc y => if y.kind == .store && y.stage == .queued && y.space == sp && meets y.addr y.size a 1
        then some (byteOf y.data (a - y.addr)) else r
    | _ => r) none

/-- The byte a load takes from the sheaf's own earlier stores. -/
def forwardOf (es : List MqEntry) (x : Access) (k : Nat) : Option Byte := storedByte es x.space (x.addr + k)

/-- The bytes a load takes from its own stores. -/
def Sheaf.forwards (h : Sheaf) (x : Access) : List (Option Byte) :=
  (List.range x.size).map fun k => forwardOf (h.before x.id) x k

/-- Merge forwarded bytes over the bytes of memory. -/
def merge : List (Option Byte) → List Byte → List Byte
  | o :: os, b :: bs => o.getD b :: merge os bs
  | _, _ => []

/-- Whether an access is the other half of a b128 access of the same lane (06/R149). -/
def Access.twin (x y : Access) : Bool := y.id.seq == x.id.seq && y.id.lid == x.id.lid && y.id.part != x.id.part

/-- Whether the other half of an access is still to be performed. -/
def Sheaf.hasTwin (h : Sheaf) (x : Access) : Bool :=
  h.mq.any fun e => match e with | .acc y => x.twin y | _ => false

/-- Keep the value of a performed half with the other one: a lane is written whole or not at all (02/R40, 06/R155). -/
def Sheaf.keepHalf (h : Sheaf) (x : Access) (v : DWord) : Sheaf :=
  { h with mq := h.mq.map fun e => match e with | .acc y => if x.twin y then .acc { y with held := some v } else e | e => e }

/-- Whether a range meets the stack region of a sheaf that holds frames or spilled entries there. Where in the region the device
puts them is its own, so what an access finds there is undefined (02/R37, 05/R120; log entry 37). -/
def State.inStacks (s : State) (ctx va n : Nat) : Bool :=
  s.sheaves.any fun (h : Sheaf) => h.ctx == ctx && !h.seqr && h.stackBytes != 0 && meets va n h.sstk.toNat h.sstks.toNat

/-- Bytes of global memory as an engine reads them: free values where they lie in such a region (05/R120). -/
def State.overStacks (s : State) (ctx va : Nat) (bs : List Byte) : State × List Byte :=
  if s.inStacks ctx va bs.length then
    (s.draw bs.length, bs.zipIdx.map fun p => if s.inStacks ctx (va + p.2) 1 then freeByte (s.ctl.free + p.2) else p.1)
  else (s, bs)

/-- Whether the value an access of a sheaf reads is undefined (06/R169, 05/R120). -/
def State.readsFree (s : State) (h : Sheaf) (x : Access) : Bool :=
  x.undef || (x.space == .glob && s.inStacks h.ctx x.addr x.size)

/-- A load takes its value: the register is written, the access leaves the queue; the first half of a b128 load waits for the
second. An undefined value is free. -/
def State.loadDone (s : State) (h : Sheaf) (x : Access) (bytes : List Byte) : State :=
  let v := merge (h.forwards x) bytes
  let n := if s.readsFree h x then (Config.freeValue s.ctl.free).toNat % 256 ^ x.size else leNat v
  let h1 :=
    if h.hasTwin x then h.keepHalf x (BitVec.ofNat 64 n)
    else match x.dest with
      | some d =>
        let h2 := match x.held with | some w => h.receive x.id.lid (d.other x.id.part) 8 w.toNat | none => h
        h2.receive x.id.lid d x.size n
      | none => h
  (if s.readsFree h x then s.draw 1 else s).putSheaf (h1.dropAcc x.id)

/-! ### At the home -/

/-- What stands against a global access at its home. -/
inductive Refused where
  | page
  | permission
  | data
deriving DecidableEq, Repr

/-- Whether the bytes an access reads at its home are good (20/R423). -/
def Home.refuses (x : Home) (a : Access) : Option Refused :=
  if a.kind != .store && x.badAt (a.addr % 128) a.size then some .data else none

/-- What an access needs of its page. -/
def Access.need (a : Access) : Need :=
  match a.kind with
  | .load => .read
  | .store => .write
  | .atomic _ => .both

/-- The home of an access, or what stands against it. -/
def State.homeFor (s : State) (h : Sheaf) (a : Access) : State × Except Refused Home :=
  match s.homeOf h.ctx a.addr a.need with
  | (s1, .ok x) => match x.refuses a with | none => (s1, .ok x) | some r => (s1, .error r)
  | (s1, .denied) => (s1, .error .permission)
  | (s1, _) => (s1, .error .page)

/-- The bytes of an access's data. -/
def Access.bytes (a : Access) : List Byte := bvLe a.data a.size

/-- Whether the slice that serves an access is not being taken out of service (20/R429). -/
def State.served (s : State) (h : Sheaf) (a : Access) : Bool :=
  match a.space with
  | .glob => !s.lineHeld h.ctx a.addr
  | .slm => !((s.slmPos h.ctx a.addr a.size).map fun p => s.sliceHeld (p / 2 ^ 26)).getD false

/-- Fold a GWCT into a sheaf's GW (06/R152). -/
def State.foldGw (s : State) (uid g : Nat) : State := s.modSheaf uid fun h => { h with gw := max h.gw g }

/-- Perform a store at its home (08/R243). -/
def State.storeAt (s : State) (h : Sheaf) (a : Access) (x : Home) : State :=
  let r := s.homeWrite h.ctx h.core h.uid x (a.addr % 128) a.bytes
  (r.1.putSheaf (h.dropAcc a.id)).foldGw h.uid r.2

/-- Perform an atomic at its home: one read and write; the L1 drops its copy (08/R247). -/
def State.atomicAt (s : State) (h : Sheaf) (a : Access) (op : Nat) (x : Home) : State :=
  let old := BitVec.ofNat 32 (leNat (lineBytes x.data (a.addr % 128) 4))
  let new := atomicNew op old (a.data.truncate 32) ((a.data >>> 32).truncate 32)
  let r := s.homeWrite h.ctx h.core h.uid x (a.addr % 128) (bvLe new 4)
  let s1 := r.1.dropCopies fun c => c.l1 == s.l1Of h.core && c.asid == x.asid && c.line == x.line
  let open1 := s.readsFree h a
  let ret := if open1 then (freeWord s1.ctl.free).toNat else old.toNat
  let h1 := match a.dest with | some d => h.receive a.id.lid d 4 ret | none => h
  ((if open1 then s1.draw 1 else s1).putSheaf (h1.dropAcc a.id)).foldGw h.uid r.2

/-- Serve a load at its home under a lease, granted as a copy to the L1; ch:strm allocates none, but a live copy is replaced
(08/R244, R245). -/
def State.loadAt (s : State) (h : Sheaf) (a : Access) (x : Home) : State :=
  let g := s.grant x
  let l1 := s.l1Of h.core
  let s1 := if a.ch != 1 || (s.copy? l1 x.asid x.line).isSome then g.1.putCopy l1 x g.2 else g.1
  s1.loadDone h a (lineBytes x.data (a.addr % 128) a.size)

/-- Run a step of the current state's sheaf and access. -/
def State.withAcc (s : State) (uid : Nat) (a : AccId) (k : Sheaf → Access → State) : State :=
  match s.sheaf? uid with
  | none => s
  | some h => match h.acc? a with
    | none => s
    | some x => k h x

/-! ### Steps -/

/-- FETCH (04/R96). -/
def execFetch (uid : Nat) (s : State) : Out :=
  .next (match s.sheaf? uid with | some h => s.fetchFor h | none => s)

/-- SLEEP_WAKE (05/R112). -/
def execSleepWake (uid : Nat) (s : State) : Out :=
  .next (s.modSheaf uid fun h => if h.sleep ≤ s.reading h.core then { h with sleep := 0 } else h)

/-- GATHER_FLUSH (06/R151): the requests whose 64 cycles are over leave a core's collector, or all of its once 512 wait. -/
def execGatherFlush (core : Nat) (s : State) : Out :=
  let full := s.gatherFull core
  .next { s with sheaves := s.sheaves.map fun h => if h.core == core then { h with mq := h.mq.map fun e => match e with
    | .acc a => .acc { a with gath := if full || a.gath == 1 then 0 else a.gath }
    | e => e } else h }

/-- STORE_DRAIN (08/R242): into a live L1 copy, and on its way to the home. -/
def execStoreDrain (uid : Nat) (a : AccId) (s : State) : Out :=
  .next (s.withAcc uid a fun h x =>
    if h.drainReady x then
      let s1 := if x.kind == .store && x.space == .glob then
          s.writeCopy (s.l1Of h.core) (s.asidOf h.ctx) (x.addr / 128) (x.addr % 128) x.bytes else s
      (s1.fresh 1).putSheaf (h.modAcc a fun y => { y with stage := .drained s.ctl.nextId })
    else s)

/-- A write of a sheaf takes effect at its home and returns GWCT (08/R243). -/
def State.performStore (s : State) (uid : Nat) (a : AccId) : State :=
  s.withAcc uid a fun h x =>
    if x.kind == .store && x.space == .glob && s.performReady h x && s.served h x then
      match s.homeFor h x with
      | (s1, .ok hm) => s1.storeAt h x hm
      | (s1, .error _) => s1
    else s

/-- The live copy a load may take its value from: ch:byp forces the home (08/R244). -/
def State.copyFor (s : State) (h : Sheaf) (x : Access) : Option Copy :=
  if x.ch == 3 then none else s.copy? (s.l1Of h.core) (s.asidOf h.ctx) (x.addr / 128)

/-- LOAD_PERFORM (08/R244): from the sheaf's own stores, from a live copy, or at the home where the hint forces it. -/
def execLoadPerform (uid : Nat) (a : AccId) (s : State) : Out :=
  .next (s.withAcc uid a fun h x =>
    if x.space == .glob && h.loadReady x then
      if (h.forwards x).all (·.isSome) then s.loadDone h x (List.replicate x.size 0)
      else
        match s.copyFor h x with
        | some c =>
          if badIn c.bad (x.addr % 128) x.size then s else s.loadDone h x (lineBytes c.data (x.addr % 128) x.size)
        | none =>
          if (x.ch == 3 || x.ch == 1) && s.served h x then
            match s.homeFor h x with
            | (s1, .ok hm) => if s1.inFlight (s1.l1Of h.core) hm.asid hm.line then s1 else s1.loadAt h x hm
            | (s1, .error _) => s1
          else s
    else s)

/-- ATOMIC_PERFORM (08/R247). -/
def execAtomicPerform (uid : Nat) (a : AccId) (s : State) : Out :=
  .next (s.withAcc uid a fun h x =>
    match x.kind with
    | .atomic op =>
      if x.space == .glob && s.performReady h x && s.served h x then
        match s.homeFor h x with
        | (s1, .ok hm) => s1.atomicAt h x op hm
        | (s1, .error _) => s1
      else s
    | _ => s)

/-- Whether an access's data at a place of slice memory is uncorrectable (06/R155). -/
def State.slmRefuses (s : State) (x : Access) (p : Nat) : Bool := x.kind != .store && s.slmBad p x.size

/-- A load, store or atomic performed at its slice: no lease, no GWCT (08/R250). -/
def State.sliceAt (s : State) (h : Sheaf) (x : Access) (p : Nat) : State :=
  match x.kind with
  | .load => s.loadDone h x (s.slmRead p x.size)
  | .store => (s.slmWrite p x.bytes).putSheaf (h.dropAcc x.id)
  | .atomic op =>
    let old := BitVec.ofNat 32 (s.mm.slm.readNat p 4)
    let new := atomicNew op old (x.data.truncate 32) ((x.data >>> 32).truncate 32)
    let ret := if x.undef then (freeWord s.ctl.free).toNat else old.toNat
    let h1 := match x.dest with | some d => h.receive x.id.lid d 4 ret | none => h
    ((if x.undef then s.draw 1 else s).slmWrite p (bvLe new 4)).putSheaf (h1.dropAcc x.id)

/-- SLICE_ACCESS_PERFORM (08/R250). -/
def execSliceAccessPerform (uid : Nat) (a : AccId) (s : State) : Out :=
  .next (s.withAcc uid a fun h x =>
    match x.space, s.slmPos h.ctx x.addr x.size with
    | .slm, some p =>
      if (if x.kind == .load then h.loadReady x else s.performReady h x) && s.served h x && !s.slmRefuses x p then s.sliceAt h x p else s
    | _, _ => s)

/-- A home grants a copy to the L1 of a load that has none (08/R245). -/
def State.fillFor (s : State) (uid : Nat) (a : AccId) : State :=
  s.withAcc uid a fun h x =>
    if x.space == .glob && h.loadReady x && x.ch != 3 && x.ch != 1 && !(h.forwards x).all (·.isSome) &&
        (s.copyFor h x).isNone && s.served h x then
      match s.homeFor h x with
      | (s1, .ok hm) =>
        if s1.inFlight (s1.l1Of h.core) hm.asid hm.line then s1
        else (s1.grant hm).1.putCopy (s1.l1Of h.core) hm (s1.grant hm).2
      | (s1, .error _) => s1
    else s

/-- EXPIRE (08/R246). -/
def execExpire (l1 asid line : Nat) (s : State) : Out :=
  .next (s.dropCopies fun c => c.l1 == l1 && c.asid == asid && c.line == line)

/-! ### The operand log -/

/-- Add a page request, once. -/
def State.askPage (s : State) (r : PageReq) : State :=
  if s.flt.reqs.contains r then s else { s with flt := { s.flt with reqs := s.flt.reqs ++ [r] } }

/-- Enter a lane's access into the operand log: into the entry of its instruction, page and state, or a new one (02/R42,
17/R383). -/
def State.logAccess (s : State) (h : Sheaf) (x : Access) (state cause : Nat) : State :=
  let page := x.addr / 65536
  let same := fun (e : LogEntry) => e.uid == h.uid && e.page == page && e.state == state && e.cause == cause && e.unit == x.id.seq
  let addr : Nat × DWord := (x.id.lid, BitVec.ofNat 64 x.addr)
  let s1 := s.putSheaf (h.modAcc x.id fun y => { y with stage := .logged y.stage.sent })
  if s.flt.log.any same then
    let grow := fun (e : LogEntry) => if same e then { e with accs := e.accs ++ [x.id], addrs := e.addrs ++ [addr] } else e
    { s1 with flt := { s1.flt with log := s1.flt.log.map grow } }
  else
    let e : LogEntry := ⟨h.uid, h.core, s.ctl.nextId, x.insn, x.xmem, page, state, [x.id], [addr], x.pc, cause, x.id.seq⟩
    State.fresh { s1 with flt := { s1.flt with log := s1.flt.log ++ [e] } } 1

/-- What a refused access does: a page fault waits for its page, the rest is unserviceable (17/R382, 06/R155). -/
def State.logRefused (s : State) (h : Sheaf) (x : Access) (r : Refused) : State :=
  match r with
  | .page => (s.logAccess h x 1 6).askPage ⟨.core h.core, h.ctx, x.addr / 65536⟩
  | .permission => s.logAccess h x 3 6
  | .data => s.logAccess h x 3 0x12

/-- Whether an entry is a write of the sheaf that a load to its line may not go into the log ahead of: its replay would not see it
(06/R150). -/
def MqEntry.goesFirst (e : MqEntry) (x : Access) : Bool :=
  match e with
  | .acc y => y.kind != .load && !y.stage.logged? && y.sameLine x
  | _ => false

/-- Whether an access is at the point where it needs its home, or a copy with a bad sector. -/
def State.atHome (s : State) (h : Sheaf) (x : Access) : Bool :=
  x.space == .glob && s.served h x &&
  (if x.kind == .load then
     h.loadReady x && !(h.forwards x).all (·.isSome) && !((h.before x.id).any fun e => e.goesFirst x) &&
       match s.copyFor h x with | some c => badIn c.bad (x.addr % 128) x.size | none => true
   else h.reaches x && !s.waitsTurn h x ((x.stage.sent).getD 0) fun y => !y.stage.logged?)

/-- Whether an operation of a sheaf is suspended on a page. -/
def State.hangs (s : State) (uid : Nat) : Bool := s.eng.ops.any fun (o : Op) => o.sheaf == uid && o.live && o.susp

/-- Whether an access goes into the log behind others of its sheaf, and the latest of them that it goes behind: a logged access
before it to its line, whether it has been drained itself or not (17/R384); before a stop, any that an unsatisfied marker keeps it
behind, as well as a suspended operation that the marker waits for (08/R262; log entry 67). -/
def State.logBehind (s : State) (h : Sheaf) (x : Access) : Option (Option Access) :=
  if x.stage.logged? then none
  else
    let es := h.before x.id
    let marked := h.stop.isSome && x.stage == .queued && es.any fun e => e.isAcquire || e.isRelease
    let logged := es.filterMap fun e => match e with
      | .acc y => if y.stage.logged? && (y.sameLine x || marked) then some y else none
      | _ => none
    match logged.getLast? with
    | some y => some (some y)
    | none => if marked && s.hangs h.uid then some none else none

/-- OPERAND_LOG_ENTRY (02/R42): an access whose home or slice refuses it is logged, and one behind a logged access to its
line, while the log has room. -/
def execOperandLogEntry (uid : Nat) (a : AccId) (s : State) : Out :=
  .next (s.withAcc uid a fun h x =>
    if s.logFull h.core then s
    else match s.logBehind h x with
      | some behind =>
        let waits := behind.any fun y => y.addr / 65536 == x.addr / 65536 &&
          s.flt.log.any fun e => e.uid == uid && e.state == 1 && e.accs.contains y.id
        s.logAccess h x (if waits then 1 else 2) 6
      | none =>
        if x.space == .slm then
          match s.slmPos h.ctx x.addr x.size with
          | some p =>
            if (if x.kind == .load then h.loadReady x else s.performReady h x) && s.slmRefuses x p then s.logAccess h x 3 0x12 else s
          | none => s
        else if s.atHome h x then
          if (s.copyFor h x).isSome && x.kind == .load then s.logRefused h x .data
          else match s.homeFor h x with
            | (_, .ok _) => s
            | (s1, .error r) => s1.logRefused h x r
        else s)

/-- Take an access out of an entry of a sheaf's log. -/
def State.unlog (s : State) (uid seq : Nat) (x : Access) : State :=
  { s with flt := { s.flt with log := s.flt.log.map fun e =>
      if e.uid == uid && e.seq == seq then { e with
        accs := e.accs.filter (· != x.id)
        addrs := e.addrs.filter fun p => !(p.1 == x.id.lid && p.2 == BitVec.ofNat 64 x.addr) } else e } }

/-- Whether a logged access may be performed by its replay: the markers before it have been satisfied, no earlier access of the
sheaf to its bytes is left, and what has stood in a copy of the line goes first (08/R241 to R244; 17/R384; log entry 59). -/
def State.replayReady (s : State) (h : Sheaf) (x : Access) (hm : Option Home) : Bool :=
  !((h.before x.id).any fun e => e.isAcquire || (x.kind != .load && e.isRelease) ||
      match e with | .acc y => y.overlaps x | _ => false) &&
  match hm with
  | none => true
  | some m => if x.kind == .load then !s.inFlight (s.l1Of h.core) m.asid m.line
    else !s.waitsTurn h x ((x.stage.sent).getD s.ctl.nextId) fun _ => true

/-- Replay one lane's access of an entry (17/R384): performed now, a store by way of a live copy as a Drain writes it (08/R242);
waiting for its page again; or found unserviceable. -/
def State.replayAcc (s : State) (uid seq : Nat) (a : AccId) : State :=
  s.withAcc uid a fun h x =>
    if !s.replayReady h x none || !s.served h x then s
    else match x.space with
    | .slm => match s.slmPos h.ctx x.addr x.size with
      | some p => if s.slmRefuses x p then (s.unlog uid seq x).logAccess h x 3 0x12 else (s.unlog uid seq x).sliceAt h x p
      | none => (s.unlog uid seq x).logAccess h x 3 6
    | .glob => match s.homeFor h x with
      | (s1, .ok hm) =>
        if !s1.replayReady h x (some hm) then s1
        else match x.kind with
          | .load => (s1.unlog uid seq x).loadAt h x hm
          | .store => ((s1.unlog uid seq x).writeCopy (s1.l1Of h.core) (s1.asidOf h.ctx) (x.addr / 128) (x.addr % 128) x.bytes).storeAt h x hm
          | .atomic op => (s1.unlog uid seq x).atomicAt h x op hm
      | (s1, .error .page) =>
        ({ s1 with flt := { s1.flt with log := s1.flt.log.map fun e => if e.uid == uid && e.seq == seq then { e with state := 1 } else e } } : State).askPage
          ⟨.core h.core, h.ctx, x.addr / 65536⟩
      | (s1, .error r) => (s1.unlog uid seq x).logRefused h x r

/-- Entries that nothing is left of leave the log. -/
def State.trimLog (s : State) : State :=
  { s with flt := { s.flt with log := s.flt.log.filter fun e => e.state == 3 || !e.accs.isEmpty } }

/-- OPERAND_LOG_REPLAY (17/R384): the oldest entry of its sheaf, once its page is there; one that is older than the handler
its sheaf runs waits for the ERET (17/R382). -/
def execOperandLogReplay (uid seq : Nat) (s : State) : Out :=
  .next (match s.sheaf? uid, s.flt.log.find? fun e => e.uid == uid && e.state != 3 with
    | some h, some e =>
      if e.seq == seq && e.state == 2 && !e.asleep h then
        (e.accs.foldl (fun (t : State) (a : AccId) => t.replayAcc uid seq a) s).trimLog
      else s
    | _, _ => s)

/-- The lane of lowest LID of some entries, with its address. -/
def lowestLane (es : List LogEntry) : DWord :=
  match sortBy (fun (p : Nat × DWord) => p.1) (es.flatMap fun (e : LogEntry) => e.addrs) with
  | p :: _ => p.2
  | [] => 0

/-- The entries of the oldest instruction among some entries. -/
def oldestUnit (es : List LogEntry) : List LogEntry := es.filter fun e => es.all fun f => e.unit ≤ f.unit

/-- LATE_TRAP (02/R41, R42; 17/R382): at the boundary, the oldest instruction with unserviceable entries or causes of its own to
raise traps: the lowest cause among them all, with the lowest lane's address; LATE says that the log has an entry of that cause. Its
refused lanes are removed whole; every other entry stays. A draining sheaf has no boundary left: its entries only enter the ring. -/
def execLateTrap (uid : Nat) (s : State) : Out :=
  .next (match s.sheaf? uid with
    | none => s
    | some h =>
      let es := oldestUnit (s.lateEntries h)
      match es.find? fun e => es.all fun f => e.cause ≤ f.cause with
      | none => s
      | some e =>
        let lanes := es.flatMap fun (x : LogEntry) => x.accs.map fun (a : AccId) => a.lid
        let gone := fun (a : AccId) => a.seq == e.unit && lanes.contains a.lid
        let h1 : Sheaf := { h with
          mq := h.mq.filter fun m => match m with | .acc x => !gone x.id | _ => true
          raised := h.raised.filter fun x => x.unit != e.unit }
        let causes := (es.map fun (x : LogEntry) => x.cause).dedup.map fun c => (c, lowestLane (es.filter fun x => x.cause == c))
        let keep := fun (x : LogEntry) => !(x.uid == uid && x.unit == e.unit && x.state == 3)
        let rest := fun (x : LogEntry) => if x.uid == uid && x.unit == e.unit then { x with
          accs := x.accs.filter fun a => !gone a, addrs := x.addrs.filter fun p => !lanes.contains p.1 } else x
        let s1 : State := { s with flt := { s.flt with log := (s.flt.log.filter keep).map rest } }
        if h.run == .draining then (s1.violateAll h causes).trimLog.putSheaf h1
        else if h.run == .running && h.path.isSome && h.chain.pc0.isNone && h.arr.isNone then
          (s1.violateAll h causes).trimLog.takeTrap h1 e.cause (lowestLane (es.filter fun x => x.cause == e.cause)) e.insn
            (es.any fun x => x.cause == e.cause && s.flt.log.contains x) e.pc e.pc
        else s)

/-! ### Barrier words at their scratchpad (06/R170 to R173) -/

/-- The fields of a barrier word (06/R170). -/
def barPh (w : DWord) : Nat := (w.extractLsb' 0 4).toNat
/-- Arrivals pending. -/
def barArr (w : DWord) : Nat := (w.extractLsb' 16 16).toNat
/-- Arrival reload value. -/
def barAri (w : DWord) : BitVec 16 := w.extractLsb' 32 16
/-- Whether a reserved bit is set. -/
def barBad (w : DWord) : Bool := w.extractLsb' 48 16 != 0 || w.extractLsb' 4 12 != 0

/-- The word after an arrival, with ARR above 0, and whether the phase completed (06/R172). -/
def barArrive (w : DWord) : DWord × Bool :=
  if barArr w == 1 then
    (w.extractLsb' 48 16 ++ barAri w ++ barAri w ++ w.extractLsb' 4 12 ++ (w.extractLsb' 0 4 + 1 : BitVec 4), true)
  else (w.extractLsb' 48 16 ++ barAri w ++ (w.extractLsb' 16 16 - 1 : BitVec 16) ++ w.extractLsb' 0 16, false)

/-- What the completion of a phase of a word does to a handle that waits on the word: DONE; the handle of a stopped sheaf
counts the phase until the sheaf resumes (06/R173). -/
def BarHandle.phase (b : BarHandle) (stopped : Bool) (holder off : Nat) : BarHandle :=
  if b.holder == holder && b.off == off && b.code == 1 then
    (if stopped then { b with passed := b.passed + 1 } else { b with code := 0 })
  else b

/-- Change every barrier handle and record a sheaf holds. -/
def Sheaf.mapBars (h : Sheaf) (f : BarHandle → BarHandle) : Sheaf :=
  { h with
    h := h.h.map fun x => match x with | .bar b => .bar (f b) | x => x
    bar := h.bar.map f
    arr := h.arr.map fun x => match x with | .made b k => .made (f b) k | x => x }

/-- A phase of a word completes (06/R173). -/
def State.phaseDone (s : State) (holder off : Nat) : State :=
  { s with sheaves := s.sheaves.map fun h => h.mapBars fun b => b.phase (!h.resident) holder off }

/-- An arrival at the word at a place (06/R172): the cause of an error response, or the record of the arrival. On a word with
reserved bits set the results are free (06/R170); for a record that 06/R169 leaves undefined they are too, with the word where it
lies in the sheaf's own allotment, and no fault is raised. -/
def State.arriveWord (s : State) (a uid : Nat) (b : BarHandle) : State × (Nat ⊕ BarHandle) :=
  let w := BitVec.ofNat 64 (leNat (s.scrRead a 8))
  let r := if barArr w == 0 then (w, false) else barArrive w
  if s.scrBad a 8 then (s, .inl 0x12)
  else if barBad w || b.bad then
    let own := b.bad && b.holder == uid
    let s1 := (s.draw 10).scrWrite a (if own then freeBytes (s.ctl.free + 2) 8 else bvLe r.1 8) uid
    (if r.2 && !own && !barBad w then s1.phaseDone b.holder b.off else s1, .inr { b with
      ph := (freeByte s.ctl.free).toNat % 16, code := bitNat (freeBit (s.ctl.free + 1)), bad := true })
  else if barArr w == 0 then (s, .inl 0x0E)
  else
    let s1 := s.scrWrite a (bvLe r.1 8) uid
    (if r.2 then s1.phaseDone b.holder b.off else s1, .inr { b with ph := barPh w, code := if r.2 then 0 else 1 })

/-! ### Channels and waits -/

/-- A peer request met an uncorrectable word: the lane's cause 0x12 is raised at the next boundary, since its unit has retired; not
from the operand log, which holds global accesses only (06/R155, 20/R421; log entry 79). -/
def State.lateChan (s : State) (r : ChanReq) : State :=
  s.modSheaf r.uid fun h => { h with raised := h.raised ++ [⟨r.uid, r.src, 0, r.insn, 0, 0, 3, [], [(r.id.lid, r.trapa)], r.pc, 0x12, r.id.seq⟩] }

/-- Perform a request at its target scratchpad: its response (08/R251, R253). -/
def State.deliverReq (s : State) (r : ChanReq) : State × ChanResp :=
  match r.kind with
  | .acc k =>
    let y := s.scrAccess r.uid k r.addr r.size r.data
    (y.1, ⟨r, y.2.1, y.2.2⟩)
  | .arrive =>
    let off := (r.trapa.extractLsb' 0 32).toNat
    let y := s.arriveWord r.addr r.uid ⟨off, (r.trapa.extractLsb' 32 32).toNat, false, r.holder, 0, 1, 0, r.undef⟩
    let res := match y.2 with | .inl c => Arrival.refused c false | .inr b => .made b false
    (y.1.modSheaf r.uid fun h => { h with arr := some res }, ⟨r, 0, false⟩)
  | .opRead _ _ => (s, ⟨r, leNat (s.scrRead r.addr r.size), s.scrBad r.addr r.size⟩)
  | .opWrite _ _ => (s.plainWrite r.addr (bvLe r.data r.size) r.uid, ⟨r, 0, false⟩)

/-- DELIVER (08/R251): the request at the head of a channel is performed at the target scratchpad, and its response or
acknowledgement enters the return FIFO. -/
def execDeliver (src dst : Nat) (s : State) : Out :=
  .next (match s.mm.chans.find? fun r => r.src == src && r.dst == dst with
    | none => s
    | some r =>
      let y := State.deliverReq { s with mm := { s.mm with
        chans := s.mm.chans.eraseP fun (x : ChanReq) => x.src == src && x.dst == dst } } r
      { y.1 with mm := { y.1.mm with backs := y.1.mm.backs ++ [y.2] } })

/-- Whether a request is for the other half of a lane's b128 access. -/
def ChanReq.twin (r q : ChanReq) : Bool :=
  q.uid == r.uid && q.id.seq == r.id.seq && q.id.lid == r.id.lid && q.id.part != r.id.part

/-- A lane's response reaches the sheaf: the destination is written; the first half of a b128 access waits for the second, and
a lane with a bad half is removed whole (02/R40). -/
def State.accAnswer (s : State) (b : ChanResp) : State :=
  let r := b.req
  let v : Nat := if r.undef then (Config.freeValue s.ctl.free).toNat % 256 ^ r.size else b.val
  let s0 := if r.undef then s.draw 1 else s
  let got : Option DWord := if b.bad then none else some (BitVec.ofNat 64 v)
  let set := fun (q : ChanReq) => if r.twin q then { q with half := some got } else q
  if s.requests.any r.twin then
    { s0 with mm := { s0.mm with
        chans := s0.mm.chans.map set, backs := s0.mm.backs.map fun (x : ChanResp) => { x with req := set x.req } } }
  else if b.bad || r.half == some none then s0.lateChan r
  else match r.dest with
    | none => s0
    | some d => s0.modSheaf r.uid fun h =>
      let h1 := match r.half with | some (some w) => h.receive r.id.lid (d.other r.id.part) 8 w.toNat | _ => h
      h1.receive r.id.lid d r.size v

/-- The response of an arrival reaches the sheaf. -/
def Arrival.returned : Arrival → Arrival
  | .refused c _ => .refused c true
  | .made b _ => .made b true
  | x => x

/-- A late result arrives: its registers are pending no longer (02/R31). -/
def State.resultArrives (s : State) (uid : Nat) : State := s.modSheaf uid fun h => { h with late := h.late.drop 1 }

/-- Whether a marker's number is `seq`. -/
def MqEntry.marks (e : MqEntry) (seq : Nat) : Bool :=
  match e with
  | .release n _ | .acqOf n _ | .acqFence n _ => n == seq
  | .acc _ => false

/-- Whether an entry is a load or an atomic still to be performed. -/
def MqEntry.reads (e : MqEntry) : Bool :=
  match e with
  | .acc x => x.kind != .store
  | _ => false

/-- Whether the condition of a marker holds (08/R255, 06/R165, R166). -/
def State.markerOk (s : State) (h : Sheaf) (e : MqEntry) (before : List MqEntry) : Bool :=
  match e with
  | .release n scp => s.releaseOk h before n scp
  | .acqOf n _ =>
    !(h.mq.any fun x => match x with | .acc a => a.id.seq + 1 == n | _ => false) &&
    !(s.eng.ops.any fun (o : Op) => o.sheaf == h.uid && o.live && o.seq + 1 == n) &&
    !(s.requests.any fun (r : ChanReq) => r.uid == h.uid && r.id.seq + 1 == n)
  | .acqFence n _ =>
    !(before.any fun x => x.reads || x.isAcquire) &&
    !(s.requests.any fun (r : ChanReq) => r.earlier h.uid n && r.dest.isSome)
  | .acc _ => false

/-- WAIT (08/R255): a marker whose condition holds leaves the queue. -/
def execWait (uid seq : Nat) (s : State) : Out :=
  .next (match s.sheaf? uid with
    | none => s
    | some h =>
      match h.mq.find? (·.marks seq) with
      | none => s
      | some e =>
        if s.markerOk h e (h.mq.takeWhile fun x => !x.marks seq) then
          s.putSheaf { h with mq := h.mq.filter fun x => !x.marks seq }
        else s)

end Sys2Proof.Machine
end

