-- ==== Sys2Proof/Machine/Sync.lean ====
section
/-! DEFINITION. The group SYNC: fences, barrier words, transaction barriers, WAITA and handles (06/R164 to R184). HCAN
stands with the engines in EngSteps.lean. -/

namespace Sys2Proof.Machine

/-! ### Fences -/

/-- The markers of a fence (06/R165, R166; 08/R255). -/
def State.fenceAt (s : State) (h : Sheaf) (rel acq : Bool) (scp : BitVec 3) : State :=
  let h1 := h.ungather
  let ms := (if rel then [MqEntry.release h.nseq scp] else []) ++ (if acq then [MqEntry.acqFence (h.nseq + 1) scp] else [])
  (if rel then s.sendBatches h.uid else s).done { h1 with mq := h1.mq ++ ms, nseq := h.nseq + 2 }

/-- FENCE (06/R164). -/
def execFence (o : FSY) (s : State) : Out :=
  issue (.fence o) s fun h s => s.fenceAt h (o.ord.getLsbD 1) (o.ord.getLsbD 0) o.scp

/-- FENCESC (06/R167): a release, the drop of the ASID's lines, the global ones too (08/R258: the next load of any line is
served at the home), an acquire; at sheaf and core scope a FENCE acqrel. -/
def execFencesc (o : FSY) (s : State) : Out :=
  issue (.fencesc o) s fun h s =>
    if o.scp ≤ 1 then s.fenceAt h true true o.scp
    else s.afterRelease h o.scp false fun h s =>
      (s.dropCopies fun c => c.l1 == s.l1Of h.core && (c.asid == 0 || c.asid == s.asidOf h.ctx)).done h

/-- OFENCE (06/R168): the next engine command waits for the accesses issued so far. Own-scratch writes have been performed
at their issue, so a command after it reads their new bytes. -/
def execOfence (o : FSY) (s : State) : Out :=
  issue (.ofence o) s fun h s => s.done { h.ungather with ofence := some h.nseq, unfenced := [] }

/-! ### Barrier words -/

/-- TRAPA of a barrier handle or record (06/R173). -/
def BarHandle.trapa (b : BarHandle) : DWord := peerAddr b.member b.off

/-- The causes of a barrier word's address (06/R171). -/
def State.barTarget (s : State) (h : Sheaf) (o : FSY) : Option ScrTarget × List (Nat × DWord) :=
  let peer := if o.sb == 0 then none else some (h.getS o.sb.toNat).toNat
  let off := (h.getS o.sa.toNat).toNat
  match s.target h peer with
  | none => (none, accCauses off 8 false 7 (scrTrapa peer off))
  | some t => (some t, t.causes off 8)

/-- Go on from the outcome of an arrival: its record, or the trap of its error response (06/R172). -/
def State.arrived (s : State) (h : Sheaf) (i : Instr) (trapa : DWord) (r : Nat ⊕ BarHandle) (k : BarHandle → Sheaf → State → State) :
    State :=
  match r with
  | .inr b => k b h s
  | .inl c => if c == 0x12 then s.trapNow h i c trapa else s.decodeTrap h (encode i) c

/-- The request that carries an arrival (08/R251). -/
def arriveReq (s : State) (h : Sheaf) (i : Instr) (t : ScrTarget) (off : Nat) : ChanReq :=
  { src := h.core, dst := t.core, uid := h.uid, id := ⟨h.nseq, 1024, 0⟩, kind := .arrive, addr := t.base + off, size := 8
    data := 0, dest := none, holder := t.holder, insn := encode i, pc := h.unitPc, trapa := scrTrapa t.member off
    undef := s.clouded h 1 (t.base + off) 8, half := none }

/-- An arrival at a barrier word, after its release (06/R165, R172): `k` goes on with the record of the arrival. At a peer's
word, or the sheaf's own member index, it goes over the channel, and the form waits for the response (08/R251). -/
def State.arriveAt (s : State) (h : Sheaf) (i : Instr) (o : FSY) (k : BarHandle → Sheaf → State → State) : State :=
  match h.arr with
  | some .sent | some (.refused _ false) | some (.made _ false) => s.hold h false
  | some (.refused c true) =>
    s.arrived { h with arr := none } i (scrTrapa (some (h.getS o.sb.toNat).toNat) (h.getS o.sa.toNat).toNat) (.inl c) k
  | some (.made b true) => k b { h with arr := none } s
  | none =>
    match s.barTarget h o with
    | (some t, []) =>
      if t.held then s.hold h true
      else if t.member.isNone && s.ownBehind h then s.hold h false
      else s.afterRelease h o.scp true fun h s =>
        let off := (h.getS o.sa.toNat).toNat
        let s0 := s.touch h 1 (t.base + off) 8 true
        let h0 := (h.retile s0).ungather
        if t.member.isSome then
          ({ s0 with mm := { s0.mm with chans := s0.mm.chans ++ [arriveReq s h i t off] } } : State).hold
            { h0 with arr := some .sent, nseq := h.nseq + 2 } false
        else
          let cloud := s.clouded h 1 (t.base + off) 8
          let b : BarHandle := ⟨off, (h.stook.map (·.2)).getD 0, true, t.holder, 0, 1, 0, cloud⟩
          -- the sheaf itself may hold earlier handles of the completed phase
          let r := (s0.putSheaf h0).arriveWord (t.base + off) h.uid b
          r.1.arrived ((r.1.sheaf? h.uid).getD h0) i (scrTrapa none off) r.2 k
    | (_, cs) => s.raise h (encode i) cs

/-- What a wait on a handle of a word with reserved bits answers: any status (06/R170). -/
def State.barCode (s : State) (b : BarHandle) : State × Nat :=
  if b.bad && b.code ≤ 1 then (s.draw 1, bitNat (freeBit s.ctl.free)) else (s, b.code)

/-- BAR (06/R171, R172): arrives once, then waits on the record held in the sheaf. -/
def execBar (o : FSY) (s : State) : Out :=
  issue (.bar o) s fun h s =>
    match h.bar with
    | some b =>
      let c := s.barCode b
      if c.2 == 1 then c.1.hold h true
      else if c.2 == 0 then c.1.done { h.ungather with bar := none }
      else s.trapNow { h with bar := none } (.bar o) 7 b.trapa
    | none => s.arriveAt h (.bar o) o fun b h s =>
      if b.code == 0 then s.done h else s.hold { h with bar := some b } true

/-- Free the export slots no handle of the context holds any more (06/R184). -/
def State.collect (s : State) (ctx : Nat) : State :=
  let held := fun (id : Nat) => s.sheaves.any fun h => h.ctx == ctx && h.h.any fun x => x == .op id
  s.modCtx ctx fun c => { c with exports := c.exports.map fun e => match e.op with
    | some id => if held id then e else { e with op := none, gen := e.gen + 1 }
    | none => e }

/-- BARA (06/R172). -/
def execBara (o : FSY) (s : State) : Out :=
  issue (.bara o) s fun h s =>
    s.arriveAt h (.bara o) o fun b h s => (s.done (h.setH o.h.toNat (.bar b))).collect h.ctx

/-- BARW (06/R172, R173). -/
def execBarw (o : FSY) (s : State) : Out :=
  issue (.barw o) s fun h s =>
    match h.getH o.h.toNat with
    | .bar b =>
      let c := s.barCode b
      if c.2 == 1 then c.1.hold h true
      else if c.2 == 4 then s.trapNow h (.barw o) 7 b.trapa
      else c.1.done h.ungather
    | _ => s.decodeTrap h (encode (.barw o)) 9

/-- BART (06/R172, R173). -/
def execBart (o : FSY) (s : State) : Out :=
  issue (.bart o) s fun h s =>
    match h.getH o.h.toNat with
    | .bar b =>
      let c := s.barCode b
      if c.2 == 4 then s.trapNow h (.bart o) 7 b.trapa
      else c.1.done (h.ungather.setS o.sa.toNat (boolWord (c.2 == 0)))
    | _ => s.decodeTrap h (encode (.bart o)) 9

/-! ### Transaction barriers -/

/-- A transaction barrier (06/R174). -/
structure Txb where
  ph : BitVec 4
  err : Bool
  trn : Bool
  arr : BitVec 24
  sec : BitVec 40
  ari : BitVec 24
deriving DecidableEq, Repr

/-- Read the object. -/
def Txb.ofBits (x : BitVec 128) : Txb :=
  ⟨x.extractLsb' 0 4, x.getLsbD 4, x.getLsbD 5, x.extractLsb' 8 24, x.extractLsb' 32 40, x.extractLsb' 72 24⟩

/-- The object's bits, reserved bits zero. -/
def Txb.bits (t : Txb) : BitVec 128 :=
  (0 : BitVec 32) ++ t.ari ++ t.sec ++ t.arr ++ (0 : BitVec 2) ++ BitVec.ofBool t.trn ++ BitVec.ofBool t.err ++ t.ph

/-- The update of 06/R176, with ARR above 0 where an arrival is counted. -/
def Txb.update (t : Txb) (arrive : Bool) (n : Int) : Txb :=
  let s := t.sec.toInt + n
  let t1 : Txb := { t with
    arr := if arrive then t.arr - 1 else t.arr
    err := t.err || decide (s < -2 ^ 39) || decide (2 ^ 39 ≤ s)
    sec := BitVec.ofInt 40 s }
  if t1.arr == 0 && t1.sec == 0 then { t1 with ph := t1.ph + 1, arr := t1.ari } else t1

/-- The TXB at an absolute scratch address. -/
def State.txb (s : State) (a : Nat) : Txb := Txb.ofBits (BitVec.ofNat 128 (leNat (s.scrRead a 16)))

/-- Write a TXB. -/
def State.putTxb (s : State) (a : Nat) (t : Txb) (uid : Nat) : State := s.scrWrite a (bvLe t.bits 16) uid

/-- Write a TXB by a form of its sheaf: free bytes where 06/R169 leaves the object undefined. -/
def State.putOwnTxb (s : State) (cloud : Bool) (a : Nat) (t : Txb) (uid : Nat) : State :=
  if cloud then (s.draw 16).scrWrite a (freeBytes s.ctl.free 16) uid else s.putTxb a t uid

/-- Whether the value of a form's own-scratch word is undefined (06/R169), with the draw of it. -/
def State.cloudAt (s : State) (h : Sheaf) (a n : Nat) (wr : Bool) : State × Sheaf :=
  let s1 := s.touch h 1 a n wr
  (s1, h.retile s1)

/-- A form on a TXB at an own offset (06/R175): held behind the sheaf's markers and its requests to itself (06/R158); cause
0x04 or 0x08 for the offset. `k` is given whether 06/R169 leaves what it reads undefined. -/
def State.onTxb (s : State) (h : Sheaf) (i : Instr) (o : FSY) (wr : Bool) (k : Nat → Bool → Sheaf → State → State) : State :=
  let off := (h.getS o.sa.toNat).toNat
  match accCauses off 16 (decide (off + 16 ≤ h.scrBytes)) 8 (BitVec.ofNat 64 off) with
  | [] =>
    if (h.mq.any fun e => e.isAcquire || e.isRelease) || s.ownBehind h then s.hold h false
    else if s.scrBad (h.scrAbs off) 16 then s.trapNow h i 0x12 (BitVec.ofNat 64 off)
    else
      let c := s.cloudAt h (h.scrAbs off) 16 wr
      k (h.scrAbs off) (s.clouded h 1 (h.scrAbs off) 16) c.2 c.1
  | cs => s.raise h (encode i) cs

/-- TXBI (06/R175): undefined while a copy that names the TXB is in flight. -/
def execTxbi (o : FSY) (s : State) : Out :=
  issue (.txbi o) s fun h s => s.onTxb h (.txbi o) o true fun a cloud h s =>
    let n := (h.getS o.sb.toNat).extractLsb' 0 24
    let off := (h.getS o.sa.toNat).toNat
    let s1 := s.putOwnTxb cloud a ⟨0, false, false, n, 0, n⟩ h.uid
    let s2 := if s.eng.ops.any fun (p : Op) => p.live && p.txbs.contains a then
        (s1.draw 16).scrWrite a (freeBytes s1.ctl.free 16) h.uid else s1
    s2.done { h with txbs := off :: h.txbs.filter (· != off) }

/-- TXBE (06/R175). -/
def execTxbe (o : FSY) (s : State) : Out :=
  issue (.txbe o) s fun h s => s.onTxb h (.txbe o) o true fun a cloud h s =>
    (s.putOwnTxb cloud a ((s.txb a).update false (h.getS o.sb.toNat).toInt) h.uid).done h

/-- TXBA (06/R175, R176): a release, then the arrival. On an object that 06/R169 leaves undefined it raises no fault. -/
def execTxba (o : FSY) (s : State) : Out :=
  issue (.txba o) s fun h s => s.onTxb h (.txba o) o true fun a cloud h s =>
    s.afterRelease h o.scp false fun h s =>
      if (s.txb a).arr == 0 && !cloud then s.decodeTrap h (encode (.txba o)) 0x0E
      else (s.putOwnTxb cloud a ((s.txb a).update true (h.getS o.sb.toNat).toInt) h.uid).done h.ungather

/-- TXBW (06/R175): waits until PH is not q, then acquires. -/
def execTxbw (o : FSY) (s : State) : Out :=
  issue (.txbw o) s fun h s => s.onTxb h (.txbw o) o false fun a cloud h s =>
    let ph := if cloud then (freeWord s.ctl.free).extractLsb' 0 4 else (s.txb a).ph
    let s1 := if cloud then s.draw 1 else s
    if ph == (h.getS o.sb.toNat).extractLsb' 0 4 then s1.hold h true else s1.done h.ungather

/-- TXBT (06/R175). -/
def execTxbt (o : FSY) (s : State) : Out :=
  issue (.txbt o) s fun h s => s.onTxb h (.txbt o) o false fun a cloud h s =>
    let w := if cloud then freeWord s.ctl.free else (s.txb a).bits.extractLsb' 0 32
    (if cloud then s.draw 1 else s).done (h.setS o.sb.toNat w)

/-! ### WAITA -/

/-- The condition of WAITA (06/R178). -/
def waitCond (cmp : BitVec 5) (w x : Word) : Bool :=
  match cmp.toNat % 4 with
  | 0 => w == x
  | 1 => w != x
  | 2 => decide (x ≤ w)
  | _ => !w.slt x

/-- WAITA (06/R178). -/
def execWaita (o : FSY) (s : State) : Out :=
  issue (.waita o) s fun h s =>
    let off := (h.getS o.sa.toNat).toNat
    match accCauses off 4 (decide (off + 4 ≤ h.scrBytes)) 8 (BitVec.ofNat 64 off) with
    | [] =>
      if (h.mq.any fun e => e.isAcquire) || s.ownBehind h then s.hold h true
      else if s.scrBad (h.scrAbs off) 4 then s.trapNow h (.waita o) 0x12 (BitVec.ofNat 64 off)
      else
        let cloud := s.clouded h 1 (h.scrAbs off) 4
        let c := s.cloudAt h (h.scrAbs off) 4 false
        let w := if cloud then freeWord c.1.ctl.free else BitVec.ofNat 32 (leNat (s.scrRead (h.scrAbs off) 4))
        let s1 := if cloud then c.1.draw 1 else c.1
        if waitCond o.h w (h.getS o.sb.toNat) then s1.done c.2.ungather else s1.hold c.2 true
    | cs => s.raise h (encode (.waita o)) cs

/-! ### Handles -/

/-- The status word of a handle (06/R180). -/
def State.statusOf (s : State) (x : Handle) : DWord :=
  match x with
  | .empty => 0
  | .op id => ((s.op? id).bind (·.status)).getD 1
  | .bar b => if b.bad && b.code ≤ 1 then BitVec.ofNat 64 (bitNat (freeBit s.ctl.free)) else BitVec.ofNat 64 b.code

/-- The state after a status is read: the free one of a word with reserved bits is another at every read. -/
def State.statusRead (s : State) (x : Handle) : State :=
  match x with
  | .bar b => if b.bad && b.code ≤ 1 then s.draw 1 else s
  | _ => s

/-- Write a status pair; SA = 0 writes nothing (06/R181). -/
def Sheaf.setStatus (h : Sheaf) (sa : BitVec 6) (x : DWord) : Sheaf := if sa == 0 then h else h.setPair sa.toNat x

/-- The sheaf observes a handle: the first time it finds an operation outside PENDING, of a DONE one the flags go to its FFLG
and OPGW to its GW (03/R54; 06/R182; 08/R254). -/
def State.observe (s : State) (h : Sheaf) (x : Handle) : State × Sheaf :=
  match x with
  | .op id =>
    match (s.op? id).bind fun o => o.status.map fun st => (o, st) with
    | some (o, st) =>
      if o.seenBy.contains h.uid then (s, h)
      else
        (s.modOp id fun o => { o with seenBy := o.seenBy ++ [h.uid] },
          if st.extractLsb' 0 3 == 0 then { h.orFlags o.facc with gw := max h.gw o.opgw } else h)
    | none => (s, h)
  | _ => (s, h)

/-- HWAIT (06/R181, R182). -/
def execHwait (o : FSY) (s : State) : Out :=
  issue (.hwait o) s fun h s =>
    let x := h.getH o.h.toNat
    if x == .empty then s.decodeTrap h (encode (.hwait o)) 9
    else if s.hPending x then s.hold h true
    else
      let y := s.observe h.ungather x
      (y.1.statusRead x).done (y.2.setStatus o.sa (s.statusOf x))

/-- HTEST (06/R181, R182). -/
def execHtest (o : FSY) (s : State) : Out :=
  issue (.htest o) s fun h s =>
    let x := h.getH o.h.toNat
    if x == .empty then s.decodeTrap h (encode (.htest o)) 9
    else
      let y := s.observe h x
      (y.1.statusRead x).done (y.2.setStatus o.sa (s.statusOf x))

/-- The slot an export of an operation takes: the one that holds it, or the lowest free one of 1024 (06/R184). -/
def Ctx.exportSlot (c : Ctx) (id : Nat) : Option Nat :=
  match c.exports.find? fun e => e.op == some id with
  | some e => some e.slot
  | none => (List.range 1024).find? fun k => !c.exports.any fun e => e.slot == k && e.op.isSome

/-- The generation of a slot. -/
def Ctx.exportGen (c : Ctx) (slot : Nat) : Word := ((c.exports.find? fun e => e.slot == slot).map (·.gen)).getD 0

/-- Put a record into a slot. -/
def Ctx.exportPut (c : Ctx) (slot id : Nat) : Ctx :=
  { c with exports := ⟨slot, c.exportGen slot, some id⟩ :: c.exports.filter fun e => e.slot != slot }

/-- HEXP (06/R184): cause 0x09 while all 1024 slots are in use, whichever operation is named. -/
def execHexp (o : FSY) (s : State) : Out :=
  issue (.hexp o) s fun h s =>
    match h.getH o.h.toNat, s.ctx? h.ctx with
    | .op id, some c =>
      match (if 1024 ≤ (c.exports.filter fun e => e.op.isSome).length then none else c.exportSlot id) with
      | some k =>
        let token := c.exportGen k ++ BitVec.ofNat 32 k
        (s.modCtx h.ctx fun c => c.exportPut k id).done (h.setStatus o.sa token)
      | none => s.decodeTrap h (encode (.hexp o)) 9
    | _, _ => s.decodeTrap h (encode (.hexp o)) 9

/-- HIMP (06/R184): 0x09 where the sheaf has no context, as HEXP (log entry 57). -/
def execHimp (o : FSY) (s : State) : Out :=
  issue (.himp o) s fun h s =>
    let t := h.getPair o.sa.toNat
    match ((s.ctx? h.ctx).bind fun c => c.exports.find? fun e => e.slot == (t.extractLsb' 0 10).toNat &&
        e.gen == t.extractLsb' 32 32 && t.extractLsb' 10 22 == 0).bind (·.op) with
    | some id => (s.done (h.setH o.h.toNat (.op id))).collect h.ctx
    | none => s.decodeTrap h (encode (.himp o)) 9

end Sys2Proof.Machine
end

