-- ==== Sys2Proof/Machine/Engine.lean ====
section
/-! DEFINITION. What every engine command shares (07/R185 to R195): tensor-table entries, the geometry of tiles, the checks
and translations at submission, and the operation that a command leaves behind. The commands are in EngInstr.lean, the
steps of operations in EngSteps.lean. -/

namespace Sys2Proof.Machine

/-! ### Tensor-table entries (07/R186, R187) -/

/-- Bits of an element of a format code (04/R85). -/
def fmtBits (code : Nat) : Nat :=
  match code with
  | 0 | 0x10 | 0x11 => 32
  | 1 | 2 | 0xE | 0xF => 16
  | 3 | 4 | 8 | 0xC | 0xD => 8
  | 5 | 9 | 0xA | 0xB => 4
  | 6 | 7 => 6
  | _ => 64

/-- Decode the 32 bytes of an entry. -/
def Entry.ofBits (x : BitVec 256) : Entry :=
  let n := fun (lo w : Nat) => (x.extractLsb' lo w).toNat
  { base := n 0 64, rstr := n 64 32, rows := n 96 24, cols := n 120 24
    trow := if n 144 8 == 0 then 256 else n 144 8, tcol := if n 152 8 == 0 then 256 else n 152 8
    scoff := (x.extractLsb' 160 32).toInt, scstr := n 192 16, ver := n 208 16, fmt := n 224 5, spc := n 229 3
    lay := n 232 2, skr := x.getLsbD 234, pmem := n 235 6, rdev := n 241 12 }

/-- The values of an entry that raise cause 0x02 (07/R186). -/
def entryBad (x : BitVec 256) : Bool :=
  x.extractLsb' 253 3 != 0 || decide (3 < (x.extractLsb' 229 3).toNat) || x.extractLsb' 232 2 == 3 ||
  decide (0x13 < (x.extractLsb' 224 5).toNat)

/-- One side of a transfer: space (0 global, 1 own scratch, 2 peer, 3 remote), member, first byte, row stride, bits per
element, first row and column of the tile, and the entry's rows and columns. -/
structure Side where
  sp : Nat
  mem : Nat
  base : Nat
  rstr : Nat
  w : Nat
  r0 : Nat
  c0 : Nat
  rows : Nat
  cols : Nat
deriving DecidableEq, Repr

/-- Bit address of element (r, c) of the tile: columns of a row lie packed from bit 0 upwards (07/R187, 03/R60). -/
def Side.bit (d : Side) (r c : Nat) : Nat := 8 * (d.base + (d.r0 + r) * d.rstr) + d.w * (d.c0 + c)

/-- Rows of a tile of `n` rows that lie inside the entry. -/
def Side.inRows (d : Side) (n : Nat) : Nat := min n (d.rows - d.r0)

/-- Columns of a tile of `n` columns that lie inside the entry. -/
def Side.inCols (d : Side) (n : Nat) : Nat := min n (d.cols - d.c0)

/-- A byte range of a space. A peer address is member · `peerStep` + offset. -/
structure Rng where
  sp : Nat
  a : Nat
  n : Nat
deriving DecidableEq, Repr

/-- What lies between the offsets of two members in a peer address. -/
def peerStep : Nat := 2 ^ 72

/-- The address of a byte of a side within its space. -/
def Side.at (d : Side) (a : Nat) : Nat := if d.sp == 2 then d.mem * peerStep + a else a

/-- The address of a range as a violation or DETAIL gives it (06/R146). -/
def Rng.addr (r : Rng) : DWord :=
  if r.sp == 2 then peerAddr (r.a / peerStep) (r.a % 2 ^ 32) else BitVec.ofNat 64 r.a

/-- The bytes of columns 0 to `nc` of a row. -/
def Side.rowRng (d : Side) (r nc : Nat) : Rng :=
  ⟨d.sp, d.at (d.bit r 0 / 8), (d.bit r nc + 7) / 8 - d.bit r 0 / 8⟩

/-- The tile of an entry named by a tile coordinate word, in grains of `g` to an element (07/R187, R189). -/
def Entry.side (e : Entry) (tc : Word) (w g nr nc : Nat) : Side :=
  { sp := e.spc, mem := e.pmem, base := e.base, rstr := e.rstr, w := w, r0 := (tc.extractLsb' 0 16).toNat * nr
    c0 := (tc.extractLsb' 16 16).toNat * nc * g, rows := e.rows, cols := e.cols * g }

/-- The scale bytes that elements (r, c) to (r, c + nc) of a tile use (07/R187), as addresses from BASE + SCOFF. -/
def Entry.scaleRng (e : Entry) (d : Side) (r nc : Nat) : Rng :=
  let b := (BitVec.ofInt 64 ((e.base : Int) + e.scoff)).toNat
  if e.skr then ⟨e.spc, d.at (b + (d.r0 + r) / 32 * e.scstr + d.c0), nc⟩
  else ⟨e.spc, d.at (b + (d.r0 + r) * e.scstr + d.c0 / 32), (d.c0 + nc + 31) / 32 - d.c0 / 32⟩

/-- The scale byte's address of element (r, c). -/
def Entry.scaleAt (e : Entry) (d : Side) (r c : Nat) : Nat :=
  let b := (BitVec.ofInt 64 ((e.base : Int) + e.scoff)).toNat
  if e.skr then d.at (b + (d.r0 + r) / 32 * e.scstr + (d.c0 + c)) else d.at (b + (d.r0 + r) * e.scstr + (d.c0 + c) / 32)

/-! ### Refusals at the command -/

/-- A cause with its TRAPA, or with none stated. -/
abbrev Refusal1 := Nat × Option DWord

/-- Refuse a command: the causes found, together; a TRAPA no rule states is free (log entry 7). -/
def State.refuse (s : State) (h : Sheaf) (i : Instr) (cs : List Refusal1) : State :=
  (s.draw 1).raise h (encode i) (cs.map fun c => (c.1, c.2.getD (Config.freeValue s.ctl.free)))

/-- A reserved value in a parameter word: cause 0x02. -/
def reserved (b : Bool) : List Refusal1 := if b then [(2, none)] else []

/-- A scratch offset or length that is not a multiple of `m`: cause 0x04 (07/R189). -/
def misaligned (a m : Nat) : List Refusal1 := if a % m != 0 then [(4, some (BitVec.ofNat 64 a))] else []

/-- An own scratch range past the allotment: cause 0x08, with the first address past the end. -/
def Sheaf.beyond (h : Sheaf) (a n : Nat) : List Refusal1 :=
  if h.scrBytes < a + n then [(8, some (BitVec.ofNat 64 (max a h.scrBytes)))] else []

/-- The parameter block of a command. -/
def Sheaf.block (h : Sheaf) (sa : BitVec 6) (n : Nat) : List Word := (List.range n).map fun k => h.getS (sa.toNat + k)

/-- A word of a parameter block. -/
def par (b : List Word) (k : Nat) : Word := b.getD k 0

/-- The checks of a TXO word in own scratch (log entry 19: its range). -/
def Sheaf.txoChecks (h : Sheaf) (own : Bool) (w : Word) : List Refusal1 :=
  misaligned w.toNat 16 ++ if own then h.beyond w.toNat 16 else []

/-- The checks of an FLO word (07/R189). -/
def Sheaf.floChecks (h : Sheaf) (w : Word) : List Refusal1 :=
  let off := (w.extractLsb' 0 19).toNat
  reserved (w.extractLsb' 26 6 != 0) ++ misaligned off 4 ++ if w.getLsbD 25 then [] else h.beyond off 4

/-! ### Reading an entry (07/R185) -/

/-- What a load of the sheaf finds. -/
inductive Got where
  | bytes (bs : List Byte)
  | missing
  | denied
  | bad
  | waits
deriving DecidableEq, Repr

/-- Read bytes of one line as a load of the sheaf: its own earlier stores, a live L1 copy, or the home. -/
def State.readAs (s : State) (h : Sheaf) (va n : Nat) : State × Got :=
  let own := (List.range n).map fun k => storedByte h.mq .glob (va + k)
  let l1 := s.l1Of h.core
  if own.all (·.isSome) then (s, .bytes (merge own (List.replicate n 0)))
  else match s.copy? l1 (s.asidOf h.ctx) (va / 128) with
    | some c =>
      if badIn c.bad (va % 128) n then (s, .bad)
      else
        let r := s.overStacks h.ctx va (lineBytes c.data (va % 128) n)
        (r.1, .bytes (merge own r.2))
    | none =>
      if s.lineHeld h.ctx va then (s, .waits)
      else match s.homeOf h.ctx va .read with
      | (s1, .ok x) =>
        if x.badAt (va % 128) n then (s1, .bad)
        else if s1.inFlight l1 x.asid x.line then (s1, .waits)
        else
          let r := ((s1.grant x).1.putCopy l1 x (s1.grant x).2).overStacks h.ctx va (lineBytes x.data (va % 128) n)
          (r.1, .bytes (merge own r.2))
      | (s1, .denied) => (s1, .denied)
      | (s1, _) => (s1, .missing)

/-- Whether a load of the sheaf would still have to wait (08/R241). -/
def Sheaf.loadHeld (h : Sheaf) (va n : Nat) : Bool :=
  h.mq.any fun e => e.isAcquire || match e with
    | .acc y => y.space == .glob && ((y.kind != .store && meets y.addr y.size va n) || (y.stage.logged? && y.addr / 128 == va / 128))
    | _ => false

/-- Go on with an entry's bits: cause 0x02 for a value it may not hold; in sequencer mode cause 0x06 for a space other
than own scratch (04/R106). -/
def State.entryIs (s : State) (h : Sheaf) (i : Instr) (x : BitVec 256) (k : Entry → State → State) : State :=
  if entryBad x then s.refuse h i [(2, none)]
  else if h.seqr && (Entry.ofBits x).spc != 1 then s.refuse h i [(6, none)]
  else k (Entry.ofBits x) s

/-- Read entry `n` of the sheaf's tensor table and go on with it. -/
def State.withEntry (s : State) (h : Sheaf) (i : Instr) (n : Nat) (k : Entry → State → State) : State :=
  if h.seqr then
    if s.scrBad (h.scrAbs (0x5E000 + 32 * n)) 32 then s.trapNow h i 0x12 (BitVec.ofNat 64 (0x5E000 + 32 * n))
    else s.entryIs h i (BitVec.ofNat 256 (leNat (s.scrRead (h.scrAbs (0x5E000 + 32 * n)) 32))) k
  else
    let va := ((s.ctx? h.ctx).map (·.tdbase)).getD 0 + 32 * n
    if h.loadHeld va 32 then s
    else match s.readAs h va 32 with
      | (s1, .bytes bs) => s1.entryIs h i (BitVec.ofNat 256 (leNat bs)) k
      | (s1, .waits) => s1
      | (s1, .missing) => s1.park h va (some (encode i))
      | (s1, .denied) => s1.trapNow h i 6 (BitVec.ofNat 64 va)
      | (s1, .bad) => s1.trapNow h i 0x12 (BitVec.ofNat 64 va)

/-! ### Translation and pins at submission (07/R190, 17/R378) -/

/-- The 64 KiB pages of a range. -/
def pagesOf (va n : Nat) : List Nat :=
  if n == 0 then [] else (List.range ((va + n - 1) / 65536 - va / 65536 + 1)).map fun k => va / 65536 + k

/-- What submission finds for its global ranges: pages it may not use (with the address), pages that are missing, pages the
host owns, pages to pin. -/
structure Pinned where
  denied : List Nat
  missing : List Nat
  host : List Nat
  pins : List Pin
deriving DecidableEq, Repr

/-- Translate one page of a range. -/
def State.pinPage (s : State) (h : Sheaf) (va : Nat) (write : Bool) (q : Pinned) : State × Pinned :=
  if 2 ^ 57 ≤ va then (s, { q with denied := q.denied ++ [va] })
  else match s.engTranslate h.core h.ctx va with
    | (s1, .page t) =>
      if (if write then t.w else t.r) then (s1, { q with pins := (t.pinOf va).into q.pins })
      else (s1, { q with denied := q.denied ++ [va] })
    | (s1, .absent) => (s1, { q with missing := q.missing ++ [va] })
    | (s1, .host) => (s1, { q with host := q.host ++ [va] })
    | (s1, .refused) => (s1, { q with denied := q.denied ++ [va] })

/-- Translate the global ranges of a command. -/
def State.pinAll (s : State) (h : Sheaf) (rs : List (Rng × Bool)) : State × Pinned :=
  let all := (rs.filter fun r => r.1.sp == 0).flatMap fun r => (pagesOf r.1.a r.1.n).map fun p => (max r.1.a (p * 65536), r.2)
  all.foldl (fun (q : State × Pinned) (x : Nat × Bool) => q.1.pinPage h x.1 x.2 q.2) (s, ⟨[], [], [], []⟩)

/-! ### Accepting a command (07/R191, 06/R168, 10/R291) -/

/-- The kinds of the copy engine's limit. -/
def OpKind.isBulk : OpKind → Bool
  | .bulk | .mcast | .peer | .dec | .dscd | .pref | .red | .wnx => true
  | _ => false

/-- The kinds of the matrix engine's queue. -/
def OpKind.isMatrix : OpKind → Bool
  | .mma | .mmaz | .mmld | .mmst | .mmcl | .mmcv | .mmsp | .spcmp | .pcomp | .nnz => true
  | _ => false

/-- The winnow operations. -/
def OpKind.isWinnow : OpKind → Bool
  | .wnw | .wnf => true
  | _ => false

/-- Whether the engine has room for a command of a kind. An operation at rest is in no engine (10/R288). -/
def State.accepts (s : State) (h : Sheaf) (k : OpKind) : Bool :=
  let live := s.eng.ops.filter fun (o : Op) => o.live && !o.resting
  if k.isBulk then decide ((live.filter fun o => o.core == h.core && o.kind.isBulk).length < 256)
  else if k.isMatrix then decide ((live.filter fun o => o.core == h.core && o.kind.isMatrix).length < 32)
  else if k.isWinnow then decide ((live.filter fun o => o.sheaf == h.uid && o.kind.isWinnow).length < 16)
  else true

/-- Whether an OFENCE still holds the sheaf's engine commands (06/R168). -/
def State.ofenced (s : State) (h : Sheaf) : Bool :=
  match h.ofence with
  | none => false
  | some n =>
    (h.mq.any fun e => match e with | .acc a => a.id.seq < n | _ => false) ||
    (s.requests.any fun (r : ChanReq) => r.earlier h.uid n) || !h.late.isEmpty ||
    s.eng.ops.any fun (o : Op) => o.sheaf == h.uid && o.kind == .nnz && o.live

/-- Issue an engine command: held behind an OFENCE and while the engine has no room; cause 0x0D on a fenced matrix
engine. -/
def engine (i : Instr) (k : OpKind) (s : State) (body : Sheaf → State → State) : Out :=
  issue i s fun h s =>
    if s.ofenced h || !s.accepts h k then s
    else if (i.grp == .mma || i.grp == .spx) && s.eng.fenced.contains h.core then s.trapNow h i 0x0D 0
    else body { h with ofence := none } s

/-! ### Submission -/

/-- An operation as it is submitted. -/
def Op.new (s : State) (h : Sheaf) (i : Instr) (k : OpKind) (hreg : Nat) (blk : List Word) : Op :=
  { id := s.ctl.nextId, sheaf := h.uid, core := h.core, ctx := h.ctx, hreg := hreg, kind := k, insn := encode i
    xmod := h.xmod, xmem := h.xmem i, blk := blk, tile := 0, ents := [], lanes := [], xfers := [], cap := [], lines := []
    done := [], counted := [], rp := 0, susp := false, fva := 0, facc := 0, opgw := 0, code := 0, detail := 0, viol := []
    status := none, taint := false, trunc := false, srcR := [], dstR := [], txbs := [], stale := h.unfenced, comp := none
    stalls := 0, resting := false, raw := false, seq := h.nseq, seenBy := [], regs := [], stage := 0, idle := 0, parts := [], pins := [] }

/-- A range of an operation as the sheaf's accesses meet it: global, or scratch by absolute address. What lies in a remote
device no access of the sheaf meets. -/
def State.regionOf (s : State) (h : Sheaf) (r : Rng) : List (Nat × Nat × Nat) :=
  if r.n == 0 then []
  else if r.sp == 0 then [(0, r.a, r.n)]
  else if r.sp == 1 then [(1, h.scrAbs r.a, min r.n (h.scrBytes - r.a))]
  else if r.sp == 2 then
    match s.member? h (r.a / peerStep) with
    | some (_, x) => [(1, x.scrAbs (r.a % peerStep), min r.n (x.scrBytes - r.a % peerStep))]
    | none => []
  else []

/-- Submit an operation that reads `src` and writes `dst`: pages are translated and pinned; a page without the access is
cause 0x06, a missing or host-owned one parks the sheaf; `skip` 1 leaves missing pages out, 2 every page it may not use
(07/R202, R203). The handle, where there is one, holds the operation (06/R180). -/
def State.submit (s : State) (h : Sheaf) (i : Instr) (o : Op) (src dst : List Rng) (skip : Nat) : State :=
  let p := s.pinAll h ((src.map fun r => (r, false)) ++ dst.map fun r => (r, true))
  match (if skip == 2 then [] else p.2.denied), (if skip == 2 then [] else if skip == 1 then p.2.host else p.2.missing ++ p.2.host) with
  | a :: _, _ => p.1.trapNow h i 6 (BitVec.ofNat 64 a)
  | [], a :: _ => p.1.park h a (some (encode i))
  | [], [] =>
    if !p.1.canPin (dieOf h.core) p.2.pins then p.1
    else
      let o1 : Op := { o with srcR := src.flatMap (s.regionOf h), dstR := dst.flatMap (s.regionOf h), pins := p.2.pins }
      let s1 : State := { p.1 with eng := { p.1.eng with ops := p.1.eng.ops ++ [o1] } }
      let h0 : Sheaf := { h with nseq := h.nseq + 2 }
      let h1 := if o.kind == .nnz || o.kind == .mmcl then h0 else h0.setH o.hreg (.op o.id)
      ((s1.fresh 1).done h1).collect h.ctx

end Sys2Proof.Machine
end

