-- ==== Sys2Proof/Machine/EngInstr.lean ====
section
/-! DEFINITION. The engine commands of the groups CPY, MMA and SPX (07/R194 to R216): what each checks and submits. -/

namespace Sys2Proof.Machine

/-! ### Ranges -/

/-- The row ranges of a tile block inside its entry. -/
def Side.rngs (d : Side) (nr nc : Nat) : List Rng :=
  if d.inCols nc == 0 then [] else (List.range (d.inRows nr)).map fun r => d.rowRng r (d.inCols nc)

/-- The scale ranges of an e2m1 block inside its entry. -/
def Entry.scaleRngs (e : Entry) (d : Side) (nr nc : Nat) : List Rng :=
  if e.fmt != 5 || d.inCols nc == 0 then []
  else ((List.range (d.inRows nr)).map fun r => e.scaleRng d r (d.inCols nc)).dedup

/-- Own scratch ranges past the allotment (02/R41, cause 0x08). -/
def Sheaf.beyondAll (h : Sheaf) (rs : List Rng) : List Refusal1 :=
  (rs.filter fun r => r.sp == 1).flatMap fun r => h.beyond r.a r.n

/-- The conversions CVTF permits (05/R132), which BULK cv:1 takes (07/R197). -/
def cvtfPermits (src dst : Nat) : Bool := (isFloatTy src || src == 5 || (src == 8 && dst == 0)) && isFloatTy dst

/-- Whether a tie link is up. -/
def State.linkUp (s : State) (n : Nat) : Bool := ((s.fab.links.find? fun (l : Link) => l.num == n).map (·.up)).getD true

/-- Whether a link towards a device is up (19/R415). -/
def State.linkTo (s : State) (dev : Nat) : Bool := (List.range 12).any fun n => s.linkUp n && Config.tieRoute dev n

/-- Whether a command's remote entry has a binding (19/R416), and a link leads to the device (19/R415). -/
def State.bound (s : State) (h : Sheaf) (e : Entry) : Bool :=
  e.spc != 3 || (s.linkTo e.rdev && s.fab.bindings.any fun b => b.1 == h.ctx && b.2.1 == e.rdev)

/-- An operation that names an unbound remote device has failed: ERR_FAULT, with BASE in DETAIL (07/R190, 19/R416). -/
def Op.bindTo (o : Op) (s : State) (h : Sheaf) (es : List Entry) : Op :=
  match es.find? fun e => !s.bound h e with
  | none => o
  | some e => { o with code := 5, detail := (BitVec.ofNat 64 e.base).extractLsb' 9 48, viol := [(6, BitVec.ofNat 64 e.base)] }

/-- The grain a copy moves: whole bytes for formats of 8 bits and more, else elements; with its count to an element. -/
def grain (code : Nat) : Nat × Nat := if 8 ≤ fmtBits code then (8, fmtBits code / 8) else (fmtBits code, 1)

/-! ### Copy forms -/

/-- The own or absolute address of a transaction barrier in own scratch. -/
def Sheaf.ownTxb (h : Sheaf) (on : Bool) (w : Word) : List Nat := if on then [h.scrAbs w.toNat] else []

/-- One lane of LG2S or LS2G: global address, scratch offset, and the causes of the lane (07/R196). -/
def State.laneOf (s : State) (h : Sheaf) (i : Instr) (blk : List Word) (n : Nat) (l : Lane) : Int × Nat × List (Nat × DWord) :=
  let x := h.xreg
  let g : Int := (pairOf (par blk 0) (par blk 1)).toNat + (l.getV (xC x)).toInt
  let o := (par blk 2 + l.getV (xE x)).toNat
  let slm := xSpc (h.xmem i) == 3
  let rd := match i with | .lg2s _ => true | _ => false
  let free := match s.slmPos h.ctx g.toNat n with | some p => s.slmAllowed p n rd | none => false
  let inside := decide (0 ≤ g) && (if slm then free else decide (g < 2 ^ 57))
  (g, o, if g % (n : Int) != 0 then [(4, BitVec.ofInt 64 g)] else if o % n != 0 then [(4, BitVec.ofNat 64 o)]
    else if inside then [] else [(6, BitVec.ofInt 64 g)])

/-- What the walk of the lanes of a per-lane copy has found: the lanes with their causes, missing addresses, pages to pin. -/
structure LaneWalk where
  lanes : List (Nat × Nat × Nat × List (Nat × DWord))
  missing : List Nat
  pins : List Pin
deriving DecidableEq, Repr

/-- Translate one lane's address. -/
def State.lanePage (s : State) (h : Sheaf) (slm write : Bool) (lid a o : Nat) (q : LaneWalk) : State × LaneWalk :=
  let put := fun (cs : List (Nat × DWord)) => { q with lanes := q.lanes ++ [(lid, a, o, cs)] }
  if slm then (s, put [])
  else match s.engTranslate h.core h.ctx a with
    | (s1, .page t) =>
      if (if write then t.w else t.r) then (s1, { put [] with pins := (t.pinOf a).into q.pins }) else (s1, put [(6, BitVec.ofNat 64 a)])
    | (s1, .refused) => (s1, put [(6, BitVec.ofNat 64 a)])
    | (s1, _) => (s1, { put [] with missing := q.missing ++ [a] })

/-- The operations of two lanes' copies that the sheaf's own commands order: ORD rel makes the command a release at its scope,
ORD acq holds the sheaf's later accesses until the copy has ended (07/R194; 06/R165, R166; log entry 68). -/
def Sheaf.laneOrder (h : Sheaf) (ord : BitVec 2) (scp : BitVec 3) : Sheaf :=
  if ord.getLsbD 0 then { h with mq := h.mq ++ [MqEntry.acqOf (h.nseq + 1) scp] } else h

/-- LG2S and LS2G (07/R196): the lanes without a cause are copied, the others are removed, and the trap follows. -/
def laneCopy (i : Instr) (k : OpKind) (o : FE) (s : State) : Out :=
  engine i k s fun h0 s =>
    let ord := xOrd (h0.xmem i)
    let scp := xScp (h0.xmem i)
    let h := if ord == 0 then h0 else h0.ungather
    let n := 4 * 2 ^ (o.f.extractLsb' 0 2).toNat
    let tx := o.f.getLsbD 2
    let blk := h.block o.sa 4
    let slm := xSpc (h.xmem i) == 3
    let cs := if tx then h.txoChecks true (par blk 3) else []
    let ls := (h.effLanes i).map fun l => (l.lid, s.laneOf h i blk n l)
    let walk := (ls.filter fun l => l.2.2.2.isEmpty).foldl
      (fun (q : State × LaneWalk) (l : Nat × Int × Nat × List (Nat × DWord)) =>
        q.1.lanePage h slm (k == .ls2g) l.1 l.2.1.toNat l.2.2.1 q.2) (s, ⟨[], [], []⟩)
    if !cs.isEmpty then s.refuse h i cs
    else if ord.getLsbD 1 && !s.released h scp then s.hold h false
    else match walk.2.missing with
      | a :: _ => walk.1.park h a (some (encode i))
      | [] =>
        let good := walk.2.lanes.filter fun l => l.2.2.2.isEmpty
        let causes := ls.flatMap fun l =>
          if l.2.2.2.isEmpty then (walk.2.lanes.filter fun m => m.1 == l.1).flatMap fun m => m.2.2.2 else l.2.2.2
        let cps : List LaneCopy := good.map fun l => ⟨l.1, l.2.1, l.2.2.1, decide (h.scrBytes < l.2.2.1 + n)⟩
        let run := cps.filter fun c => !c.skip
        let op := Op.new s h i k o.h.toNat blk
        let gR := run.map fun c => if slm then (2, (s.slmPos h.ctx c.g n).getD 0, n) else (0, c.g, n)
        let oR := run.map fun c => (1, h.scrAbs c.o, n)
        let sk := cps.find? fun c => c.skip
        let op1 : Op := { op with
          lanes := cps, txbs := h.ownTxb tx (par blk 3), trunc := sk.isSome
          code := if sk.isSome then 3 else 0, viol := (sk.map fun c => (8, BitVec.ofNat 64 c.o)).toList
          srcR := if k == .lg2s then gR else oR
          dstR := if k == .lg2s then oR else gR
          regs := [xC h.xreg, xE h.xreg]
          pins := walk.2.pins.filter fun p => run.any fun c => c.g / 65536 == p.page }
        if !walk.1.canPin (dieOf h.core) op1.pins then walk.1
        else
          let s1 : State := { walk.1 with eng := { walk.1.eng with ops := walk.1.eng.ops ++ [op1] } }
          let h1 : Sheaf := { (h.laneOrder ord scp).setH o.h.toNat (.op op.id) with nseq := h.nseq + 2 }
          ((s1.fresh 1).finish h1 i causes).collect h.ctx

/-- LG2S (07/R196). -/
def execLg2s (o : FE) (s : State) : Out := laneCopy (.lg2s o) .lg2s o s

/-- LS2G (07/R196). -/
def execLs2g (o : FE) (s : State) : Out := laneCopy (.ls2g o) .ls2g o s

/-- The two sides of a tile copy between entries, in grains: source, destination, rows and columns of the tile. -/
def copySides (cv : Bool) (a b : Entry) (ta tb : Word) : Side × Side × Nat × Nat :=
  let g := if cv then (fmtBits a.fmt, 1) else grain a.fmt
  let w := if cv then fmtBits b.fmt else g.1
  (a.side ta g.1 g.2 a.trow a.tcol, b.side tb w g.2 b.trow b.tcol, a.trow, a.tcol * g.2)

/-- The clipped rows and columns of a copy (07/R198). -/
def clip (q : Side × Side × Nat × Nat) : Nat × Nat :=
  (min (q.1.inRows q.2.2.1) (q.2.1.inRows q.2.2.1), min (q.1.inCols q.2.2.2) (q.2.1.inCols q.2.2.2))

/-- The source ranges of a copy. -/
def copySrc (q : Side × Side × Nat × Nat) : List Rng := q.1.rngs (clip q).1 (clip q).2

/-- The destination ranges of a copy. -/
def copyDst (q : Side × Side × Nat × Nat) : List Rng := q.2.1.rngs (clip q).1 (clip q).2

/-- BULK (07/R197, R198). -/
def execBulk (o : FE) (s : State) : Out :=
  engine (.bulk o) .bulk s fun h s =>
    let blk := h.block o.sa 6
    let idx := par blk 0
    let tx := o.f.getLsbD 0
    let cv := o.f.getLsbD 2
    s.withEntry h (.bulk o) (idx.extractLsb' 0 8).toNat fun a s =>
    s.withEntry h (.bulk o) (idx.extractLsb' 8 8).toNat fun b s =>
      let cs := reserved (idx.extractLsb' 16 16 != 0) ++
        reserved (a.trow != b.trow || a.tcol != b.tcol || a.lay != 0 || b.lay != 0 ||
          (if cv then !cvtfPermits a.fmt b.fmt else a.fmt != b.fmt)) ++
        (if tx then h.txoChecks (b.spc != 2) (par blk 3) else []) ++
        (if o.f.getLsbD 1 then h.floChecks (par blk 4) else [])
      if !cs.isEmpty then s.refuse h (.bulk o) cs
      else
        let q := copySides cv a b (par blk 1) (par blk 2)
        let op : Op := { Op.new s h (.bulk o) .bulk o.h.toNat blk with
          ents := [a, b], txbs := h.ownTxb (tx && b.spc != 2) (par blk 3) }
        s.submit h (.bulk o) (op.bindTo s h [a, b]) (copySrc q) (copyDst q) 0

/-- The members of a multicast mask. -/
def maskBits (m : DWord) : List Nat := (List.range 48).filter fun k => m.getLsbD k

/-- MCAST (07/R199). -/
def execMcast (o : FE) (s : State) : Out :=
  engine (.mcast o) .mcast s fun h s =>
    let blk := h.block o.sa 8
    let idx := par blk 0
    let mask := pairOf (par blk 6) (par blk 7)
    s.withEntry h (.mcast o) (idx.extractLsb' 0 8).toNat fun a s =>
    s.withEntry h (.mcast o) (idx.extractLsb' 8 8).toNat fun b s =>
      let cs := reserved (idx.extractLsb' 16 16 != 0 || mask.extractLsb' 48 16 != 0) ++
        reserved (a.trow != b.trow || a.tcol != b.tcol || a.lay != 0 || b.lay != 0 || a.fmt != b.fmt || b.spc != 1) ++
        (if o.f.getLsbD 0 then misaligned (par blk 3).toNat 16 else []) ++
        (if o.f.getLsbD 1 then misaligned ((par blk 4).extractLsb' 0 19).toNat 4 ++ reserved ((par blk 4).extractLsb' 19 13 != 0) else [])
      if !cs.isEmpty then s.refuse h (.mcast o) cs
      else
        let q := copySides false a b (par blk 1) (par blk 2)
        let op : Op := { Op.new s h (.mcast o) .mcast o.h.toNat blk with
          ents := [a, b], xfers := (maskBits mask).map fun k => ⟨k, none, false⟩
          status := if mask == 0 then some 0 else none }
        s.submit h (.mcast o) (op.bindTo s h [a]) (copySrc q)
          ((maskBits mask).flatMap fun k => copyDst (q.1, { q.2.1 with sp := 2, mem := k }, q.2.2)) 0

/-- A byte run of a space as one side: one row of `n` columns of 8 bits. -/
def runSide (sp mem base n : Nat) : Side := ⟨sp, mem, base, 0, 8, 0, 0, 1, n⟩

/-- PEER (07/R200). -/
def execPeer (o : FE) (s : State) : Out :=
  engine (.peer o) .peer s fun h s =>
    let blk := h.block o.sa 7
    let len := (par blk 2).toNat
    let cs := misaligned (par blk 0).toNat 4 ++ misaligned (par blk 1).toNat 4 ++ misaligned len 4 ++ reserved (524288 < len) ++
      (if o.f.getLsbD 0 then misaligned (par blk 4).toNat 16 else []) ++
      (if o.f.getLsbD 1 then h.floChecks (par blk 5) else [])
    if !cs.isEmpty then s.refuse h (.peer o) cs
    else s.submit h (.peer o) (Op.new s h (.peer o) .peer o.h.toNat blk) [⟨1, (par blk 0).toNat, len⟩]
      [(runSide 2 (par blk 3).toNat (par blk 1).toNat len).rowRng 0 len] 0

/-- Bytes of global memory as their homes hold them; zeros where there is no page. -/
def State.glance (s : State) (ctx va n : Nat) : List Byte :=
  (List.range n).map fun k => match s.homeOf ctx (va + k) .any with
    | (_, .ok x) => byteOf x.data ((va + k) % 128)
    | _ => 0

/-- Bytes of a source as its home or scratchpad holds them, to see how long a stream is before its pages are pinned; zeros
where no member, no page or a remote device would hold them. -/
def State.peek (s : State) (h : Sheaf) (e : Entry) (n : Nat) : List Byte :=
  let a := e.base
  if e.spc == 1 then s.scrRead (h.scrAbs a) n
  else if e.spc == 2 then ((s.member? h e.pmem).map fun r => s.scrRead (r.2.scrAbs a) n).getD []
  else if e.spc == 3 then []
  else s.glance h.ctx a n

/-- Bytes of an element of a stream's format. -/
def streamBytes (fmt : Nat) : Nat := fmtBits fmt / 8

/-- The length of an LSC stream's body (10/R305). -/
def streamLen (hdr : List Byte) : Nat := natAt hdr 12 4

/-- The bytes DEC writes for a header (07/R201). -/
def streamOut (hdr : List Byte) : Nat :=
  let b := streamBytes (natAt hdr 2 1)
  if natAt hdr 3 1 == 1 then 4096 * b else 512 + natAt hdr 4 2 * b

/-- DEC (07/R201). -/
def execDec (o : FE) (s : State) : Out :=
  engine (.dec o) .dec s fun h s =>
    let blk := h.block o.sa 6
    let idx := par blk 0
    let tx := o.f.getLsbD 0
    s.withEntry h (.dec o) (idx.extractLsb' 0 8).toNat fun a s =>
    s.withEntry h (.dec o) (idx.extractLsb' 8 8).toNat fun b s =>
      let cs := reserved (idx.extractLsb' 16 16 != 0) ++ reserved (a.lay != 2 || b.lay != 1 || b.spc != 1) ++
        misaligned b.base 32 ++ (if tx then h.txoChecks true (par blk 3) else []) ++
        (if o.f.getLsbD 1 then h.floChecks (par blk 4) else [])
      if !cs.isEmpty then s.refuse h (.dec o) cs
      else
        let hdr := s.peek h a 16
        let ct := (pairOf (par blk 1) (par blk 2)).toNat
        let d : Side := runSide a.spc a.pmem a.base 0
        let op : Op := { Op.new s h (.dec o) .dec o.h.toNat blk with
          ents := [a, b], txbs := h.ownTxb tx (par blk 3) }
        s.submit h (.dec o) (op.bindTo s h [a])
          ([⟨a.spc, d.at a.base, 16 + streamLen hdr⟩] ++ if natAt hdr 3 1 == 1 then [] else [⟨0, ct, 160⟩])
          [⟨1, b.base, streamOut hdr⟩] 0

/-- DSCD (07/R202). -/
def execDscd (o : FE) (s : State) : Out :=
  engine (.dscd o) .dscd s fun h s =>
    let blk := h.block o.sa 4
    let va := (pairOf (par blk 0) (par blk 1)).toNat
    let len := (pairOf (par blk 2) (par blk 3)).toNat
    let cs := misaligned va 128 ++ misaligned len 128
    if !cs.isEmpty then s.refuse h (.dscd o) cs
    else s.submit h (.dscd o) (Op.new s h (.dscd o) .dscd o.h.toNat blk) [] [⟨0, va, len⟩] 1

/-- PREF (07/R203). -/
def execPref (o : FE) (s : State) : Out :=
  engine (.pref o) .pref s fun h s =>
    let blk := h.block o.sa 3
    let len := (par blk 2).toNat
    if 16777216 < len then s.refuse h (.pref o) [(2, none)]
    else s.submit h (.pref o) (Op.new s h (.pref o) .pref o.h.toNat blk) [⟨0, (pairOf (par blk 0) (par blk 1)).toNat, len⟩] [] 2

/-- Whether RED takes a source format, and a result format with it (07/R204). -/
def redTypes (src ty : Nat) : Bool := (isFloatTy src && isFloatTy ty) || (src == 0x10 && ty == 0x10)

/-- RED (07/R204, 19/R418): a contribution, and the root's destination, whose format must be TY (log entry 83). -/
def execRed (o : FE) (s : State) : Out :=
  engine (.red o) .red s fun h s =>
    let blk := h.block o.sa 5
    let idx := par blk 0
    let tx := o.f.getLsbD 2
    let root := idx.extractLsb' 8 8 != 0xFF
    let ty := xTy h.xmod
    s.withEntry h (.red o) (idx.extractLsb' 0 8).toNat fun a s =>
      let cs := reserved (idx.extractLsb' 16 16 != 0 || a.lay != 0 || !redTypes a.fmt ty || (!root && par blk 2 != 0))
      let gone := !s.fab.groups.any fun g => g.gid == par blk 3
      let go := fun (es : List Entry) (dst : List Rng) (s : State) =>
        let op : Op := { Op.new s h (.red o) .red o.h.toNat blk with
          ents := es, txbs := h.ownTxb (tx && root) (par blk 4), code := if gone then 5 else 0 }
        let g := grain a.fmt
        let d := a.side (par blk 1) g.1 g.2 a.trow a.tcol
        s.submit h (.red o) (op.bindTo s h es) (d.rngs a.trow (a.tcol * g.2)) dst 0
      if root then
        s.withEntry h (.red o) (idx.extractLsb' 8 8).toNat fun b s =>
          let cs2 := cs ++ reserved (b.lay != 0 || b.fmt != ty || b.trow != a.trow || b.tcol != a.tcol) ++
            (if tx then h.txoChecks (b.spc != 2) (par blk 4) else [])
          if !cs2.isEmpty then s.refuse h (.red o) cs2
          else
            let g := grain b.fmt
            go [a, b] ((b.side (par blk 2) g.1 g.2 b.trow b.tcol).rngs b.trow (b.tcol * g.2)) s
      else if !cs.isEmpty then s.refuse h (.red o) cs
      else go [a] [] s

/-! ### Matrix forms -/

/-- The format pairs of MMA other than e2m1 (07/R206). -/
def mmaPair (a b : Nat) : Bool :=
  ((a == 3 || a == 4) && (b == 3 || b == 4)) || (a == b && (a == 1 || a == 2 || a == 0xC))

/-- K of a format (07/R206, 01). -/
def kOf (fmt : Nat) : Nat := match fmt with | 1 | 2 => 32 | 5 => 128 | _ => 64

/-- The A block of a matrix operation. -/
def sideA (e : Entry) (tc : Word) (k : Nat) : Side := e.side tc (fmtBits e.fmt) 1 64 k

/-- The B block of a dense matrix operation. -/
def sideB (e : Entry) (tc : Word) (k : Nat) : Side := e.side tc (fmtBits e.fmt) 1 k 64

/-- The operand ranges of a block, with its scales. -/
def blockRngs (e : Entry) (d : Side) (nr nc : Nat) : List Rng := d.rngs nr nc ++ e.scaleRngs d nr nc

/-- MMA and MMAZ (07/R206): debited at issue, held while ENBUD is below the cost (07/R193). -/
def mmaForm (i : Instr) (k : OpKind) (o : FE) (s : State) : Out :=
  engine i k s fun h s =>
    let blk := h.block o.sa 3
    let idx := par blk 0
    s.withEntry h i (idx.extractLsb' 0 8).toNat fun a s =>
    s.withEntry h i (idx.extractLsb' 8 8).toNat fun b s =>
      let kk := kOf a.fmt
      let src := blockRngs a (sideA a (par blk 1) kk) 64 kk ++ blockRngs b (sideB b (par blk 2) kk) kk 64
      let cs := reserved (idx.extractLsb' 16 16 != 0 || a.lay != 0 || b.lay != 0 ||
          !(mmaPair a.fmt b.fmt || (a.fmt == 5 && b.fmt == 5))) ++ h.beyondAll src
      if !cs.isEmpty then s.refuse h i cs
      else if !s.canSpend h (energyCost o.ec.toNat) then s
      else
        let op : Op := { Op.new s h i k o.h.toNat blk with ents := [a, b], tile := o.mt.toNat }
        let s1 := s.submit h i (op.bindTo s h [a, b]) src [] 0
        if (s1.op? op.id).isSome then s1.spend h (energyCost o.ec.toNat) else s1

/-- MMA (07/R206). -/
def execMma (o : FE) (s : State) : Out := mmaForm (.mma o) .mma o s

/-- MMAZ (07/R206). -/
def execMmaz (o : FE) (s : State) : Out := mmaForm (.mmaz o) .mmaz o s

/-- The rows of a 64 × 64 tile in own scratch. -/
def tileRngs (off stride bytes : Nat) : List Rng := (List.range 64).map fun r => ⟨1, off + r * stride, bytes⟩

/-- MMLD and MMST (07/R208); an offset or a stride that is no multiple of the element is cause 0x04 (log entry 82). -/
def tileMove (i : Instr) (k : OpKind) (o : FE) (s : State) : Out :=
  engine i k s fun h s =>
    let blk := h.block o.sa 2
    let off := (par blk 0).toNat
    let stride := (par blk 1).toNat
    let es := fmtBits (if k == .mmld then xTys h.xmod else xTy h.xmod) / 8
    let cs := misaligned off es ++ misaligned stride es ++ h.beyond off (63 * stride + 64 * es)
    if !cs.isEmpty then s.refuse h i cs
    else
      let op : Op := { Op.new s h i k o.h.toNat blk with tile := o.mt.toNat }
      let rs := tileRngs off stride (64 * es)
      s.submit h i op (if k == .mmld then rs else []) (if k == .mmld then [] else rs) 0

/-- MMLD (07/R208). -/
def execMmld (o : FE) (s : State) : Out := tileMove (.mmld o) .mmld o s

/-- MMST (07/R208). -/
def execMmst (o : FE) (s : State) : Out := tileMove (.mmst o) .mmst o s

/-- MMCL (07/R208): no handle; the tile is pending until the engine has cleared it. -/
def execMmcl (o : FE) (s : State) : Out :=
  engine (.mmcl o) .mmcl s fun h s =>
    s.submit h (.mmcl o) { Op.new s h (.mmcl o) .mmcl 0 [] with tile := o.mt.toNat } [] [] 0

/-- MMCV (07/R209). -/
def execMmcv (o : FE) (s : State) : Out :=
  engine (.mmcv o) .mmcv s fun h s =>
    let blk := h.block o.sa 4
    let n := fun k => (par blk k).toNat
    let bytes := 64 * fmtBits (xTy h.xmod) / 8
    let axis := o.f.getLsbD 0
    let sc : List Rng := if axis then (List.range 2).map fun b => ⟨1, n 2 + b * n 3, 64⟩ else (List.range 64).map fun r => ⟨1, n 2 + r * n 3, 2⟩
    let dst := tileRngs (n 0) (n 1) bytes ++ sc
    let cs := h.beyondAll dst
    if !cs.isEmpty then s.refuse h (.mmcv o) cs
    else s.submit h (.mmcv o) { Op.new s h (.mmcv o) .mmcv o.h.toNat blk with tile := o.mt.toNat } [] dst 0

/-! ### The pattern cache (10/R297 to R302) -/

/-- The entry of a key on the sheaf's core, pat 0. -/
def State.pattern? (s : State) (h : Sheaf) (off fmt : Nat) : Option Pattern :=
  s.eng.pats.find? fun p => p.core == h.core && p.ctx == h.ctx && p.alloc == h.alloc.id && p.off == off && p.fmt == fmt

/-- Whether a running or waiting MMSP pat 0 uses an entry. -/
def State.patternUsed (s : State) (p : Pattern) : Bool :=
  s.eng.ops.any fun (o : Op) => o.live && !o.resting && o.kind == .mmsp && o.insn.extractLsb' 0 2 == 0 && o.core == p.core && (par o.blk 2).toNat == p.off &&
    ((o.ents[1]?).map (·.fmt)) == some p.fmt && ((s.sheaf? o.sheaf).map (·.alloc.id)) == some p.alloc

/-- Remove entries. -/
def State.dropPatterns (s : State) (f : Pattern → Bool) : State :=
  { s with eng := { s.eng with pats := s.eng.pats.filter fun p => !f p } }

/-- Whether a core's cache has an entry slot and 1024 micro-ops free (10/R302). -/
def State.patternRoom (s : State) (core : Nat) : Bool :=
  let mine := s.eng.pats.filter fun p => p.core == core
  decide (mine.length < 32) && decide ((mine.map (·.uops)).sum + 1024 ≤ 4096)

/-- Evict least-recently-used entries that no MMSP uses until there is room. -/
def State.patternSpace (core : Nat) : Nat → State → State
  | 0, s => s
  | n + 1, s =>
    if s.patternRoom core then s
    else match sortBy (fun (p : Pattern) => p.used) (s.eng.pats.filter fun p => p.core == core && !s.patternUsed p) with
      | [] => s
      | p :: _ => State.patternSpace core n (s.dropPatterns fun x => x.id == p.id)

/-- Start a compile, if there is room (10/R299, R302). A compiling entry holds room for 1024 micro-ops. -/
def State.startCompile (s : State) (h : Sheaf) (off fmt : Nat) : State :=
  let s1 := State.patternSpace h.core 33 s
  if s1.patternRoom h.core then
    let p : Pattern := ⟨s1.ctl.nextId, h.core, h.ctx, h.alloc.id, off, fmt, h.dthr.toNat, .compiling, 1024, [], s1.ctl.nextId⟩
    State.fresh { s1 with eng := { s1.eng with pats := s1.eng.pats ++ [p] } } 1
  else s1

/-- Whether an entry of a key is compiling. -/
def State.compiling (s : State) (h : Sheaf) (off fmt : Nat) : Bool :=
  ((s.pattern? h off fmt).map fun p => p.state == .compiling).getD false

/-- Whether an MMSP pat 0 has still to choose its path, which the engine does as it starts it (10/R300). -/
def Op.pathOpen (o : Op) : Bool := o.kind == .mmsp && o.insn.extractLsb' 0 2 == 0 && o.comp.isNone

/-- The engine starts an MMSP pat 0 (10/R300): a present entry becomes the most recently used, an absent one is compiled; with
cw:1 the operation waits for a compile in progress. -/
def State.choosePath (s : State) (h : Sheaf) (o : Op) : State :=
  let off := (par o.blk 2).toNat
  let fmt := (o.ents.getD 1 (Entry.ofBits 0)).fmt
  let s1 := match s.pattern? h off fmt with
    | some p => State.fresh { s with eng := { s.eng with pats := s.eng.pats.map fun (x : Pattern) =>
        if x.id == p.id then { x with used := s.ctl.nextId } else x } } 1
    | none => s.startCompile h off fmt
  s1.modOp o.id fun x => { x with comp := some (o.insn.getLsbD 3 && s1.compiling h off fmt) }

/-- The metadata bytes of an MMSP pattern (07/R210). -/
def metaBytes (pat kg : Nat) : Nat := match pat with | 0 => 512 | 1 => 256 * kg | _ => 32

/-- The value formats of a sparse B (07/R210). -/
def sparseFmt (f : Nat) : Bool := f == 1 || f == 2 || f == 3 || f == 4 || f == 0xC

/-- MMSP (07/R210, 13/R316). -/
def execMmsp (o : FE) (s : State) : Out :=
  engine (.mmsp o) .mmsp s fun h s =>
    let blk := h.block o.sa 4
    let idx := par blk 0
    let pat := (o.f.extractLsb' 0 2).toNat
    let kg := (o.f.extractLsb' 4 2).toNat
    let off := (par blk 2).toNat
    s.withEntry h (.mmsp o) (idx.extractLsb' 0 8).toNat fun a s =>
    s.withEntry h (.mmsp o) (idx.extractLsb' 8 8).toNat fun b s =>
      let bs := fmtBits b.fmt / 8
      let vals : List Rng :=
        if pat == 1 then (b.side (par blk 3) (fmtBits b.fmt) 1 (16 * kg) 64).rngs (16 * kg) 64
        else [⟨1, off + metaBytes pat kg, min (4096 * bs) (h.scrBytes - (off + metaBytes pat kg))⟩]
      let aR := (sideA a (par blk 1) 64).rngs 64 64
      let src := ⟨1, off, metaBytes pat kg⟩ :: (aR ++ vals)
      let cs := reserved (idx.extractLsb' 16 16 != 0 || (pat != 1 && par blk 3 != 0) || a.lay != 0 ||
          b.lay != (if pat == 1 then 0 else 1) || !sparseFmt b.fmt || !mmaPair a.fmt b.fmt) ++
        misaligned off 32 ++ h.beyond off (metaBytes pat kg) ++ h.beyondAll aR ++ (if pat == 1 then h.beyondAll vals else [])
      if !cs.isEmpty then s.refuse h (.mmsp o) cs
      else if !s.canSpend h (energyCost o.ec.toNat) then s
      else
        let op : Op := { Op.new s h (.mmsp o) .mmsp o.h.toNat blk with
          ents := [a, b], tile := o.mt.toNat }
        -- for pat 0 and 2 only the format of the B entry is read (13/R316)
        let s1 := s.submit h (.mmsp o) (op.bindTo s h (if pat == 1 then [a, b] else [a])) src [] 0
        if (s1.op? op.id).isSome then s1.spend h (energyCost o.ec.toNat) else s1

/-! ### Other SPX forms -/

/-- SPCMP (07/R211, 13/R317). -/
def execSpcmp (o : FE) (s : State) : Out :=
  engine (.spcmp o) .spcmp s fun h s =>
    let blk := h.block o.sa 4
    let idx := par blk 0
    let off := (par blk 2).toNat
    let k := ((par blk 3).extractLsb' 0 8).toNat
    let g := ((par blk 3).extractLsb' 8 8).toNat
    let out1 := o.f.getLsbD 0
    s.withEntry h (.spcmp o) (idx.extractLsb' 0 8).toNat fun a s =>
      let bs := fmtBits a.fmt / 8
      let src := (sideA a (par blk 1) 64).rngs 64 64
      let len := if out1 then 256 * k + 1024 * k * bs else 512 + 4096 * k / g * bs
      let gOk := g == 2 || g == 4 || g == 8 || g == 16 || g == 32 || g == 64
      let cs := reserved (idx.extractLsb' 16 16 != 0 || (par blk 3).extractLsb' 16 16 != 0 || a.spc != 1 || a.lay != 0 ||
          !sparseFmt a.fmt || !gOk || k == 0 || decide (g < k) || (out1 && (g != 4 || decide (3 < k)))) ++
        misaligned off 32 ++ h.beyond off len ++ h.beyondAll src
      if !cs.isEmpty then s.refuse h (.spcmp o) cs
      else s.submit h (.spcmp o) { Op.new s h (.spcmp o) .spcmp o.h.toNat blk with ents := [a] } src [⟨1, off, len⟩] 0

/-- The checks of PCOMP and PINV: their format is one MMSP permits (04/R85, 07/R210). -/
def Sheaf.patChecks (h : Sheaf) (blk : List Word) (pat : Nat) : List Refusal1 :=
  reserved ((par blk 1).extractLsb' 5 27 != 0 || !sparseFmt ((par blk 1).extractLsb' 0 5).toNat) ++
  if pat == 0 then misaligned (par blk 0).toNat 32 ++ h.beyond (par blk 0).toNat 512 else []

/-- PCOMP (07/R212, 10/R299). -/
def execPcomp (o : FE) (s : State) : Out :=
  engine (.pcomp o) .pcomp s fun h s =>
    let blk := h.block o.sa 2
    let pat := (o.f.extractLsb' 0 2).toNat
    let off := (par blk 0).toNat
    let fmt := ((par blk 1).extractLsb' 0 5).toNat
    let cs := h.patChecks blk pat
    if !cs.isEmpty then s.refuse h (.pcomp o) cs
    else
      let op := Op.new s h (.pcomp o) .pcomp o.h.toNat blk
      if pat != 0 then s.submit h (.pcomp o) { op with status := some 0 } [] [] 0
      else
        let s1 := s.submit h (.pcomp o) op [] [] 0
        if (s1.pattern? h off fmt).isSome then s1 else s1.startCompile h off fmt

/-- PINV (07/R212). -/
def execPinv (o : FE) (s : State) : Out :=
  engine (.pinv o) .pcomp s fun h s =>
    let blk := h.block o.sa 2
    let pat := (o.f.extractLsb' 0 2).toNat
    let cs := h.patChecks blk pat
    if !cs.isEmpty then s.refuse h (.pinv o) cs
    else
      let fmt := ((par blk 1).extractLsb' 0 5).toNat
      let s1 := if pat != 0 then s else s.dropPatterns fun p =>
        p.core == h.core && p.ctx == h.ctx && p.alloc == h.alloc.id && p.off == (par blk 0).toNat && p.fmt == fmt
      s1.done h

/-- NNZ (07/R212, 13/R316): s[SA+2] stays pending until the count is written. -/
def execNnz (o : FE) (s : State) : Out :=
  engine (.nnz o) .nnz s fun h s =>
    let blk := h.block o.sa 2
    let idx := par blk 0
    s.withEntry h (.nnz o) (idx.extractLsb' 0 8).toNat fun a s =>
      let d := a.side (par blk 1) (fmtBits a.fmt) 1 a.trow a.tcol
      let hdr := s.peek h a 16
      let src : List Rng :=
        if a.lay == 0 then d.rngs a.trow a.tcol
        else if a.lay == 1 then [⟨a.spc, d.at a.base, 512⟩]
        else [⟨a.spc, d.at a.base, if natAt hdr 3 1 == 1 then 16 + 4096 * streamBytes (natAt hdr 2 1) else 16⟩]
      let cs := reserved (idx.extractLsb' 16 16 != 0) ++ h.beyondAll src
      if !cs.isEmpty then s.refuse h (.nnz o) cs
      else
        let op : Op := { Op.new s h (.nnz o) .nnz (o.sa.toNat + 2) blk with ents := [a] }
        s.submit h (.nnz o) (op.bindTo s h [a]) src [] 0

/-! ### The winnow unit (07/R213 to R216) -/

/-- A stream descriptor (07/R213). -/
structure Winnow where
  dbuf : Nat
  rb : Nat
  nt : Nat
  map : Nat
  bypo : Nat
  head : Nat
  fin : Nat
  txo : Nat
deriving DecidableEq, Repr

/-- Read a descriptor. -/
def Winnow.ofBytes (b : List Byte) : Winnow :=
  ⟨natAt b 0 4, natAt b 4 2, natAt b 6 2, natAt b 8 4, natAt b 12 4, natAt b 16 4, natAt b 20 4, natAt b 24 4⟩

/-- The word that stands for an absent bypass tile or TXB. -/
def none32 : Nat := 0xFFFFFFFF

/-- The regions of a stream: ring, map ring, descriptor, bypass tile. -/
def Winnow.rngs (w : Winnow) (desc : Nat) (dr : Bool) : List Rng :=
  [⟨1, w.dbuf, 64 * w.nt * w.rb⟩, ⟨1, w.map, 256 * w.nt⟩, ⟨1, desc, 32⟩] ++ if dr then [⟨1, w.bypo, 64 * w.rb⟩] else []

/-- The checks of a stream descriptor (log entry 19). -/
def Sheaf.winnowChecks (h : Sheaf) (w : Winnow) (desc : Nat) (dr : Bool) : List Refusal1 :=
  misaligned desc 32 ++ h.beyond desc 32 ++ reserved (w.rb % 4 != 0 || w.nt == 0 || (dr && w.bypo == none32)) ++
  misaligned w.map 4 ++ h.beyondAll (w.rngs desc (dr && w.bypo != none32)) ++
  if w.txo == none32 then [] else misaligned w.txo 16 ++ h.beyond w.txo 16

/-- The transaction barrier a stream names. -/
def Winnow.txbs (w : Winnow) (h : Sheaf) : List Nat := if w.txo == none32 then [] else [h.scrAbs w.txo]

/-- WNW (07/R214). -/
def execWnw (o : FE) (s : State) : Out :=
  engine (.wnw o) .wnw s fun h s =>
    let blk := h.block o.sa 6
    let idx := par blk 0
    let desc := (par blk 5).toNat
    let dr := o.f.getLsbD 2
    let w := Winnow.ofBytes (s.scrRead (h.scrAbs desc) 32)
    s.withEntry h (.wnw o) (idx.extractLsb' 0 8).toNat fun a s =>
      let d := a.side (par blk 1) (fmtBits a.fmt) 1 a.trow a.tcol
      let src := d.rngs a.trow a.tcol
      let cs := reserved (idx.extractLsb' 16 16 != 0 || a.spc != 1 || a.lay != 0 || decide (64 < a.trow) ||
          a.tcol * fmtBits a.fmt != 8 * w.rb) ++ h.winnowChecks w desc dr ++ h.beyondAll src
      if !cs.isEmpty then s.refuse h (.wnw o) cs
      else
        s.submit h (.wnw o) { Op.new s h (.wnw o) .wnw o.h.toNat blk with ents := [a], txbs := w.txbs h } src (w.rngs desc dr) 0

/-- WNF (07/R215). -/
def execWnf (o : FE) (s : State) : Out :=
  engine (.wnf o) .wnf s fun h s =>
    let blk := h.block o.sa 1
    let desc := (par blk 0).toNat
    let w := Winnow.ofBytes (s.scrRead (h.scrAbs desc) 32)
    let cs := h.winnowChecks w desc false
    if !cs.isEmpty then s.refuse h (.wnf o) cs
    else s.submit h (.wnf o) { Op.new s h (.wnf o) .wnf o.h.toNat blk with txbs := w.txbs h } [] (w.rngs desc false) 0

/-- The rows WNX scatters: source row and target row (07/R216). `map` holds the 64 entries, `base` the token base. -/
def wnxRows (e : Entry) (map : List Byte) (base : Word) : List (Nat × Nat) :=
  (List.range 64).filterMap fun r =>
    let m := natAt map (4 * r) 4
    if m == none32 then none
    else
      let t : Int := m - base.toNat
      if 0 ≤ t ∧ t < e.rows then some (r, t.toNat) else none

/-- The two sides of WNX: rows of the destination entry's length, one after another in own scratch. -/
def wnxSides (e : Entry) (off : Nat) : Side × Side :=
  let g := grain e.fmt
  let rowBytes := (e.cols * fmtBits e.fmt + 7) / 8
  (⟨1, 0, off, rowBytes, g.1, 0, 0, 64, e.cols * g.2⟩, { e.side 0 g.1 g.2 0 0 with c0 := 0 })

/-- WNX (07/R216). -/
def execWnx (o : FE) (s : State) : Out :=
  engine (.wnx o) .wnx s fun h s =>
    let blk := h.block o.sa 5
    let idx := par blk 2
    let tx := o.f.getLsbD 0
    let mapOff := (par blk 1).toNat
    s.withEntry h (.wnx o) (idx.extractLsb' 0 8).toNat fun e s =>
      let cs := reserved (idx.extractLsb' 16 16 != 0 || e.lay != 0) ++ misaligned mapOff 4 ++ h.beyond mapOff 256 ++
        (if tx then h.txoChecks (e.spc != 2) (par blk 4) else [])
      if !cs.isEmpty then s.refuse h (.wnx o) cs
      else
        let q := wnxSides e (par blk 0).toNat
        let rows := wnxRows e (s.scrRead (h.scrAbs mapOff) 256) (par blk 3)
        let op : Op := { Op.new s h (.wnx o) .wnx o.h.toNat blk with
          ents := [e], txbs := h.ownTxb (tx && e.spc != 2) (par blk 4) }
        s.submit h (.wnx o) (op.bindTo s h [e]) (⟨1, mapOff, 256⟩ :: q.1.rngs 64 q.1.cols)
          (rows.map fun r => q.2.rowRng r.2 q.2.cols) 0

end Sys2Proof.Machine
end

