-- ==== Sys2Proof/Machine/EngMath.lean ====
section
/-! DEFINITION. The arithmetic of the engines: matrix rows (03/R63 to R66), conversions of tiles (03/R57, R59; 07/R208,
R209), pruning (07/R211), pattern compilation (10/R298), the LSC stream (10/R305 to R308), XA320 (03/R67 to R70). -/

namespace Sys2Proof.Machine

/-! ### Matrix rows -/

/-- The value of an operand element under fz; an e2m1 element is scaled by its E8M0 code (03/R63, R64), and fz:1 flushes its
subnormal of 0.5 too, which is the model's choice (log entry 81). -/
def matVal (fmt : Nat) (fz : Bool) (x : Nat × Nat) : FVal :=
  match fmtOf fmt with
  | none => .fin false 0 0
  | some f =>
    let v := f.decode x.1 fz
    if fmt != 5 then v
    else if x.2 == 0xFF then .nan
    else match v with
      | .fin n m e => .fin n m (e + (x.2 : Int) - 127)
      | y => y

/-- One element of a float result: C, and the pairs of P (03/R63, R64). -/
def mmaElem (rm : Nat) (c : Word) (ps : List (FVal × FVal)) : Word × Flags :=
  let r := f32.sumOf rm false (f32.decode c.toNat false) ps
  (BitVec.ofNat 32 r.1, r.2)

/-- One element of an s8 result: wrapping (03/R46). -/
def mmaElemInt (c : Word) (ps : List (Nat × Nat)) : Word :=
  BitVec.ofInt 32 (ps.foldl (fun (x : Int) (p : Nat × Nat) => x + (BitVec.ofNat 8 p.1).toInt * (BitVec.ofNat 8 p.2).toInt) c.toInt)

/-- An operand element: its bits and its scale code; none where it takes no part. -/
abbrev MatEl := Option (Nat × Nat)

/-- One row of 64 results: formats of A and B, rounding, fz, the row of C, the elements of A by k, of B by k and n. -/
def mmaRow (fa fb kk rm : Nat) (fz : Bool) (c : List Word) (a : Nat → MatEl) (b : Nat → Nat → MatEl) : List Word × Flags :=
  let cell := fun (n : Nat) =>
    let ps := (List.range kk).filterMap fun k => match a k, b k n with
      | some x, some y => some (x, y)
      | _, _ => none
    if fa == 0xC then (mmaElemInt (c.getD n 0) (ps.map fun p => (p.1.1, p.2.1)), (0 : Flags))
    else mmaElem rm (c.getD n 0) (ps.map fun p => (matVal fa fz p.1, matVal fb fz p.2))
  let row := (List.range 64).map cell
  (row.map (·.1), row.foldl (fun (g : Flags) (x : Word × Flags) => g ||| x.2) 0)

/-! ### Tiles in scratch (07/R208, R209) -/

/-- MMLD: one element of TYS to a tile word. -/
def loadElem (tys bits : Nat) : Word :=
  if tys == 0 || tys == 0x10 then BitVec.ofNat 32 bits else BitVec.ofNat 32 (cvtFloat 0 false false tys 0 bits).1

/-- MMST: one tile word to TY. -/
def storeElem (rm : Nat) (sat : Bool) (ty : Nat) (x : Word) : Nat × Flags :=
  if ty == 0 || ty == 0x10 then (x.toNat, 0)
  else if ty == 0xC then
    ((BitVec.ofInt 8 (if sat then max (-128) (min x.toInt 127) else x.toInt)).toNat, 0)
  else cvtFloat rm false sat 0 ty x.toNat

/-- The scale code and elements of a block of 32 (03/R59), with its flags; MXFP4 raises no UF (log entry 75). -/
def mxBlock (rm ty : Nat) (xs : List Word) : Nat × List Nat × Flags :=
  let vs := xs.map fun x => f32.decode x.toNat false
  if vs.any fun v => v.isNan || v.isInf then (0xFF, xs.map fun _ => 0, fIV)
  else
    let lg := fun (v : FVal) => match v with | .fin _ m e => if m == 0 then none else some (e + (m.log2 : Int)) | _ => none
    let top := vs.foldl (fun (t : Option Int) (v : FVal) => match lg v, t with
      | some l, some y => some (max l y) | some l, none => some l | none, t => t) none
    let x : Int := match top with | none => -127 | some l => max (-127) (min (l - scaleEmax ty) 127)
    let f := (fmtOf ty).getD e2m1
    let q := vs.map fun v => match v with
      | .fin n m e => f.round rm false true (.fin n m (e - x))
      | _ => (0, 0)
    let g := q.foldl (fun (g : Flags) (y : Nat × Flags) => g ||| y.2) 0
    ((x + 127).toNat, q.map (·.1), if ty == 5 then g &&& ~~~fUF else g)

/-! ### Non-zeros and pruning (03/R66, 07/R211) -/

/-- Whether an encoding is a non-zero. -/
def nonZero (fmt bits : Nat) : Bool :=
  match fmtOf fmt with
  | some f => bits % f.signBit != 0
  | none => bits != 0

/-- The magnitude rank of an encoding as a pair: NaN above infinity, then by value. Equal magnitudes tie. -/
def rank (fmt bits : Nat) : FVal :=
  match fmtOf fmt with
  | some f => match f.decode bits false with
    | .nan => .nan
    | .inf _ => .inf false
    | .fin _ m e => .fin false m e
  | none => .fin false (BitVec.ofNat 8 bits).toInt.natAbs 0

/-- Whether rank a lies strictly above rank b. -/
def outranks (a b : FVal) : Bool := (a.isNan && !b.isNan) || b.ltNum a

/-- Whether entry `i` of a group is among the `k` kept: fewer than k entries beat it; a tie goes to the lower index. -/
def kept (k : Nat) (rs : List FVal) (i : Nat) : Bool :=
  let me := rs.getD i .nan
  decide ((((List.range rs.length).filter fun j =>
    let y := rs.getD j .nan
    j != i && (outranks y me || (!outranks me y && decide (j < i)))).length) < k)

/-- The marked positions of a 64 × 64 tile in bitmap order: kept non-zeros (07/R211). `el r c` is an element's bits. -/
def marked (fmt k g : Nat) (el : Nat → Nat → Nat) : List Nat :=
  (List.range 4096).filter fun j =>
    let r := j / 64
    let c := j % 64
    let rs := (List.range g).map fun q => rank fmt (el (r / g * g + q) c)
    nonZero fmt (el r c) && kept k rs (r % g)

/-- A bitmap of set positions as bytes. -/
def bitmapBytes (len : Nat) (bits : List Nat) : List Byte :=
  natLe len (bits.foldl (fun (x : Nat) (j : Nat) => x ||| 2 ^ j) 0)

/-- The set positions of a bitmap. -/
def bitmapBits (bs : List Byte) : List Nat :=
  let x := leNat bs
  (List.range (8 * bs.length)).filter fun j => x.testBit j

/-- SPCMP out:0: a BMP64 tile (10/R295). -/
def bmpTile (fmt : Nat) (bits : List Nat) (el : Nat → Nat → Nat) : List Byte :=
  bitmapBytes 512 bits ++ bits.flatMap fun j => natLe (sparseBytes fmt) (el (j / 64) (j % 64))

/-- The rows kept of a group of four of a column, in ascending order: exactly `k` (07/R210 pat 1). -/
def keptRows (fmt k : Nat) (el : Nat → Nat → Nat) (c q : Nat) : List Nat :=
  let rs := (List.range 4).map fun j => rank fmt (el (4 * q + j) c)
  (List.range 4).filter fun j => kept k rs j

/-- SPCMP out:1: pat 1 metadata, then the values as a 16k × 64 tile. A kept zero is stored as the zero it is. -/
def kgTile (fmt k : Nat) (el : Nat → Nat → Nat) : List Byte :=
  let rowsOf := fun c q => keptRows fmt k el c q
  let column := fun c => (List.range 16).foldl (fun (x : Nat) (q : Nat) =>
    (rowsOf c q).zipIdx.foldl (fun (y : Nat) (p : Nat × Nat) => y ||| p.1 * 2 ^ (2 * (k * q + p.2))) x) 0
  (List.range 64).flatMap (fun c => natLe (4 * k) (column c)) ++
  (List.range (16 * k)).flatMap fun r => (List.range 64).flatMap fun c =>
    natLe (sparseBytes fmt) (el (4 * (r / k) + (rowsOf c (r / k)).getD (r % k) 0) c)

/-! ### Pattern compilation (10/R298) -/

/-- Gather and MAC micro-ops of a bitmap. -/
def microOps (bits : List Nat) : Nat :=
  let row := fun k => bits.filter fun j => j / 64 == k
  let gathers := ((List.range 64).filter fun k => !(row k).isEmpty).length
  let runLens := fun k => (List.range 64).foldl (fun (q : Nat × Nat) (c : Nat) =>
    if (row k).contains (64 * k + c) then (q.1 + 1, q.2) else (0, q.2 + (q.1 + 15) / 16)) (0, 0)
  gathers + ((List.range 64).map fun k => (runLens k).2 + ((runLens k).1 + 15) / 16).sum

/-! ### The LSC stream (10/R305 to R307) -/

/-- The code length of a symbol of a code-table object (10/R307). -/
def lenOf (tab : List Byte) (sym : Nat) : Nat := (byteAt tab (8 + sym / 2)).toNat / (if sym % 2 == 0 then 1 else 16) % 16

/-- Symbols of an alphabet: first symbol and count (run code, value code). -/
def runAlpha : Nat × Nat := (0, 17)
/-- See runAlpha. -/
def valAlpha : Nat × Nat := (17, 256)

/-- Whether an alphabet's lengths are those of a complete code, or of one symbol of length 1. -/
def alphaOk (tab : List Byte) (a : Nat × Nat) : Bool :=
  let ls := ((List.range a.2).map fun k => lenOf tab (a.1 + k)).filter fun l => l != 0
  (ls.map fun l => 2 ^ (15 - l)).sum == 2 ^ 15 || ls == [1]

/-- The canonical codes of an alphabet, as (length, code, symbol). -/
def canon (tab : List Byte) (a : Nat × Nat) : List (Nat × Nat × Nat) :=
  ((List.range 15).foldl (fun (q : Nat × List (Nat × Nat × Nat)) (l0 : Nat) =>
    let l := l0 + 1
    let syms := (List.range a.2).filter fun k => lenOf tab (a.1 + k) == l
    let q1 := syms.foldl (fun (p : Nat × List (Nat × Nat × Nat)) (k : Nat) => (p.1 + 1, p.2 ++ [(l, p.1, k)])) q
    (2 * q1.1, q1.2)) (0, [])).2

/-- Bit `p` of a body. -/
def bodyBit (body : List Byte) (p : Nat) : Option Nat :=
  if p < 8 * body.length then some ((byteAt body (p / 8)).toNat / 2 ^ (p % 8) % 2) else none

/-- Read one code: the symbol and the next bit position; none at the end of the body or for an unused code. -/
def readCode (body : List Byte) (cs : List (Nat × Nat × Nat)) : Nat → Nat → Nat → Nat → Option (Nat × Nat)
  | 0, _, _, _ => none
  | n + 1, p, len, code =>
    match bodyBit body p with
    | none => none
    | some b =>
      match cs.find? fun c => c.1 == len + 1 && c.2.1 == 2 * code + b with
      | some c => some (c.2.2, p + 1)
      | none => readCode body cs n (p + 1) (len + 1) (2 * code + b)

/-- Read a run: symbol 16 adds 16 and goes on. -/
def readRun (body : List Byte) (cs : List (Nat × Nat × Nat)) : Nat → Nat → Nat → Option (Nat × Nat)
  | 0, _, _ => none
  | n + 1, p, run =>
    match readCode body cs 15 p 0 0 with
    | none => none
    | some (16, p1) => readRun body cs n p1 (run + 16)
    | some (k, p1) => some (run + k, p1)

/-- Decode NNZ pairs from bit `p` and position `pos`: set positions and values, and the bits consumed (10/R306). -/
def decodePairs (fmt : Nat) (body : List Byte) (rc vc : List (Nat × Nat × Nat)) : Nat → Nat → Nat → List (Nat × Nat) → Option (List (Nat × Nat) × Nat)
  | 0, p, _, acc => some (acc, p)
  | n + 1, p, pos, acc =>
    match readRun body rc (8 * body.length + 1) p 0 with
    | none => none
    | some (run, p1) =>
      match readCode body vc 15 p1 0 0 with
      | none => none
      | some (v, p2) =>
        if 4096 ≤ pos + run || !nonZero fmt v then none
        else decodePairs fmt body rc vc n p2 (pos + run + 1) (acc ++ [(pos + run, v)])

/-- Decode a stream (header and body) with a code table, to the bytes DEC writes; none is ERR_DATA. -/
def lscDecode (stream tab : List Byte) : Option (List Byte) :=
  let fmt := natAt stream 2 1
  let mode := natAt stream 3 1
  let nnz := natAt stream 4 2
  let body := stream.drop 16
  let blen := natAt stream 12 4
  let head := natAt stream 0 2 == 0x5343 && natAt stream 6 2 == 0
  if !head then none
  else if mode == 1 then
    if sparseOk fmt && blen == 4096 * sparseBytes fmt then some (body.take blen) else none
  else if mode != 0 || !(fmt == 3 || fmt == 4 || fmt == 0xC) || 4096 < nnz then none
  else if natAt tab 0 2 != 0x4354 || natAt tab 4 4 != natAt stream 8 4 || !alphaOk tab runAlpha || !alphaOk tab valAlpha then none
  else
    match decodePairs fmt (body.take blen) (canon tab runAlpha) (canon tab valAlpha) nnz 0 0 [] with
    | none => none
    | some (ps, used) =>
      let spare := (List.range (8 * blen - used)).all fun k => bodyBit (body.take blen) (used + k) == some 0
      if (used + 7) / 8 != blen || !spare then none
      else some (bitmapBytes 512 (ps.map (·.1)) ++ ps.map fun p => BitVec.ofNat 8 p.2)
where
  /-- Formats of a dense pass-through body. -/
  sparseOk (f : Nat) : Bool := f == 1 || f == 2 || f == 3 || f == 4 || f == 0xC

/-! ### XA320 (03/R67 to R70) -/

/-- An XA320 accumulator: V, and the flags NAN, PINF, NINF in bits 0 to 2. -/
structure Xa where
  v : BitVec 320
  f : BitVec 3
deriving DecidableEq, Repr

/-- The empty accumulator. -/
def Xa.zero : Xa := ⟨0, 0⟩

/-- Add a value (03/R67): a finite value times 2^149 is an integer. -/
def Xa.add (x : Xa) (v : FVal) : Xa :=
  match v with
  | .nan => { x with f := x.f ||| 1 }
  | .inf false => { x with f := x.f ||| 2 }
  | .inf true => { x with f := x.f ||| 4 }
  | .fin n m e =>
    let k : Int := if 0 ≤ e + 149 then (m : Int) * 2 ^ (e + 149).toNat else (m : Int) / 2 ^ (-(e + 149)).toNat
    { x with v := x.v + BitVec.ofInt 320 (if n then -k else k) }

/-- Join two accumulators. -/
def Xa.join (x y : Xa) : Xa := ⟨x.v + y.v, x.f ||| y.f⟩

/-- Round once into a format (03/R68). -/
def Xa.round (x : Xa) (rm : Nat) (f : Fmt) : Nat × Flags :=
  if x.f.getLsbD 0 then (f.nan, 0)
  else if x.f.getLsbD 1 && x.f.getLsbD 2 then (f.nan, fIV)
  else if x.f.getLsbD 1 then f.round rm false false (.inf false)
  else if x.f.getLsbD 2 then f.round rm false false (.inf true)
  else if x.v == 0 then (0, 0)
  else f.round rm false false ((⟨x.v.toInt, -149⟩ : Dy).val false)

/-- A contribution's value. -/
def contribVal (ty bits : Nat) : FVal := match fmtOf ty with | some f => f.decode bits false | none => .fin false 0 0

/-- The minimum or maximum of two values of a type (03/R70: FMIN and FMAX, R52; MIN and MAX of integers), as bits. -/
def minMax (isMax : Bool) (ty a b : Nat) : Nat :=
  match fmtOf ty with
  | some f =>
    let x := f.decode a false
    let y := f.decode b false
    if x.isNan && y.isNan then f.nan
    else if x.isNan then b
    else if y.isNan then a
    else if isMax then (if x.lt y then b else a) else (if y.lt x then b else a)
  | none =>
    let x := intRead ty a
    let y := intRead ty b
    if isMax then (if x < y then b else a) else (if y < x then b else a)

end Sys2Proof.Machine
end

