-- ==== Sys2Proof/Machine/EngSteps.lean ====
section
/-! DEFINITION. The steps of engine operations (08/R253, R254; 10/R284 to R311): reads of operands, writes of units, row
commits, completion, cancellation (06/R183), engine reset (10/R290, R291), the pattern compiler, energy windows (10/R293). -/

namespace Sys2Proof.Machine

/-! ### Failures and events -/

/-- The 24 bytes of a management event (20/R426). -/
def eventBytes (code die sub core : Nat) (detail : DWord) (time : Nat) : List Byte :=
  natLe 1 code ++ natLe 1 die ++ natLe 1 sub ++ natLe 1 core ++ natLe 4 0 ++ bvLe detail 8 ++ natLe 8 time

/-- Send a management event (20/R426). -/
def State.mgmt (s : State) (code die sub core : Nat) (detail : DWord) : State :=
  { s with rep := { s.rep with msgs := s.rep.msgs ++ [.event (eventBytes code die sub core detail s.ctl.time)] } }

/-- Send an event; a byte, or a detail, that the spec gives no meaning for the event is a free value (20/R426). -/
def State.event (s : State) (code : Nat) (die sub core : Option Nat) (detail : Option DWord) : State :=
  let f := fun (k : Nat) (x : Option Nat) => x.getD (freeByte (s.ctl.free + k)).toNat
  (s.draw 4).mgmt code (f 0 die) (f 1 sub) (f 2 core) (detail.getD (Config.freeValue (s.ctl.free + 3)))

/-- Send an event of a core. -/
def State.coreEvent (s : State) (code core : Nat) (detail : Option DWord) : State :=
  s.event code (some (dieOf core)) (some (clusterOf core % 6)) (some (core % 48)) detail

/-- Whether an operation has failed so that its remaining units are abandoned. -/
def Op.failed (o : Op) : Bool := decide (5 ≤ o.code) || (o.code == 4 && o.kind != .mcast)

/-- Change an operation in place. -/
def State.failOp (s : State) (id code cause : Nat) (addr : DWord) : State := s.modOp id fun o => o.fail code cause addr

/-- The sheaf of an operation and the operation, while it runs and is not at rest. -/
def State.withOp (s : State) (id : Nat) (k : Op → Sheaf → State) : State :=
  match s.op? id with
  | none => s
  | some o => if o.live && !o.resting then (match s.sheaf? o.sheaf with | some h => k o h | none => s) else s

/-! ### What an operation reads -/

/-- An entry of an operation. -/
def Op.ent (o : Op) (k : Nat) : Entry := o.ents.getD k (Entry.ofBits 0)

/-- A bit of F of the command. -/
def Op.f (o : Op) (k : Nat) : Bool := o.insn.getLsbD k

/-- Bytes of a lane of a per-lane copy. -/
def Op.laneBytes (o : Op) : Nat := 4 * 2 ^ (o.insn.extractLsb' 0 2).toNat

/-- The key of a captured range: space, address and length. -/
def Rng.key (r : Rng) : Nat := (r.sp * 2 ^ 80 + r.a) * 2 ^ 40 + r.n

/-- The space of a captured range's key. -/
def keySp (k : Nat) : Nat := k / 2 ^ 120
/-- The address of a captured range's key. -/
def keyAt (k : Nat) : Nat := k / 2 ^ 40 % 2 ^ 80

/-- A byte an operation has read, as it was read first: from its captured ranges, or from a line it was granted. -/
def Op.byte (o : Op) (sp a : Nat) : Option Byte :=
  if sp == 0 then (o.lines.find? fun l => l.1 == a / 128).map fun l => byteOf l.2.1 (a % 128)
  else o.cap.findSome? fun c => if keySp c.1 == sp && keyAt c.1 ≤ a then c.2[a - keyAt c.1]? else none

/-- The aligned 8-byte part `k` of a range. -/
def Rng.part (r : Rng) (k : Nat) : Rng :=
  let lo := max r.a (8 * (r.a / 8 + k))
  ⟨r.sp, lo, min (r.a + r.n) (8 * (r.a / 8 + k + 1)) - lo⟩

/-- How many aligned 8-byte parts a range has. -/
def Rng.parts (r : Rng) : Nat := if r.n == 0 then 0 else (r.a + r.n - 1) / 8 - r.a / 8 + 1

/-- Bytes an operation has read, if all of them are there. -/
def Op.bytes (o : Op) (r : Rng) : Option (List Byte) := (List.range r.n).mapM fun k => o.byte r.sp (r.a + k)

/-- The space of the rounded elements of a reduction round, as its root captures them (19/R419). -/
def resultSpace : Nat := 9

/-- The sides and the (source, destination) rows of a copy, and its columns. -/
structure Shape where
  src : Side
  dst : Side
  nc : Nat
  rows : List (Nat × Nat)
deriving DecidableEq, Repr

/-- The shape of a copy; that of WNX needs its map, that of a root RED goes from its result to its destination (07/R197 to R200,
R204, R216). -/
def Op.shape (o : Op) : Option Shape :=
  match o.kind with
  | .bulk | .mcast =>
    let q := copySides (o.kind == .bulk && o.f 2) (o.ent 0) (o.ent 1) (par o.blk 1) (par o.blk 2)
    some ⟨q.1, q.2.1, (clip q).2, (List.range (clip q).1).map fun r => (r, r)⟩
  | .peer =>
    let n := (par o.blk 2).toNat
    some ⟨runSide 1 0 (par o.blk 0).toNat n, runSide 2 (par o.blk 3).toNat (par o.blk 1).toNat n, n, [(0, 0)]⟩
  | .wnx =>
    let q := wnxSides (o.ent 0) (par o.blk 0).toNat
    (o.bytes ⟨1, (par o.blk 1).toNat, 256⟩).map fun m => ⟨q.1, q.2, q.1.cols, wnxRows (o.ent 0) m (par o.blk 3)⟩
  | .red =>
    let b := o.ent 1
    let w := fmtBits b.fmt
    let d := b.side (par o.blk 2) w 1 b.trow b.tcol
    if o.ents.length == 2 then
      some ⟨⟨resultSpace, 0, 0, b.tcol * w / 8, w, 0, 0, b.trow, b.tcol⟩, d, d.inCols b.tcol, (List.range (d.inRows b.trow)).map fun r => (r, r)⟩
    else none
  | _ => none

/-- The stream header of a DEC. -/
def Op.header (o : Op) : Option (List Byte) := let e := o.ent 0; o.bytes ⟨e.spc, (runSide e.spc e.pmem 0 0).at e.base, 16⟩

/-- The code table of a DEC: held by the decompressor, or read (10/R308). -/
def State.tabOf (s : State) (o : Op) : Option CodeTab :=
  let va := (pairOf (par o.blk 1) (par o.blk 2)).toNat
  (o.header).bind fun hd => s.eng.tabs.find? fun t =>
    t.core == o.core && t.asid == s.asidOf o.ctx && t.va == va && t.ctid.toNat == natAt hd 8 4

/-- The byte ranges an operation reads, as far as they are known (07/R196 to R216). -/
def State.needs (s : State) (o : Op) : List Rng :=
  let k := fun i => (par o.blk i)
  match o.kind with
  | .lg2s => if xSpc o.xmem == 3 then [] else (o.lanes.filter fun c => !c.skip).map fun c => ⟨0, c.g, o.laneBytes⟩
  | .ls2g => (o.lanes.filter fun c => !c.skip).map fun c => ⟨1, c.o, o.laneBytes⟩
  | .bulk | .mcast => copySrc (copySides (o.kind == .bulk && o.f 2) (o.ent 0) (o.ent 1) (k 1) (k 2))
  | .peer => [⟨1, (k 0).toNat, (k 2).toNat⟩]
  | .wnx => ⟨1, (k 1).toNat, 256⟩ :: let q := wnxSides (o.ent 0) (k 0).toNat; q.1.rngs 64 q.1.cols
  | .red => let e := o.ent 0; let g := grain e.fmt; (e.side (k 1) g.1 g.2 e.trow e.tcol).rngs e.trow (e.tcol * g.2)
  | .dec =>
    let e := o.ent 0
    let d := runSide e.spc e.pmem 0 0
    ⟨e.spc, d.at e.base, 16⟩ :: match o.header with
      | none => []
      | some hd => ⟨e.spc, d.at (e.base + 16), streamLen hd⟩ ::
          if natAt hd 3 1 == 1 || (s.tabOf o).isSome then [] else [⟨0, (pairOf (k 1) (k 2)).toNat, 160⟩]
  | .mma | .mmaz =>
    let kk := kOf (o.ent 0).fmt
    blockRngs (o.ent 0) (sideA (o.ent 0) (k 1) kk) 64 kk ++ blockRngs (o.ent 1) (sideB (o.ent 1) (k 2) kk) kk 64
  | .mmld => tileRngs (k 0).toNat (k 1).toNat (64 * fmtBits (xTys o.xmod) / 8)
  | .mmsp =>
    let pat := (o.insn.extractLsb' 0 2).toNat
    let kg := (o.insn.extractLsb' 4 2).toNat
    let off := (k 2).toNat
    let b := o.ent 1
    let m : Rng := ⟨1, off, metaBytes pat kg⟩
    let bs := fmtBits b.fmt / 8
    let vals := if pat == 1 then (b.side (k 3) (fmtBits b.fmt) 1 (16 * kg) 64).rngs (16 * kg) 64
      else match o.bytes m with
        | none => []
        | some mb => [⟨1, off + m.n, (if pat == 0 then (bitmapBits mb).length else 64 * (bitmapBits (mb.take 8)).length) * bs⟩]
    m :: ((sideA (o.ent 0) (k 1) 64).rngs 64 64 ++ vals)
  | .spcmp => (sideA (o.ent 0) (k 1) 64).rngs 64 64
  | .wnw => let e := o.ent 0; ⟨1, (k 5).toNat, 32⟩ :: (e.side (k 1) (fmtBits e.fmt) 1 e.trow e.tcol).rngs e.trow e.tcol
  | .wnf => [⟨1, (k 0).toNat, 32⟩]
  | .nnz =>
    let e := o.ent 0
    let d := runSide e.spc e.pmem 0 0
    if e.lay == 0 then (e.side (k 1) (fmtBits e.fmt) 1 e.trow e.tcol).rngs e.trow e.tcol
    else if e.lay == 1 then [⟨e.spc, d.at e.base, 512⟩]
    else ⟨e.spc, d.at e.base, 16⟩ :: match o.header with
      | some hd => if natAt hd 0 2 == 0x5343 && natAt hd 3 1 == 1 then [⟨e.spc, d.at (e.base + 16), 4096 * streamBytes (natAt hd 2 1)⟩] else []
      | none => []
  | _ => []

/-- Whether a range has been read. A range in scratch was cut at the end of its allotment. -/
def Op.got (o : Op) (r : Rng) : Bool :=
  if r.n == 0 then true
  else if r.sp == 0 then (List.range ((r.a + r.n - 1) / 128 - r.a / 128 + 1)).all fun k => o.lines.any fun l => l.1 == r.a / 128 + k
  else (o.cap.any fun c => c.1 == r.key) ||
    (r.sp != 3 && (List.range r.parts).all fun k => o.cap.any fun c => c.1 == (r.part k).key)

/-- Whether everything known to be needed has been read. -/
def State.fed (s : State) (o : Op) : Bool := (s.needs o).all o.got

/-! ### Reading -/

/-- Bytes of own scratch as an operation reads them: for a byte written since the last OFENCE either value (06/R168). -/
def State.staleRead (s : State) (o : Op) (a n : Nat) : State × List Byte :=
  let bs := (List.range n).map fun k => match o.stale.find? fun c => c.1 == a + k with
    | some c => if freeBit (s.ctl.free + k) then c.2 else s.mm.scr.get (a + k)
    | none => s.mm.scr.get (a + k)
  (if o.stale.isEmpty then s else s.draw n, bs)

/-- The destination of a DEC once its header has been read (07/R201). -/
def State.refit (s : State) (id : Nat) : State :=
  match s.op? id with
  | none => s
  | some o =>
    match o.kind, o.header, s.sheaf? o.sheaf with
    | .dec, some hd, some h => s.modOp id fun x => { x with dstR := s.regionOf h ⟨1, (o.ent 1).base, streamOut hd⟩ }
    | _, _, _ => s

/-- Bytes an operation has read. -/
def State.readDone (s : State) (id key : Nat) (bs : List Byte) : State :=
  (s.modOp id fun x => { x with cap := x.cap ++ [(key, bs)] }).refit id

/-- Capture a range of own scratch: bytes at an absolute address; an uncorrectable word is ERR_DATA (07/R192). -/
def State.capture (s : State) (o : Op) (r : Rng) (a n : Nat) : State :=
  if s.scrBad a n then s.failOp o.id 7 0x12 r.addr
  else
    let q := s.staleRead o a n
    q.1.readDone o.id r.key q.2

/-- Whether a request is one of an operation. -/
def ChanReq.ofOp (r : ChanReq) (op : Nat) : Bool :=
  match r.kind with
  | .opRead p _ | .opWrite p _ => p == op
  | _ => false

/-- The request of an engine operation to a peer's scratchpad (08/R251, R253). -/
def Op.request (o : Op) (t : Sheaf) (k : ChanKind) (off n : Nat) (data : BitVec 128) : ChanReq :=
  { src := o.core, dst := t.core, uid := o.sheaf, id := ⟨o.seq, 0, 0⟩, kind := k, addr := t.scrAbs off, size := n
    data := data, dest := none, holder := t.uid, insn := o.insn, pc := ⟨0, 0, 0⟩, trapa := 0, undef := false, half := none }

/-- Put a request into its channel. -/
def State.send (s : State) (r : ChanReq) : State := { s with mm := { s.mm with chans := s.mm.chans ++ [r] } }

/-- A peer of an operation as its access finds it (09/R270): none is no member; a held one makes the access wait. -/
def State.peerOf (s : State) (h : Sheaf) (m : Nat) : Option (Sheaf × Bool) := (s.member? h m).map fun r => (r.2, r.1.hld)

/-- A peer source that is no member (07/R198): the operation ends ERR_NONMEMBER, and a multicast transfers nothing (log entry
69). -/
def State.noSource (s : State) (o : Op) (r : Rng) : State :=
  (s.failOp o.id 4 7 r.addr).modOp o.id fun x => { x with xfers := x.xfers.map fun z => { z with supp := true } }

/-- Read a range from a scratchpad: own scratch at once, a peer's over the channel (08/R253). -/
def State.readRange (s : State) (o : Op) (h : Sheaf) (r : Rng) : State :=
  if o.got r || o.failed || (s.requests.any fun (c : ChanReq) => c.kind == .opRead o.id r.key) then s
  else if r.sp == 1 then s.capture o r (h.scrAbs r.a) (min r.n (h.scrBytes - r.a))
  else if r.sp == 2 then
    match s.peerOf h (r.a / peerStep) with
    | none => s.noSource o r
    | some (x, held) =>
      let off := r.a % peerStep
      let n := min r.n (x.scrBytes - off)
      if held then s
      else if n == 0 then s.readDone o.id r.key []
      else s.send (o.request x (.opRead o.id r.key) off n 0)
  else s

/-- Whether the earlier winnow operations of the sheaf's slot are done (10/R309). -/
def State.slotTurn (s : State) (o : Op) : Bool :=
  !s.eng.ops.any fun (p : Op) => p.live && p.id < o.id && p.sheaf == o.sheaf && p.kind.isWinnow &&
    p.insn.extractLsb' 0 2 == o.insn.extractLsb' 0 2

/-- Read the `n`-th range of an operation, or its part `k`. The engine's first read of an MMSP is where it starts it (10/R300); a
winnow operation starts, and reads its descriptor, in its turn on the slot (10/R309). -/
def State.engRead (s : State) (o : Op) (h : Sheaf) (n : Nat) (k : Option Nat) : State :=
  if o.pathOpen then s.choosePath h o
  else if o.kind.isWinnow && !s.slotTurn o then s
  else match (s.needs o)[n]?, k with
    | some r, none => s.readRange o h r
    | some r, some k => if k < r.parts && !o.got r then s.readRange o h (r.part k) else s
    | none, _ => s

/-- The response of an operation's read returns. -/
def State.readAnswer (s : State) (op key : Nat) (b : ChanResp) : State :=
  if b.bad then s.failOp op 7 0x12 (Rng.addr ⟨keySp key, keyAt key, 0⟩) else s.readDone op key (natLe b.req.size b.val)

/-- Whether an operation still wants a global line. -/
def State.wantsLine (s : State) (o : Op) (line : Nat) : Bool :=
  o.live && !o.resting && !o.failed && !o.pathOpen && !(o.lines.any fun l => l.1 == line) &&
  (s.needs o).any fun r => r.sp == 0 && meets r.a r.n (line * 128) 128

/-- A page an operation needs is not present: it waits, and the page is asked for (10/R288, R289). -/
def State.suspend (s : State) (o : Op) (va : Nat) : State :=
  (s.modOp o.id fun x => { x with susp := true, fva := va }).askPage ⟨.core o.core, o.ctx, va / 65536⟩

/-- A home grants a line to an operation (08/R245, R253). -/
def State.fillOp (s : State) (id line : Nat) : State :=
  s.withOp id fun o _ =>
    if s.wantsLine o line && !o.susp && !s.lineHeld o.ctx (line * 128) then
      match s.homeOf o.ctx (line * 128) .read with
      | (s1, .denied) => s1.failOp id 5 6 (BitVec.ofNat 64 (line * 128))
      | (s1, .ok x) =>
        if (s1.needs o).any fun r => r.sp == 0 && meets r.a r.n (line * 128) 128 &&
            x.badAt (max r.a (line * 128) % 128) (min (r.a + r.n) (line * 128 + 128) - max r.a (line * 128)) then
          s1.failOp id 7 0x12 (BitVec.ofNat 64 (line * 128))
        else if s1.inFlight (s1.l1Of o.core) x.asid line then s1
        else
          let r := (s1.grant x).1.overStacks o.ctx (line * 128) (lineBytes x.data 0 128)
          (r.1.modOp id fun y => { y with lines := y.lines ++ [(line, if s1.inStacks o.ctx (line * 128) 128 then lineOf r.2 else x.data, x.bad)] }).refit id
      | (s1, _) => s1.suspend o (line * 128)
    else s

/-- A line an operation has read whose bad sector holds a byte it needs, as it turns out once a header has been read (20/R423). -/
def State.badLine (s : State) (o : Op) : Option Nat :=
  (s.needs o).findSome? fun r => if r.sp != 0 then none else
    (o.lines.find? fun l => meets r.a r.n (l.1 * 128) 128 &&
      badIn l.2.2 (max r.a (l.1 * 128) % 128) (min (r.a + r.n) (l.1 * 128 + 128) - max r.a (l.1 * 128))).map fun l => l.1 * 128

/-- FILL (08/R245). -/
def execFill (f : FillFor) (s : State) : Out :=
  .next (match f with
    | .acc uid a => s.fillFor uid a
    | .op id line => s.fillOp id line)

/-! ### The units of a copy -/

/-- Put `w` bits at a bit position of a sector; positions are counted from 64 bits before it. -/
def putBits (q : Nat × Nat) (pos w v : Nat) : Nat × Nat :=
  let m := (2 ^ w - 1) * 2 ^ pos
  ((q.1 - (q.1 &&& m)) ||| (v % 2 ^ w * 2 ^ pos), q.2 ||| m)

/-- The sectors of a destination row of `nc` columns. -/
def Side.sectors (d : Side) (r nc : Nat) : List Nat :=
  if nc == 0 then [] else
    let lo := d.bit r 0 / 256
    let hi := (d.bit r nc - 1) / 256
    (List.range (hi - lo + 1)).map fun k => lo + k

/-- The distinct destination sectors of a copy (07/R198). -/
def Shape.sectors (q : Shape) : List Nat := (q.rows.flatMap fun p => q.dst.sectors p.2 q.nc).dedup

/-- The columns of a destination row that lie in a sector. -/
def Side.colsIn (d : Side) (r nc sec : Nat) : List Nat :=
  let b := d.bit r 0
  let lo := (256 * sec - b) / d.w
  let hi := if b < 256 * sec + 256 then min nc ((256 * sec + 256 - b + d.w - 1) / d.w) else 0
  (List.range (hi - lo)).map fun k => lo + k

/-- The bits of a source element: none where a byte has not been read yet, `some none` where one lies past the end. -/
def Op.elemBits (o : Op) (d : Side) (lim r c : Nat) : Option (Option Nat) :=
  let b := d.bit r c
  let n := (b + d.w + 7) / 8 - b / 8
  if lim < b / 8 + n then some none
  else (o.bytes ⟨d.sp, d.at (b / 8), n⟩).map fun bs => some (leNat bs / 2 ^ (b % 8) % 2 ^ d.w)

/-- The bits and the mask of one destination sector, with the flags of its conversions: none while a byte is missing. -/
def Op.sector (o : Op) (q : Shape) (lim sec : Nat) : Option (Nat × Nat × Flags) :=
  let cv := o.kind == .bulk && o.f 2
  let conv := fun (x : Nat) => if cv then cvtFloat (xRm o.xmod) false (xSat o.xmod) (o.ent 0).fmt (o.ent 1).fmt x else (x, (0 : Flags))
  let one := fun (acc : Option ((Nat × Nat) × Flags)) (p : Nat × Nat × Nat) => match acc, o.elemBits q.src lim p.1 p.2.2 with
    | some a, some (some x) =>
      let y := conv x
      some (putBits a.1 (q.dst.bit p.2.1 p.2.2 + 64 - 256 * sec) q.dst.w y.1, a.2 ||| y.2)
    | some a, some none => some a
    | _, _ => none
  let cells := q.rows.flatMap fun p => (q.dst.colsIn p.2 q.nc sec).map fun c => (p.1, p.2, c)
  (cells.foldl one (some ((0, 0), 0))).map fun a => (a.1.1 / 2 ^ 64 % 2 ^ 256, a.1.2 / 2 ^ 64 % 2 ^ 256, a.2)

/-- The written bytes of a sector over its old ones, as (offset, byte). -/
def sectorBytes (val mask : Nat) (old : List Byte) : List (Nat × Byte) :=
  (List.range 32).filterMap fun k =>
    let m := mask / 256 ^ k % 256
    if m == 0 then none
    else some (k, BitVec.ofNat 8 ((val / 256 ^ k % 256) ||| ((byteAt old k).toNat &&& (255 - m))))

/-- The end of an allotment for a side; other spaces, and an index without a member, have none. -/
def State.limOf (s : State) (h : Sheaf) (d : Side) : Nat :=
  if d.sp == 1 then h.scrBytes
  else if d.sp == 2 then ((s.member? h d.mem).map (·.2.scrBytes)).getD (2 ^ 64)
  else 2 ^ 64

/-- The bytes of a code table. -/
def CodeTab.bytes (t : CodeTab) : List Byte :=
  natLe 2 0x4354 ++ natLe 2 0 ++ natLe 4 t.ctid.toNat ++ (List.range 152).map fun k => BitVec.ofNat 8 (t.lens.getD k 0)

/-- The table of the same identifier and other lengths that memory now holds in the place of a cached one: DEC may use either
version (10/R308). -/
def State.newerTable (s : State) (o : Op) (t : CodeTab) : Option (List Byte) :=
  let now := s.glance o.ctx t.va 160
  if natAt now 0 2 == 0x4354 && natAt now 4 4 == t.ctid.toNat && now.drop 8 != t.bytes.drop 8 then some now else none

/-- The bytes DEC writes, once its stream has been read. -/
def State.decoded (s : State) (o : Op) : Option (Option (List Byte)) :=
  if s.fed o && (o.header).isSome then
    let e := o.ent 0
    let d := runSide e.spc e.pmem 0 0
    let hd := (o.header).getD []
    match o.bytes ⟨e.spc, d.at e.base, 16 + streamLen hd⟩ with
    | none => some none
    | some st =>
      let tab := match s.tabOf o with
        | some t => if Config.tableVersion o.id then (s.newerTable o t).getD t.bytes else t.bytes
        | none => (o.bytes ⟨0, (pairOf (par o.blk 1) (par o.blk 2)).toNat, 160⟩).getD []
      some (lscDecode st tab)
  else none

/-- The unit numbers of an operation: lanes, destination sectors (with the member above bit 60 in a multicast), tile rows
or output chunks. -/
def State.units (s : State) (o : Op) (h : Sheaf) : List Nat :=
  match o.kind with
  | .lg2s | .ls2g => (List.range o.lanes.length).filter fun k => match o.lanes[k]? with | some c => !c.skip | none => false
  | .bulk | .peer | .wnx => match o.shape with
    | some q => q.sectors.filter fun c => 32 * c < s.limOf h q.dst
    | none => []
  | .red => match o.shape with
    | some q => if o.rp < 2 then [] else q.sectors.filter fun c => 32 * c < s.limOf h q.dst
    | none => []
  | .mcast => match o.shape with
    | some q => o.xfers.flatMap fun x => match x.tgt.bind s.sheaf? with
      | some t => if x.supp then [] else (q.sectors.filter fun c => 32 * c < t.scrBytes).map fun c => x.idx * 2 ^ 60 + c
      | none => []
    | none => []
  | .dec => match s.decoded o with
    | some (some bs) => ((List.range ((bs.length + 31) / 32)).map fun k => (o.ent 1).base / 32 + k).filter fun c => 32 * c < h.scrBytes
    | _ => []
  | .spcmp => if s.fed o then [0] else []
  | .mmst => List.range 64
  | .mmcv => List.range (if o.f 0 then 2 else 64)
  | _ => []

/-- The bytes of a run of cells at consecutive addresses, broken at multiples of 8: what the engine writes in one aligned
8-byte write each (07/R194). -/
def runsOf : List (Nat × Byte) → List (Nat × List Byte)
  | [] => []
  | (a, b) :: cs =>
    match runsOf cs with
    | (a', bs) :: rs => if a + 1 == a' && a' % 8 != 0 then (a, b :: bs) :: rs else (a, [b]) :: (a', bs) :: rs
    | [] => [(a, [b])]

/-- The runs of consecutive bytes. -/
def runsAt (a : Nat) (bs : List Byte) : List (Nat × List Byte) := runsOf (bs.zipIdx.map fun p => (a + p.2, p.1))

/-- Where a unit of an operation goes: own scratch, slice memory, a home, a peer's scratch; nowhere yet; a member that has gone;
a remote device, whose writes are its own steps. -/
inductive Target where
  | own
  | slm
  | home
  | peer (t : Sheaf)
  | waits
  | gone
  | far
deriving DecidableEq, Repr

/-- The member an operation's unit goes to (09/R270). -/
def State.peerTarget (s : State) (h : Sheaf) (m : Nat) (uid : Option Nat) : Target :=
  match s.peerOf h m with
  | none => .gone
  | some (t, held) => if uid.isSome && uid != some t.uid then .gone else if held then .waits else .peer t

/-- Where the `n`-th unit of an operation goes. -/
def State.unitTarget (s : State) (o : Op) (h : Sheaf) (n : Nat) : Target :=
  match o.kind with
  | .ls2g => if xSpc o.xmem == 3 then .slm else .home
  | .mcast => match o.xfers.find? fun x => x.idx == n / 2 ^ 60 with
    | some x => s.peerTarget h x.idx x.tgt
    | none => .waits
  | .bulk | .peer | .wnx | .red => match o.shape with
    | some q => if q.dst.sp == 0 then .home else if q.dst.sp == 1 then .own else if q.dst.sp == 2 then s.peerTarget h q.dst.mem none
        else .far
    | none => .waits
  | _ => .own

/-- The runs of a sector of a copy, at the base of its space, over the bytes that stand there. -/
def State.sectorRuns (s : State) (o : Op) (h : Sheaf) (sec base : Nat) (old : List Byte) : Option (List (Nat × List Byte) × Flags) :=
  o.shape.bind fun q => (o.sector q (s.limOf h q.src) sec).map fun y =>
    (runsOf ((sectorBytes y.1 y.2.1 old).map fun p => (base + p.1, p.2)), y.2.2)

/-- A member that a transfer was going to is gone: its transfer is suppressed (07/R198, R199). -/
def State.unitGone (s : State) (o : Op) (n : Nat) : State :=
  if o.kind == .mcast then
    s.modOp o.id fun y => { y with xfers := y.xfers.map fun z => if z.idx == n / 2 ^ 60 then { z with supp := true } else z }
  else s.failOp o.id 4 7 (match o.shape with | some q => peerAddr q.dst.mem (32 * n) | none => 0)

/-- The runs of a lane of a per-lane copy (07/R196). -/
def State.laneRuns (s : State) (o : Op) (h : Sheaf) (n : Nat) : Option (List (Nat × List Byte) × Flags) :=
  (o.lanes[n]?).bind fun c =>
    let len := o.laneBytes
    let slm := xSpc o.xmem == 3
    if o.kind == .lg2s then
      (if slm then (s.slmPos o.ctx c.g len).map fun p => s.slmRead p len else o.bytes ⟨0, c.g, len⟩).map fun bs =>
        (runsAt (h.scrAbs c.o) bs, 0)
    else
      (o.bytes ⟨1, c.o, len⟩).bind fun bs =>
        if slm then (s.slmPos o.ctx c.g len).map fun p => (runsAt p bs, 0) else some (runsAt c.g bs, 0)

/-- Whether a lane's source in slice memory is uncorrectable (07/R192). -/
def State.laneBad (s : State) (o : Op) (n : Nat) : Bool :=
  o.kind == .lg2s && xSpc o.xmem == 3 && match o.lanes[n]? with
    | some c => ((s.slmPos o.ctx c.g o.laneBytes).map fun p => s.slmBad p o.laneBytes).getD false
    | none => false

/-- Whether a lane's place in slice memory is held, its slice being taken out of service (20/R429). -/
def State.laneHeld (s : State) (o : Op) (n : Nat) : Bool :=
  (o.kind == .lg2s || o.kind == .ls2g) && xSpc o.xmem == 3 && match o.lanes[n]? with
    | some c => ((s.slmPos o.ctx c.g o.laneBytes).map fun p => s.sliceHeld (p / 2 ^ 26)).getD false
    | none => false

/-- The runs of a sector of DEC's output. -/
def State.decRuns (s : State) (o : Op) (h : Sheaf) (n : Nat) : Option (List (Nat × List Byte) × Flags) :=
  (s.decoded o).join.map fun bs =>
    (runsAt (h.scrAbs (32 * n)) (((bs.drop (32 * (n - (o.ent 1).base / 32))).take 32).take (h.scrBytes - 32 * n)), 0)

/-- The operations whose unit `n` has been written whole: its flags join. A unit of which no byte was to be written counts no
sector (07/R198). -/
def State.unitDone (s : State) (id n : Nat) (f : Flags) (empty : Bool) : State :=
  s.modOp id fun o => { o with
    done := o.done ++ [n], counted := if empty then o.counted ++ [n] else o.counted, facc := o.facc ||| f
    parts := o.parts.filter fun p => p.1 != n }

/-- Write bytes of one line at its home for an operation; the GWCT folds into OPGW (08/R243, R253). -/
def State.opWrite (s : State) (o : Op) (va : Nat) (bs : List Byte) : State :=
  match s.homeOf o.ctx va .write with
  | (s1, .ok x) =>
    let r := s1.homeWrite o.ctx o.core o.sheaf x (va % 128) bs
    r.1.modOp o.id fun y => { y with opgw := max y.opgw r.2 }
  | (s1, _) => s1

/-- Write a run of unit `n`: at the scratchpad, slice or home, or into the channel to a peer (08/R253). -/
def State.putRun (s : State) (o : Op) (n : Nat) (t : Target) (r : Nat × List Byte) : State :=
  match t with
  | .own => s.plainWrite r.1 r.2 o.sheaf
  | .slm => s.slmWrite r.1 r.2
  | .home => s.opWrite o r.1 r.2
  | .peer x => s.send (o.request x (.opWrite o.id n) (r.1 - x.scrAbs 0) r.2.length (BitVec.ofNat 128 (leNat r.2)))
  | _ => s

/-- Write the runs of a unit that have not been written yet, or the `k`-th of them. -/
def State.putRuns (s : State) (o : Op) (n : Nat) (t : Target) (rs : List (Nat × List Byte)) (k : Option Nat) : State :=
  (rs.zipIdx.filter fun p => (k.isNone || k == some p.2) && !o.parts.contains (n, p.2)).foldl
    (fun (u : State) (p : (Nat × List Byte) × Nat) =>
      (u.putRun o n t p.1).modOp o.id fun x => { x with parts := x.parts ++ [(n, p.2)] }) s

/-- Whether every run of a unit has been written, and acknowledged where it went to a peer. -/
def State.unitWhole (s : State) (id n len : Nat) : Bool :=
  match s.op? id with
  | none => false
  | some o => ((List.range len).all fun k => o.parts.contains (n, k)) &&
      !s.requests.any fun (r : ChanReq) => r.kind == .opWrite id n

/-! ### Tiles -/

/-- A row of a tile: committed, or free values (02/R29). -/
def Tile.row (t : Tile) (r : Nat) : List Word :=
  match (t.rows[r]?).join with
  | some w => w
  | none => (List.range 64).map fun c => freeWord (t.seed + 64 * r + c)

/-- A tile of a sheaf. -/
def Sheaf.tile (h : Sheaf) (n : Nat) : Tile := h.tiles.getD n (freeTile 0)

/-- Commit a row: it is good again (20/R421). -/
def Sheaf.commit (h : Sheaf) (n r : Nat) (w : List Word) : Sheaf :=
  let t := h.tile n
  { h with tiles := h.tiles.set n { t with rows := t.rows.set r (some w), bad := t.bad &&& ~~~((1 : BitVec 64) <<< r) } }

/-- Whether a row is bad. -/
def Sheaf.rowBad (h : Sheaf) (n r : Nat) : Bool := (h.tile n).bad.getLsbD r

/-- The kinds whose commands of one tile run in issue order (07/R207). -/
def OpKind.usesTile : OpKind → Bool
  | .mma | .mmaz | .mmld | .mmst | .mmcl | .mmcv | .mmsp => true
  | _ => false

/-- Whether the earlier operations of the sheaf on the tile are done. -/
def State.tileTurn (s : State) (o : Op) : Bool :=
  !s.eng.ops.any fun (p : Op) => p.live && p.id < o.id && p.sheaf == o.sheaf && p.tile == o.tile && p.kind.usesTile

/-- The rows of its tile that a unit of MMST or MMCV reads. -/
def Op.unitRows (o : Op) (n : Nat) : List Nat :=
  if o.kind == .mmcv && o.f 0 then (List.range 32).map fun r => 32 * n + r else [n]

/-- The runs of a unit of MMST or MMCV: a row with its scales, or a block of 32 rows (07/R208, R209). -/
def Op.tileRuns (o : Op) (h : Sheaf) (n : Nat) : List (Nat × List Byte) × Flags :=
  let k := fun i => (par o.blk i).toNat
  let t := h.tile o.tile
  if o.kind == .mmst then
    let ty := xTy o.xmod
    let es := (t.row n).map fun w => storeElem (xRm o.xmod) (xSat o.xmod) ty w
    (runsAt (h.scrAbs (k 0 + n * k 1)) (es.flatMap fun e => natLe (fmtBits ty / 8) e.1), es.foldl (fun (g : Flags) (e : Nat × Flags) => g ||| e.2) 0)
  else
    let ty := xTy o.xmod
    let rm := xRm o.xmod
    let pack := fun (es : List Nat) => if ty == 5 then natLe 32 (es.zipIdx.foldl (fun (x : Nat) (p : Nat × Nat) => x ||| p.1 * 16 ^ p.2) 0)
      else es.map fun e => BitVec.ofNat 8 e
    let flags := fun (bl : List (Nat × List Nat × Flags)) => bl.foldl (fun (g : Flags) (b : Nat × List Nat × Flags) => g ||| b.2.2) 0
    if o.f 0 then
      let rows := (o.unitRows n).map t.row
      let bl := (List.range 64).map fun c => mxBlock rm ty (rows.map fun w => w.getD c 0)
      (((List.range 32).flatMap fun r => runsAt (h.scrAbs (k 0 + (32 * n + r) * k 1)) (pack (bl.map fun b => b.2.1.getD r 0))) ++
        runsAt (h.scrAbs (k 2 + n * k 3)) (bl.map fun b => BitVec.ofNat 8 b.1), flags bl)
    else
      let w := t.row n
      let bl := [mxBlock rm ty (w.take 32), mxBlock rm ty (w.drop 32)]
      (runsAt (h.scrAbs (k 0 + n * k 1)) (pack (bl.flatMap fun b => b.2.1)) ++
        runsAt (h.scrAbs (k 2 + n * k 3)) (bl.map fun b => BitVec.ofNat 8 b.1), flags bl)

/-! ### SPCMP and winnowing -/

/-- The element of a 64 × 64 block as an operation has read it; zero outside the entry (07/R211). -/
def Op.blockEl (o : Op) (d : Side) (r c : Nat) : Nat :=
  if r < d.inRows 64 ∧ c < d.inCols 64 then (((o.elemBits d (2 ^ 64) r c).getD none)).getD 0 else 0

/-- The output bytes of SPCMP. -/
def Op.pruned (o : Op) : List Byte :=
  let e := o.ent 0
  let el := o.blockEl (sideA e (par o.blk 1) 64)
  let k := ((par o.blk 3).extractLsb' 0 8).toNat
  let g := ((par o.blk 3).extractLsb' 8 8).toNat
  if o.f 0 then kgTile e.fmt k el else bmpTile e.fmt (marked e.fmt k g el) el

/-- The TXB at an offset of an allotment. -/
def State.txbIn (s : State) (x : Sheaf) (off : Nat) : Txb := Txb.ofBits (BitVec.ofNat 128 (leNat (s.allotRead x off 16)))

/-- Whether a range of an allotment touches an uncorrectable word, in its scratchpad or in its image (20/R421). -/
def State.allotBad (s : State) (x : Sheaf) (off n : Nat) : Bool :=
  if x.resident then s.scrBad (x.scrAbs off) n else x.savedBad.any fun w => meets off n w 4

/-- Count sectors of an operation at a transaction barrier in a sheaf's scratch, and set its bits (06/R176, R177). One past the
allotment counts nothing (log entry 84); an uncorrectable one is an error of the operation (20/R421). -/
def State.countTxb (s : State) (o : Op) (x : Sheaf) (off n : Nat) (trn err : Bool) : State :=
  if x.scrBytes < off + 16 then s
  else if s.allotBad x off 16 then s.failOp o.id 7 0x12 (BitVec.ofNat 64 off)
  else
    let t := s.txbIn x off
    let t1 : Txb := { t with trn := t.trn || trn, err := t.err || err }
    s.allotWrite x off (bvLe (if n == 0 then t1 else t1.update false (-(n : Int))).bits 16) o.sheaf

/-- The descriptor of a winnow operation. -/
def Op.desc (o : Op) : Nat := (par o.blk (if o.kind == .wnw then 5 else 0)).toNat

/-- The operations of other slots of the sheaf that name an operation's descriptor and that the sheaf has not observed to have
ended (10/R309; log entry 85). -/
def State.rivals (s : State) (o : Op) : List Op :=
  s.eng.ops.filter fun (p : Op) => (p.live || !p.seenBy.contains p.sheaf) && !p.resting && p.sheaf == o.sheaf && p.kind.isWinnow && p.desc == o.desc &&
    p.insn.extractLsb' 0 2 != o.insn.extractLsb' 0 2

/-- Two slots that name one descriptor leave it and its rings undefined: every operation on it is tainted (10/R309). -/
def State.taintRivals (s : State) (o : Op) : State :=
  match s.rivals o with
  | [] => s
  | rs => (o :: rs).foldl (fun (t : State) (p : Op) => t.modOp p.id fun x => { x with taint := true }) s

/-- The runs of one appended row: its slot in the ring and its map entry (07/R213). -/
def Winnow.slotRuns (w : Winnow) (h : Sheaf) (p : Nat) (row : List Byte) (token : Nat) : List (Nat × List Byte) :=
  let q := p % (64 * w.nt)
  (runsAt (h.scrAbs (w.dbuf + q * w.rb)) row ++ runsAt (h.scrAbs (w.map + 4 * q)) (natLe 4 token)).filter fun r =>
    r.1 + r.2.length ≤ h.scrAbs h.scrBytes

/-- The runs of row `p` as they are written. On a slot that the ring has come round to they are free values where a free bit says
that the slot had not been consumed, which is for the program to know (07/R213; log entry 70). -/
def State.wrapRuns (s : State) (w : Winnow) (p : Nat) (rs : List (Nat × List Byte)) : List (Nat × List Byte) :=
  if 64 * w.nt ≤ p && freeBit (s.ctl.free + p) then
    rs.map fun r => (r.1, freeBytes (s.ctl.free + 2 ^ 33 + r.1) r.2.length)
  else rs

/-- `n` rows have been appended: HEAD and DONE advance in the descriptor as the operation holds it and in scratch; a complete
tile's sectors are counted at the stream's TXB (07/R213, R214; 10/R309). -/
def State.appended (s : State) (o : Op) (h : Sheaf) (w : Winnow) (bytes : List Byte) (n : Nat) : State :=
  let full := n != 0 && (w.head + n) % 64 == 0
  let tail := natLe 4 (w.head + n) ++ natLe 4 (if full then w.fin + 1 else w.fin)
  let s1 := (s.scrWrite (h.scrAbs (o.desc + 16)) tail h.uid).modOp o.id fun x =>
    { x with cap := ((⟨1, o.desc, 32⟩ : Rng).key, bytes.take 16 ++ tail ++ bytes.drop 24) :: x.cap }
  if full && w.txo != none32 then s1.countTxb o h w.txo ((64 * w.rb + 31) / 32) false false else s1

/-- Write the runs of one row of a winnow operation, and go on with `k` once all are written. -/
def State.rowRuns (s : State) (o : Op) (n : Nat) (rs : List (Nat × List Byte)) (part : Option Nat) (k : State → State) : State :=
  let s1 := s.putRuns o n .own rs part
  if s1.unitWhole o.id n rs.length then (k s1).modOp o.id fun x => { x with parts := [] } else s1

/-- WNW's next row (07/R214). -/
def State.winnowRow (s0 : State) (o : Op) (h : Sheaf) (part : Option Nat) : State :=
  let e := o.ent 0
  let d := e.side (par o.blk 1) (fmtBits e.fmt) 1 e.trow e.tcol
  let r := o.rp
  let step := fun (t : State) => t.modOp o.id fun x => { x with rp := r + 1 }
  if !s0.slotTurn o || e.trow ≤ r then s0
  else
    let s := s0.taintRivals o
    match o.bytes ⟨1, o.desc, 32⟩, o.bytes (d.rowRng r (d.inCols e.tcol)) with
    | none, _ => s
    | some db, row =>
      let w := Winnow.ofBytes db
      if d.inRows e.trow ≤ r then step s
      else match row with
        | none => s
        | some row =>
          if (pairOf (par o.blk 2) (par o.blk 3)).getLsbD r then
            let rs := s.wrapRuns w w.head (w.slotRuns h w.head row ((par o.blk 4).toNat + r))
            (s.draw (2 ^ 34)).rowRuns o r rs part fun t => step (t.appended o h w db 1)
          else if o.f 2 then
            s.rowRuns o r ((runsAt (h.scrAbs (w.bypo + r * w.rb)) row).filter fun q => q.1 + q.2.length ≤ h.scrAbs h.scrBytes) part step
          else step s

/-- WNF's next fill row (07/R215): with HEAD at a multiple of 64 nothing is left to fill. -/
def State.winnowFlush (s0 : State) (o : Op) (h : Sheaf) (part : Option Nat) : State :=
  if !s0.slotTurn o || 64 ≤ o.rp then s0
  else
    let s := s0.taintRivals o
    match o.bytes ⟨1, o.desc, 32⟩ with
    | none => s
    | some db =>
      let w := Winnow.ofBytes db
      if w.head % 64 == 0 then s.modOp o.id fun x => { x with rp := 64 }
      else
        let rs := s.wrapRuns w w.head (w.slotRuns h w.head (List.replicate w.rb 0) none32)
        (s.draw (2 ^ 34)).rowRuns o o.rp rs part fun t => (t.appended o h w db 1).modOp o.id fun x => { x with
          rp := if (w.head + 1) % 64 == 0 then 64 else o.rp + 1 }

/-! ### Writing -/

/-- The runs of a unit, once what it needs has been read. -/
def State.unitRuns (s : State) (o : Op) (h : Sheaf) (n : Nat) (t : Target) : Option (List (Nat × List Byte) × Flags) :=
  let sec := n % 2 ^ 60
  match o.kind with
  | .lg2s | .ls2g => s.laneRuns o h n
  | .dec => s.decRuns o h n
  | .mmst | .mmcv => if s.tileTurn o then some (o.tileRuns h n) else none
  | .spcmp => if s.fed o then some (runsAt (h.scrAbs (par o.blk 2).toNat) o.pruned, 0) else none
  | _ => match t with
    | .own => s.sectorRuns o h sec (h.scrAbs (32 * sec)) (s.scrRead (h.scrAbs (32 * sec)) 32)
    | .peer x => s.sectorRuns o h sec (x.scrAbs (32 * sec)) (s.scrRead (x.scrAbs (32 * sec)) 32)
    | .home => match s.homeOf o.ctx (32 * sec) .any with
      | (_, .ok x) => s.sectorRuns o h sec (32 * sec) (lineBytes x.data (32 * sec % 128) 32)
      | _ => none
    | _ => none

/-- Write the runs of a unit, or its `k`-th, and mark the unit written once it is whole. -/
def State.putUnit (s : State) (o : Op) (h : Sheaf) (n : Nat) (t : Target) (k : Option Nat) : State :=
  match s.unitRuns o h n t with
  | none => s
  | some (rs, f) =>
    let s1 := s.putRuns o n t rs k
    if s1.unitWhole o.id n rs.length then s1.unitDone o.id n f rs.isEmpty else s1

/-- The address in global memory of a unit. -/
def Op.unitVa (o : Op) (n : Nat) : Nat := if o.kind == .ls2g then ((o.lanes[n]?).map (·.g)).getD 0 else 32 * n

/-- Write a unit of an operation, at a home or at a scratchpad or slice. -/
def State.writeUnit (s : State) (o : Op) (h : Sheaf) (n : Nat) (k : Option Nat) (home : Bool) : State :=
  if o.failed || o.done.contains n || !(s.units o h).contains n then s
  else if (s.badLine o).isSome then s.failOp o.id 7 0x12 (BitVec.ofNat 64 ((s.badLine o).getD 0))
  else
    match s.unitTarget o h n with
    | .gone => s.unitGone o n
    | .waits | .far => s
    | .home =>
      if !home || o.susp || s.lineHeld o.ctx (o.unitVa n) then s
      else match s.homeOf o.ctx (o.unitVa n) .write with
        | (s1, .ok _) => s1.putUnit o h n .home k
        | (s1, .denied) => s1.failOp o.id 5 6 (BitVec.ofNat 64 (o.unitVa n))
        | (s1, _) => s1.suspend o (o.unitVa n)
    | t =>
      if home || s.laneHeld o n then s
      else if s.laneBad o n then s.failOp o.id 7 0x12 (BitVec.ofNat 64 ((o.lanes[n]?).map (·.g) |>.getD 0))
      else if (o.kind == .mmst || o.kind == .mmcv) && s.tileTurn o && (o.unitRows n).any (h.rowBad o.tile) then
        s.failOp o.id 7 0x12 (BitVec.ofNat 64 n)
      else s.putUnit o h n t k

/-- The acknowledgement of an operation's write to a peer returns. -/
def State.writeAnswer (s : State) (op n holder : Nat) : State :=
  s.withOp op fun o h =>
    match s.sheaf? holder with
    | none => s
    | some x =>
      if o.failed || o.done.contains n then s
      else match s.unitRuns o h n (.peer x) with
        | some (rs, f) => if s.unitWhole op n rs.length then s.unitDone op n f rs.isEmpty else s
        | none => s

/-- ENGINE_SCRATCH_ACCESS (08/R253). -/
def execEngineScratchAccess (op : Nat) (act : EngAct) (s : State) : Out :=
  let write := fun (o : Op) (h : Sheaf) (n : Nat) (k : Option Nat) =>
    if o.failed then s
    else match o.kind with
      | .wnw => s.winnowRow o h k
      | .wnf => s.winnowFlush o h k
      | _ => s.writeUnit o h n k false
  .next (s.withOp op fun o h => match act with
    | .read n => s.engRead o h n none
    | .readPart n k => s.engRead o h n (some k)
    | .write n => write o h n none
    | .writePart n k => write o h n (some k))

/-- HOME_WRITE_PERFORM (08/R243). -/
def execHomeWritePerform (w : WriteId) (s : State) : Out :=
  .next (match w with
    | .acc uid a => s.performStore uid a
    | .unit op n => s.withOp op fun o h => s.writeUnit o h n none true
    | .part op n k => s.withOp op fun o h => s.writeUnit o h n (some k) true)

/-! ### Channels: responses (08/R251) -/

/-- The response or acknowledgement at the head of a return FIFO reaches the sheaf or the engine that waits for it. -/
def State.respond (s : State) (src dst : Nat) : State :=
  match s.mm.backs.find? fun b => b.req.src == src && b.req.dst == dst with
  | none => s
  | some b =>
    let s1 : State := { s with mm := { s.mm with backs := s.mm.backs.eraseP fun (x : ChanResp) => x.req.src == src && x.req.dst == dst } }
    match b.req.kind with
    | .acc _ => s1.accAnswer b
    | .arrive => s1.modSheaf b.req.uid fun h => { h with arr := h.arr.map Arrival.returned }
    | .opRead op key => s1.readAnswer op key b
    | .opWrite op n => s1.writeAnswer op n b.req.holder

/-! ### Multicast -/

/-- MCAST_TRANSFER_START (07/R199): membership is checked now; a held member makes the transfer wait. -/
def execMcastTransferStart (op member : Nat) (s : State) : Out :=
  .next (s.withOp op fun o h =>
    match o.xfers.find? fun x => x.idx == member && x.tgt.isNone && !x.supp with
    | none => s
    | some _ =>
      let set := fun (f : Xfer → Xfer) => s.modOp op fun y => { y with xfers := y.xfers.map fun z => if z.idx == member then f z else z }
      match s.member? h member with
      | none => set fun z => { z with supp := true }
      | some (m, t) => if m.hld then s else set fun z => { z with tgt := some t.uid })

/-! ### Rows -/

/-- An operand element of a side, with its scale; none outside the entry or not read. -/
def Op.matEl (o : Op) (e : Entry) (d : Side) (nr nc r c : Nat) : MatEl :=
  if r < d.inRows nr ∧ c < d.inCols nc then
    match (o.elemBits d (2 ^ 64) r c).join with
    | none => none
    | some x =>
      if e.fmt == 5 then (o.byte e.spc (e.scaleAt d r c)).map fun b => (x, b.toNat) else some (x, 0)
  else none

/-- The row of A that an operation multiplies next, of `kk` columns. -/
def Op.rowA (o : Op) (a : Entry) (kk : Nat) : List MatEl :=
  let d := sideA a (par o.blk 1) kk
  (List.range kk).map fun k => o.matEl a d 64 kk o.rp k

/-- The metadata of a sparse B (07/R210). -/
def Op.sparseMeta (o : Op) : List Byte :=
  (o.bytes ⟨1, (par o.blk 2).toNat, metaBytes (o.insn.extractLsb' 0 2).toNat (o.insn.extractLsb' 4 2).toNat⟩).getD []

/-- The element of a sparse B at (k, n), its metadata being `m` and the bits set in them `on` (07/R210): none where the pattern
marks it absent. -/
def Op.sparseEl (o : Op) (m : List Byte) (on : List Nat) (k n : Nat) : MatEl :=
  let pat := (o.insn.extractLsb' 0 2).toNat
  let kg := (o.insn.extractLsb' 4 2).toNat
  let off := (par o.blk 2).toNat
  let b := o.ent 1
  let bs := fmtBits b.fmt / 8
  let val := fun (i : Nat) => (o.bytes ⟨1, off + metaBytes pat kg + i * bs, bs⟩).map fun v => (leNat v, 0)
  match pat with
  | 0 =>
    if (m.getD (8 * k + n / 8) 0).getLsbD (n % 8) then val (on.filter fun j => j < 64 * k + n).length else none
  | 1 =>
    let run := natAt m (4 * kg * n) (4 * kg)
    let q := k / 4
    match (List.range kg).find? fun i => run / 2 ^ (2 * (kg * q + i)) % 4 == k % 4 with
    | some i => o.matEl b (b.side (par o.blk 3) (fmtBits b.fmt) 1 (16 * kg) 64) (16 * kg) 64 (kg * q + i) n
    | none => none
  | _ =>
    let blk := 8 * (k / 8) + n / 8
    let x := natAt m 0 8
    if x.testBit blk then val (64 * ((List.range blk).filter fun j => x.testBit j).length + 8 * (k % 8) + n % 8) else none

/-- Whether the indices of pat 1 ascend strictly within every group (07/R210). -/
def Op.ascending (o : Op) : Bool :=
  let kg := (o.insn.extractLsb' 4 2).toNat
  let m := (o.bytes ⟨1, (par o.blk 2).toNat, metaBytes 1 kg⟩).getD []
  (List.range 64).all fun n => (List.range 16).all fun q => (List.range (kg - 1)).all fun i =>
    let run := natAt m (4 * kg * n) (4 * kg)
    decide (run / 2 ^ (2 * (kg * q + i)) % 4 < run / 2 ^ (2 * (kg * q + i + 1)) % 4)

/-- Whether the values of an MMSP pat 0 or 2 run past the allotment, with the first address past it (07/R210). -/
def Op.overrun (o : Op) (h : Sheaf) : Option Nat :=
  let pat := (o.insn.extractLsb' 0 2).toNat
  let off := (par o.blk 2).toNat
  let bs := fmtBits (o.ent 1).fmt / 8
  match pat, o.bytes ⟨1, off, metaBytes pat 0⟩ with
  | 0, some m => if h.scrBytes < off + 512 + (bitmapBits m).length * bs then some h.scrBytes else none
  | 2, some m => if h.scrBytes < off + 32 + 64 * (bitmapBits (m.take 8)).length * bs then some h.scrBytes else none
  | _, _ => none

/-- The row of C that an operation adds to. -/
def Op.cRow (o : Op) (h : Sheaf) : List Word :=
  if o.kind == .mmaz then List.replicate 64 0 else (h.tile o.tile).row o.rp

/-- The row an operation commits next. -/
def Op.result (o : Op) (h : Sheaf) : List Word × Flags :=
  let a := o.ent 0
  let b := o.ent 1
  match o.kind with
  | .mmcl => (List.replicate 64 0, 0)
  | .mmld =>
    let es := fmtBits (xTys o.xmod) / 8
    let bs := (o.bytes ⟨1, (par o.blk 0).toNat + o.rp * (par o.blk 1).toNat, 64 * es⟩).getD []
    ((List.range 64).map fun c => loadElem (xTys o.xmod) (natAt bs (es * c) es), 0)
  | .mmsp =>
    let m := o.sparseMeta
    let row := o.rowA a 64
    mmaRow a.fmt b.fmt 64 (xRm o.xmod) (o.f 2) (o.cRow h) (fun k => (row[k]?).join) (o.sparseEl m (bitmapBits m))
  | _ =>
    let kk := kOf a.fmt
    let row := o.rowA a kk
    mmaRow a.fmt b.fmt kk (xRm o.xmod) (o.f 0) (o.cRow h) (fun k => (row[k]?).join)
      (fun k n => o.matEl b (sideB b (par o.blk 2) kk) kk 64 k n)

/-- Whether an MMSP waits for its pattern (10/R300). -/
def State.patternWait (s : State) (o : Op) (h : Sheaf) : Bool :=
  o.kind == .mmsp && o.comp == some true && s.compiling h (par o.blk 2).toNat (o.ent 1).fmt

/-- Work of a declared class has been done for a context on a die (10/R294). -/
def State.worked (s : State) (ctx die : Nat) : State :=
  s.modCtx ctx fun c => { c with energy := c.energy.modify die fun (e : Energy) => { e with work := true } }

/-- Commit the next row (10/R285). -/
def State.commitRow (s : State) (o : Op) (h : Sheaf) : State :=
  let r := o.result h
  let s0 := if o.kind == .mmcl || o.kind == .mmld then s else s.worked o.ctx (dieOf o.core)
  (s0.putSheaf (h.commit o.tile o.rp r.1)).modOp o.id fun x => { x with
    rp := o.rp + 1, idle := 0, facc := x.facc ||| r.2, status := if o.kind == .mmcl && o.rp == 63 then some 0 else x.status }

/-- Free values for a row, drawn at `k`. -/
def freeRow (k : Nat) : List Word := (List.range 64).map fun c => freeWord (k + c)

/-- ROW_COMMIT (10/R285): with its operands read, in its turn on the tile. -/
def execRowCommit (op : Nat) (s : State) : Out :=
  .next (s.withOp op fun o h =>
    if !o.kind.writesTile || o.failed || o.susp || 64 ≤ o.rp || !s.tileTurn o || !s.fed o || s.patternWait o h then s
    else if o.kind == .mmsp && (o.overrun h).isSome then
      if o.code == 3 then s else s.failOp op 3 8 (BitVec.ofNat 64 ((o.overrun h).getD 0))
    else if o.kind == .mmsp && o.insn.extractLsb' 0 2 == 1 && !o.ascending then s.failOp op 7 0x12 0
    else if (o.kind == .mma || o.kind == .mmsp) && h.rowBad o.tile o.rp then
      let s1 := (s.draw 64).putSheaf { h with tiles := h.tiles.modify o.tile fun (t : Tile) => { t with rows := t.rows.set o.rp (some (freeRow s.ctl.free)) } }
      (s1.failOp op 7 0x12 (BitVec.ofNat 64 o.rp)).modOp op fun x => { x with trunc := true }
    else s.commitRow o h)

/-! ### Undefined destinations -/

/-- Leave a global range undefined to every reader (06/R183, 07/R192): free bytes at the homes, copies dropped. -/
def State.spoilGlob (s : State) (ctx va n : Nat) : State :=
  let s1 := (List.range n).foldl (fun (t : State) (k : Nat) => match t.homeOf ctx (va + k) .any with
    | (t1, .ok x) => (t1.draw 1).modHome x.asid x.line fun y => { y with
        data := putLine y.data ((va + k) % 128) [freeByte t1.ctl.free], dirty := y.dirty ||| rangeMask 128 ((va + k) % 128) 1 }
    | (t1, _) => t1) s
  s1.dropCopies fun c => (c.asid == s.asidOf ctx || c.asid == 0) && meets va n (c.line * 128) 128

/-- The peers whose scratch an operation names as its destination: the members of a multicast, or PMEM. -/
def State.peerDsts (s : State) (o : Op) (h : Sheaf) (q : Shape) : List Sheaf :=
  if o.kind == .mcast then o.xfers.filterMap fun x => match x.tgt with
    | some u => s.sheaf? u
    | none => if x.supp then none else (s.member? h x.idx).map (·.2)
  else if q.dst.sp == 2 then ((s.member? h q.dst.mem).map (·.2)).toList
  else []

/-- Leave the ranges that a copy names in its peers' scratch undefined. -/
def State.spoilPeers (s : State) (o : Op) (h : Sheaf) : State :=
  match o.shape with
  | none => s
  | some q => (s.peerDsts o h q).foldl (fun (t : State) (x : Sheaf) => q.rows.foldl (fun (u : State) (p : Nat × Nat) =>
      let lo := q.dst.bit p.2 0 / 8
      let n := min ((q.dst.bit p.2 q.nc + 7) / 8) x.scrBytes - lo
      if n == 0 then u else (u.draw n).allotWrite x lo (freeBytes u.ctl.free n) o.sheaf) t) s

/-- Leave everything an operation writes undefined. -/
def State.spoilAll (s : State) (o : Op) (h : Sheaf) : State :=
  let s1 := (s.spoil o).spoilPeers o h
  o.dstR.foldl (fun (t : State) (r : Nat × Nat × Nat) =>
    if r.1 == 0 then t.spoilGlob o.ctx r.2.1 r.2.2
    else if r.1 == 2 then (t.draw r.2.2).slmWrite r.2.1 (freeBytes t.ctl.free r.2.2)
    else t) s1

/-- Leave the rows of a tile from `r` on undefined (10/R290). -/
def State.spoilRows (s : State) (uid tile r : Nat) : State :=
  (s.draw 4096).modSheaf uid fun h => { h with tiles := h.tiles.modify tile fun (t : Tile) => { t with
    rows := t.rows.mapIdx fun k w => if r ≤ k then some (freeRow (s.ctl.free + 64 * k)) else w } }

/-! ### Completion -/

/-- The first address of a row of a side at or past the end of an allotment (07/R198). -/
def Side.past (d : Side) (lim r nc : Nat) : Option DWord :=
  if nc != 0 && lim < (d.bit r nc + 7) / 8 then some (Rng.addr ⟨d.sp, d.at (max lim (d.bit r 0 / 8)), 1⟩) else none

/-- The first destination address of a copy at or past the end of an allotment. -/
def Shape.dstCut (q : Shape) (lim : Nat) : Option DWord := q.rows.findSome? fun p => q.dst.past lim p.2 q.nc

/-- The first source address of a copy at or past the end of its allotment. -/
def State.srcCut (s : State) (h : Sheaf) (q : Shape) : Option DWord :=
  if q.src.sp == 1 || q.src.sp == 2 then q.rows.findSome? fun p => q.src.past (s.limOf h q.src) p.1 q.nc else none

/-- The first address past an allotment that a copy names: of its destination, else of its source (07/R198). -/
def State.truncation (s : State) (o : Op) (h : Sheaf) : Option DWord :=
  match o.kind with
  | .lg2s | .ls2g => (o.lanes.find? fun c => c.skip).map fun c => BitVec.ofNat 64 c.o
  | .dec => match s.decoded o with
    | some (some bs) =>
      if h.scrBytes < (o.ent 1).base + bs.length then some (BitVec.ofNat 64 (max h.scrBytes (o.ent 1).base)) else none
    | _ => none
  | _ => match o.shape with
    | none => none
    | some q =>
      let dst := if o.kind == .mcast then
          o.xfers.findSome? fun x => if x.supp then none
            else (x.tgt.bind s.sheaf?).bind fun t => { q with dst := { q.dst with sp := 2, mem := x.idx } : Shape }.dstCut t.scrBytes
        else if q.dst.sp == 1 || q.dst.sp == 2 then q.dstCut (s.limOf h q.dst) else none
      match dst with
      | some a => some a
      | none => s.srcCut h q

/-- The count of a dense, bitmap or compressed tile (07/R212, 13/R316); none until it has been read. -/
def State.nonZeros (s : State) (o : Op) : Option Nat :=
  let e := o.ent 0
  if !s.fed o then none
  else if e.lay == 0 then
    let d := e.side (par o.blk 1) (fmtBits e.fmt) 1 e.trow e.tcol
    some (((List.range (d.inRows e.trow)).map fun r => ((List.range (d.inCols e.tcol)).filter fun c =>
      nonZero e.fmt (((o.elemBits d (2 ^ 64) r c).getD none).getD 0)).length).sum)
  else
    let d := runSide e.spc e.pmem 0 0
    if e.lay == 1 then (o.bytes ⟨e.spc, d.at e.base, 512⟩).map fun bs => (bitmapBits bs).length
    else (o.header).map fun hd =>
      if natAt hd 0 2 != 0x5343 || 1 < natAt hd 3 1 then 0xFFFFFFFF
      else if natAt hd 3 1 == 0 then natAt hd 4 2
      else
        let fmt := natAt hd 2 1
        let b := streamBytes fmt
        let body := (o.bytes ⟨e.spc, d.at (e.base + 16), 4096 * b⟩).getD []
        ((List.range 4096).filter fun j => nonZero fmt (natAt body (b * j) b)).length

/-- Whether all of an operation's work is done, or abandoned. -/
def State.finished (s : State) (o : Op) (h : Sheaf) : Bool :=
  o.failed || match o.kind with
    | .mma | .mmaz | .mmld | .mmsp => decide (64 ≤ o.rp) || (o.kind == .mmsp && o.code == 3)
    | .mmcl => false
    | .red => decide (2 ≤ o.rp) && (s.units o h).all fun n => o.done.contains n
    | .wnw => decide ((o.ent 0).trow ≤ o.rp)
    | .wnf => decide (64 ≤ o.rp)
    | .nnz => s.fed o
    | .pcomp => !s.compiling h (par o.blk 0).toNat ((par o.blk 1).extractLsb' 0 5).toNat
    | .dscd | .pref => true
    | .spcmp => s.fed o && o.done.contains 0
    | .dec => (s.decoded o).isSome && (s.units o h).all fun n => o.done.contains n
    | .mcast => (o.xfers.all fun x => x.supp || x.tgt.isSome) && (s.units o h).all fun n => o.done.contains n
    | .wnx => (o.shape).isSome && (s.units o h).all fun n => o.done.contains n
    | _ => (s.units o h).all fun n => o.done.contains n

/-- F bit of tx: of the form (07/R194, R196, R204, R216). -/
def Op.tx (o : Op) : Bool :=
  match o.kind with
  | .lg2s | .ls2g | .red => o.f 2
  | .bulk | .mcast | .dec | .peer | .wnx => o.f 0
  | _ => false

/-- Index of TXO in the parameter block. -/
def Op.txoAt (o : Op) : Nat := match o.kind with | .peer | .red | .wnx => 4 | _ => 3

/-- Index of FLO in the parameter block: FLV follows. -/
def Op.floAt (o : Op) : Nat := match o.kind with | .peer => 5 | _ => 4

/-- Whether a copy stores a flag: fl:1 of the bulk forms (07/R194). -/
def Op.fl (o : Op) : Bool :=
  match o.kind with
  | .bulk | .mcast | .dec | .peer => o.f 1
  | _ => false

/-- The units written and not yet counted. -/
def Op.uncounted (o : Op) : List Nat := o.done.filter fun n => !o.counted.contains n

/-- Whether a unit belongs to a member's transfer. -/
def unitOf (idx n : Nat) : Bool := n / 2 ^ 60 == idx

/-- Whether every sector of a member's transfer that lies in its allotment has been written (07/R199). -/
def State.xferDone (s : State) (o : Op) (x : Xfer) : Bool :=
  match o.shape with
  | none => false
  | some q => q.sectors.all fun c => o.done.contains (x.idx * 2 ^ 60 + c) || match x.tgt.bind s.sheaf? with
    | some t => t.scrBytes ≤ 32 * c
    | none => false

/-- A multicast with the transfers suppressed whose member went before they were done (07/R199). -/
def State.lostXfers (s : State) (o : Op) (h : Sheaf) : Op :=
  { o with xfers := o.xfers.map fun x => match x.tgt with
    | some u => if s.xferDone o x || ((s.member? h x.idx).map fun r => r.2.uid) == some u then x else { x with supp := true }
    | none => x }

/-- Whether a member's transfer was whole: every byte of the tile has reached it (07/R194, R199). -/
def State.xferWhole (s : State) (o : Op) (h : Sheaf) (x : Xfer) (t : Sheaf) : Bool :=
  !o.failed && !x.supp && t.resident && s.xferDone o x && match o.shape with
    | some q => (s.srcCut h q).isNone && (q.dstCut t.scrBytes).isNone
    | none => false

/-- The scratch that holds the TXB of a copy's one destination: the issuing sheaf's, or the peer's that receives. -/
def State.txbHolder (s : State) (o : Op) (h : Sheaf) : Option Sheaf :=
  match o.kind, o.shape with
  | .bulk, some q | .peer, some q | .wnx, some q | .red, some q =>
    if q.dst.sp == 2 then (s.member? h q.dst.mem).map (·.2) else some h
  | _, _ => some h

/-- Count what has been written since the last count (06/R177): at the TXB of the destination, or of each member. -/
def State.countOp (s : State) (o : Op) (h : Sheaf) (trn err : Bool) : State :=
  if !o.tx then s
  else
    let off := (par o.blk o.txoAt).toNat
    let src := (o.shape.map fun q => (s.srcCut h q).isSome).getD false
    let s1 := if o.kind == .mcast then
        o.xfers.foldl (fun (t : State) (x : Xfer) => match x.tgt.bind t.sheaf? with
          | some r =>
            let cut := trn && (src || ((o.shape.map fun q => (q.dstCut r.scrBytes).isSome).getD false))
            t.countTxb o r off (o.uncounted.filter (unitOf x.idx)).length cut err
          | none => t) s
      else match s.txbHolder o h with
        | some r => s.countTxb o r off o.uncounted.length trn err
        | none => s
    s1.modOp o.id fun x => { x with counted := x.counted ++ x.done.filter fun n => !x.counted.contains n }

/-- The outcome of a flag store: stored, or the code it leaves and its violation. -/
def State.flagStore (s : State) (o : Op) (h : Sheaf) : State × Nat × Option (Nat × DWord) :=
  let w := par o.blk o.floAt
  let off := (w.extractLsb' 0 19).toNat
  let mem := (w.extractLsb' 19 6).toNat
  let val := bvLe (par o.blk (o.floAt + 1)) 4
  if o.kind == .mcast then
    (o.xfers.foldl (fun (t : State) (x : Xfer) => match x.tgt.bind t.sheaf? with
      | some r => if t.xferWhole o h x r && off + 4 ≤ r.scrBytes then t.plainWrite (r.scrAbs off) val o.sheaf else t
      | none => t) s, 0, none)
  else if w.getLsbD 25 then
    match s.member? h mem with
    | none => (s, 4, some (7, BitVec.ofNat 64 mem))
    | some (_, r) => if off + 4 ≤ r.scrBytes then (s.plainWrite (r.scrAbs off) val o.sheaf, 0, none)
        else (s, 3, some (8, peerAddr mem off))
  else (s.plainWrite (h.scrAbs off) val o.sheaf, 0, none)

/-- The members a completion touches: while one is held, or requests to it are on their way, it waits (09/R270). -/
def Op.completionPeers (o : Op) : List Nat :=
  let flo := par o.blk o.floAt
  (if o.fl && o.kind != .mcast && flo.getLsbD 25 then [(flo.extractLsb' 19 6).toNat] else []) ++
  match o.kind, o.shape with
  | .bulk, some q | .peer, some q | .red, some q => if q.dst.sp == 2 then [q.dst.mem] else []
  | .mcast, _ => (o.xfers.filter fun x => x.tgt.isSome && !x.supp).map fun x => x.idx
  | _, _ => []

/-- Whether the release of a flag store may pass (07/R194, 08/R253): no release of the sheaf before its command is still
unsatisfied (08/R241); OPGW + 4, the batches of the writes, and at system scope the pool. -/
def State.flagReady (s : State) (o : Op) (h : Sheaf) : Bool :=
  let scp := (xScp o.xmem).toNat
  (!h.mq.any fun e => match e with | .release n _ => n < o.seq | _ => false) &&
  (scp < 2 || decide (o.opgw + 4 ≤ s.reading o.core) &&
   (!s.stk.subs.any fun (p : Sub) => p.batches.any fun (b : Batch) => b.causes.contains o.sheaf) &&
   (decide (scp < 6) || !s.mm.homes.any fun (x : Home) => x.owed.contains o.sheaf))

/-- DSCD takes effect (07/R202): the lines go without write-back, the contents of the range are undefined, and so are the
bytes of stores to it that are still on their way. -/
def State.discard (s : State) (o : Op) (va n : Nat) : State :=
  let asid := s.asidOf o.ctx
  let s1 := (pagesOf va n).foldl (fun (t : State) (p : Nat) => match t.translate o.ctx (max va (p * 65536)) with
    | (t1, .page x) =>
      let lo := max va (p * 65536)
      let len := min (va + n) (p * 65536 + 65536) - lo
      (t1.draw len).backWrite x.hm (x.paOf lo) (freeBytes t1.ctl.free len)
    | (t1, _) => t1) s
  let inside := fun (line : Nat) => meets va n (line * 128) 128
  let spoilAcc := fun (h : Sheaf) (e : MqEntry) => match e with
    | .acc a => if h.ctx == o.ctx && a.kind == .store && a.space == .glob && meets va n a.addr a.size
        then MqEntry.acc { a with data := pairOf2 (Config.freeValue (s1.ctl.free + 2 * a.id.seq)) (Config.freeValue (s1.ctl.free + 2 * a.id.seq + 1)) } else e
    | e => e
  let top := s1.sheaves.foldl (fun (m : Nat) (h : Sheaf) => max m (2 * h.nseq + 2)) 0
  let s2 := s1.draw top
  { s2 with
    sheaves := s2.sheaves.map fun h => { h with mq := h.mq.map (spoilAcc h) }
    mm := { s2.mm with
      homes := s2.mm.homes.filter fun (x : Home) => !((x.asid == asid || x.asid == 0) && inside x.line)
      l1 := s2.mm.l1.filter fun c => !((c.asid == asid || c.asid == 0) && inside c.line) } }
where
  /-- Two 64-bit halves. -/
  pairOf2 (a b : BitVec 64) : BitVec 128 := b ++ a

/-- The lines of a range that PREF brings into L2 (07/R203). -/
def State.prefetch (s : State) (o : Op) (va n : Nat) : State :=
  if n == 0 then s
  else (List.range ((va + n - 1) / 128 - va / 128 + 1)).foldl (fun (t : State) (k : Nat) =>
    match t.homeOf o.ctx ((va / 128 + k) * 128) .read with
    | (t1, .ok _) => t1
    | _ => t) s

/-- The range of a DSCD or PREF. -/
def Op.span (o : Op) : Nat × Nat :=
  ((pairOf (par o.blk 0) (par o.blk 1)).toNat, if o.kind == .pref then (par o.blk 2).toNat else (pairOf (par o.blk 2) (par o.blk 3)).toNat)

/-- Put a code table into the decompressor, four to a core, the least recently used going; a table of another magic is not kept
(10/R307, R308). -/
def State.keepTable (s : State) (o : Op) : State :=
  match o.bytes ⟨0, (pairOf (par o.blk 1) (par o.blk 2)).toNat, 160⟩, o.header, s.tabOf o with
  | _, _, some t =>
    State.fresh { s with eng := { s.eng with tabs := s.eng.tabs.map fun (x : CodeTab) => if x == t then { x with used := s.ctl.nextId } else x } } 1
  | some t, some hd, none =>
    if natAt hd 3 1 != 0 || natAt t 0 2 != 0x4354 then s
    else
      let e : CodeTab := ⟨o.core, s.asidOf o.ctx, (pairOf (par o.blk 1) (par o.blk 2)).toNat, BitVec.ofNat 32 (natAt t 4 4),
        (t.drop 8).map (·.toNat), s.ctl.nextId⟩
      let mine := (sortBy (fun (x : CodeTab) => s.ctl.nextId - x.used) (s.eng.tabs.filter fun x => x.core == o.core)).take 3
      State.fresh { s with eng := { s.eng with tabs := e :: (mine ++ s.eng.tabs.filter fun x => x.core != o.core) } } 1
  | _, _, none => s

/-- Whether a DEC has read a code table that is not the one its stream names: nothing is written (07/R201, 10/R307). -/
def State.wrongTable (s : State) (o : Op) : Bool :=
  o.kind == .dec && s.fed o && (s.tabOf o).isNone &&
  match o.header, o.bytes ⟨0, (pairOf (par o.blk 1) (par o.blk 2)).toNat, 160⟩ with
  | some hd, some t => natAt hd 0 2 == 0x5343 && natAt hd 3 1 == 0 && (natAt t 0 2 != 0x4354 || natAt t 4 4 != natAt hd 8 4)
  | _, _ => false

/-- Whether a status CODE leaves the destination undefined: ERR_DATA of a copy, an unserviceable or malformed operand of a
matrix operation (07/R192, R210). `trunc` of a matrix operation marks a bad row, which is undefined alone (20/R421). -/
def State.spoils (s : State) (o : Op) (code : Nat) : Bool :=
  o.taint || (code == 7 && (!o.trunc || o.kind == .lg2s || o.kind == .ls2g) && !s.wrongTable o) || (o.kind == .mmsp && code == 3)

/-- The requests of an operation that are still on their way go with it. -/
def State.dropRequests (s : State) (op : Nat) : State :=
  { s with mm := { s.mm with chans := s.mm.chans.filter fun r => !r.ofOp op, backs := s.mm.backs.filter fun b => !b.req.ofOp op } }

/-- An operation ends with a status: what is undefined becomes so, its violations are logged, those met and those in `vs`, copies of
written lines leave the core's L1, NNZ's register is written (07/R192; 08/R253, R254; 17/R389). -/
def State.endOp (s : State) (o : Op) (h : Sheaf) (code : Nat) (detail : BitVec 48) (vs : List (Nat × DWord)) : State :=
  let s0 := s.dropRequests o.id
  let s1 := if code == 6 then (if o.kind.usesTile then s0.spoilRows o.sheaf o.tile o.rp else s0)
    else if s0.spoils o code then s0.spoilAll o h else s0
  let s2 := (o.viol ++ vs).foldl (fun (t : State) (v : Nat × DWord) => t.violate o.core o.ctx h.shid v.1 v.2) s1
  let asid := s.asidOf o.ctx
  let s3 := s2.dropCopies fun c => c.l1 == s.l1Of h.core && (c.asid == asid || c.asid == 0) &&
    o.dstR.any fun r => r.1 == 0 && meets r.2.1 r.2.2 (c.line * 128) 128
  let s4 := if o.kind == .nnz then s3.modSheaf o.sheaf fun x => x.setS o.hreg
      (if code == 0 then BitVec.ofNat 32 ((s.nonZeros o).getD 0) else freeWord s3.ctl.free) else s3
  (s4.draw 1).modOp o.id fun x => { x with status := some (detail ++ (0 : BitVec 13) ++ BitVec.ofNat 3 code), susp := false }

/-- DETAIL of a multicast: its suppressed members (06/R180). -/
def Op.suppBits (o : Op) : BitVec 48 :=
  (o.xfers.filter fun x => x.supp).foldl (fun (m : BitVec 48) (x : Xfer) => m ||| ((1 : BitVec 48) <<< x.idx)) 0

/-- Log the further suppressed members of a multicast (07/R199). -/
def State.logSupp (s : State) (o : Op) (h : Sheaf) : State :=
  o.xfers.foldl (fun (t : State) (x : Xfer) => if x.supp then t.violate o.core o.ctx h.shid 7 (BitVec.ofNat 64 x.idx) else t) s

/-- What an operation whose work is done comes to: its code, the violations beside those it has met, and whether it was truncated
(07/R192, R198; 17/R389). A per-lane copy that has been cancelled and whose started lanes are done is CANCELLED (06/R183). -/
def State.outcome (s : State) (o : Op) (h : Sheaf) : Nat × List (Nat × DWord) × Bool :=
  let cut := if o.kind.isBulk || o.kind == .lg2s || o.kind == .ls2g then s.truncation o h else none
  let bad := o.kind == .dec && s.decoded o == some none && !o.failed
  let supp := o.xfers.any fun x => x.supp
  (if o.code == 2 then 2 else max (max o.code (if cut.isSome then 3 else 0)) (max (if supp then 4 else 0) (if bad then 7 else 0)),
    (match cut with
      | some a => if o.viol.any fun v => v.1 == 8 then [] else [(8, a)]
      | none => []) ++ (if bad then [(0x12, BitVec.ofNat 64 (o.ent 0).base)] else []),
    cut.isSome)

/-- The reduction group of an operation. -/
def State.group? (s : State) (gid : Word) : Option GroupRec := s.fab.groups.find? fun g => g.gid == gid

/-- The contributions that a round with room for `n` takes, in the order of arrival, and those that wait for the next one
(19/R419). -/
def takeRound : Nat → List Contrib → List Contrib × List Contrib
  | _, [] => ([], [])
  | n, c :: cs =>
    if c.n ≤ n then ((c :: (takeRound (n - c.n) cs).1), (takeRound (n - c.n) cs).2)
    else ((takeRound n cs).1, c :: (takeRound n cs).2)

/-- What has arrived for a group, as its open round takes it. -/
def State.round (s : State) (gid : Word) : List Contrib × List Contrib :=
  takeRound (((s.group? gid).map (·.ncont)).getD 0) (s.fab.contribs.filter fun c => c.gid == gid)

/-- What a group's open round holds. -/
def State.held (s : State) (gid : Word) : List Contrib := (s.round gid).1

/-- How many contributions a group's open round holds. -/
def State.heldCount (s : State) (gid : Word) : Nat := ((s.held gid).map fun c => c.n).sum

/-- Change a group record. -/
def State.modGroup (s : State) (gid : Word) (f : GroupRec → GroupRec) : State :=
  { s with fab := { s.fab with groups := s.fab.groups.map fun g => if g.gid == gid then f g else g } }

/-- What the open round of a group holds goes, what waited for the next stays: in a device that is not the root it has been
sent on (19/R419). -/
def State.passRound (s : State) (gid : Word) : State :=
  { s with fab := { s.fab with contribs := (s.fab.contribs.filter fun c => c.gid != gid) ++ (s.round gid).2 } }

/-- The open round of a group ends, and EPOCH advances (19/R419). -/
def State.endRound (s : State) (gid : Word) : State :=
  (s.passRound gid).modGroup gid fun g => { g with epoch := g.epoch + 1 }

/-- Whether an operation is the root's of a group: of the root context, in the root device, with a destination (07/R204,
19/R418). -/
def State.isRoot (s : State) (g : GroupRec) (o : Op) : Bool :=
  o.ents.length == 2 && g.rootDev == s.fab.self && g.rootCtx == o.ctx

/-- The last part of a completion: the handle status, with what the operation does as a whole (08/R253); the round of a root
ends with it (19/R419). -/
def State.closeOp (s : State) (o : Op) (h : Sheaf) : State :=
  let c := s.outcome o h
  let supp := o.xfers.any fun x => x.supp
  let s1 := match o.kind with
    | .dec => s.keepTable o
    | .dscd => s.discard o o.span.1 o.span.2
    | .pref => s.prefetch o o.span.1 o.span.2
    | .red => if (s.held (par o.blk 3)).any fun c => c.op == some o.id then s.endRound (par o.blk 3) else s
    | _ => s
  let s2 := if supp then s1.logSupp o h else s1
  s2.endOp { o with taint := o.taint || (o.kind == .dec && ((s.tabOf o).bind (s.newerTable o)).isSome) } h c.1
    (if c.1 == 4 && o.kind == .mcast then o.suppBits else if c.1 == 5 then o.detail else 0) c.2.1

/-- The completion of an operation whose work is done, one part at a step: the TXB, the flag, the status, in this order
(08/R253). A flag store that fails is an error of the copy (06/R177). -/
def State.completeOp (s : State) (o0 : Op) (h : Sheaf) : State :=
  let o := if o0.kind == .mcast then s.lostXfers o0 h else o0
  let s0 := s.modOp o.id fun x => { x with xfers := o.xfers }
  let c := s0.outcome o h
  if o.stage == 0 && o.tx then
    (s0.countOp o h c.2.2 (decide (3 ≤ c.1))).modOp o.id fun x => { x with stage := 1 }
  else if o.stage < 2 && o.fl && (c.1 == 0 || o.kind == .mcast) then
    if s0.flagReady o h then
      let fl := s0.flagStore o h
      match fl.2.2 with
      | none => fl.1.modOp o.id fun x => { x with stage := 2 }
      | some v => (fl.1.countOp o h false true).modOp o.id fun x => { x.fail fl.2.1 v.1 v.2 with stage := 2 }
    else s0.sendBatches o.sheaf
  else s0.closeOp o h

/-- The elements of a RED contribution: bits of each element of the tile, none outside the entry. -/
def Op.contribution (o : Op) : List (List Byte) :=
  let e := o.ent 0
  let d := e.side (par o.blk 1) (fmtBits e.fmt) 1 e.trow e.tcol
  let nr := d.inRows e.trow
  let nc := d.inCols e.tcol
  (List.range (e.trow * e.tcol)).map fun j =>
    if j / e.tcol < nr ∧ j % e.tcol < nc then
      match (o.elemBits d (2 ^ 64) (j / e.tcol) (j % e.tcol)).join with
      | some x => natLe (fmtBits e.fmt / 8) x
      | none => []
    else []

/-- A RED's contribution reaches its switch (19/R419): accepted while the open round has room. Any but the
root's is then DONE. -/
def State.contribute (s : State) (o : Op) (h : Sheaf) : State :=
  match s.group? (par o.blk 3) with
  | none => s.failOp o.id 5 6 0
  | some g =>
    if s.fed o && o.rp == 0 && decide (s.heldCount g.gid < g.ncont) then
      let c : Contrib := ⟨g.gid, if s.isRoot g o then some o.id else none, (o.ent 0).trow, (o.ent 0).tcol,
        o.insn.extractLsb' 0 2, BitVec.ofNat 5 (xTy o.xmod), (o.ent 0).fmt, 1, false, o.contribution⟩
      let s1 : State := { s with fab := { s.fab with contribs := s.fab.contribs ++ [c] } }
      if s.isRoot g o then s1.modOp o.id fun x => { x with rp := 1 } else s1.endOp o h 0 0 []
    else s

/-- COMPLETE (08/R253). -/
def execComplete (op : Nat) (s : State) : Out :=
  .next (s.withOp op fun o h =>
    if o.kind == .red && !o.failed && o.rp < 2 then s.contribute o h
    else if (s.badLine o).isSome && !o.failed then s.failOp op 7 0x12 (BitVec.ofNat 64 ((s.badLine o).getD 0))
    else if (o.susp && !o.failed) || !s.finished o h then s
    else if o.completionPeers.any fun m => ((s.peerOf h m).map fun r => r.2 || s.requests.any fun (c : ChanReq) =>
        c.src == o.core && c.dst == r.1.core).getD false then s
    else s.completeOp o h)

/-! ### Cancellation (06/R183) -/

/-- The units of an operation that have been started and are not whole. -/
def Op.started (o : Op) : List Nat := ((o.parts.map (·.1)).filter fun n => !o.done.contains n).dedup

/-- Write what is left of the started units of an operation: those at a scratchpad of the sheaf's own, a slice or a home are then
whole (06/R183). -/
def State.finishStarted (s : State) (o : Op) (h : Sheaf) : State :=
  o.started.foldl (fun (t : State) (n : Nat) => ((t.op? o.id).map fun p => t.writeUnit p h n none (s.unitTarget o h n == .home)).getD t) s

/-- End a cancelled per-lane copy once its started lanes are whole; while one waits for its page the rest of its lanes are left
out, and its completion ends it. -/
def State.cancelLanes (s : State) (o : Op) (h : Sheaf) : State :=
  let s1 := s.finishStarted o h
  match s1.op? o.id with
  | none => s1
  | some p =>
    if p.started.isEmpty then
      let s2 := s1.countOp p h p.trunc p.trunc
      s2.endOp ((s2.op? p.id).getD p) h 2 0 []
    else s1.modOp p.id fun x =>
      let rest := (s1.units p h).filter fun n => !p.done.contains n && !p.started.contains n
      { x with done := x.done ++ rest, counted := x.counted ++ rest, code := 2 }

/-- Cancel a running operation, the bytes of an allotment that is saved changing in its image. A cancelled copy makes no flag store,
a multicast whose transfers to some members are whole included (log entry 86). A winnow operation finishes the row in
progress. -/
def State.cancelOp (s : State) (o : Op) (h : Sheaf) : State :=
  let now := fun (t : State) => (t.op? o.id).getD o
  let ended := fun (t : State) => t.endOp (now t) h 2 0 []
  let gone := fun (t : State) => t.endOp { now t with taint := false } h 2 0 []
  match o.kind with
  | .bulk | .mcast | .peer | .dec | .wnx =>
    let t := s.finishStarted o h
    gone ((t.countOp (now t) h false false).spoilAll o h)
  | .lg2s | .ls2g => s.cancelLanes o h
  | .dscd => gone (s.discard o o.span.1 o.span.2)
  | .red => if o.rp == 0 then ended s else s
  | .mma | .mmaz | .mmsp | .mmld | .mmst | .mmcv | .spcmp => gone (s.spoilAll o h)
  | .wnw => ended (if o.parts.isEmpty then s else s.winnowRow o h none)
  | .wnf => ended (if o.parts.isEmpty then s else s.winnowFlush o h none)
  | .pref | .pcomp => ended s
  | .mmcl | .nnz => s

/-- HCAN (06/R183). -/
def execHcan (o : FSY) (s : State) : Out :=
  issue (.hcan o) s fun h s =>
    match h.getH o.h.toNat with
    | .empty => s.decodeTrap h (encode (.hcan o)) 9
    | .bar b => s.done (if b.code == 1 then h.setH o.h.toNat (.bar { b with code := 2 }) else h)
    | .op id =>
      match s.op? id with
      | some p =>
        if p.live && p.stage < 2 then
          match s.sheaf? p.sheaf with
          | some hp => let s1 := s.cancelOp p hp; s1.done ((s1.sheaf? h.uid).getD h)
          | none => s.done h
        else s.done h
      | none => s.done h

/-! ### Stalls and fences (10/R290, R291) -/

/-- The running operations of a core's matrix engine: in their turn on the tile, not suspended, their operands read and no
pattern to wait for, with rows to commit. -/
def State.matrixRunning (s : State) (core : Nat) : List Op :=
  s.eng.ops.filter fun (o : Op) => o.live && !o.resting && !o.susp && o.core == core && o.kind.writesTile && s.tileTurn o &&
    s.fed o && !o.failed && !((s.sheaf? o.sheaf).map (s.patternWait o)).getD false

/-- Thousandths of a cycle after which an operation that commits no row has stalled: 65,536 cycles (10/R290). -/
def stallTime : Nat := 65536000

/-- What a replay keeps of an operation: the metadata of an MMSP, whose run uses one pattern throughout (13/R318). A root that has
captured its round's result captures it again. -/
def Op.replayed (o : Op) : Op :=
  let off := (par o.blk 2).toNat
  { o with
    lines := [], idle := 0, rp := if o.kind == .red then min o.rp 1 else o.rp
    cap := o.cap.filter fun c => o.kind == .mmsp && keySp c.1 == 1 && off ≤ keyAt c.1 &&
      keyAt c.1 < off + metaBytes (o.insn.extractLsb' 0 2).toNat (o.insn.extractLsb' 4 2).toNat }

/-- An operation fails: ERR_ENGINE, with the event MMFAIL; the times of failures are kept for the fence. -/
def State.engineFail (s : State) (o : Op) : State :=
  match s.sheaf? o.sheaf with
  | none => s
  | some h => (s.endOp o h 6 0 []).coreEvent 4 o.core none

/-- Nanoseconds of an hour. -/
def hourNs : Nat := 3600000000000

/-- Fence a core's matrix engine after two failures in an hour: what is queued completes ERR_ENGINE, and MMFAIL is sent with
bit 63 of its detail set. -/
def State.fenceEngine (s : State) (core : Nat) : State :=
  let recent := s.eng.fails.filter fun f => f.1 == core && s.ctl.time < f.2 + hourNs
  if 2 ≤ recent.length && !s.eng.fenced.contains core then
    let s1 : State := { s with eng := { s.eng with fenced := s.eng.fenced ++ [core] } }
    let s2 := (s1.eng.ops.filter fun (o : Op) => o.live && !o.resting && o.core == core && o.kind.isMatrix).foldl
      (fun (t : State) (o : Op) => match t.sheaf? o.sheaf with | some h => t.endOp o h 6 0 [] | none => t) s1
    s2.coreEvent 4 core (some (Config.freeValue s2.ctl.free ||| 0x8000000000000000))
  else s

/-- MM_STALL_RESET (10/R290): an engine that has committed no row of a running operation for 65,536 cycles is reset, and its
running operations replay from their RP; one that stalls again fails. -/
def execMmStallReset (core : Nat) (s : State) : Out :=
  .next (match (s.matrixRunning core).filter fun o => stallTime ≤ o.idle with
    | [] => s
    | o :: _ =>
      let replay := fun (p : Op) =>
        if p.live && !p.resting && p.core == core && p.kind.writesTile then
          { p.replayed with stalls := if p.id == o.id then p.stalls + 1 else p.stalls }
        else p
      let s1 : State := { s with eng := { s.eng with ops := s.eng.ops.map replay } }
      let s2 := s1.coreEvent 3 core none
      if o.stalls == 0 then s2
      else
        let s3 := s2.engineFail o
        State.fenceEngine { s3 with eng := { s3.eng with fails := (core, s.ctl.time) :: s3.eng.fails } } core)

/-! ### The pattern compiler and the power manager -/

/-- Whether an operation is a PCOMP of an entry, with the sheaf whose allotment the entry names. -/
def Op.compiles (o : Op) (h : Sheaf) (p : Pattern) : Bool :=
  o.kind == .pcomp && o.live && o.sheaf == h.uid && (par o.blk 0).toNat == p.off && ((par o.blk 1).extractLsb' 0 5).toNat == p.fmt

/-- The compiler has met an uncorrectable word of the bitmap: the entry goes, and the PCOMPs of it end ERR_DATA (20/R421). -/
def State.compileFails (s : State) (h : Sheaf) (p : Pattern) : State :=
  (s.eng.ops.filter fun (o : Op) => o.compiles h p).foldl
    (fun (t : State) (o : Op) => t.failOp o.id 7 0x12 (BitVec.ofNat 64 p.off)) (s.dropPatterns fun x => x.id == p.id)

/-- PATTERN_COMPILE_DONE (10/R298, R299). -/
def execPatternCompileDone (core entry : Nat) (s : State) : Out :=
  .next (match s.eng.pats.find? fun p => p.id == entry && p.core == core && p.state == .compiling with
    | none => s
    | some p =>
      match s.sheaves.find? fun h => h.alloc.id == p.alloc && h.core == p.core with
      | none => s
      | some h =>
        if s.scrBad (h.scrAbs p.off) 512 then s.compileFails h p else
        let bits := bitmapBits (s.scrRead (h.scrAbs p.off) 512)
        let ops := microOps bits
        let dense := 1024 < ops || p.dthr < bits.length
        ({ s with eng := { s.eng with
            pats := s.eng.pats.map fun x => if x.id == p.id then
              { x with state := if dense then .dense else .compiled, uops := if dense then 0 else ops, bits := bits } else x } } : State).worked
          p.ctx (dieOf core))

/-- The refill of one budget at the start of window `w` (10/R293, R294), `m` being the energy measured in the last one: none
where no work of a declared class was done. -/
def Energy.refill (e : Energy) (m w : Nat) : Energy :=
  let used := if e.work then m else 0
  let short := used - e.debits
  { e with bud := min (e.bud + e.rate - short) (4 * e.rate), short := short, debits := 0, win := w, work := false, last := used }

/-- ENERGY_WINDOW (10/R293): at each TIME that is a multiple of 1000. -/
def execEnergyWindow (die : Nat) (s : State) : Out :=
  .next (if s.ctl.time % 1000 == 0 then
      let w := s.ctl.time / 1000
      let one := fun (c : Ctx) (e : Energy) => if e.win < w then e.refill (Config.measuredEnergy c.id die (w - 1)) w else e
      { s with ctxs := s.ctxs.map fun c => { c with energy := c.energy.modify die (one c) } }
    else s)

end Sys2Proof.Machine
end

