-- ==== Sys2Proof/Machine/Stook.lean ====
section
/-! DEFINITION. The group STK and the steps of subscriptions (07/R217 to R222; 09/R267 to R283). -/

namespace Sys2Proof.Machine

/-! ### Joining and leaving -/

/-- The stook of a name in a cluster (07/R218). -/
def State.stookNamed (s : State) (ctx cluster : Nat) (name : Word) : Option Stook :=
  s.stk.stooks.find? fun k => k.ctx == ctx && k.cluster == cluster && k.name == name

/-- The lowest free member index of a list of members. -/
def freeIndex (ms : List Member) : Nat := ((List.range 64).find? fun k => !ms.any fun (m : Member) => m.idx == k).getD 64

/-- The status code of an SJOIN, 0 where it succeeds (07/R218: the order of the checks). -/
def State.joinCode (s : State) (h : Sheaf) (name : Word) (idx : Nat) : Word :=
  let k := s.stookNamed h.ctx (clusterOf h.core) name
  let ms := (k.map (·.members)).getD []
  if h.stook.isSome then 0x80000004
  else if name.getLsbD 31 then 0x80000005
  else if 64 < idx then 0x80000006
  else if k.isNone && decide (256 ≤ (s.stk.stooks.filter fun x => x.cluster == clusterOf h.core).length) then 0x80000003
  else if ms.length == 64 then 0x80000002
  else if ms.any fun m => m.idx == idx then 0x80000001
  else 0

/-- Put a sheaf into the stook of a name at an index, creating the stook where there is none (09/R269). -/
def State.joinAs (s : State) (h : Sheaf) (name : Word) (idx : Nat) : State :=
  let m : Member := ⟨idx, h.uid, false⟩
  match s.stookNamed h.ctx (clusterOf h.core) name with
  | some k =>
    let s1 : State := { s with stk := { s.stk with stooks := s.stk.stooks.map fun x =>
      if x.id == k.id then { x with members := x.members ++ [m] } else x } }
    s1.putSheaf { h with stook := some (k.id, idx) }
  | none =>
    let k : Stook := ⟨s.ctl.nextId, name, h.ctx, clusterOf h.core, false, 0, [m]⟩
    let s1 : State := { s with stk := { s.stk with stooks := s.stk.stooks ++ [k] } }
    (s1.fresh 1).putSheaf { h with stook := some (k.id, idx) }

/-- Whether a request resolved against the entry of a member that has left its stook has still to be delivered: no sheaf takes
an index before that (09/R271). -/
def State.strayRequests (s : State) : Bool :=
  s.mm.chans.any fun r => !s.stk.stooks.any fun k => k.members.any fun (m : Member) => m.uid == r.holder

/-- SJOIN (07/R218). -/
def execSjoin (o : FS3) (s : State) : Out :=
  issue (.sjoin o) s fun h s =>
    s.afterRelease h 2 false fun h s =>
      let name := h.getS o.sa.toNat
      let want := (h.getS o.sb.toNat).toNat
      let code := s.joinCode h name want
      if code != 0 then s.done (h.setS o.sd.toNat code)
      else if s.strayRequests then s.hold h false
      else
        let ms := ((s.stookNamed h.ctx (clusterOf h.core) name).map (·.members)).getD []
        let idx := if want == 64 then freeIndex ms else want
        let s1 := s.joinAs h name idx
        let h1 := (s1.sheaf? h.uid).getD h
        s1.done (h1.setS o.sd.toNat (BitVec.ofNat 32 idx))

/-- A pending barrier handle or record that ends when a sheaf leaves its stook: the sheaf's own (07/R219), and every one
on a word the sheaf holds (06/R173). One whose phase has completed while its sheaf was stopped stands (12/R314). -/
def BarHandle.orphan (b : BarHandle) (owner leaver : Nat) : BarHandle :=
  if b.code == 1 && b.passed == 0 && (owner == leaver || b.holder == leaver) then { b with code := 4 } else b

/-- A sheaf without pending barrier handles that end when `leaver` leaves. -/
def Sheaf.orphan (h : Sheaf) (leaver : Nat) : Sheaf := h.mapBars fun b => b.orphan h.uid leaver

/-- Take a member out of a stook (09/R269). -/
def Stook.without (k : Stook) (uid : Nat) : Stook :=
  { k with
    anch := if k.members.any (fun m => m.uid == uid && m.idx == 0) then 0xFF else k.anch
    members := k.members.filter fun m => m.uid != uid }

/-- The three steps of a leave (07/R219): subscriptions, barrier handles, membership; the last leave dissolves. -/
def State.leaveStook (s : State) (uid : Nat) : State :=
  { s with
    stk := { s.stk with
      subs := s.stk.subs.filter fun (p : Sub) => !(p.subr == uid || p.pubr == uid)
      stooks := (s.stk.stooks.map fun k => k.without uid).filter fun (k : Stook) => !k.members.isEmpty }
    sheaves := s.sheaves.map fun h =>
      let h1 := h.orphan uid
      if h.uid == uid then { h1 with stook := none } else h1 }

/-- SLEAVE (07/R219). -/
def execSleave (o : FS3) (s : State) : Out :=
  issue (.sleave o) s fun h s =>
    s.afterRelease h 2 false fun h s =>
      match s.stookOf h with
      | none => s.done (h.setS o.sd.toNat 0x80000007)
      | some k =>
        if k.launched then s.done (h.setS o.sd.toNat 0x80000008)
        else
          let s1 := s.leaveStook h.uid
          let h1 := (s1.sheaf? h.uid).getD h
          s1.done (h1.setS o.sd.toNat 0)

/-! ### Information -/

/-- The mask of current members. -/
def Stook.mask (k : Stook) : BitVec 64 := k.members.foldl (fun (m : BitVec 64) (x : Member) => m ||| (1 <<< x.idx)) 0

/-- What SINFO writes (07/R220). -/
def State.stookInfo (s : State) (h : Sheaf) (cf : Nat) (arg : Word) : Word :=
  match s.stookOf h with
  | none => if cf == 0 then 0 else 0xFFFFFFFF
  | some k =>
    match cf with
    | 0 => BitVec.ofNat 32 k.members.length
    | 1 => BitVec.ofNat 32 ((h.stook.map (·.2)).getD 0)
    | 2 => k.name
    | 3 => lo32 k.mask
    | 4 => hi32 k.mask
    | _ => match s.member? h arg.toNat with
      | some m => BitVec.ofNat 32 (latencyClass (h.core % 48) (m.2.core % 48))
      | none => 0xFFFFFFFF

/-- SINFO (07/R220). -/
def execSinfo (o : FS3) (s : State) : Out :=
  issue (.sinfo o) s fun h s => s.done (h.setS o.sd.toNat (s.stookInfo h o.cf.toNat (h.getS o.sa.toNat)))

/-! ### Subscriptions -/

/-- The subscriptions a sheaf holds as subscriber. -/
def State.subsOf (s : State) (uid : Nat) : List Sub := s.stk.subs.filter fun p => p.subr == uid

/-- Subscriber entries in use on a core (09/R277). -/
def State.subEntries (s : State) (core : Nat) : Nat :=
  (s.stk.subs.filter fun (p : Sub) => s.isResident p.subr && ((s.sheaf? p.subr).map (·.core)) == some core).length

/-- Publisher entries in use on a core (09/R277). -/
def State.pubEntries (s : State) (core : Nat) : Nat :=
  (s.stk.subs.filter fun (p : Sub) => s.isResident p.pubr && ((s.sheaf? p.pubr).map (·.core)) == some core).length

/-- What stands against an SSUB: the cause with its address, in the order of 07/R221. -/
def State.ssubRefusal (s : State) (h : Sheaf) (soff len mem poff : Nat) : Option (Nat × DWord) :=
  if len == 0 || decide (65536 < len) || len % 32 != 0 || soff % 32 != 0 || poff % 32 != 0 then some (0xF, 1)
  else match s.member? h mem with
  | none => some (7, peerAddr mem poff)
  | some (_, x) =>
    if x.uid == h.uid then some (0xF, 5)
    else if h.scrBytes < soff + len || x.scrBytes < poff + len then some (0xF, 2)
    else if (s.subsOf h.uid).any fun (p : Sub) => meets soff len p.soff (32 * p.len) then some (0xF, 6)
    else if 16 ≤ s.subEntries h.core then some (0xF, 3)
    else if 16 ≤ s.pubEntries x.core then some (0xF, 4)
    else none

/-- SSUB (07/R221): the new entry is in resync with every sector dirty. -/
def execSsub (o : FS3) (s : State) : Out :=
  issue (.ssub o) s fun h s =>
    let soff := (h.getS o.sa.toNat).toNat
    let len := (h.getS (o.sa.toNat + 1)).toNat
    let mem := (h.getS o.sb.toNat).toNat
    let poff := (h.getS (o.sb.toNat + 1)).toNat
    match s.ssubRefusal h soff len mem poff, s.member? h mem with
    | some c, _ => s.trapNow h (.ssub o) c.1 c.2
    | none, some m =>
      let id := ((List.range 16).find? fun k => !(s.subsOf h.uid).any fun (p : Sub) => p.id == k).getD 0
      let p : Sub := ⟨s.ctl.nextId, id, h.uid, m.2.uid, soff, poff, len / 32, .resync, List.range (len / 32), []⟩
      let s1 : State := { s with stk := { s.stk with subs := s.stk.subs ++ [p] } }
      (s1.fresh 1).done (h.setS o.sd.toNat (BitVec.ofNat 32 id))
    | none, none => s

/-- SUNSUB (07/R222). -/
def execSunsub (o : FS3) (s : State) : Out :=
  issue (.sunsub o) s fun h s =>
    let id := (h.getS o.sa.toNat).toNat
    if (s.subsOf h.uid).any fun (p : Sub) => p.id == id then
      ({ s with stk := { s.stk with subs := s.stk.subs.filter fun (p : Sub) => !(p.subr == h.uid && p.id == id) } }).done h
    else s.trapNow h (.sunsub o) 0xF 7

/-- SSYNC (07/R222; 12/R315). -/
def execSsync (o : FS3) (s : State) : Out :=
  issue (.ssync o) s fun h s =>
    let id := h.getS o.sa.toNat
    let ps := (s.subsOf h.uid).filter fun (p : Sub) => id == 0xFFFFFFFF || p.id == id.toNat
    if ps.isEmpty && id != 0xFFFFFFFF then s.trapNow h (.ssync o) 0xF 7
    else if ps.all fun (p : Sub) => p.state == .live then s.done h
    else s.hold h true

/-! ### Steps -/

/-- The subscription of an identifier. -/
def State.sub? (s : State) (uid : Nat) : Option Sub := s.stk.subs.find? fun p => p.uid == uid

/-- Change a subscription. -/
def State.modSub (s : State) (uid : Nat) (f : Sub → Sub) : State :=
  { s with stk := { s.stk with subs := s.stk.subs.map fun (p : Sub) => if p.uid == uid then f p else p } }

/-- Whether traffic of a subscription may move: both parties resident and not held (09/R270, R272). -/
def State.flows (s : State) (p : Sub) : Bool :=
  let held := fun (uid : Nat) => s.stk.stooks.any fun k => k.members.any fun (m : Member) => m.uid == uid && m.hld
  s.isResident p.subr && s.isResident p.pubr && !held p.subr && !held p.pubr

/-- BATCH_SEND (09/R279). -/
def execBatchSend (sub batch : Nat) (s : State) : Out :=
  .next (s.modSub sub fun p => { p with batches := p.batches.map fun (b : Batch) =>
    if b.id == batch then { b with sent := true } else b })

/-- Write bytes of a copy, one by one, as a party that is no sheaf (09/R279, R280). -/
def State.applyBytes (s : State) (base : Nat) (bs : List Host.Cell) : State :=
  bs.foldl (fun (t : State) (c : Host.Cell) => t.scrWrite (base + c.1) [c.2] 0) s

/-- Whether an earlier batch of a list shares a byte with a batch. -/
def Batch.behind (b : Batch) (earlier : List Batch) : Bool :=
  earlier.any fun e => e.bytes.any fun c => b.bytes.any fun d => d.1 == c.1

/-- FORWARD (08/R252, 09/R279): a sent batch that no earlier one sharing its bytes precedes. -/
def execForward (sub batch : Nat) (s : State) : Out :=
  .next (match s.sub? sub with
    | none => s
    | some p =>
      match p.batches.find? (fun b => b.id == batch), s.sheaf? p.subr with
      | some b, some x =>
        if b.sent && s.flows p && !b.behind (p.batches.takeWhile fun e => e.id != batch) then
          (s.modSub sub fun q => { q with batches := q.batches.filter fun (e : Batch) => e.id != batch }).applyBytes
            (x.scrAbs 0) b.bytes
        else s
      | _, _ => s)

/-- A batch without the bytes of a range: what a fetch of the range has overtaken (09/R282). -/
def Batch.minus (b : Batch) (a n : Nat) : Batch := { b with bytes := b.bytes.filter fun c => !(decide (a ≤ c.1) && decide (c.1 < a + n)) }

/-- SUBSCRIPTION_RESYNC_FETCH (09/R282): the sector is read and lands in the copy, its bit is cleared; queued updates of its
bytes are older than what was fetched. The last sector makes the subscription live. -/
def execSubscriptionResyncFetch (sub sector : Nat) (s : State) : Out :=
  .next (match s.sub? sub with
    | none => s
    | some p =>
      match s.sheaf? p.pubr, s.sheaf? p.subr with
      | some y, some x =>
        if p.state == .resync && p.dirty.contains sector && s.flows p then
          let bs := s.scrRead (y.scrAbs (p.poff + 32 * sector)) 32
          let rest := p.dirty.filter fun k => k != sector
          let s1 := s.modSub sub fun q => { q with
            dirty := rest
            state := if rest.isEmpty then .live else .resync
            batches := q.batches.map fun (b : Batch) => b.minus (p.soff + 32 * sector) 32 }
          s1.scrWrite (x.scrAbs (p.soff + 32 * sector)) bs 0
        else s
      | _, _ => s)

end Sys2Proof.Machine
end

