-- ==== Sys2Proof/Machine/Nest.lean ====
section
/-! DEFINITION. The group NEST (07/R223 to R230; 03/R67 to R70; 14/R330 to R333): iteration sets, the agents of an
iteration, and the barrier, reduction and broadcast over them. -/

namespace Sys2Proof.Machine

/-! ### Mapping registers (14/R330) -/

/-- KIND of a mapping word: 0 seq, 1 lane, 2 sheaf. -/
def mapKind (m : Word) : Nat := (m.extractLsb' 0 2).toNat
/-- STR: 0 means 1024. -/
def mapStr (m : Word) : Nat := if m.extractLsb' 4 10 == 0 then 1024 else (m.extractLsb' 4 10).toNat
/-- CF: 0 is read as 1. -/
def mapCf (m : Word) : Nat := max 1 (m.extractLsb' 14 10).toNat

/-- Rounded-up quotient. -/
def ceilDiv (a b : Nat) : Nat := (a + b - 1) / b

/-- MAPL of a level. -/
def Sheaf.map (h : Sheaf) (lv : Nat) : Word := h.mapl.getD lv 0
/-- EXTL of a level. -/
def Sheaf.ext (h : Sheaf) (lv : Nat) : Nat := (h.extl.getD lv 0).toNat

/-- W of a level: lanes the level spans. -/
def Sheaf.width (h : Sheaf) (lv : Nat) : Nat := ceilDiv (h.ext lv) (mapCf (h.map lv))

/-- The coordinate of a lane at a level. -/
def Sheaf.coord (h : Sheaf) (lv lid : Nat) : Nat :=
  let m := h.map lv
  if mapKind m == 1 then lid / mapStr m % h.width lv
  else if mapKind m == 2 then h.shid.toNat / mapStr m % h.ext lv
  else 0

/-- The iteration set of a lane at a level: its first element and its size (07/R224). -/
def Sheaf.iters (h : Sheaf) (lv lid : Nat) : Nat × Nat :=
  let m := h.map lv
  let j := h.coord lv lid
  if mapKind m == 1 then (j * mapCf m, min (mapCf m) (h.ext lv - j * mapCf m))
  else if mapKind m == 2 then (j, if h.ext lv == 0 then 0 else 1)
  else (0, h.ext lv)

/-- The nest state of a lane at a level. -/
def Lane.nestAt (l : Lane) (lv : Nat) : NestLv := l.nest.getD lv ⟨0, 0⟩

/-- The current iterations of levels 0 to `lv`; none where a level has no current iteration (07/R225, R226). -/
def Lane.key (l : Lane) (lv : Nat) : Option (List Nat) :=
  let ns := (List.range (lv + 1)).map l.nestAt
  if ns.all fun n => n.rc != 0 then some (ns.map fun n => n.ix.toNat) else none

/-! ### Agents (07/R226) -/

/-- Whether a lane of the sheaf is an agent of an iteration by its iteration sets. -/
def Sheaf.agentLid (h : Sheaf) (key : List Nat) (lid : Nat) : Bool :=
  key.zipIdx.all fun k =>
    let s := h.iters k.2 lid
    decide (s.1 ≤ k.1) && decide (k.1 < s.1 + s.2)

/-- Sheaves that share an iteration of level `lv`: the extents of the sheaf levels inside it, multiplied. -/
def Sheaf.sheavesOf (h : Sheaf) (lv : Nat) : Nat :=
  ((List.range h.nestDepth).filter fun l => lv < l && mapKind (h.map l) == 2).foldl (fun n l => n * h.ext l) 1

/-- The number of agents of an iteration. -/
def Sheaf.agents (h : Sheaf) (lv : Nat) (key : List Nat) : Nat :=
  ((List.range h.shln).filter (h.agentLid key)).length * h.sheavesOf lv

/-- The identity of an agent. -/
def agentId (uid lid : Nat) : Nat := uid * 1024 + lid

/-- The narrowest scope that holds all the agents: sheaf or stook (07/R226). -/
def Sheaf.nestScope (h : Sheaf) (lv : Nat) : BitVec 3 := if h.sheavesOf lv == 1 then 0 else 2

/-- Whether the nest has a flag at a level: bit 5 REDN, bit 6 SYNC (14/R326). -/
def Sheaf.lvFlag (h : Sheaf) (lv bit : Nat) : Bool := (h.lvf.getD lv 0).testBit bit

/-! ### Synchronisation state -/

/-- An empty reduction. -/
def NestAcc.empty : NestAcc := ⟨0, 0, 0, 0, 0, none, false⟩

/-- The synchronisation state of an iteration before any use. -/
def NestSync.fresh (launch lv : Nat) (key : List Nat) : NestSync :=
  { launch := launch, lv := lv, key := key, arr := [], phase := 0, acc := .empty, last := .empty, got := [], round := 0
    nbc := [], nbcN := [] }

/-- Whether a record is that of an iteration. -/
def NestSync.is (n : NestSync) (launch lv : Nat) (key : List Nat) : Bool := n.launch == launch && n.lv == lv && n.key == key

/-- The synchronisation state of an iteration. -/
def State.nest (s : State) (launch lv : Nat) (key : List Nat) : NestSync :=
  (s.stk.nests.find? fun n => n.is launch lv key).getD (.fresh launch lv key)

/-- Replace the synchronisation state of an iteration. -/
def State.putNest (s : State) (n : NestSync) : State :=
  let rest := s.stk.nests.filter fun (m : NestSync) => !m.is n.launch n.lv n.key
  { s with stk := { s.stk with nests := rest ++ [n] } }

/-- The lanes of the current path that are agents at a level, each with its iteration. -/
def Sheaf.pathAgents (h : Sheaf) (lv : Nat) : List (Lane × List Nat) :=
  h.lanes.filterMap fun l => if h.onPath l then (l.key lv).map fun k => (l, k) else none

/-- Of these, the lanes whose iteration has another agent. -/
def Sheaf.manyAgents (h : Sheaf) (lv : Nat) : List (Lane × List Nat) :=
  (h.pathAgents lv).filter fun a => h.agents lv a.2 != 1

/-- Whether the release of a nest instruction may pass: at sheaf scope it waits for nothing (06/R165, 15/R345). -/
def State.nestReleased (s : State) (h : Sheaf) (lv : Nat) : Bool := h.nestScope lv == 0 || s.released h (h.nestScope lv)

/-- A path waits for agents: it is moved to the stack where agents of its own sheaf sit in pending paths (07/R226), and
holds the sheaf otherwise. -/
def State.nestWait (s : State) (h : Sheaf) (as : List (Lane × List Nat)) : State :=
  let behind := h.stack.any fun e => match e with
    | .pending p => h.lanes.any fun l => !l.left && p.mask.getLsbD l.lpos && as.any fun a => h.agentLid a.2 l.lid
    | .record _ _ _ _ => false
  if behind then (s.sendBatches h.uid).putSheaf ((h.ungather).yield h.unitPc).close
  else s.hold h false

/-! ### NBEG, NXT, NIDX, NMAP, NLLM -/

/-- Replace the nest state of a level. -/
def Lane.setNest (l : Lane) (lv : Nat) (n : NestLv) : Lane := { l with nest := l.nest.set lv n }

/-- S_L: lanes inside an iteration of a level (14/R333). -/
def Sheaf.inner (h : Sheaf) (lv : Nat) : Nat :=
  ((List.range h.nestDepth).filter fun l => lv < l && mapKind (h.map l) == 1).foldl (fun n l => n * h.width l) 1

/-- The offset of a lane's level-local region: none where the level has none or the lane no iteration (07/R230). `llmTab`
gives each level the offset of its first region and the bytes of a region. -/
def Sheaf.llm (h : Sheaf) (lv : Nat) (l : Lane) : Option Nat :=
  match h.llmTab[lv]? with
  | some (base, n) => if n == 0 || (l.nestAt lv).rc == 0 then none else some (base + l.lid / h.inner lv * n)
  | none => none

/-- The sheaf that holds a sheaf's level-local regions of a level: itself, or member 0 of its stook (14/R333). -/
def State.llmHolder (s : State) (h : Sheaf) (lv : Nat) : Option Sheaf :=
  if h.sheavesOf lv == 1 then some h else (s.member? h 0).map (·.2)

/-- The bytes of a range of an allotment become undefined: free values, and no write of a party. -/
def State.scramble (s : State) (x : Sheaf) (off n : Nat) : State :=
  let bs := freeBytes s.ctl.free n
  let s1 := s.draw n
  if x.resident then { s1 with mm := { s1.mm with scr := s1.mm.scr.write (x.scrAbs off) bs } }
  else s1.modSheaf x.uid fun y => { y with saved := y.saved.write off bs }

/-- The level-local regions of the iterations of a level that begin as the lanes of an instruction take the states of `h1`:
those that no other agent of the launch is in already (14/R333; log entry 71). -/
def State.begun (s : State) (h h1 : Sheaf) (i : Instr) (lv : Nat) : List Nat :=
  (h1.lanes.filterMap fun l =>
    if h.eff i l then
      match l.key lv, h1.llm lv l with
      | some k, some off =>
        if s.sheaves.any fun x => x.launch == h.launch && x.lanes.any fun y => y.key lv == some k && !(x.uid == h.uid && h.eff i y)
        then none else some off
      | _, _ => none
    else none).dedup

/-- The contents of a level-local region are undefined at the start of each iteration of its level (14/R333). An iteration of the
same coordinates that begins again keeps the contributions no get:1 has counted yet (07/R226, R228; DEDUCED, log entry 87). -/
def State.beginIters (s : State) (h h1 : Sheaf) (i : Instr) (lv : Nat) : State :=
  (s.begun h h1 i lv).foldl (fun (t : State) (off : Nat) => match t.llmHolder h lv with
    | some x => t.scramble x off ((h.llmTab.getD lv (0, 0)).2)
    | none => t) s

/-- A form that changes the nest state of a level, and what begins with it. -/
def nestSwept (i : Instr) (lv : Nat) (s : State) (f : Sheaf → Lane → Lane) : Out :=
  issue i s fun h s =>
    let h1 := h.sweep i fun l => (f h l, 0)
    (s.beginIters h h1 i lv).done h1

/-- NBEG (07/R225). -/
def execNbeg (o : FVI) (s : State) : Out :=
  nestSwept (.nbeg o) (Instr.lv (.nbeg o)) s fun h l =>
    let lv := Instr.lv (.nbeg o)
    let it := h.iters lv l.lid
    (l.setNest lv ⟨BitVec.ofNat 32 it.1, BitVec.ofNat 32 it.2⟩).setK o.d.toNat (it.2 != 0)

/-- NXT (07/R225). -/
def execNxt (o : FVI) (s : State) : Out :=
  nestSwept (.nxt o) (Instr.lv (.nxt o)) s fun _ l =>
    let lv := Instr.lv (.nxt o)
    let n := l.nestAt lv
    if n.rc ≤ 1 then (l.setNest lv ⟨n.ix, 0⟩).setK o.d.toNat false
    else (l.setNest lv ⟨n.ix + 1, n.rc - 1⟩).setK o.d.toNat true

/-- NIDX (07/R225). -/
def execNidx (o : FVI) (s : State) : Out :=
  swept (.nidx o) s fun _ l =>
    let n := l.nestAt (Instr.lv (.nidx o))
    (l.setV o.d.toNat (if n.rc == 0 then 0xFFFFFFFF else n.ix), 0)

/-- NMAP (07/R230). -/
def execNmap (o : FVI) (s : State) : Out :=
  scalarPair (.nmap o) s o.d.toNat fun h =>
    let lv := Instr.lv (.nmap o)
    pairOf (h.map lv) (h.extl.getD lv 0)

/-- NLLM (07/R230): the holder is member 0 of the stook, or the sheaf itself where it holds every agent (14/R333). -/
def execNllm (o : FVI) (s : State) : Out :=
  issue (.nllm o) s fun h s =>
    let lv := Instr.lv (.nllm o)
    let some1 := (h.effLanes (.nllm o)).any fun l => (h.llm lv l).isSome
    let mem : Nat := if h.sheavesOf lv == 1 then (h.stook.map (·.2)).getD 0 else 0
    let h1 := h.sweep (.nllm o) fun l => (l.setV o.d.toNat (((h.llm lv l).map (BitVec.ofNat 32)).getD 0xFFFFFFFF), 0)
    s.done (h1.setS o.a.toNat (if some1 then BitVec.ofNat 32 mem else 0xFFFFFFFF))

/-! ### NBAR -/

/-- An agent arrives, once; the last arrival completes the phase (07/R227). -/
def NestSync.arrive (n : NestSync) (agent count : Nat) : NestSync :=
  if n.arr.any fun a => a.1 == agent then n
  else
    let arr := n.arr ++ [(agent, n.phase)]
    { n with arr := arr, phase := if (arr.filter fun a => a.2 == n.phase).length == count then n.phase + 1 else n.phase }

/-- Whether the phase in which an agent arrived has completed. -/
def NestSync.through (n : NestSync) (agent : Nat) : Bool := n.arr.any fun a => a.1 == agent && a.2 != n.phase

/-- Every agent of the path arrives. -/
def State.nbarArrive (s : State) (h : Sheaf) (lv : Nat) (as : List (Lane × List Nat)) : State :=
  as.foldl (fun (t : State) (a : Lane × List Nat) =>
    t.putNest ((t.nest h.launch lv a.2).arrive (agentId h.uid a.1.lid) (h.agents lv a.2))) s

/-- NBAR (07/R226, R227). Without SYNC at its level its effect is undefined: a free value says whether it waits (14/R326;
log entry 72). -/
def execNbar (o : FVI) (s : State) : Out :=
  issue (.nbar o) s fun h s =>
    let lv := Instr.lv (.nbar o)
    let as := h.manyAgents lv
    let here := fun (a : Lane × List Nat) => (s.nest h.launch lv a.2).arr.any fun x => x.1 == agentId h.uid a.1.lid
    if as.isEmpty then s.done h
    else if !h.lvFlag lv 6 && freeBit s.ctl.free then (s.draw 1).done h
    else if !as.all here && !s.nestReleased h lv then s.hold h false
    else
      let s1 := s.nbarArrive h lv as
      if as.all fun a => (s1.nest h.launch lv a.2).through (agentId h.uid a.1.lid) then
        let leave := fun (t : State) (a : Lane × List Nat) =>
          let n := t.nest h.launch lv a.2
          t.putNest { n with arr := n.arr.filter fun x => x.1 != agentId h.uid a.1.lid }
        (as.foldl leave s1).done h
      else s1.nestWait h as

/-! ### NRED -/

/-- op of an NRED: 0 sum, 1 min, 2 max. -/
def redOp (o : FVI) : Nat := (o.imm.extractLsb' 2 2).toNat

/-- The bits of a contribution that its type takes (07/R228). -/
def redBits (ty : Nat) (l : Lane) (a : Nat) : Nat :=
  if wideTy ty then (l.getV2 a).toNat
  else if ty == 1 || ty == 2 then (l.getV a).toNat % 65536
  else if ty == 3 || ty == 4 then (l.getV a).toNat % 256
  else (l.getV a).toNat

/-- Add a contribution (07/R228, 03/R67, R70). -/
def NestAcc.contribute (x : NestAcc) (ty op bits : Nat) : NestAcc :=
  let bad := x.mixed || (x.n != 0 && (x.ty != ty || x.op != op))
  let x1 : NestAcc := { x with ty := ty, op := op, n := x.n + 1, mixed := bad }
  if op == 0 then
    if isFloatTy ty then
      let y := (Xa.mk x.v x.f).add (contribVal ty bits)
      { x1 with v := y.v, f := y.f }
    else { x1 with v := (x.v + BitVec.ofNat 320 bits) &&& BitVec.ofNat 320 (2 ^ 64 - 1) }
  else
    let old := x.mm.map BitVec.toNat
    { x1 with mm := some (BitVec.ofNat 64 (minMax (op == 2) ty (old.getD bits) bits)) }

/-- The value of the empty reduction (07/R228). -/
def emptyRed (ty op : Nat) : Nat :=
  match fmtOf ty with
  | some f => if op == 0 then 0 else f.nan
  | none =>
    if op == 0 then 0
    else match ty, op with
      | 0x10, 1 => 0x7FFFFFFF
      | 0x10, _ => 0x80000000
      | 0x11, 1 => 0xFFFFFFFF
      | 0x12, 1 => 0x7FFFFFFFFFFFFFFF
      | 0x12, _ => 0x8000000000000000
      | 0x13, 1 => 0xFFFFFFFFFFFFFFFF
      | _, _ => 0

/-- The result of a closed reduction for a get:1 of a type, operator and rounding; none where it is undefined. -/
def NestAcc.result (x : NestAcc) (ty op rm : Nat) : Option (Nat × Flags) :=
  if x.n == 0 then some (emptyRed ty op, 0)
  else if x.mixed || x.ty != ty || x.op != op then none
  else match x.mm with
    | some y => some (y.toNat, 0)
    | none => match fmtOf ty with
      | some f => some ((Xa.mk x.v x.f).round rm f)
      | none => some (if wideTy ty then x.v.toNat % 2 ^ 64 else x.v.toNat % 2 ^ 32, 0)

/-- An agent executes get:1, once; the last one closes the reduction, which starts again empty. -/
def NestSync.get (n : NestSync) (agent count : Nat) : NestSync :=
  if n.got.any fun a => a.1 == agent then n
  else
    let got := n.got ++ [(agent, n.round)]
    if (got.filter fun a => a.2 == n.round).length == count then
      { n with got := got, round := n.round + 1, last := n.acc, acc := .empty }
    else { n with got := got }

/-- Whether the round in which an agent executed get:1 has closed. -/
def NestSync.closed (n : NestSync) (agent : Nat) : Bool := n.got.any fun a => a.1 == agent && a.2 != n.round

/-- Write a result to a lane: a pair for the 64-bit types. -/
def Lane.setRed (l : Lane) (ty d : Nat) (x : Nat) : Lane :=
  if wideTy ty then l.setV2 d (BitVec.ofNat 64 x) else l.setV d (BitVec.ofNat 32 x)

/-- Give one agent lane its result: an undefined one, as on a level without REDN (14/R326), is a free value. -/
def State.redLane (s : State) (h : Sheaf) (lv d ty op rm : Nat) (l : Lane) (key : List Nat) : State × Sheaf :=
  let n := s.nest h.launch lv key
  let id := agentId h.uid l.lid
  let s1 := s.putNest { n with got := n.got.filter fun x => x.1 != id }
  let put := fun (x : Nat) (f : Flags) =>
    ({ h with lanes := h.lanes.map fun y => if y.lid == l.lid then y.setRed ty d x else y } : Sheaf).orFlags f
  match n.last.result ty op rm, h.lvFlag lv 5 with
  | some r, true => (s1, put r.1 r.2)
  | _, _ => (s1.draw 1, put (Config.freeValue s1.ctl.free).toNat 0)

/-- NRED get:0: the contributions of the lanes of eff. -/
def State.redAdd (s : State) (h : Sheaf) (i : Instr) (lv a ty op : Nat) : State :=
  (h.effLanes i).foldl (fun (t : State) (l : Lane) => match l.key lv with
    | some k =>
      let n := t.nest h.launch lv k
      t.putNest { n with acc := n.acc.contribute ty op (redBits ty l a) }
    | none => t) s

/-- NRED (07/R226, R228). -/
def execNred (o : FVI) (s : State) : Out :=
  issue (.nred o) s fun h s =>
    let lv := Instr.lv (.nred o)
    let ty := xTy h.xmod
    let op := redOp o
    if !o.get then (s.redAdd h (.nred o) lv o.a.toNat ty op).done h
    else
      let as := h.pathAgents lv
      let many := h.manyAgents lv
      let here := fun (a : Lane × List Nat) => (s.nest h.launch lv a.2).got.any fun x => x.1 == agentId h.uid a.1.lid
      if !many.all here && !s.nestReleased h lv then s.hold h false
      else
        let s1 := as.foldl (fun (t : State) (a : Lane × List Nat) =>
          t.putNest ((t.nest h.launch lv a.2).get (agentId h.uid a.1.lid) (h.agents lv a.2))) s
        if as.all fun a => (s1.nest h.launch lv a.2).closed (agentId h.uid a.1.lid) then
          let r := as.foldl (fun (q : State × Sheaf) (a : Lane × List Nat) =>
            q.1.redLane q.2 lv o.d.toNat ty op (xRm h.xmod) a.1 a.2) (s1, h)
          r.1.done r.2
        else s1.nestWait h as

/-! ### NBC -/

/-- The lane of iteration 0 of level `lv` whose value a lane receives: its own coordinate there is 0. -/
def Sheaf.zeroLid (h : Sheaf) (lv lid : Nat) : Nat :=
  if mapKind (h.map lv) == 1 then lid - h.coord lv lid * mapStr (h.map lv) else lid

/-- How many NBC an agent has executed in an iteration of the inner level. -/
def NestSync.bcount (n : NestSync) (agent j : Nat) : Nat :=
  ((n.nbcN.find? fun x => x.1 == agent && x.2.1 == j).map (·.2.2)).getD 0

/-- The value iteration 0 has supplied at a lane in its NBC of a number. -/
def NestSync.bval (n : NestSync) (k lid : Nat) : Option Word :=
  (n.nbc.find? fun x => x.1 == k && x.2.1 == lid).map (·.2.2)

/-- Count an NBC of an agent. -/
def NestSync.bump (n : NestSync) (agent j : Nat) : NestSync :=
  let c := n.bcount agent j
  { n with nbcN := (n.nbcN.filter fun x => !(x.1 == agent && x.2.1 == j)) ++ [(agent, j, c + 1)] }

/-- Iteration 0 supplies its value, once. -/
def NestSync.supply (n : NestSync) (k lid : Nat) (w : Word) : NestSync :=
  if (n.bval k lid).isSome then n else { n with nbc := n.nbc ++ [(k, lid, w)] }

/-- Give one agent lane the broadcast value. A single agent waits for none: a value that was never supplied is free, as is
every value on a level without SYNC (14/R326). -/
def State.bcLane (s : State) (h : Sheaf) (lv d : Nat) (l : Lane) (key : List Nat) : State × Sheaf :=
  let n := s.nest h.launch lv key
  let id := agentId h.uid l.lid
  let j := (l.nestAt (lv + 1)).ix.toNat
  let s1 := s.putNest (n.bump id j)
  let put := fun (w : Word) =>
    ({ h with lanes := h.lanes.map fun y => if y.lid == l.lid then y.setV d w else y } : Sheaf)
  match n.bval (n.bcount id j) (h.zeroLid (lv + 1) l.lid), h.lvFlag lv 6 with
  | some w, true => (s1, put w)
  | _, _ => (s1.draw 1, put (freeWord s1.ctl.free))

/-- NBC (07/R226, R229). -/
def execNbc (o : FVI) (s : State) : Out :=
  issue (.nbc o) s fun h s =>
    let lv := Instr.lv (.nbc o)
    let as := (h.pathAgents lv).filter fun a => (a.1.nestAt (lv + 1)).rc != 0
    let many := as.filter fun a => h.agents lv a.2 != 1
    let num := fun (t : State) (a : Lane × List Nat) =>
      (t.nest h.launch lv a.2).bcount (agentId h.uid a.1.lid) (a.1.nestAt (lv + 1)).ix.toNat
    if !many.isEmpty && !s.nestReleased h lv then s.hold h false
    else
      let s1 := as.foldl (fun (t : State) (a : Lane × List Nat) =>
        if (a.1.nestAt (lv + 1)).ix == 0 then
          t.putNest ((t.nest h.launch lv a.2).supply (num t a) a.1.lid (a.1.getV o.a.toNat))
        else t) s
      let ready := fun (a : Lane × List Nat) =>
        ((s1.nest h.launch lv a.2).bval (num s1 a) (h.zeroLid (lv + 1) a.1.lid)).isSome
      if many.all ready then
        let r := as.foldl (fun (q : State × Sheaf) (a : Lane × List Nat) => q.1.bcLane q.2 lv o.d.toNat a.1 a.2) (s1, h)
        r.1.done r.2
      else s1.nestWait h many

end Sys2Proof.Machine
end

