-- ==== Sys2Proof/Machine/Task.lean ====
section
/-! DEFINITION. The groups TASK, CSR and MBX (07/R231 to R236; 04/R91 to R93). -/

namespace Sys2Proof.Machine

/-! ### TASK -/

/-- Entries of a cluster's task queue (14/R335). -/
def taskQueueSize : Nat := 16384

/-- Tasks queued in a cluster. -/
def State.queued (s : State) (cluster : Nat) : Nat := (s.job.tasks.filter fun t => t.1 == cluster).length

/-- Whether a capability passes SPAWN's check: R98, a live segment, an entry with TASK whose stack fits the context's slots
(07/R231; 14/R335; 16/R350). -/
def State.spawnOk (s : State) (h : Sheaf) (c : DWord) : Bool :=
  match s.checkEntry h.ctx c [.live] with
  | some (_, e) => e.task && decide (e.sstks ≤ ((s.ctx? h.ctx).map (·.tstks)).getD 0)
  | none => false

/-- The task of a lane. -/
def State.taskOf (s : State) (h : Sheaf) (a : Nat) (c : DWord) (l : Lane) : Task :=
  { regs := (List.range 8).map fun k => l.getV (a + k), ctx := h.ctx, cap := c, ln := h.ln, launch := h.launch
    froms := if h.task then h.origins else [h.launch], prio := h.prio, at_ := s.ctl.time }

/-- SPAWN (07/R231). -/
def execSpawn (o : FV3) (s : State) : Out :=
  issue (.spawn o) s fun h s =>
    let c := h.getPair o.b.toNat
    let ls := h.effLanes (.spawn o)
    if !s.spawnOk h c then s.decodeTrap h (encode (.spawn o)) 0x0B
    else if taskQueueSize < s.queued (clusterOf h.core) + ls.length then s
    else
      s.afterRelease h 3 false fun h s =>
        let new := ls.map fun l => (clusterOf h.core, s.taskOf h o.a.toNat c l)
        ({ s with job := { s.job with tasks := s.job.tasks ++ new } }).done h

/-- Append a message to a mailbox. -/
def State.postMsg (s : State) (head : Nat) (bs : List Byte) : State :=
  s.modMbx head fun m => { m with msgs := m.msgs ++ [bs] }

/-- The mailbox at a slice-memory address of the context, by its head. -/
def State.mbxOf (s : State) (ctx : Nat) (a : DWord) : Option Mbx :=
  (s.slmPos ctx a.toNat 128).bind s.mbx?

/-- Bytes of own scratch that an instruction reads for a message: those an unobserved operation of the sheaf writes are free, and
the operation's results undefined (06/R169). -/
def State.seenBytes (s : State) (h : Sheaf) (a n : Nat) : State × Sheaf × List Byte :=
  let cloud := s.clouded h 1 a n
  let s0 := s.touch h 1 a n false
  let bs := (s.scrRead a n).zipIdx.map fun p => if s.clouded h 1 (a + p.2) 1 then freeByte (s0.ctl.free + p.2) else p.1
  (if cloud then s0.draw n else s0, h.retile s0, bs)

/-- LAUNCH (07/R232). -/
def execLaunch (o : FV3) (s : State) : Out :=
  issue (.launch o) s fun h s =>
    let off := (h.getS o.a.toNat).toNat
    let port := h.getPair o.b.toNat
    let m := (s.mbxOf h.ctx port).filter fun m => m.kind == 2
    let causes := accCauses off 16 (decide (off + 128 ≤ h.scrBytes)) 8 (BitVec.ofNat 64 off) ++
      (if m.isNone then [(6, port)] else [])
    match causes, m with
    | [], some m =>
      if s.scrBad (h.scrAbs off) 128 then s.trapNow h (.launch o) 0x12 (BitVec.ofNat 64 off)
      else s.afterRelease h 5 false fun h s =>
        if m.nslot ≤ m.msgs.length then s
        else
          let q := s.seenBytes h (h.scrAbs off) 128
          (q.1.postMsg m.head q.2.2).done q.2.1
    | cs, _ => s.raise h (encode (.launch o)) cs

/-- TDONE (07/R233). -/
def execTdone (o : FV3) (s : State) : Out :=
  issue (.tdone o) s fun h s =>
    if !h.task then s.decodeTrap h (encode (.tdone o)) 1
    else
      let m := maskOf (h.effLanes (.tdone o))
      if h.mask &&& ~~~m == 0 then s.putSheaf (h.leave m).close else s.done (h.leave m)

/-! ### CSR -/

/-- PRETO in cycles; 0 means 165,000 (17/R390, R394). -/
def Ctx.pretoCycles (c : Ctx) : Nat := if c.preto == 0 then 165000 else c.preto

/-- The newest violation entry of the sheaf's context on its core (17/R389). -/
def State.viol? (s : State) (h : Sheaf) : Option Viol := s.flt.ring.find? fun v => v.core == h.core && v.ctx == h.ctx

/-- The count of violations of the sheaf's context on its core. -/
def State.violCount (s : State) (h : Sheaf) : Nat :=
  ((s.flt.counts.find? fun c => c.1 == h.core && c.2.1 == h.ctx).map (·.2.2)).getD 0

/-- The value of a CSR (04/R92; 17/R385, R389; 10/R292; 07/R218, R234). -/
def State.csr (s : State) (h : Sheaf) (n : Nat) : DWord :=
  let w := fun (x : Nat) => BitVec.ofNat 64 x
  let z := fun (x : Word) => x.setWidth 64
  let t := s.reading h.core
  let c := s.ctx? h.ctx
  let en := s.energyOf h
  let tag := (s.viol? h).map fun v => v.cause
  match n with
  | 0x00 => z h.shid
  | 0x01 => w h.shln
  | 0x02 => w (h.core % 48)
  | 0x03 => w (clusterOf h.core % 6)
  | 0x04 => w (dieOf h.core)
  | 0x05 => w ((c.map (·.id)).getD 0)
  | 0x06 => w (s.asidOf h.ctx)
  | 0x07 => z (((s.stookOf h).map (·.name)).getD 0xFFFFFFFF)
  | 0x08 => ((h.stook.map fun p => w p.2)).getD 0xFFFFFFFF
  | 0x10 => z (h.map 0)
  | 0x11 => z (h.map 1)
  | 0x12 => z (h.map 2)
  | 0x13 => z (h.map 3)
  | 0x14 => z (h.extl.getD 0 0)
  | 0x15 => z (h.extl.getD 1 0)
  | 0x16 => z (h.extl.getD 2 0)
  | 0x17 => z (h.extl.getD 3 0)
  | 0x20 => w (t % 2 ^ 32)
  | 0x21 => match h.timeL with
    | some x => z x
    | none => w (t / 2 ^ 32 % 2 ^ 32)
  | 0x22 => w h.gw
  | 0x30 => h.fflg.setWidth 64
  | 0x40 => (BitVec.ofInt 32 ((en.map (·.bud)).getD 0)).setWidth 64
  | 0x41 => w (((en.map (·.rate)).getD 0) % 2 ^ 24)
  | 0x50 => h.trap.v
  | 0x51 => h.trap.e
  | 0x52 => z h.trap.c
  | 0x53 => h.trap.a
  | 0x54 => z h.trap.i
  | 0x60 => ((s.viol? h).map (·.addr)).getD 0
  | 0x61 => w (s.violCount h * 65536 + tag.getD 0 % 256)
  | 0x70 => w ((c.map Ctx.pretoCycles).getD 0)
  | 0x71 => h.sstk
  | 0x80 => h.dthr.setWidth 64
  | _ => 0

/-- A write to a CSR: reserved bits are ignored, as are writes to RO registers (04/R93; 07/R234; 17/R385). -/
def Sheaf.putCsr (h : Sheaf) (n : Nat) (x : DWord) : Sheaf :=
  match n with
  | 0x30 => { h with fflg := x.extractLsb' 0 5 }
  | 0x50 => { h with trap := { h.trap with v := if x.extractLsb' 0 24 == 0 then x else 0 } }
  | 0x80 => { h with dthr := x.extractLsb' 0 13 }
  | _ => h

/-- The s operand of a CSR form: a pair for a 64-bit CSR. -/
def Sheaf.csrOperand (h : Sheaf) (o : FCSR) : DWord :=
  if csrWide o.csrn.toNat then h.getPair o.srg.toNat else (h.getS o.srg.toNat).setWidth 64

/-- CSRR (07/R234). -/
def execCsrr (o : FCSR) (s : State) : Out :=
  issue (.csrr o) s fun h s =>
    let n := o.csrn.toNat
    let x := s.csr h n
    let h1 := if csrWide n then h.setPair o.srg.toNat x else h.setS o.srg.toNat (lo32 x)
    let h2 := h1.retire h1.nextPc
    s.putSheaf (if n == 0x20 then { h2 with timeL := some (BitVec.ofNat 32 (s.reading h.core / 2 ^ 32)) } else h2)

/-- CSRW (07/R234). -/
def execCsrw (o : FCSR) (s : State) : Out :=
  issue (.csrw o) s fun h s => s.done (h.putCsr o.csrn.toNat (h.csrOperand o))

/-- CSRS (07/R234). -/
def execCsrs (o : FCSR) (s : State) : Out :=
  issue (.csrs o) s fun h s => s.done (h.putCsr o.csrn.toNat (s.csr h o.csrn.toNat ||| h.csrOperand o))

/-- CSRC (07/R234). -/
def execCsrc (o : FCSR) (s : State) : Out :=
  issue (.csrc o) s fun h s => s.done (h.putCsr o.csrn.toNat (s.csr h o.csrn.toNat &&& ~~~h.csrOperand o))

/-! ### MBX -/

/-- The mailbox an MBX form names: not a launch port (07/R235). -/
def State.mbxArg (s : State) (h : Sheaf) (o : FS3) : Option Mbx :=
  (s.mbxOf h.ctx (h.getPair o.sa.toNat)).filter fun m => m.kind != 2

/-- MPOST (07/R235, R236). -/
def execMpost (o : FS3) (s : State) : Out :=
  issue (.mpost o) s fun h s =>
    let w := h.getS o.sb.toNat
    let off := (w.extractLsb' 0 19).toNat
    let len := (w.extractLsb' 24 8).toNat
    let lenBad := len < 8 || 128 < len || len % 8 != 0
    let m := s.mbxArg h o
    let causes : List Refusal1 :=
      reserved lenBad ++ misaligned off 8 ++ h.beyond off len ++
      (if m.isNone then [(6, some (h.getPair o.sa.toNat))] else [])
    match causes, m with
    | [], some m =>
      if s.scrBad (h.scrAbs off) len then s.trapNow h (.mpost o) 0x12 (BitVec.ofNat 64 off)
      else s.afterRelease h 5 false fun h s =>
        if m.nslot ≤ m.msgs.length then
          if o.cf.getLsbD 0 then s.hold h false else s.done (h.setS o.sd.toNat 1)
        else
          let q := s.seenBytes h (h.scrAbs off) len
          (q.1.postMsg m.head q.2.2).done (q.2.1.setS o.sd.toNat 0)
    | cs, _ => s.refuse h (.mpost o) cs

/-- MTAKE (07/R235, R236): held behind the sheaf's markers and its requests to itself as an own-scratch write is (08/R241, 06/R158). -/
def execMtake (o : FS3) (s : State) : Out :=
  issue (.mtake o) s fun h s =>
    let off := (h.getS o.sb.toNat).toNat
    let m := s.mbxArg h o
    let causes : List Refusal1 :=
      misaligned off 8 ++ h.beyond off 128 ++ (if m.isNone then [(6, some (h.getPair o.sa.toNat))] else [])
    match causes, m with
    | [], some m =>
      if (h.mq.any fun e => e.isAcquire || e.isRelease) || s.ownBehind h then s.hold h false
      else match m.msgs with
        | [] => if o.cf.getLsbD 0 then s.hold h false else s.done (h.setS o.sd.toNat 0)
        | bs :: rest =>
          let a := h.scrAbs off
          let s0 := s.touch h 1 a bs.length true
          let h1 := s0.keepOld (h.retile s0) a bs.length
          let s1 := s0.plainWrite a bs h.uid
          (s1.modMbx m.head fun x => { x with msgs := rest }).done (h1.setS o.sd.toNat (BitVec.ofNat 32 bs.length))
    | cs, _ => s.refuse h (.mtake o) cs

/-- MPEEK (07/R235). -/
def execMpeek (o : FS3) (s : State) : Out :=
  issue (.mpeek o) s fun h s =>
    match s.mbxArg h o with
    | some m => s.done (h.setS o.sd.toNat (BitVec.ofNat 32 ((m.msgs.head?.map List.length).getD 0)))
    | none => s.trapNow h (.mpeek o) 6 (h.getPair o.sa.toNat)

end Sys2Proof.Machine
end

