-- ==== Sys2Proof/Machine/Launch.lean ====
section
/-! DEFINITION. Launches (14/R319 to R325), the mapper (14/R326 to R333), launch-created stooks (14/R331), tasks
(14/R335), admission and placement (14/R337 to R341, 09/R264, R438), the end of a sheaf (02/R22) and of a launch. -/

namespace Sys2Proof.Machine

/-! ### Cores in service and what fits on them -/

/-- Logical cores of the device. -/
def nCores : Nat := 1152

/-- C: cores that are not mapped out (01/R12, 14/R327). -/
def State.coresIn (s : State) : Nat :=
  nCores - (s.rep.out.filter fun p => p.kind == 1).length

/-- Cores of a cluster that are not mapped out. -/
def State.coresOf (s : State) (cluster : Nat) : Nat :=
  48 - (s.rep.out.filter fun p => p.kind == 1 && p.num / 48 == cluster).length

/-- Whether a core takes sheaves: in service, its cluster too, and not in sequencer mode (04/R106, 20/R429). -/
def State.coreUp (s : State) (core : Nat) : Bool :=
  core < nCores && !s.partDown 1 core && !s.partDown 2 (clusterOf core) &&
  !((s.seqr? core).map (·.en)).getD false

/-- Lane slots a sheaf of `n` lanes occupies (01/R15). -/
def laneSlots (n : Nat) : Nat := 32 * ceilDiv n 32

/-- What a sheaf takes of a core. -/
structure Footprint where
  shln : Nat
  vn : Nat
  mt : Nat
  kib : Nat
  subs : Nat
  pubs : Nat
deriving DecidableEq, Repr

/-- The shape of a sheaf, with its subscription entries (09/R277). -/
def State.footprint (s : State) (h : Sheaf) : Footprint :=
  { shln := h.shln, vn := h.vn, mt := h.mt, kib := h.alloc.kib
    subs := (s.stk.subs.filter fun (p : Sub) => p.subr == h.uid).length
    pubs := (s.stk.subs.filter fun (p : Sub) => p.pubr == h.uid).length }

/-- The sheaves resident on a core. -/
def State.residents (s : State) (core : Nat) : List Sheaf := s.sheaves.filter fun h => h.core == core && h.resident

/-- Whether a shape fits on a core together with what is resident there (14/R340, 01/R15; 10/R291 a fenced engine). -/
def State.fitsOn (s : State) (core : Nat) (x : Footprint) : Bool :=
  let rs := s.residents core
  let sum := fun (f : Sheaf → Nat) => (rs.map f).sum
  s.coreUp core && decide (rs.length < 16) &&
  decide (sum (fun h => laneSlots h.shln) + laneSlots x.shln ≤ 4096) &&
  decide (sum (fun h => laneSlots h.shln * h.vn * 4) + laneSlots x.shln * x.vn * 4 ≤ 524288) &&
  decide (sum (fun h => h.alloc.kib) + x.kib ≤ 512) && decide (sum (fun h => h.mt) + x.mt ≤ 16) &&
  !(decide (0 < x.mt) && s.eng.fenced.contains core) &&
  decide (s.subEntries core + x.subs ≤ 16) && decide (s.pubEntries core + x.pubs ≤ 16)

/-- Whether a cluster takes sheaves of a context: a cluster with a fused L1 holds one context (14/R340). -/
def State.clusterOpen (s : State) (cluster ctx : Nat) (fused : Bool) : Bool :=
  s.sheaves.all fun h =>
    !(clusterOf h.core == cluster && (h.resident || h.run == .waiting)) || h.ctx == ctx || !(fused || h.admitFused)

/-! ### Allotments (09/R264, R438) -/

/-- Whether a base leaves an allotment of `kib` clear of the resident ones. -/
def clearAt (rs : List Sheaf) (base kib : Nat) : Bool :=
  decide (base + kib ≤ 512) && rs.all fun h => h.alloc.kib == 0 || kib == 0 || !meets base kib h.alloc.base h.alloc.kib

/-- The lowest base at which an allotment fits without a move. -/
def State.gapOn (s : State) (core kib : Nat) : Option Nat :=
  let rs := s.residents core
  (sortBy id (0 :: rs.map fun h => h.alloc.base + h.alloc.kib)).find? fun b => clearAt rs b kib

/-- An address of `[a, a + n)` moved to start at `b`. -/
def rebase (a n b x : Nat) : Nat := if a ≤ x && x < a + n then x - a + b else x

/-- A range of an operation moved with its allotment. -/
def rebaseRng (a n b : Nat) (r : Nat × Nat × Nat) : Nat × Nat × Nat := if r.1 == 1 then (1, rebase a n b r.2.1, r.2.2) else r

/-- Cells moved with their allotment. -/
def rebaseCells (a n b : Nat) (l : List Host.Cell) : List Host.Cell := l.map fun c => (rebase a n b c.1, c.2)

/-- An operation's absolute scratch addresses moved with an allotment. -/
def Op.rebase (o : Op) (a n b : Nat) : Op :=
  { o with
    srcR := o.srcR.map (rebaseRng a n b)
    dstR := o.dstR.map (rebaseRng a n b)
    txbs := o.txbs.map (Sys2Proof.Machine.rebase a n b)
    stale := rebaseCells a n b o.stale }

/-- Record a context as the last holder of the units of a range of a core. -/
def State.hold1K (s : State) (core base kib ctx : Nat) : State :=
  let units := (List.range kib).map fun k => core * 512 + base + k
  { s with mm := { s.mm with holder :=
      (units.map fun u => (u, ctx)) ++ s.mm.holder.filter fun (p : Nat × Nat) => !units.contains p.1 } }

/-- Move a resident allotment to a new base: bytes, bad words, and every absolute address into it (09/R438). An operation at
rest has none: it resolves its addresses again when its sheaf resumes. -/
def State.moveAlloc (s : State) (h : Sheaf) (base : Nat) : State :=
  let a := h.scrAbs 0
  let n := h.scrBytes
  let b := h.core * scratchSize + base * 1024
  if a == b then s
  else
    let s1 : State := { s with
      mm := { s.mm with
        scr := s.mm.scr.write b (s.scrRead a n)
        badScr := (s.mm.badScr.filter fun w => a ≤ w && w < a + n).map (rebase a n b) ++
          s.mm.badScr.filter fun w => !(a ≤ w && w < a + n) && !(b ≤ w && w < b + n)
        chans := s.mm.chans.map fun (r : ChanReq) => if r.holder == h.uid then { r with addr := rebase a n b r.addr } else r }
      eng := { s.eng with ops := s.eng.ops.map fun o => if o.resting then o else o.rebase a n b } }
    let s2 := s1.modSheaf h.uid fun x => { x with
      alloc := { x.alloc with base := base }, unfenced := rebaseCells a n b x.unfenced }
    s2.hold1K h.core base h.alloc.kib h.ctx

/-- Move the resident allotments of a core together, lowest first. -/
def State.compactCore (s : State) (core : Nat) : State :=
  ((sortBy (fun (h : Sheaf) => h.alloc.base) (s.residents core)).foldl (fun (q : State × Nat) (h : Sheaf) =>
    (q.1.moveAlloc h q.2, q.2 + h.alloc.kib)) (s, 0)).1

/-- Prepare the units of a new allotment: zeroed unless last held by the same context; one held by it may be zeroed too,
as a free value decides (09/R264). -/
def State.prepare (s : State) (core base kib ctx : Nat) : State :=
  let zero := fun (t : State) (u : Nat) =>
    let same := t.mm.holder.any fun p => p.1 == core * 512 + u && p.2 == ctx
    if same && !freeBit t.ctl.free then t.draw 1
    else
      let a := core * scratchSize + u * 1024
      let t1 : State := { t with mm := { t.mm with
        scr := t.mm.scr.clear a 1024
        badScr := t.mm.badScr.filter fun w => !(a ≤ w && w < a + 1024) } }
      t1.draw 1
  (((List.range kib).map fun k => base + k).foldl zero s).hold1K core base kib ctx

/-- Give a sheaf an allotment on a core and set it running there, with a saved scratch image put back (14/R340; 17/R392). -/
def State.placeOn (s : State) (h : Sheaf) (core : Nat) : State :=
  let kib := h.alloc.kib
  let s0 := if (s.gapOn core kib).isSome then s else s.compactCore core
  let base := (s0.gapOn core kib).getD 0
  let s1 := (s0.prepare core base kib h.ctx).fresh 1
  let a := core * scratchSize + base * 1024
  let s2 : State := if h.saved.isEmpty && h.savedBad.isEmpty then s1 else { s1 with mm := { s1.mm with
      scr := s1.mm.scr.write a (Mem.read h.saved 0 (kib * 1024))
      badScr := s1.mm.badScr ++ h.savedBad.map fun w => a + w } }
  s2.modSheaf h.uid fun x => { x with
    core := core, alloc := { base := base, kib := kib, id := s0.ctl.nextId }, run := .running, saved := [], savedBad := []
    queued := false }

/-! ### Reading memory for the arbiter -/

/-- Read bytes of global memory at their homes; none where a page or its permission is missing or a byte is bad. -/
def State.globBytes (s : State) (ctx va : Nat) : Nat → State × Option (List Byte)
  | 0 => (s, some [])
  | n + 1 =>
    match State.globBytes s ctx va n with
    | (s1, none) => (s1, none)
    | (s1, some bs) =>
      match s1.homeOf ctx (va + n) .read with
      | (s2, .ok x) =>
        (s2, if x.badAt ((va + n) % 128) 1 then none else some (bs ++ [byteOf x.data ((va + n) % 128)]))
      | (s2, _) => (s2, none)

/-- What the arbiter finds at a word it needs (14/R323): access, a page to ask for, or none. -/
inductive ArbRes where
  | ok | wait | bad
deriving DecidableEq, Repr

/-- The answers Invalid Request to the arbiter's Page Requests for some words have been acted on. -/
def State.forget (s : State) (die ctx : Nat) (vas : List Nat) : State :=
  { s with flt := { s.flt with refused := s.flt.refused.filter fun r => !vas.any fun va => r == ⟨.arbiter die, ctx, va / 65536⟩ } }

/-- Check a word for the arbiter of a die. A refused Page Request answers once: when the page is there it is forgotten. -/
def State.arbAccess (s : State) (ctx die va : Nat) (write : Bool) : State × ArbRes :=
  if va % 4 != 0 || 2 ^ 57 ≤ va then (s, .bad)
  else match s.translate ctx va with
    | (s1, .page t) => (s1.forget die ctx [va], if t.r && (!write || t.w) && s1.assigned t.hm (t.paOf va) then .ok else .bad)
    | (s1, _) => (s1, if s1.flt.refused.contains ⟨.arbiter die, ctx, va / 65536⟩ then .bad else .wait)

/-! ### Packets (14/R321) -/

/-- A field of a packet. -/
def Launch.pkt (l : Launch) (off n : Nat) : Nat := natAt l.packet off n
/-- PRIO. -/
def Launch.prio (l : Launch) : Nat := l.pkt 3 1
/-- COOP. -/
def Launch.coop (l : Launch) : Bool := (l.pkt 2 1).testBit 0
/-- FUSEL1. -/
def Launch.fused (l : Launch) : Bool := (l.pkt 2 1).testBit 1
/-- TASKQ. -/
def Launch.taskq (l : Launch) : Bool := (l.pkt 2 1).testBit 2

/-- The address of a dependence and whether it is used. -/
def depAddr (p : List Byte) (k : Nat) : Nat := natAt p (96 + 16 * k) 8
/-- CMP of a dependence. -/
def depCmp (p : List Byte) (k : Nat) : Nat := natAt p (108 + 16 * k) 1
/-- TGT of a dependence. -/
def depTgt (p : List Byte) (k : Nat) : Word := BitVec.ofNat 32 (natAt p (104 + 16 * k) 4)

/-- Reason 0x01: values and reserved fields of the packet. -/
def badFields (p : List Byte) : Bool :=
  let k := natAt p 0 1
  !(k == 1 || k == 2) || natAt p 1 1 != 1 || decide (8 ≤ natAt p 2 1) || decide (8 ≤ natAt p 3 1) || natAt p 41 1 != 0 ||
  (k == 2 && (natAt p 16 8 != 0 || natAt p 32 8 != 0)) ||
  [0, 1].any fun d => decide (4 < depCmp p d) || natAt p (109 + 16 * d) 3 != 0

/-- Reason 0x02: the ranges of the packet's figures, and the minima of the entry's record (14/R323, 16/R350). -/
def badRanges (p : List Byte) (e : Option EntryRec) : Bool :=
  let vn := natAt p 4 1
  vn < 8 || 128 < vn || vn % 8 != 0 || 16 < natAt p 5 1 || 512 < natAt p 6 2 || natAt p 44 4 % 4096 != 0 ||
  1024 < natAt p 42 2 || (natAt p 0 1 == 2 && (natAt p 28 4 == 0 || 1024 < natAt p 28 4)) ||
  match e with
  | some r => vn < r.vn || natAt p 5 1 < r.mt || natAt p 6 2 < r.scr || natAt p 44 4 < r.sstks
  | none => false

/-! ### The nest descriptor and the mapper (14/R326 to R330) -/

/-- A level of a nest descriptor. -/
structure Level where
  laneok : Bool
  sheafok : Bool
  pinl : Bool
  pins : Bool
  pinq : Bool
  redn : Bool
  sync : Bool
  llm : Nat
deriving DecidableEq, Repr

/-- The bits of FLAGS that the forms at a level need: REDN and SYNC. -/
def Level.flags (l : Level) : Nat := 32 * bitNat l.redn + 64 * bitNat l.sync

/-- Whether a level synchronises. -/
def Level.syncs (l : Level) : Bool := l.redn || l.sync || l.llm != 0

/-- Read a level record. -/
def levelAt (d : List Byte) (k : Nat) : Level :=
  let f := natAt d (16 + 16 * k) 1
  ⟨f.testBit 0, f.testBit 1, f.testBit 2, f.testBit 3, f.testBit 4, f.testBit 5, f.testBit 6, natAt d (20 + 16 * k) 4⟩

/-- Read a descriptor of 80 bytes; none where it is invalid (14/R326). -/
def descOf (d : List Byte) : Option (List Level) :=
  let depth := natAt d 0 1
  let ok := fun (k : Nat) =>
    let l := levelAt d k
    if depth ≤ k then natAt d (16 + 16 * k) 16 == 0
    else
      decide (natAt d (16 + 16 * k) 1 < 128) && natAt d (17 + 16 * k) 3 == 0 && natAt d (24 + 16 * k) 8 == 0 &&
      decide (l.llm ≤ 524288) && decide (bitNat l.pinl + bitNat l.pins + bitNat l.pinq ≤ 1) &&
      (!l.pinl || l.laneok) && (!l.pins || l.sheafok)
  if 1 ≤ depth && depth ≤ 4 && natAt d 1 1 == 1 && natAt d 2 14 == 0 && [0, 1, 2, 3].all ok then
    some ((List.range depth).map (levelAt d))
  else none

/-- The mapping of one level: kind, stride and coarsening factor. -/
structure LvMap where
  kind : Nat
  str : Nat
  cf : Nat
deriving DecidableEq, Repr

/-- MAPLn (14/R330). -/
def LvMap.word (m : LvMap) : Word :=
  if m.kind == 0 then 0 else BitVec.ofNat 32 (m.kind + m.str % 1024 * 16 + m.cf * 2 ^ 14)

/-- R328: lane levels, from the innermost outwards. The list is innermost first; answers SHLN and the choices in that
order, or none for a rejected pin. -/
def lanePass (lmin wmax : Nat) : List (Level × Nat) → Nat → Option (Nat × List LvMap)
  | [], p => some (p, [])
  | (l, e) :: rest, p =>
    let skip := (lanePass lmin wmax rest p).map fun r => (r.1, ⟨0, 0, 0⟩ :: r.2)
    if l.pins || l.pinq || e == 0 then skip
    else if l.pinl || (l.laneok && decide (lmin ≤ e)) then
      match (List.range 1023).find? fun k => decide (p * ceilDiv e (k + 1) ≤ wmax) with
      | some k => (lanePass lmin wmax rest (p * ceilDiv e (k + 1))).map fun r => (r.1, ⟨1, p, k + 1⟩ :: r.2)
      | none => if l.pinl then none else skip
    else skip

/-- f: sheaves of a shape one empty core holds (14/R327). -/
def fitOf (shln vn kib mt : Nat) : Nat :=
  let w := laneSlots shln
  let a := min 16 (min (4096 / w) (524288 / (w * vn * 4)))
  let b := if kib == 0 then a else min a (512 / kib)
  if mt == 0 then b else min b (16 / mt)

/-- Condition 3 of R329 for level `m`: `ms` are the maps so far, outermost first. -/
def nestsWell (ds : List Level) (es : List Nat) (ms : List LvMap) (f m : Nat) : Bool :=
  match (List.range m).filter fun l => ((ds[l]?).map Level.syncs).getD false with
  | [] => true
  | [g] =>
    let kind := fun (l : Nat) => ((ms[l]?).map (·.kind)).getD 0
    let inner := (List.range ds.length).filter fun l => g < l && (l == m || kind l == 2)
    !((List.range g).any fun l => kind l == 1) &&
    decide ((inner.map fun l => es.getD l 0).foldl (· * ·) 1 ≤ min 64 (48 * f))
  | _ => false

/-- R329: sheaf levels, from the innermost outwards (`m` levels are left); answers T and the maps, or none for a rejected
pin. -/
def sheafPass (ds : List Level) (es : List Nat) (f nfit : Nat) : Nat → Nat → List LvMap → Option (Nat × List LvMap)
  | 0, t, ms => some (t, ms)
  | m + 1, t, ms =>
    let l := (ds[m]?).getD ⟨false, false, false, false, false, false, false, 0⟩
    let e := es.getD m 0
    let unmapped := ((ms[m]?).map (·.kind)).getD 0 == 0
    if !unmapped || e == 0 || !(l.pins || (l.sheafok && !l.pinq)) then sheafPass ds es f nfit m t ms
    else if t ≤ 1024 && decide (t * e ≤ nfit) && nestsWell ds es ms f m then
      sheafPass ds es f nfit m (t * e) (ms.set m ⟨2, t, 1⟩)
    else if l.pins then none
    else sheafPass ds es f nfit m t ms

/-- What a launch runs with. -/
structure Mapped where
  mapl : List Word
  extl : List Word
  llmTab : List (Nat × Nat)
  lvf : List Nat
  shln : Nat
  n : Nat
  kib : Nat
  unitN : Nat
deriving DecidableEq, Repr

/-- The level-local regions (14/R333): for each level the offset of its first region and the bytes of one; and A in KiB. -/
def llmRegions (ds : List Level) (es : List Nat) (ms : List LvMap) (shln scr : Nat) : List (Nat × Nat) × Nat :=
  let width := fun (l : Nat) => match ms[l]? with
    | some m => if m.kind == 1 then ceilDiv (es.getD l 0) m.cf else 1
    | none => 1
  ds.zipIdx.foldl (fun (q : List (Nat × Nat) × Nat) (x : Level × Nat) =>
    if x.1.llm == 0 then (q.1 ++ [(0, 0)], q.2)
    else
      let inner := ((List.range ds.length).filter fun l => x.2 < l).foldl (fun n l => n * width l) 1
      let k := ceilDiv x.1.llm 1024
      (q.1 ++ [(q.2 * 1024, k * 1024)], q.2 + ceilDiv shln inner * k)) ([], scr)

/-- Members of each launch-created stook (14/R331): 0 where the launch creates none. -/
def stookSize (ds : List Level) (es : List Nat) (ms : List LvMap) : Nat :=
  let sync := fun (l : Nat) => ((ds[l]?).map Level.syncs).getD false
  if !(ds.any Level.syncs) then 0
  else (((List.range ds.length).filter fun l => ((ms[l]?).map (·.kind)).getD 0 == 2 && (List.range l).any sync).map
    fun l => es.getD l 0).foldl (· * ·) 1

/-- Run the mapper on a descriptor: a rejection reason, or the mapping. `c` is the number of cores, `cb` the budget. -/
def mapNest (p : List Byte) (ds : List Level) (c cb : Nat) : Except Nat Mapped :=
  let es := (List.range ds.length).map fun k => natAt p (24 + 4 * k) 4
  let lmin := if natAt p 40 1 == 0 then 8 else natAt p 40 1
  let wmax := if natAt p 42 2 == 0 then 1024 else natAt p 42 2
  match lanePass lmin wmax (ds.zip es).reverse 1 with
  | none => .error 5
  | some (shln, lm) =>
    let ms := lm.reverse
    let rg := llmRegions ds es ms shln (natAt p 6 2)
    if 512 < rg.2 then .error 2
    else
      let f := fitOf shln (natAt p 4 1) rg.2 (natAt p 5 1)
      match sheafPass ds es f (min cb (c * f)) ds.length 1 ms with
      | none => .error 5
      | some (n, ms) =>
        .ok ⟨ms.map LvMap.word, es.map (BitVec.ofNat 32), rg.1, ds.map Level.flags, shln, n, rg.2, stookSize ds es ms⟩

/-- The mapping of a flat launch (14/R322). -/
def mapFlat (p : List Byte) : Mapped := ⟨[], [], [], [], natAt p 28 4, natAt p 24 4, natAt p 6 2, 0⟩

/-- Sheaves of a mapping that an otherwise empty device holds at once: units that are stooks go to one cluster each, at most 256
to a cluster (14/R341, 09/R267). -/
def State.roomFor (s : State) (m : Mapped) (f : Nat) : Nat :=
  if m.unitN == 0 then s.coresIn * f
  else ((List.range 24).map fun c => min 256 (s.coresOf c * f / m.unitN) * m.unitN).sum

/-- The mapping of a packet of a context (14/R327): a COOP launch that never fits is rejected (14/R341). -/
def State.mapPacket (s : State) (ctx : Nat) (p : List Byte) : State × Except Nat Mapped :=
  let go := fun (t : State) (m : Mapped) =>
    if (natAt p 2 1).testBit 0 && t.roomFor m (fitOf m.shln (natAt p 4 1) m.kib (natAt p 5 1)) < m.n then (t, Except.error 6)
    else (t, .ok m)
  if natAt p 0 1 == 2 then go s (mapFlat p)
  else
    match s.globBytes ctx (natAt p 16 8) 80 with
    | (s1, some d) =>
      match descOf d with
      | some ds =>
        match mapNest p ds s1.coresIn (((s1.ctx? ctx).map (·.cb)).getD 0) with
        | .ok m => go s1 m
        | .error r => (s1, .error r)
      | none => (s1, .error 4)
    | (s1, none) => (s1, .error 4)

/-- The mapping of a launch, read when it becomes ready. -/
def State.mapLaunch (s : State) (l : Launch) : State × Except Nat Mapped := s.mapPacket l.ctx l.packet

/-! ### Acceptance, dependences, rejection -/

/-- The slice-memory address of a position in a context's windows. -/
def State.slmAddr (s : State) (ctx p : Nat) : Nat :=
  match (s.ctx? ctx).bind fun c => c.win.find? fun w =>
      w.slice * 2 ^ 26 + w.base ≤ p && p < w.slice * 2 ^ 26 + w.base + w.kib * 1024 with
  | some w => w.num * 2 ^ 40 + (p - (w.slice * 2 ^ 26 + w.base))
  | none => 0

/-- Die of a slice-memory position. -/
def dieOfPos (p : Nat) : Nat := p / 2 ^ 26 / 24

/-- Post the fault record of a rejected packet (14/R323, 17/R388). -/
def State.postReject (s : State) (ctx port reason : Nat) : State :=
  s.postFault ctx (faultRecord 2 reason 0 ctx 0 0xFFFFFFFF ⟨0, 0, 0⟩ 0 (s.slmAddr ctx port) s.ctl.time (dieOfPos port) 0xFF 0xFF)

/-- The words of a packet the arbiter needs: dependences in use, and the completion word with write access. -/
def wordsOf (p : List Byte) : List (Nat × Bool) :=
  ((([0, 1].filter fun d => depCmp p d != 0).map fun d => (depAddr p d, false))) ++
  (if natAt p 56 8 != 0 then [(natAt p 56 8, true)] else [])

/-- Drop a launch that failed a check. -/
def State.rejectLaunch (s : State) (l : Launch) (reason : Nat) : State :=
  State.postReject (({ s with job := { s.job with launches := s.job.launches.filter fun (x : Launch) => x.id != l.id } } : State).forget
    l.die l.ctx ((wordsOf l.packet).map (·.1))) l.ctx l.port reason

/-- The launch of an identifier. -/
def State.launch? (s : State) (id : Nat) : Option Launch := s.job.launches.find? fun l => l.id == id

/-- Change a launch. -/
def State.modLaunch (s : State) (id : Nat) (f : Launch → Launch) : State :=
  { s with job := { s.job with launches := s.job.launches.map fun (l : Launch) => if l.id == id then f l else l } }

/-- The launch number an accepted launch of a context takes: one whose low 15 bits no launch-created stook bears (14/R331). -/
def State.nextLn (s : State) (ctx : Nat) : Word :=
  let n := ((s.ctx? ctx).map (·.lnext)).getD 0
  let taken := fun (w : Word) => s.stk.stooks.any fun k => k.ctx == ctx && k.launched && k.name.extractLsb' 16 15 == w.extractLsb' 0 15
  (((List.range 32768).map fun k => n + BitVec.ofNat 32 k).find? fun w => !taken w).getD n

/-- An accepted launch takes its launch number (14/R331, 17/R393; log entry 46). -/
def State.number (s : State) (id : Nat) : State :=
  match s.launch? id with
  | some l =>
    if l.ln != 0xFFFFFFFF then s
    else (s.modCtx l.ctx fun c => { c with lnext := s.nextLn l.ctx + 1 }).modLaunch id fun x => { x with ln := s.nextLn l.ctx }
  | none => s

/-- A launch with both dependences satisfied becomes ready: the mapper runs (14/R324, R327). -/
def State.ready (s : State) (id : Nat) : State :=
  match s.launch? id with
  | none => s
  | some l =>
    if l.ready || !l.deps.all (fun d => d) then s
    else match s.mapLaunch l with
      | (s1, .error r) => s1.rejectLaunch l r
      | (s1, .ok m) =>
        ((s1.number id).modLaunch id fun l => { l with
          ready := true, mapl := m.mapl, extl := m.extl, llmTab := m.llmTab, lvf := m.lvf, shln := m.shln, n := m.n
          scr := m.kib, unitN := m.unitN, order := s1.ctl.nextId }).fresh 1

/-- The reason of a packet that fails: the lowest of its reasons, with those the mapper finds (2, 5 or 6) where it can run. -/
def State.lowestReason (s : State) (ctx : Nat) (p : List Byte) (r : Nat) : Nat :=
  if r ≤ 2 || r == 4 then r
  else match (s.mapPacket ctx p).2 with
    | .error 4 | .ok _ => r
    | .error m => min r m

/-- LAUNCH_PACKET_CHECK (14/R323): the head packet of a port is rejected, held for a page, or accepted. -/
def execLaunchPacketCheck (port : Nat) (s : State) : Out :=
  .next (match s.mbx? port with
    | none => s
    | some m =>
      match m.msgs, s.ctx? m.ctx with
      | p :: rest, some c =>
        if m.kind != 2 || c.stopped then s
        else
          let die := dieOfPos port
          let pop := fun (t : State) => t.modMbx port fun x => { x with msgs := rest }
          let ent := s.checkEntry m.ctx (BitVec.ofNat 64 (natAt p 8 8)) [.live]
          let found := (wordsOf p).foldl (fun (q : State × List ArbRes) (w : Nat × Bool) =>
            let r := q.1.arbAccess m.ctx die w.1 w.2
            (r.1, q.2 ++ [r.2])) (s, [])
          let desc := if natAt p 0 1 == 1 then found.1.globBytes m.ctx (natAt p 16 8) 80 else (found.1, some [])
          let descBad := natAt p 0 1 == 1 && (natAt p 16 8 % 16 != 0 || ((desc.2.bind descOf).isNone))
          let reasons := (if badFields p then [1] else []) ++ (if badRanges p (ent.map (·.2)) then [2] else []) ++
            (if ((ent.map fun e => e.2.launch).getD false) then [] else [3]) ++ (if descBad then [4] else []) ++
            (if found.2.contains .bad then [7] else [])
          match reasons, ent with
          | r :: _, _ => ((pop desc.1).forget die m.ctx ((wordsOf p).map (·.1))).postReject m.ctx port (desc.1.lowestReason m.ctx p r)
          | [], some e =>
            if found.2.contains .wait then
              ((wordsOf p).zip found.2).foldl (fun (t : State) (x : (Nat × Bool) × ArbRes) =>
                if x.2 == .wait then t.askPage ⟨.arbiter die, m.ctx, x.1.1 / 65536⟩ else t) desc.1
            else
              let id := desc.1.ctl.nextId
              let l : Launch := { id := id, ctx := m.ctx, die := die, port := port, packet := p, ln := 0xFFFFFFFF
                                  deps := [depCmp p 0 == 0, depCmp p 1 == 0], ready := false, mapl := [], extl := []
                                  llmTab := [], lvf := [], shln := 0, n := 0, scr := 0, entry := e.1.entryPc e.2, unitN := 0
                                  order := 0, started := 0, taskN := 0, done := false }
              let s1 := (pop desc.1).fresh 1
              (State.ready { s1 with job := { s1.job with launches := s1.job.launches ++ [l] } } id).number id
          | [], none => s
      | _, _ => s)

/-- The comparison of a dependence (14/R324). -/
def depHolds (cmp : Nat) (w t : Word) : Bool :=
  match cmp with
  | 1 => w == t
  | 2 => w != t
  | 3 => decide (t ≤ w)
  | 4 => !w.slt t
  | _ => true

/-- Whether a context is stopped for a save or a destruction (17/R380). -/
def State.ctxStopped (s : State) (ctx : Nat) : Bool := ((s.ctx? ctx).map (·.stopped)).getD false

/-- DEPENDENCE_READ (14/R324). The launches of a stopped context wait (17/R392). -/
def execDependenceRead (launch dep : Nat) (s : State) : Out :=
  .next (match s.launch? launch with
    | none => s
    | some l =>
      if l.ready || dep ≥ 2 || l.deps.getD dep true || s.ctxStopped l.ctx then s
      else
        let a := depAddr l.packet dep
        match s.arbAccess l.ctx l.die a false with
        | (s1, .bad) => s1.rejectLaunch l 7
        | (s1, .wait) => s1.askPage ⟨.arbiter l.die, l.ctx, a / 65536⟩
        | (s1, .ok) =>
          match s1.globBytes l.ctx a 4 with
          | (s2, some bs) =>
            if depHolds (depCmp l.packet dep) (BitVec.ofNat 32 (leNat bs)) (depTgt l.packet dep) then
              (s2.modLaunch launch fun x => { x with deps := x.deps.set dep true }).ready launch
            else s2
          | (s2, none) => s2)

/-! ### New sheaves (02/R29, 14/R322) -/

/-- The mask of the first `n` positions. -/
def firstMask (n : Nat) : Mask := BitVec.ofNat 1024 (2 ^ n - 1)

/-- A sheaf's state before its first instruction. -/
def Sheaf.start (uid : Nat) (shid : Word) (x : Footprint) (ctx : Nat) (pc : Pc) (seed : Nat) : Sheaf :=
  { uid := uid, shid := shid, shln := x.shln, vn := x.vn, mt := x.mt, core := 0, ctx := ctx, ln := 0, launch := 0, prio := 0
    task := false, seqr := false, taskSlot := none, origins := [], alloc := ⟨0, x.kib, 0⟩, s := List.replicate 64 0
    h := List.replicate 32 .empty, tiles := (List.range x.mt).map fun k => freeTile (seed + 4096 * k), gw := 0, fflg := 0
    dthr := 2560, mapl := [], extl := [], llmTab := [], lvf := []
    lanes := (List.range x.shln).map fun k => ⟨k, k, false, List.replicate x.vn 0, 1, List.replicate 4 ⟨0, 0⟩⟩
    path := some ⟨pc, firstMask x.shln, [], none⟩, stack := [], chain := ⟨none, []⟩, trap := ⟨0, 0, 0, 0, 0, false, none, 0⟩
    sstk := 0, sstks := 0, stook := none, mq := [], nseq := 0, ofence := none, unfenced := [], bar := none
    arr := none, late := [], raised := [], txbs := [], lastU := 0, lastV := 0, rdy := 0, hinted := false
    waiting := false, sleep := 0, timeL := none, run := .waiting, stop := none, fbuf := none, safeV := 0
    saved := [], savedBad := [], admitAt := 0, admitFused := false, queued := false }

/-- The shape of a launch's sheaves. -/
def Launch.footprint (l : Launch) : Footprint := ⟨l.shln, l.pkt 4 1, l.pkt 5 1, l.scr, 0, 0⟩

/-- Sheaf `k` of a launch, in a cluster, not yet placed. -/
def Launch.sheaf (l : Launch) (uid k cluster seed time : Nat) : Sheaf :=
  let h := Sheaf.start uid (BitVec.ofNat 32 k) l.footprint l.ctx l.entry seed
  { h with
    core := cluster * 48, ln := l.ln, launch := l.id, prio := l.prio, mapl := l.mapl, extl := l.extl, llmTab := l.llmTab
    lvf := l.lvf
    s := (List.range 64).map fun r => if 56 ≤ r then BitVec.ofNat 32 (l.pkt (64 + 4 * (r - 56)) 4) else 0
    sstk := BitVec.ofNat 64 (l.pkt 48 8 + k * l.pkt 44 4), sstks := BitVec.ofNat 32 (l.pkt 44 4)
    admitAt := time, admitFused := l.fused }

/-! ### Admission (14/R338 to R341) -/

/-- Sheaves of a context that are admitted and not stopped; a task sheaf is admitted when it is placed (14/R335). -/
def State.residentCount (s : State) (ctx : Nat) : Nat :=
  (s.sheaves.filter fun h => h.ctx == ctx && (h.resident || (h.run == .waiting && !h.task))).length

/-- Pooled-memory bytes measured for a context in a window: those of its lines, and what else passes the root ports (14/R339). -/
def State.poolBytes (s : State) (c : Ctx) (w : Nat) : Nat :=
  ((s.mm.moved.filter fun x => x.1 == c.asid && x.2.1 == w).map (·.2.2)).sum + Config.otherBytes c.id w

/-- Whether the three budgets allow `n` more sheaves of a context (14/R339; log entry 24). -/
def State.budgets (s : State) (c : Ctx) (n : Nat) : Bool :=
  decide (s.residentCount c.id + n ≤ c.cb) && decide (s.poolBytes c (s.ctl.time / 1000 - 1) ≤ c.bb) &&
  decide ((c.energy.map (·.last)).sum ≤ c.pb)

/-- Add sheaf `k` of a launch to a cluster, as a member of a launch-created stook where there is one. -/
def State.addSheaf (s : State) (l : Launch) (k cluster : Nat) (stook : Option (Nat × Nat)) : State :=
  let h := l.sheaf s.ctl.nextId k cluster s.ctl.free s.ctl.time
  ({ s with sheaves := s.sheaves ++ [{ h with stook := stook }] } : State).fresh 1 |>.draw (4096 * h.mt)

/-- Place a waiting sheaf on the first core of a cluster that holds it. -/
def State.placeFirst (s : State) (uid cluster : Nat) : Option State :=
  (s.sheaf? uid).bind fun h =>
    (((List.range 48).map fun c => cluster * 48 + c).find? fun c => s.fitsOn c (s.footprint h)).map fun c => s.placeOn h c

/-- The sheaves admitted to a cluster and not yet placed. -/
def State.admitted (s : State) (cluster : Nat) : List Nat :=
  (s.sheaves.filter fun h => h.run == .waiting && !h.task && clusterOf h.core == cluster).map (·.uid)

/-- Whether the sheaves admitted to a cluster can all be placed there. -/
def State.seats (s : State) (cluster : Nat) : Bool :=
  ((s.admitted cluster).foldl (fun (t : Option State) (u : Nat) => t.bind fun v => v.placeFirst u cluster) (some s)).isSome

/-- Admit a unit of a launch to a cluster: `n` sheaves from `k`, with their stook where `stook` holds; `together` places all
of them at once, or none. -/
def State.admitUnit (s : State) (l : Launch) (k n cluster : Nat) (stook together : Bool) : Option State :=
  if stook && decide (256 ≤ (s.stk.stooks.filter fun x => x.cluster == cluster).length) then none
  else if !s.clusterOpen cluster l.ctx l.fused || s.partDown 2 cluster then none
  else
    let uid := s.ctl.nextId
    let sid := uid + n
    let name : Word := 0x80000000 ||| ((l.ln &&& 0x7FFF) <<< 16) ||| BitVec.ofNat 32 (k / max 1 l.unitN)
    let s1 := (List.range n).foldl (fun (t : State) (j : Nat) =>
      t.addSheaf l (k + j) cluster (if stook then some (sid, j) else none)) s
    let s2 : State := if stook then
        let st : Stook := ⟨sid, name, l.ctx, cluster, true, 0, (List.range n).map fun j => ⟨j, uid + j, false⟩⟩
        State.fresh { s1 with stk := { s1.stk with stooks := s1.stk.stooks ++ [st] } } 1
      else s1
    let s3 := s2.modLaunch l.id fun x => { x with started := x.started + n }
    if together then (List.range n).foldl (fun (t : Option State) (j : Nat) => t.bind fun u => u.placeFirst (uid + j) cluster) (some s3)
    else some s3

/-- Admit units of a COOP launch, cluster by cluster, until all are resident. -/
def State.admitAll (s : State) (l : Launch) (u : Nat) : List Nat → Nat → Nat → Option State
  | _, 0, _ => some s
  | [], _ + 1, _ => none
  | c :: cs, n + 1, fuel =>
    match fuel with
    | 0 => none
    | f + 1 =>
      match s.admitUnit l (((s.launch? l.id).map (·.started)).getD 0) u c (l.unitN != 0) true with
      | some t => State.admitAll t l u (c :: cs) n f
      | none => State.admitAll s l u cs (n + 1) f

/-- Try to take in the next sheaf, unit or whole of a launch, to a cluster. -/
def State.tryAdmit (s : State) (l : Launch) (cluster : Nat) : Option State :=
  match s.ctx? l.ctx with
  | none => none
  | some c =>
    let u := max 1 l.unitN
    if !l.ready || l.n ≤ l.started || c.stopped || 24 ≤ cluster then none
    else if l.coop then
      if s.budgets c l.n then
        s.admitAll l u ((cluster :: (List.range 24).filter fun x => x != cluster)) (l.n / u) (l.n / u + 24)
      else none
    else if s.budgets c u then (s.admitUnit l l.started u cluster (l.unitN != 0) (1 < u)).filter fun t => t.seats cluster
    else none

/-- Whether launch `x` is considered before launch `l` (14/R338). -/
def Launch.before (x l : Launch) : Bool := decide (l.prio < x.prio) || (x.prio == l.prio && decide (x.order < l.order))

/-- Whether a launch waits to be admitted. -/
def Launch.waits (x : Launch) : Bool := x.ready && decide (x.started < x.n)

/-- The waiting COOP launch that is served first in a context (14/R341). -/
def State.coopFirst (s : State) (l : Launch) : Bool :=
  s.job.launches.any fun x => x.coop && x.waits && x.started == 0 && x.ctx == l.ctx && x.id != l.id &&
    decide (l.prio ≤ x.prio) && decide (x.order < l.order) &&
    !s.job.launches.any fun y => y.ctx == x.ctx && y.waits && y.prio == x.prio && decide (y.order < x.order)

/-- SHEAF_ADMIT (14/R338): unless a launch considered earlier can be admitted. -/
def execSheafAdmit (launch cluster : Nat) (s : State) : Out :=
  .next (match s.launch? launch with
    | none => s
    | some l =>
      let ahead := s.job.launches.any fun x => x.waits && x.before l && (List.range 24).any fun c => (s.tryAdmit x c).isSome
      if ahead || s.coopFirst l then s else (s.tryAdmit l cluster).getD s)

/-- A free slot of the context's task-stack pool (14/R335). -/
def Ctx.freeSlot (c : Ctx) : Option Nat := (List.range c.tstkn).find? fun k => !c.tasks.any fun t => t.1 == k

/-- SHEAF_PLACE (14/R340): a waiting sheaf goes to a fitting core of its cluster; a task sheaf with a stack takes a slot. -/
def execSheafPlace (uid core : Nat) (s : State) : Out :=
  .next (match s.sheaf? uid with
    | none => s
    | some h =>
      if h.run == .waiting && !s.ctxStopped h.ctx && clusterOf core == clusterOf h.core && s.fitsOn core (s.footprint h) &&
          s.clusterOpen (clusterOf core) h.ctx h.admitFused then
        if h.task && h.sstks != 0 && h.taskSlot.isNone then
          match s.ctx? h.ctx with
          | none => s
          | some c => match c.freeSlot with
            | none => s
            | some k =>
              let h1 : Sheaf := { h with taskSlot := some k, sstk := BitVec.ofNat 64 (c.tstk.toNat + k * c.tstks) }
              ((s.modCtx h.ctx fun x => { x with tasks := x.tasks ++ [(k, uid)] }).putSheaf h1).placeOn h1 core
        else s.placeOn h core
      else s)

/-! ### Tasks (14/R335) -/

/-- The groups forming in a cluster: context and capability, in the order of their first tasks. -/
def State.groups (s : State) (cluster : Nat) : List (Nat × DWord) :=
  ((s.job.tasks.filter fun t => t.1 == cluster).map fun t => (t.2.ctx, t.2.cap)).reverse.dedup.reverse

/-- The cluster that serves a cluster's task queue: the other one of its sector while it is quiesced (20/R429). -/
def State.tasksAt (s : State) (cluster : Nat) : Nat :=
  if s.partDown 2 cluster then (if cluster % 2 == 0 then cluster + 1 else cluster - 1) else cluster

/-- The tasks of a group of a cluster, at most 32. -/
def State.groupTasks (s : State) (cluster : Nat) (g : Nat × DWord) : List Task :=
  ((s.job.tasks.filter fun (t : Nat × Task) => t.1 == cluster && t.2.ctx == g.1 && t.2.cap == g.2).map (·.2)).take 32

/-- The nanoseconds until a group that can close must: at 32 tasks, or 2 µs after its first one (14/R335). The tasks of a stopped
context stay queued (14/R336). -/
def State.groupDue (s : State) (cluster : Nat) (g : Nat × DWord) : Option Nat :=
  match s.groupTasks cluster g, (s.seg? (capSeg g.2).toNat).bind fun x => x.elist[(capEnt g.2).toNat]? with
  | t :: ts, some _ => if s.ctxStopped g.1 then none else some (if ts.length == 31 then 0 else t.at_ + 2000 - s.ctl.time)
  | _, _ => none

/-- GROUP_CLOSE (14/R335): group `group` of a cluster closes at 32 tasks or 2 µs after its first one and becomes one sheaf.
Time does not pass beyond that instant before it has closed. The tasks of a stopped context stay queued (14/R336). -/
def execGroupClose (cluster group : Nat) (s : State) : Out :=
  .next (match (s.groups cluster)[group]? with
    | none => s
    | some (ctx, cap) =>
      if s.ctxStopped ctx then s else
      let mine := fun (t : Nat × Task) => t.1 == cluster && t.2.ctx == ctx && t.2.cap == cap
      let ts := ((s.job.tasks.filter mine).map (·.2)).take 32
      match ts, s.seg? (capSeg cap).toNat with
      | t :: _, some g =>
        match g.elist[(capEnt cap).toNat]? with
        | none => s
        | some e =>
          if ts.length == 32 || t.at_ + 2000 ≤ s.ctl.time then
            let keep := (s.job.tasks.filter fun x => !mine x) ++ (s.job.tasks.filter mine).drop 32
            let tn := ((s.launch? t.launch).map (·.taskN)).getD 0
            let h := Sheaf.start s.ctl.nextId (0x80000000 ||| BitVec.ofNat 32 (tn % 2 ^ 31)) ⟨ts.length, e.vn, e.mt, e.scr, 0, 0⟩
              ctx ⟨BitVec.ofNat 16 g.idx, capGen cap, e.off⟩ s.ctl.free
            let h1 : Sheaf := { h with
              core := s.tasksAt cluster * 48, ln := t.ln, launch := t.launch, prio := t.prio, task := true
              origins := (ts.flatMap fun (x : Task) => x.froms).dedup, sstks := BitVec.ofNat 32 e.sstks
              lanes := (h.lanes.zip ts).map fun p => { p.1 with v := p.2.regs ++ p.1.v.drop 8 }, admitAt := s.ctl.time }
            let s1 : State := { s with job := { s.job with tasks := keep }, sheaves := s.sheaves ++ [h1] }
            ((s1.fresh 1).draw (4096 * e.mt)).modLaunch t.launch fun l => { l with taskN := l.taskN + 1 }
          else s
      | _, _ => s)

/-! ### The end of a sheaf and of a launch -/

/-- Whether a draining sheaf has finished: engine operations, log entries, requests to its allotment, and the release at
system scope (02/R22, 14/R325, 09/R271). -/
def State.drained (s : State) (h : Sheaf) : Bool :=
  !(s.eng.ops.any fun (o : Op) => o.sheaf == h.uid && o.live) &&
  !(s.flt.log.any fun (e : LogEntry) => e.uid == h.uid) &&
  !(s.requests.any fun (r : ChanReq) => r.uid == h.uid || r.holder == h.uid) && h.late.isEmpty &&
  s.releaseOk h h.mq h.nseq 6

/-- Free a sheaf: stook, subscriptions, pattern-cache entries, task slot, operations no other handle holds, export
slots. -/
def State.freeSheaf (s : State) (h : Sheaf) : State :=
  let s1 := s.leaveStook h.uid
  let others := s1.sheaves.filter fun x => x.uid != h.uid
  let held := fun (o : Op) => others.any fun x => x.h.contains (.op o.id)
  let s2 : State := { s1 with
    sheaves := others
    eng := { s1.eng with
      ops := s1.eng.ops.filter fun (o : Op) => o.sheaf != h.uid || o.live || held o
      pats := s1.eng.pats.filter fun (p : Pattern) => !(p.alloc == h.alloc.id && p.core == h.core) } }
  (s2.modCtx h.ctx fun c => { c with tasks := c.tasks.filter fun t => t.2 != h.uid }).collect h.ctx

/-- DRAIN_END (02/R22). -/
def execDrainEnd (uid : Nat) (s : State) : Out :=
  .next (match s.sheaf? uid with
    | none => s
    | some h => if h.run == .draining && s.drained h then s.freeSheaf h else s)

/-- Whether every sheaf of a launch, and with TASKQ every task, has ended (14/R325). -/
def State.launchOver (s : State) (l : Launch) : Bool :=
  l.ready && !l.done && l.started == l.n && !(s.sheaves.any fun h => !h.task && h.launch == l.id) &&
  (!l.taskq || (!(s.sheaves.any fun h => h.task && h.origins.contains l.id) &&
    !s.job.tasks.any fun t => t.2.froms.contains l.id))

/-- The launch is done, and its nest synchronisation goes. Its record stays: later task sheaves count in it. -/
def State.endLaunch (s : State) (l : Launch) : State :=
  State.modLaunch { s with stk := { s.stk with nests := s.stk.nests.filter fun (n : NestSync) => n.launch != l.id } }
    l.id fun x => { x with done := true }

/-- The completion is lost (14/R325): a fault record of KIND 0x03. -/
def State.lostCompletion (s : State) (l : Launch) : State :=
  (s.endLaunch l).postFault l.ctx
    (faultRecord 3 6 0 l.ctx 0 l.ln.toNat ⟨0, 0, 0⟩ 0 (l.pkt 56 8) s.ctl.time l.die 0xFF 0xFF)

/-- LAUNCH_COMPLETE (14/R325): AADD of 1 on the completion word, at its home. A launch of a stopped context completes after
it runs again (17/R392). -/
def execLaunchComplete (launch : Nat) (s : State) : Out :=
  .next (match s.launch? launch with
    | none => s
    | some l =>
      let a := l.pkt 56 8
      if !s.launchOver l || s.ctxStopped l.ctx then s
      else if a == 0 then s.endLaunch l
      else if s.lineHeld l.ctx a then s
      else match s.homeOf l.ctx a .both with
        | (s1, .ok x) =>
          if !x.badAt (a % 128) 4 then
            let old := BitVec.ofNat 32 (leNat (lineBytes x.data (a % 128) 4))
            ((s1.homeWrite l.ctx (l.die * 288) 0 x (a % 128) (bvLe (old + 1) 4)).1).endLaunch l
          else s1.lostCompletion l
        | (s1, .host) =>
          let r : PageReq := ⟨.arbiter l.die, l.ctx, a / 65536⟩
          if s1.flt.refused.contains r then (s1.forget l.die l.ctx [a]).lostCompletion l else s1.askPage r
        | (s1, .absent) => s1.lostCompletion l
        | (s1, .denied) => s1.lostCompletion l)

/-! ### Host posts (14/R319, R320; 19/R406) -/

/-- Where a BAR0 offset of a function lands: a context and a position in its slice memory. -/
def State.barPos (s : State) (fn off n : Nat) : Option (Nat × Nat) :=
  if off < 0x4000000 || 0x404000000 ≤ off then none
  else
    let k := (off - 0x4000000) / 2 ^ 26
    (s.ctxs.find? fun c => c.live && c.vf == fn && c.bidx == k / 16).bind fun c =>
      (c.win.find? fun w => w.pos == k % 16).bind fun w =>
        let o := (off - 0x4000000) % 2 ^ 26
        if o + n ≤ w.kib * 1024 then some (c.id, w.slice * 2 ^ 26 + w.base + o) else none

/-- Bytes of a whole message of a mailbox kind: 128 for a packet, 64 for a fault record, 32 for a command, 8 to 128 in
multiples of 8 for an ordinary one. -/
def wholeMsg (kind n : Nat) : Bool :=
  if kind == 2 then n == 128 else if kind == 3 then n == 64 else if kind == 5 then n == 32
  else decide (8 ≤ n) && decide (n ≤ 128) && n % 8 == 0

/-- Post a message of the host: a full launch port discards it with a fault record of reason 0x09 (14/R319). -/
def State.hostMsg (s : State) (m : Mbx) (bs : List Byte) : State :=
  if m.msgs.length < m.nslot then s.postMsg m.head bs
  else if m.kind == 2 then s.postReject m.ctx m.head 9
  else s

/-- The command port: the mailbox of kind 5. -/
def State.cmdPort (s : State) : Option Mbx := s.job.mbx.find? fun m => m.kind == 5

/-- Operation codes of system commands (17/R380, 20/R428). -/
def knownCmd (op : Nat) : Bool := (1 ≤ op && op ≤ 8) || (0x10 ≤ op && op ≤ 0x14)

/-- A command that no rule names completes with status 0xFF (17/R380). -/
def State.unknownCmd (s : State) (bs : List Byte) : State :=
  let c : Cmd := ⟨BitVec.ofNat 32 (natAt bs 4 4), BitVec.ofNat 64 (natAt bs 8 8), BitVec.ofNat 64 (natAt bs 16 8),
    BitVec.ofNat 64 (natAt bs 24 8)⟩
  State.fresh { s with sys := { s.sys with cmds := s.sys.cmds ++ [⟨s.ctl.nextId, natAt bs 0 1, c, 0xFF, 0, 0⟩] } } 1

/-- HOST_POST (14/R320): one whole message to a POST field; the command port is at BAR0 offset 0 of the physical
function. -/
def execHostPost (fn off : Nat) (bytes : List Byte) (s : State) : Out :=
  .next (if fn == 0 && off == 0 then
      match s.cmdPort with
      | some m =>
        if !wholeMsg 5 bytes.length then s
        else if !knownCmd (natAt bytes 0 1) then s.unknownCmd bytes
        else s.hostMsg m bytes
      | none => s
    else
      match (s.barPos fn off bytes.length).bind fun p => s.mbx? p.2 with
      | some m => if wholeMsg m.kind bytes.length then s.hostMsg m bytes else s
      | none => s)

end Sys2Proof.Machine
end

