-- ==== Sys2Proof/Machine/Ecdsa.lean ====
section
/-! DEFINITION. The check of an object's or a firmware image's signature and the device's own (16/R357; 20/R434, R435): ECDSA over P-521 with SHA-512 as FIPS 186-5 defines it, with the
public key of the leaf certificate, X.509 in DER (log entry 25). Which roots the system software trusts stays outside. -/

namespace Sys2Proof.Machine

/-! ### The curve P-521 -/

/-- The prime of the field. -/
def ecP : Nat := 2 ^ 521 - 1

/-- The coefficient b; the coefficient a is -3. -/
def ecB : Nat := 0x0051953EB9618E1C9A1F929A21A0B68540EEA2DA725B99B315F3B8B489918EF109E156193951EC7E937B1652C0BD3BB1BF073573DF883D2C34F1EF451FD46B503F00

/-- The order of the base point. -/
def ecN : Nat := 0x01FFFFFFFFFFFFFFFFFFFFFFFFFFFFFFFFFFFFFFFFFFFFFFFFFFFFFFFFFFFFFFFFFA51868783BF2F966B7FCC0148F709A5D03BB5C9B8899C47AEBB6FB71E91386409

/-- A point: none is the point at infinity. -/
abbrev EcPoint := Option (Nat × Nat)

/-- The base point. -/
def ecG : EcPoint := some
  (0x00C6858E06B70404E9CD9E3ECB662395B4429C648139053FB521F828AF606B4D3DBAA14B5E77EFE75928FE1DC127A2FFA8DE3348B3C1856A429BF97E7E31C2E5BD66,
   0x011839296A789A3BC0045C8A5FB42C7D1BD998F54449579B446817AFBD17273E662C97EE72995EF42640C550B9013FAD0761353C7086A272C24088BE94769FD16650)

/-- A power modulo `m`, over the low `k` bits of the exponent. -/
def powMod (m b e : Nat) : Nat → Nat
  | 0 => 1 % m
  | k + 1 => powMod m (b * b % m) (e / 2) k * (if e % 2 == 1 then b else 1) % m

/-- The inverse modulo a prime of at most 521 bits. -/
def invMod (m x : Nat) : Nat := powMod m (x % m) (m - 2) 521

/-- Whether two coordinates are those of a point of the curve. -/
def onCurve (x y : Nat) : Bool := decide (x < ecP) && decide (y < ecP) && y * y % ecP == (x * x * x + (ecP - 3) * x + ecB) % ecP

/-- The sum of two points. -/
def ecAdd (a b : EcPoint) : EcPoint :=
  match a, b with
  | none, q => q
  | p, none => p
  | some (x1, y1), some (x2, y2) =>
    if x1 == x2 && (y1 + y2) % ecP == 0 then none
    else
      let l := if x1 == x2 then (3 * x1 * x1 + (ecP - 3)) * invMod ecP (2 * y1) % ecP
        else (y2 + ecP - y1) * invMod ecP (x2 + ecP - x1) % ecP
      let x3 := (l * l + 2 * ecP - x1 - x2) % ecP
      some (x3, (l * (x1 + ecP - x3) + ecP - y1) % ecP)

/-- A multiple of a point. -/
def ecMul (k : Nat) (p : EcPoint) : EcPoint :=
  (List.range 521).foldr (fun (i : Nat) (q : EcPoint) =>
    let d := ecAdd q q
    if k.testBit i then ecAdd d p else d) none

/-- ECDSA verification of a message's SHA-512 digest. -/
def ecdsaOk (msg : List Byte) (r s : Nat) (x y : Nat) : Bool :=
  let w := invMod ecN s
  let e := beNat (sha512 msg)
  decide (1 ≤ r) && decide (r < ecN) && decide (1 ≤ s) && decide (s < ecN) && onCurve x y &&
  match ecAdd (ecMul (e * w % ecN) ecG) (ecMul (r * w % ecN) (some (x, y))) with
  | some p => p.1 % ecN == r
  | none => false

/-! ### The leaf certificate's key -/

/-- One DER value of a tag: its contents and what follows. -/
def derTake (tag : Byte) (b : List Byte) : Option (List Byte × List Byte) :=
  let n := natAt b 1 1
  let k := if n < 128 then 0 else n - 128
  let len := if n < 128 then n else beNat ((b.drop 2).take k)
  if b.head? == some tag && decide (k ≤ 4) && decide (2 + k + len ≤ b.length) then
    some ((b.drop (2 + k)).take len, b.drop (2 + k + len))
  else none

/-- Skip DER values of some tags. -/
def derSkip : List Byte → List Byte → Option (List Byte)
  | [], b => some b
  | t :: ts, b => (derTake t b).bind fun x => derSkip ts x.2

/-- The public key in the first certificate of a chain: that of the curve P-521. -/
def leafKey (chain : List Byte) : Option (Nat × Nat) :=
  (derTake 0x30 chain).bind fun cert => (derTake 0x30 cert.1).bind fun tbs =>
    let b := match derTake 0xA0 tbs.1 with | some v => v.2 | none => tbs.1
    -- serial number, signature algorithm, issuer, validity, subject
    (derSkip [0x02, 0x30, 0x30, 0x30, 0x30] b).bind fun b => (derTake 0x30 b).bind fun spki => (derTake 0x30 spki.1).bind fun alg =>
      (derTake 0x03 alg.2).bind fun key =>
        if alg.1 == [0x06, 0x07, 0x2A, 0x86, 0x48, 0xCE, 0x3D, 0x02, 0x01, 0x06, 0x05, 0x2B, 0x81, 0x04, 0x00, 0x23] &&
            key.1.length == 134 && key.1.take 2 == [0x00, 0x04] then
          some (beNat ((key.1.drop 2).take 66), beNat (key.1.drop 68))
        else none

/-- Whether a SIG block is a valid signature of a message: ECDSA with the leaf's key, and a chain the system software trusts. -/
def signatureOk (msg b : List Byte) : Bool :=
  let chain := (b.drop 144).take (natAt b 4 4)
  Config.chainTrusted chain &&
  match leafKey chain with
  | some (x, y) => ecdsaOk msg (beNat ((b.drop 8).take 66)) (beNat ((b.drop 74).take 66)) x y
  | none => false

/-- The signature of a message by a private key, with the number drawn at an attempt; none where it is to be drawn again. -/
def ecdsaTry (msg : List Byte) (d k : Nat) : Option (Nat × Nat) :=
  let r := ((ecMul k ecG).map fun p => p.1 % ecN).getD 0
  let s := invMod ecN k * (beNat (sha512 msg) + r * d) % ecN
  if r == 0 || s == 0 then none else some (r, s)

/-- A number of 66 bytes, most significant first. -/
def be66 (x : Nat) : List Byte := (natLe 66 x).reverse

/-- The identity signature of a message: ECDSA over P-521 with SHA-512 (20/R435; log entry 26). -/
def identitySign (msg : List Byte) : List Byte :=
  let d := 1 + Config.identityKey % (ecN - 1)
  match (List.range 8).findSome? fun n => ecdsaTry msg d (1 + Config.signatureDraw msg n % (ecN - 1)) with
  | some (r, s) => be66 r ++ be66 s
  | none => []

/-- Whether a firmware image of a security version is signed by a Lyssal key chained to the Lyssal root (20/R434; log entry
25). -/
def imageSigned (bytes : List Byte) (svn : Nat) : Bool :=
  Config.lyssalRooted (Config.imageChain bytes) &&
  match leafKey (Config.imageChain bytes) with
  | some (x, y) => ecdsaOk (Config.imageBody bytes svn) (Config.imageSignature bytes).1 (Config.imageSignature bytes).2 x y
  | none => false

end Sys2Proof.Machine
end

