-- ==== Sys2Proof/Machine/Image.lean ====
section
/-! DEFINITION. Reference counts of segments (16/R365) and the context save format (17/R393 to R397) as bytes. -/

namespace Sys2Proof.Machine

/-! ### Reference counts (16/R365; log entry 35) -/

/-- The program counters a sheaf holds: of its paths, of its records, of its frames as stored, of TRAPE in a handler. -/
def Sheaf.refs (h : Sheaf) : List Pc :=
  (h.path.map (·.pc)).toList ++
  (h.stack.map fun e => match e with | .record _ rpc _ _ => rpc | .pending p => p.pc) ++
  ((h.callStacks.flatten.map fun f => (f.id, f.pc)).dedup.map (·.2)) ++
  (if h.trap.inH then h.trap.ret.toList else [])

/-- The groups not yet closed among some queued tasks: of each cluster, context and capability one for every 32 tasks or fewer
(14/R335). -/
def openGroups (ts : List (Nat × Task)) : Nat :=
  let key := fun (t : Nat × Task) => (t.1, t.2.ctx, t.2.cap)
  (((ts.map key).dedup).map fun k => ceilDiv (ts.filter fun t => key t == k).length 32).sum

/-- REFC of a segment. -/
def State.refc (s : State) (g : Seg) : Nat :=
  let named := fun (seg : BitVec 16) (gen : BitVec 8) => seg.toNat == g.idx && gen == g.gen
  let queued := s.job.tasks.filter fun (t : Nat × Task) => named (capSeg t.2.cap) (capGen t.2.cap)
  ((s.sheaves.flatMap Sheaf.refs).filter fun p => named p.seg p.gen).length +
  (s.job.launches.filter fun (l : Launch) => !l.done && (!l.ready || decide (l.started < l.n)) && named l.entry.seg l.entry.gen).length +
  queued.length + openGroups queued

/-! ### The context record (17/R394) -/

/-- A window grant at a position. -/
def winBytes (c : Ctx) (k : Nat) : List Byte :=
  match c.win.find? fun w => w.pos == k with
  | some w => natLe 1 w.num ++ natLe 1 1 ++ natLe 2 w.slice ++ natLe 4 w.kib ++ natLe 8 w.base
  | none => natLe 16 0

/-- The context record. -/
def ctxBytes (c : Ctx) : List Byte :=
  natLe 4 c.id ++ natLe 2 c.asid ++ natLe 2 c.vf ++ natLe 8 c.ptroot ++ natLe 8 c.tdbase ++ natLe 4 c.cb ++ natLe 4 c.bb ++
  natLe 4 c.pb ++ natLe 4 c.preto ++ natLe 8 c.fmbx ++ natLe 8 c.csa ++ natLe 8 c.sgrantVa ++ bvLe c.flost 4 ++
  bvLe c.lnext 4 ++ natLe 1 c.bidx ++ natLe 7 0 ++ bvLe c.tstk 8 ++ natLe 4 c.tstkn ++ natLe 4 c.tstks ++ natLe 32 0 ++
  ((List.range 16).flatMap (winBytes c)) ++ natLe 128 0

/-! ### Records -/

/-- A record: its 16-byte header and its body, padded to a multiple of 16. -/
def recBytes (ty owner : Nat) (body : List Byte) : List Byte :=
  let n := (body.length + 15) / 16 * 16
  natLe 2 ty ++ natLe 2 0 ++ natLe 4 (16 + n) ++ natLe 8 owner ++ body ++ List.replicate (n - body.length) 0

/-- STATE of a segment in its entry (16/R362). -/
def SegState.code : SegState → Nat
  | .free => 0
  | .live => 1
  | .retired => 2
  | .revoked => 3

/-- A segment table entry (16/R362). -/
def segBytes (g : Seg) (refc : Nat) : List Byte :=
  natLe 8 g.base ++ natLe 4 g.len ++ natLe 2 g.elist.length ++ bvLe g.gen 1 ++ natLe 1 g.state.code ++
  natLe 8 g.elistVa ++ natLe 8 g.sptVa ++ natLe 4 g.spt.length ++ natLe 4 g.owner ++ natLe 4 refc ++ natLe 20 0

/-- A launch record (17/R393). -/
def launchBytes (l : Launch) : List Byte := l.packet ++ natLe 4 l.started ++ natLe 12 0

/-- The nest synchronisation of a stook's launch that spans sheaves (14/R332). -/
def State.stookNest (s : State) (k : Stook) : Option (NestSync × Sheaf) :=
  (k.members.findSome? fun m => s.sheaf? m.uid).bind fun h =>
    (s.stk.nests.find? fun (n : NestSync) => n.launch == h.launch && h.sheavesOf n.lv != 1 &&
      (h.lanes.any fun l => l.key n.lv == some n.key)).map fun n => (n, h)

/-- The bytes of an open reduction: V, RF, RTY, ROP, a reserved byte (14/R332). A minimum or maximum stands in V. -/
def accBytes (x : NestAcc) : List Byte :=
  bvLe (match x.mm with | some m => m.setWidth 320 | none => x.v) 40 ++ bvLe x.f 1 ++ natLe 1 x.ty ++ natLe 1 x.op ++ natLe 1 0

/-- The number of the NBC value supplied last. -/
def NestSync.top (n : NestSync) : Nat := n.nbc.foldl (fun (m : Nat) (x : Nat × Nat × Word) => max m x.1) 0

/-- The NBC values supplied last in some iterations, one word per LID. -/
def nbcBytes (ns : List NestSync) : List Byte :=
  (List.range 1024).flatMap fun lid =>
    bvLe ((ns.findSome? fun n => (n.nbc.find? fun x => x.1 == n.top && x.2.1 == lid).map (·.2.2)).getD 0) 4

/-- What is pending of a number of agents when `k` of them have arrived: 0 while none has. -/
def pendingOf (agents k : Nat) : Nat := if k == 0 then 0 else agents - k

/-- Agents of an iteration that have not arrived in its phase. -/
def NestSync.missing (n : NestSync) (agents : Nat) : Nat := pendingOf agents (n.arr.filter fun a => a.2 == n.phase).length

/-- Agents that have not executed get:1 in its round. -/
def NestSync.ungot (n : NestSync) (agents : Nat) : Nat := pendingOf agents (n.got.filter fun g => g.2 == n.round).length

/-- Agents that have not executed the NBC whose value was supplied last. -/
def NestSync.unbc (n : NestSync) (agents : Nat) : Nat :=
  if n.nbc.isEmpty then 0 else agents - (((n.nbcN.filter fun x => n.top < x.2.2).map (·.1)).dedup).length

/-- A member entry (09/R268). -/
def State.memberBytes (s : State) (k : Stook) (i : Nat) : List Byte :=
  match (k.members.find? fun m => m.idx == i).bind fun m => (s.sheaf? m.uid).map fun h => (m, h) with
  | some (m, h) => natLe 8 (2 ^ 63 + bitNat m.hld * 2 ^ 62 + h.shid.toNat % 2 ^ 16 * 2 ^ 32 + h.core % 48 * 2 ^ 20 +
      h.alloc.kib * 2 ^ 10 + h.alloc.base % 2 ^ 10)
  | none => natLe 8 0

/-- A stook record, with the synchronisation area of a launch-created one (09/R267, 14/R332). -/
def State.stookBytes (s : State) (k : Stook) : List Byte :=
  let n := s.stookNest k
  let left := (n.map fun p => p.1.missing (p.2.agents p.1.lv p.1.key)).getD 0
  bvLe k.name 4 ++ natLe 4 k.ctx ++ bvLe k.mask 8 ++ natLe 1 k.members.length ++ natLe 1 (if k.launched then 2 else 1) ++
  natLe 1 k.anch ++ natLe 1 0 ++ natLe 4 left ++ natLe 1 ((n.map fun p => p.1.phase % 16).getD 0) ++ natLe 7 0 ++
  ((List.range 64).flatMap (s.memberBytes k)) ++
  if !k.launched then []
  else match n with
    | none => natLe 4160 0
    | some (x, h) =>
      let ag := h.agents x.lv x.key
      accBytes x.acc ++ natLe 4 (x.ungot ag) ++ natLe 4 (x.unbc ag) ++ natLe 12 0 ++ nbcBytes [x]

/-! ### Sheaf records (17/R395, 02/R37) -/

/-- The summary word of a mask (02/R23). -/
def maskSummary (m : Mask) : Nat := (List.range 32).foldl (fun (n : Nat) (k : Nat) => n + bitNat (m.extractLsb' (32 * k) 32 != 0) * 2 ^ k) 0

/-- A stack entry: PC, KIND, DEPTH, LINK, SUMMARY, mask. -/
def entryBytes (pc : Pc) (kind depth link : Nat) (m : Mask) : List Byte :=
  bvLe (returnCap pc link) 8 ++ natLe 1 kind ++ natLe 1 0 ++ natLe 2 depth ++ natLe 4 link ++ natLe 4 (maskSummary m) ++ natLe 12 0 ++
  bvLe m 128

/-- The stack index of a record, counted from the bottom; 0xFFFFFFFF for none. -/
def linkIndex (stack : List StackEntry) (link : Option Nat) : Nat :=
  match link.bind fun id => stack.reverse.findIdx? fun e => e.isRecord id with
  | some k => k
  | none => 0xFFFFFFFF

/-- A stack entry as bytes. -/
def StackEntry.bytes (stack : List StackEntry) (e : StackEntry) : List Byte :=
  match e with
  | .record _ rpc a fr => entryBytes rpc 1 fr.length 0 a
  | .pending p => entryBytes p.pc 2 p.frames.length (linkIndex stack p.link) p.mask

/-- The v registers a stopped sheaf saves, ascending. -/
def Sheaf.savedV (h : Sheaf) : List Nat := (List.range h.vn).filter fun n => h.safeV.getLsbD n

/-- A lane block. -/
def Lane.bytes (l : Lane) (vs : List Nat) : List Byte :=
  if l.left then natLe 2 0xFFFF ++ natLe (34 + 4 * vs.length) 0
  else natLe 2 l.lpos ++ bvLe l.k 2 ++ ((List.range 4).flatMap fun lv => bvLe (l.nestAt lv).ix 4 ++ bvLe (l.nestAt lv).rc 4) ++
    vs.flatMap fun n => bvLe (l.getV n) 4

/-- The operations of a sheaf that get a HANDLE record: those still pending. -/
def State.handleOps (s : State) (h : Sheaf) : List Op := s.eng.ops.filter fun (o : Op) => o.sheaf == h.uid && o.live

/-- KIND of a handle (17/R397). -/
def OpKind.code (k : OpKind) : Nat :=
  match k with
  | .pcomp => 5
  | .wnw | .wnf => 4
  | k => if k.isMatrix then 2 else 1

/-- The barrier handles of a sheaf that are pending, by register. -/
def Sheaf.barHandles (h : Sheaf) : List (Nat × BarHandle) :=
  h.h.zipIdx.filterMap fun p => match p.1 with | .bar b => if b.code == 1 then some (p.2, b) else none | _ => none

/-- The packed form of a barrier handle (17/R395, R397). -/
def BarHandle.word (b : BarHandle) : Nat := b.off % 2 ^ 19 + b.member % 64 * 2 ^ 19 + bitNat b.own * 2 ^ 25 + b.ph % 16 * 2 ^ 26

/-- The export slot of an operation; 0xFFFFFFFF for none (log entry 30). -/
def State.slotOf (s : State) (ctx id : Nat) : Nat :=
  (((s.ctx? ctx).bind fun c => c.exports.find? fun e => e.op == some id).map (·.slot)).getD 0xFFFFFFFF

/-- A handle register in a sheaf record: a pending operation of the sheaf names its HANDLE record, any other its export slot. -/
def State.handleBytes (s : State) (h : Sheaf) (x : Handle) (reg : Nat) : List Byte :=
  match x with
  | .empty => natLe 16 0
  | .op id =>
    match s.op? id with
    | none => natLe 16 0
    | some o =>
      let ord := match (s.handleOps h).findIdx? fun p => p.id == id && p.hreg == reg with
        | some k => k
        | none => s.slotOf h.ctx id
      natLe 1 (if o.live then 1 else 2) ++ natLe 1 o.kind.code ++ natLe 2 0 ++ natLe 4 ord ++
        bvLe (if o.live then 1 else (o.status.getD 0)) 8
  | .bar b =>
    let ord := (s.handleOps h).length + ((h.barHandles.findIdx? fun p => p.1 == reg).getD 0)
    natLe 1 (if b.code == 1 then 1 else 2) ++ natLe 1 3 ++ natLe 2 0 ++ natLe 4 ord ++ natLe 8 b.code

/-- BARREC (17/R395). -/
def Sheaf.barRec (h : Sheaf) : Nat :=
  match h.bar with
  | some b => b.word + 2 ^ 30 + 2 ^ 31
  | none => 0

/-- STOP and SAFE of a stopped sheaf. -/
def Sheaf.stopCode (h : Sheaf) : Nat × Nat :=
  match h.run with
  | .stopped c i => (c, i.getD 0xFFFFFFFF)
  | _ => (2, 0xFFFFFFFF)

/-- A sheaf record. -/
def State.sheafBytes (s : State) (h : Sheaf) : List Byte :=
  let vs := h.savedV
  let chip := (h.stack.take 32).reverse
  natLe 4 h.shid.toNat ++ natLe 4 h.shln ++ natLe 1 h.vn ++ natLe 1 h.mt ++ natLe 2 h.alloc.kib ++ natLe 1 h.prio ++
  natLe 1 h.stopCode.1 ++ natLe 1 (bitNat h.trap.inH) ++ natLe 1 vs.length ++ natLe 4 h.stopCode.2 ++ bvLe h.ln 4 ++
  bvLe h.sstk 8 ++ bvLe h.sstks 4 ++ natLe 4 ((h.stook.map (·.2)).getD 0xFFFFFFFF) ++
  ((List.range 4).flatMap fun k => bvLe (h.map k) 4) ++ ((List.range 4).flatMap fun k => bvLe (h.extl.getD k 0) 4) ++
  bvLe h.pc.seg 2 ++ bvLe h.pc.gen 1 ++ natLe 1 0 ++ bvLe h.pc.off 4 ++ bvLe h.fflg 4 ++ natLe 4 h.depth ++ natLe 8 h.gw ++
  bvLe h.trap.v 8 ++ bvLe h.trap.e 8 ++ bvLe h.trap.a 8 ++ bvLe h.trap.c 4 ++ bvLe h.trap.i 4 ++
  bvLe (rangeMask 128 0 h.vn &&& h.safeV) 16 ++ natLe 4 chip.length ++ bvLe h.dthr 4 ++ natLe 8 h.barRec ++
  ((List.range 64).flatMap fun n => bvLe (h.getS n) 4) ++
  ((List.range 32).flatMap fun n => s.handleBytes h (h.getH n) n) ++
  (match h.path with
    | some p => entryBytes p.pc 3 p.frames.length (linkIndex h.stack p.link) p.mask
    | none => natLe 160 0) ++
  (chip.flatMap fun e => e.bytes h.stack) ++ (sortBy (fun (l : Lane) => l.lid) h.lanes).flatMap fun l => l.bytes vs

/-! ### Records of a sheaf's parts -/

/-- The open iterations of a level of a sheaf that holds all their agents. -/
def State.ownNests (s : State) (h : Sheaf) (lv : Nat) : List NestSync :=
  s.stk.nests.filter fun (n : NestSync) => n.launch == h.launch && n.lv == lv && h.sheavesOf lv == 1 &&
    (h.lanes.any fun l => l.key lv == some n.key) && (n.acc.n != 0 || !n.arr.isEmpty || !n.got.isEmpty || !n.nbc.isEmpty)

/-- The SHSYNC record of a level (17/R393), where something is open. -/
def State.syncRec (s : State) (h : Sheaf) (lv : Nat) : List Byte :=
  match s.ownNests h lv with
  | [] => []
  | n :: ns =>
    let open1 := (n :: ns).filter fun (x : NestSync) => x.acc.n != 0
    let left := ((n :: ns).map fun x => x.missing (h.agents lv x.key)).sum
    let low := fun (x : NestSync) => ((h.lanes.filter fun l => l.key lv == some x.key).map (·.lid)).foldl min 1024
    recBytes 0x000D h.shid.toNat (natLe 1 lv ++ natLe 1 0 ++ natLe 2 open1.length ++ natLe 4 left ++ natLe 1 (n.phase % 16) ++ natLe 7 0 ++
      nbcBytes ((n :: ns).filter fun (x : NestSync) => x.unbc (h.agents lv x.key) != 0) ++ open1.flatMap fun x => accBytes x.acc ++ natLe 4 (low x))

/-- Units of an operation written so far, as a count: next sector, next row, or the row-progress word (17/R391, R397). -/
def Op.prog (o : Op) : Nat :=
  match o.kind with
  | .mma | .mmaz | .mmsp | .mmld | .spcmp => o.rp + 256 * bitNat o.susp
  | .wnw | .wnf | .red => o.rp
  | _ => o.done.length

/-- The tail of a HANDLE record. The bitmap of a per-lane copy has the bit of every lane with nothing left to copy. -/
def Op.tail (o : Op) : List Byte :=
  match o.kind with
  | .mcast => (List.range 48).flatMap fun k => natLe 4 (o.done.filter fun n => n / 2 ^ 60 == k).length
  | .lg2s | .ls2g =>
    let left := (o.lanes.zipIdx.filter fun p => !p.1.skip && !o.done.contains p.2).map fun p => p.1.lid
    natLe 128 (2 ^ 1024 - 1 - (left.map fun k => 2 ^ k).sum)
  | _ => []

/-- A HANDLE record's body (17/R397). -/
def handleRec (reg kind : Nat) (facc : BitVec 5) (insn : Word) (xmod xmem : BitVec 24) (blk : List Word) (opgw prog : Nat)
    (tail : List Byte) : List Byte :=
  natLe 1 reg ++ natLe 1 kind ++ bvLe facc 1 ++ natLe 1 0 ++ bvLe insn 4 ++ bvLe xmod 4 ++ bvLe xmem 4 ++
  ((List.range 8).flatMap fun k => bvLe (blk.getD k 0) 4) ++ natLe 8 opgw ++ natLe 4 prog ++ natLe 4 tail.length ++ natLe 16 0 ++ tail

/-- The HANDLE records of a sheaf: operations in issue order, then barrier handles. -/
def State.handleRecs (s : State) (h : Sheaf) : List Byte :=
  ((s.handleOps h).flatMap fun o => recBytes 6 h.shid.toNat
    (handleRec o.hreg o.kind.code o.facc o.insn o.xmod o.xmem o.blk o.opgw o.prog o.tail)) ++
  h.barHandles.flatMap fun p => recBytes 6 h.shid.toNat (handleRec p.1 3 0 0 0 0 [] 0 p.2.word [])

/-- DATA of a lane record: store data or operands, the halves of a b128 store side by side; zero for loads. -/
def laneData (xs : List Access) : BitVec 128 :=
  xs.foldl (fun (d : BitVec 128) (x : Access) => if x.kind == .load then d else d ||| (x.data <<< (64 * x.id.part))) 0

/-- An operand-log entry (17/R383): one record for each lane; VA is the address of the whole access. -/
def State.logBytes (s : State) (e : LogEntry) : List Byte :=
  let xs := e.accs.filterMap fun a => (s.sheaf? e.uid).bind fun h => h.acc? a
  let lids := (xs.map fun x => x.id.lid).dedup
  let lane := fun (lid : Nat) =>
    let mine := xs.filter fun x => x.id.lid == lid
    natLe 8 ((mine.head?.map fun x => x.addr - 8 * x.id.part).getD 0) ++ natLe 2 lid ++ natLe 6 0 ++ bvLe (laneData mine) 16
  natLe 4 (((s.sheaf? e.uid).map (·.shid.toNat)).getD 0) ++ bvLe e.insn 4 ++ bvLe e.xmem 4 ++ natLe 4 e.seq ++
  natLe 2 lids.length ++ natLe 1 e.state ++ natLe 5 0 ++ natLe 8 (e.page * 65536) ++ lids.flatMap lane

/-- The records that follow a sheaf's: SHSYNC, HANDLE, OPLOG. -/
def State.sheafGroup (s : State) (h : Sheaf) : List Byte :=
  recBytes 5 h.shid.toNat (s.sheafBytes h) ++ ((List.range 4).flatMap fun lv => s.syncRec h lv) ++ s.handleRecs h ++
  ((s.flt.log.filter fun e => e.uid == h.uid).flatMap fun e => recBytes 7 h.shid.toNat (s.logBytes e))

/-- The ACCUM records of a sheaf. -/
def Sheaf.tileRecs (h : Sheaf) : List Byte :=
  (List.range h.mt).flatMap fun k => recBytes 9 h.shid.toNat
    (natLe 1 k ++ natLe 15 0 ++ (List.range 64).flatMap fun r => ((h.tile k).row r).flatMap fun w => bvLe w 4)

/-- A subscription record and its dirty map (09/R276). -/
def State.subBytes (s : State) (p : Sub) : List Byte :=
  let mem := fun (uid : Nat) => (((s.sheaf? uid).bind (·.stook)).map (·.2)).getD 0
  natLe 4 p.soff ++ natLe 4 p.poff ++ natLe 2 p.len ++ natLe 1 (mem p.pubr) ++ natLe 1 (mem p.subr) ++
  natLe 1 (match p.state with | .live => 1 | .detached => 2 | .resync => 3) ++ natLe 1 p.id ++ natLe 2 0 ++
  natLe 256 (p.dirty.foldl (fun (m : Nat) (k : Nat) => m ||| 2 ^ k) 0)

/-! ### Slice memory -/

/-- A message slot of a mailbox: an ordinary one begins with the length (14/R320). -/
def Mbx.slot (m : Mbx) (k : Nat) : List Byte :=
  match m.msgs[k]? with
  | none => List.replicate m.slotb 0
  | some bs =>
    let b := if m.kind == 1 then natLe 8 bs.length ++ bs else bs
    b ++ List.replicate (m.slotb - b.length) 0

/-- A mailbox's region with its messages, oldest first from slot 0 (log entry 31). -/
def Mbx.bytes (m : Mbx) : List Byte :=
  let b := natLe 128 0 ++ m.ctrl ++ natLe 108 0 ++ (List.range m.nslot).flatMap m.slot
  b ++ List.replicate (m.size - b.length) 0

/-- A window's contents, mailboxes in place. -/
def State.winImage (s : State) (w : Window) : List Byte :=
  let lo := w.slice * 2 ^ 26 + w.base
  let n := w.kib * 1024
  (s.job.mbx.filter fun (m : Mbx) => lo ≤ m.head && m.head < lo + n).foldl
    (fun (bs : List Byte) (m : Mbx) => bs.take (m.head - lo) ++ m.bytes ++ bs.drop (m.head - lo + m.size)) (s.mm.slm.read lo n)

/-- The task queue entries of a context, 64 bytes each: record, CTXID, LN, capability, priority (log entry 30). -/
def State.taskImage (s : State) (ctx : Nat) : List Byte :=
  (s.job.tasks.filter fun (t : Nat × Task) => t.2.ctx == ctx).flatMap fun t =>
    (t.2.regs.flatMap fun w => bvLe w 4) ++ natLe 4 ctx ++ bvLe t.2.ln 4 ++ bvLe t.2.cap 8 ++ natLe 1 t.2.prio ++ natLe 15 0

/-- The SLM records: one per window, the first one with the context's queued tasks after its contents. -/
def State.slmRecs (s : State) (c : Ctx) : List Byte :=
  let ws := sortBy (fun (w : Window) => w.pos) c.win
  let one := fun (w : Window) (ts : List Byte) => recBytes 0x000B w.num (winBytes c w.pos ++ s.winImage w ++ ts)
  match ws with
  | [] => if (s.taskImage c.id).isEmpty then [] else recBytes 0x000B 0 (natLe 16 0 ++ s.taskImage c.id)
  | w :: ws => one w (s.taskImage c.id) ++ ws.flatMap fun x => one x []

/-- The owning sheaf and handle register of an operation (17/R393): those of its command; once it has ended and they have let
it go, others that hold it. -/
def State.holderOf (s : State) (ctx id : Nat) : Option (Nat × Nat) :=
  let own := (s.op? id).bind fun o => if o.live then (s.sheaf? o.sheaf).map fun h => (h.shid.toNat, o.hreg) else none
  own.or <| (sortBy (fun (h : Sheaf) => if some h.uid == (s.op? id).map (·.sheaf) then 0 else 1) (s.sheaves.filter fun h => h.ctx == ctx)).findSome?
    fun h => (h.h.findIdx? fun x => x == .op id).map fun k => (h.shid.toNat, k)

/-- The EXPORT records; a free slot keeps its GEN, with no owner (log entry 30). -/
def State.exportRecs (s : State) (c : Ctx) : List Byte :=
  (sortBy (fun (e : Export) => e.slot) c.exports).flatMap fun e =>
    let w := (e.op.bind (s.holderOf c.id)).getD (0xFFFFFFFF, 0xFFFFFFFF)
    recBytes 0x000C e.slot (natLe 8 e.gen.toNat ++ natLe 4 w.1 ++ natLe 4 w.2)

/-! ### The image -/

/-- The sheaves of a context in the order of their records: by launch, then by SHID. -/
def State.imageSheaves (s : State) (ctx : Nat) : List Sheaf :=
  sortBy (fun (h : Sheaf) => h.ln.toNat * 2 ^ 32 + h.shid.toNat) (s.sheaves.filter fun h => h.ctx == ctx && !h.seqr)

/-- The records of a context's image. -/
def State.imageBody (s : State) (c : Ctx) : List Byte :=
  let hs := s.imageSheaves c.id
  let mine := fun (uid : Nat) => hs.any fun h => h.uid == uid
  recBytes 1 c.id (ctxBytes c) ++
  ((sortBy (fun (g : Seg) => g.idx) (s.segs.filter fun g => g.owner == c.id && g.state != .free)).flatMap fun g =>
    recBytes 2 g.idx (segBytes g (s.refc g))) ++
  ((s.job.launches.filter fun (l : Launch) => l.ctx == c.id && !l.done).flatMap fun l => recBytes 3 l.ln.toNat (launchBytes l)) ++
  ((s.stk.stooks.filter fun (k : Stook) => k.ctx == c.id).flatMap fun k => recBytes 4 k.name.toNat (s.stookBytes k)) ++
  (hs.flatMap s.sheafGroup) ++
  (hs.flatMap fun h => recBytes 8 h.shid.toNat (Mem.read h.saved 0 h.scrBytes)) ++ (hs.flatMap Sheaf.tileRecs) ++
  ((s.stk.subs.filter fun (p : Sub) => mine p.subr).flatMap fun p =>
    recBytes 0x000A (((s.sheaf? p.subr).map (·.shid.toNat)).getD 0) (s.subBytes p)) ++
  s.slmRecs c ++ s.exportRecs c ++ recBytes 0x00FF 0 []

/-- The records of a body, by their lengths; none where the chain of lengths breaks. -/
def splitRecs : Nat → List Byte → Option (List (Nat × Nat × List Byte))
  | 0, bs => if bs.isEmpty then some [] else none
  | n + 1, bs =>
    if bs.isEmpty then some []
    else
      let len := natAt bs 4 4
      if len < 16 || len % 16 != 0 || bs.length < len || natAt bs 2 2 != 0 then none
      else (splitRecs n (bs.drop len)).map fun r => (natAt bs 0 2, natAt bs 8 8, (bs.take len).drop 16) :: r

/-- A context image (17/R393). -/
def State.imageOf (s : State) (c : Ctx) : List Byte :=
  let body := s.imageBody c
  let n := ((splitRecs body.length body).map List.length).getD 0
  [0x46, 0x53, 0x43, 0x58] ++ natLe 2 1 ++ natLe 2 0 ++ natLe 4 n ++ natLe 4 0 ++ natLe 8 (96 + body.length) ++
  natLe 8 s.ctl.time ++ sha512 body ++ body

/-- The part of a sheaf's lanes in a nest synchronisation, by LID. -/
def NestSync.partOf (n : NestSync) (uid : Nat) : NestSync :=
  let mine := fun (a : Nat) => a / 1024 == uid
  { n with
    arr := (n.arr.filter fun a => mine a.1).map fun a => (a.1 % 1024, a.2)
    got := (n.got.filter fun a => mine a.1).map fun a => (a.1 % 1024, a.2)
    nbcN := (n.nbcN.filter fun a => mine a.1).map fun a => (a.1 % 1024, a.2) }

/-- The export slots of the operations a sheaf's commands or handle registers hold, with the register (06/R184). -/
def State.exportsOf (s : State) (h : Sheaf) : List (Nat × Nat) :=
  ((((s.ctx? h.ctx).map (·.exports)).getD [])).filterMap fun (e : Export) => e.op.bind fun id =>
    let own := (s.op? id).bind fun o => if o.live && o.sheaf == h.uid then some o.hreg else none
    (own.or (h.h.findIdx? fun x => x == .op id)).map fun r => (e.slot, r)

/-- The launch numbers of some launches. -/
def State.lnsOf (s : State) (ids : List Nat) : List Word := ids.filterMap fun id => (s.launch? id).map (·.ln)

/-- What the stack region of a sheaf holds besides the image (17/R396). -/
def State.stackRegion (s : State) (h : Sheaf) : SavedStack :=
  { ctx := h.ctx, ln := h.ln, shid := h.shid, path := h.path, stack := h.stack, ret := h.trap.ret, llmTab := h.llmTab, lvf := h.lvf
    syncs := (s.stk.nests.filter fun (n : NestSync) => n.launch == h.launch && h.lanes.any fun l => l.key n.lv == some n.key).map
      fun n => n.partOf h.uid
    held := (h.h.zipIdx.filterMap fun p => match p.1 with
        | .op id => (s.op? id).map fun o => (p.2, o.seenBy.contains h.uid, o.rebase (h.scrAbs 0) h.scrBytes 0)
        | _ => none) ++
      ((s.eng.ops.filter fun (o : Op) => o.sheaf == h.uid && !h.h.contains (.op o.id)).map fun o =>
        (32, false, o.rebase (h.scrAbs 0) h.scrBytes 0))
    bars := (h.h.zipIdx.filterMap fun p => match p.1 with | .bar b => some (p.2, b) | _ => none) ++ (h.bar.map fun b => (32, b)).toList
    txbs := h.txbs, mq := h.mq, log := s.flt.log.filter fun (e : LogEntry) => e.uid == h.uid, raised := h.raised, nseq := h.nseq
    exps := s.exportsOf h, origins := s.lnsOf h.origins, taskN := ((s.launch? h.launch).map (·.taskN)).getD 0
    trapSeq := h.trap.seq }

/-- What the stack regions of a context's sheaves hold. -/
def State.stackRegions (s : State) (ctx : Nat) : List SavedStack := (s.imageSheaves ctx).map s.stackRegion

end Sys2Proof.Machine
end

