-- ==== Sys2Proof/Machine/Context.lean ====
section
/-! DEFINITION. Pre-emption: the stop of a sheaf, its resume and its move (17/R390 to R392, 08/R262, 09/R272 to R283,
10/R288), and SAFE (05/R111); page responses (17/R381). -/

namespace Sys2Proof.Machine

/-! ### The stop -/

/-- Whether the units written of an operation are the first ones of each transfer, so that its record can hold where it
rests (17/R391). -/
def State.atBoundary (s : State) (o : Op) (h : Sheaf) : Bool :=
  let first := fun (us ds : List Nat) => ds.all fun d => (us.take ds.length).contains d
  match o.kind with
  | .mcast => o.xfers.all fun x => first ((s.units o h).filter fun n => n / 2 ^ 60 == x.idx) (o.done.filter fun n => n / 2 ^ 60 == x.idx)
  | .bulk | .peer | .dec | .wnx | .mmst | .mmcv => first (s.units o h) o.done
  | .red => o.done.isEmpty
  | _ => true

/-- Whether an operation of a sheaf can come to rest now: no sector or lane is half written; DSCD, PREF, MMCL, NNZ and what a
cancelled operation still does complete first (17/R391, 06/R183; log entry 73). One that waits for a page rests where it is: a stop
waits on no fault that has not been serviced (08/R262). -/
def State.canRest (s : State) (o : Op) (h : Sheaf) : Bool :=
  !o.live || o.susp ||
  match o.kind with
  | .dscd | .pref | .mmcl | .nnz => false
  | _ => o.code != 2 && o.parts.isEmpty && s.atBoundary o h

/-- The units an operation that rests while it waits for a page keeps as written: those before the first gap of each transfer, so
that its record can hold where it rests (17/R391). The others are written again. -/
def State.restUnits (s : State) (o : Op) (h : Sheaf) : List Nat :=
  let first := fun (us : List Nat) => us.takeWhile fun n => o.done.contains n
  match o.kind with
  | .mcast => o.xfers.flatMap fun x => first ((s.units o h).filter fun n => n / 2 ^ 60 == x.idx)
  | .bulk | .peer | .dec | .wnx | .mmst | .mmcv => first (s.units o h)
  | _ => o.done

/-- The suspended operations of a sheaf before they rest. -/
def State.cutBack (s : State) (h : Sheaf) : State :=
  { s with eng := { s.eng with ops := s.eng.ops.map fun (o : Op) =>
      if o.sheaf == h.uid && o.live && o.susp then { o with parts := [], done := s.restUnits o h } else o } }

/-- Whether nothing of a sheaf is under way outside its queues: no request of it or to it, no arrival, no result, no nest wait it
has been let through, every operation ready to rest. -/
def State.settledAt (s : State) (h : Sheaf) : Bool :=
  !(s.requests.any fun (r : ChanReq) => r.uid == h.uid || r.holder == h.uid) && h.arr.isNone && h.late.isEmpty &&
  !s.letThrough h && (s.eng.ops.filter fun (o : Op) => o.sheaf == h.uid).all fun o => s.canRest o h

/-- Whether a marker waits for an operation of its sheaf that is suspended on a page. -/
def State.awaitsPage (s : State) (h : Sheaf) (e : MqEntry) : Bool :=
  match e with
  | .acqOf n _ => s.eng.ops.any fun (o : Op) => o.sheaf == h.uid && o.live && o.susp && o.seq + 1 == n
  | _ => false

/-- Whether a sheaf may stop: a release at device scope of every access but those in the operand log, which it does not wait for
(08/R262). What waits behind a logged access or a suspended operation is in the log too, and markers remain only behind one. A cause
still to be raised is raised first, at the boundary where the sheaf would stop. -/
def State.quietToStop (s : State) (h : Sheaf) : Bool :=
  (h.mq.all fun e => match e with | .acc a => a.stage.logged? | _ => true) &&
  (match h.mq.head? with | some (.acc _) | none => true | some e => s.awaitsPage h e) &&
  (h.run != .running || h.raised.all fun e => e.asleep h) &&
  s.releaseOk h [] h.nseq 4 && s.settledAt h

/-- Whether a sheaf may move within its cluster: its queues are empty, behind a release at cluster scope (08/R262). -/
def State.quietToMove (s : State) (h : Sheaf) : Bool := h.mq.isEmpty && s.releaseOk h [] h.nseq 3 && s.settledAt h

/-- An operation comes to rest: its pins and what it has read are released, but for the metadata of an MMSP (13/R318), whose path
is chosen again (17/R391). -/
def Op.rest (o : Op) : Op :=
  if !o.live then o
  else { o.replayed with resting := true, pins := [], comp := none }

/-- A subscription as its subscriber stops (09/R281). -/
def Sub.detach (p : Sub) : Sub :=
  let lost := (p.batches.flatMap fun b => b.bytes.map fun c => (c.1 - p.soff) / 32).filter fun k => !p.dirty.contains k
  { p with state := .detached, dirty := p.dirty ++ lost.dedup, batches := [] }

/-- Set HLD of a sheaf's member entry (09/R272). -/
def Stook.hold (k : Stook) (uid : Nat) (b : Bool) : Stook :=
  { k with members := k.members.map fun m => if m.uid == uid then { m with hld := b } else m }

/-- The sectors that the operations of a sheaf have written are counted as they come to rest (17/R391, 06/R177). -/
def State.countAll (s : State) (h : Sheaf) : State :=
  (s.eng.ops.filter fun (o : Op) => o.sheaf == h.uid && o.live).foldl (fun (t : State) (o : Op) => t.countOp o h false false) s

/-- Stop a sheaf with a STOP code, a safe point and the v registers that live on (17/R390 to R392). -/
def State.stopNow (s0 : State) (h : Sheaf) (code : Nat) (safe : Option Nat) (live : BitVec 128) : State :=
  let s := (s0.cutBack h).countAll h
  let a := h.scrAbs 0
  let bad := (s.mm.badScr.filter fun w => a ≤ w && w < a + h.scrBytes).map fun w => w - a
  let cells := (s.mm.scr.filter fun c => a ≤ c.1 && c.1 < a + h.scrBytes).map fun c => (c.1 - a, c.2)
  let h1 : Sheaf := { h.setPc h.unitPc with
    run := .stopped code safe, stop := none, chain := ⟨none, []⟩, fbuf := none, waiting := false, sleep := 0, timeL := none
    ofence := none, unfenced := [], safeV := live, saved := cells, savedBad := bad }
  let s1 : State := { s with
    eng := { s.eng with
      ops := s.eng.ops.map fun (o : Op) => if o.sheaf == h.uid then o.rest else o
      pats := s.eng.pats.filter fun (p : Pattern) => !(p.alloc == h.alloc.id && p.core == h.core) }
    stk := { s.stk with
      subs := s.stk.subs.map fun (p : Sub) => if p.subr == h.uid then p.detach else p
      stooks := s.stk.stooks.map fun (k : Stook) => k.hold h.uid true } }
  s1.putSheaf h1

/-- The STOP code of a sheaf that a request stops at once, if it is in such a place (17/R390). -/
def Sheaf.stopAtOnce (h : Sheaf) : Option Nat :=
  match h.run with
  | .parked _ _ => some 4
  | .halted => some 5
  | .draining => some 6
  | .running => if h.waiting then some 3 else none
  | _ => none

/-- Write bytes line by line at an address of a context, as far as its pages are there and writable. -/
def State.areaWrite (s : State) (ctx core uid : Nat) : Nat → Nat → List Byte → State
  | 0, _, _ => s
  | n + 1, va, bs =>
    if bs.isEmpty then s
    else
      let k := 128 - va % 128
      match s.homeOf ctx va .write with
      | (s1, .ok h) => State.areaWrite (s1.homeWrite ctx core uid h (va % 128) (bs.take k)).1 ctx core uid n (va + k) (bs.drop k)
      | (s1, _) => s1

/-- The records of a stopped sheaf, as the save area holds them. -/
def State.areaRecs (s : State) (h : Sheaf) : List Byte :=
  s.sheafGroup h ++ recBytes 8 h.shid.toNat (Mem.read h.saved 0 h.scrBytes) ++ h.tileRecs

/-- The sheaves that the arbiter or the tiller has stopped stand in the context save area, one after the other (17/R392; log
entry 30). -/
def State.saveArea (s : State) (h : Sheaf) : State :=
  match s.ctx? h.ctx with
  | none => s
  | some c =>
    if c.stopped then s
    else
      let bs := ((s.imageSheaves c.id).filter fun x => match x.run with | .stopped _ _ => true | _ => false).flatMap s.areaRecs
      s.areaWrite c.id h.core h.uid (bs.length / 128 + 2) c.csa bs

/-- Stop a sheaf and write it to the context save area. -/
def State.stopSaved (s : State) (h : Sheaf) (code : Nat) (safe : Option Nat) (live : BitVec 128) : State :=
  (s.stopNow h code safe live).saveArea h

/-- Stop a sheaf that is in its place for it, once its accesses are done with; until then they go on. -/
def State.tryStop (s : State) (uid code : Nat) (safe : Option Nat) (live : BitVec 128) : State :=
  match s.sheaf? uid with
  | none => s
  | some h =>
    if s.quietToStop h then s.stopSaved h code safe live
    else (s.sendBatches uid).modSheaf uid Sheaf.ungather

/-- Advance a pending request: the stop at once, or after PRETO, which passes with time, the stop at the boundary. -/
def State.advanceStop (s : State) (uid : Nat) : State :=
  match s.sheaf? uid with
  | none => s
  | some h =>
    match h.stop, h.stopAtOnce with
    | none, _ => s
    | some _, some code => s.tryStop uid code none (BitVec.allOnes 128)
    | some r, none =>
      if r.due && h.run == .running && h.chain.pc0.isNone then s.tryStop uid 2 none (BitVec.allOnes 128) else s

/-- Whether two sheaves are requested together: members of one launch-created stook, or of one COOP launch (17/R390). -/
def State.together (s : State) (a b : Sheaf) : Bool :=
  a.uid == b.uid ||
  (!a.task && !b.task && a.launch == b.launch &&
    ((((s.launch? a.launch).map Launch.coop).getD false) ||
      (a.stook.isSome && a.stook.map (·.1) == b.stook.map (·.1) && ((s.stookOf a).map (·.launched)).getD false)))

/-- The sheaves that a request naming some sheaves names. -/
def State.groupOf (s : State) (uids : List Nat) : List Nat :=
  (s.sheaves.filter fun h => uids.any fun u => ((s.sheaf? u).map fun x => s.together x h).getD false).map (·.uid)

/-- Whether a sheaf can be asked to stop. -/
def Sheaf.stoppable (h : Sheaf) : Bool := h.resident && h.stop.isNone && !h.seqr

/-- Send a request to some sheaves. -/
def State.request (s : State) (uids : List Nat) : State :=
  let preto := fun (h : Sheaf) => ((s.ctx? h.ctx).map Ctx.pretoCycles).getD 165000 * 1000
  let ask := fun (h : Sheaf) => if uids.contains h.uid && h.stoppable then { h with stop := some ⟨preto h, false⟩ } else h
  let t : State := { s with sheaves := s.sheaves.map ask }
  uids.foldl (fun (u : State) (x : Nat) => match (u.sheaf? x).bind Sheaf.stopAtOnce with
    | some _ => u.advanceStop x
    | none => u) t

/-- PREEMPT_REQUEST (17/R390). -/
def execPreemptRequest (uids : List Nat) (s : State) : Out := .next (s.request (s.groupOf uids))

/-- PRETO_EXPIRY (17/R390): also the stop of a sheaf that was asked and has come to a place to stop at once. -/
def execPretoExpiry (uid : Nat) (s : State) : Out := .next (s.advanceStop uid)

/-- The registers outside a safe point's live set are undefined after the stop (05/R111, 16/R351): free values in v, s and k, and
an h register that is not pending may be empty. -/
def Sheaf.killDead (h : Sheaf) (s : State) (r : SafeRec) : Sheaf :=
  let seed := s.ctl.free
  let vs := fun (l : Lane) => l.v.zipIdx.map fun p => if r.vlive.getLsbD p.2 then p.1 else freeWord (seed + 4096 + 128 * l.lid + p.2)
  let ks := fun (l : Lane) => (l.k &&& (r.klive ||| 1)) ||| (BitVec.ofNat 16 (freeWord (seed + 1024 + l.lid)).toNat &&& ~~~(r.klive ||| 1))
  { h with
    lanes := h.lanes.map fun l => if l.left then l else { l with v := vs l, k := ks l }
    s := h.s.zipIdx.map fun p => if p.2 == 0 || r.slive.getLsbD p.2 then p.1 else freeWord (seed + p.2)
    h := h.h.zipIdx.map fun p =>
      if r.hlive.getLsbD p.2 || s.hPending p.1 || !freeBit (seed + 512 + p.2) then p.1 else .empty }

/-- SAFE (05/R111, 17/R390): nothing, or the stop of a pending request with the live set of the entry. -/
def execSafe (imm : BitVec 21) (s : State) : Out :=
  issue (.safe imm) s fun h s =>
    match h.stop, (s.curSeg h).bind fun g => g.spt[imm.toNat]? with
    | some _, some r =>
      if s.quietToStop h then
        (s.draw (4096 + 128 * 1024)).stopSaved ((h.retire h.nextPc).killDead s r) 1 (some imm.toNat) r.vlive
      else s.hold h false
    | _, _ => s.done h

/-! ### The resume -/

/-- The running status of a resumed sheaf. -/
def resumedRun (code : Nat) : Run := match code with | 5 => .halted | 6 => .draining | _ => .running

/-- Index words of the tensor-table entries a command names (07). -/
def OpKind.indices (k : OpKind) (blk : List Word) : List Nat :=
  let i := fun (w : Word) (n : Nat) => (w.extractLsb' (8 * n) 8).toNat
  match k with
  | .bulk | .mcast | .dec | .mma | .mmaz | .mmsp => [i (par blk 0) 0, i (par blk 0) 1]
  | .red => if i (par blk 0) 1 == 0xFF then [i (par blk 0) 0] else [i (par blk 0) 0, i (par blk 0) 1]
  | .spcmp | .wnw | .nnz => [i (par blk 0) 0]
  | .wnx => [i (par blk 2) 0]
  | _ => []

/-- Read entries of a context's tensor table. -/
def State.readEntries (s : State) (c : Ctx) : List Nat → State × Option (List Entry)
  | [] => (s, some [])
  | n :: ns =>
    match s.globBytes c.id (c.tdbase + 32 * n) 32 with
    | (s1, some bs) =>
      match State.readEntries s1 c ns with
      | (s2, some es) => (s2, some (Entry.ofBits (BitVec.ofNat 256 (leNat bs)) :: es))
      | (s2, none) => (s2, none)
    | (s1, none) => (s1, none)

/-- What a DEC or NNZ of a stream reads, from its header, which lies where it did before the stop: the stream, and of a DEC the code
table it names (17/R378). -/
def State.streamRngs (s : State) (o : Op) (h : Sheaf) : List Rng :=
  let a := o.ent 0
  let hdr := o.header.getD (s.peek h a 16)
  let at_ := (runSide a.spc a.pmem a.base 0).at 0
  if o.kind == .dec then
    ⟨a.spc, at_, 16 + streamLen hdr⟩ :: if natAt hdr 3 1 == 1 then [] else [⟨0, (pairOf (par o.blk 1) (par o.blk 2)).toNat, 160⟩]
  else [⟨a.spc, at_, if natAt hdr 3 1 == 1 then 16 + 4096 * streamBytes (natAt hdr 2 1) else 16⟩]

/-- What an operation reads and writes, from its command, entries and scratch. -/
def State.rangesOf (s : State) (o : Op) (h : Sheaf) : List Rng × List Rng :=
  let k := fun i => (par o.blk i).toNat
  let w := Winnow.ofBytes (s.scrRead (h.scrAbs o.desc) 32)
  let src := s.needs o
  let run := o.lanes.filter fun c => !c.skip
  match o.kind with
  | .ls2g => (src, if xSpc o.xmem == 3 then [] else run.map fun c => ⟨0, c.g, o.laneBytes⟩)
  | .lg2s => (src, run.map fun c => ⟨1, c.o, o.laneBytes⟩)
  | .bulk => (src, copyDst (copySides (o.f 2) (o.ent 0) (o.ent 1) (par o.blk 1) (par o.blk 2)))
  | .mcast =>
    let q := copySides false (o.ent 0) (o.ent 1) (par o.blk 1) (par o.blk 2)
    (src, o.xfers.flatMap fun x => copyDst (q.1, { q.2.1 with sp := 2, mem := x.idx }, q.2.2))
  | .peer => (src, [(runSide 2 (k 3) (k 1) (k 2)).rowRng 0 (k 2)])
  | .dec => (s.streamRngs o h, [⟨1, (o.ent 1).base, streamOut (o.header.getD (s.peek h (o.ent 0) 16))⟩])
  | .nnz => (if (o.ent 0).lay == 2 then s.streamRngs o h else src, [])
  | .red => (src, if o.ents.length == 2 then
      let b := o.ent 1
      let g := grain b.fmt
      (b.side (par o.blk 2) g.1 g.2 b.trow b.tcol).rngs b.trow (b.tcol * g.2) else [])
  | .mmst => (src, tileRngs (k 0) (k 1) (64 * fmtBits (xTy o.xmod) / 8))
  | .mmcv => (src, tileRngs (k 0) (k 1) (64 * fmtBits (xTy o.xmod) / 8) ++
      if o.f 0 then (List.range 2).map fun b => ⟨1, k 2 + b * k 3, 64⟩ else (List.range 64).map fun r => ⟨1, k 2 + r * k 3, 2⟩)
  | .spcmp =>
    let n := ((par o.blk 3).extractLsb' 0 8).toNat
    let bs := fmtBits (o.ent 0).fmt / 8
    (src, [⟨1, k 2, if o.f 0 then 256 * n + 1024 * n * bs else 512 + 4096 * n / ((par o.blk 3).extractLsb' 8 8).toNat * bs⟩])
  | .wnw => (src, w.rngs o.desc (o.f 2))
  | .wnf => (src, w.rngs o.desc false)
  | .wnx =>
    let q := wnxSides (o.ent 0) (k 0)
    (src, (wnxRows (o.ent 0) (s.scrRead (h.scrAbs (k 1)) 256) (par o.blk 3)).map fun r => q.2.rowRng r.2 q.2.cols)
  | .dscd => (src, [⟨0, o.span.1, o.span.2⟩])
  | .pref => ([⟨0, o.span.1, o.span.2⟩], [])
  | _ => (src, [])

/-- The regions of a per-lane copy in slice memory. -/
def State.laneSlm (s : State) (o : Op) : List (Nat × Nat × Nat) :=
  if (o.kind == .lg2s || o.kind == .ls2g) && xSpc o.xmem == 3 then
    (o.lanes.filter fun c => !c.skip).map fun c => (2, (s.slmPos o.ctx c.g o.laneBytes).getD 0, o.laneBytes)
  else []

/-- An operation with the regions it reads and writes and the transaction barriers it names where they lie now. -/
def State.regionsOf (s : State) (o : Op) (h : Sheaf) (txbs : List Nat) : Op :=
  let r := s.rangesOf o h
  let slm := s.laneSlm o
  { o with
    srcR := r.1.flatMap (s.regionOf h) ++ (if o.kind == .lg2s then slm else [])
    dstR := r.2.flatMap (s.regionOf h) ++ (if o.kind == .ls2g then slm else []), txbs := txbs }

/-- The transaction barriers of an operation's command, by absolute address. -/
def State.txbsOf (s : State) (o : Op) (h : Sheaf) : List Nat :=
  let own := fun (on : Bool) (w : Word) => h.ownTxb on w
  match o.kind with
  | .bulk => own (o.f 0 && (o.ent 1).spc != 2) (par o.blk 3)
  | .lg2s | .ls2g => own (o.f 2) (par o.blk 3)
  | .dec => own (o.f 0) (par o.blk 3)
  | .red => own (o.f 2 && o.ents.length == 2) (par o.blk 4)
  | .wnx => own (o.f 0 && (o.ent 0).spc != 2) (par o.blk 4)
  | .wnw => (Winnow.ofBytes (s.scrRead (h.scrAbs (par o.blk 5).toNat) 32)).txbs h
  | .wnf => (Winnow.ofBytes (s.scrRead (h.scrAbs (par o.blk 0).toNat) 32)).txbs h
  | _ => []

/-- The units an operation read from an image had written: the first PROG ones of each transfer. -/
def State.unitsDone (s : State) (o : Op) (h : Sheaf) : List Nat :=
  match o.kind with
  | .mcast => o.xfers.flatMap fun x =>
      ((s.units o h).filter fun n => n / 2 ^ 60 == x.idx).take (o.done.filter fun n => n / 2 ^ 60 == x.idx).length
  | .dec => (List.range o.rp).map fun k => (o.ent 1).base / 32 + k
  | .wnx =>
    let m : Rng := ⟨1, (par o.blk 1).toNat, 256⟩
    (s.units { o with cap := [(m.key, s.scrRead (h.scrAbs m.a) 256)] } h).take o.rp
  | .lg2s | .ls2g => o.done
  | .mmst | .mmcv => List.range o.rp
  | .bulk | .peer => (s.units o h).take o.rp
  | _ => []

/-- Whether an operation's `rp` is its own row progress, and no count of units. -/
def OpKind.rows : OpKind → Bool
  | .mma | .mmaz | .mmld | .mmsp | .mmcl | .spcmp | .wnw | .wnf | .red => true
  | _ => false

/-- An operation read from a context image takes its entries and ranges again; one whose entries cannot be read fails. -/
def State.rebuildOp (s : State) (o : Op) (h : Sheaf) : State × Op :=
  match s.ctx? o.ctx with
  | none => (s, o)
  | some c =>
    match s.readEntries c (o.kind.indices o.blk) with
    | (s1, none) => (s1, { o.fail 5 6 (BitVec.ofNat 64 c.tdbase) with raw := false })
    | (s1, some es) =>
      let o1 := s1.regionsOf { o with ents := es } h (s1.txbsOf { o with ents := es } h)
      let done := s1.unitsDone o1 h
      (s1, { o1 with raw := false, done := done, counted := (done ++ o1.counted).dedup, rp := if o.kind.rows then o.rp else 0 })

/-- The global ranges of an operation as pinning takes them. -/
def Op.globRngs (o : Op) : List (Rng × Bool) :=
  (o.srcR.filter fun r => r.1 == 0).map (fun r => ((⟨0, r.2.1, r.2.2⟩ : Rng), false)) ++
  (o.dstR.filter fun r => r.1 == 0).map fun r => ((⟨0, r.2.1, r.2.2⟩ : Rng), true)

/-- An operation translates and pins its pages again: a page it may not use fails it, one that is missing or the host's suspends
it, and so does a page-lock table without room; PREF leaves such pages out, DSCD those that are missing (07/R202, R203; 10/R288,
R289; 17/R378). -/
def State.repin (s : State) (o : Op) (h : Sheaf) : State :=
  let p := (s.modOp o.id fun x => { x with pins := [] }).pinAll h o.globRngs
  let bad := if o.kind == .pref then [] else p.2.denied
  let gone := match o.kind with | .pref => [] | .dscd => p.2.host | _ => p.2.missing ++ p.2.host
  let full := if p.1.canPin (dieOf h.core) p.2.pins then [] else p.2.pins.map fun q => q.page * 65536
  let s1 := p.1.modOp o.id fun x => { x with pins := if full.isEmpty then p.2.pins else [], susp := false, idle := 0 }
  match bad, gone ++ full with
  | a :: _, _ => s1.failOp o.id 5 6 (BitVec.ofNat 64 a)
  | [], a :: _ => s1.suspend o a
  | [], [] => s1

/-- An operation of a sheaf that has been placed re-enters its engine (17/R391), on the sheaf's core, its addresses resolved again;
the regions of one that has ended stand until it is observed (06/R169). PCOMP resumes DONE (10/R303); a fenced engine takes no
command (10/R291). `a` is where the allotment lay. -/
def State.reenter (s : State) (h : Sheaf) (a : Nat) (o : Op) : State :=
  let at_ : Op := { o with core := h.core, txbs := o.txbs.map (rebase a h.scrBytes (h.scrAbs 0)), stale := rebaseCells a h.scrBytes (h.scrAbs 0) o.stale }
  if !o.live then (if o.seenBy.contains h.uid then s else s.modOp o.id fun _ => s.regionsOf at_ h at_.txbs)
  else if o.kind == .pcomp then s.modOp o.id fun _ => { at_ with status := some 0, resting := false, raw := false }
  else
    let r := if o.raw then s.rebuildOp at_ h else (s, s.regionsOf at_ h at_.txbs)
    let o1 : Op := { r.2 with resting := false }
    let s1 := r.1.modOp o.id fun _ => o1
    if o.kind.isMatrix && s.eng.fenced.contains h.core then s1.endOp o1 h 6 0 [] else s1.repin o1 h

/-- Whether a core's engines have room for the operations a sheaf brings back (10/R284, R288). -/
def State.takesOps (s : State) (core uid : Nat) : Bool :=
  let here := fun (f : OpKind → Bool) => ((s.eng.ops.filter fun (o : Op) =>
    o.live && f o.kind && (o.sheaf == uid || (!o.resting && o.core == core)))).length
  decide (here OpKind.isMatrix ≤ 32) && decide (here OpKind.isBulk ≤ 256)

/-- A subscription whose subscriber has been placed (09/R282). -/
def Sub.attach (p : Sub) : Sub :=
  if p.state == .detached then { p with state := if p.dirty.isEmpty then .live else .resync } else p

/-- A pending barrier handle or BAR record as its sheaf resumes: any difference between the word's PH and its own makes it DONE;
after 16 phases or more its state is undefined (06/R173). -/
def State.recheck (s : State) (b : BarHandle) : BarHandle :=
  if b.code != 1 then b
  else
    let b0 := { b with passed := 0 }
    if 16 ≤ b.passed then { b0 with code := bitNat (freeBit (s.ctl.free + b.off)), ph := (freeByte (s.ctl.free + b.off + 1)).toNat % 16 }
    else if b.passed != 0 then { b0 with code := 0 }
    else match s.sheaf? b.holder with
      | none => { b0 with code := 4 }
      | some x => if barPh (BitVec.ofNat 64 (leNat (s.allotRead x b.off 8))) != b.ph then { b0 with code := 0 } else b0

/-- The check of a resume (04/R98): the PC of a path that may not be entered is cause 0x0B. The rule states no TRAPI and no TRAPA:
they are free values (log entry 7). -/
def State.resumeCheck (s : State) (uid code : Nat) : State :=
  match s.sheaf? uid with
  | none => s
  | some h =>
    if code < 5 && h.path.any fun p => !s.checkReturn h.ctx p.pc then
      (s.draw 2).raise h (freeWord s.ctl.free) [(0x0B, Config.freeValue (s.ctl.free + 1))]
    else s

/-- What follows the placement of a saved sheaf: status, barrier records, the acquire of the resume behind what the operand log
holds (08/R262), member entry, subscriptions, operations, the check of its PC. Log entries that wait for a page try again. `a` is where its allotment lay. -/
def State.afterPlace (s : State) (uid code a : Nat) : State :=
  match s.sheaf? uid with
  | none => s
  | some h =>
    let h1 : Sheaf := (({ h with run := resumedRun code } : Sheaf).mapBars s.recheck)
    let h2 : Sheaf := if h1.mq.isEmpty then h1 else { h1 with mq := h1.mq ++ [.acqFence h1.nseq 5], nseq := h1.nseq + 1 }
    let s1 := (s.draw 524288).putSheaf h2
    let moved := fun (k : Stook) =>
      if k.members.any (fun m => m.uid == uid) then { (k.hold uid false) with cluster := clusterOf h.core } else k
    let s2 : State := { s1 with
      stk := { s1.stk with
        subs := s1.stk.subs.map fun (p : Sub) => if p.subr == uid then p.attach else p
        stooks := s1.stk.stooks.map moved }
      flt := { s1.flt with log := s1.flt.log.map fun e => if e.uid == uid then { e with core := h.core, state := if e.state == 1 then 2 else e.state } else e } }
    ((s2.eng.ops.filter fun (o : Op) => o.sheaf == uid).foldl (fun (t : State) (o : Op) => t.reenter h2 a o) s2).resumeCheck uid code

/-- Resume one stopped sheaf on a core, if it can be placed there (14/R340, 17/R398). -/
def State.resumeOn (s : State) (uid core : Nat) : Option State :=
  match s.sheaf? uid with
  | none => none
  | some h =>
    match h.run with
    | .stopped code _ =>
      let fixed := match s.stookOf h with
        | some k => (k.members.any fun m => s.isResident m.uid) && k.cluster != clusterOf core
        | none => false
      let full := match s.stookOf h with
        | some k => k.cluster != clusterOf core &&
            decide (256 ≤ (s.stk.stooks.filter fun (x : Stook) => x.cluster == clusterOf core).length)
        | none => false
      if fixed || full || !s.takesOps core uid || !s.fitsOn core (s.footprint h) || !s.clusterOpen (clusterOf core) h.ctx h.admitFused then none
      else some ((s.placeOn h core).afterPlace uid code (h.scrAbs 0))
    | _ => none

/-- Resume a list of sheaves, each on the first fitting core of a list of cores. -/
def State.resumeAll (s : State) (cores : List Nat) : List Nat → Option State
  | [] => some s
  | u :: us => match cores.findSome? fun c => s.resumeOn u c with
    | some t => State.resumeAll t cores us
    | none => none

/-- Whether a sheaf of a context image has others of its launch before it: such sheaves resume in SHID order (17/R398). -/
def State.queuedBehind (s : State) (h : Sheaf) (all : List Nat) : Bool :=
  h.queued && s.sheaves.any fun x => x.queued && x.ctx == h.ctx && x.launch == h.launch && decide (x.shid < h.shid) && !all.contains x.uid

/-- Whether a sheaf whose core is out of service may resume on a core: one of its cluster while any of those fits (20/R429). -/
def State.resumesAt (s : State) (h : Sheaf) (core : Nat) : Bool :=
  h.queued || !s.partDown 1 h.core || clusterOf core == clusterOf h.core ||
  !(List.range 48).any fun k => s.fitsOn (clusterOf h.core * 48 + k) (s.footprint h)

/-- SHEAF_RESUME (08/R262, 17/R398): a saved sheaf is placed on the core; what was stopped together resumes together, in
the core's cluster first (14/R341). -/
def execSheafResume (uid core : Nat) (s : State) : Out :=
  .next (match s.sheaf? uid with
    | none => s
    | some h =>
      let all := s.groupOf [uid]
      let ready := all.all fun u => match s.sheaf? u with | some x => (match x.run with | .stopped _ _ => true | _ => false) | none => true
      match s.ctx? h.ctx with
      | none => s
      | some c =>
        if c.stopped || !ready || s.queuedBehind h all || !s.resumesAt h core || !s.budgets c all.length || nCores ≤ core then s
        else
          let near := (List.range 48).map fun k => clusterOf core * 48 + k
          ((s.resumeOn uid core).bind fun t =>
            t.resumeAll (near ++ (List.range nCores).filter fun k => clusterOf k != clusterOf core) (all.filter fun u => u != uid)).getD s)

/-- SHEAF_MIGRATE (08/R262, 09/R272, R283): between cores of a cluster, at an instruction boundary, behind a release at
cluster scope; every batch of the sheaf's subscriptions has been acknowledged. -/
def execSheafMigrate (uid core : Nat) (s : State) : Out :=
  .next (match s.sheaf? uid with
    | none => s
    | some h =>
      let flowing := s.stk.subs.any fun (p : Sub) => (p.subr == uid || p.pubr == uid) && !p.batches.isEmpty
      if h.run == .running && h.chain.pc0.isNone && !h.seqr && core != h.core && clusterOf core == clusterOf h.core && !flowing &&
          s.quietToMove h && s.takesOps core uid && s.fitsOn core (s.footprint h) then
        let subs := s.stk.subs
        let t := s.stopNow { h with stop := none } 2 none (BitVec.allOnes 128)
        match t.sheaf? uid with
        | none => s
        | some x =>
          let u := ({ t with stk := { t.stk with subs := subs } } : State)
          ((u.placeOn x core).afterPlace uid 2 (h.scrAbs 0)).modSheaf uid fun y => { y with stop := h.stop }
      else s)

/-! ### Page responses (17/R381) -/

/-- Whether a sheaf is parked on a requested page. -/
def Sheaf.parkedOn (h : Sheaf) (r : PageReq) : Option (Nat × Option Word) :=
  match h.run with
  | .parked va w => if r.who == .core h.core && r.ctx == h.ctx && va / 65536 == r.page then some (va, w) else none
  | _ => none

/-- Whether a log entry waits for a requested page. -/
def State.waitsFor (s : State) (e : LogEntry) (r : PageReq) : Bool :=
  e.state == 1 && r.who == .core e.core && e.page == r.page && ((s.sheaf? e.uid).map (·.ctx)).getD 0 == r.ctx

/-- Remove a page request and set the state of the entries that wait for it. -/
def State.answer (s : State) (r : PageReq) (state : Nat) : State :=
  { s with flt := { s.flt with
      reqs := s.flt.reqs.filter fun x => x != r
      log := s.flt.log.map fun e => if s.waitsFor e r then { e with state := state } else e } }

/-- Whether an operation that waits for a page waits for the requested one (10/R288, R289). -/
def Op.waitsFor (o : Op) (r : PageReq) : Bool :=
  o.live && o.susp && !o.resting && r.who == .core o.core && r.ctx == o.ctx && o.fva / 65536 == r.page

/-- Change the operations that wait for a page. -/
def State.answerOps (s : State) (r : PageReq) (f : Op → Op) : State :=
  { s with eng := { s.eng with ops := s.eng.ops.map fun o => if o.waitsFor r then f o else o } }

/-- A suspended operation translates and pins its pages again and goes on, or waits for the next one (10/R289). -/
def State.resumeOp (s : State) (o : Op) : State :=
  match s.sheaf? o.sheaf with
  | some h => s.repin o h
  | none => s

/-- PAGE_RESPONSE_SUCCESS: parked sheaves go on, entries may replay, suspended operations go on (17/R381, R382; 10/R289). -/
def execPageResponseSuccess (r : PageReq) (s : State) : Out :=
  .next (if s.flt.reqs.contains r then
      let s0 := s.answer r 2
      let s1 := (s0.eng.ops.filter fun (o : Op) => o.waitsFor r).foldl (fun (t : State) (o : Op) => t.resumeOp o) s0
      { s1 with sheaves := s1.sheaves.map fun h => if (h.parkedOn r).isSome then { h with run := .running } else h }
    else s)

/-- A parked sheaf takes the trap of a refused page: 0x05 for a fetch, 0x06 for an engine command (17/R381, 07/R190). -/
def State.refusePark (s : State) (h : Sheaf) (va : Nat) (command : Option Word) : State :=
  let h1 : Sheaf := { h with run := .running }
  match command with
  | none => s.fetchTrap h1 5 (BitVec.ofNat 64 va)
  | some w => s.raise h1 w [(6, BitVec.ofNat 64 va)]

/-- PAGE_RESPONSE_INVALID_REQUEST: the fault becomes a trap, a suspended operation fails, a refusal to an arbiter is kept
for it (17/R381, R382; 07/R190; 10/R289; 14/R323). -/
def execPageResponseInvalidRequest (r : PageReq) (s : State) : Out :=
  .next (if s.flt.reqs.contains r then
      let s1 := (s.answer r 3).answerOps r fun o => { o.fail 5 6 (BitVec.ofNat 64 o.fva) with susp := false }
      let s2 := match r.who with
        | .arbiter _ => { s1 with flt := { s1.flt with refused := s1.flt.refused ++ [r] } }
        | .core _ => s1
      s1.sheaves.foldl (fun (t : State) (h : Sheaf) => match h.parkedOn r with
        | some (va, w) => t.refusePark h va w
        | none => t) s2
    else s)

end Sys2Proof.Machine
end

