-- ==== Sys2Proof/Machine/SysCmd.lean ====
section
/-! DEFINITION. System commands (17/R379, R380, R387, R392, R399, R400): what each does when the device takes it from the
command port, and the work that its completion waits for. Completions are in Command.lean. -/

namespace Sys2Proof.Machine

/-! ### Taking a command -/

/-- The fields of a command message. -/
def cmdOf (bs : List Byte) : Cmd :=
  ⟨BitVec.ofNat 32 (natAt bs 4 4), BitVec.ofNat 64 (natAt bs 8 8), BitVec.ofNat 64 (natAt bs 16 8), BitVec.ofNat 64 (natAt bs 24 8)⟩

/-- Take a command of an operation code from the head of the command port and start it. -/
def State.takeCmd (s : State) (op : Nat) (c : Cmd) (k : CmdRun → State → State) : State :=
  match s.cmdPort with
  | none => s
  | some m =>
    match m.msgs with
    | [] => s
    | bs :: rest =>
      if natAt bs 0 1 == op && cmdOf bs == c then
        let r : CmdRun := ⟨s.ctl.nextId, op, c, 0, 0, 0⟩
        let s1 := (s.modMbx m.head fun x => { x with msgs := rest }).fresh 1
        k r { s1 with sys := { s1.sys with cmds := s1.sys.cmds ++ [r] } }
      else s

/-- Change a command in progress. -/
def State.modCmd (s : State) (id : Nat) (f : CmdRun → CmdRun) : State :=
  { s with sys := { s.sys with cmds := s.sys.cmds.map fun r => if r.id == id then f r else r } }

/-- Give a command its status. -/
def State.cmdStatus (s : State) (r : CmdRun) (code : Word) : State := s.modCmd r.id fun x => { x with status := code }

/-- A command for a context that does not exist: the spec states no status, so it is a free value (log entry 43). -/
def State.noCtx (s : State) (r : CmdRun) : State := (s.draw 1).cmdStatus r (freeWord s.ctl.free)

/-- The context of a command. -/
def ctxIdOf (c : Cmd) : Nat := c.ctx.toNat

/-! ### Shootdown (17/R379) -/

/-- The range of a SHOOT: first address and length; 0 is the whole ASID. -/
def shootRange (c : Cmd) : Nat × Nat := (c.a.toNat, (c.b.extractLsb' 0 63).toNat)

/-- Whether a shootdown of a range reaches bytes. -/
def inShoot (va len a n : Nat) : Bool := len == 0 || meets va len a n

/-- The pool bytes of a bad sector are undefined once the mark is cleared (20/R423). -/
def State.spoilSectors (s : State) (h : Home) : State :=
  (List.range 4).foldl (fun (t : State) (k : Nat) =>
    if h.badAt (32 * k) 32 then (t.draw 32).backWrite h.hm (h.pa + 32 * k) (freeBytes t.ctl.free 32) else t) s

/-- Write back and drop the lines that a predicate selects, with every copy of theirs; answers the largest LEMAX. -/
def State.flushLines (s : State) (f : Home → Bool) : State × Nat :=
  let hs := s.mm.homes.filter f
  let s1 := hs.foldl (fun (t : State) (h : Home) => (t.writeBack h).spoilSectors h) s
  let gone := fun (asid line : Nat) => hs.any fun (h : Home) => h.asid == asid && h.line == line
  ({ s1 with mm := { s1.mm with
      homes := s1.mm.homes.filter fun (h : Home) => !gone h.asid h.line
      l1 := s1.mm.l1.filter fun c => !gone c.asid c.line } }, (hs.map fun h => h.lemax).foldl max 0)

/-- Whether a pin is of a page of a range of an ASID. -/
def Pin.within (p : Pin) (asid va len : Nat) : Bool := p.asid == asid && inShoot va len (p.page * 65536) 65536

/-- Whether an operation pins a page of a range of an ASID. -/
def Op.pinsIn (o : Op) (asid va len : Nat) : Bool := o.live && o.pins.any fun p => p.within asid va len

/-- The operations of a forced shootdown finish their row, set SUSP and give up their pins (10/R289). -/
def Op.forceOff (o : Op) (asid va len : Nat) : Op :=
  if o.pinsIn asid va len then { o with susp := true, pins := o.pins.filter fun p => !p.within asid va len } else o

/-- Perform a shootdown, unless a pin makes an ordinary one wait: translations, lines and copies of the range go. Suspended
operations then translate again. Answers the reading from which no lease is left. -/
def State.shootNow (s : State) (c : Cmd) : Option (State × Nat) :=
  let asid := s.asidOf (ctxIdOf c)
  let r := shootRange c
  let pinned := s.eng.ops.filter fun (o : Op) => o.pinsIn asid r.1 r.2
  if !pinned.isEmpty && !c.b.getLsbD 63 then none
  else
    let s1 : State := { s with
      eng := { s.eng with ops := s.eng.ops.map fun (o : Op) => o.forceOff asid r.1 r.2 }
      mm := { s.mm with
        tlb := s.mm.tlb.filter fun t => !(t.asid == asid && inShoot r.1 r.2 (t.page * 65536) (t.n * 65536))
        l1 := s.mm.l1.filter fun x => !(x.asid == asid && inShoot r.1 r.2 (x.line * 128) 128) } }
    let f := s1.flushLines fun h => h.asid == asid && inShoot r.1 r.2 (h.line * 128) 128
    let s2 := pinned.foldl (fun (t : State) (o : Op) => match t.op? o.id, t.sheaf? o.sheaf with
      | some p, some h => if p.resting then t else t.repin p h
      | _, _ => t) f.1
    some (s2, f.2 + 4)

/-- Carry a SHOOT on: `until_` is 0 until it has been performed. -/
def State.shootStep (s : State) (r : CmdRun) : State :=
  if r.until_ != 0 then s
  else match s.shootNow r.cmd with
    | none => s
    | some (t, u) => t.modCmd r.id fun x => { x with until_ := u }

/-- SHOOT (17/R379). -/
def execShoot (c : Cmd) (s : State) : Out :=
  .next (s.takeCmd 1 c fun r s => if (s.ctx? (ctxIdOf c)).isNone then s.noCtx r else s.shootStep r)

/-! ### CTXSAVE (17/R392) -/

/-- The sheaves of a context. -/
def State.sheavesIn (s : State) (ctx : Nat) : List Sheaf := s.sheaves.filter fun h => h.ctx == ctx && !h.seqr

/-- A sheaf that was admitted and not yet placed stops where it is. -/
def Sheaf.stopWaiting (h : Sheaf) (ctx : Nat) : Sheaf :=
  if h.ctx == ctx && h.run == .waiting then { h with run := .stopped 2 none, safeV := BitVec.allOnes 128 } else h

/-- CTXSAVE: no launch of the context starts another sheaf, and every sheaf is asked to stop. -/
def execCtxsave (c : Cmd) (s : State) : Out :=
  .next (s.takeCmd 2 c fun r s =>
    match s.ctx? (ctxIdOf c) with
    | none => s.noCtx r
    | some x =>
      let waiting := (s.sheavesIn x.id).filter fun h => h.run == .waiting
      let s1 := s.modCtx x.id fun y => { y with stopped := true }
      let s2 : State := { s1 with
        sheaves := s1.sheaves.map fun h => h.stopWaiting x.id
        stk := { s1.stk with stooks := s1.stk.stooks.map fun (k : Stook) => waiting.foldl (fun (q : Stook) (h : Sheaf) => q.hold h.uid true) k } }
      s2.request ((s2.sheavesIn x.id).map fun h => h.uid))

/-- Whether everything of a context is at rest: sheaves stopped, no operation running, every write complete at the pool, those of its
launches' completions too. -/
def State.atRest (s : State) (ctx : Nat) : Bool :=
  let hs := s.sheavesIn ctx
  hs.all (fun h => match h.run with | .stopped _ _ => true | _ => false) &&
  !(s.eng.ops.any fun (o : Op) => o.ctx == ctx && o.live && !o.resting) &&
  !(s.mm.homes.any fun (x : Home) => x.owed.any fun u =>
    (u == 0 && (x.asid == s.asidOf ctx || x.asid == 0)) || hs.any fun h => h.uid == u)

/-- Write the image: into the buffer, or answer the length it needs. What the stack regions hold besides, and the launches behind the
queued tasks, the device keeps (17/R396; log entry 37). -/
def State.saveImage (s : State) (r : CmdRun) (c : Ctx) : State :=
  let im := s.imageOf c
  if r.cmd.b.toNat < im.length then
    s.modCmd r.id fun x => { x with status := 2, detail := BitVec.ofNat 64 im.length }
  else
    let s2 := (s.backWrite false r.cmd.a.toNat im).modCtx c.id fun x => { x with wrote := [] }
    let keep := s2.sys.regions.filter fun (x : SavedStack) => x.ctx != c.id
    let tasks := (s.job.tasks.filter fun (t : Nat × Task) => t.2.ctx == c.id).map fun t => s.lnsOf t.2.froms
    { s2 with sys := { s2.sys with
        regions := s.stackRegions c.id ++ keep
        queued := (c.id, tasks) :: s2.sys.queued.filter fun (q : Nat × List (List Word)) => q.1 != c.id } }

/-! ### SHEND (17/R387) -/

/-- A halted sheaf drains as though its remaining lanes had exited. -/
def Sheaf.drainHalted (h : Sheaf) : Sheaf :=
  let run := match h.run with | .stopped _ i => Run.stopped 6 i | _ => .draining
  { h with run := run, path := none, stack := [], lanes := h.lanes.map fun l => { l with left := true } }

/-- Whether a sheaf is halted. -/
def Sheaf.isHalted (h : Sheaf) : Bool := match h.run with | .halted => true | .stopped c _ => c == 5 | _ => false

/-- SHEND: `until_` names the sheaf it waits for. -/
def execShend (c : Cmd) (s : State) : Out :=
  .next (s.takeCmd 4 c fun r s =>
    match s.sheaves.find? fun h => h.ctx == (ctxIdOf c) && h.shid == lo32 c.a && h.isHalted with
    | none => s.cmdStatus r 1
    | some h => (s.putSheaf h.drainHalted).modCmd r.id fun x => { x with until_ := h.uid })

/-! ### Dirty pages (17/R399, R400) -/

/-- DIRTSET: logging of the context's function on or off, no page logged yet. -/
def execDirtset (c : Cmd) (s : State) : Out :=
  .next (s.takeCmd 5 c fun r s =>
    match s.ctx? (ctxIdOf c) with
    | none => s.noCtx r
    | some x =>
      let rest := s.sys.logs.filter fun (l : DirtyLog) => l.vf != x.vf
      let mine := fun (h : Home) => s.ctxs.any fun y => y.live && y.vf == x.vf && (y.asid == h.asid || h.asid == 0)
      let clean := fun (h : Home) => if mine h then { h with logged := false } else h
      { s with
        sys := { s.sys with logs := if c.b == 0 then rest else rest ++ [⟨x.vf, c.a.toNat, c.b.toNat⟩] }
        mm := { s.mm with homes := s.mm.homes.map clean } })

/-- The PA of a page of a function's capacity, counted over its extents in order. -/
def pagePa : List Extent → Nat → Option Nat
  | [], _ => none
  | e :: l, i => if i < e.len / 65536 then some (e.base + i * 65536) else pagePa l (i - e.len / 65536)

/-- One page's step of DIRTCLR: page `i` of the capacity, the `k`-th of the range. -/
def State.clearPage (s : State) (l : DirtyLog) (result i k : Nat) : State :=
  match pagePa (s.extentsOf l.vf) i with
  | none => s
  | some pa =>
    let here := fun (h : Home) => !h.hm && pa ≤ h.pa && h.pa < pa + 65536
    let s1 := (s.mm.homes.filter here).foldl (fun (t : State) (h : Home) => t.writeBack h) s
    let mark := fun (h : Home) => if here h then { h with logged := false } else h
    let s2 : State := { s1 with mm := { s1.mm with homes := s1.mm.homes.map mark } }
    let b := s2.mm.pool.get (l.bitmap + i / 8)
    let set := if i < l.len then b.getLsbD (i % 8) else false
    let q := s2.mm.pool.get (result + k / 8)
    let q1 : Byte := if set then q ||| ((1 : Byte) <<< (k % 8)) else q &&& ~~~((1 : Byte) <<< (k % 8))
    let s3 := s2.backWrite false (result + k / 8) [q1]
    if i < l.len then s3.backWrite false (l.bitmap + i / 8) [s3.mm.pool.get (l.bitmap + i / 8) &&& ~~~((1 : Byte) <<< (i % 8))] else s3

/-- DIRTCLR: its pages are stepped by its completion, `until_` counts them. -/
def execDirtclr (c : Cmd) (s : State) : Out :=
  .next (s.takeCmd 6 c fun r s => if (s.ctx? (ctxIdOf c)).isNone then s.noCtx r else s)

/-- The next page of a DIRTCLR (17/R400): operand A is a byte offset in the capacity (log entry 44). -/
def State.dirtStep (s : State) (r : CmdRun) : State :=
  match (s.ctx? (ctxIdOf r.cmd)).bind fun x => s.sys.logs.find? fun l => l.vf == x.vf with
  | none => s.modCmd r.id fun x => { x with until_ := r.until_ + 1 }
  | some l => (s.clearPage l (r.cmd.b.extractLsb' 32 32).toNat (r.cmd.a.toNat / 65536 + r.until_) r.until_).modCmd r.id
      fun x => { x with until_ := r.until_ + 1 }

/-! ### Mailboxes (17/R380) -/

/-- Slot bytes of a mailbox kind (14/R320). -/
def slotBytes (kind : Nat) : Nat := match kind with | 2 => 128 | 3 => 64 | 4 => 64 | 5 => 32 | _ => 136

/-- MBXMAKE. -/
def execMbxmake (c : Cmd) (s : State) : Out :=
  .next (s.takeCmd 7 c fun r s =>
    let kind := (c.b.extractLsb' 0 8).toNat
    let n := (c.b.extractLsb' 8 16).toNat
    let nslot := if n == 0 then 65536 else n
    let m : Mbx := ⟨0, kind, nslot, slotBytes kind, (ctxIdOf c), []⟩
    match s.slmPos (ctxIdOf c) c.a.toNat m.size with
    | none => s.cmdStatus r 1
    | some p =>
      if c.a.toNat % 128 != 0 || s.job.mbx.any (fun (x : Mbx) => meets x.head x.size p m.size) then s.cmdStatus r 1
      else if kind == 0 || 3 < kind || (kind == 2 && nslot != 64) then s.cmdStatus r 2
      else { s with job := { s.job with mbx := s.job.mbx ++ [{ m with head := p }] } })

/-- MBXFREE: the region is plain slice memory again, with contents the spec does not state (log entry 31). -/
def execMbxfree (c : Cmd) (s : State) : Out :=
  .next (s.takeCmd 8 c fun r s =>
    match (s.slmPos (ctxIdOf c) c.a.toNat 1).bind s.mbx? with
    | some m =>
      if m.ctx == (ctxIdOf c) then
        { s.draw m.size with
          job := { s.job with mbx := s.job.mbx.filter fun (x : Mbx) => x.head != m.head }
          mm := { s.mm with slm := s.mm.slm.write m.head (freeBytes s.ctl.free m.size) } }
      else s.cmdStatus r 1
    | none => s.cmdStatus r 1)

end Sys2Proof.Machine
end

