-- ==== Sys2Proof/Machine/Restore.lean ====
section
/-! DEFINITION. CTXLOAD (17/R398): the check of a context image and what it restores. -/

namespace Sys2Proof.Machine

/-! ### Records of code tables, as they lie in memory (16/R350, R351) -/

/-- An entry record. -/
def entryRec (b : List Byte) : EntryRec :=
  ⟨BitVec.ofNat 32 (natAt b 0 4), natAt b 4 1, natAt b 5 1, natAt b 6 2, natAt b 8 4, (natAt b 12 1).testBit 0, (natAt b 12 1).testBit 1⟩

/-- A safe-point record. -/
def safeRec (b : List Byte) : SafeRec :=
  ⟨BitVec.ofNat 128 (natAt b 4 16), BitVec.ofNat 64 (natAt b 20 8), BitVec.ofNat 32 (natAt b 28 4), BitVec.ofNat 16 (natAt b 32 2)⟩

/-- Cut bytes into `k` pieces of `n`. -/
def pieces (n k : Nat) (b : List Byte) : List (List Byte) := (List.range k).map fun j => (b.drop (n * j)).take n

/-! ### The check (17/R398, status 0x03) -/

/-- A record of an image. -/
abbrev Rec := Nat × Nat × List Byte

/-- The place of a record type in the order of the table; the records of one sheaf share a place. -/
def recRank (ty : Nat) : Option Nat :=
  match ty with
  | 1 => some 0 | 2 => some 1 | 3 => some 2 | 4 => some 3
  | 5 | 0xD | 6 | 7 => some 4
  | 8 => some 5 | 9 => some 6 | 0xA => some 7 | 0xB => some 8 | 0xC => some 9
  | 0xFF => some 10
  | _ => none

/-- The place within a sheaf's records. -/
def partRank (ty : Nat) : Nat := match ty with | 5 => 0 | 0xD => 1 | 6 => 2 | _ => 3

/-- Whether a record may follow another of the same sheaf: operand-log entries in SEQ order. -/
def partFollows (x y : Rec) : Bool :=
  y.2.1 == x.2.1 && decide (partRank x.1 ≤ partRank y.1) && (x.1 != 7 || y.1 != 7 || decide (natAt x.2.2 12 4 < natAt y.2.2 12 4))

/-- Whether one record may follow another. What belongs to a sheaf follows its SHEAF record. -/
def follows (x y : Rec) : Bool :=
  match recRank x.1, recRank y.1 with
  | some a, some b =>
    if b == 4 then (if y.1 == 5 then decide (a ≤ 4) else a == 4 && partFollows x y)
    else decide (a < b) || (a == b && a != 0 && a != 10)
  | _, _ => false

/-- Whether the records are in order, from CONTEXT to END, each type once where it must be. -/
def orderOk : List Rec → Bool
  | [] => false
  | [x] => x.1 == 0xFF
  | x :: y :: rs => follows x y && orderOk (y :: rs)

/-- Whether a byte range is zero. -/
def zeroAt (b : List Byte) (off n : Nat) : Bool := natAt b off n == 0

/-- Whether a stack entry of 02/R37, or the current path in its layout, has its reserved fields zero and a KIND it may have. -/
def stackEntryOk (path : Bool) (b : List Byte) : Bool :=
  zeroAt b 0 3 && zeroAt b 9 1 && zeroAt b 20 12 && if path then natAt b 8 1 == 3 || zeroAt b 8 1 else natAt b 8 1 == 1 || natAt b 8 1 == 2

/-- Whether a 32-bit field of a record has no reserved bit set. -/
def bitsOk (b : List Byte) (off mask : Nat) : Bool := natAt b off 4 &&& mask == 0

/-- Whether a record has its length and its reserved fields zero, those of the packet, of the nest and trap registers and of the
capabilities in it too (14/R321, R330; 17/R385; 04/R97). An ASID of 0 is refused as well, which R394 does not allow (DESIGN CHOICE,
log entry 88). -/
def recOk (r : Rec) : Bool :=
  let b := r.2.2
  match r.1 with
  | 1 => b.length == 512 && !zeroAt b 4 2 && zeroAt b 73 7 && zeroAt b 96 32 && zeroAt b 384 128
  | 2 => b.length == 64 && zeroAt b 44 20 && decide (natAt b 15 1 < 4)
  | 3 => b.length == 144 && zeroAt b 132 12 && !badFields (b.take 128)
  | 4 => (b.length == 544 || b.length == 4704) && zeroAt b 19 1 && zeroAt b 25 7 && decide (natAt b 24 1 < 16) &&
      (natAt b 17 1 == 1 || natAt b 17 1 == 2) && ((List.range 64).all fun k => natAt b (32 + 8 * k) 8 &&& 0x3FFF0000FC000000 == 0) &&
      (b.length == 544 || (decide (natAt b 584 1 < 8) && zeroAt b 587 1 && zeroAt b 596 12))
  | 5 => decide (1088 ≤ b.length) && zeroAt b 75 1 && ((List.range 4).all fun k => bitsOk b (40 + 4 * k) 0xFF00000C) &&
      bitsOk b 80 0xFFFFFFE0 && zeroAt b 96 3 && zeroAt b 104 3 && bitsOk b 120 0xFFFFFD00 && decide (1 ≤ natAt b 13 1) && decide (natAt b 13 1 ≤ 6) &&
      decide (natAt b 144 4 ≤ 32) && zeroAt b 156 4 && ((List.range 32).all fun k => zeroAt b (418 + 16 * k) 2) &&
      ((List.range (natAt b 144 4 + 1)).all fun k => stackEntryOk (k == 0) ((b.drop (928 + 160 * k)).take 160))
  | 6 => decide (80 ≤ b.length) && zeroAt b 3 1 && zeroAt b 64 16
  | 7 => decide (32 ≤ b.length) && zeroAt b 19 5 && decide (1 ≤ natAt b 18 1) && decide (natAt b 18 1 ≤ 3) &&
      ((List.range (natAt b 16 2)).all fun j => zeroAt b (42 + 32 * j) 6)
  | 9 => b.length == 16400 && zeroAt b 1 15
  | 0xA => b.length == 272 && zeroAt b 14 2 && decide (natAt b 16 256 < 2 ^ natAt b 8 2) && decide (natAt b 10 1 < 64) && decide (natAt b 11 1 < 64) &&
      decide (1 ≤ natAt b 12 1) && decide (natAt b 12 1 ≤ 3)
  | 0xD => decide (4096 + 16 ≤ b.length) && zeroAt b 1 1 && zeroAt b 9 7 &&
      ((List.range (natAt b 2 2)).all fun j => zeroAt b (4155 + 48 * j) 1)
  | 0xFF => b.isEmpty && r.2.1 == 0
  | _ => true

/-- The records of a valid image. -/
def imageRecs (im : List Byte) : Option (List Rec) :=
  let n := natAt im 16 8
  let body := (im.take n).drop 96
  match splitRecs body.length body with
  | none => none
  | some rs =>
    if im.take 4 == [0x46, 0x53, 0x43, 0x58] && natAt im 4 2 == 1 && zeroAt im 6 2 && zeroAt im 12 4 && decide (96 ≤ n) &&
        decide (n ≤ im.length) && natAt im 8 4 == rs.length && (im.drop 32).take 64 == sha512 body &&
        ((rs.head?.map fun r => r.1) == some 1) && orderOk rs && rs.all recOk then some rs
    else none

/-- The bodies of a type's records. -/
def bodiesOf (rs : List Rec) (ty : Nat) : List (List Byte) := (rs.filter fun r => r.1 == ty).map fun r => r.2.2

/-! ### Context, segments, launches -/

/-- The initial energy budget of a die (10/R292): the power manager gives each die a quarter of PB (log entry 24). -/
def energyFor (pb time : Nat) : Energy :=
  let rate := min (pb / 4) (2 ^ 24 - 1)
  ⟨rate, rate, 0, 0, time / 1000, false, 0⟩

/-- A context from its record. -/
def ctxOf (b : List Byte) (time : Nat) : Ctx :=
  { id := natAt b 0 4, live := true, asid := natAt b 4 2, vf := natAt b 6 2, ptroot := natAt b 8 8, tdbase := natAt b 16 8
    cb := natAt b 24 4, bb := natAt b 28 4, pb := natAt b 32 4, preto := natAt b 36 4, fmbx := natAt b 40 8, csa := natAt b 48 8
    sgrant := [], sgrantVa := natAt b 56 8, flost := BitVec.ofNat 32 (natAt b 64 4), lnext := BitVec.ofNat 32 (natAt b 68 4)
    bidx := natAt b 72 1, tstk := BitVec.ofNat 64 (natAt b 80 8), tstkn := natAt b 88 4, tstks := natAt b 92 4
    win := (List.range 16).filterMap fun k =>
      let w := (b.drop (128 + 16 * k)).take 16
      if natAt w 1 1 == 1 then some ⟨k, natAt w 0 1, natAt w 2 2, natAt w 4 4, natAt w 8 8⟩ else none
    exports := [], energy := List.replicate 4 (energyFor (natAt b 32 4) time), tasks := [], objs := [], resolver := 0, stopped := false
    wrote := [] }

/-- A segment of the image, its entry list and safe points read from the context's memory. -/
def State.restoreSeg (s : State) (ctx idx : Nat) (b : List Byte) : State :=
  let en := natAt b 12 2
  let sn := natAt b 32 4
  let e := s.globBytes ctx (natAt b 16 8) (32 * en)
  let p := e.1.globBytes ctx (natAt b 24 8) (40 * sn)
  let g : Seg := {
    idx := idx, base := natAt b 0 8, len := natAt b 8 4, gen := BitVec.ofNat 8 (natAt b 14 1)
    state := match natAt b 15 1 with | 1 => .live | 2 => .retired | 3 => .revoked | _ => .free
    owner := ctx, elistVa := natAt b 16 8, sptVa := natAt b 24 8
    elist := match e.2 with | some bs => (pieces 32 en bs).map entryRec | none => []
    spt := match p.2 with | some bs => (pieces 40 sn bs).map safeRec | none => [] }
  let keep := p.1.segs.filter fun (x : Seg) => x.idx != idx
  { p.1 with segs := keep ++ [g] }

/-- The task sheaves that a launch number has formed as far as an image and the kept regions tell: past the last one that the image
holds (14/R335). -/
def State.tasksFormed (s : State) (ctx ln : Nat) (rs : List Rec) : Nat :=
  let kept := (s.sys.regions.filter fun r => r.ctx == ctx && r.ln.toNat == ln).map fun r => r.taskN
  let seen := ((bodiesOf rs 5).filter fun b => natAt b 20 4 == ln && 2 ^ 31 ≤ natAt b 0 4).map fun b => natAt b 0 4 % 2 ^ 31 + 1
  (kept ++ seen).foldl max 0

/-- A launch of the image: it is mapped again if a sheaf of it has started or it has no dependence; otherwise its
dependences are read again (log entry 46). -/
def State.restoreLaunch (s : State) (ctx ln : Nat) (rs : List Rec) (b : List Byte) : State :=
  let p := b.take 128
  let id := s.ctl.nextId
  let cap : DWord := BitVec.ofNat 64 (natAt p 8 8)
  let off := (((s.seg? (capSeg cap).toNat).bind fun g => g.elist[(capEnt cap).toNat]?).map (·.off)).getD 0
  let l : Launch := {
    id := id, ctx := ctx, die := 0, port := 0, packet := p, ln := BitVec.ofNat 32 ln, deps := [depCmp p 0 == 0, depCmp p 1 == 0]
    ready := false, mapl := [], extl := [], llmTab := [], lvf := [], shln := 0, n := 0, scr := 0, entry := ⟨capSeg cap, capGen cap, off⟩
    unitN := 0, order := id, started := natAt b 128 4, taskN := s.tasksFormed ctx ln rs, done := false }
  let m := if l.started == 0 && !l.deps.all (fun d => d) then (s, l) else match s.mapLaunch l with
    | (t, .ok m) => (t, { l with ready := true, deps := [true, true], mapl := m.mapl, extl := m.extl, llmTab := m.llmTab, lvf := m.lvf
                                 shln := m.shln, n := m.n, scr := m.kib, unitN := m.unitN })
    | (t, .error _) => (t, l)
  State.fresh { m.1 with job := { m.1.job with launches := m.1.job.launches ++ [m.2] } } 1

/-- The queued tasks behind the contents of an SLM record's window (log entry 30). -/
def slmTasks (ctx : Nat) (b : List Byte) : List (List Byte) :=
  let rest := b.drop (16 + if natAt b 1 1 == 1 then natAt b 4 4 * 1024 else 0)
  (pieces 64 (rest.length / 64) rest).filter fun t => natAt t 32 4 == ctx

/-- The launch numbers that task sheaves and queued tasks of an image count in (14/R335). -/
def taskLns (ctx : Nat) (rs : List Rec) : List Nat :=
  ((((bodiesOf rs 5).filter fun b => 2 ^ 31 ≤ natAt b 0 4).map fun b => natAt b 20 4) ++
    ((bodiesOf rs 0xB).flatMap (slmTasks ctx)).map fun t => natAt t 36 4).dedup

/-- A launch that is done keeps its record while tasks of its number may still form sheaves (14/R335). -/
def State.restoreDone (s : State) (ctx : Nat) (rs : List Rec) (ln : Nat) : State :=
  if s.job.launches.any fun l => l.ctx == ctx && l.ln.toNat == ln then s
  else
    let l : Launch := {
      id := s.ctl.nextId, ctx := ctx, die := 0, port := 0, packet := List.replicate 128 0, ln := BitVec.ofNat 32 ln, deps := [true, true]
      ready := true, mapl := [], extl := [], llmTab := [], lvf := [], shln := 0, n := 0, scr := 0, entry := ⟨0, 0, 0⟩
      unitN := 0, order := s.ctl.nextId, started := 0, taskN := s.tasksFormed ctx ln rs, done := true }
    State.fresh { s with job := { s.job with launches := s.job.launches ++ [l] } } 1

/-- The launches of some launch numbers of a context. -/
def State.launchesOf (s : State) (ctx : Nat) (lns : List Word) : List Nat :=
  lns.filterMap fun n => (s.job.launches.find? fun l => l.ctx == ctx && l.ln == n).map (·.id)

/-! ### Sheaves (17/R395) -/

/-- A mask from 128 bytes. -/
def maskAt (b : List Byte) (off : Nat) : Mask := BitVec.ofNat 1024 (natAt b off 128)

/-- The PC of a stack entry of an image whose stack region is not known: its offset is a free value (log entry 37). -/
def entryPcOf (b : List Byte) (off seed : Nat) : Pc :=
  let c : DWord := BitVec.ofNat 64 (natAt b off 8)
  ⟨capSeg c, capGen c, freeWord seed &&& 0xFFFFFFFC⟩

/-- Frames of a call stack whose region is not known. -/
def freeFrames (seg : BitVec 16) (gen : BitVec 8) (id seed n : Nat) : List Frame :=
  (List.range n).map fun k => ⟨⟨seg, gen, freeWord (seed + k) &&& 0xFFFFFFFC⟩, id + k⟩

/-- Stack entries of an image, topmost first; record `k` from the bottom takes the identifier `id + k`. -/
def entriesOf (b : List Byte) (n id seed : Nat) : List StackEntry :=
  ((List.range n).map fun k =>
    let e := (b.drop (1088 + 160 * k)).take 160
    let pc := entryPcOf e 0 (seed + 70000 * k)
    let fr := freeFrames pc.seg pc.gen (id + 100 + 70000 * k) (seed + 70000 * k + 1) (natAt e 10 2)
    if natAt e 8 1 == 1 then StackEntry.record (id + k) pc (maskAt e 32) fr
    else .pending ⟨pc, maskAt e 32, fr, if natAt e 12 4 == 0xFFFFFFFF then none else some (id + natAt e 12 4)⟩).reverse

/-- A lane of an image. -/
def laneBlock (b : List Byte) (lid vn : Nat) (vs : List Nat) (seed : Nat) : Lane :=
  let left := natAt b 0 2 == 0xFFFF
  let reg := fun (r : Nat) => match vs.findIdx? fun x => x == r with
    | some j => BitVec.ofNat 32 (natAt b (36 + 4 * j) 4)
    | none => freeWord (seed + r)
  { lid := lid, lpos := if left then lid else natAt b 0 2, left := left
    v := (List.range vn).map reg
    k := BitVec.ofNat 16 (natAt b 2 2)
    nest := (List.range 4).map fun lv => ⟨BitVec.ofNat 32 (natAt b (4 + 8 * lv) 4), BitVec.ofNat 32 (natAt b (8 + 8 * lv) 4)⟩ }

/-- A packed barrier word of the image. -/
def barWord (x uid : Nat) : BarHandle :=
  ⟨x % 2 ^ 19, x / 2 ^ 19 % 64, x.testBit 25, if x.testBit 25 then uid else 0, x / 2 ^ 26 % 16, 1, 0, false⟩

/-- What the region keeps of a barrier, where it is that of the packed word `x`: register `reg`, 32 for the BAR record. -/
def SavedStack.barAt (r : SavedStack) (reg x : Nat) : Option BarHandle :=
  (r.bars.find? fun p => p.1 == reg && p.2.word == x % 2 ^ 30).map (·.2)

/-- The lanes of a loaded sheaf take their places in the nest synchronisations they were in. -/
def State.restoreNests (s : State) (launch uid : Nat) (ns : List NestSync) : State :=
  let mine := fun (a : Nat) => agentId uid a
  ns.foldl (fun (t : State) (n : NestSync) =>
    let m := (t.stk.nests.find? fun (x : NestSync) => x.is launch n.lv n.key).getD { n with launch := launch, arr := [], got := [], nbcN := [] }
    t.putNest { m with
      arr := m.arr ++ n.arr.map fun a => (mine a.1, a.2)
      got := m.got ++ n.got.map fun a => (mine a.1, a.2)
      nbcN := m.nbcN ++ n.nbcN.map fun a => (mine a.1, a.2) }) s

/-- The levels of a saved nest, where the region is not known: the last one with a mapping word or an extent. -/
def savedDepth (b : List Byte) : Nat :=
  ((List.range 4).filter fun k => !(zeroAt b (40 + 4 * k) 4 && zeroAt b (56 + 4 * k) 4)).foldl (fun (m : Nat) (k : Nat) => max m (k + 1)) 0

/-- What the stack region of a sheaf of an image holds, where the device has it. -/
def State.regionFor (s : State) (ctx : Nat) (b : List Byte) : Option SavedStack :=
  s.sys.regions.find? fun r => r.ctx == ctx && r.ln.toNat == natAt b 20 4 && r.shid.toNat == natAt b 0 4

/-- A sheaf of the image, with what the region kept of it where that is known. Handles and stook follow. -/
def State.restoreSheaf (s : State) (ctx : Nat) (b : List Byte) : State :=
  let uid := s.ctl.nextId
  let seed := s.ctl.free
  let n := fun (off k : Nat) => natAt b off k
  let vn := n 8 1
  let vsaved : BitVec 128 := BitVec.ofNat 128 (n 128 16)
  let vs := (List.range vn).filter fun r => vsaved.getLsbD r
  let nstk := n 144 4
  let ln : Word := BitVec.ofNat 32 (n 20 4)
  let shid : Word := BitVec.ofNat 32 (n 0 4)
  let reg := s.regionFor ctx b
  let lau := s.job.launches.find? fun l => l.ctx == ctx && l.ln == ln
  let pc : Pc := ⟨BitVec.ofNat 16 (n 72 2), BitVec.ofNat 8 (n 74 1), BitVec.ofNat 32 (n 76 4)⟩
  let link := if n 940 4 == 0xFFFFFFFF then none else some (uid + 1 + n 940 4)
  let stack := match reg with | some r => r.stack | none => entriesOf b nstk (uid + 1) (seed + 2 ^ 20)
  let mask := maskAt b 960
  let path := match reg with
    | some r => r.path
    | none => if n 13 1 == 6 || mask == 0 then none else some ⟨pc, mask, freeFrames pc.seg pc.gen (uid + 3000000) (seed + 2 ^ 19) (n 84 4), link⟩
  let blk := fun (l : Nat) => (b.drop (1088 + 160 * nstk + l * (36 + 4 * vs.length))).take (36 + 4 * vs.length)
  let ret := match reg with
    | some r => r.ret
    | none => if (n 14 1).testBit 0 then some (entryPcOf b 104 (seed + 2 ^ 18)) else none
  let depth := match reg with | some r => r.lvf.length | none => max (savedDepth b) ((lau.map fun l => l.mapl.length).getD 0)
  let task := shid.getLsbD 31
  let h := Sheaf.start uid shid ⟨n 4 4, vn, n 9 1, n 10 2, 0, 0⟩ ctx pc seed
  let launch := (lau.map fun l => l.id).getD 0
  let h1 : Sheaf := { h with
    ln := ln, launch := launch, prio := n 12 1, task := task
    origins := if !task then [] else match reg with | some r => s.launchesOf ctx r.origins | none => (lau.map fun l => l.id).toList
    s := (List.range 64).map fun r => BitVec.ofNat 32 (n (160 + 4 * r) 4)
    gw := n 88 8, fflg := BitVec.ofNat 5 (n 80 4), dthr := BitVec.ofNat 13 (n 148 4)
    mapl := (List.range depth).map fun k => BitVec.ofNat 32 (n (40 + 4 * k) 4)
    extl := (List.range depth).map fun k => BitVec.ofNat 32 (n (56 + 4 * k) 4)
    llmTab := match reg with | some r => r.llmTab | none => (lau.map fun l => l.llmTab).getD []
    lvf := match reg with | some r => r.lvf | none => (lau.map fun l => l.lvf).getD []
    lanes := (List.range (n 4 4)).map fun l => laneBlock (blk l) l vn vs (seed + 4096 + 128 * l)
    path := path, stack := stack
    trap := ⟨BitVec.ofNat 64 (n 96 8), BitVec.ofNat 64 (n 104 8), BitVec.ofNat 64 (n 112 8), BitVec.ofNat 32 (n 120 4),
      BitVec.ofNat 32 (n 124 4), (n 14 1).testBit 0, ret, (reg.map (·.trapSeq)).getD 0⟩
    sstk := BitVec.ofNat 64 (n 24 8), sstks := BitVec.ofNat 32 (n 32 4)
    bar := if (n 152 8).testBit 31 then some (((reg.bind fun r => r.barAt 32 (n 152 8))).getD (barWord (n 152 8) uid)) else none
    txbs := (reg.map (·.txbs)).getD []
    run := .stopped (n 13 1) (if n 16 4 == 0xFFFFFFFF then none else some (n 16 4)), safeV := BitVec.allOnes 128
    mq := (reg.map (·.mq)).getD [], nseq := (reg.map (·.nseq)).getD 0
    raised := ((reg.map (·.raised)).getD []).map fun e => { e with uid := uid }
    admitAt := s.ctl.time, admitFused := (lau.map fun l => l.fused).getD false, queued := true }
  let log := ((reg.map (·.log)).getD []).map fun e => { e with uid := uid }
  let s1 : State := { s with sheaves := s.sheaves ++ [h1], flt := { s.flt with log := s.flt.log ++ log } }
  (s1.restoreNests launch uid ((reg.map (·.syncs)).getD [])).fresh 4000000 |>.draw (2 ^ 22 + 70000 * 34)

/-- The kind of operation a command starts. -/
def opKindOf : Instr → Option OpKind
  | .lg2s _ => some .lg2s | .ls2g _ => some .ls2g | .bulk _ => some .bulk | .mcast _ => some .mcast | .dec _ => some .dec
  | .peer _ => some .peer | .red _ => some .red | .wnx _ => some .wnx | .mma _ => some .mma | .mmaz _ => some .mmaz
  | .mmld _ => some .mmld | .mmst _ => some .mmst | .mmcv _ => some .mmcv | .mmsp _ => some .mmsp | .spcmp _ => some .spcmp
  | .wnw _ => some .wnw | .wnf _ => some .wnf | .dscd _ => some .dscd | .pref _ => some .pref | .pcomp _ => some .pcomp
  | .nnz _ => some .nnz
  | _ => none

/-- The lanes of a per-lane copy that its record shows unfinished. The record holds no address of a lane: where the region is
not known they are free, aligned and within the allotment (log entry 37). -/
def freeLanes (b : List Byte) (n scr seed : Nat) : List LaneCopy :=
  ((List.range 1024).filter fun l => !(natAt b (80 + l / 8) 1).testBit (l % 8)).map fun l =>
    ⟨l, (Config.freeValue (seed + 2 * l)).toNat % 2 ^ 57 / n * n, (Config.freeValue (seed + 2 * l + 1)).toNat % (max scr n) / n * n, false⟩

/-- The operation of a HANDLE record (17/R397), at rest until its sheaf resumes. -/
def opOf (b : List Byte) (id seed : Nat) (h : Sheaf) : Option Op :=
  let insn : Word := BitVec.ofNat 32 (natAt b 4 4)
  ((decode insn).bind opKindOf).map fun k =>
    let blk := (List.range 8).map fun j => BitVec.ofNat 32 (natAt b (16 + 4 * j) 4)
    let prog := natAt b 56 4
    let cnt := fun (m : Nat) => natAt b (80 + 4 * m) 4
    let mask := (pairOf (par blk 6) (par blk 7))
    { id := id, sheaf := h.uid, core := 0, ctx := h.ctx, hreg := natAt b 0 1, kind := k, insn := insn
      xmod := BitVec.ofNat 24 (natAt b 8 4), xmem := BitVec.ofNat 24 (natAt b 12 4), blk := blk
      tile := (insn.extractLsb' 14 4).toNat, ents := []
      lanes := if k == .lg2s || k == .ls2g then freeLanes b (4 * 2 ^ (insn.extractLsb' 0 2).toNat) h.scrBytes seed else []
      xfers := if k == .mcast then (maskBits mask).map fun m => ⟨m, none, false⟩ else []
      cap := [], lines := []
      done := if k == .mcast then (List.range 48).flatMap fun m => (List.range (cnt m)).map fun j => m * 2 ^ 60 + j else []
      counted := [], rp := if k == .red then min prog 1 else if k.rows then prog % 128 else prog, susp := k.rows && prog.testBit 8, fva := 0
      facc := BitVec.ofNat 5 (natAt b 2 1), opgw := natAt b 48 8, code := 0, detail := 0, viol := [], status := none
      taint := false, trunc := false, srcR := [], dstR := [], txbs := [], stale := [], comp := none
      stalls := 0, resting := true, raw := true, seq := 0, seenBy := [], regs := [], stage := 0, idle := 0, parts := [], pins := [] }

/-- An operation of a record with what the region keeps of it besides: its lanes, the metadata read, how far it has come. -/
def Op.supplement (o p : Op) : Op :=
  let lane := o.kind == .lg2s || o.kind == .ls2g
  { o with
    lanes := p.lanes, done := if lane || o.kind == .red then p.done else o.done, counted := p.counted
    xfers := p.xfers.map fun x => { x with tgt := none }
    cap := p.cap, stale := p.stale, code := p.code, detail := p.detail, viol := p.viol, taint := p.taint, trunc := p.trunc
    stalls := p.stalls, seq := p.seq, regs := p.regs, stage := p.stage }

/-- The HANDLE records of a sheaf: its operations enter the engines' state, a root for the one whose contribution its
round holds. The answer gives each record's operation. -/
def State.restoreOps (s : State) (h : Sheaf) (reg : Option SavedStack) (hs : List (List Byte)) : State × List (Option Nat) :=
  hs.foldl (fun (q : State × List (Option Nat)) (b : List Byte) =>
    match if natAt b 1 1 == 3 then none else opOf b q.1.ctl.nextId q.1.ctl.free h with
    | some o =>
      let same := fun (p : Op) => p.live && p.insn == o.insn && p.blk == o.blk && p.hreg == o.hreg && p.opgw == o.opgw && p.kind == o.kind
      let kept := reg.bind fun r => (r.held.find? fun x => same x.2.2).map (·.2.2)
      let o1 := match kept with | some p => o.supplement p | none => o
      let root := fun (c : Contrib) => if kept.isSome && c.op == kept.map (·.id) then { c with op := some o.id } else c
      (State.fresh (({ q.1 with
          eng := { q.1.eng with ops := q.1.eng.ops ++ [o1] }
          fab := { q.1.fab with contribs := q.1.fab.contribs.map root } } : State).draw 2048) 1, q.2 ++ [some o.id])
    | none => (q.1, q.2 ++ [none])) (s, [])

/-- An operation that ended before the save, from its status; the image holds no flags of one that was not observed yet. -/
def endedOp (id : Nat) (h : Sheaf) (reg : Nat) (st : DWord) (flags : BitVec 5) : Op :=
  { id := id, sheaf := h.uid, core := 0, ctx := h.ctx, hreg := reg, kind := .pref, insn := 0, xmod := 0, xmem := 0, blk := [], tile := 0
    ents := [], lanes := [], xfers := [], cap := [], lines := [], done := [], counted := [], rp := 0, susp := false, fva := 0, facc := flags
    opgw := 0, code := 0, detail := 0, viol := [], status := some st, taint := false, trunc := false, srcR := [], dstR := []
    txbs := [], stale := [], comp := none, stalls := 0, resting := false, raw := false, seq := 0, seenBy := [], regs := []
    stage := 0, idle := 0, parts := [], pins := [] }

/-- A slot of the export table as its record names it: slot, generation, owning SHID, handle register. -/
abbrev ExportRec := Nat × Word × Nat × Nat

/-- The operation a complete handle register of the image holds: what the region keeps of it, else its status alone. -/
def State.ended (s : State) (h : Sheaf) (kept : Option SavedStack) (reg : Nat) (st : DWord) : State × Nat :=
  let id := s.ctl.nextId
  let bare := endedOp id h reg st (BitVec.ofNat 5 (freeWord s.ctl.free).toNat)
  let o := match kept.bind fun r => r.held.find? fun x => x.1 == reg && x.2.2.status == some st with
    | some (_, seen, p) => { p with id := id, sheaf := h.uid, core := 0, ctx := h.ctx, seenBy := if seen then [h.uid] else [] }
    | none => bare
  (State.fresh (({ s with eng := { s.eng with ops := s.eng.ops ++ [o] } } : State).draw 1) 1, id)

/-- A handle register of the image that its sheaf's own records give: `hs` are the sheaf's HANDLE records, `ids` their
operations. A handle that another sheaf's register or command gives is bound later. -/
def State.restoreHandle (s : State) (uid : Nat) (b : List Byte) (hs : List (List Byte)) (ids : List (Option Nat)) (xs : List ExportRec)
    (reg : Nat) : State :=
  let e := (b.drop (416 + 16 * reg)).take 16
  let st : DWord := BitVec.ofNat 64 (natAt e 8 8)
  let ord := natAt e 4 4
  match s.sheaf? uid with
  | none => s
  | some h =>
    let kept := s.regionFor h.ctx b
    let put := fun (t : State) (x : Handle) => t.putSheaf (h.setH reg x)
    let bar := fun (x : Nat) => ((kept.bind fun r => r.barAt reg x)).getD (barWord x uid)
    match natAt e 0 1, natAt e 1 1 with
    | 0, _ => s
    | 2, 3 => put s (.bar { barWord 0 uid with code := st.toNat })
    | 2, _ =>
      if xs.any fun x => x.1 == ord && x.2.2 != (h.shid.toNat, reg) then s
      else
        let r := s.ended h kept reg st
        put r.1 (.op r.2)
    | _, k =>
      match hs[ord]? with
      | some r =>
        if natAt r 0 1 == reg && natAt r 1 1 == k then
          if k == 3 then put s (.bar (bar (natAt r 56 4)))
          else match (ids[ord]?).bind (fun x => x) with
            | some id => put s (.op id)
            | none => s
        else s
      | none => s

/-- A handle register of the image that holds an operation by its export slot (06/R184): the slot's, or its own, which the slot then
holds. -/
def State.bindHandle (s : State) (c : Ctx) (uid : Nat) (b : List Byte) (reg : Nat) : State :=
  let e := (b.drop (416 + 16 * reg)).take 16
  match s.sheaf? uid with
  | none => s
  | some h =>
    if natAt e 0 1 == 0 || natAt e 1 1 == 3 || h.getH reg != .empty then s
    else
      let kept := s.regionFor h.ctx b
      let seen := ((kept.bind fun r => r.held.find? fun x => x.1 == reg).map (·.2.1)).getD false
      match (c.exports.find? fun x => x.slot == natAt e 4 4).bind (·.op) with
      | some id => (s.putSheaf (h.setH reg (.op id))).modOp id fun o => if seen then { o with seenBy := o.seenBy ++ [uid] } else o
      | none =>
        if natAt e 0 1 == 2 then
          let r := s.ended h kept reg (BitVec.ofNat 64 (natAt e 8 8))
          (r.1.putSheaf (h.setH reg (.op r.2))).modCtx h.ctx fun x => { x with
            exports := x.exports.map fun y => if y.slot == natAt e 4 4 && y.op.isNone then { y with op := some r.2 } else y }
        else s

/-! ### The operand log -/

/-- What a logged instruction asked for. -/
def memReqOf (i : Instr) : Option MemReq :=
  match i with
  | .ld sz o => some ⟨i, o, sz.bytes, sz.regs, .load, sz == .s8 || sz == .s16, false⟩
  | .st sz o => some ⟨i, o, sz.bytes, sz.regs, .store, false, false⟩
  | .ldu sz o => some ⟨i, o, sz.bytes, 1, .load, false, true⟩
  | .stu sz o => some ⟨i, o, sz.bytes, 1, .store, false, true⟩
  | .aadd o | .amin o | .amax o | .aminn o | .amaxn o | .aand o | .aor o | .axor o | .axchg o | .acas o | .afadd o | .abfadd2 o =>
    some ⟨i, o, 4, 1, .atomic ((encode i).extractLsb' 23 4).toNat, false, false⟩
  | _ => none

/-- The accesses of an OPLOG record, with the markers of its order, and its log entry, where the region is not known. The record names
no instruction PC and no cause: the sheaf's PC and cause 0x06 stand for them (log entry 30). -/
def State.restoreLog (s : State) (uid : Nat) (b : List Byte) : State :=
  match s.sheaf? uid, (decode (BitVec.ofNat 32 (natAt b 4 4))).bind memReqOf with
  | some h, some r =>
    let seq := natAt b 12 4
    let n := natAt b 16 2
    let xm : BitVec 24 := BitVec.ofNat 24 (natAt b 8 4)
    let x := if xm == 0 then r.i.xmemDefault else xm
    let lane := fun (j : Nat) =>
      let c := (b.drop (32 + 32 * j)).take 32
      (parts r.size).map fun p =>
        ({ id := ⟨seq, natAt c 8 2, p.1⟩, kind := r.kind, space := .glob, addr := natAt c 0 8 + 8 * p.1, size := p.2
           data := BitVec.ofNat 128 (natAt c 16 16) >>> (64 * p.1)
           dest := if r.kind == .store then none else some ⟨!r.uniform, r.o.d.toNat + 2 * p.1, r.signed⟩
           scp := xScp x, ord := xOrd x, ch := xCh x, insn := encode r.i, xmem := xm, pc := h.pc, gath := 0, undef := false
           stage := .logged none, held := none } : Access)
    let as := (List.range n).flatMap lane
    let e : LogEntry := ⟨uid, h.core, seq, encode r.i, xm, natAt b 24 8 / 65536, natAt b 18 1, as.map (·.id),
      as.map fun a => (a.id.lid, BitVec.ofNat 64 a.addr), h.pc, 6, seq⟩
    ({ s with flt := { s.flt with log := s.flt.log ++ [e] } } : State).putSheaf
      (({ h with nseq := seq } : Sheaf).enqueue as (xOrd x) (xScp x))
  | _, _ => s

/-! ### Nest synchronisation, stooks, subscriptions -/

/-- An open reduction from its bytes. -/
def accOf (b : List Byte) (n : Nat) : NestAcc :=
  let op := natAt b 42 1
  let v := BitVec.ofNat 320 (natAt b 0 40)
  ⟨if op == 0 then v else 0, BitVec.ofNat 3 (natAt b 40 1), natAt b 41 1, op, n, if op == 0 then none else some (v.truncate 64), false⟩

/-- The first agents of a list count as having done what all but `left` of them have; none has where `left` is 0. -/
def firstAgents (ids : List Nat) (left : Nat) : List Nat := if left == 0 then [] else ids.take (ids.length - left)

/-- A SHSYNC record of a sheaf whose region is not known: the open reductions, the NBAR and the NBC values of a level. The
record does not say which agents have arrived: the first in LID order count as those (log entry 30). -/
def State.restoreSync (s : State) (uid : Nat) (b : List Byte) : State :=
  match s.sheaf? uid with
  | none => s
  | some h =>
    let lv := natAt b 0 1
    let agents := h.lanes.filterMap fun l => (l.key lv).map fun k => (l.lid, k)
    let came := firstAgents (agents.map (·.1)) (natAt b 4 4)
    let vals := ((List.range h.shln).map fun l => ((0 : Nat), l, (BitVec.ofNat 32 (natAt b (16 + 4 * l) 4) : Word))).filter fun x => x.2.2 != 0
    let accs := (List.range (natAt b 2 2)).map fun j => (b.drop (4112 + 48 * j)).take 48
    ((agents.map (·.2)).dedup).foldl (fun (t : State) (k : List Nat) =>
      let mine := accs.find? fun e => ((h.lanes.find? fun l => l.lid == natAt e 44 4).bind fun l => l.key lv) == some k
      let n := NestSync.fresh h.launch lv k
      let ph := natAt b 8 1 % 16
      t.putNest { n with
        phase := ph, acc := (mine.map fun e => accOf e 1).getD n.acc, nbc := vals
        arr := ((agents.filter fun a => a.2 == k && came.contains a.1).map fun a => (agentId uid a.1, ph)) }) s

/-- The synchronisation area of a launch-created stook (14/R332) and its NBAR, where the regions of its members are not known:
the first agents, by member and LID, count as those that have done what some have (log entry 30). -/
def State.restoreArea (s : State) (b : List Byte) (k : Stook) : State :=
  let ms := k.members.filterMap fun m => s.sheaf? m.uid
  match ms with
  | [] => s
  | h :: _ =>
    match (List.range 4).find? fun l => h.sheavesOf l != 1 with
    | none => s
    | some v =>
      match h.lanes.findSome? fun (l : Lane) => l.key v with
      | none => s
      | some key =>
        if s.stk.nests.any fun (n : NestSync) => n.is h.launch v key then s
        else
          let n := NestSync.fresh h.launch v key
          let acc := accOf (b.drop 544) (if zeroAt b 544 43 then 0 else 1)
          let ph := natAt b 24 1 % 16
          let agents := ms.flatMap fun x => (x.lanes.filter fun l => l.key v == some key).map fun l => (agentId x.uid l.lid, l)
          let ids := agents.map (·.1)
          let had := firstAgents ids (natAt b 592 4)
          s.putNest { n with
            phase := ph, acc := if acc.n == 0 then n.acc else acc
            arr := (firstAgents ids (natAt b 20 4)).map fun a => (a, ph)
            got := (firstAgents ids (natAt b 588 4)).map fun a => (a, 0)
            nbc := if zeroAt b 592 4 then [] else (List.range h.shln).map fun l => (0, l, BitVec.ofNat 32 (natAt b (608 + 4 * l) 4))
            nbcN := (agents.filter fun a => had.contains a.1).map fun a => (a.1, (a.2.nestAt (v + 1)).ix.toNat, 1) }

/-- A stook record (09/R267, R268): its members are the restored sheaves, each held, with the core that its entry records (07/R220);
it has no cluster before a member is placed. -/
def State.restoreStook (s : State) (ctx first : Nat) (b : List Byte) : State :=
  let id := s.ctl.nextId
  let name : Word := BitVec.ofNat 32 (natAt b 0 4)
  let launched := natAt b 17 1 == 2
  let find := fun (i : Nat) =>
    let e : DWord := BitVec.ofNat 64 (natAt b (32 + 8 * i) 8)
    if e.getLsbD 63 then
      (s.sheaves.find? fun h => first ≤ h.uid && h.ctx == ctx && h.stook == some (0, i) && h.shid.extractLsb' 0 16 == e.extractLsb' 32 16 &&
        (!launched || h.ln.extractLsb' 0 15 == name.extractLsb' 16 15)).map fun h => (⟨i, h.uid, true⟩ : Member)
    else none
  let ms := (List.range 64).filterMap find
  let k : Stook := ⟨id, name, ctx, nCores / 48, launched, natAt b 18 1, ms⟩
  let named := fun (h : Sheaf) => match ms.find? fun m => m.uid == h.uid with
    | some m => { h with stook := some (id, m.idx), core := natAt b (32 + 8 * m.idx) 8 / 2 ^ 20 % 64 % 48 }
    | none => h
  let s1 : State := { s with stk := { s.stk with stooks := s.stk.stooks ++ [k] }, sheaves := s.sheaves.map named }
  (if launched then s1.restoreArea b k else s1).fresh 1

/-- Whether a subscription record's fields lie in their ranges, and its regions in the allotments of subscriber and publisher (09/R276,
07/R221). -/
def subOk (b : List Byte) (h p : Sheaf) : Bool :=
  let n := 32 * natAt b 8 2
  natAt b 0 4 % 32 == 0 && natAt b 4 4 % 32 == 0 && n != 0 && decide (n ≤ 65536) && decide (natAt b 13 1 < 16) &&
  decide (natAt b 0 4 + n ≤ h.scrBytes) && decide (natAt b 4 4 + n ≤ p.scrBytes)

/-- A subscription record, of the restored sheaf with the subscriber's SHID and member index. A record that reaches outside the
allotments makes no subscription, since it may disturb no other sheaf (00/R2, 17/R398; DESIGN CHOICE, log entry 88). -/
def State.restoreSub (s : State) (ctx shid first : Nat) (b : List Byte) : State :=
  let len := natAt b 8 2
  let subr := s.sheaves.find? fun h => first ≤ h.uid && h.ctx == ctx && h.shid.toNat == shid && (h.stook.map (·.2)) == some (natAt b 11 1 % 64)
  match subr with
  | none => s
  | some h =>
    match s.member? h (natAt b 10 1 % 64) with
    | none => s
    | some (_, p) =>
      if !subOk b h p then s else
      let x : Sub := ⟨s.ctl.nextId, natAt b 13 1, h.uid, p.uid, natAt b 0 4, natAt b 4 4, len, .detached,
        (List.range len).filter fun j => (natAt b (16 + j / 8) 1).testBit (j % 8), []⟩
      State.fresh { s with stk := { s.stk with subs := s.stk.subs ++ [x] } } 1

/-! ### Windows -/

/-- Whether a control block at a position of a window's contents is that of a mailbox (log entry 31). -/
def mbxAt (b : List Byte) (o ctx : Nat) : Bool :=
  let kind := natAt b (o + 0x88) 1
  (kind == 1 || kind == 2 || kind == 3) && zeroAt b o 128 && zeroAt b (o + 0x89) 1 && natAt b (o + 0x8C) 4 == slotBytes kind &&
  natAt b (o + 0x90) 4 == ctx && zeroAt b (o + 0x94) 108 &&
  natAt b (o + 0x80) 4 + natAt b (o + 0x84) 4 == (if natAt b (o + 0x8A) 2 == 0 then 65536 else natAt b (o + 0x8A) 2)

/-- The mailbox at a position. -/
def mbxFrom (b : List Byte) (o ctx pos : Nat) : Mbx :=
  let kind := natAt b (o + 0x88) 1
  let n := if natAt b (o + 0x8A) 2 == 0 then 65536 else natAt b (o + 0x8A) 2
  let sb := slotBytes kind
  ⟨pos + o, kind, n, sb, ctx, (List.range (natAt b (o + 0x84) 4)).map fun k =>
    let x := (b.drop (o + 0x100 + k * sb)).take sb
    if kind == 1 then (x.drop 8).take (natAt x 0 8) else x⟩

/-- A queued task of the image: the launches that wait for it are those the device has kept, else the one of its launch number. -/
def State.restoreTask (s : State) (ctx : Nat) (b : List Byte) : State :=
  let ln : Word := BitVec.ofNat 32 (natAt b 36 4)
  let lau := ((s.job.launches.find? fun l => l.ctx == ctx && l.ln == ln).map fun l => l.id).getD 0
  let k := (s.job.tasks.filter fun (t : Nat × Task) => t.2.ctx == ctx).length
  let kept := (s.sys.queued.find? fun (q : Nat × List (List Word)) => q.1 == ctx).bind fun q => q.2[k]?
  let t : Task := ⟨(List.range 8).map fun k => BitVec.ofNat 32 (natAt b (4 * k) 4), ctx, BitVec.ofNat 64 (natAt b 40 8), ln, lau,
    (kept.map (s.launchesOf ctx)).getD [lau], natAt b 48 1, s.ctl.time⟩
  { s with job := { s.job with tasks := s.job.tasks ++ [(0, t)] } }

/-- An SLM record: the contents of the context's window of its number, its mailboxes, and the tasks behind them. A record that
names no window of the context writes no slice memory (17/R398). -/
def State.restoreSlm (s : State) (c : Ctx) (num : Nat) (b : List Byte) : State :=
  let n := if natAt b 1 1 == 1 then natAt b 4 4 * 1024 else 0
  let s1 := match c.win.find? fun w => w.num == num && w.kib * 1024 == n with
    | none => s
    | some w =>
      let pos := w.slice * 2 ^ 26 + w.base
      let win := (b.drop 16).take n
      let boxes := ((List.range (n / 128)).filter fun k => mbxAt win (128 * k) c.id).map fun k => mbxFrom win (128 * k) c.id pos
      { s with
        mm := { s.mm with slm := s.mm.slm.write pos win }
        job := { s.job with mbx := (s.job.mbx.filter fun (m : Mbx) => !(pos ≤ m.head && m.head < pos + n)) ++ boxes } }
  (slmTasks c.id b).foldl (fun (t : State) (x : List Byte) => t.restoreTask c.id x) s1

/-- An EXPORT record as its table entry. -/
def exportRec (r : Rec) : ExportRec := (r.2.1, BitVec.ofNat 32 (natAt r.2.2 0 8), natAt r.2.2 8 4, natAt r.2.2 12 4)

/-- What the stack region of a loaded sheaf holds, where the device has it. -/
def State.regionOfSheaf (s : State) (h : Sheaf) : Option SavedStack :=
  s.sys.regions.find? fun r => r.ctx == h.ctx && r.ln == h.ln && r.shid == h.shid

/-- The operation a loaded sheaf holds in a register, or one of that register's commands that is still pending though the register has
been written again. -/
def State.opAt (s : State) (h : Sheaf) (reg : Nat) : Option Nat :=
  match h.getH reg with
  | .op id => some id
  | _ => (s.eng.ops.find? fun (o : Op) => o.sheaf == h.uid && o.live && o.hreg == reg && !h.h.contains (.op o.id)).map (·.id)

/-- A slot of the export table, by the sheaf of the record's SHID and its register. Where sheaves of several launches have that SHID,
it is the one whose region names the slot; where no region is known, the first of them, in the order of their records, with an
operation there (DESIGN CHOICE, log entry 30). -/
def State.restoreExport (s : State) (ctx first : Nat) (x : ExportRec) : State :=
  let hs := s.sheaves.filter fun h => first ≤ h.uid && h.ctx == ctx && h.shid.toNat == x.2.2.1
  let named := hs.filter fun h => (s.regionOfSheaf h).any fun r => r.exps.contains (x.1, x.2.2.2)
  let op := (if named.isEmpty then hs else named).findSome? fun h => s.opAt h x.2.2.2
  s.modCtx ctx fun c => { c with exports := c.exports ++ [⟨x.1, x.2.1, op⟩] }

/-! ### The command -/

/-- Put the records of one sheaf back: the group begins with a SHEAF record. -/
def State.restoreGroup (s : State) (ctx : Nat) (xs : List ExportRec) (g : List Rec) : State :=
  match g with
  | [] => s
  | r :: rs =>
    let uid := s.ctl.nextId
    let hs := bodiesOf rs 6
    let kept := s.regionFor ctx r.2.2
    let s0 := s.restoreSheaf ctx r.2.2
    match s0.sheaf? uid with
    | none => s0
    | some h =>
      let q := s0.restoreOps h kept hs
      let s2 := (List.range 32).foldl (fun (t : State) (k : Nat) => t.restoreHandle uid r.2.2 hs q.2 xs k) q.1
      let s3 := if kept.isSome then s2 else (bodiesOf rs 7).foldl (fun (t : State) (b : List Byte) => t.restoreLog uid b) s2
      let s4 := if kept.isSome then s3 else (bodiesOf rs 0xD).foldl (fun (t : State) (b : List Byte) => t.restoreSync uid b) s3
      -- the member index, until the stooks are there
      let memb := natAt r.2.2 36 4
      if memb == 0xFFFFFFFF then s4 else s4.modSheaf uid fun h => { h with stook := some (0, memb) }

/-- Split the records of the sheaves into one group for each. -/
def sheafGroups : List Rec → List (List Rec)
  | [] => []
  | r :: rs =>
    match sheafGroups rs with
    | [] => [[r]]
    | g :: gs => if (g.head?.map fun x => x.1) == some 5 then [r] :: g :: gs else (r :: g) :: gs

/-- Barrier words and records of peers name the sheaf that holds the word. -/
def State.bindBars (s : State) (h : Sheaf) : Sheaf :=
  let one := fun (b : BarHandle) => if b.own then { b with holder := h.uid } else { b with holder := ((s.member? h b.member).map fun m => m.2.uid).getD 0 }
  { h with bar := h.bar.map one, h := h.h.map fun x => match x with | .bar b => .bar (one b) | x => x }

/-- Give the restored sheaves their scratch images and tiles, in the order of the records. -/
def State.fillSheaves (s : State) (uids : List Nat) (scr acc : List (List Byte)) : State :=
  (uids.foldl (fun (q : State × List (List Byte) × List (List Byte)) (u : Nat) =>
    match q.1.sheaf? u with
    | none => q
    | some h =>
      let saved := Mem.write [] 0 ((q.2.1.headD []).take h.scrBytes)
      let row := fun (b : List Byte) (r : Nat) => some ((List.range 64).map fun c => BitVec.ofNat 32 (natAt b (16 + 256 * r + 4 * c) 4))
      let tiles := (List.range h.mt).map fun k => match q.2.2[k]? with
        | some b => ({ freeTile 0 with rows := (List.range 64).map (row b) } : Tile)
        | none => freeTile 0
      (q.1.putSheaf { (q.1.bindBars h) with saved := saved, tiles := tiles }, q.2.1.tail, q.2.2.drop h.mt)) (s, scr, acc)).1

/-- What a context that is loaded again leaves behind on the device goes first. -/
def State.dropCtx (s : State) (ctx : Nat) : State :=
  { s with
    sheaves := s.sheaves.filter fun h => h.ctx != ctx || h.seqr
    ctxs := s.ctxs.filter fun c => c.id != ctx
    segs := s.segs.filter fun (g : Seg) => g.owner != ctx
    stk := { s.stk with
      stooks := s.stk.stooks.filter fun (k : Stook) => k.ctx != ctx
      subs := s.stk.subs.filter fun (p : Sub) => !(s.sheaves.any fun h => h.ctx == ctx && (h.uid == p.subr || h.uid == p.pubr))
      nests := s.stk.nests.filter fun (n : NestSync) => !(s.job.launches.any fun l => l.ctx == ctx && l.id == n.launch) }
    eng := { s.eng with ops := s.eng.ops.filter fun (o : Op) => o.ctx != ctx }
    flt := { s.flt with log := s.flt.log.filter fun (e : LogEntry) => ((s.sheaf? e.uid).map (·.ctx)) != some ctx
                        refused := s.flt.refused.filter fun (r : PageReq) => r.ctx != ctx }
    mm := { s.mm with chans := s.mm.chans.filter fun (r : ChanReq) => ((s.sheaf? r.uid).map (·.ctx)) != some ctx
                      backs := s.mm.backs.filter fun (r : ChanResp) => ((s.sheaf? r.req.uid).map (·.ctx)) != some ctx }
    job := { s.job with
      mbx := s.job.mbx.filter fun (m : Mbx) => m.ctx != ctx || m.kind == 4 || m.kind == 5
      tasks := s.job.tasks.filter fun (t : Nat × Task) => t.2.ctx != ctx
      launches := s.job.launches.filter fun (l : Launch) => l.ctx != ctx } }

/-- The way mask of a slice (20/R431): every way is cache unless it has been taken out. -/
def State.wayMask (s : State) (slice : Nat) : BitVec 16 := ((s.rep.ways.find? fun w => w.slice == slice).map (·.mask)).getD 0xFFFF

/-- Bytes of a way. -/
def wayBytes : Nat := 4194304

/-- Whether a window lies in slice memory that a context may be granted: ways out of the cache, none device-owned, no other
context's window, the slice in service. -/
def State.winOk (s : State) (ctx : Nat) (w : Window) : Bool :=
  let ws := (List.range 16).filter fun k => meets (k * wayBytes) wayBytes w.base (w.kib * 1024)
  decide (w.slice < nSlices) && decide (w.base + w.kib * 1024 ≤ 2 ^ 26) && ws.all (fun k => !(s.wayMask w.slice).getLsbD k) &&
  !(w.slice % 8 == 0 && ws.contains 15) && !s.partDown 3 w.slice &&
  !(s.ctxs.any fun c => c.id != ctx && c.live && c.win.any fun x => x.slice == w.slice && meets x.base (x.kib * 1024) w.base (w.kib * 1024))

/-- The segments a grant bitmap names. -/
def grantsOf (b : List Byte) : List Nat := (List.range (8 * b.length)).filter fun k => (byteAt b (k / 8)).getLsbD (k % 8)

/-- The capabilities of code that the image's sheaves are in: the PC of each path and stack entry, and TRAPE in a handler. -/
def capsIn (b : List Byte) : List (Nat × Nat) :=
  (natAt b 72 2, natAt b 74 1) :: (List.range (natAt b 144 4)).map fun k =>
    let c : DWord := BitVec.ofNat 64 (natAt b (1088 + 160 * k) 8)
    ((capSeg c).toNat, (capGen c).toNat)

/-- Status 0x05: an index that is not free, or a granted segment that is absent at the GEN the image uses. -/
def State.segsBad (s : State) (rs : List Rec) (grants : List Nat) : Bool :=
  let mine := (rs.filter fun r => r.1 == 2).map fun r => r.2.1
  (mine.any fun i => ((s.seg? i).map fun g => g.state != .free).getD false) ||
  (grants.any fun i => !mine.contains i && match s.seg? i with
    | none => true
    | some g => g.state == .free || ((bodiesOf rs 5).flatMap capsIn).any fun p => p.1 == i && p.2 != g.gen.toNat)

/-- Status 0x06: the root, the tensor table, the fault mailbox or a window cannot be reached. -/
def State.ctxBad (s : State) (c : Ctx) : Bool :=
  !s.assigned false c.ptroot ||
  (match s.walked c c.tdbase with | .page _ => false | _ => true) ||
  !(c.win.all (s.winOk c.id)) ||
  (s.slmPos c.id c.fmbx 128).isNone

/-- Restore a checked image. -/
def State.restore (s : State) (rs : List Rec) (c : Ctx) : State :=
  let first := s.ctl.nextId
  let of := fun (ty : Nat) => rs.filter fun r => r.1 == ty
  let s1 := (of 2).foldl (fun (t : State) (r : Rec) => t.restoreSeg c.id r.2.1 r.2.2) s
  let s2x := (of 3).foldl (fun (t : State) (r : Rec) => t.restoreLaunch c.id r.2.1 rs r.2.2) s1
  let s2 := (taskLns c.id rs).foldl (fun (t : State) (ln : Nat) => t.restoreDone c.id rs ln) s2x
  let xs := (of 0xC).map exportRec
  let gs := sheafGroups (rs.filter fun r => recRank r.1 == some 4)
  let s3 := gs.foldl (fun (t : State) (g : List Rec) => t.restoreGroup c.id xs g) s2
  let uids := (s3.sheaves.filter fun h => first ≤ h.uid && h.ctx == c.id).map (·.uid)
  let s4 := (of 4).foldl (fun (t : State) (r : Rec) => t.restoreStook c.id first r.2.2) s3
  let s5 := s4.fillSheaves uids (bodiesOf rs 8) (bodiesOf rs 9)
  let s6 := (of 0xA).foldl (fun (t : State) (r : Rec) => t.restoreSub c.id r.2.1 first r.2.2) s5
  let s7 := (of 0xB).foldl (fun (t : State) (r : Rec) => t.restoreSlm c r.2.1 r.2.2) s6
  let s7x := xs.foldl (fun (t : State) (x : ExportRec) => t.restoreExport c.id first x) s7
  let s8 := (uids.zip (bodiesOf rs 5)).foldl (fun (t : State) (p : Nat × List Byte) =>
    (List.range 32).foldl (fun (u : State) (k : Nat) => u.bindHandle ((u.ctx? c.id).getD c) p.1 p.2 k) t) s7x
  let tk := (s8.sheavesIn c.id).filter fun h => h.task && h.sstks != 0
  let slots := tk.map fun h => ((h.sstk.toNat - c.tstk.toNat) / max 1 c.tstks, h.uid)
  let slotOf := fun (h : Sheaf) => match slots.find? fun p => p.2 == h.uid with | some p => { h with taskSlot := some p.1 } | none => h
  let s9 : State := { s8 with sheaves := s8.sheaves.map slotOf }
  s9.modCtx c.id fun x => { x with tasks := slots }

/-- CTXLOAD (17/R398). -/
def execCtxload (c : Cmd) (s : State) : Out :=
  .next (s.takeCmd 3 c fun r s =>
    match imageRecs (s.backRead false c.a.toNat c.b.toNat) with
    | none => s.cmdStatus r 3
    | some rs =>
      let x := ctxOf ((bodiesOf rs 1).headD []) s.ctl.time
      let same := s.ctxs.any fun y => y.live && y.id == x.id && y.stopped
      let s0 := if same then s.dropCtx x.id else s
      if s0.ctxs.any fun y => y.live && (y.asid == x.asid || y.id == x.id) then s.cmdStatus r 4
      else
        let old := s.ctxs.find? fun y => y.live && y.id == x.id
        let known := { x with objs := (old.map (·.objs)).getD [], resolver := (old.map (·.resolver)).getD 0 }
        let s1 : State := { s0 with ctxs := s0.ctxs ++ [known] }
        let g := s1.globBytes x.id x.sgrantVa 8192
        let grants := grantsOf (g.2.getD [])
        if g.1.segsBad rs grants then s.cmdStatus r 5
        else if g.1.ctxBad x then s.cmdStatus r 6
        else (g.1.modCtx x.id fun y => { y with sgrant := grants }).restore rs x)

end Sys2Proof.Machine
end

