-- ==== Sys2Proof/Machine/Loader.lean ====
section
/-! DEFINITION. The loader (16/R346 to R373): the check of an object file, placing and sealing, linkage slots and import
cells, swap, unload, and the segments that become free. -/

namespace Sys2Proof.Machine

/-! ### The object file (16/R346 to R357) -/

/-- A section table entry. -/
structure Sec where
  ty : Nat
  seg : Nat
  off : Nat
  size : Nat
  count : Nat
  align : Nat
  link : Nat
  rsv : Nat
deriving DecidableEq, Repr

/-- Read a section table entry. -/
def secOf (b : List Byte) : Sec :=
  ⟨natAt b 0 2, natAt b 2 2, natAt b 4 4, natAt b 8 4, natAt b 12 4, natAt b 16 4, natAt b 20 4, natAt b 24 8⟩

/-- The section table. -/
def secsOf (f : List Byte) : List Sec := (pieces 32 (natAt f 20 4) (f.drop (natAt f 16 4))).map secOf

/-- The bytes of a section in the file. -/
def Sec.bytes (x : Sec) (f : List Byte) : List Byte := (f.drop x.off).take x.size

/-- Bytes of a record of a section type; 0 for plain bytes. -/
def secRecord (ty : Nat) : Nat :=
  match ty with
  | 2 => 32 | 3 => 40 | 4 => 8 | 5 => 80 | 6 => 8 | 7 => 8 | 8 => 16 | 9 => 16 | 0xA => 40 | 0xD => 16
  | _ => 0

/-- The records of a section. -/
def Sec.recs (x : Sec) (f : List Byte) : List (List Byte) := pieces (secRecord x.ty) x.count (x.bytes f)

/-- The section of a type, for a segment ordinal where it is per segment. -/
def secFor (ss : List Sec) (ty seg : Nat) : Option Sec := ss.find? fun x => x.ty == ty && x.seg == seg

/-- The records of a once-only section. -/
def recsOf (f : List Byte) (ty : Nat) : List (List Byte) := ((secFor (secsOf f) ty 0xFFFF).map fun x => x.recs f).getD []

/-- The segment ordinals of a file. -/
def ordinals (ss : List Sec) : List Nat := (ss.filter fun x => x.ty == 1).map (·.seg)

/-- A name of the STR section. -/
def nameAt (f : List Byte) (off : Nat) : List Byte :=
  match secFor (secsOf f) 0xE 0xFFFF with
  | some x => ((x.bytes f).drop off).takeWhile fun b => b != 0
  | none => []

/-- Whether a string offset lies in STR. -/
def strOk (f : List Byte) (off : Nat) : Bool := ((secFor (secsOf f) 0xE 0xFFFF).map fun x => decide (off < x.size)).getD false

/-- The table's own rules (16/R347 to R349). -/
def secOk (f : List Byte) (n : Nat) (x : Sec) : Bool :=
  1 ≤ x.ty && x.ty ≤ 0x10 && x.off % 4 == 0 && decide (x.off + x.size ≤ f.length) && x.rsv == 0 &&
  ([4, 8, 16, 32, 64, 128, 256, 512, 1024, 2048, 4096, 8192, 16384, 32768, 65536].contains x.align) &&
  (x.link == 0xFFFFFFFF || decide (x.link < n)) && (if x.ty ≤ 4 then decide (x.seg < 16) else x.seg == 0xFFFF) &&
  (secRecord x.ty == 0 || x.size == x.count * secRecord x.ty) &&
  (x.ty != 1 || (x.size % 4 == 0 && decide (x.size ≤ 2 ^ 28) && x.align == 65536)) &&
  (x.ty != 5 || x.align % 16 == 0) && (x.ty != 8 || x.align % 16 == 0)

/-- An entry record's rules (16/R350). -/
def entryOk (f : List Byte) (len : Nat) (b : List Byte) : Bool :=
  let vn := natAt b 4 1
  natAt b 0 4 % 4 == 0 && decide (natAt b 0 4 < len) && vn % 8 == 0 && decide (vn ≤ 128) && decide (natAt b 5 1 ≤ 16) &&
  decide (natAt b 6 2 ≤ 512) && natAt b 8 4 % 4096 == 0 && decide (natAt b 12 1 < 4) && zeroAt b 13 3 && strOk f (natAt b 16 4) &&
  zeroAt b 20 12 && (!(natAt b 12 1).testBit 1 || vn != 0)

/-- The offset of the first SAFE word of an index, 0xFFFFFFFF if there is none; the words of a pool are words of the segment too
(04/R95). -/
def firstSafe (text : List Byte) (i : Nat) : Nat :=
  (((List.range (text.length / 4)).find? fun k =>
    decode (BitVec.ofNat 32 (natAt text (4 * k) 4)) == some (.safe (BitVec.ofNat 21 i))).map fun k => 4 * k).getD 0xFFFFFFFF

/-- A safe-point record's rules (16/R351). -/
def safeOk (text : List Byte) (i : Nat) (b : List Byte) : Bool := zeroAt b 34 6 && natAt b 0 4 == firstSafe text i

/-- A jump-table record's rules (16/R352). -/
def jtabOk (text : List Byte) (b : List Byte) : Bool :=
  let t := natAt b 0 4
  let n := natAt b 4 4
  t % 4 == 0 && decide (t + 4 * (n + 1) ≤ text.length) && natAt text t 4 == n &&
  (List.range n).all fun k =>
    let x : Int := t + 4 * (BitVec.ofNat 32 (natAt text (t + 4 + 4 * k) 4)).toInt
    decide (0 ≤ x) && decide (x < text.length)

/-- The rules of one segment's sections. -/
def segOk (f : List Byte) (ss : List Sec) (seg : Nat) : Bool :=
  match secFor ss 1 seg, secFor ss 2 seg, secFor ss 3 seg, secFor ss 4 seg with
  | some t, some e, some p, some j =>
    let text := t.bytes f
    decide (e.count ≤ 32767) && decide (p.count ≤ 2 ^ 21) && (e.recs f).all (entryOk f t.size) &&
    ((p.recs f).zipIdx.all fun r => safeOk text r.2 r.1) && (j.recs f).all (jtabOk text)
  | _, _, _, _ => false

/-- Whether the section a symbol names fits its KIND (16/R355; log entry 45): code labels and entries lie in TEXT, data labels in DATA or
ZERO, the others in the section of their kind. -/
def kindFits (kind ty : Nat) : Bool :=
  match kind with
  | 1 | 3 => ty == 1
  | 2 => ty == 0xB || ty == 0xC
  | 5 => ty == 5
  | 6 => ty == 8
  | 7 => ty == 0xA
  | _ => false

/-- The bytes of a section as loaded. -/
def Sec.room (x : Sec) : Nat := if x.ty == 0xC then x.count else x.size

/-- The entry index of an entry symbol: the record of its segment at its offset (16/R350, R355). -/
def entryOf (f : List Byte) (ss : List Sec) (y : List Byte) : Option (Nat × Nat) :=
  (ss[natAt y 4 2]?).bind fun x =>
    ((((secFor ss 2 x.seg).map fun e => e.recs f).getD []).findIdx? fun e => natAt e 0 4 == natAt y 8 4).map fun k => (x.seg, k)

/-- A symbol's rules (16/R355): an entry symbol stands at an entry, any other within its section or at its end. -/
def symOk (f : List Byte) (ss : List Sec) (b : List Byte) : Bool :=
  strOk f (natAt b 0 4) && decide (natAt b 7 1 < 2) &&
  if natAt b 6 1 == 4 then natAt b 4 2 == 0xFFFF
  else match ss[natAt b 4 2]? with
    | some x => kindFits (natAt b 6 1) x.ty && decide (natAt b 8 4 ≤ x.room) && (natAt b 6 1 != 3 || (entryOf f ss b).isSome)
    | none => false

/-- A relocation's rules (16/R354). -/
def relocOk (f : List Byte) (ss : List Sec) (b : List Byte) : Bool :=
  let syms := recsOf f 0xD
  natAt b 0 4 % 8 == 0 && natAt b 7 1 == 0 &&
  match ss[natAt b 4 2]?, syms[natAt b 8 4]? with
  | some x, some y => (x.ty == 1 || x.ty == 0xB || x.ty == 0xA) && decide (natAt b 0 4 + 8 ≤ x.size) &&
      (natAt b 6 1 == 1 || (natAt b 6 1 == 2 && natAt y 6 1 == 3 && zeroAt b 12 4))
  | _, _ => false

/-- One more byte of UTF-8: how many bytes of the character are still to come, and the bounds of the next one. -/
def utf8Next (q : Option (Nat × Nat × Nat)) (b : Byte) : Option (Nat × Nat × Nat) :=
  q.bind fun c =>
    let x := b.toNat
    let lead := fun (lo hi : Nat) => decide (lo ≤ x) && decide (x ≤ hi)
    if c.1 != 0 then if lead c.2.1 c.2.2 then some (c.1 - 1, 0x80, 0xBF) else none
    else if x < 0x80 then some (0, 0x80, 0xBF)
    else if lead 0xC2 0xDF then some (1, 0x80, 0xBF)
    else if x == 0xE0 then some (2, 0xA0, 0xBF)
    else if x == 0xED then some (2, 0x80, 0x9F)
    else if lead 0xE1 0xEF then some (2, 0x80, 0xBF)
    else if x == 0xF0 then some (3, 0x90, 0xBF)
    else if lead 0xF1 0xF3 then some (3, 0x80, 0xBF)
    else if x == 0xF4 then some (3, 0x80, 0x8F)
    else none

/-- Whether bytes are UTF-8. -/
def utf8Ok (bs : List Byte) : Bool := ((bs.foldl utf8Next (some (0, 0x80, 0xBF))).map fun c => c.1 == 0).getD false

/-- Whether the reserved fields of a nest descriptor are zero (14/R326); what makes it invalid otherwise a launch finds. -/
def nestOk (d : List Byte) : Bool :=
  zeroAt d 2 14 && (List.range 4).all fun k =>
    decide (natAt d (16 + 16 * k) 1 < 128) && zeroAt d (17 + 16 * k) 3 && zeroAt d (24 + 16 * k) 8

/-- The rules of the once-only sections (16/R349, R353 to R357). -/
def tablesOk (f : List Byte) (ss : List Sec) : Bool :=
  let imports := recsOf f 7
  (recsOf f 6).all (fun b => strOk f (natAt b 0 4) &&
    ((secFor ss 2 (natAt b 4 2)).map fun e => decide (natAt b 6 2 < e.count)).getD false) &&
  imports.all (fun b => strOk f (natAt b 0 4) && (natAt b 4 4 == 0xFFFFFFFF || strOk f (natAt b 4 4))) &&
  (recsOf f 8).all (fun b => zeroAt b 0 8 && decide (natAt b 8 4 < imports.length) && decide (natAt b 12 1 < 2) && zeroAt b 13 3) &&
  (recsOf f 9).all (relocOk f ss) && (recsOf f 5).all nestOk && (recsOf f 0xA).all (fun b => zeroAt b 1 7 && decide (natAt b 39 1 < 32)) &&
  (recsOf f 0xD).all (symOk f ss) &&
  (match secFor ss 0xE 0xFFFF with
    | some x => utf8Ok (x.bytes f) && zeroAt (x.bytes f) 0 1 && ((x.bytes f).getLast?.map fun b => b == 0).getD false
    | none => true)

/-- The portable form's digest (16/R356). -/
def portOk (f : List Byte) (ss : List Sec) : Bool :=
  match secFor ss 0xF 0xFFFF with
  | none => true
  | some x =>
    let b := x.bytes f
    let n := natAt b 8 4
    let rs := pieces 16 n (b.drop 80)
    b.take 4 == [0x55, 0x4C, 0x55, 0x00] && zeroAt b 12 4 && decide (80 + 16 * n ≤ b.length) &&
    rs.all (fun r => zeroAt r 12 4 && decide (80 + 16 * n ≤ natAt r 4 4) && decide (natAt r 4 4 + natAt r 8 4 ≤ b.length) &&
      ((secFor ss 2 (natAt r 0 2)).map fun e => decide (natAt r 2 2 < e.count)).getD false) &&
    (b.drop 16).take 64 == sha512 (rs.flatMap fun r => (b.drop (natAt r 4 4)).take (natAt r 8 4))

/-- The signature block's layout (16/R357). -/
def sigOk (f : List Byte) (ss : List Sec) : Bool :=
  match secFor ss 0x10 0xFFFF with
  | none => true
  | some x =>
    let b := x.bytes f
    natAt b 0 2 == 1 && zeroAt b 2 2 && zeroAt b 140 4 && natAt b 4 4 + 144 == x.size && f.length == x.off + x.size

/-- The whole check of a file (16/R346 to R357): false is BADFMT. -/
def fileOk (f : List Byte) : Bool :=
  let n := natAt f 20 4
  let ss := secsOf f
  let os := ordinals ss
  let once := fun (ty : Nat) => decide ((ss.filter fun x => x.ty == ty).length ≤ 1)
  decide (32 ≤ f.length) && f.take 4 == [0x48, 0x4F, 0x46, 0x00] && natAt f 4 2 == 1 && decide (natAt f 6 2 < 4) &&
  natAt f 8 4 == 0x10000 && natAt f 12 4 == f.length && natAt f 16 4 % 32 == 0 && decide (1 ≤ n) && decide (n ≤ 4096) &&
  zeroAt f 28 4 && decide (natAt f 16 4 + 32 * n ≤ f.length) && ss.all (secOk f n) &&
  decide (1 ≤ os.length) && decide (os.length ≤ 16) && decide os.Nodup &&
  ([1, 2, 3, 4].all fun ty => ((ss.filter fun x => x.ty == ty).length == os.length)) && os.all (segOk f ss) &&
  ([5, 6, 7, 8, 9, 0xA, 0xB, 0xC, 0xD, 0xE, 0xF, 0x10].all once) && strOk f (natAt f 24 4) && tablesOk f ss &&
  ((natAt f 6 2).testBit 0 == (secFor ss 0x10 0xFFFF).isSome) && ((natAt f 6 2).testBit 1 == (secFor ss 0xF 0xFFFF).isSome) &&
  portOk f ss && sigOk f ss

/-- Whether the signature policy refuses a file (16/R357). -/
def sigBad (f : List Byte) (need : Bool) : Bool :=
  match secFor (secsOf f) 0x10 0xFFFF with
  | none => need
  | some x => !signatureOk (f.take x.off) (x.bytes f)

/-! ### Memory as the loader writes it -/

/-- The pages of a range. -/
def pageVas (va n : Nat) : List Nat := (pagesOf va n).map fun p => p * 65536

/-- Take a page out of every cache: lines written back, translations and copies gone. -/
def State.flushPage (s : State) (asid va : Nat) : State :=
  let f := s.flushLines fun h => h.asid == asid && h.line / 512 == va / 65536
  { f.1 with mm := { f.1.mm with tlb := f.1.mm.tlb.filter fun t => !(t.asid == asid && t.page ≤ va / 65536 && va / 65536 < t.page + t.n) } }

/-- Set R, W and X of the page of an address; none where it is not mapped (log entry 45). -/
def State.setPerm (s : State) (c : Ctx) (va : Nat) (r w x : Bool) : Option State :=
  match s.walked c va with
  | .page t =>
    let b := s.mm.pool.get t.pte
    let p : Byte := (b &&& 0xE3) ||| BitVec.ofNat 8 (4 * bitNat r + 8 * bitNat w + 16 * bitNat x)
    some (({ s with mm := { s.mm with pool := s.mm.pool.put t.pte p } } : State).flushPage t.asid va)
  | _ => none

/-- Set the permissions of the pages of a text section; one that is not present may be mapped later (18/R402). -/
def State.sealText (s : State) (c : Ctx) (va : Nat) (bs : List Byte) : State :=
  ((pageVas va bs.length).foldl (fun (t : State) (p : Nat) => (t.setPerm c p false false true).getD t) s) |> fun t =>
    bs.zipIdx.foldl (fun (u : State) (b : Byte × Nat) => match u.walked c (va + b.2) with
      | .page x => u.backWrite x.hm (x.paOf (va + b.2)) [b.1]
      | _ => u) t

/-- Place bytes at an address of a context in pages of some permissions. -/
def State.placeBytes (s : State) (c : Ctx) (va : Nat) (bs : List Byte) (r w x : Bool) : Option State :=
  ((pageVas va bs.length).foldl (fun (q : Option State) (p : Nat) => q.bind fun t => t.setPerm c p r w x) (some s)).map fun t =>
    bs.zipIdx.foldl (fun (u : State) (b : Byte × Nat) => match u.walked c (va + b.2) with
      | .page x => u.backWrite x.hm (x.paOf (va + b.2)) [b.1]
      | _ => u) t

/-- An 8-byte store of the loader, single-copy atomic, at its home. -/
def State.loaderStore (s : State) (ctx va : Nat) (x : DWord) : State :=
  match s.homeOf ctx va .write with
  | (s1, .ok h) => (s1.homeWrite ctx nCores 0 h (va % 128) (bvLe x 8)).1
  | (s1, _) => s1

/-- Read 8 bytes for the loader. -/
def State.loaderRead (s : State) (ctx va : Nat) : DWord :=
  match s.homeOf ctx va .read with
  | (_, .ok h) => BitVec.ofNat 64 (leNat (lineBytes h.data (va % 128) 8))
  | _ => 0

/-! ### Loading (16/R363) -/

/-- Answer the host's loader request. -/
def State.loadAnswer (s : State) (status : String) (bytes : List Byte) : State :=
  { s with rep := { s.rep with msgs := s.rep.msgs ++ [.answer status bytes] } }

/-- The lowest free segment index below a bound, and the GEN it takes. -/
def State.freeSeg (s : State) (used : List Nat) : Option (Nat × BitVec 8) :=
  ((List.range 65536).find? fun i => !used.contains i && match s.seg? i with
    | some g => g.state == .free && g.gen != 255
    | none => true).map fun i => (i, ((s.seg? i).map (·.gen)).getD 0 + 1)

/-- Indices for the segments of a file, in ordinal order. -/
def State.allotSegs (s : State) : List Nat → List Nat → Option (List (Nat × Nat × BitVec 8))
  | [], _ => some []
  | o :: os, used =>
    (s.freeSeg used).bind fun x => (State.allotSegs s os (x.1 :: used)).map fun r => (o, x.1, x.2) :: r

/-- The capability of an entry of a file's segment. -/
def capFor (segs : List (Nat × Nat × BitVec 8)) (ord ent : Nat) : DWord :=
  match segs.find? fun x => x.1 == ord with
  | some x => entryCap (BitVec.ofNat 16 x.2.1) x.2.2 (BitVec.ofNat 15 ent)
  | none => 0

/-- The value a relocation stores (16/R354, R355). -/
def relocValue (f : List Byte) (ss : List Sec) (place : List Nat) (segs : List (Nat × Nat × BitVec 8)) (b : List Byte) : DWord :=
  let y := ((recsOf f 0xD)[natAt b 8 4]?).getD []
  let sec := natAt y 4 2
  if natAt b 6 1 == 2 then
    match entryOf f ss y with
    | some e => capFor segs e.1 e.2
    | none => 0
  else
    let base := if sec == 0xFFFF then 0 else place.getD sec 0
    BitVec.ofNat 64 (base + natAt y 8 4) + (BitVec.ofNat 32 (natAt b 12 4)).signExtend 64

/-- Bytes with 8 of them replaced. -/
def patch8 (bs : List Byte) (off : Nat) (x : DWord) : List Byte := bs.take off ++ bvLe x 8 ++ bs.drop (off + 8)

/-- A section's bytes with its relocations applied. -/
def relocated (f : List Byte) (ss : List Sec) (place : List Nat) (segs : List (Nat × Nat × BitVec 8)) (k : Nat) : List Byte :=
  match ss[k]? with
  | none => []
  | some x => ((recsOf f 9).filter fun b => natAt b 4 2 == k).foldl
      (fun (bs : List Byte) (b : List Byte) => patch8 bs (natAt b 0 4) (relocValue f ss place segs b)) (x.bytes f)

/-- The key of an import cell: name and exporter, none for any (16/R367). -/
def importKey (f : List Byte) (b : List Byte) : List Byte :=
  nameAt f (natAt b 0 4) ++ [0] ++ if natAt b 4 4 == 0xFFFFFFFF then [] else nameAt f (natAt b 4 4)

/-- Whether an export of an object answers a cell. -/
def answers (key objName name : List Byte) : Bool := key == name ++ [0] || key == name ++ [0] ++ objName

/-- The capability a loaded object of a context exports for a cell, 0 for none. -/
def exportFor (objs : List Obj) (key : List Byte) : DWord :=
  (objs.findSome? fun o => (o.exports.find? fun e => answers key o.name e.1).map (·.2)).getD 0

/-- The cells a load uses: the key, its address, and whether it is new; new ones take the addresses after the sections'. -/
def cellsFor (objs : List Obj) (keys : List (List Byte)) (spare : List Nat) : List (List Byte × Nat × Bool) :=
  (keys.foldl (fun (q : List (List Byte × Nat × Bool) × List Nat) (k : List Byte) =>
    match objs.findSome? fun o => (o.cells.find? fun c => c.1 == k).map (·.2) with
    | some va => (q.1 ++ [(k, va, false)], q.2)
    | none => (q.1 ++ [(k, q.2.headD 0, true)], q.2.tail)) ([], spare)).1

/-- Where the sections go: as asked, but that ZERO follows DATA (16/R349). -/
def placing (ss : List Sec) (place : List Nat) : List Nat :=
  place.zipIdx.map fun p => match ss[p.2]?, ss.findIdx? fun x => x.ty == 0xB with
    | some z, some d =>
      if z.ty == 0xC then
        let top := place.getD d 0 + ((ss[d]?.map (·.size)).getD 0)
        (top + z.align - 1) / z.align * z.align
      else p.1
    | _, _ => p.1

/-- The permissions of a section's pages: 1 executes only, 2 reads only, 3 reads and writes; 0 is placed nowhere. -/
def Sec.perm (x : Sec) : Nat :=
  match x.ty with
  | 1 => 1
  | 2 | 3 | 5 => 2
  | 8 | 0xB | 0xC => 3
  | _ => 0

/-- The pages that a file's sections and new cells take, each with its permissions. -/
def pagesTaken (ss : List Sec) (place spare : List Nat) : List (Nat × Nat) :=
  ((ss.zip place).flatMap fun p => if p.1.perm == 0 then [] else (pageVas p.2 (if p.1.ty == 0xC then p.1.count else p.1.size)).map fun v => (v / 65536, p.1.perm)) ++
    spare.map fun v => (v / 65536, 3)

/-- Whether pages of different permissions are kept apart, and apart from the segments the context has. -/
def State.pagesFree (s : State) (c : Ctx) (ps : List (Nat × Nat)) : Bool :=
  (ps.all fun p => ps.all fun q => p.1 != q.1 || p.2 == q.2) &&
  !(s.segs.any fun g => g.owner == c.id && g.state != .free && (pageVas g.base g.len).any fun v => ps.any fun p => p.1 == v / 65536)

/-- Place every section of a file (step 3, with the relocations of step 4). -/
def State.placeSecs (s : State) (c : Ctx) (f : List Byte) (ss : List Sec) (place : List Nat) (segs : List (Nat × Nat × BitVec 8)) :
    Option State :=
  (List.range ss.length).foldl (fun (q : Option State) (k : Nat) => q.bind fun t =>
    match ss[k]? with
    | none => some t
    | some x =>
      let va := place.getD k 0
      let bs := relocated f ss place segs k
      if x.ty ≤ 8 && x.ty != 4 && x.ty != 6 && x.ty != 7 || x.ty == 0xB || x.ty == 0xC then
        if va % x.align != 0 || 2 ^ 57 ≤ va then none
        else if x.ty == 1 then some (t.sealText c va bs)
        else if x.ty == 2 || x.ty == 3 || x.ty == 5 then t.placeBytes c va bs true false false
        else if x.ty == 0xC then t.placeBytes c va (List.replicate x.count 0) true true false
        else t.placeBytes c va bs true true false
      else some t) (some s)

/-- The segment table entry of a loaded segment. -/
def segFor (f : List Byte) (ss : List Sec) (place : List Nat) (ctx : Nat) (x : Nat × Nat × BitVec 8) : Seg :=
  let at_ := fun (ty : Nat) => place.getD ((ss.findIdx? fun y => y.ty == ty && y.seg == x.1).getD 0) 0
  { idx := x.2.1, base := at_ 1, len := ((secFor ss 1 x.1).map (·.size)).getD 0, gen := x.2.2, state := .live, owner := ctx
    elistVa := at_ 2, sptVa := at_ 3
    elist := (((secFor ss 2 x.1).map fun e => e.recs f).getD []).map entryRec
    spt := (((secFor ss 3 x.1).map fun e => e.recs f).getD []).map safeRec }

/-- Whether a file has a lazy slot. -/
def hasLazy (f : List Byte) : Bool := (recsOf f 8).any fun b => natAt b 12 1 == 0

/-- What a load comes to: the state with the object loaded and the SEG and GEN of each segment, or the status of the step that
failed, with every earlier one undone. -/
abbrev Loaded := Except String (State × List (Nat × Nat × BitVec 8))

/-- The import cell of a LINK record: its key, its address, and whether it is new. -/
def cellOf (f : List Byte) (cells : List (List Byte × Nat × Bool)) (b : List Byte) : Option (List Byte × Nat × Bool) :=
  ((recsOf f 7)[natAt b 8 4]?).bind fun i => cells.find? fun (x : List Byte × Nat × Bool) => x.1 == importKey f i

/-- TARGET of an import cell (16/R367): of a new one the capability its name resolves to, of another what it holds. -/
def State.cellTarget (s : State) (c : Ctx) (x : List Byte × Nat × Bool) : DWord :=
  if x.2.2 then exportFor c.objs x.1 else s.loaderRead c.id x.2.1

/-- Store the capabilities of an object's exports into the cells that name them and hold 0 (16/R363 step 8). -/
def State.bindCells (s : State) (ctx : Nat) (objs : List Obj) (name : List Byte) (exps : List (List Byte × DWord)) : State :=
  exps.foldl (fun (t : State) (e : List Byte × DWord) => ((objs.flatMap fun o => o.cells).filter fun x => answers x.1 name e.1).foldl
    (fun (u : State) (x : List Byte × Nat) => if u.loaderRead ctx x.2 == 0 then u.loaderStore ctx x.2 e.2 else u) t) s

/-- Steps 6 to 8 on a file whose sections and tensor images are placed: `cells` are its import cells, `res` the capability that
lazy slots receive. -/
def State.linkFile (s : State) (r : LoadReq) (c : Ctx) (place : List Nat) (segs : List (Nat × Nat × BitVec 8))
    (cells : List (List Byte × Nat × Bool)) (tix : List Nat) (res : DWord) : Loaded :=
  let f := r.file
  let ss := secsOf f
  let name := nameAt f (natAt f 24 4)
  let links := recsOf f 8
  let slotVa := place.getD ((ss.findIdx? fun x => x.ty == 8).getD ss.length) 0
  let cellVa := fun (b : List Byte) => ((cellOf f cells b).map fun (x : List Byte × Nat × Bool) => x.2.1).getD 0
  let newCell := fun (q : Option State) (x : List Byte × Nat × Bool) => q.bind fun t =>
    if x.2.2 then t.placeBytes c x.2.1 (bvLe (exportFor c.objs x.1) 8 ++ natLe 8 0) true true false else some t
  match cells.foldl newCell (some s) with
  | none => .error "NOMEM"
  | some s2 =>
    let putSlot := fun (t : State) (b : List Byte × Nat) =>
      let va := slotVa + 16 * b.2
      let cap := if natAt b.1 12 1 == 1 then ((cellOf f cells b.1).map (s.cellTarget c)).getD 0 else res
      (t.loaderStore c.id va cap).loaderStore c.id (va + 8) (BitVec.ofNat 64 (cellVa b.1))
    let s4 := links.zipIdx.foldl putSlot s2
    let exps := (recsOf f 6).map fun b => (nameAt f (natAt b 0 4), capFor segs (natAt b 4 2) (natAt b 6 2))
    let mine : Obj := {
      id := s4.ctl.nextId, name := name, segs := segs.map fun x => x.2.1, exports := exps
      slots := links.zipIdx.map fun b => (slotVa + 16 * b.2, cellVa b.1)
      cells := cells.map fun x => (x.1, x.2.1), tensors := tix, old := [] }
    let join := fun (o : Obj) => if o.name == name then { o with
        segs := o.segs ++ mine.segs, exports := o.exports ++ exps, slots := o.slots ++ mine.slots
        cells := o.cells ++ mine.cells, tensors := o.tensors ++ tix } else o
    let objs := if r.swap then c.objs.map join else c.objs ++ [mine]
    let keep := s4.segs.filter fun (g : Seg) => !segs.any fun x => x.2.1 == g.idx
    let s5 : State := { s4 with segs := keep ++ segs.map (segFor f ss place c.id) }
    .ok (((s5.modCtx c.id fun x => { x with objs := objs }).fresh 1).bindCells c.id objs name exps, segs)

/-- Steps 2 to 8 on a file that has passed its check, beside segment indices and pages that an object being loaded has taken. `res`
finds the capability that lazy slots receive, at step 6: it may load the resolver. -/
def State.loadFile (s : State) (r : LoadReq) (c : Ctx) (used : List Nat) (taken : List (Nat × Nat))
    (res : State → List Nat → List (Nat × Nat) → Except String (State × DWord)) : Loaded :=
  let f := r.file
  let ss := secsOf f
  let place := placing ss r.place
  match s.allotSegs (ordinals ss) used with
  | none => .error "NOSEG"
  | some segs =>
    let cells := cellsFor c.objs ((recsOf f 7).map (importKey f)).dedup (r.place.drop ss.length)
    let pages := pagesTaken ss place ((cells.filter fun x => x.2.2).map fun x => x.2.1)
    if !s.pagesFree c (pages ++ taken) || pages.any fun p => taken.any fun q => p.1 == q.1 then .error "NOMEM"
    else match s.placeSecs c f ss place segs with
    | none => .error "NOMEM"
    | some s1 =>
      let tk := (ss.findIdx? fun x => x.ty == 0xA).getD ss.length
      let ts := pieces 40 ((ss[tk]?.map (·.count)).getD 0) (relocated f ss place segs tk)
      let tix := ts.map fun t => natAt t 0 1
      let others := c.objs.filter fun o => o.name != nameAt f (natAt f 24 4)
      if others.any fun o => o.tensors.any fun i => tix.contains i then .error "TDCONF"
      else
        let putTensor := fun (t : State) (b : List Byte) => (List.range 4).foldl (fun (u : State) (k : Nat) =>
          u.loaderStore c.id (c.tdbase + 32 * natAt b 0 1 + 8 * k) (BitVec.ofNat 64 (natAt b (8 + 8 * k) 8))) t
        let s2 := ts.foldl putTensor s1
        if (recsOf f 8).any fun b => natAt b 12 1 == 1 && ((cellOf f cells b).map (s2.cellTarget c)).getD 0 == 0 then .error "UNRESOLVED"
        else match if hasLazy f then res s2 (used ++ segs.map fun x => x.2.1) (taken ++ pages) else .ok (s2, 0) with
          | .error e => .error e
          | .ok (s3, cap) => s3.linkFile r ((s3.ctx? c.id).getD c) place segs cells tix cap

/-- Step 1: what is wrong with a file, if anything. -/
def badFile (r : LoadReq) (c : Ctx) : Option String :=
  let dup := c.objs.any fun o => o.name == nameAt r.file (natAt r.file 24 4)
  if !fileOk r.file then some "BADFMT"
  else if sigBad r.file r.needSig then some "BADSIG"
  else if dup != r.swap then some "DUPNAME"
  else none

/-- The resolver's words (16/R369, 18 "The resolver"). -/
def resolverWords : List Word :=
  [0xFE000008, 0x84830014, 0xFC190000, 0x84840018, 0x20C72088, 0x09E0000B, 0xFC1A0000, 0x8C840014, 0xC0700000, 0x84848018,
   0x20E72090, 0x20E7A298, 0x20C71C78, 0x0AEFFFF5, 0x19800000, 0x1A000000, 0x00400100]

/-- Whether a file is the loader's resolver object: its first segment holds the resolver's words, entered at the first. -/
def resolverOk (f : List Byte) : Bool :=
  match secFor (secsOf f) 1 0, secFor (secsOf f) 2 0 with
  | some t, some e => t.bytes f == (resolverWords.flatMap fun w => bvLe w 4) && ((e.recs f).head?.map fun b => natAt b 0 4) == some 0
  | _, _ => false

/-- Step 6: the capability of the context's resolver entry. A context without a resolver segment first gets the loader's own object,
whose first entry it is (log entry 45). -/
def State.resolverFor (r : LoadReq) (ctx : Nat) (s : State) (used : List Nat) (taken : List (Nat × Nat)) : Except String (State × DWord) :=
  match s.ctx? ctx with
  | none => .error "UNRESOLVED"
  | some c =>
    if (s.checkEntry ctx c.resolver [.live]).isSome then .ok (s, c.resolver)
    else
      let r1 : LoadReq := { r with file := r.rslv, place := r.rslvPlace, swap := false }
      match badFile r1 c with
      | some e => .error e
      | none =>
        if !resolverOk r.rslv then .error "BADFMT"
        else match s.loadFile r1 c used taken fun _ _ _ => .error "UNRESOLVED" with
          | .error e => .error e
          | .ok (t, segs) =>
            let cap := capFor segs 0 0
            .ok (t.modCtx ctx fun x => { x with resolver := cap }, cap)

/-- A file through all its steps. -/
def State.loadObject (s : State) (r : LoadReq) (c : Ctx) : Loaded :=
  match badFile r c with
  | some e => .error e
  | none => s.loadFile r c [] [] (State.resolverFor r r.ctx)

/-- SEGMENT_LOAD (16/R363). -/
def execSegmentLoad (r : LoadReq) (s : State) : Out :=
  .next (match s.ctx? r.ctx with
    | none => s
    | some c =>
      match s.loadObject r c with
      | .error e => s.loadAnswer e []
      | .ok (u, segs) => u.loadAnswer "OK" (segs.flatMap fun x => natLe 2 x.2.1 ++ bvLe x.2.2 1))

/-! ### Free segments (16/R366) -/

/-- Unmap a page: the leaf is no longer present. -/
def State.unmapPage (s : State) (c : Ctx) (va : Nat) : State :=
  match s.walked c va with
  | .page t => (({ s with mm := { s.mm with pool := s.mm.pool.put t.pte (s.mm.pool.get t.pte &&& 0xFE) } } : State).flushPage t.asid va)
  | _ => s

/-- Unmap a segment's pages. -/
def State.unmapSeg (s : State) (g : Seg) : State :=
  match s.ctx? g.owner with
  | none => s
  | some c => (pageVas g.base g.len).foldl (fun (t : State) (p : Nat) => t.unmapPage c p) s

/-- Change a segment's STATE. -/
def State.setSeg (s : State) (idx : Nat) (st : SegState) : State :=
  { s with segs := s.segs.map fun g => if g.idx == idx then { g with state := st } else g }

/-- A segment's index can be used again; no object holds it any more. -/
def State.freeIdx (s : State) (idx : Nat) : State :=
  let drop := fun (o : Obj) => { o with old := o.old.filter fun i => i != idx }
  ({ s with ctxs := s.ctxs.map fun c => { c with objs := c.objs.map drop } } : State).setSeg idx .free

/-- A segment becomes free: its pages are unmapped and its index can be used again. -/
def State.freeSegment (s : State) (g : Seg) : State := (s.unmapSeg g).freeIdx g.idx

/-- Retired and revoked segments whose REFC is 0 become free (16/R366). -/
def State.sweepSegs (s : State) : State :=
  (s.segs.filter fun (g : Seg) => (g.state == .retired || g.state == .revoked) && s.refc g == 0).foldl
    (fun (t : State) (g : Seg) => if g.state == .revoked then t.freeIdx g.idx else t.freeSegment g) s

/-! ### Swap and unload -/

/-- The new capability of an old one's export (16/R370): the export of the same name in the new segment. -/
def swapped (o : Obj) (cap : DWord) (new : Nat) : Option DWord :=
  (o.exports.find? fun e => e.2 == cap).bind fun e =>
    (o.exports.find? fun x => x.1 == e.1 && (capSeg x.2).toNat == new).map (·.2)

/-- SEGMENT_RETIRE (16/R370): cells, then slots, then the old segment's STATE. It is one step of the device, whole and indivisible. -/
def execSegmentRetire (ctx old new : Nat) (s : State) : Out :=
  .next (match s.ctx? ctx, s.seg? old, s.seg? new with
    | some c, some o, some n =>
      match c.objs.find? fun x => x.segs.contains old && x.segs.contains new with
      | none => s
      | some ob =>
        if o.state != .live || n.state != .live || o.owner != ctx then s
        else
          let hits := (c.objs.flatMap fun x => x.cells).dedup.filterMap fun x =>
            let t := s.loaderRead ctx x.2
            if (capSeg t).toNat == old && capGen t == o.gen then (swapped ob t new).map fun y => (x.2, y) else none
          let s1 := hits.foldl (fun (t : State) (x : Nat × DWord) => t.loaderStore ctx x.1 x.2) s
          let slots := (c.objs.flatMap fun x => x.slots).filterMap fun x => (hits.find? fun h => h.1 == x.2).map fun h => (x.1, h.2)
          let s2 := slots.foldl (fun (t : State) (x : Nat × DWord) => t.loaderStore ctx x.1 x.2) s1
          let only := fun (x : Obj) => if x.id == ob.id then
              { x with
                segs := x.segs.filter fun i => i != old, exports := x.exports.filter fun e => (capSeg e.2).toNat != old
                old := old :: x.old } else x
          ((s2.setSeg old .retired).modCtx ctx fun y => { y with objs := y.objs.map only }).sweepSegs
    | _, _, _ => s)

/-- An object of a context. -/
def State.obj? (s : State) (ctx obj : Nat) : Option (Ctx × Obj) :=
  (s.ctx? ctx).bind fun c => (c.objs.find? fun o => o.id == obj).map fun o => (c, o)

/-- Remove an object: its tensor-table indices are free again. -/
def State.dropObj (s : State) (ctx obj : Nat) : State :=
  s.modCtx ctx fun c => { c with objs := c.objs.filter fun o => o.id != obj }

/-- The segments of an object, those retired included. -/
def State.segsOf (s : State) (o : Obj) : List Seg := ((o.segs ++ o.old).filterMap s.seg?).filter fun g => g.state != .free

/-- The cells and slots of a context that hold a capability of one of some segments become 0: no loaded object exports the name any
more (16/R367, R372; log entry 45). -/
def State.unbind (s : State) (ctx : Nat) (gs : List Seg) : State :=
  let objs := ((s.ctx? ctx).map (·.objs)).getD []
  let mine := fun (x : DWord) => gs.any fun g => (capSeg x).toNat == g.idx && capGen x == g.gen
  (((objs.flatMap fun x => x.cells.map (·.2) ++ x.slots.map (·.1)).dedup).filter fun va => mine (s.loaderRead ctx va)).foldl
    (fun (t : State) (va : Nat) => t.loaderStore ctx va 0) s

/-- UNLOAD (16/R372): every segment free, or BUSY and nothing changes. -/
def execUnload (ctx obj : Nat) (s : State) : Out :=
  .next (match s.obj? ctx obj with
    | none => s
    | some (_, o) =>
      let gs := s.segsOf o
      if gs.all fun g => (g.state == .live || g.state == .retired) && s.refc g == 0 then
        ((gs.foldl (fun (t : State) (g : Seg) => t.freeSegment g) (s.unbind ctx gs)).dropObj ctx obj).loadAnswer "OK" []
      else s.loadAnswer "BUSY" [])

/-- The slots of an object, and its import cells that no other loaded object shares (16/R367). -/
def Ctx.ownLinks (c : Ctx) (o : Obj) : List Nat :=
  let shared := (c.objs.filter fun x => x.id != o.id).flatMap fun x => x.cells.map (·.2)
  o.slots.map (·.1) ++ (o.cells.map (·.2)).filter fun va => !shared.contains va

/-- FORCED_UNLOAD (16/R372): revoked, unmapped, slots and cells cleared, tensor indices free. -/
def execForcedUnload (ctx obj : Nat) (s : State) : Out :=
  .next (match s.obj? ctx obj with
    | none => s
    | some (c, o) =>
      let gs := (s.segsOf o).filter fun g => g.state == .live || g.state == .retired
      let s1 := gs.foldl (fun (t : State) (g : Seg) => (t.unmapSeg g).setSeg g.idx .revoked) (s.unbind ctx gs)
      let s2 := (c.ownLinks o).foldl (fun (t : State) (va : Nat) => t.loaderStore ctx va 0) s1
      ((s2.dropObj ctx obj).sweepSegs).loadAnswer "OK" [])

end Sys2Proof.Machine
end

