-- ==== Sys2Proof/Machine/Sequencer.lean ====
section
/-! DEFINITION. Sequencer mode (04/R104 to R106): SEQM as the management controller writes it, and the microword step. -/

namespace Sys2Proof.Machine

/-- Bytes of the microword store, below the allotment of the sheaf. -/
def microStore : Nat := 131072

/-- The context number of a sequencer sheaf: no context has it (04/R106). -/
def noContext : Nat := 2 ^ 32

/-- The sheaf a core runs in sequencer mode (04/R106). The spec gives its v registers and tiles no value: they are free. -/
def seqSheaf (uid core seed : Nat) : Sheaf :=
  let h := Sheaf.start uid 0 ⟨32, 128, 16, 384, 0, 0⟩ noContext ⟨0, 0, 0⟩ (seed + 4096)
  { h with
    core := core, seqr := true, alloc := ⟨128, 384, uid⟩, run := .running
    lanes := h.lanes.map fun l => { l with v := (List.range 128).map fun r => freeWord (seed + 128 * l.lid + r) } }

/-- SEQM as it is read (04/R105). -/
def Seqr.word (q : Seqr) : Word :=
  BitVec.ofNat 32 (bitNat q.en * 2 ^ 31 + bitNat q.flag * 2 ^ 30 + q.link % 16384 * 2 ^ 16 + q.upc % 16384)

/-- The sequencer of a core, as reset leaves it where nothing has been written. -/
def State.seqOf (s : State) (core : Nat) : Seqr := (s.seqr? core).getD ⟨core, false, false, 0, 0, none, 0, none⟩

/-- Put a core's sequencer. -/
def State.putSeqr (s : State) (q : Seqr) : State := { s with seqs := q :: s.seqs.filter fun x => x.core != q.core }

/-- EN is set: the core's earlier sequencer sheaf goes, and a new one starts at UPC. -/
def State.startSeq (s : State) (q : Seqr) : State :=
  let uid := s.ctl.nextId
  let h := seqSheaf uid q.core s.ctl.free
  let s1 : State := { s with
    sheaves := (s.sheaves.filter fun x => !(x.seqr && x.core == q.core)) ++ [h]
    eng := { s.eng with ops := s.eng.ops.filter fun (o : Op) => o.sheaf != q.uid }
    mm := { s.mm with holder := s.mm.holder.filter fun (p : Nat × Nat) => p.1 / 512 != q.core } }
  ((s1.draw (4096 + 16 * 4096)).fresh 1).putSeqr { q with en := true, uid := uid, next := none, chain0 := none }

/-- SEQM_WRITE (04/R105): UPC is written only while EN is 0; EN set starts execution at UPC, EN cleared ends it. -/
def execSeqmWrite (core : Nat) (v : Word) (s : State) : Out :=
  .next (
    let q := s.seqOf core
    let en := v.getLsbD 31
    let q1 : Seqr := { q with
      flag := v.getLsbD 30, link := (v.extractLsb' 16 14).toNat
      upc := if q.en then q.upc else (v.extractLsb' 0 14).toNat }
    if nCores ≤ core then s
    else if en && !q.en then
      if (s.residents core).any fun h => !h.seqr then s else s.startSeq q1
    else if q.en && !en then
      match s.sheaf? q.uid with
      | some h => s.endSeq h fun _ => q1
      | none => s.putSeqr { q1 with en := false, next := none, chain0 := none }
    else s.putSeqr q1)

/-- The microword that follows one at `a` (04/R104). -/
def nextMicro (w : DWord) (a : Nat) (q : Seqr) : Nat :=
  match (w.extractLsb' 62 2).toNat with
  | 0 => (a + 1) % 16384
  | 1 => (w.extractLsb' 48 14).toNat
  | 2 => if q.flag then (w.extractLsb' 48 14).toNat else (a + 1) % 16384
  | _ => q.link

/-- MICROWORD (04/R104, R106): the sequencer fetches the next microword and selects the one after it; the sheaf then
executes its INSN. LINK changes whether or not INSN traps, and bits 47:32 are looked at before INSN is decoded (log entry 77). -/
def execMicroword (core : Nat) (s : State) : Out :=
  .next (match s.seqr? core with
    | none => s
    | some q =>
      match s.sheaf? q.uid with
      | none => s
      | some h =>
        if !q.en || h.fbuf.isSome || !s.canIssue h then s
        else
          let a := q.next.getD q.upc
          let w : DWord := BitVec.ofNat 64 (leNat (s.scrRead (core * scratchSize + 8 * a) 8))
          let q1 : Seqr := { q with
            upc := a, next := some (nextMicro w a q)
            link := if w.extractLsb' 62 2 == 1 then (a + 1) % 16384 else q.link
            chain0 := if h.chain.pc0.isNone then none else q.chain0 }
          let s1 := s.putSeqr q1
          if s.scrBad (core * scratchSize + 8 * a) 8 then s1.decodeTrap h (w.extractLsb' 0 32) 0x12
          else if w.extractLsb' 32 16 != 0 then s1.decodeTrap h (w.extractLsb' 0 32) 2
          else s1.putSheaf { h with fbuf := some (w.extractLsb' 0 32) })

end Sys2Proof.Machine
end

