-- ==== Sys2Proof/Machine/Health.lean ====
section
/-! DEFINITION. Errors in arrays, repair, slice ways, firmware, identity, power and temperature (20/R421 to R437), and the
arithmetic clock (01/R16). Completions of the repair commands are in Command.lean. -/

namespace Sys2Proof.Machine

/-! ### Events and the health register -/

/-- Spare cores left in a cluster, spare slices left in a die (20/R425: 2 and 1). -/
def State.sparesOf (s : State) (core : Bool) (num : Nat) : Nat :=
  (((if core then s.rep.spareCores else s.rep.spareSlices).find? fun (p : Nat × Nat) => p.1 == num).map (·.2)).getD (if core then 2 else 1)

/-- CSP: the fewest spare cores left in any cluster. -/
def State.csp (s : State) : Nat := (List.range 24).foldl (fun (m : Nat) (k : Nat) => min m (s.sparesOf true k)) 2

/-- SSP: the fewest spare slices left in any die. -/
def State.ssp (s : State) : Nat := (List.range 4).foldl (fun (m : Nat) (k : Nat) => min m (s.sparesOf false k)) 1

/-- Mapped-out parts of a kind. -/
def State.outOf (s : State) (kind : Nat) : Nat := (s.rep.out.filter fun p => p.kind == kind).length

/-- The health register (20/R425). -/
def State.health (s : State) : Word :=
  BitVec.ofNat 32 (bitNat s.rep.repl * 2 ^ 31 + bitNat (!s.rep.out.isEmpty) * 2 ^ 30 + bitNat s.rep.runB * 2 ^ 29 +
    bitNat s.rep.fatal * 2 ^ 28 + s.outOf 3 % 16 * 2 ^ 24 + min (s.outOf 1) 255 * 2 ^ 16 + s.csp * 2 ^ 12 + s.ssp * 2 ^ 8)

/-! ### Errors in stored state (20/R421 to R423) -/

/-- The key of a logical slice in the repair map; a core's is its number. -/
def sliceKey (slice : Nat) : Nat := 10000 + slice

/-- The physical core a logical one is bound to, of the 50 of its cluster (20/R427). -/
def State.physCore (s : State) (core : Nat) : Nat :=
  clusterOf core * 50 + (((s.rep.binding.find? fun (p : Nat × Nat) => p.1 == core).map (·.2)).getD (core % 48))

/-- The physical slice a logical one is bound to, of the 25 of its die (20/R427). -/
def State.physSlice (s : State) (slice : Nat) : Nat :=
  slice / 24 * 25 + (((s.rep.binding.find? fun (p : Nat × Nat) => p.1 == sliceKey slice).map (·.2)).getD (slice % 24))

/-- The number of a physical array: its kind (1 L1 data, 2 L1 tags, 3 instruction cache, 4 engine TLB, 5 memory-side TLB, 6 L2
data) and the number of its core, port or slice (log entry 29). -/
def arrayNo (kind unit : Nat) : Nat := kind * 65536 + unit

/-- The number of the L2 data array of a slice. -/
def State.sliceArray (s : State) (slice : Nat) : Nat := arrayNo 6 (s.physSlice slice)

/-- Count a corrected error; the threshold within an hour posts SOFT (20/R422). -/
def State.corrected (s : State) (array : Nat) : State :=
  let mine := s.rep.corrected.filter fun p => p.1 == array && s.ctl.time < p.2 + hourNs
  let s1 : State := { s with rep := { s.rep with corrected := (array, s.ctl.time) :: s.rep.corrected } }
  if mine.length == Config.softThreshold then s1.event 1 none none none (some (BitVec.ofNat 64 array)) else s1

/-- The allotments of the resident sheaves of a context and its windows lose their contents: all of them have been written since
its last CTXSAVE, after which only CTXLOAD brings them back. -/
def State.spoilOwn (s : State) (c : Ctx) : State :=
  let own := s.sheaves.filter fun h => h.ctx == c.id && h.resident && !h.seqr
  let s1 := own.foldl (fun (t : State) (h : Sheaf) => { t.draw h.scrBytes with mm := { t.mm with
    scr := t.mm.scr.write (h.scrAbs 0) (freeBytes t.ctl.free h.scrBytes) } }) s
  c.win.foldl (fun (t : State) (w : Window) => { t.draw (w.kib * 1024) with mm := { t.mm with
    slm := t.mm.slm.write (w.slice * 2 ^ 26 + w.base) (freeBytes t.ctl.free (w.kib * 1024)) } }) s1

/-- FATAL (20/R421, R426): what each context has written since its last CTXSAVE is undefined. -/
def State.fatalError (s : State) (array : Option DWord) : State :=
  let s1 : State := State.event { s with rep := { s.rep with fatal := true } } 0xB none none none array
  let s2 := (s1.ctxs.filter fun (c : Ctx) => c.live).foldl (fun (t : State) (c : Ctx) => t.spoilOwn c) s1
  s2.ctxs.foldl (fun (t : State) (c : Ctx) => c.wrote.foldl (fun (u : State) (line : Nat) =>
    match u.homeOf c.id (line * 128) .any with
    | (u1, .ok h) => (u1.draw 128).modHome h.asid h.line fun x => x.free u1.ctl.free
    | (u1, _) => u1) t) s2

/-- An uncorrectable error of a sheaf's own registers or log halts it, its trap CSRs written; in sequencer mode it is a trap as
any other (20/R421, 04/R106). No instruction is named, so the spec states no TRAPI: it is a free value. -/
def State.haltForError (s : State) (uid : Nat) (addr : DWord) : State :=
  match s.sheaf? uid with
  | none => s
  | some h =>
    if h.resident then
      let s1 := (s.draw 1).violate h.core h.ctx h.shid 0x12 addr
      let w := freeWord s.ctl.free
      if h.seqr then s1.takeTrap h 0x12 addr w false h.unitPc h.unitPc
      else (s1.fresh 1).haltSheaf (h.trapCsrs 0x12 addr w false h.unitPc s.ctl.nextId) 0x12 addr w false h.unitPc
    else s

/-- An error in an array (20/R421). -/
def State.upset (s : State) (u : Upset) : State :=
  match u with
  | .corrected a => s.corrected a
  | .l1 l asid line core tags => State.corrected (s.dropCopies fun c => c.l1 == l && c.asid == asid && c.line == line)
      (arrayNo (if tags then 2 else 1) (s.physCore (if l < 10000 then l else (l - 10000) * 48 + core % 48)))
  | .ic core seg blk => State.corrected { s with mm := { s.mm with
      ic := s.mm.ic.filter fun x => !(x.core == core && x.seg.toNat == seg && x.blk == blk) } } (arrayNo 3 (s.physCore core))
  | .tlb place asid page => State.corrected { s with mm := { s.mm with
      tlb := s.mm.tlb.filter fun x => !(x.place == place && x.asid == asid && x.page == page) } }
      (if place < 2000 then arrayNo 4 (s.physCore place) else arrayNo 5 (place - 2000))
  | .l2 asid line sector => s.modHome asid line fun x => { x with bad := x.bad ||| rangeMask 128 (32 * (sector % 4)) 32 }
  | .slm sector => { s with mm := { s.mm with badSlm := (s.mm.badSlm ++ (List.range 32).map fun k => 32 * sector + k).dedup } }
  | .scratch w => { s with mm := { s.mm with badScr := if s.mm.badScr.contains (w / 4 * 4) then s.mm.badScr else s.mm.badScr ++ [w / 4 * 4] } }
  | .row uid tile r => s.modSheaf uid fun h => { h with tiles := h.tiles.modify tile fun t => { t with bad := t.bad ||| (1 <<< r) } }
  | .reg uid cls n => s.haltForError uid (BitVec.ofNat 64 (cls % 256 * 256 + n % 256))
  | .log uid seq => match s.flt.log.find? fun e => e.uid == uid && e.seq == seq with
    | some e => s.haltForError uid (((e.addrs.head?).map (·.2)).getD 0)
    | none => s
  | .table a => s.fatalError (some (BitVec.ofNat 64 a))

/-- PATROL_SCRUB (20/R422, R423): a visit corrects what can be corrected and marks what cannot. -/
def execPatrolScrub (asid line : Nat) (s0 : State) : Out :=
  .next (match s0.home? asid line with
    | none => s0
    | some h =>
      let s := s0.modHome h.asid h.line fun x => { x with seen := s0.ctl.time }
      match Config.scrubFinds asid line s.ctl.time with
      | 0 => s
      | 1 => s.corrected (s.sliceArray h.slice)
      | n + 2 =>
        let va := line * 128 + 32 * (n % 4)
        (s.upset (.l2 h.asid line n)).event 2 (some (h.slice / 24)) (some (h.slice % 24)) none (some (BitVec.ofNat 64 va)))

/-! ### Targets of the repair commands (20/R428) -/

/-- Die, cluster or slice, and core of a part, for an event. -/
def Part.place (p : Part) : Nat × Nat × Option Nat :=
  match p.kind with
  | 1 => (p.num / 288, p.num / 48 % 6, some (p.num % 48))
  | 2 => (p.num / 6, p.num % 6, none)
  | _ => (p.num / 24, p.num % 24, none)

/-- Start a repair command on the part its target names: status 0x05 for a malformed one. -/
def State.repair (s : State) (op : Nat) (c : Cmd) (k : CmdRun → Part → State → State) : State :=
  s.takeCmd op c fun r s => match targetOf c.a with
    | none => s.cmdStatus r 5
    | some p => k r p s

/-! ### Slice ways (20/R431 to R433) -/

/-- The device's own ways: way 15 of slices 0, 8 and 16 of every die, once the boot firmware has taken them. -/
def State.ownsWay (s : State) (slice way : Nat) : Bool := s.rep.booted && slice % 8 == 0 && way == 15

/-- Whether a way holds a granted window or is the device's own. -/
def State.wayKept (s : State) (slice way : Nat) : Bool :=
  s.ownsWay slice way ||
  s.ctxs.any fun c => c.live && c.win.any fun w => w.slice == slice && meets w.base (w.kib * 1024) (way * wayBytes) wayBytes

/-- Whether a slice holds a granted window or a device-owned way. -/
def State.sliceKept (s : State) (slice : Nat) : Bool := (List.range 16).any fun w => s.wayKept slice w

/-- Ways of a mask. -/
def wayCount (m : BitVec 16) : Nat := ((List.range 16).filter fun w => m.getLsbD w).length

/-- Change the mask of a slice, in effect and pending. -/
def State.putWays (s : State) (x : Ways) : State :=
  { s with rep := { s.rep with ways := x :: s.rep.ways.filter fun w => w.slice != x.slice } }

/-- The ways of a slice as kept. -/
def State.waysOf (s : State) (slice : Nat) : Ways := (s.rep.ways.find? fun w => w.slice == slice).getD ⟨slice, 0xFFFF, none⟩

/-- WAYMK_WRITE (20/R431): SEL is kept, the pending mask of the slice is set. -/
def execWaymkWrite (die : Nat) (v : Word) (s : State) : Out :=
  .next (
    let sel := (v.extractLsb' 16 5).toNat
    if 4 ≤ die || 24 ≤ sel then s
    else
      let t := s.putWays { s.waysOf (die * 24 + sel) with pend := some (v.extractLsb' 0 16) }
      { t with rep := { t.rep with waySel := (die, sel) :: t.rep.waySel.filter fun (p : Nat × Nat) => p.1 != die } })

/-- WAYMK as it is read (20/R431). -/
def State.waymk (s : State) (die : Nat) : Word :=
  let sel := ((s.rep.waySel.find? fun (p : Nat × Nat) => p.1 == die).map (·.2)).getD 0
  let w := s.waysOf (die * 24 + sel)
  BitVec.ofNat 32 (bitNat w.pend.isSome * 2 ^ 31 + sel * 2 ^ 16 + w.mask.toNat)

/-- The largest LEMAX of the lines of a slice. -/
def State.sliceLemax (s : State) (slice : Nat) : Nat :=
  ((s.mm.homes.filter fun h => h.slice == slice).map fun h => h.lemax).foldl max 0

/-- Write back every line of a slice. -/
def State.writeBackSlice (s : State) (slice : Nat) : State :=
  (s.mm.homes.filter fun h => h.slice == slice).foldl (fun (t : State) (h : Home) => t.writeBack h) s

/-- SLFLUSH (20/R432): the new mask is checked, a pending one is pending no more, the lines are written back, and their leases
are waited for. -/
def execSlflush (c : Cmd) (s : State) : Out :=
  .next (s.repair 0x10 c fun r p s =>
    if p.kind != 3 then s.cmdStatus r 5
    else
      let w := s.waysOf p.num
      let new := if c.b.getLsbD 16 then c.b.extractLsb' 0 16 else w.pend.getD w.mask
      let back := (List.range 16).filter fun k => new.getLsbD k && !w.mask.getLsbD k
      if wayCount new < 4 then s.cmdStatus r 2
      else if back.any fun k => s.wayKept p.num k then s.cmdStatus r 3
      else
        let s1 := if c.b.getLsbD 16 then s else s.putWays { w with pend := none }
        (s1.writeBackSlice p.num).modCmd r.id fun x => { x with
          cmd := { c with b := (c.b &&& ~~~0xFFFF) ||| new.setWidth 64 }, until_ := s.sliceLemax p.num + 4 })

/-- The end of an SLFLUSH: the lines of the slice whose leases are over go, the ways that leave the cache are zeroed, the
mask takes effect, and the slice holds no more lines than its ways do. -/
def State.endFlush (s : State) (r : CmdRun) (slice : Nat) : State :=
  let new := r.cmd.b.extractLsb' 0 16
  let w := s.waysOf slice
  let gone := (List.range 16).filter fun k => w.mask.getLsbD k && !new.getLsbD k
  let lapsed := fun (h : Home) => h.slice == slice && h.bad == 0 && h.lemax + 4 ≤ s.reading (slicePlace slice)
  let s1 := if gone.isEmpty then s else (s.mm.homes.filter lapsed).foldl (fun (t : State) (h : Home) => (t.writeBack h).dropHome h.asid h.line) s
  let s2 := gone.foldl (fun (t : State) (k : Nat) =>
    let a := slice * 2 ^ 26 + k * wayBytes
    ({ t with mm := { t.mm with
        slm := t.mm.slm.clear a wayBytes
        badSlm := t.mm.badSlm.filter fun b => !(decide (a ≤ b) && decide (b < a + wayBytes)) } } : State)) s1
  (s2.putWays { w with mask := new }).makeRoom slice 0

/-! ### QUIESCE, TEST, REMAP, RESUME (20/R428 to R430) -/

/-- Whether the die of a slice has a spare slice that holds no other quiesced slice's ways. -/
def State.spareFree (s : State) (slice : Nat) : Bool :=
  let used := (s.rep.quiesced.filter fun p => p.kind == 3 && p.num / 24 == slice / 24 && s.sliceKept p.num).length
  decide (used < s.sparesOf false (slice / 24))

/-- Whether a sheaf is on a part. -/
def Sheaf.onPart (h : Sheaf) (p : Part) : Bool :=
  !h.seqr && ((p.kind == 1 && h.core == p.num) || (p.kind == 2 && clusterOf h.core == p.num))

/-- QUIESCE (20/R429): the part takes no more work; its sheaves are asked to stop, its lines are written back. -/
def execQuiesce (c : Cmd) (s : State) : Out :=
  .next (s.repair 0x11 c fun r p s =>
    if s.rep.quiesced.contains p then s.cmdStatus r 1
    else if p.kind == 3 && s.sliceKept p.num && !s.spareFree p.num then s.cmdStatus r 3
    else
      let s1 : State := { s with rep := { s.rep with quiesced := s.rep.quiesced ++ [p] } }
      if p.kind == 3 then s1.writeBackSlice p.num
      else
        let waiting := s1.sheaves.filter fun h => p.kind == 2 && h.onPart p && h.run == .waiting
        let s2 : State := { s1 with
          sheaves := s1.sheaves.map fun h => if waiting.any fun x => x.uid == h.uid then h.stopWaiting h.ctx else h
          stk := { s1.stk with stooks := s1.stk.stooks.map fun (k : Stook) => waiting.foldl (fun (q : Stook) (h : Sheaf) => q.hold h.uid true) k } }
        s2.request (s2.groupOf ((s2.sheaves.filter fun h => h.onPart p && h.resident).map (·.uid))))

/-- Whether a quiesced part holds nothing any more. -/
def State.partIdle (s : State) (p : Part) : Bool :=
  if p.kind == 3 then decide (s.sliceLemax p.num + 4 ≤ s.reading (slicePlace p.num))
  else !(s.sheaves.any fun h => h.onPart p && h.resident)

/-- The end of a QUIESCE: the homes of a slice move to the slices in service with their LEMAX and LL; a core's caches are
empty. -/
def State.endQuiesce (s : State) (p : Part) : State :=
  if p.kind == 3 then
    (s.mm.homes.filter fun h => h.slice == p.num).foldl (fun (t : State) (h : Home) =>
      let k := t.homeSlice h.asid h.line
      (t.makeRoom k 1).modHome h.asid h.line fun x => { x with slice := k }) s
  else
    let gone := fun (core : Nat) => (p.kind == 1 && core == p.num) || (p.kind == 2 && clusterOf core == p.num)
    { s with mm := { s.mm with
        l1 := s.mm.l1.filter fun x => !(x.l1 < 10000 && gone x.l1) && !(p.kind == 2 && x.l1 == 10000 + p.num)
        ic := s.mm.ic.filter fun x => !gone x.core } }

/-- The running firmware image. -/
def State.running (s : State) : Option FwImage := if s.rep.runB then s.rep.imgB else s.rep.imgA

/-- The test microcode, which the running image includes (20/R434). -/
def State.microcode (s : State) : List Byte := Config.imageMicrocode ((s.running.map (·.bytes)).getD [])

/-- The cores of a part. -/
def Part.cores (p : Part) : List Nat := if p.kind == 1 then [p.num] else if p.kind == 2 then (List.range 48).map fun k => p.num * 48 + k else []

/-- A core starts its test: the microcode stands in its store, and sequencer mode begins at address 0 (20/R430, 04/R106). -/
def State.startTest (s : State) (core : Nat) : State :=
  let a := core * scratchSize
  State.startSeq { s with mm := { s.mm with
    scr := (s.mm.scr.clear a microStore).write a (s.microcode.take microStore)
    badScr := s.mm.badScr.filter fun w => !(decide (a ≤ w) && decide (w < a + microStore)) } } ⟨core, false, false, 0, 0, none, 0, none⟩

/-- The detail of a failed TEST: UPC and TRAPC (20/R430). -/
def testDetail (upc trapc : Nat) : DWord := BitVec.ofNat 64 (upc % 16384 + trapc % 256 * 65536)

/-- TEST (20/R430): the cores of the quiesced target start their tests; a slice's array tester gives its verdict. -/
def execTest (c : Cmd) (s : State) : Out :=
  .next (s.repair 0x12 c fun r p s =>
    if !s.rep.quiesced.contains p then s.cmdStatus r 1
    else if p.kind != 3 then p.cores.foldl State.startTest s
    else match Config.selfTest (p.kind * 65536 + p.num) s.ctl.time with
      | none => s
      | some (upc, cause) => s.modCmd r.id fun x => { x with status := 6, detail := testDetail upc cause })

/-- Whether the tests of a part's cores have ended. -/
def State.testOver (s : State) (p : Part) : Bool := p.cores.all fun c => !(s.seqOf c).en

/-- The end of a TEST: a sequencer trap or a mismatch on a core makes it fail. -/
def State.endTest (s : State) (r : CmdRun) (p : Part) : State :=
  let verdict := fun (c : Nat) =>
    let trapc := (((s.sheaf? (s.seqOf c).uid).map fun h => h.trap.c.toNat).getD 0)
    if trapc != 0 || Config.testMismatch c s.ctl.time then some (testDetail (s.seqOf c).upc trapc) else none
  match p.cores.findSome? verdict with
  | some d => s.modCmd r.id fun x => { x with status := 6, detail := d }
  | none => s

/-- One spare fewer for a part, which is bound to it: the spares are the physical parts after the logical ones. -/
def State.mapSpare (s : State) (p : Part) : State :=
  let core := p.kind == 1
  let grp := if core then p.num / 48 else p.num / 24
  let left := s.sparesOf core grp
  let phys := (if core then Config.physCores else Config.physSlices) - left
  let key := if core then p.num else sliceKey p.num
  let put := fun (l : List (Nat × Nat)) => (grp, left - 1) :: l.filter fun (q : Nat × Nat) => q.1 != grp
  { s with
    rep := { s.rep with
      spareCores := if core then put s.rep.spareCores else s.rep.spareCores
      spareSlices := if core then s.rep.spareSlices else put s.rep.spareSlices
      binding := (key, phys) :: s.rep.binding.filter fun (q : Nat × Nat) => q.1 != key
      out := s.rep.out.filter fun q => q != p }
    eng := if core then { s.eng with
        fenced := s.eng.fenced.filter fun k => k != p.num
        fails := s.eng.fails.filter fun (q : Nat × Nat) => q.1 != p.num } else s.eng }

/-- The parts a map-out takes away: the cores of a cluster, or the part itself. -/
def Part.parts (p : Part) : List Part := if p.kind == 2 then p.cores.map fun k => ⟨1, k⟩ else [p]

/-- REMAP (20/R425, R427, R428). -/
def execRemap (c : Cmd) (s : State) : Out :=
  .next (s.repair 0x13 c fun r p s =>
    let w := p.place
    if !s.rep.quiesced.contains p then s.cmdStatus r 1
    else if c.b == 0 then
      if p.kind == 2 || s.sparesOf (p.kind == 1) (if p.kind == 1 then p.num / 48 else p.num / 24) == 0 then s.cmdStatus r 4
      else (s.mapSpare p).event 5 (some w.1) (some w.2.1) w.2.2 none
    else if c.b == 1 then
      if p.kind == 3 && s.sliceKept p.num then s.cmdStatus r 3
      else
        let worn := (s.csp == 0 || s.ssp == 0) && !s.rep.repl
        let s1 : State := { s with rep := { s.rep with
          out := s.rep.out ++ p.parts.filter fun q => !s.rep.out.contains q, repl := s.rep.repl || worn } }
        let s2 := s1.event 6 (some w.1) (some w.2.1) w.2.2 none
        if worn then s2.event 7 none none none none else s2
    else s.cmdStatus r 5)

/-- RESUME (20/R428). -/
def execResume (c : Cmd) (s : State) : Out :=
  .next (s.repair 0x14 c fun _ p s => { s with rep := { s.rep with quiesced := s.rep.quiesced.filter fun q => q != p } })

/-! ### Firmware (20/R434) -/

/-- Whether an image may run. -/
def State.bootable (s : State) (i : Option FwImage) : Bool := match i with | some x => decide (s.rep.fuse ≤ x.svn) | none => false

/-- The mailbox of a task queue: 16,384 slots of 64 bytes at the start of its half of way 15 (20/R433). -/
def queueBox (cluster : Nat) : Mbx :=
  ⟨(cluster / 6 * 24 + cluster % 6 / 2 * 8) * 2 ^ 26 + 15 * wayBytes + cluster % 2 * (wayBytes / 2), 4, 16384, 64, noContext, []⟩

/-- The system command port: 256 slots of 32 bytes in slice 0 of die 0 (20/R433; its place is log entry 31). -/
def portBox : Mbx := ⟨15 * wayBytes + 3 * (wayBytes / 8), 5, 256, 32, noContext, []⟩

/-- BOOT (20/R433, R434): the newest image that may run starts; the device-owned ways leave the cache and hold the task queues and
the command port. -/
def execBoot (s : State) : Out :=
  .next (
    let a := s.bootable s.rep.imgA
    let b := s.bootable s.rep.imgB
    let age := fun (i : Option FwImage) => (i.map (·.build)).getD 0
    if s.rep.booted || (!a && !b) then s
    else
      let own := (List.range 12).map fun k => k * 8
      { s with
        rep := { s.rep with
          booted := true, on := true, restarting := false, runB := b && (!a || age s.rep.imgA < age s.rep.imgB)
          ways := own.map (fun k => (⟨k, 0x7FFF, none⟩ : Ways)) ++ s.rep.ways.filter fun w => !own.contains w.slice }
        job := { s.job with mbx := portBox :: (List.range 24).map queueBox ++ s.job.mbx } })

/-- FIRMWARE_UPDATE (20/R434): only the inactive image is written, and kept if it verifies (log entry 36). -/
def execFirmwareUpdate (img : FwImage) (s : State) : Out :=
  .next (
    let x := if imageSigned img.bytes img.svn then some img else none
    if s.rep.restarting then s
    else if s.rep.runB then { s with rep := { s.rep with imgA := x } } else { s with rep := { s.rep with imgB := x } })

/-- FIRMWARE_ACTIVATE (20/R434): the management controller restarts on the inactive image; the fuse may rise. -/
def execFirmwareActivate (s : State) : Out :=
  .next (match if s.rep.runB then s.rep.imgA else s.rep.imgB with
    | none => s
    | some i =>
      if s.rep.restarting || i.svn < s.rep.fuse then s
      else { s with rep := { s.rep with runB := !s.rep.runB, restarting := true, fuse := max s.rep.fuse i.svn } })

/-- NEW_IMAGE_TAKEOVER (20/R434): the new image replaces the RATE of each context on each die, in the order of the contexts
and dies. -/
def execNewImageTakeover (rates : List Nat) (s : State) : Out :=
  .next (if s.rep.restarting then
      let one := fun (p : Ctx × Nat) => { p.1 with energy := p.1.energy.zipIdx.map fun (e : Energy × Nat) =>
        { e.1 with rate := ((rates[4 * p.2 + e.2]?).map fun r => r % 2 ^ 24).getD e.1.rate } }
      { s with rep := { s.rep with restarting := false }, ctxs := s.ctxs.zipIdx.map one }
    else s)

/-! ### Identity and attestation (20/R435, R436) -/

/-- Send an answer to management. -/
def State.answerTo (s : State) (kind : String) (bytes : List Byte) : State :=
  { s with rep := { s.rep with msgs := s.rep.msgs ++ [.answer kind bytes] } }

/-- GET_VERSION: SPDM 1.3. -/
def execGetVersion (s : State) : Out := .next (s.answerTo "VERSION" [0x13])

/-- GET_CAPABILITIES: certificates, challenge and signed measurements, as the flags of SPDM 1.3 say it (log entry 26). -/
def execGetCapabilities (s : State) : Out := .next (s.answerTo "CAPABILITIES" (natLe 4 0x16))

/-- NEGOTIATE_ALGORITHMS: signatures by ECDSA P-521, SHA-512 for digests and for measurements, as SPDM 1.3 codes them (log entry
26). -/
def execNegotiateAlgorithms (s : State) : Out := .next (s.answerTo "ALGORITHMS" (natLe 4 0x100 ++ natLe 4 4 ++ natLe 4 8))

/-- GET_DIGESTS: SHA-512 of the certificate chain. -/
def execGetDigests (s : State) : Out := .next (s.answerTo "DIGESTS" (sha512 Config.certificateChain))

/-- GET_CERTIFICATE. -/
def execGetCertificate (s : State) : Out := .next (s.answerTo "CERTIFICATE" Config.certificateChain)

/-- CHALLENGE: the nonce signed with the identity key. -/
def execChallenge (nonce : List Byte) (s : State) : Out := .next (s.answerTo "CHALLENGE_AUTH" (identitySign nonce))

/-- The repair map as it is measured. -/
def State.repairBytes (s : State) : List Byte :=
  (s.rep.binding.flatMap fun p => natLe 4 p.1 ++ natLe 4 p.2) ++ s.rep.out.flatMap fun p => natLe 4 p.kind ++ natLe 4 p.num

/-- A measurement block (20/R436). -/
def State.measurement (s : State) (index : Nat) : List Byte :=
  match index with
  | 1 => Config.bootRomDigest
  | 2 => sha512 (((s.running.map (·.bytes)).getD []) ++ natLe 4 ((s.running.map (·.svn)).getD 0))
  | 3 => sha512 s.microcode
  | 4 => sha512 s.repairBytes
  | 5 => sha512 (natLe 4 s.rep.vfs ++ natLe 1 (bitNat s.rep.sriov) ++ natLe 1 (bitNat s.rep.ats))
  | _ => []

/-- GET_MEASUREMENTS: one block, or all of them for index 0xFF, and their signature. -/
def execGetMeasurements (index : Nat) (s : State) : Out :=
  .next (
    let m := if index == 0xFF then ([1, 2, 3, 4, 5] : List Nat).flatMap s.measurement else s.measurement index
    s.answerTo "MEASUREMENTS" (m ++ identitySign (sha512 m)))

/-! ### Power and temperature (20/R437, 01/R16) -/

/-- TELEMETRY_REPORT: every 10 ms. -/
def execTelemetryReport (s : State) : Out :=
  .next (if s.ctl.time % 10000000 == 0 then
      { s with rep := { s.rep with msgs := s.rep.msgs ++ [.telemetry ((List.range 8).map fun k => Config.telemetry k s.ctl.time)] } }
    else s)

/-- THERMAL_THROTTLE: the die's clock falls to a rate the spec does not give, and THERMAL is posted. -/
def execThermalThrottle (die : Nat) (s : State) : Out :=
  .next (if 4 ≤ die then s
    else
      let now := s.rep.clock.getD die 3300
      let next := if now ≤ 1 then now else 1 + (freeWord s.ctl.free).toNat % (now - 1)
      let s1 : State := { s.draw 1 with rep := { s.rep with clock := s.rep.clock.set die next } }
      if s.rep.hot.contains die then s1
      else State.event { s1 with rep := { s1.rep with hot := die :: s1.rep.hot } } 9 (some die) none none none)

/-- THERMAL_SHUTDOWN: every core stops issuing; power is removed 1 s later. -/
def execThermalShutdown (die : Nat) (s : State) : Out :=
  .next (if 4 ≤ die || s.rep.shutdown.isSome then s
    else State.event { s with rep := { s.rep with fatal := true, shutdown := some (s.ctl.time + 1000000000) } } 0xB (some die) none none none)

/-- POWER_REMOVAL: all but pooled and host memory, statuses already stored, and what the management controller keeps is
lost. -/
def execPowerRemoval (s : State) : Out :=
  .next (match s.rep.shutdown with
    | none => s
    | some t =>
      if s.ctl.time < t then s
      else
        let z := State.reset
        { z with
          ctl := { s.ctl with svc := false, cur := 0 }
          mm := { z.mm with pool := s.mm.pool, host := s.mm.host }
          sys := { z.sys with statuses := s.sys.statuses }
          rep := { z.rep with
            out := s.rep.out, binding := s.rep.binding, spareCores := s.rep.spareCores, spareSlices := s.rep.spareSlices
            repl := s.rep.repl, runB := s.rep.runB, imgA := s.rep.imgA, imgB := s.rep.imgB, fuse := s.rep.fuse
            corrected := s.rep.corrected, msgs := s.rep.msgs, vfs := s.rep.vfs, sriov := s.rep.sriov, ats := s.rep.ats, on := false } })

/-- ARITHMETIC_CLOCK_CHANGE (01/R16): at most 3.3 GHz; a die that cools leaves its class when its clock rises. -/
def execArithmeticClockChange (die mhz : Nat) (s : State) : Out :=
  .next (if 4 ≤ die || mhz == 0 || 3300 < mhz then s
    else
      let up := s.rep.clock.getD die 3300 < mhz
      let s1 : State := { s with rep := { s.rep with
        clock := s.rep.clock.set die mhz, hot := if up then s.rep.hot.filter fun d => d != die else s.rep.hot } }
      if up && s.rep.hot.contains die then s1.event 9 (some die) none none none else s1)

end Sys2Proof.Machine
end

