-- ==== Sys2Proof/Machine/Fabric.lean ====
section
/-! DEFINITION. The pool and its extents (19/R412 to R414), tie links (19/R415), remote accesses (19/R416, R417), fabric
reductions (19/R418 to R420), the movement and eviction of lines (08/R248, 20/R423), host reads and writes of BAR0 and what else the outside world does
(19/R405 to R408). -/

namespace Sys2Proof.Machine

/-! ### The pool -/

/-- POOL_WRITE_COMPLETION (19/R414): the written bytes of a line are complete at the pool (log entry 18). -/
def execPoolWriteCompletion (asid line : Nat) (s : State) : Out :=
  .next (match s.mm.homes.find? fun h => h.asid == asid && h.line == line with
    | none => s
    | some h => if h.owed.isEmpty && h.dirty == 0 then s else s.writeBack h)

/-- Mark sectors of a line that the pool returned as poisoned. -/
def Home.poison (h : Home) (sectors : BitVec 4) : Home :=
  { h with bad := (List.range 4).foldl (fun (b : BitVec 128) (k : Nat) => if sectors.getLsbD k then b ||| rangeMask 128 (32 * k) 32 else b) h.bad }

/-- POISON_RESPONSE (19/R414): the pool's answer to the read of a line carries poison; the requester and every later reader of
the sector get an error until it is written (20/R423). -/
def execPoisonResponse (asid line : Nat) (sectors : BitVec 4) (s : State) : Out :=
  .next (match s.home? asid line with
    | some h => if h.lemax == 0 && h.writes.isEmpty && !h.hm then s.modHome h.asid h.line fun x => x.poison sectors else s
    | none =>
      match s.ctxs.find? fun c => c.live && c.asid == asid with
      | none => s
      | some c => match s.homeOf c.id (line * 128) .any with
        | (s1, .ok h) => if h.hm then s else s1.modHome h.asid h.line fun x => x.poison sectors
        | _ => s)

/-- Bytes of an extent's grain: 256 MiB. -/
def extentGrain : Nat := 2 ^ 28

/-- EXTENT_ADD (19/R412): multiples of 256 MiB, one port each, at most 4096 extents and 64 TiB. It is function 0's until the fabric
manager assigns it to another one (17/R399; log entry 95). -/
def execExtentAdd (base len port : Nat) (s : State) : Out :=
  .next (
    let es := s.fab.extents
    if base % extentGrain != 0 || len % extentGrain != 0 || len == 0 || 24 ≤ port || 4096 ≤ es.length ||
        2 ^ 46 < (es.map fun (e : Extent) => e.len).sum + len || es.any fun (e : Extent) => meets e.base e.len base len then s
    else
      let t : State := { s with fab := { s.fab with extents := es ++ [⟨base, len, port, 0⟩] } }
      (t.event 8 none none none (some (BitVec.ofNat 64 base))).answerTo "EXTENT" (natLe 8 base ++ natLe 8 len ++ natLe 1 port))

/-- Whether a mapping of an extent is still cached, a line of it still held, or a page of it still pinned. -/
def State.extentUsed (s : State) (base len : Nat) : Bool :=
  (s.mm.tlb.any fun t => !t.hm && meets t.pa (t.n * 65536) base len) || (s.mm.homes.any fun h => !h.hm && meets h.pa 128 base len) ||
  s.eng.ops.any fun (o : Op) => o.live && o.pins.any fun (p : Pin) => !p.hm && meets p.pa 65536 base len

/-- EXTENT_RELEASE_REQUEST (19/R413): forwarded to the host driver as a message of the device; released once no mapping and no pin
of it is left. -/
def execExtentReleaseRequest (base : Nat) (s : State) : Out :=
  .next (match s.fab.extents.find? fun (e : Extent) => e.base == base with
    | none => s
    | some e =>
      let told := s.fab.releasing.contains base
      let free := told && !s.extentUsed e.base e.len
      let fab : FabSys := if free then { s.fab with
          extents := s.fab.extents.filter fun (x : Extent) => x.base != base, releasing := s.fab.releasing.filter fun x => x != base }
        else if told then s.fab else { s.fab with releasing := s.fab.releasing ++ [base] }
      let t := if told then s else s.answerTo "EXTENT_RELEASE" (natLe 8 e.base ++ natLe 8 e.len)
      { t with fab := fab, rep := { t.rep with msgs := t.rep.msgs ++ [.extentAnswer base free] } })

/-! ### Bindings and groups -/

/-- FABRIC_BINDING_INSTALL (19/R416). -/
def execFabricBindingInstall (ctx rdev rctx : Nat) (s : State) : Out :=
  .next (if 4096 ≤ rdev then s
    else { s with fab := { s.fab with bindings := (ctx, rdev, rctx) :: s.fab.bindings.filter fun b => !(b.1 == ctx && b.2.1 == rdev) } })

/-- REDUCTION_GROUP_INSTALL (19/R418). -/
def execReductionGroupInstall (g : GroupRec) (s : State) : Out :=
  .next (if g.ncont == 0 || 4096 < g.ncont || 2 < g.op.toNat then s
    else { s with fab := { s.fab with groups := g :: s.fab.groups.filter fun x => x.gid != g.gid } })

/-- The running root operations of a group. -/
def State.roots (s : State) (g : GroupRec) : List Op :=
  s.eng.ops.filter fun (o : Op) => o.live && o.kind == .red && s.isRoot g o && par o.blk 3 == g.gid

/-- The root operation of the open round: the one that has contributed, or the oldest. -/
def State.rootOf (s : State) (g : GroupRec) : Option Op :=
  match (s.held g.gid).findSome? fun c => c.op with
  | some id => (s.op? id).filter fun o => o.live
  | none => (s.roots g).head?

/-- The open round of a group is discarded (19/R420). -/
def State.abortGroup (s : State) (gid : Word) : State :=
  match s.group? gid with
  | none => s
  | some g =>
    let s1 := match s.rootOf g with | some o => s.failOp o.id 5 6 0 | none => s
    s1.endRound gid

/-- GROUP_ABORT (19/R420). -/
def execGroupAbort (gid : Word) (s : State) : Out := .next (s.abortGroup gid)

/-! ### The value of a reduction (19/R419, 03/R67, R68, R70) -/

/-- The lesser or greater of two values, a NaN giving way (03/R52). -/
def valMinMax (isMax : Bool) (x y : FVal) : FVal :=
  if x.isNan then y else if y.isNan then x
  else if isMax then (if x.lt y then y else x) else (if y.lt x then y else x)

/-- Element `j` of a contribution, none where it lies outside its entry. -/
def Contrib.elem (c : Contrib) (j : Nat) : Option (List Byte) := (c.elems[j]?).filter fun e => !e.isEmpty

/-- Element `j` of a round, with the flags of its rounding. -/
def roundElem (cs : List Contrib) (op ty rm j : Nat) : Nat × Flags :=
  let es := cs.filterMap fun c => (c.elem j).map fun e => (c, e)
  match fmtOf ty with
  | some f =>
    if op == 0 then
      (es.foldl (fun (x : Xa) (p : Contrib × List Byte) =>
        if p.1.wide then x.join ⟨BitVec.ofNat 320 (natAt p.2 0 40), BitVec.ofNat 3 (natAt p.2 40 1)⟩
        else x.add (contribVal p.1.fmt (leNat p.2))) Xa.zero).round rm f
    else match es.map fun p => contribVal p.1.fmt (leNat p.2) with
      | [] => (f.nan, 0)
      | v :: vs => f.round rm false false (vs.foldl (valMinMax (op == 2)) v)
  | none =>
    let ns := es.map fun p => leNat p.2
    if op == 0 then (ns.sum % 2 ^ 32, 0)
    else match ns with
      | [] => (emptyRed ty op, 0)
      | n :: l => (l.foldl (fun (a b : Nat) => minMax (op == 2) ty a b) n, 0)

/-- The rounded elements of a round, row by row, with the flags. -/
def Op.roundBytes (o : Op) (cs : List Contrib) : List Byte × Flags :=
  let b := o.ent 1
  let w := fmtBits b.fmt
  let es := (List.range (b.trow * b.tcol)).map fun j => roundElem cs (o.insn.extractLsb' 0 2).toNat b.fmt (xRm o.xmod) j
  (es.flatMap fun x => natLe (w / 8) x.1, es.foldl (fun (g : Flags) (x : Nat × Flags) => g ||| x.2) 0)

/-- The root rounds each element once and goes on to write its destination; the round ends when its handle completes (19/R419). -/
def State.captureRound (s : State) (o : Op) (g : GroupRec) : State :=
  let q := o.roundBytes (s.held g.gid)
  (s.readDone o.id (Rng.key ⟨resultSpace, 0, q.1.length⟩) q.1).modOp o.id fun x => { x with rp := 2, facc := x.facc ||| q.2 }

/-- REDUCTION_ROUND_CLOSE (19/R419, R420): a full round closes at its root; from another device it has been sent on. A
contribution that differs from the record makes the root ERR_DATA with nothing written. -/
def execReductionRoundClose (gid : Word) (s : State) : Out :=
  .next (match s.group? gid with
    | none => s
    | some g =>
      if s.heldCount gid != g.ncont then s
      else if g.rootDev != s.fab.self then s.passRound gid
      else match (s.held gid).findSome? fun c => c.op with
        | none => s.endRound gid
        | some id => match s.op? id with
          | none => s.endRound gid
          | some o =>
            if !o.live then s.endRound gid
            else if o.resting || o.susp || o.rp != 1 then s
            else if (s.held gid).any fun c => c.rows != g.rows || c.cols != g.cols || c.kind.toNat != g.op.toNat || c.ty != g.ty then
              (s.modOp id fun x => { x.fail 7 0x12 0 with trunc := true }).endRound gid
            else s.captureRound o g)

/-! ### Tie links (19/R415) -/

/-- One bit step of CRC-64/ECMA-182. -/
def crcStep (c : DWord) : DWord := if c.getLsbD 63 then (c <<< 1) ^^^ 0x42F0E1EBA9EA3693 else c <<< 1

/-- CRC-64/ECMA-182 of bytes. -/
def crc64 (bs : List Byte) : DWord :=
  bs.foldl (fun (c : DWord) (b : Byte) =>
    (List.range 8).foldl (fun (d : DWord) (_ : Nat) => crcStep d) (c ^^^ (b.setWidth 64 <<< 56))) 0

/-- A link's record: up and expecting flit 0 where nothing has happened on it. -/
def State.link (s : State) (n : Nat) : Link := (s.fab.links.find? fun l => l.num == n).getD ⟨n, true, 0, 0⟩

/-- Put a link's record. -/
def State.putLink (s : State) (l : Link) : State :=
  { s with fab := { s.fab with links := l :: s.fab.links.filter fun x => x.num != l.num } }

/-- The entries whose places an operation uses: of B an MMSP of pattern 0 or 2 uses the format alone (07/R211, 13/R316). -/
def Op.placed (o : Op) : List Entry := if o.kind == .mmsp && o.insn.extractLsb' 0 2 != 1 then o.ents.take 1 else o.ents

/-- Whether an operation needs the fabric. -/
def Op.remote (o : Op) : Bool := o.live && !o.failed && o.placed.any fun e => e.spc == 3

/-- The far device an operation reaches, and the address it names there. -/
def Op.farEnd (o : Op) : Option (Nat × Nat) := (o.placed.find? fun (e : Entry) => e.spc == 3).map fun e => (e.rdev, e.base)

/-- A link goes down: LINKDOWN. Remote operations fail that no link leads to the device of any more, and open rounds on whose tree
the link is (19/R415, R420). -/
def State.linkDown (s : State) (n : Nat) : State :=
  if 12 ≤ n || !s.linkUp n then s
  else
    let s1 := (s.putLink { s.link n with up := false }).event 0xA (some (n / 3)) none none (some (BitVec.ofNat 64 n))
    let s2 := (s1.eng.ops.filter Op.remote).foldl (fun (t : State) (o : Op) => match o.farEnd with
      | some (dev, base) => if t.linkTo dev then t else t.failOp o.id 5 6 (BitVec.ofNat 64 base)
      | none => t) s1
    (s2.fab.groups.filter fun g => Config.onTree g.gid n).foldl (fun (t : State) (g : GroupRec) => t.abortGroup g.gid) s2

/-- LINK_DECLARED_DOWN (19/R415). -/
def execLinkDeclaredDown (link : Nat) (s : State) : Out := .next (s.linkDown link)

/-- A flit arrives: discarded when its CRC fails or an earlier one is still awaited; the ninth failure in a row of the awaited
flit (eight failed replays) takes the link down (19/R415). A flit that fails counts as the one its SEQ names (log entry 28). -/
def State.flit (s : State) (link ty : Nat) (f : List Byte) (k : State → State) : State :=
  let l := s.link link
  if 12 ≤ link || !l.up || f.length != 256 then s
  else if natAt f 248 8 != (crc64 (f.take 248)).toNat then
    if natAt f 2 2 != l.next then s
    else
      let s1 := s.putLink { l with fails := l.fails + 1 }
      if 9 ≤ l.fails + 1 then s1.linkDown link else s1
  else if natAt f 2 2 != l.next || natAt f 0 1 != ty || 3 < natAt f 1 1 then s
  else k (s.putLink { l with next := (l.next + 1) % 65536, fails := 0 })

/-- The core number that accesses of another device are counted under: no core has it. -/
def farCore : Nat := nCores

/-- An access of another device to a context of this one (19/R416, R417): a write performed at its home, a read under its lease.
What the context may not do is refused. -/
def State.farAccess (s : State) (c : Carry) : State :=
  match c with
  | .remoteWrite ctx va bytes =>
    if va % 128 + bytes.length ≤ 128 then
      match s.homeOf ctx va .write with
      | (s1, .ok h) => (s1.homeWrite ctx farCore 0 h (va % 128) bytes).1
      | (s1, _) => s1
    else s
  | .remoteRead ctx va n =>
    if va % 128 + n ≤ 128 then
      match s.homeOf ctx va .read with
      | (s1, .ok h) => if h.badAt (va % 128) n then s1 else (s1.grant h).1
      | (s1, _) => s1
    else s
  | _ => s

/-- The data of a remote operation's `n`-th range, or the far end's refusal (07/R190, 19/R416). -/
def State.farAnswer (s : State) (c : Carry) : State :=
  match c with
  | .readData op n bytes => s.withOp op fun o _ =>
      match (s.needs o)[n]? with
      | some r => if r.sp == 3 && bytes.length == r.n && !o.got r && !o.failed then
          s.readDone op r.key bytes else s
      | none => s
  | .refused op addr => s.withOp op fun o _ =>
      if o.remote then s.modOp op fun x => { x.fail 5 6 addr with detail := addr.extractLsb' 9 48 } else s
  | _ => s

/-- A partial of a reduction arrives (19/R419): it joins the open round, or waits at the switch for the next one. -/
def State.addPartial (s : State) (c : Carry) : State :=
  match c with
  | .partialOf gid _ rows cols op ty fmt n elems =>
    let id := BitVec.ofNat 32 gid
    match s.group? id with
    | none => s
    | some g =>
      if n == 0 || g.ncont < n then s
      else { s with fab := { s.fab with contribs := s.fab.contribs ++
        [⟨id, none, rows, cols, op, ty, fmt.toNat, n, op == 0 && isFloatTy fmt.toNat, elems⟩] } }
  | _ => s

/-- TIE_FLIT_IDLE. -/
def execTieFlitIdle (link : Nat) (flit : List Byte) (s : State) : Out := .next (s.flit link 0 flit fun t => t)

/-- TIE_FLIT_REQUEST (19/R416, R417). -/
def execTieFlitRequest (link : Nat) (flit : List Byte) (carry : Carry) (s : State) : Out :=
  .next (s.flit link 1 flit fun t => t.farAccess carry)

/-- TIE_FLIT_DATA (19/R415 to R417). -/
def execTieFlitData (link : Nat) (flit : List Byte) (carry : Carry) (s : State) : Out :=
  .next (s.flit link 2 flit fun t => (t.farAccess carry).farAnswer carry)

/-- TIE_FLIT_ACK_CREDIT: the device's own flits have no state here (log entry 28). -/
def execTieFlitAckCredit (link : Nat) (flit : List Byte) (s : State) : Out := .next (s.flit link 3 flit fun t => t)

/-- TIE_FLIT_REDUCTION_PARTIAL (19/R419). -/
def execTieFlitReductionPartial (link : Nat) (flit : List Byte) (carry : Carry) (s : State) : Out :=
  .next (s.flit link 4 flit fun t => t.addPartial carry)

/-- REMOTE_WRITE_ACK (19/R417): a unit of a copy to another device is written there; OPGW is left as it is. -/
def execRemoteWriteAck (op n : Nat) (s : State) : Out :=
  .next (s.withOp op fun o h =>
    if o.failed || o.done.contains n || !(s.units o h).contains n then s
    else match o.shape with
      | some q => if q.dst.sp == 3 then (match o.sector q (s.limOf h q.src) n with
          | some (_, m, f) => s.unitDone op n f (m == 0)
          | none => s) else s
      | none => s)

/-! ### Lines that move or leave (08/R248, 20/R423) -/

/-- HOME_MIGRATION (08/R248): value, LEMAX, LL and write order move in one step, into a slice that has room (01/R19). -/
def execHomeMigration (asid line slice : Nat) (s : State) : Out :=
  .next (if s.slicesUp.contains slice && s.mm.homes.any fun h => h.asid == asid && h.line == line && h.slice != slice then
      (s.makeRoom slice 1).modHome asid line fun x => { x with slice := slice }
    else s)

/-- L2_LINE_EVICTION (20/R423, 08/R243): the good dirty sectors are written back; the line leaves once its leases are over, unless a
sector is bad. -/
def execL2LineEviction (asid line : Nat) (s : State) : Out :=
  .next (match s.mm.homes.find? fun h => h.asid == asid && h.line == line with
    | none => s
    | some h =>
      let s1 := s.writeBack h
      if h.bad == 0 && h.lemax + 4 ≤ s.reading (slicePlace h.slice) then s1.dropHome asid line else s1)

/-! ### Host writes (19/R406) -/

/-- The mailbox whose region holds a slice-memory position. -/
def State.mbxOver (s : State) (p : Nat) : Option Mbx := s.job.mbx.find? fun m => m.head ≤ p && p < m.head + m.size

/-- HOST_BAR0_WRITE (19/R406, 14/R319): bytes land in a window's slice memory; those outside windows and in mailbox regions are
dropped; a partial post to a launch port leaves a fault record. -/
def execHostBar0Write (fn off : Nat) (bytes : List Byte) (s : State) : Out :=
  .next (
    let one := fun (t : State) (x : Byte × Nat) => match t.barPos fn (off + x.2) 1 with
      | some (_, p) => if (t.mbxOver p).isSome then t else t.slmWrite p [x.1]
      | none => t
    match (s.barPos fn off 1).bind fun q => (s.mbxOver q.2).map fun m => (q.2, m) with
    | some (p, m) =>
      if p == m.head && wholeMsg m.kind bytes.length then s
      else
        let s1 := bytes.zipIdx.foldl one s
        if m.kind == 2 && p < m.head + 128 && !bytes.isEmpty then s1.postReject m.ctx m.head 8 else s1
    | none => bytes.zipIdx.foldl one s)

/-! ### Host reads and the rest of the outside world (log entry 1) -/

/-- A byte of a mailbox's region as a host reads it (14/R320), with the slot of its oldest message and a free byte for what the spec
leaves to the device. -/
def Mbx.hostByte (m : Mbx) (first k : Nat) (free : Byte) : Byte :=
  if k < 0x80 then 0
  else if k < 0x94 then byteAt m.ctrl (k - 0x80)
  else if k < 0xA0 then 0
  else if k < 0x100 then free
  else
    let i := ((k - 0x100) / m.slotb + m.nslot - first % m.nslot) % m.nslot
    match m.msgs[i]? with
    | some _ => byteAt (m.slot i) ((k - 0x100) % m.slotb)
    | none => free

/-- A byte of BAR0 of a function: the head of the command port and the health register in the physical function's, window
bytes, zeros elsewhere (19/R405, R406; 20/R425). An uncorrectable byte is a free value. -/
def State.barByte (s : State) (fn off : Nat) (free : Byte) : Byte :=
  let box := fun (m : Mbx) (k : Nat) => m.hostByte (Config.firstSlot m.head s.ctl.time) k free
  if off < 0x1000 then (if fn == 0 then (s.cmdPort.map fun m => box m off).getD 0 else 0)
  else if off < 0x1004 then (if fn == 0 then byteOf s.health (off - 0x1000) else 0)
  else match s.barPos fn off 1 with
    | none => 0
    | some (_, p) => match s.mbxOver p with
      | some m => box m (p - m.head)
      | none => if s.slmBad p 1 then free else s.mm.slm.get p

/-- A host reads bytes of BAR0 (19/R405, R406). -/
def State.readBar (s : State) (fn off n : Nat) : State :=
  { s.draw n with sys := { s.sys with reads := s.sys.reads ++
    [(fn, off, (List.range n).map fun k => s.barByte fn (off + k) (freeByte (s.ctl.free + k)))] } }

/-- A host touches a page of its memory that the device owns: its values are undefined to both sides, within the page (19/R408). -/
def State.touchPage (s : State) (pa : Nat) : State :=
  let base := pa / 65536 * 65536
  let hit := fun (h : Home) => h.hm && h.pa / 65536 == pa / 65536
  let top := s.ctl.free + 65536
  let lost := fun (c : Copy) => s.mm.homes.any fun h => hit h && c.asid == h.asid && c.line == h.line
  let s1 := (s.dropCopies lost).draw (65536 + 128 * s.mm.homes.length)
  { s1 with mm := { s1.mm with
      host := s1.mm.host.write base (freeBytes s.ctl.free 65536)
      homes := s1.mm.homes.zipIdx.map fun (p : Home × Nat) => if hit p.1 then p.1.free (top + 128 * p.2) else p.1 } }

/-- DIRTB as firmware reads it (17/R399): the bitmap base of the function that last wrote through the core, and EN. -/
def State.dirtb (s : State) (core : Nat) : DWord :=
  match (s.sys.lastVf.find? fun (p : Nat × Nat) => p.1 == core).bind fun p => s.sys.logs.find? fun l => l.vf == p.2 with
  | some l => BitVec.ofNat 64 (l.bitmap / 65536 * 65536 + 1)
  | none => 0

/-- A system CSR as the management firmware reads it: WAYMK of a die, DIRTB and SEQM of a core (04/R92, R105; 17/R399;
20/R431). -/
def State.systemCsr (s : State) (csr place : Nat) : DWord :=
  match csr with
  | 0x800 => (s.waymk place).setWidth 64
  | 0x801 => s.dirtb place
  | 0x802 => (s.seqOf place).word.setWidth 64
  | _ => 0

/-- An entry of a violation ring (17/R389). -/
def Viol.bytes (v : Viol) : List Byte := natLe 4 v.ctx ++ bvLe v.shid 4 ++ natLe 4 v.cause ++ bvLe v.addr 8

/-- What the outside world does besides the steps of the opcode table. -/
def State.outside (s : State) (o : Outside) : State :=
  match o with
  | .readBar fn off n => s.readBar fn off n
  | .touchPage pa => s.touchPage pa
  | .readHealth => s.answerTo "HEALTH" (bvLe s.health 4)
  | .readRing core => s.answerTo "RING" ((s.flt.ring.filter fun v => v.core == core).flatMap Viol.bytes)
  | .readCsr csr place => s.answerTo "CSR" (bvLe (s.systemCsr csr place) 8)
  | .hostPort vfs sriov ats =>
    if vfs == 0 || 64 < vfs then s else { s with rep := { s.rep with vfs := vfs, sriov := sriov, ats := ats } }
  | .assignExtent base fn => { s with fab := { s.fab with
      extents := s.fab.extents.map fun (e : Extent) => if e.base == base then { e with fn := fn } else e } }

end Sys2Proof.Machine
end

