-- ==== Sys2Proof/Machine/Command.lean ====
section
/-! DEFINITION. The completion of system commands (17/R380, 20/R428): the work a command still has to do, the condition it waits
for, and its status. -/

namespace Sys2Proof.Machine

/-- Store the status of a command and end it (17/R380). -/
def State.storeStatus (s : State) (r : CmdRun) : State :=
  { s with sys := { s.sys with
      statuses := s.sys.statuses ++ [(r.cmd.stat, r.status, r.detail)]
      cmds := s.sys.cmds.filter fun x => x.id != r.id } }

/-- Store the status of a command as it now stands. -/
def State.endCmd (s : State) (id : Nat) : State :=
  match s.sys.cmds.find? fun r => r.id == id with
  | some r => s.storeStatus r
  | none => s

/-- The part of a repair command. -/
def CmdRun.part (r : CmdRun) : Part := (targetOf r.cmd.a).getD ⟨0, 0⟩

/-- Whether the condition of a command's completion holds, after the work done so far. -/
def State.cmdReady (s : State) (r : CmdRun) : Bool :=
  match r.op with
  | 1 => r.until_ != 0 && decide (r.until_ ≤ s.ctl.time)
  | 2 => s.atRest (ctxIdOf r.cmd)
  | 4 => (s.sheaf? r.until_).isNone
  | 6 => decide ((r.cmd.b.extractLsb' 0 32).toNat ≤ r.until_)
  | 0x10 => decide (r.until_ ≤ s.reading (slicePlace r.part.num))
  | 0x11 => s.partIdle r.part
  | 0x12 => s.testOver r.part
  | _ => true

/-- The work of a command that is not yet ready. -/
def State.cmdWork (s : State) (r : CmdRun) : State :=
  match r.op with
  | 1 => s.shootStep r
  | 6 => s.dirtStep r
  | _ => s

/-- What a command does at its completion. -/
def State.cmdEnd (s : State) (r : CmdRun) : State :=
  match r.op with
  | 2 => match s.ctx? (ctxIdOf r.cmd) with | some c => s.saveImage r c | none => s
  | 0x10 => s.endFlush r r.part.num
  | 0x11 => s.endQuiesce r.part
  | 0x12 => s.endTest r r.part
  | _ => s

/-- COMMAND_COMPLETION (17/R380). -/
def execCommandCompletion (id : Nat) (s : State) : Out :=
  .next (match s.sys.cmds.find? fun r => r.id == id with
    | none => s
    | some r =>
      if r.status != 0 then s.storeStatus r
      else if s.cmdReady r then (s.cmdEnd r).endCmd id
      else s.cmdWork r)

end Sys2Proof.Machine
end

