-- ==== Sys2Proof/Machine/Dispatch.lean ====
section
/-! DEFINITION. The dispatcher: one arm for each instruction, a direct call of its meaning. -/

namespace Sys2Proof.Machine

/-- Execute an instruction: a word for the current sheaf, or a step of the device. -/
def exec (i : Instr) (s : State) : Host.Outcome State Fault Refusal :=
  match i with
  | .trap imm => Sys2Proof.Machine.execTrap imm s
  | .brk imm => Sys2Proof.Machine.execBrk imm s
  | .safe imm => Sys2Proof.Machine.execSafe imm s
  | .sleep imm => Sys2Proof.Machine.execSleep imm s
  | .bru cond o => Sys2Proof.Machine.execBru cond o s
  | .brd o => Sys2Proof.Machine.execBrd o s
  | .rcv o => Sys2Proof.Machine.execRcv o s
  | .call o => Sys2Proof.Machine.execCall o s
  | .callx o => Sys2Proof.Machine.execCallx o s
  | .ret o => Sys2Proof.Machine.execRet o s
  | .jtab o => Sys2Proof.Machine.execJtab o s
  | .saluAdd o => Sys2Proof.Machine.execSaluAdd o s
  | .saluSub o => Sys2Proof.Machine.execSaluSub o s
  | .saluMul o => Sys2Proof.Machine.execSaluMul o s
  | .saluMulh o => Sys2Proof.Machine.execSaluMulh o s
  | .saluMulhn o => Sys2Proof.Machine.execSaluMulhn o s
  | .saluAnd o => Sys2Proof.Machine.execSaluAnd o s
  | .saluOr o => Sys2Proof.Machine.execSaluOr o s
  | .saluXor o => Sys2Proof.Machine.execSaluXor o s
  | .andn o => Sys2Proof.Machine.execAndn o s
  | .saluShl o => Sys2Proof.Machine.execSaluShl o s
  | .saluShr o => Sys2Proof.Machine.execSaluShr o s
  | .saluSar o => Sys2Proof.Machine.execSaluSar o s
  | .rotl o => Sys2Proof.Machine.execRotl o s
  | .saluMin o => Sys2Proof.Machine.execSaluMin o s
  | .saluMax o => Sys2Proof.Machine.execSaluMax o s
  | .minn o => Sys2Proof.Machine.execMinn o s
  | .maxn o => Sys2Proof.Machine.execMaxn o s
  | .slt o => Sys2Proof.Machine.execSlt o s
  | .sltn o => Sys2Proof.Machine.execSltn o s
  | .seq o => Sys2Proof.Machine.execSeq o s
  | .saluSel o => Sys2Proof.Machine.execSaluSel o s
  | .clz o => Sys2Proof.Machine.execClz o s
  | .popc o => Sys2Proof.Machine.execPopc o s
  | .brev o => Sys2Proof.Machine.execBrev o s
  | .add64 o => Sys2Proof.Machine.execAdd64 o s
  | .sub64 o => Sys2Proof.Machine.execSub64 o s
  | .shl64 o => Sys2Proof.Machine.execShl64 o s
  | .shr64 o => Sys2Proof.Machine.execShr64 o s
  | .saluiAddi o => Sys2Proof.Machine.execSaluiAddi o s
  | .saluiAndi o => Sys2Proof.Machine.execSaluiAndi o s
  | .saluiOri o => Sys2Proof.Machine.execSaluiOri o s
  | .saluiXori o => Sys2Proof.Machine.execSaluiXori o s
  | .saluiShli o => Sys2Proof.Machine.execSaluiShli o s
  | .saluiShri o => Sys2Proof.Machine.execSaluiShri o s
  | .saluiSari o => Sys2Proof.Machine.execSaluiSari o s
  | .saluiMovi o => Sys2Proof.Machine.execSaluiMovi o s
  | .saluiMovhi o => Sys2Proof.Machine.execSaluiMovhi o s
  | .slti o => Sys2Proof.Machine.execSlti o s
  | .vintAdd o => Sys2Proof.Machine.execVintAdd o s
  | .vintSub o => Sys2Proof.Machine.execVintSub o s
  | .addc o => Sys2Proof.Machine.execAddc o s
  | .subb o => Sys2Proof.Machine.execSubb o s
  | .vintMul o => Sys2Proof.Machine.execVintMul o s
  | .vintMulh o => Sys2Proof.Machine.execVintMulh o s
  | .vintMulhn o => Sys2Proof.Machine.execVintMulhn o s
  | .mad o => Sys2Proof.Machine.execMad o s
  | .vintAnd o => Sys2Proof.Machine.execVintAnd o s
  | .vintOr o => Sys2Proof.Machine.execVintOr o s
  | .vintXor o => Sys2Proof.Machine.execVintXor o s
  | .vintShl o => Sys2Proof.Machine.execVintShl o s
  | .vintShr o => Sys2Proof.Machine.execVintShr o s
  | .vintSar o => Sys2Proof.Machine.execVintSar o s
  | .vintMin o => Sys2Proof.Machine.execVintMin o s
  | .vintMax o => Sys2Proof.Machine.execVintMax o s
  | .vintiAddi o => Sys2Proof.Machine.execVintiAddi o s
  | .vintiAndi o => Sys2Proof.Machine.execVintiAndi o s
  | .vintiOri o => Sys2Proof.Machine.execVintiOri o s
  | .vintiXori o => Sys2Proof.Machine.execVintiXori o s
  | .vintiShli o => Sys2Proof.Machine.execVintiShli o s
  | .vintiShri o => Sys2Proof.Machine.execVintiShri o s
  | .vintiSari o => Sys2Proof.Machine.execVintiSari o s
  | .muli o => Sys2Proof.Machine.execMuli o s
  | .vriMovi o => Sys2Proof.Machine.execVriMovi o s
  | .vriMovhi o => Sys2Proof.Machine.execVriMovhi o s
  | .addi16 o => Sys2Proof.Machine.execAddi16 o s
  | .fadd o => Sys2Proof.Machine.execFadd o s
  | .fsub o => Sys2Proof.Machine.execFsub o s
  | .fmul o => Sys2Proof.Machine.execFmul o s
  | .fmin o => Sys2Proof.Machine.execFmin o s
  | .fmax o => Sys2Proof.Machine.execFmax o s
  | .fminm o => Sys2Proof.Machine.execFminm o s
  | .fmaxm o => Sys2Proof.Machine.execFmaxm o s
  | .fcps o => Sys2Proof.Machine.execFcps o s
  | .fflr o => Sys2Proof.Machine.execFflr o s
  | .fceil o => Sys2Proof.Machine.execFceil o s
  | .frne o => Sys2Proof.Machine.execFrne o s
  | .ftrn o => Sys2Proof.Machine.execFtrn o s
  | .fabs o => Sys2Proof.Machine.execFabs o s
  | .fneg o => Sys2Proof.Machine.execFneg o s
  | .fsat o => Sys2Proof.Machine.execFsat o s
  | .fscl o => Sys2Proof.Machine.execFscl o s
  | .fma o => Sys2Proof.Machine.execFma o s
  | .fms o => Sys2Proof.Machine.execFms o s
  | .fnma o => Sys2Proof.Machine.execFnma o s
  | .fnms o => Sys2Proof.Machine.execFnms o s
  | .hfma2 o => Sys2Proof.Machine.execHfma2 o s
  | .bfma2 o => Sys2Proof.Machine.execBfma2 o s
  | .dot4e4 o => Sys2Proof.Machine.execDot4e4 o s
  | .dot4e5 o => Sys2Proof.Machine.execDot4e5 o s
  | .dot4i o => Sys2Proof.Machine.execDot4i o s
  | .dot2h o => Sys2Proof.Machine.execDot2h o s
  | .cvtf o => Sys2Proof.Machine.execCvtf o s
  | .cvti o => Sys2Proof.Machine.execCvti o s
  | .cvtp o => Sys2Proof.Machine.execCvtp o s
  | .expn o => Sys2Proof.Machine.execExpn o s
  | .lutx o => Sys2Proof.Machine.execLutx o s
  | .mxsc o => Sys2Proof.Machine.execMxsc o s
  | .feq o => Sys2Proof.Machine.execFeq o s
  | .fne o => Sys2Proof.Machine.execFne o s
  | .flt o => Sys2Proof.Machine.execFlt o s
  | .fle o => Sys2Proof.Machine.execFle o s
  | .fun o => Sys2Proof.Machine.execFun o s
  | .fcls o => Sys2Proof.Machine.execFcls o s
  | .ieq o => Sys2Proof.Machine.execIeq o s
  | .ine o => Sys2Proof.Machine.execIne o s
  | .ilt o => Sys2Proof.Machine.execIlt o s
  | .ile o => Sys2Proof.Machine.execIle o s
  | .iltn o => Sys2Proof.Machine.execIltn o s
  | .ilen o => Sys2Proof.Machine.execIlen o s
  | .kand o => Sys2Proof.Machine.execKand o s
  | .kor o => Sys2Proof.Machine.execKor o s
  | .kxor o => Sys2Proof.Machine.execKxor o s
  | .kandn o => Sys2Proof.Machine.execKandn o s
  | .knot o => Sys2Proof.Machine.execKnot o s
  | .kmov o => Sys2Proof.Machine.execKmov o s
  | .kset o => Sys2Proof.Machine.execKset o s
  | .kcnt o => Sys2Proof.Machine.execKcnt o s
  | .kfirst o => Sys2Proof.Machine.execKfirst o s
  | .kall o => Sys2Proof.Machine.execKall o s
  | .kany o => Sys2Proof.Machine.execKany o s
  | .mov o => Sys2Proof.Machine.execMov o s
  | .vmovSel o => Sys2Proof.Machine.execVmovSel o s
  | .shfl o => Sys2Proof.Machine.execShfl o s
  | .shflx o => Sys2Proof.Machine.execShflx o s
  | .shflup o => Sys2Proof.Machine.execShflup o s
  | .shfldn o => Sys2Proof.Machine.execShfldn o s
  | .rdfl o => Sys2Proof.Machine.execRdfl o s
  | .rdln o => Sys2Proof.Machine.execRdln o s
  | .bcst o => Sys2Proof.Machine.execBcst o s
  | .lid o => Sys2Proof.Machine.execLid o s
  | .lpos o => Sys2Proof.Machine.execLpos o s
  | .exp2 o => Sys2Proof.Machine.execExp2 o s
  | .log2 o => Sys2Proof.Machine.execLog2 o s
  | .rcp o => Sys2Proof.Machine.execRcp o s
  | .rsq o => Sys2Proof.Machine.execRsq o s
  | .sqrt o => Sys2Proof.Machine.execSqrt o s
  | .sin2pi o => Sys2Proof.Machine.execSin2pi o s
  | .cos2pi o => Sys2Proof.Machine.execCos2pi o s
  | .tanh o => Sys2Proof.Machine.execTanh o s
  | .ld sz o => Sys2Proof.Machine.execLd sz o s
  | .ldu sz o => Sys2Proof.Machine.execLdu sz o s
  | .st sz o => Sys2Proof.Machine.execSt sz o s
  | .stu sz o => Sys2Proof.Machine.execStu sz o s
  | .lds sz o => Sys2Proof.Machine.execLds sz o s
  | .sts sz o => Sys2Proof.Machine.execSts sz o s
  | .aadd o => Sys2Proof.Machine.execAadd o s
  | .amin o => Sys2Proof.Machine.execAmin o s
  | .amax o => Sys2Proof.Machine.execAmax o s
  | .aminn o => Sys2Proof.Machine.execAminn o s
  | .amaxn o => Sys2Proof.Machine.execAmaxn o s
  | .aand o => Sys2Proof.Machine.execAand o s
  | .aor o => Sys2Proof.Machine.execAor o s
  | .axor o => Sys2Proof.Machine.execAxor o s
  | .axchg o => Sys2Proof.Machine.execAxchg o s
  | .acas o => Sys2Proof.Machine.execAcas o s
  | .afadd o => Sys2Proof.Machine.execAfadd o s
  | .abfadd2 o => Sys2Proof.Machine.execAbfadd2 o s
  | .ldls o => Sys2Proof.Machine.execLdls o s
  | .ldlv o => Sys2Proof.Machine.execLdlv o s
  | .ldl64 o => Sys2Proof.Machine.execLdl64 o s
  | .lg2s o => Sys2Proof.Machine.execLg2s o s
  | .ls2g o => Sys2Proof.Machine.execLs2g o s
  | .bulk o => Sys2Proof.Machine.execBulk o s
  | .mcast o => Sys2Proof.Machine.execMcast o s
  | .dec o => Sys2Proof.Machine.execDec o s
  | .peer o => Sys2Proof.Machine.execPeer o s
  | .dscd o => Sys2Proof.Machine.execDscd o s
  | .pref o => Sys2Proof.Machine.execPref o s
  | .red o => Sys2Proof.Machine.execRed o s
  | .mma o => Sys2Proof.Machine.execMma o s
  | .mmaz o => Sys2Proof.Machine.execMmaz o s
  | .mmld o => Sys2Proof.Machine.execMmld o s
  | .mmst o => Sys2Proof.Machine.execMmst o s
  | .mmcl o => Sys2Proof.Machine.execMmcl o s
  | .mmcv o => Sys2Proof.Machine.execMmcv o s
  | .mmsp o => Sys2Proof.Machine.execMmsp o s
  | .spcmp o => Sys2Proof.Machine.execSpcmp o s
  | .pcomp o => Sys2Proof.Machine.execPcomp o s
  | .pinv o => Sys2Proof.Machine.execPinv o s
  | .nnz o => Sys2Proof.Machine.execNnz o s
  | .wnw o => Sys2Proof.Machine.execWnw o s
  | .wnf o => Sys2Proof.Machine.execWnf o s
  | .wnx o => Sys2Proof.Machine.execWnx o s
  | .fence o => Sys2Proof.Machine.execFence o s
  | .fencesc o => Sys2Proof.Machine.execFencesc o s
  | .ofence o => Sys2Proof.Machine.execOfence o s
  | .bar o => Sys2Proof.Machine.execBar o s
  | .bara o => Sys2Proof.Machine.execBara o s
  | .barw o => Sys2Proof.Machine.execBarw o s
  | .bart o => Sys2Proof.Machine.execBart o s
  | .txbi o => Sys2Proof.Machine.execTxbi o s
  | .txbe o => Sys2Proof.Machine.execTxbe o s
  | .txba o => Sys2Proof.Machine.execTxba o s
  | .txbw o => Sys2Proof.Machine.execTxbw o s
  | .txbt o => Sys2Proof.Machine.execTxbt o s
  | .waita o => Sys2Proof.Machine.execWaita o s
  | .hwait o => Sys2Proof.Machine.execHwait o s
  | .htest o => Sys2Proof.Machine.execHtest o s
  | .hcan o => Sys2Proof.Machine.execHcan o s
  | .hexp o => Sys2Proof.Machine.execHexp o s
  | .himp o => Sys2Proof.Machine.execHimp o s
  | .sjoin o => Sys2Proof.Machine.execSjoin o s
  | .sleave o => Sys2Proof.Machine.execSleave o s
  | .sinfo o => Sys2Proof.Machine.execSinfo o s
  | .ssub o => Sys2Proof.Machine.execSsub o s
  | .sunsub o => Sys2Proof.Machine.execSunsub o s
  | .ssync o => Sys2Proof.Machine.execSsync o s
  | .nbeg o => Sys2Proof.Machine.execNbeg o s
  | .nxt o => Sys2Proof.Machine.execNxt o s
  | .nidx o => Sys2Proof.Machine.execNidx o s
  | .nbar o => Sys2Proof.Machine.execNbar o s
  | .nred o => Sys2Proof.Machine.execNred o s
  | .nbc o => Sys2Proof.Machine.execNbc o s
  | .nmap o => Sys2Proof.Machine.execNmap o s
  | .nllm o => Sys2Proof.Machine.execNllm o s
  | .spawn o => Sys2Proof.Machine.execSpawn o s
  | .launch o => Sys2Proof.Machine.execLaunch o s
  | .tdone o => Sys2Proof.Machine.execTdone o s
  | .csrr o => Sys2Proof.Machine.execCsrr o s
  | .csrw o => Sys2Proof.Machine.execCsrw o s
  | .csrs o => Sys2Proof.Machine.execCsrs o s
  | .csrc o => Sys2Proof.Machine.execCsrc o s
  | .mpost o => Sys2Proof.Machine.execMpost o s
  | .mtake o => Sys2Proof.Machine.execMtake o s
  | .mpeek o => Sys2Proof.Machine.execMpeek o s
  | .ximm payload => Sys2Proof.Machine.execXimm payload s
  | .xreg payload => Sys2Proof.Machine.execXreg payload s
  | .xprd payload => Sys2Proof.Machine.execXprd payload s
  | .xmod payload => Sys2Proof.Machine.execXmod payload s
  | .xmem payload => Sys2Proof.Machine.execXmem payload s
  | .xsch payload => Sys2Proof.Machine.execXsch payload s
  | .xoff payload => Sys2Proof.Machine.execXoff payload s
  | .nop => Sys2Proof.Machine.execNop s
  | .exit => Sys2Proof.Machine.execExit s
  | .yld => Sys2Proof.Machine.execYld s
  | .eret => Sys2Proof.Machine.execEret s
  | .ifence => Sys2Proof.Machine.execIfence s
  | .fetch uid => Sys2Proof.Machine.execFetch uid s
  | .pageResponseSuccess r => Sys2Proof.Machine.execPageResponseSuccess r s
  | .pageResponseInvalidRequest r => Sys2Proof.Machine.execPageResponseInvalidRequest r s
  | .gatherFlush core => Sys2Proof.Machine.execGatherFlush core s
  | .operandLogEntry uid a => Sys2Proof.Machine.execOperandLogEntry uid a s
  | .operandLogReplay uid seq => Sys2Proof.Machine.execOperandLogReplay uid seq s
  | .lateTrap uid => Sys2Proof.Machine.execLateTrap uid s
  | .storeDrain uid a => Sys2Proof.Machine.execStoreDrain uid a s
  | .homeWritePerform w => Sys2Proof.Machine.execHomeWritePerform w s
  | .loadPerform uid a => Sys2Proof.Machine.execLoadPerform uid a s
  | .atomicPerform uid a => Sys2Proof.Machine.execAtomicPerform uid a s
  | .sliceAccessPerform uid a => Sys2Proof.Machine.execSliceAccessPerform uid a s
  | .fill f => Sys2Proof.Machine.execFill f s
  | .expire l1 asid line => Sys2Proof.Machine.execExpire l1 asid line s
  | .deliver src dst => Sys2Proof.Machine.execDeliver src dst s
  | .batchSend sub batch => Sys2Proof.Machine.execBatchSend sub batch s
  | .forward sub batch => Sys2Proof.Machine.execForward sub batch s
  | .wait uid seq => Sys2Proof.Machine.execWait uid seq s
  | .complete op => Sys2Proof.Machine.execComplete op s
  | .mcastTransferStart op member => Sys2Proof.Machine.execMcastTransferStart op member s
  | .rowCommit op => Sys2Proof.Machine.execRowCommit op s
  | .mmStallReset core => Sys2Proof.Machine.execMmStallReset core s
  | .patternCompileDone core entry => Sys2Proof.Machine.execPatternCompileDone core entry s
  | .energyWindow die => Sys2Proof.Machine.execEnergyWindow die s
  | .sleepWake uid => Sys2Proof.Machine.execSleepWake uid s
  | .preemptRequest uids => Sys2Proof.Machine.execPreemptRequest uids s
  | .pretoExpiry uid => Sys2Proof.Machine.execPretoExpiry uid s
  | .sheafResume uid core => Sys2Proof.Machine.execSheafResume uid core s
  | .sheafMigrate uid core => Sys2Proof.Machine.execSheafMigrate uid core s
  | .subscriptionResyncFetch sub sector => Sys2Proof.Machine.execSubscriptionResyncFetch sub sector s
  | .hostPost fn off bytes => Sys2Proof.Machine.execHostPost fn off bytes s
  | .launchPacketCheck port => Sys2Proof.Machine.execLaunchPacketCheck port s
  | .dependenceRead launch dep => Sys2Proof.Machine.execDependenceRead launch dep s
  | .sheafAdmit launch cluster => Sys2Proof.Machine.execSheafAdmit launch cluster s
  | .sheafPlace uid core => Sys2Proof.Machine.execSheafPlace uid core s
  | .groupClose cluster group => Sys2Proof.Machine.execGroupClose cluster group s
  | .drainEnd uid => Sys2Proof.Machine.execDrainEnd uid s
  | .launchComplete launch => Sys2Proof.Machine.execLaunchComplete launch s
  | .shoot c => Sys2Proof.Machine.execShoot c s
  | .ctxsave c => Sys2Proof.Machine.execCtxsave c s
  | .ctxload c => Sys2Proof.Machine.execCtxload c s
  | .shend c => Sys2Proof.Machine.execShend c s
  | .dirtset c => Sys2Proof.Machine.execDirtset c s
  | .dirtclr c => Sys2Proof.Machine.execDirtclr c s
  | .mbxmake c => Sys2Proof.Machine.execMbxmake c s
  | .mbxfree c => Sys2Proof.Machine.execMbxfree c s
  | .slflush c => Sys2Proof.Machine.execSlflush c s
  | .quiesce c => Sys2Proof.Machine.execQuiesce c s
  | .test c => Sys2Proof.Machine.execTest c s
  | .remap c => Sys2Proof.Machine.execRemap c s
  | .resume c => Sys2Proof.Machine.execResume c s
  | .segmentLoad r => Sys2Proof.Machine.execSegmentLoad r s
  | .segmentRetire ctx old new => Sys2Proof.Machine.execSegmentRetire ctx old new s
  | .unload ctx obj => Sys2Proof.Machine.execUnload ctx obj s
  | .forcedUnload ctx obj => Sys2Proof.Machine.execForcedUnload ctx obj s
  | .seqmWrite core v => Sys2Proof.Machine.execSeqmWrite core v s
  | .microword core => Sys2Proof.Machine.execMicroword core s
  | .waymkWrite die v => Sys2Proof.Machine.execWaymkWrite die v s
  | .poolWriteCompletion asid line => Sys2Proof.Machine.execPoolWriteCompletion asid line s
  | .poisonResponse asid line sectors => Sys2Proof.Machine.execPoisonResponse asid line sectors s
  | .extentAdd base len port => Sys2Proof.Machine.execExtentAdd base len port s
  | .extentReleaseRequest base => Sys2Proof.Machine.execExtentReleaseRequest base s
  | .fabricBindingInstall ctx rdev rctx => Sys2Proof.Machine.execFabricBindingInstall ctx rdev rctx s
  | .reductionGroupInstall g => Sys2Proof.Machine.execReductionGroupInstall g s
  | .tieFlitIdle link flit => Sys2Proof.Machine.execTieFlitIdle link flit s
  | .tieFlitRequest link flit carry => Sys2Proof.Machine.execTieFlitRequest link flit carry s
  | .tieFlitData link flit carry => Sys2Proof.Machine.execTieFlitData link flit carry s
  | .tieFlitAckCredit link flit => Sys2Proof.Machine.execTieFlitAckCredit link flit s
  | .tieFlitReductionPartial link flit carry => Sys2Proof.Machine.execTieFlitReductionPartial link flit carry s
  | .linkDeclaredDown link => Sys2Proof.Machine.execLinkDeclaredDown link s
  | .remoteWriteAck op n => Sys2Proof.Machine.execRemoteWriteAck op n s
  | .reductionRoundClose gid => Sys2Proof.Machine.execReductionRoundClose gid s
  | .groupAbort gid => Sys2Proof.Machine.execGroupAbort gid s
  | .getVersion => Sys2Proof.Machine.execGetVersion s
  | .getCapabilities => Sys2Proof.Machine.execGetCapabilities s
  | .negotiateAlgorithms => Sys2Proof.Machine.execNegotiateAlgorithms s
  | .getDigests => Sys2Proof.Machine.execGetDigests s
  | .getCertificate => Sys2Proof.Machine.execGetCertificate s
  | .challenge nonce => Sys2Proof.Machine.execChallenge nonce s
  | .getMeasurements index => Sys2Proof.Machine.execGetMeasurements index s
  | .patrolScrub asid line => Sys2Proof.Machine.execPatrolScrub asid line s
  | .telemetryReport => Sys2Proof.Machine.execTelemetryReport s
  | .thermalThrottle die => Sys2Proof.Machine.execThermalThrottle die s
  | .thermalShutdown die => Sys2Proof.Machine.execThermalShutdown die s
  | .powerRemoval => Sys2Proof.Machine.execPowerRemoval s
  | .boot => Sys2Proof.Machine.execBoot s
  | .firmwareUpdate img => Sys2Proof.Machine.execFirmwareUpdate img s
  | .firmwareActivate => Sys2Proof.Machine.execFirmwareActivate s
  | .illegalInstruction w => Sys2Proof.Machine.execIllegalInstruction w s
  | .commandCompletion id => Sys2Proof.Machine.execCommandCompletion id s
  | .engineScratchAccess op act => Sys2Proof.Machine.execEngineScratchAccess op act s
  | .homeMigration asid line slice => Sys2Proof.Machine.execHomeMigration asid line slice s
  | .l2LineEviction asid line => Sys2Proof.Machine.execL2LineEviction asid line s
  | .hostBar0Write fn off bytes => Sys2Proof.Machine.execHostBar0Write fn off bytes s
  | .arithmeticClockChange die mhz => Sys2Proof.Machine.execArithmeticClockChange die mhz s
  | .newImageTakeover rates => Sys2Proof.Machine.execNewImageTakeover rates s

end Sys2Proof.Machine
end

