-- ==== Sys2Proof/Machine/Schedule.lean ====
section
/-! DEFINITION. What the schedule takes as the next step (log entry 1): a move that has been chosen, an issue by the current
sheaf, or one of the device's own steps; the passing of time; and a word placed where the next fetch finds it. -/

namespace Sys2Proof.Machine

/-! ### Issue (14/R342, 02/R27, R31) -/

/-- Whether an instruction is swept: it goes through the vector pipe (02/R25). -/
def Sheaf.vectorPipe (h : Sheaf) (i : Instr) : Bool :=
  (h.operands i).any fun f => match f.use with | .v _ | .k => true | _ => false

/-- The pipe an instruction has issued on is marked; a sheaf that gives hints is no longer held to the order within its class
(04/R87; log entry 13). -/
def Sheaf.stamp (h : Sheaf) (now : Nat) (vector hint : Bool) : Sheaf :=
  { h with lastU := if vector then h.lastU else now, lastV := if vector then now else h.lastV, rdy := 0, hinted := h.hinted || hint }

/-- Mark an issue of a sheaf, unless the instruction still waits there. -/
def State.stampIssue (s : State) (h : Sheaf) (i : Instr) : State :=
  s.modSheaf h.uid fun x => if x.fbuf.isSome then x else x.stamp s.ctl.time (h.vectorPipe i) (h.chain.get 5).isSome

/-- The current sheaf fetches the next word of its path and executes it; a word the decoder refuses is an illegal
instruction. -/
def issueCur (s : State) : Out :=
  match s.cur? with
  | none => .next s
  | some h =>
    let s1 := s.fetchFor h
    match s1.cur?.bind fun x => x.fbuf with
    | none => .next s1
    | some w => match decode w with
      | some i => match exec i s1 with
        | .next t => .next (t.stampIssue h i)
        | o => o
      | none => execIllegalInstruction w s1

/-- The instruction a sheaf is ready to issue, if it is: one that would not wait (02/R31). -/
def State.readyFor (s : State) (h : Sheaf) : Option Instr :=
  if !s.canIssue h || h.seqr || h.waiting then none
  else
    let s0 : State := { s with ctl := { s.ctl with cur := h.uid } }
    let s1 := s0.fetchFor h
    match (s1.cur?.bind fun x => x.fbuf).bind decode with
    | none => none
    | some i => match exec i s1 with
      | .next t => if ((t.sheaf? h.uid).bind fun x => x.fbuf).isSome then none else some i
      | _ => none

/-- The cycles of the issue bound, in thousandths (00/R3). -/
def issueBound : Nat := 512000

/-- The arithmetic clock of the die of a core, in MHz. -/
def State.clockAt (s : State) (core : Nat) : Nat := s.rep.clock.getD (dieOf core) 3300

/-- Whether the bound has run out for a sheaf: whatever the classes of the others, it may issue. -/
def Sheaf.overdue (h : Sheaf) : Bool := decide (issueBound ≤ h.rdy)

/-- Whether a sheaf of the same core goes before another on the pipe of its instruction: a higher class, or the same class and
longer since it issued there. -/
def State.goesBefore (s : State) (g h : Sheaf) (vector : Bool) : Bool :=
  g.uid != h.uid && g.core == h.core &&
  (decide (h.prio < g.prio) || (g.prio == h.prio && !g.hinted && !h.hinted &&
    (if vector then decide (g.lastV < h.lastV) else decide (g.lastU < h.lastU)))) &&
  match s.readyFor g with | some i => g.vectorPipe i == vector | none => false

/-- Whether the issue selector may choose a sheaf now (14/R342). -/
def State.mayIssue (s : State) (h : Sheaf) : Bool :=
  let others := s.sheaves.filter fun (g : Sheaf) => g.uid != h.uid && g.core == h.core
  others.isEmpty || h.seqr || h.overdue || match s.readyFor h with
    | some i => !others.any fun g => s.goesBefore g h (h.vectorPipe i)
    | none => true

/-- The current sheaf issues if the selector may choose it. -/
def State.issueTurn (s : State) : Out :=
  match s.cur? with
  | none => .next s
  | some h => if s.mayIssue h then issueCur s else .next s

/-! ### Time (01/R17, 08/R246, 10/R293) -/

/-- Whether the energy window of this instant has still to begin for some budget. -/
def State.windowDue (s : State) : Bool :=
  s.ctl.time % 1000 == 0 && s.ctxs.any fun c => c.energy.any fun e => decide (e.win < s.ctl.time / 1000)

/-- The nanoseconds until the next energy window. -/
def State.windowSlack (s : State) : Nat := if s.ctxs.isEmpty then 1000000000 else if s.windowDue then 0 else 1000 - s.ctl.time % 1000

/-- The nanoseconds until some closed group is due (14/R335). -/
def State.groupSlack (s : State) : List Nat :=
  (List.range 24).flatMap fun c => (s.groups c).filterMap fun g => s.groupDue c g

/-- The nanoseconds of a clock that some thousandths of a cycle take: the last one is whole. -/
def nsOf (clock c : Nat) : Nat := (c + max 1 clock - 1) / max 1 clock

/-- The nanoseconds until a ready sheaf must have issued (14/R342). -/
def State.issueSlack (s : State) : List Nat :=
  s.sheaves.filterMap fun h => (s.readyFor h).map fun _ => nsOf (s.clockAt h.core) (issueBound - h.rdy)

/-- The nanoseconds until some request must leave the gather collector (06/R151). -/
def State.gatherSlack (s : State) : List Nat :=
  s.sheaves.flatMap fun h => h.mq.filterMap fun e => match e with
    | .acc a => if a.gath == 0 then none else some (if s.gatherFull h.core then 0 else nsOf (s.clockAt h.core) (a.gath - 1))
    | _ => none

/-- The nanoseconds of 24 hours. -/
def dayNs : Nat := 86400000000000

/-- The nanoseconds until patrol scrubbing must have visited some line (20/R422). -/
def State.scrubSlack (s : State) : List Nat := s.mm.homes.map fun (h : Home) => h.seen + dayNs - s.ctl.time

/-- The nanoseconds that may pass at once: no bound of the device is passed before what it asks for has been done (00/R3). -/
def State.slack (s : State) : Nat := (s.groupSlack ++ s.issueSlack ++ s.gatherSlack ++ s.scrubSlack).foldl min s.windowSlack

/-- What is left of PRETO after some thousandths of a cycle (17/R390, 01/R16). -/
def StopReq.after (r : StopReq) (c : Nat) : StopReq := ⟨r.left - c, r.due || decide (r.left ≤ c)⟩

/-- Requests wait on in the gather collector (06/R151). -/
def MqEntry.wait (e : MqEntry) (c : Nat) : MqEntry :=
  match e with
  | .acc a => .acc { a with gath := if a.gath == 0 then 0 else max 1 (a.gath - c) }
  | e => e

/-- Time passes: PRETO runs, a matrix operation that commits nothing grows idle (10/R290), copies that must expire leave their L1
(08/R246). -/
def State.elapse (s : State) (ns : Nat) : State :=
  let k := min ns s.slack
  let now := s.ctl.time + k
  let sheaf := fun (h : Sheaf) => { h with
    stop := h.stop.map fun r => r.after (k * s.clockAt h.core)
    mq := h.mq.map fun e => e.wait (k * s.clockAt h.core)
    rdy := if (s.readyFor h).isSome then h.rdy + k * s.clockAt h.core else 0 }
  let op := fun (o : Op) => if (s.matrixRunning o.core).any fun p => p.id == o.id then { o with idle := o.idle + k * s.clockAt o.core }
    else { o with idle := 0 }
  let t : State := { s with
    ctl := { s.ctl with time := now }, sheaves := s.sheaves.map sheaf, eng := { s.eng with ops := s.eng.ops.map op } }
  t.dropCopies fun c => decide (c.le + 2 ≤ t.reading (l1Place c.l1))

/-! ### The device's own steps -/

/-- A step of the device. -/
inductive Own where
  | deliver (src dst : Nat)
  | respond (src dst : Nat)
  | result (uid : Nat)
  | gather (core : Nat)
  | drain (uid : Nat) (a : AccId)
  | fillAcc (uid : Nat) (a : AccId)
  | load (uid : Nat) (a : AccId)
  | store (uid : Nat) (a : AccId)
  | atom (uid : Nat) (a : AccId)
  | slice (uid : Nat) (a : AccId)
  | enter (uid : Nat) (a : AccId)
  | wait (uid seq : Nat)
  | wake (uid : Nat)
  | late (uid : Nat)
  | stop (uid : Nat)
  | ended (uid : Nat)
  | replay (uid seq : Nat)
  | read (op n : Nat)
  | write (op n : Nat)
  | fillOp (op line : Nat)
  | perform (op n : Nat)
  | mcast (op member : Nat)
  | row (op : Nat)
  | complete (op : Nat)
  | compiled (core entry : Nat)
  | send (sub batch : Nat)
  | forward (sub batch : Nat)
  | fetchSector (sub sector : Nat)
  | pool (asid line : Nat)
  | round (gid : Word)
  | packet (port : Nat)
  | dep (launch k : Nat)
  | enters (launch cluster : Nat)
  | place (uid core : Nat)
  | group (cluster k : Nat)
  | launched (launch : Nat)
  | resume (uid core : Nat)
  | command
  | finish (id : Nat)
  | micro (core : Nat)
  | window (die : Nat)
  | scrub (asid line : Nat)
deriving DecidableEq, Repr

/-- The oldest command of the command port is taken (17/R380). -/
def State.nextCommand (s : State) : Out :=
  match s.cmdPort.bind fun m => m.msgs.head? with
  | none => .next s
  | some bs =>
    let c := cmdOf bs
    match natAt bs 0 1 with
    | 1 => execShoot c s
    | 2 => execCtxsave c s
    | 3 => execCtxload c s
    | 4 => execShend c s
    | 5 => execDirtset c s
    | 6 => execDirtclr c s
    | 7 => execMbxmake c s
    | 8 => execMbxfree c s
    | 0x10 => execSlflush c s
    | 0x11 => execQuiesce c s
    | 0x12 => execTest c s
    | 0x13 => execRemap c s
    | 0x14 => execResume c s
    | _ => .next s

/-- Take a step of the device. -/
def Own.run (m : Own) (s : State) : Out :=
  match m with
  | .deliver a b => execDeliver a b s
  | .respond a b => .next (s.respond a b)
  | .result u => .next (s.resultArrives u)
  | .gather c => execGatherFlush c s
  | .drain u a => execStoreDrain u a s
  | .fillAcc u a => .next (s.fillFor u a)
  | .load u a => execLoadPerform u a s
  | .store u a => .next (s.performStore u a)
  | .atom u a => execAtomicPerform u a s
  | .slice u a => execSliceAccessPerform u a s
  | .enter u a => execOperandLogEntry u a s
  | .wait u n => execWait u n s
  | .wake u => execSleepWake u s
  | .late u => execLateTrap u s
  | .stop u => execPretoExpiry u s
  | .ended u => execDrainEnd u s
  | .replay u n => execOperandLogReplay u n s
  | .read o n => execEngineScratchAccess o (.read n) s
  | .write o n => execEngineScratchAccess o (.write n) s
  | .fillOp o l => .next (s.fillOp o l)
  | .perform o n => execHomeWritePerform (.unit o n) s
  | .mcast o m => execMcastTransferStart o m s
  | .row o => execRowCommit o s
  | .complete o => execComplete o s
  | .compiled c e => execPatternCompileDone c e s
  | .send p b => execBatchSend p b s
  | .forward p b => execForward p b s
  | .fetchSector p k => execSubscriptionResyncFetch p k s
  | .pool a l => execPoolWriteCompletion a l s
  | .round g => execReductionRoundClose g s
  | .packet p => execLaunchPacketCheck p s
  | .dep l k => execDependenceRead l k s
  | .enters l c => execSheafAdmit l c s
  | .place u c => execSheafPlace u c s
  | .group c k => execGroupClose c k s
  | .launched l => execLaunchComplete l s
  | .resume u c => execSheafResume u c s
  | .command => s.nextCommand
  | .finish id => execCommandCompletion id s
  | .micro c => execMicroword c s
  | .window d => execEnergyWindow d s
  | .scrub a l => execPatrolScrub a l s

/-- The steps that may concern one queued access. -/
def accMoves (uid : Nat) (a : Access) : List Own :=
  match a.space, a.kind with
  | .slm, _ => [.drain uid a.id, .slice uid a.id]
  | .glob, .load => [.fillAcc uid a.id, .load uid a.id, .enter uid a.id]
  | .glob, .store => [.drain uid a.id, .store uid a.id, .enter uid a.id]
  | .glob, .atomic _ => [.drain uid a.id, .atom uid a.id, .enter uid a.id]

/-- The steps that may concern a sheaf. -/
def State.sheafMoves (s : State) (h : Sheaf) : List Own :=
  let mem := h.mq.flatMap fun (e : MqEntry) => match e with
    | .acc a => accMoves h.uid a
    | .release n _ | .acqOf n _ | .acqFence n _ => [.wait h.uid n]
  let life := match h.run with
    | .waiting => ((List.range 48).map fun k => Own.place h.uid (clusterOf h.core * 48 + k))
    | .stopped _ _ => (((List.range 48).map fun k => clusterOf h.core * 48 + k) ++ List.range nCores).filter (fun k =>
        s.fitsOn k (s.footprint h)) |>.take 1 |>.map fun k => Own.resume h.uid k
    | .draining => [.ended h.uid]
    | _ => []
  mem ++ (if h.late.isEmpty then [] else [.result h.uid]) ++ [.wake h.uid, .late h.uid, .stop h.uid] ++ life

/-- The steps that may concern an engine operation. -/
def State.opMoves (s : State) (o : Op) : List Own :=
  match s.sheaf? o.sheaf with
  | none => []
  | some h =>
    if !o.live then []
    else
      let rs := s.needs o
      let lines := (rs.filter fun r => r.sp == 0 && r.n != 0).flatMap fun r =>
        (List.range ((r.a + r.n - 1) / 128 - r.a / 128 + 1)).map fun k => r.a / 128 + k
      let us := (s.units o h).filter fun n => !o.done.contains n
      (rs.zipIdx.filter fun (p : Rng × Nat) => p.1.sp != 0 && !o.got p.1).map (fun (p : Rng × Nat) => Own.read o.id p.2) ++
      (lines.dedup.filter fun l => s.wantsLine o l).map (fun l => Own.fillOp o.id l) ++
      us.flatMap (fun n => [Own.write o.id n, Own.perform o.id n]) ++
      (if o.kind == .wnw || o.kind == .wnf || o.kind == .spcmp then [.write o.id 0] else []) ++
      o.xfers.map (fun x => Own.mcast o.id x.idx) ++ [.row o.id, .complete o.id]

/-- The device's own steps that may be enabled, in a fixed order. -/
def State.ownMoves (s : State) : List Own :=
  (List.range 4).map (fun d => Own.window d) ++
  s.seqs.map (fun q => Own.micro q.core) ++
  (s.mm.chans.map fun r => (r.src, r.dst)).dedup.map (fun p => Own.deliver p.1 p.2) ++
  (s.mm.backs.map fun b => (b.req.src, b.req.dst)).dedup.map (fun p => Own.respond p.1 p.2) ++
  (s.sheaves.map fun h => h.core).dedup.map (fun c => Own.gather c) ++
  s.sheaves.flatMap s.sheafMoves ++
  s.eng.ops.flatMap s.opMoves ++
  s.flt.log.map (fun e => Own.replay e.uid e.seq) ++
  s.eng.pats.map (fun p => Own.compiled p.core p.id) ++
  s.stk.subs.flatMap (fun p => p.dirty.map (fun k => Own.fetchSector p.uid k) ++ p.batches.flatMap fun b => [Own.send p.uid b.id, Own.forward p.uid b.id]) ++
  (s.mm.homes.filter fun h => !h.owed.isEmpty).map (fun h => Own.pool h.asid h.line) ++
  (s.mm.homes.filter fun (h : Home) => decide (h.seen + dayNs ≤ s.ctl.time)).map (fun h => Own.scrub h.asid h.line) ++
  s.fab.groups.map (fun g => Own.round g.gid) ++
  [.command] ++ s.sys.cmds.map (fun r => Own.finish r.id) ++
  (s.job.mbx.filter fun m => m.kind == 2 && !m.msgs.isEmpty).map (fun m => Own.packet m.head) ++
  s.job.launches.flatMap (fun l => (List.range 2).map (fun k => Own.dep l.id k) ++
    (if l.waits then (List.range 24).map (fun c => Own.enters l.id c) else []) ++ if l.done then [] else [.launched l.id]) ++
  (s.job.tasks.map fun t => t.1).dedup.flatMap (fun c => (List.range (s.groups c).length).map fun k => Own.group c k)

/-- The first of some steps that changes anything. -/
def firstChange (s : State) : List Own → State × Nat
  | [] => (s, 0)
  | m :: ms => match m.run s with
    | .next t => if t == s then let r := firstChange s ms; (r.1, r.2 + 1) else (t, 1)
    | _ => let r := firstChange s ms; (r.1, r.2 + 1)

/-- The sheaf that issues next: the one after the current that the selector may choose. -/
def State.nextCur (s : State) : Nat :=
  let us := (s.sheaves.filter fun h => s.canIssue h && s.mayIssue h).map fun h => h.uid
  match us.find? fun u => s.ctl.cur < u with
  | some u => u
  | none => us.headD s.ctl.cur

/-- One of the device's own steps, in turn, and a nanosecond passes; then another sheaf may issue. -/
def State.service (s : State) : State :=
  let ms := s.ownMoves
  let k := s.ctl.turn % max 1 ms.length
  let r := firstChange s (ms.drop k ++ ms.take k)
  let t := r.1.elapse 1
  { t with ctl := { t.ctl with turn := s.ctl.turn + r.2, cur := t.nextCur } }

/-! ### The schedule -/

/-- Whether an instruction is a step of the device: it has no word (04/R75). -/
def isStep (i : Instr) : Bool := encode i == 0xFFFFFFFF

/-- Make a chosen move. An instruction word is only ever executed by way of its fetch. -/
def State.make (s : State) (m : Move) : Out :=
  match m with
  | .event i => if isStep i then (match i with | .illegalInstruction _ => .next s | _ => exec i s) else .next s
  | .issue uid => State.issueTurn { s with ctl := { s.ctl with cur := uid } }
  | .elapse ns => .next (s.elapse ns)
  | .upset u => .next (s.upset u)
  | .outside o => .next (s.outside o)

/-- Copies in an L1 that has been fused with others, or is fused no longer, leave it: an Expire may happen at any time (08/R246,
R249; log entry 78). -/
def State.regroup (s : State) : State :=
  if s.mm.l1.any s.strayCopy then s.dropCopies s.strayCopy else s

/-- After a step: segments that nothing refers to any more are freed (16/R370, R372), and no L1 holds copies that it cannot. -/
def Out.tidy (o : Out) : Out :=
  match o with
  | .next s => .next (if s.segs.any fun g => g.state == .retired || g.state == .revoked then s.sweepSegs else s).regroup
  | x => x

/-- One step: the head of the agenda; else an issue by the current sheaf and a step of the device, in turn. -/
def State.advance (s : State) : Out :=
  match s.ctl.agenda with
  | m :: ms => (State.make { s with ctl := { s.ctl with agenda := ms } } m).tidy
  | [] =>
    if s.ctl.svc then Out.tidy (.next ({ s with ctl := { s.ctl with svc := false } } : State).service)
    else (State.issueTurn { s with ctl := { s.ctl with svc := true } }).tidy

/-! ### A word for the next fetch (log entry 5) -/

/-- The context a placed word runs in. -/
def trialCtx : Ctx :=
  { id := 1, live := true, asid := 1, vf := 0, ptroot := 0, tdbase := 0, cb := 0, bb := 0, pb := 4000, preto := 0, fmbx := 0
    csa := 0, sgrant := [], sgrantVa := 0, flost := 0, lnext := 0, bidx := 0, tstk := 0, tstkn := 0, tstks := 0, win := []
    exports := [], energy := List.replicate 4 ⟨1000, 1000, 0, 0, 0, false, 0⟩, tasks := [], objs := [], resolver := 0, stopped := false
    wrote := [] }

/-- The segment a placed word stands in. -/
def trialSeg : Seg :=
  { idx := 1, base := 0x10000, len := 65536, gen := 1, state := .live, owner := 1, elistVa := 0, sptVa := 0
    elist := [⟨0, 128, 16, 64, 4096, true, true⟩], spt := [⟨0, 0, 0, 0⟩] }

/-- A sheaf of one lane at offset 0 of that segment, on core 0. -/
def trialSheaf : Sheaf :=
  let h := Sheaf.start 1 0 ⟨1, 128, 16, 64, 0, 0⟩ 1 ⟨1, 1, 0⟩ 0
  { h with run := .running, alloc := ⟨0, 64, 1⟩, sstk := 0x20000, sstks := 4096 }

/-- A program loaded: the context, its segment and a sheaf that runs, in a device that has booted. -/
def State.withTrial (s : State) : State :=
  { s with
    ctl := { s.ctl with cur := 1, nextId := max 2 s.ctl.nextId }
    sheaves := trialSheaf :: s.sheaves.filter fun h => h.uid != 1
    ctxs := trialCtx :: s.ctxs.filter fun c => c.id != 1
    segs := trialSeg :: s.segs.filter fun g => g.idx != 1
    rep := { s.rep with booted := true } }

/-- Put a word into the current sheaf's instruction cache at its PC. -/
def State.putWord (s : State) (w : Word) : State :=
  match s.cur? with
  | none => s
  | some h =>
    let off := h.pc.off.toNat
    let key := fun (c : ICLine) => c.core == h.core && c.seg == h.pc.seg && c.gen == h.pc.gen && c.blk == off / 64
    let old := ((s.mm.ic.find? key).map (·.words)).getD (List.replicate 16 0)
    let line : ICLine := ⟨h.core, h.pc.seg, h.pc.gen, off / 64, old.set (off % 64 / 4) w⟩
    ({ s with mm := { s.mm with ic := line :: s.mm.ic.filter fun c => !key c } } : State).putSheaf
      { h with fbuf := none, chain := ⟨none, []⟩, waiting := false }

/-- Whether the current sheaf can fetch and issue where it stands. -/
def State.canRunHere (s : State) : Bool :=
  match s.cur? with
  | none => false
  | some h => s.canIssue h && !h.seqr &&
    match s.seg? h.pc.seg.toNat with | some g => g.state != .revoked && decide (h.pc.off.toNat < g.len) | none => false

/-- The word placed where the next step fetches: at the PC of the current sheaf if it can run there, else in a loaded
program. -/
def State.place (s : State) (w : Word) : State :=
  let s1 : State := { s with ctl := { s.ctl with agenda := [], svc := false } }
  (if s1.canRunHere then s1 else s1.withTrial).putWord w

end Sys2Proof.Machine
end

