-- ==== Sys2Proof/Safety.lean ====
section
/-! DEFINITION. What statements about the machine speak of: when an instruction word executes normally, what an instruction
leaves alone, and the canonical form of the memories. -/

namespace Sys2Proof.Machine

/-- The sheaf that issues is `h`; it may issue; decode finds no cause in the unit (04/R78); no register of the unit is pending
(02/R31); a sequencer sheaf has what the instruction needs (04/R106); and no register it writes is an operand of an
unobserved per-lane copy (06/R169). Then the instruction has its own effect. -/
abbrev Ready (s : State) (h : Sheaf) (i : Instr) : Prop :=
  s.cur? = some h ∧ s.canIssue h = true ∧ s.decodeCauses h i = [] ∧ s.hazard h i = false ∧
  (h.seqr && h.needsSpace i) = false ∧ s.clobbered h i = []

/-- A sheaf without what the end of a unit changes by itself: the paths and their arrivals (02/R34), the chain and the
fetched word (04/R79), the waiting mark and the latched half of a 64-bit read of TIME. -/
def Sheaf.apart (h : Sheaf) : Sheaf :=
  { h with path := none, stack := [], chain := ⟨none, []⟩, fbuf := none, waiting := false, timeL := none }

/-- Nothing of the machine has changed but one sheaf. -/
def OnlySheaf (s t : State) (uid : Nat) : Prop :=
  ({ t with sheaves := s.sheaves } : State) = s ∧ ∀ v, v ≠ uid → t.sheaf? v = s.sheaf? v

/-- The four memories are in canonical form. -/
abbrev MemOk (s : State) : Prop :=
  s.mm.pool.wf = true ∧ s.mm.host.wf = true ∧ s.mm.slm.wf = true ∧ s.mm.scr.wf = true

/-- Every byte of the four memories reads as before. -/
def SameBytes (s t : State) : Prop :=
  (∀ a, t.mm.pool.get a = s.mm.pool.get a) ∧ (∀ a, t.mm.host.get a = s.mm.host.get a) ∧
  (∀ a, t.mm.slm.get a = s.mm.slm.get a) ∧ (∀ a, t.mm.scr.get a = s.mm.scr.get a)

end Sys2Proof.Machine
end

