-- ==== Sys2Proof/Certificates/Slice0/Obligations.lean ====
section
/-! DEFINITION. The statements for the provers, with the tables of the spec they are stated by. -/

open Sys2Proof Sys2Proof.Machine

/-! ### Scalar arithmetic (05/R122 to R124) -/

/-- The SALU forms that write s[SD] from a = s[SA] and b = s[SB] (05/R122). -/
def saluTable : List ((FS3 → Instr) × (Word → Word → Word)) :=
  [(.saluAdd, fun a b => a + b), (.saluSub, fun a b => a - b), (.saluMul, fun a b => a * b),
   (.saluMulh, fun a b => BitVec.ofInt 32 (a.toInt * b.toInt / 2 ^ 32)),
   (.saluMulhn, fun a b => BitVec.ofNat 32 (a.toNat * b.toNat / 2 ^ 32)),
   (.saluAnd, fun a b => a &&& b), (.saluOr, fun a b => a ||| b), (.saluXor, fun a b => a ^^^ b),
   (.andn, fun a b => a &&& ~~~b), (.saluShl, fun a b => a <<< (b.toNat % 32)),
   (.saluShr, fun a b => a >>> (b.toNat % 32)), (.saluSar, fun a b => a.sshiftRight (b.toNat % 32)),
   (.rotl, fun a b => a.rotateLeft (b.toNat % 32)),
   (.saluMin, fun a b => if a.slt b then a else b), (.saluMax, fun a b => if a.slt b then b else a),
   (.minn, fun a b => if a < b then a else b), (.maxn, fun a b => if a < b then b else a),
   (.clz, fun a _ => BitVec.ofNat 32 (clzWord a)), (.popc, fun a _ => BitVec.ofNat 32 (popcWord a)),
   (.brev, fun a _ => brevWord a)]

/-- The comparisons SLT, SLTN and SEQ. -/
def saluCompares : List ((FS3 → Instr) × (Word → Word → Bool)) :=
  [(.slt, fun a b => a.slt b), (.sltn, fun a b => decide (a < b)), (.seq, fun a b => a == b)]

/-- The forms of 64 bits: `b` is a pair for ADD64 and SUB64, the low six bits of s[SB] for the shifts (05/R122, R123). -/
def saluPairs : List ((FS3 → Instr) × (Sheaf → FS3 → DWord)) :=
  [(.add64, fun h o => h.getPair o.sa.toNat + h.getPair o.sb.toNat),
   (.sub64, fun h o => h.getPair o.sa.toNat - h.getPair o.sb.toNat),
   (.shl64, fun h o => h.getPair o.sa.toNat <<< ((h.getS o.sb.toNat).toNat % 64)),
   (.shr64, fun h o => h.getPair o.sa.toNat >>> ((h.getS o.sb.toNat).toNat % 64))]

/-- The SALUI forms with `a` = s[SA] and the immediate (05/R124); the shifts use the low five bits of the field. -/
def saluiTable : List ((FSI → Instr) × (Sheaf → FSI → Word)) :=
  [(.saluiAddi, fun h o => h.getS o.sa.toNat + h.imm11 o.imm), (.saluiAndi, fun h o => h.getS o.sa.toNat &&& h.imm11 o.imm),
   (.saluiOri, fun h o => h.getS o.sa.toNat ||| h.imm11 o.imm), (.saluiXori, fun h o => h.getS o.sa.toNat ^^^ h.imm11 o.imm),
   (.saluiShli, fun h o => h.getS o.sa.toNat <<< (o.imm.toNat % 32)),
   (.saluiShri, fun h o => h.getS o.sa.toNat >>> (o.imm.toNat % 32)),
   (.saluiSari, fun h o => (h.getS o.sa.toNat).sshiftRight (o.imm.toNat % 32)),
   (.saluiMovi, fun h o => h.imm11 o.imm),
   (.saluiMovhi, fun h o => o.imm ++ (h.getS o.sa.toNat).extractLsb' 0 21)]

/-- 05/R122, R123: a ready SALU form completes with its result in s[SD] (in the pair at SD for the 64-bit forms), and the path
goes on at the next word. SEL reads SD. -/
def Obligations.SaluResults : Prop :=
  (∀ p ∈ saluTable, ∀ (o : FS3) (s : State) (h : Sheaf), Ready s h (p.1 o) →
    exec (p.1 o) s = .next (s.done (h.setS o.sd.toNat (p.2 (h.getS o.sa.toNat) (h.getS o.sb.toNat))))) ∧
  (∀ (o : FS3) (s : State) (h : Sheaf), Ready s h (.saluSel o) →
    exec (.saluSel o) s = .next (s.done (h.setS o.sd.toNat
      (if h.getS o.sd.toNat != 0 then h.getS o.sa.toNat else h.getS o.sb.toNat)))) ∧
  (∀ p ∈ saluPairs, ∀ (o : FS3) (s : State) (h : Sheaf), Ready s h (p.1 o) →
    exec (p.1 o) s = .next (s.done (h.setPair o.sd.toNat (p.2 h o)))) ∧
  (∀ (o : FS3) (s : State) (h : Sheaf) (p : (FS3 → Instr) × (Word → Word → Bool)), p ∈ saluCompares →
    Ready s h (p.1 o) → exec (p.1 o) s = .next
      ((if h.seqr then s.modSeqr h.core (fun q => { q with flag := p.2 (h.getS o.sa.toNat) (h.getS o.sb.toNat) }) else s).done
        (h.setS o.sd.toNat (boolWord (p.2 (h.getS o.sa.toNat) (h.getS o.sb.toNat))))))

/-- 05/R124: a ready SALUI form completes with its result in s[SD]. -/
def Obligations.SaluiResults : Prop :=
  (∀ p ∈ saluiTable, ∀ (o : FSI) (s : State) (h : Sheaf), Ready s h (p.1 o) →
    exec (p.1 o) s = .next (s.done (h.setS o.sd.toNat (p.2 h o)))) ∧
  (∀ (o : FSI) (s : State) (h : Sheaf), Ready s h (.slti o) → exec (.slti o) s = .next
    ((if h.seqr then s.modSeqr h.core (fun q => { q with flag := (h.getS o.sa.toNat).slt (h.imm11 o.imm) }) else s).done
      (h.setS o.sd.toNat (boolWord ((h.getS o.sa.toNat).slt (h.imm11 o.imm)))))) ∧
  (∀ (h : Sheaf) (f : BitVec 11), h.chain.get 0 = none → h.imm11 f = f.signExtend 32) ∧
  (∀ (h : Sheaf) (f : BitVec 11) (p : BitVec 24), h.chain.get 0 = some p → h.imm11 f = p ++ f.extractLsb' 0 8)

/-- What completing a scalar instruction leaves: every s register but those named, everything else of its sheaf but the paths. -/
def ScalarLeaves (t : State) (h : Sheaf) (rs : List Nat) : Prop :=
  ∃ h', t.cur? = some h' ∧ h'.apart = { h.apart with s := h'.s } ∧ ∀ r, r ∉ rs → h'.getS r = h.getS r

/-- What a scalar form leaves unchanged when it completes: every s register but its destination, everything else of its sheaf
but the paths, every other sheaf, every byte of memory, every table of the machine. A comparison in a sequencer sheaf sets FLAG of
its sequencer and changes no other sequencer. -/
def Obligations.ScalarFrame : Prop :=
  (∀ c ∈ saluTable.map (·.1) ++ [.saluSel], ∀ (o : FS3) (s t : State) (h : Sheaf), Ready s h (c o) →
    exec (c o) s = .next t → ScalarLeaves t h [o.sd.toNat] ∧ OnlySheaf s t h.uid) ∧
  (∀ c ∈ saluCompares.map (·.1), ∀ (o : FS3) (s t : State) (h : Sheaf), Ready s h (c o) → exec (c o) s = .next t →
    ScalarLeaves t h [o.sd.toNat] ∧ OnlySheaf s { t with seqs := s.seqs } h.uid ∧ (h.seqr = false → t.seqs = s.seqs) ∧
      ∃ b, t.seqs = s.seqs.map fun q => if q.core = h.core ∧ h.seqr = true then { q with flag := b } else q) ∧
  (∀ c ∈ saluPairs.map (·.1), ∀ (o : FS3) (s t : State) (h : Sheaf), Ready s h (c o) → exec (c o) s = .next t →
    ScalarLeaves t h [o.sd.toNat, o.sd.toNat + 1] ∧ OnlySheaf s t h.uid) ∧
  (∀ c ∈ saluiTable.map (·.1), ∀ (o : FSI) (s t : State) (h : Sheaf), Ready s h (c o) → exec (c o) s = .next t →
    ScalarLeaves t h [o.sd.toNat] ∧ OnlySheaf s t h.uid) ∧
  (∀ (o : FSI) (s t : State) (h : Sheaf), Ready s h (.slti o) → exec (.slti o) s = .next t →
    ScalarLeaves t h [o.sd.toNat] ∧ OnlySheaf s { t with seqs := s.seqs } h.uid ∧ (h.seqr = false → t.seqs = s.seqs) ∧
      ∃ b, t.seqs = s.seqs.map fun q => if q.core = h.core ∧ h.seqr = true then { q with flag := b } else q)

/-- 02/R29: s0 and k0. -/
def Obligations.HardwiredRegisters : Prop :=
  (∀ h : Sheaf, h.getS 0 = 0) ∧ (∀ (h : Sheaf) (w : Word), h.setS 0 w = h) ∧
  (∀ l : Lane, l.getK 0 = true) ∧ (∀ (l : Lane) (b : Bool), l.setK 0 b = l) ∧
  (∀ (h : Sheaf) (n : Nat) (w : Word), n ≠ 0 → n < h.s.length → (h.setS n w).getS n = w) ∧
  (∀ (l : Lane) (n : Nat) (b : Bool), n ≠ 0 → n < 16 → (l.setK n b).getK n = b)

/-! ### Vector arithmetic (05/R125 to R141) -/

/-- The swept forms that write v[D] and raise no flag; a and b are operands A and B of the lane (an s register under AS or
BS, R107). -/
def vecTable : List ((FV3 → Instr) × (Sheaf → FV3 → Lane → Word)) :=
  let f := fun (g : Word → Word → Word) (h : Sheaf) (o : FV3) (l : Lane) => g (h.opA o.a l) (h.opB o.b l)
  [(.vintAdd, fun h o l => if xSat h.xmod then clamp32 h.vintTy (intOf32 h.vintTy (h.opA o.a l) + intOf32 h.vintTy (h.opB o.b l))
      else h.opA o.a l + h.opB o.b l),
   (.vintSub, fun h o l => if xSat h.xmod then clamp32 h.vintTy (intOf32 h.vintTy (h.opA o.a l) - intOf32 h.vintTy (h.opB o.b l))
      else h.opA o.a l - h.opB o.b l),
   (.vintMul, f fun a b => a * b), (.vintMulh, f fun a b => BitVec.ofInt 32 (a.toInt * b.toInt / 2 ^ 32)),
   (.vintMulhn, f fun a b => BitVec.ofNat 32 (a.toNat * b.toNat / 2 ^ 32)),
   (.mad, fun h o l => h.opA o.a l * h.opB o.b l + l.getV o.d.toNat),
   (.vintAnd, f fun a b => a &&& b), (.vintOr, f fun a b => a ||| b), (.vintXor, f fun a b => a ^^^ b),
   (.vintShl, f fun a b => a <<< (b.toNat % 32)), (.vintShr, f fun a b => a >>> (b.toNat % 32)),
   (.vintSar, f fun a b => a.sshiftRight (b.toNat % 32)),
   (.vintMin, fun h o l => f (fun a b => if h.vintTy == 0x11 then (if a < b then a else b) else if a.slt b then a else b) h o l),
   (.vintMax, fun h o l => f (fun a b => if h.vintTy == 0x11 then (if a < b then b else a) else if a.slt b then b else a) h o l),
   (.fcps, f fun a b => (a &&& 0x7FFFFFFF) ||| (b &&& 0x80000000)), (.fabs, f fun a _ => a &&& 0x7FFFFFFF),
   (.fneg, f fun a _ => a ^^^ 0x80000000), (.mov, f fun a _ => a),
   (.vmovSel, fun h o l => if l.getK (xC h.xreg) then h.opA o.a l else h.opB o.b l),
   (.shfl, fun h o l => h.shuffled o.a l (some (l.lpos / 32 * 32 + (h.opB o.b l).toNat % 32))),
   (.shflx, fun h o l => h.shuffled o.a l (some (l.lpos / 32 * 32 + Nat.xor (l.lpos % 32) ((h.opB o.b l).toNat % 32)))),
   (.shflup, fun h o l => h.shuffled o.a l (if (h.opB o.b l).toNat ≤ l.lpos % 32 then some (l.lpos - (h.opB o.b l).toNat) else none)),
   (.shfldn, fun h o l => h.shuffled o.a l
      (if l.lpos % 32 + (h.opB o.b l).toNat ≤ 31 then some (l.lpos + (h.opB o.b l).toNat) else none)),
   (.bcst, fun h o _ => h.readLane o.a (h.getS o.b.toNat).toNat),
   (.lid, fun _ _ l => BitVec.ofNat 32 l.lid), (.lpos, fun _ _ l => BitVec.ofNat 32 l.lpos),
   (.expn, fun h o l => packElems (xTy h.xmod) fun k =>
      ((if xTy h.xmod == 3 then e4m3 else bf16).round 0 false false (storageElem (xTys h.xmod) (l.getV o.a.toNat) k)).1),
   (.lutx, fun h o l => packElems (xTy h.xmod) fun k =>
      let j := (l.getV o.a.toNat >>> (4 * k)).toNat % 16
      if xTy h.xmod == 3 then (byteOf (l.getV (o.b.toNat + j / 4)) (j % 4)).toNat
      else (halfOf (l.getV (o.b.toNat + j / 2)) (j % 2)).toNat)]

/-- The VINTI forms (05/R127), from v[A] and the immediate. -/
def vecImmTable : List ((FVI → Instr) × (Word → Word → Word)) :=
  [(.vintiAddi, fun a i => a + i), (.vintiAndi, fun a i => a &&& i), (.vintiOri, fun a i => a ||| i),
   (.vintiXori, fun a i => a ^^^ i), (.vintiShli, fun a i => a <<< (i.toNat % 32)), (.vintiShri, fun a i => a >>> (i.toNat % 32)),
   (.vintiSari, fun a i => a.sshiftRight (i.toNat % 32)), (.muli, fun a i => a * i)]

/-- The VRI forms (05/R128). -/
def vriTable : List ((FRI → Instr) × (Sheaf → FRI → Lane → Word)) :=
  [(.vriMovi, fun h o _ => h.imm16 o.imm), (.vriMovhi, fun _ o l => o.imm ++ (l.getV o.d.toNat).extractLsb' 0 16),
   (.addi16, fun h o l => l.getV o.d.toNat + h.imm16 o.imm)]

/-- The floating forms that write v[D] and OR the flags the lane raises into FFLG (05/R129, R130, R132, R133, R135). -/
def fpTable : List ((FV3 → Instr) × (Sheaf → FV3 → Lane → Word × Flags)) :=
  let two := fun (g : Nat → Bool → FVal → FVal → Nat × Flags) (h : Sheaf) (o : FV3) (l : Lane) =>
    wordFlags (g (xRm h.xmod) (xFtz h.xmod) (h.fp (h.opA o.a l)) (h.fp (h.opB o.b l)))
  let one := fun (g : FVal → FVal) (h : Sheaf) (o : FV3) (l : Lane) =>
    ((wordFlags (f32.round 0 false false (g (h.fp (h.opA o.a l))))).1, (0 : Flags))
  let three := fun (na nd : Bool) (h : Sheaf) (o : FV3) (l : Lane) =>
    let a := h.fp (h.opA o.a l)
    let d := h.fp (l.getV o.d.toNat)
    wordFlags (f32.fma (xRm h.xmod) (xFtz h.xmod) (if na then a.negate else a) (h.fp (h.opB o.b l)) (if nd then d.negate else d))
  let halves := fun (f : Fmt) (h : Sheaf) (o : FV3) (l : Lane) =>
    let v := fun (w : Word) (k : Nat) => f.decode (halfOf w k).toNat (xFtz h.xmod)
    let g := fun (k : Nat) => f.fma (xRm h.xmod) (xFtz h.xmod) (v (h.opA o.a l) k) (v (h.opB o.b l) k) (v (l.getV o.d.toNat) k)
    ((BitVec.ofNat 16 (g 1).1 ++ BitVec.ofNat 16 (g 0).1 : Word), (g 0).2 ||| (g 1).2)
  [(.fadd, two fun rm z a b => fpAdd rm z a b), (.fsub, two fun rm z a b => fpAdd rm z a b.negate),
   (.fmul, two fun rm z a b => fpMul rm z a b), (.fmin, two fun _ _ a b => exactly (pickNum false a b)),
   (.fmax, two fun _ _ a b => exactly (pickNum true a b)), (.fminm, two fun _ _ a b => exactly (pickAny false a b)),
   (.fmaxm, two fun _ _ a b => exactly (pickAny true a b)),
   (.fflr, one (integral 2)), (.fceil, one (integral 3)), (.frne, one (integral 0)), (.ftrn, one (integral 1)),
   (.fsat, one saturate),
   (.fscl, fun h o l => wordFlags (f32.round (xRm h.xmod) (xFtz h.xmod) false
      ((h.fp (h.opA o.a l)).scale (h.opB o.b l).toInt))),
   (.fma, three false false), (.fms, three false true), (.fnma, three true true), (.fnms, three true false),
   (.hfma2, halves f16), (.bfma2, halves bf16),
   (.cvtf, fun h o l => wordFlags (cvtFloat (xRm h.xmod) (xFtz h.xmod) (xSat h.xmod) (xTys h.xmod) (xTy h.xmod) (h.opA o.a l).toNat)),
   (.cvtp, fun h o l =>
      let g := fun (w : Word) => cvtFloat (xRm h.xmod) (xFtz h.xmod) (xSat h.xmod) 0 (xTy h.xmod) w.toNat
      let a := g (h.opA o.a l)
      let b := g (h.opB o.b l)
      let c := g (l.getV (xC h.xreg))
      let e := g (l.getV (xE h.xreg))
      if xTy h.xmod ≤ 2 then (BitVec.ofNat 16 b.1 ++ BitVec.ofNat 16 a.1, a.2 ||| b.2)
      else (BitVec.ofNat 8 e.1 ++ BitVec.ofNat 8 c.1 ++ BitVec.ofNat 8 b.1 ++ BitVec.ofNat 8 a.1, a.2 ||| b.2 ||| c.2 ||| e.2)),
   (.mxsc, fun h o l => wordFlags (scaleCode (scaleEmax (xTy h.xmod)) (f32.decode (h.opA o.a l).toNat false)))]

/-- The forms of a declared class: DOT forms (class 1) and SFU forms (class 0) (05/R131, R142). -/
def costedTable : List (Nat × (FV3 → Instr) × (Sheaf → FV3 → Lane → Word × Flags)) :=
  let dot := fun (f : Fmt) (n : Nat) (h : Sheaf) (o : FV3) (l : Lane) =>
    let el := fun (x : Word) (k : Nat) => f.decode ((x >>> (f.width * k)).toNat % 2 ^ f.width) (xFtz h.xmod && f.ftzApplies)
    wordFlags (f32.sumOf (xRm h.xmod) (xFtz h.xmod) (h.fp (l.getV o.d.toNat))
      ((List.range n).map fun k => (el (h.opA o.a l) k, el (h.opB o.b l) k)))
  let sfu := fun (g : Word → Bool → FVal → Nat × Flags) (h : Sheaf) (o : FV3) (l : Lane) =>
    wordFlags (g (h.opA o.a l) (xFtz h.xmod) (h.fp (h.opA o.a l)))
  [(1, .dot4e4, dot e4m3 4), (1, .dot4e5, dot e5m2 4), (1, .dot2h, dot f16 2),
   (1, .dot4i, fun h o l => (BitVec.ofInt 32 ((List.range 4).foldl (fun (x : Int) (k : Nat) =>
      x + (byteOf (h.opA o.a l) k).toInt * (byteOf (h.opB o.b l) k).toInt) (l.getV o.d.toNat).toInt), 0)),
   (0, .exp2, sfu exp2Val), (0, .log2, sfu log2Val), (0, .rcp, sfu fun _ z v => rcpVal z v), (0, .rsq, sfu rsqVal),
   (0, .sqrt, sfu fun _ z v => sqrtVal z v), (0, .sin2pi, sfu sinVal), (0, .cos2pi, sfu cosVal), (0, .tanh, sfu tanhVal)]

/-- The comparisons (05/R136, R137): the bit written to k[D] and the flag raised. -/
def cmpTable : List ((FV3 → Instr) × (Sheaf → FV3 → Lane → Bool × Flags)) :=
  let fc := fun (g : FVal → FVal → Bool) (sig : Bool) (h : Sheaf) (o : FV3) (l : Lane) =>
    let a := h.fp (h.opA o.a l)
    let b := h.fp (h.opB o.b l)
    (g a b, if sig && (a.isNan || b.isNan) then fIV else (0 : Flags))
  let ic := fun (g : Word → Word → Bool) (h : Sheaf) (o : FV3) (l : Lane) => (g (h.opA o.a l) (h.opB o.b l), (0 : Flags))
  let kc := fun (g : Bool → Bool → Bool) (_ : Sheaf) (o : FV3) (l : Lane) =>
    (g (l.getK o.a.toNat) (l.getK o.b.toNat), (0 : Flags))
  [(.feq, fc (fun a b => a.eqNum b) false), (.fne, fc (fun a b => !a.eqNum b) false),
   (.flt, fc (fun a b => !a.isNan && !b.isNan && a.ltNum b) true), (.fle, fc (fun a b => !a.isNan && !b.isNan && !b.ltNum a) true),
   (.fun, fc (fun a b => a.isNan || b.isNan) false),
   (.fcls, fun h o l => (o.b.getLsbD (classBit (h.opA o.a l) (xFtz h.xmod)), 0)),
   (.ieq, ic fun a b => a == b), (.ine, ic fun a b => a != b), (.ilt, ic fun a b => a.slt b), (.ile, ic fun a b => !b.slt a),
   (.iltn, ic fun a b => decide (a < b)), (.ilen, ic fun a b => decide (a ≤ b)),
   (.kand, kc fun a b => a && b), (.kor, kc fun a b => a || b), (.kxor, kc fun a b => a != b), (.kandn, kc fun a b => a && !b),
   (.knot, kc fun a _ => !a), (.kmov, kc fun a _ => a), (.kset, fun _ o _ => (o.b.getLsbD 0, 0))]

/-- The uniform forms that read lanes and write s[D]; the lanes of the effective mask in LPOS order (05/R138, R141). -/
def laneReads : List ((FV3 → Instr) × (Sheaf → FV3 → List Lane → Word)) :=
  [(.kcnt, fun _ o ls => BitVec.ofNat 32 (ls.filter fun (l : Lane) => l.getK o.a.toNat).length),
   (.kfirst, fun _ o ls => match ls.find? fun (l : Lane) => l.getK o.a.toNat with
      | some l => BitVec.ofNat 32 l.lid
      | none => 0xFFFFFFFF),
   (.kall, fun _ o ls => boolWord (ls.all fun (l : Lane) => l.getK o.a.toNat)),
   (.kany, fun _ o ls => boolWord (ls.any fun (l : Lane) => l.getK o.a.toNat)),
   (.rdfl, fun _ o ls => match ls with
      | l :: _ => l.getV o.a.toNat
      | [] => 0),
   (.rdln, fun h o _ => h.readLane o.a (h.getS o.b.toNat).toNat)]

/-- 05/R125 to R128, R134, R139 to R141: every lane of the effective mask gets its result in v[D], all lanes reading before
any writes; no flag is raised; the path goes on at the next word. ADDC and SUBB also write k15. -/
def Obligations.VectorResults : Prop :=
  (∀ p ∈ vecTable, ∀ (o : FV3) (s : State) (h : Sheaf), Ready s h (p.1 o) →
    exec (p.1 o) s = .next (s.done (h.sweep (p.1 o) fun l => (l.setV o.d.toNat (p.2 h o l), 0)))) ∧
  (∀ p ∈ vecImmTable, ∀ (o : FVI) (s : State) (h : Sheaf), Ready s h (p.1 o) →
    exec (p.1 o) s = .next (s.done (h.sweep (p.1 o) fun l => (l.setV o.d.toNat (p.2 (l.getV o.a.toNat) (h.imm7 o.imm)), 0)))) ∧
  (∀ p ∈ vriTable, ∀ (o : FRI) (s : State) (h : Sheaf), Ready s h (p.1 o) →
    exec (p.1 o) s = .next (s.done (h.sweep (p.1 o) fun l => (l.setV o.d.toNat (p.2 h o l), 0)))) ∧
  (∀ (o : FV3) (s : State) (h : Sheaf), Ready s h (.addc o) →
    exec (.addc o) s = .next (s.done (h.sweep (.addc o) fun l =>
      ((l.setV o.d.toNat (h.opA o.a l + h.opB o.b l + boolWord (l.getK 15))).setK 15
        (decide (2 ^ 32 ≤ (h.opA o.a l).toNat + (h.opB o.b l).toNat + bitNat (l.getK 15))), 0)))) ∧
  (∀ (o : FV3) (s : State) (h : Sheaf), Ready s h (.subb o) →
    exec (.subb o) s = .next (s.done (h.sweep (.subb o) fun l =>
      ((l.setV o.d.toNat (h.opA o.a l - h.opB o.b l - boolWord (l.getK 15))).setK 15
        (decide ((h.opA o.a l).toNat < (h.opB o.b l).toNat + bitNat (l.getK 15))), 0))))

/-- 05/R129, R130, R132, R133, R135 with 03: the result and flags of the lane's operands under RM, FTZ and SAT of the unit. -/
def Obligations.FloatResults : Prop :=
  (∀ p ∈ fpTable, ∀ (o : FV3) (s : State) (h : Sheaf), Ready s h (p.1 o) →
    exec (p.1 o) s = .next (s.done (h.sweep (p.1 o) fun l => (l.setV o.d.toNat (p.2 h o l).1, (p.2 h o l).2)))) ∧
  (∀ (o : FV3) (s : State) (h : Sheaf), Ready s h (.cvti o) →
    exec (.cvti o) s = .next (s.done (h.sweep (.cvti o) fun l =>
      let x := h.xmod
      let a := if wideTy (xTys x) then (h.opA2 o.a l).toNat else (h.opA o.a l).toNat
      let r := cvtInt (xRm x) (xFtz x) (xSat x) (xTys x) (xTy x) a
      (if wideTy (xTy x) then l.setV2 o.d.toNat (BitVec.ofInt 64 r.1) else l.setV o.d.toNat (BitVec.ofInt 32 r.1), r.2))))

/-- 05/R131, R142 with 10/R292: while the budget covers the class the form issues, debits it and writes v[D]; below it, the
form does not issue. -/
def Obligations.DeclaredClassResults : Prop :=
  (∀ p ∈ costedTable, ∀ (o : FV3) (s : State) (h : Sheaf), Ready s h (p.2.1 o) → s.canSpend h (2 ^ p.1) = true →
    exec (p.2.1 o) s = .next ((s.spend h (2 ^ p.1)).done
      (h.sweep (p.2.1 o) fun l => (l.setV o.d.toNat (p.2.2 h o l).1, (p.2.2 h o l).2)))) ∧
  (∀ p ∈ costedTable, ∀ (o : FV3) (s : State) (h : Sheaf), Ready s h (p.2.1 o) → s.canSpend h (2 ^ p.1) = false →
    exec (p.2.1 o) s = .next s)

/-- 05/R136 to R138, R141. -/
def Obligations.PredicateResults : Prop :=
  (∀ p ∈ cmpTable, ∀ (o : FV3) (s : State) (h : Sheaf), Ready s h (p.1 o) →
    exec (p.1 o) s = .next (s.done (h.sweep (p.1 o) fun l => (l.setK o.d.toNat (p.2 h o l).1, (p.2 h o l).2)))) ∧
  (∀ p ∈ laneReads, ∀ (o : FV3) (s : State) (h : Sheaf), Ready s h (p.1 o) →
    exec (p.1 o) s = .next (s.done (h.setS o.d.toNat (p.2 h o (byPos (h.effLanes (p.1 o)))))))

/-- What completing a swept instruction leaves: lanes outside the effective mask, every v register but `vs` and every k register
but `ks` of every lane, everything else of its sheaf but the paths, FFLG where it raises no flag; the pending results of an SFU
form or a conversion are added to (02/R31). -/
def LanesLeave (t : State) (h : Sheaf) (i : Instr) (vs ks : List Nat) (flags : Bool) : Prop :=
  ∃ h', t.cur? = some h' ∧ h'.apart = { h.apart with lanes := h'.lanes, fflg := h'.fflg, late := h'.late } ∧
    (i.slow = false → h'.late = h.late) ∧ (flags = false → h'.fflg = h.fflg) ∧ h'.fflg ||| h.fflg = h'.fflg ∧
    ∃ g : Lane → Lane, h'.lanes = h.lanes.map g ∧ (∀ l, h.eff i l = false → g l = l) ∧
      ∀ l, g l = { l with v := (g l).v, k := (g l).k } ∧ (vs = [] → (g l).v = l.v) ∧ (ks = [] → (g l).k = l.k) ∧
        (∀ r, r ∉ vs → (g l).getV r = l.getV r) ∧ ∀ r, r < 16 → r ∉ ks → (g l).getK r = l.getK r

/-- What every form of the vector tables leaves unchanged: lanes outside the effective mask, every other register of every lane,
every s and h register and tile, everything else of the sheaf but its paths, every other sheaf and every byte of memory. A form
of a declared class debits the energy of its context. -/
def Obligations.VectorFrame : Prop :=
  (∀ c ∈ vecTable.map (·.1), ∀ (o : FV3) (s t : State) (h : Sheaf), Ready s h (c o) → exec (c o) s = .next t →
    LanesLeave t h (c o) [o.d.toNat] [] false ∧ OnlySheaf s t h.uid) ∧
  (∀ c ∈ vecImmTable.map (·.1), ∀ (o : FVI) (s t : State) (h : Sheaf), Ready s h (c o) → exec (c o) s = .next t →
    LanesLeave t h (c o) [o.d.toNat] [] false ∧ OnlySheaf s t h.uid) ∧
  (∀ c ∈ vriTable.map (·.1), ∀ (o : FRI) (s t : State) (h : Sheaf), Ready s h (c o) → exec (c o) s = .next t →
    LanesLeave t h (c o) [o.d.toNat] [] false ∧ OnlySheaf s t h.uid) ∧
  (∀ c ∈ [Instr.addc, .subb], ∀ (o : FV3) (s t : State) (h : Sheaf), Ready s h (c o) → exec (c o) s = .next t →
    LanesLeave t h (c o) [o.d.toNat] [15] false ∧ OnlySheaf s t h.uid) ∧
  (∀ c ∈ fpTable.map (·.1), ∀ (o : FV3) (s t : State) (h : Sheaf), Ready s h (c o) → exec (c o) s = .next t →
    LanesLeave t h (c o) [o.d.toNat] [] true ∧ OnlySheaf s t h.uid) ∧
  (∀ (o : FV3) (s t : State) (h : Sheaf), Ready s h (.cvti o) → exec (.cvti o) s = .next t →
    LanesLeave t h (.cvti o) (if wideTy (xTy h.xmod) then [o.d.toNat, o.d.toNat + 1] else [o.d.toNat]) [] true ∧
      OnlySheaf s t h.uid) ∧
  (∀ c ∈ costedTable.map (·.2.1), ∀ (o : FV3) (s t : State) (h : Sheaf), Ready s h (c o) → exec (c o) s = .next t → t = s ∨
    (LanesLeave t h (c o) [o.d.toNat] [] true ∧ OnlySheaf s { t with ctxs := s.ctxs } h.uid ∧
      (t.ctxs.map fun c => { c with energy := [] }) = s.ctxs.map fun c => { c with energy := [] })) ∧
  (∀ c ∈ cmpTable.map (·.1), ∀ (o : FV3) (s t : State) (h : Sheaf), Ready s h (c o) → exec (c o) s = .next t →
    LanesLeave t h (c o) [] [o.d.toNat] true ∧ OnlySheaf s t h.uid) ∧
  (∀ c ∈ laneReads.map (·.1), ∀ (o : FV3) (s t : State) (h : Sheaf), Ready s h (c o) → exec (c o) s = .next t →
    ScalarLeaves t h [o.d.toNat] ∧ OnlySheaf s t h.uid)

/-- The shifts of a word: to the left, to the right with zeros, to the right with copies of the sign bit. -/
def shiftKinds : List (Word → Nat → Word) := [fun a n => a <<< n, fun a n => a >>> n, fun a n => a.sshiftRight n]

/-- 03/R45, for every shift instruction. -/
def Obligations.ShiftsUseLowCountBits : Prop :=
  (∀ p ∈ [Instr.saluShl, .saluShr, .saluSar].zip shiftKinds, ∀ (o : FS3) (s : State) (h : Sheaf), Ready s h (p.1 o) →
    exec (p.1 o) s = .next (s.done (h.setS o.sd.toNat (p.2 (h.getS o.sa.toNat) ((h.getS o.sb.toNat).extractLsb' 0 5).toNat)))) ∧
  (∀ p ∈ [Instr.saluiShli, .saluiShri, .saluiSari].zip shiftKinds, ∀ (o : FSI) (s : State) (h : Sheaf), Ready s h (p.1 o) →
    exec (p.1 o) s = .next (s.done (h.setS o.sd.toNat (p.2 (h.getS o.sa.toNat) (o.imm.extractLsb' 0 5).toNat)))) ∧
  (∀ p ∈ [Instr.vintShl, .vintShr, .vintSar].zip shiftKinds, ∀ (o : FV3) (s : State) (h : Sheaf), Ready s h (p.1 o) →
    exec (p.1 o) s = .next (s.done (h.sweep (p.1 o) fun l =>
      (l.setV o.d.toNat (p.2 (h.opA o.a l) ((h.opB o.b l).extractLsb' 0 5).toNat), 0)))) ∧
  (∀ p ∈ [Instr.vintiShli, .vintiShri, .vintiSari].zip shiftKinds, ∀ (o : FVI) (s : State) (h : Sheaf), Ready s h (p.1 o) →
    exec (p.1 o) s = .next (s.done (h.sweep (p.1 o) fun l =>
      (l.setV o.d.toNat (p.2 (l.getV o.a.toNat) ((h.imm7 o.imm).extractLsb' 0 5).toNat), 0)))) ∧
  (∀ (o : FS3) (s : State) (h : Sheaf), Ready s h (.shl64 o) → exec (.shl64 o) s = .next
    (s.done (h.setPair o.sd.toNat (h.getPair o.sa.toNat <<< ((h.getS o.sb.toNat).extractLsb' 0 6).toNat)))) ∧
  (∀ (o : FS3) (s : State) (h : Sheaf), Ready s h (.shr64 o) → exec (.shr64 o) s = .next
    (s.done (h.setPair o.sd.toNat (h.getPair o.sa.toNat >>> ((h.getS o.sb.toNat).extractLsb' 0 6).toNat)))) ∧
  (∀ (w : Word) (n k : Nat), n < 32 → k < 32 → (w >>> n).getLsbD k = (decide (k + n < 32) && w.getLsbD (k + n)) ∧
    (w.sshiftRight n).getLsbD k = if k + n < 32 then w.getLsbD (k + n) else w.getLsbD 31) ∧
  (∀ (w : DWord) (n k : Nat), n < 64 → k < 64 → (w >>> n).getLsbD k = (decide (k + n < 64) && w.getLsbD (k + n)))

/-! ### Extension words, SYS forms and control flow (04/R79, 05/R108 to R121, 17/R385 to R387) -/

/-- The extension words with their kinds (04/R80). -/
def extTable : List (Nat × (BitVec 24 → Instr)) :=
  [(0, .ximm), (1, .xreg), (2, .xprd), (3, .xmod), (4, .xmem), (5, .xsch), (6, .xoff)]

/-- The conditions of BRU (05/R115). -/
def bruTaken (h : Sheaf) (c : Cond) (o : FBR) : Bool :=
  let a := h.getS o.sel.toNat
  let ls := h.lanes.filter fun l => h.onPath l && h.guard (.bru c o) l
  match c with
  | .al => true
  | .zr => a == 0
  | .nz => a != 0
  | .ng => a.getLsbD 31
  | .nn => !a.getLsbD 31
  | .any => ls.any fun l => l.getK o.sel.toNat
  | .all => ls.all fun l => l.getK o.sel.toNat
  | .none => !ls.any fun l => l.getK o.sel.toNat

/-- An instruction-cache line of the sheaf's core holds the word at a byte offset of a segment (04/R94; 01/R14). -/
def CodeLine (s : State) (h : Sheaf) (g : Seg) (off : Nat) (l : ICLine) : Prop :=
  off < g.len ∧ s.ic? h.core (BitVec.ofNat 16 g.idx) g.gen (off / 64) = some l

/-- The word of a line at a byte offset of its segment. -/
def wordOf (l : ICLine) (off : Nat) : Word := l.words.getD (off % 64 / 4) 0

/-- The lines of some pool words are not held: no slice that has them is being quiesced (20/R429). -/
def Unheld (s : State) (h : Sheaf) (g : Seg) (offs : List Int) : Prop :=
  ∀ off ∈ offs, s.codeHeld h.core h.ctx g off.toNat = false

/-- What the end of a sequencer sheaf leaves (04/R106; 09/R264): the sheaf as `h` with its unit over, EN of its core cleared and
`f` applied to that sequencer; its operations, the core's pattern-cache entries and the marks of whose scratch units they were are
gone; nothing else has changed. -/
def SeqEnds (s t : State) (h : Sheaf) (f : Seqr → Seqr) : Prop :=
  t.sheaves = (s.sheaves.map fun x =>
    if x.uid == h.uid then { h with chain := ⟨none, []⟩, fbuf := none, waiting := false, run := .ended } else x) ∧
  t.seqs = (s.seqs.map fun q => if q.core == h.core then { f q with en := false, next := none, chain0 := none } else q) ∧
  t.eng.ops = s.eng.ops.filter (fun o => o.sheaf != h.uid) ∧ t.eng.pats = s.eng.pats.filter (fun p => p.core != h.core) ∧
  t.mm.holder = s.mm.holder.filter (fun p => p.1 / 512 != h.core) ∧
  ({ t with sheaves := s.sheaves, seqs := s.seqs, eng := { t.eng with ops := s.eng.ops, pats := s.eng.pats },
            mm := { t.mm with holder := s.mm.holder } } : State) = s

/-- TRAP and BRK with their causes (05/R110, 17/R385). -/
def softTraps : List (Nat × (BitVec 21 → Instr)) := [(0x10, .trap), (0x11, .brk)]

/-- 04/R79: an extension word has no effect but to join the chain of the instruction it precedes; the unit keeps the PC of its
first word. In a sequencer sheaf the address of the chain's first microword is kept (04/R106). -/
def Obligations.ExtensionWordJoinsChain : Prop :=
  (∀ p ∈ extTable, ∀ (x : BitVec 24) (s : State) (h : Sheaf), s.cur? = some h → s.canIssue h = true → h.seqr = false →
    exec (p.2 x) s = .next (s.putSheaf { h.setPc h.nextPc with
      chain := ⟨some (h.chain.pc0.getD h.pc), h.chain.words ++ [(p.1, x)]⟩, fbuf := none })) ∧
  (∀ p ∈ extTable, ∀ (x : BitVec 24) (s : State) (h : Sheaf), s.cur? = some h → s.canIssue h = true → h.seqr = true →
    exec (p.2 x) s = .next ((s.putSheaf { h.setPc h.nextPc with
      chain := ⟨some (h.chain.pc0.getD h.pc), h.chain.words ++ [(p.1, x)]⟩, fbuf := none }).modSeqr h.core
        fun q => { q with chain0 := some (q.chain0.getD q.upc) }))

/-- 05/R115. Arrival is checked after the transfer (02/R34), which is what `retire` does. -/
def Obligations.BruMovesWholePath : Prop :=
  (∀ (c : Cond) (o : FBR), (encode (.bru c o)).extractLsb' 27 5 = 0x01) ∧
  (∀ (c : Cond) (o : FBR) (s : State) (h : Sheaf), Ready s h (.bru c o) → bruTaken h c o = true →
    exec (.bru c o) s = .next (s.putSheaf (h.retire (h.pc.add (o.off.signExtend 32 <<< 2))))) ∧
  (∀ (c : Cond) (o : FBR) (s : State) (h : Sheaf), Ready s h (.bru c o) → bruTaken h c o = false →
    exec (.bru c o) s = .next (s.putSheaf (h.retire (h.pc.add 4)))) ∧
  (∀ (c : Cond) (o : FBR) (s t : State) (h : Sheaf), Ready s h (.bru c o) → exec (.bru c o) s = .next t →
    ∃ h', t.cur? = some h' ∧ h'.apart = h.apart ∧ OnlySheaf s t h.uid)

/-- 02/R33 to R37, 05/R116, R118, R119: a uniform BRD branches, a divergent one leaves the taken lanes as a pending path and goes
on with the others; RCV pushes a record; CALL and CALLX push a frame and go to their target; RET pops one and returns. -/
def Obligations.DivergenceAndCalls : Prop :=
  (∀ (o : FBR) (s : State) (h : Sheaf) (p : Path), Ready s h (.brd o) → h.path = some p →
    let taken := fun (l : Lane) => h.guard (.brd o) l && l.getK o.sel.toNat
    ((h.lanes.filter h.onPath).any taken = false → exec (.brd o) s = .next (s.done h)) ∧
    ((h.lanes.filter h.onPath).any taken = true → (h.lanes.filter h.onPath).all taken = true →
      exec (.brd o) s = .next (s.putSheaf (h.retire (h.target o.off)))) ∧
    ((h.lanes.filter h.onPath).any taken = true → (h.lanes.filter h.onPath).all taken = false →
      (s.split h p taken (h.target o.off)).overflows = false →
      exec (.brd o) s = .next ((s.fresh 1).putSheaf ((s.split h p taken (h.target o.off)).retire h.nextPc)))) ∧
  (∀ (s : State) (h : Sheaf) (p : Path) (taken : Lane → Bool) (target : Pc),
    (s.split h p taken target).stack.head? = some (.pending ⟨target,
      maskOf (((s.compact h taken).filter fun l => h.lanes.any fun x => x.lid == l.lid && h.onPath x).filter taken), p.frames, p.link⟩) ∧
    (s.split h p taken target).stack.tail = h.stack) ∧
  (∀ (o : FBR) (s : State) (h : Sheaf) (p : Path), Ready s h (.rcv o) → h.path = some p →
    let h1 : Sheaf := { h with stack := .record s.ctl.nextId (h.target o.off) 0 p.frames :: h.stack
                               path := some { p with link := some s.ctl.nextId } }
    h1.overflows = false → exec (.rcv o) s = .next ((s.fresh 1).putSheaf (h1.retire h.nextPc))) ∧
  (∀ (o : FBR) (s : State) (h : Sheaf), Ready s h (.call o) → h.depth < 65535 → (h.pushFrame s.ctl.nextId).overflows = false →
    exec (.call o) s = .next ((s.fresh 1).putSheaf ((h.pushFrame s.ctl.nextId).retire (h.target o.off)))) ∧
  (∀ (o : FBR) (s : State) (h : Sheaf) (g : Seg) (e : EntryRec), Ready s h (.callx o) → h.depth < 65535 →
    (h.pushFrame s.ctl.nextId).overflows = false →
    s.checkEntry h.ctx (h.getPair (2 * o.sel.toNat)) [.live, .revoked] = some (g, e) →
    exec (.callx o) s = .next ((s.fresh 1).putSheaf ((h.pushFrame s.ctl.nextId).retire (g.entryPc e)))) ∧
  (∀ (o : FBR) (s : State) (h : Sheaf) (p : Path) (f : Frame) (fs : List Frame), Ready s h (.ret o) → h.path = some p →
    p.frames = f :: fs → s.checkReturn h.ctx f.pc = true →
    exec (.ret o) s = .next (s.putSheaf
      (({ h with path := some { p with frames := fs, link := relink p.link h.stack fs.length } } : Sheaf).retire f.pc))) ∧
  (∀ (o : FBR) (s : State) (h : Sheaf) (p : Path), Ready s h (.ret o) → h.path = some p → p.frames = [] →
    exec (.ret o) s = .next (s.decodeTrap h (encode (.ret o)) 0x0B))

/-- 05/R121, 04/R94: with its words in the core's instruction cache, and wherever the reads of the segment give them, JTAB goes to T + 4·word, an index at or beyond word 0 raises cause
0x0C, and a literal goes to s[D], to v[D] of the effective lanes or to the s pair at D. -/
def Obligations.TablesAndLiterals : Prop :=
  (∀ (o : FBR) (s : State) (h : Sheaf) (g : Seg) (a b : ICLine) (t e : Nat), Ready s h (.jtab o) → s.curSeg h = some g →
    (h.pc.off.toNat : Int) + 4 * o.off.toInt = t → CodeLine s h g t a → h.getS o.sel.toNat < wordOf a t →
    CodeLine s h g (t + 4 + 4 * (h.getS o.sel.toNat).toNat) b →
    (t : Int) + 4 * (wordOf b (t + 4 + 4 * (h.getS o.sel.toNat).toNat)).toInt = e → e < 2 ^ 32 →
    exec (.jtab o) s = .next (s.putSheaf (h.retire { h.pc with off := BitVec.ofNat 32 e }))) ∧
  (∀ (o : FBR) (s : State) (h : Sheaf) (g : Seg) (a : ICLine) (t : Nat), Ready s h (.jtab o) → s.curSeg h = some g →
    (h.pc.off.toNat : Int) + 4 * o.off.toInt = t → CodeLine s h g t a → wordOf a t ≤ h.getS o.sel.toNat →
    exec (.jtab o) s = .next (s.decodeTrap h (encode (.jtab o)) 0x0C)) ∧
  (∀ (o : FRI) (s : State) (h : Sheaf) (g : Seg) (a : ICLine) (t : Nat), s.curSeg h = some g →
    (h.pc.off.toNat : Int) + 4 * o.imm.toInt = t → CodeLine s h g t a →
    (Ready s h (.ldls o) → exec (.ldls o) s = .next (s.done (h.setS o.d.toNat (wordOf a t)))) ∧
    (Ready s h (.ldlv o) →
      exec (.ldlv o) s = .next (s.done (h.sweep (.ldlv o) fun l => (l.setV o.d.toNat (wordOf a t), 0)))) ∧
    (Ready s h (.ldl64 o) → t % 8 = 0 → t + 4 < g.len →
      exec (.ldl64 o) s = .next (s.done (h.setPair o.d.toNat (pairOf (wordOf a t) (wordOf a (t + 4))))))) ∧
  (∀ (o : FBR) (s s1 : State) (h : Sheaf) (g : Seg) (n : Word), Ready s h (.jtab o) → s.curSeg h = some g →
    Unheld s h g [h.tableAt o.off] → s.pool h g [h.tableAt o.off] = (s1, .words [n]) → n ≤ h.getS o.sel.toNat →
    exec (.jtab o) s = .next (s1.decodeTrap h (encode (.jtab o)) 0x0C)) ∧
  (∀ (o : FBR) (s s1 s2 : State) (h : Sheaf) (g g1 : Seg) (n w : Word) (e : Nat), Ready s h (.jtab o) → s.curSeg h = some g →
    Unheld s h g [h.tableAt o.off] → s.pool h g [h.tableAt o.off] = (s1, .words [n]) → h.getS o.sel.toNat < n →
    s1.curSeg h = some g1 → Unheld s1 h g1 [h.tableAt o.off + 4 + 4 * (h.getS o.sel.toNat).toNat] →
    s1.pool h g1 [h.tableAt o.off + 4 + 4 * (h.getS o.sel.toNat).toNat] = (s2, .words [w]) →
    h.tableAt o.off + 4 * w.toInt = e → e < 2 ^ 32 →
    exec (.jtab o) s = .next (s2.putSheaf (h.retire { h.pc with off := BitVec.ofNat 32 e }))) ∧
  (∀ (o : FRI) (s s1 : State) (h : Sheaf) (g : Seg) (w : Word), Ready s h (.ldls o) → s.curSeg h = some g →
    Unheld s h g [h.literal o.imm] → s.pool h g [h.literal o.imm] = (s1, .words [w]) → exec (.ldls o) s = .next (s1.done (h.setS o.d.toNat w))) ∧
  (∀ (o : FRI) (s s1 : State) (h : Sheaf) (g : Seg) (w : Word), Ready s h (.ldlv o) → s.curSeg h = some g →
    Unheld s h g [h.literal o.imm] → s.pool h g [h.literal o.imm] = (s1, .words [w]) →
    exec (.ldlv o) s = .next (s1.done (h.sweep (.ldlv o) fun l => (l.setV o.d.toNat w, 0)))) ∧
  (∀ (o : FRI) (s s1 : State) (h : Sheaf) (g : Seg) (w0 w1 : Word), Ready s h (.ldl64 o) → s.curSeg h = some g →
    h.literal o.imm % 8 = 0 → Unheld s h g [h.literal o.imm, h.literal o.imm + 4] → s.pool h g [h.literal o.imm, h.literal o.imm + 4] = (s1, .words [w0, w1]) →
    exec (.ldl64 o) s = .next (s1.done (h.setPair o.d.toNat (pairOf w0 w1)))) ∧
  (∀ (o : FRI) (s : State) (h : Sheaf) (g : Seg), Ready s h (.ldl64 o) → s.curSeg h = some g →
    h.literal o.imm % 8 ≠ 0 →
    exec (.ldl64 o) s = .next (s.trapNow h (.ldl64 o) 4 (BitVec.ofInt 64 (g.base + h.literal o.imm)))) ∧
  (∀ (o : FRI) (s : State) (h : Sheaf) (g : Seg), s.curSeg h = some g → s.codeHeld h.core h.ctx g (h.literal o.imm).toNat = true →
    (Ready s h (.ldls o) → exec (.ldls o) s = .next s) ∧ (Ready s h (.ldlv o) → exec (.ldlv o) s = .next s)) ∧
  (∀ (s : State) (h : Sheaf) (g : Seg) (off : Nat) (l : ICLine), CodeLine s h g off l →
    s.codeHeld h.core h.ctx g off = false)

/-- 05/R108, R109, R111, R112, R114; 02/R22, R33; 04/R106. -/
def Obligations.SysForms : Prop :=
  (∀ (s : State) (h : Sheaf), Ready s h .nop → exec .nop s = .next (s.done h)) ∧
  (∀ (s : State) (h : Sheaf), Ready s h .exit → h.seqr = false → exec .exit s = .next (s.putSheaf (h.leave h.mask).close)) ∧
  (∀ (s : State) (h : Sheaf), Ready s h .exit → h.seqr = true → ∃ t, exec .exit s = .next t ∧ SeqEnds s t h id) ∧
  (∀ (s : State) (h : Sheaf), Ready s h .yld → (h.yield h.nextPc).overflows = false →
    exec .yld s = .next (s.putSheaf (h.yield h.nextPc).close)) ∧
  (∀ (h : Sheaf) (pc : Pc), h.yield pc = { h with path := (h.yield pc).path, stack := (h.yield pc).stack }) ∧
  (∀ (h : Sheaf) (p : Path) (pc : Pc), h.path = some p → h.stack.any (·.sameLink p.link) = false →
    h.yield pc = { h with path := some { p with pc := pc } }) ∧
  (∀ (h : Sheaf) (p q : Path) (pc : Pc) (a b c d : List StackEntry) (e : StackEntry), h.path = some p → h.stack = a ++ e :: b →
    e.sameLink p.link = true → b.any (·.sameLink p.link) = false →
    a ++ e :: .pending { p with pc := pc } :: b = c ++ .pending q :: d → (∀ x ∈ c, ∃ i r m fr, x = .record i r m fr) →
    h.yield pc = { h with path := some q, stack := c ++ d }) ∧
  (∀ (e : StackEntry) (link : Option Nat), e.sameLink link = true ↔ ∃ p, e = .pending p ∧ p.link = link) ∧
  (∀ (k : BitVec 21) (s : State) (h : Sheaf), Ready s h (.sleep k) → exec (.sleep k) s = .next
    (s.done { h with sleep := if k = 0 then 0 else s.reading h.core + k.toNat })) ∧
  (∀ (s : State) (h : Sheaf), Ready s h .ifence → s.memQuiet h = true → exec .ifence s = .next
    (({ s with mm := { s.mm with ic := s.mm.ic.filter fun c =>
      !(c.core == h.core && ((s.seg? c.seg.toNat).map fun g => s.granted h.ctx g).getD true) } } : State).done h)) ∧
  (∀ (s : State) (h : Sheaf), Ready s h .ifence → s.memQuiet h = false → exec .ifence s = .next s) ∧
  (∀ (k : BitVec 21) (s : State) (h : Sheaf), Ready s h (.safe k) → h.stop = none → exec (.safe k) s = .next (s.done h)) ∧
  (∀ (k : BitVec 21) (s : State) (h : Sheaf) (r : StopReq) (p : SafeRec), Ready s h (.safe k) → h.stop = some r →
    ((s.curSeg h).bind fun g => g.spt[k.toNat]?) = some p → s.quietToStop h = true →
    exec (.safe k) s = .next ((s.draw (4096 + 128 * 1024)).stopSaved ((h.retire h.nextPc).killDead s p) 1 (some k.toNat) p.vlive)) ∧
  (∀ (k : BitVec 21) (s : State) (h : Sheaf) (r : StopReq) (p : SafeRec), Ready s h (.safe k) → h.stop = some r →
    ((s.curSeg h).bind fun g => g.spt[k.toNat]?) = some p → s.quietToStop h = false →
    exec (.safe k) s = .next (s.hold h false)) ∧
  (∀ (h : Sheaf) (l : Lane), l ∈ (h.leave h.mask).lanes → h.mask.getLsbD l.lpos = true → l.left = true)

/-- 05/R110, 17/R385, R386: outside a handler, with a TRAPV that passes the check, TRAP and BRK write TRAPC, TRAPA, TRAPI and
TRAPE, enter handler state and put the path at the entry; TRAPE names the instruction after. -/
def Obligations.SoftTrapsEnterHandler : Prop :=
  (∀ p ∈ softTraps, ∀ (k : BitVec 21) (s : State) (h : Sheaf) (g : Seg) (e : EntryRec), Ready s h (p.2 k) → h.seqr = false →
    h.trap.inH = false → h.trap.v ≠ 0 → s.checkEntry h.ctx h.trap.v [.live, .retired] = some (g, e) →
    exec (p.2 k) s = .next ((s.fresh 1).putSheaf (({ h with
      trap := { v := h.trap.v, e := returnCap h.nextPc s.ctl.nextId, a := k.setWidth 64, c := BitVec.ofNat 32 p.1,
                i := encode (p.2 k), inH := true, ret := some h.nextPc, seq := h.nseq }
      chain := ⟨none, []⟩, fbuf := none, waiting := false } : Sheaf).setPc (g.entryPc e)).settled)) ∧
  (∀ p ∈ softTraps, ∀ (k : BitVec 21) (s : State) (h : Sheaf), Ready s h (p.2 k) → h.seqr = true →
    ∃ t, exec (p.2 k) s = .next t ∧
      SeqEnds s t { h with trap := { h.trap with c := BitVec.ofNat 32 p.1, a := k.setWidth 64, i := encode (p.2 k) } }
        fun q => { q with upc := q.chain0.getD q.upc })

/-- 17/R387: the sheaf halts at its unit, and the fault record goes to the context's fault mailbox, or is counted as lost. That
the trap CSRs are written too is the model's reading (log entry 17). -/
def Obligations.TrapWithoutHandlerHalts : Prop :=
  (∀ (s : State) (h : Sheaf) (c : Nat) (a : DWord) (w : Word) (late : Bool) (pc ret : Pc), h.seqr = false →
    (h.trap.inH = true ∨ h.trap.v = 0 ∨ s.checkEntry h.ctx h.trap.v [.live, .retired] = none) →
    s.takeTrap h c a w late pc ret = (s.fresh 1).haltSheaf (h.trapCsrs c a w late ret s.ctl.nextId) c a w late pc) ∧
  (∀ (s : State) (h : Sheaf) (c : Nat) (a : DWord) (w : Word) (late : Bool) (pc : Pc), s.sheaf? h.uid ≠ none →
    ∃ h', (s.haltSheaf h c a w late pc).sheaf? h.uid = some h' ∧ h'.run = .halted ∧ h'.path = h.path ∧ h'.s = h.s ∧ h'.lanes = h.lanes) ∧
  (∀ (s : State) (ctx : Nat) (c : Ctx) (m : Mbx) (rec : List Byte), s.ctx? ctx = some c →
    (s.slmPos ctx c.fmbx 128).bind s.mbx? = some m → m.kind = 3 → m.msgs.length < m.nslot →
    s.postFault ctx rec = s.modMbx m.head fun x => { x with msgs := x.msgs ++ [rec] }) ∧
  (∀ (s : State) (ctx : Nat) (c : Ctx) (rec : List Byte), s.ctx? ctx = some c →
    (∀ m, (s.slmPos ctx c.fmbx 128).bind s.mbx? = some m → m.kind ≠ 3 ∨ m.nslot ≤ m.msgs.length) →
    s.postFault ctx rec = s.modCtx ctx fun x => { x with flost := x.flost + 1 })

/-- 05/R113, 04/R98. -/
def Obligations.EretReturns : Prop :=
  (∀ (s : State) (h : Sheaf) (pc : Pc), Ready s h .eret → h.trap.inH = true → h.trap.ret = some pc → s.checkReturn h.ctx pc = true →
    exec .eret s = .next (s.putSheaf (({ h with trap := { h.trap with inH := false, ret := none } } : Sheaf).setPc pc).close)) ∧
  (∀ (s : State) (h : Sheaf), Ready s h .eret → h.trap.inH = false → exec .eret s = .next (s.decodeTrap h (encode .eret) 1)) ∧
  (∀ (s : State) (h : Sheaf), Ready s h .eret → h.trap.inH = true →
    (∀ pc, h.trap.ret = some pc → s.checkReturn h.ctx pc = false) → exec .eret s = .next (s.decodeTrap h (encode .eret) 0x0B)) ∧
  (∀ (s t : State) (h : Sheaf) (pc : Pc), Ready s h .eret → h.trap.inH = true → h.trap.ret = some pc →
    s.checkReturn h.ctx pc = true → exec .eret s = .next t →
    ∃ h', t.cur? = some h' ∧ h'.apart = { h.apart with trap := { h.trap with inH := false, ret := none } } ∧ OnlySheaf s t h.uid)

/-- 04/R78, 02/R40: whatever decode finds, the instruction and its chain have no effect but the trap of the lowest cause. A word
of no form raises 0x01, a form with a reserved field 0x02. TRAPA of these traps is a free value (log entry 7). -/
def Obligations.DecodeTrapIsLowestCause : Prop :=
  (∀ (i : Instr) (s : State) (h : Sheaf) (body : Sheaf → State → State) (c : Nat), s.cur? = some h → s.canIssue h = true →
    c ∈ s.decodeCauses h i → (∀ d ∈ s.decodeCauses h i, c ≤ d) →
    issue i s body = .next (s.decodeTrap h (encode i) c)) ∧
  (∀ (i : Instr) (s : State) (h : Sheaf) (c : Nat), (encode i).extractLsb' 27 5 ≠ 0x1F → s.cur? = some h → s.canIssue h = true →
    c ∈ s.decodeCauses h i → (∀ d ∈ s.decodeCauses h i, c ≤ d) → exec i s = .next (s.decodeTrap h (encode i) c)) ∧
  (∀ (w : Word) (s : State) (h : Sheaf), s.cur? = some h → s.canIssue h = true → decodeForm w = none →
    execIllegalInstruction w s = .next (s.decodeTrap h w 1)) ∧
  (∀ (w : Word) (i : Instr) (s : State) (h : Sheaf), s.cur? = some h → s.canIssue h = true → decodeForm w = some i →
    decode w = none → 1 ∉ s.decodeCauses h i → execIllegalInstruction w s = .next (s.decodeTrap h w 2)) ∧
  (∀ (w : Word) (s : State) (h : Sheaf), s.cur? = some h → s.canIssue h = true → decodeForm w = none →
    exec (.illegalInstruction w) s = .next (s.decodeTrap h w 1)) ∧
  (∀ p ∈ ([Instr.csrr, Instr.csrw, Instr.csrs, Instr.csrc] : List (FCSR → Instr)), ∀ (o : FCSR) (s : State) (h : Sheaf),
    0x800 ≤ o.csrn.toNat → 3 ∈ s.decodeCauses h (p o)) ∧
  (∀ p ∈ ([Instr.csrr, Instr.csrw, Instr.csrs, Instr.csrc] : List (FCSR → Instr)), ∀ (o : FCSR) (s : State) (h : Sheaf),
    csrAssigned o.csrn.toNat = false → 1 ∈ s.decodeCauses h (p o))

/-! ### Memory forms (06/R143 to R162, 08/R238 to R255) -/

/-- The load, store and atomic forms of global and slice memory: width in bytes, registers, uniform or per lane. -/
def globForms : List (FM → MemReq) :=
  ([LoadSize.b8, .s8, .b16, .s16, .b32, .b64, .b128].map fun sz o =>
    ⟨.ld sz o, o, sz.bytes, sz.regs, .load, sz == .s8 || sz == .s16, false⟩) ++
  ([StoreSize.b8, .b16, .b32, .b64, .b128].map fun sz o => ⟨.st sz o, o, sz.bytes, sz.regs, .store, false, false⟩) ++
  ([UniSize.b32, .b64].map fun sz o => ⟨.ldu sz o, o, sz.bytes, 1, .load, false, true⟩) ++
  ([UniSize.b32, .b64].map fun sz o => ⟨.stu sz o, o, sz.bytes, 1, .store, false, true⟩)

/-- The atomics with the number of their operation and of their operand registers (06/R160 to R162). -/
def atomForms : List (FM → MemReq) :=
  [fun o => ⟨.aadd o, o, 4, 1, .atomic 0, false, false⟩, fun o => ⟨.amin o, o, 4, 1, .atomic 1, false, false⟩,
   fun o => ⟨.amax o, o, 4, 1, .atomic 2, false, false⟩, fun o => ⟨.aminn o, o, 4, 1, .atomic 3, false, false⟩,
   fun o => ⟨.amaxn o, o, 4, 1, .atomic 4, false, false⟩, fun o => ⟨.aand o, o, 4, 1, .atomic 5, false, false⟩,
   fun o => ⟨.aor o, o, 4, 1, .atomic 6, false, false⟩, fun o => ⟨.axor o, o, 4, 1, .atomic 7, false, false⟩,
   fun o => ⟨.axchg o, o, 4, 1, .atomic 8, false, false⟩, fun o => ⟨.acas o, o, 4, 2, .atomic 9, false, false⟩,
   fun o => ⟨.afadd o, o, 4, 1, .atomic 10, false, false⟩, fun o => ⟨.abfadd2 o, o, 4, 1, .atomic 11, false, false⟩]

/-- The forms of own and peer scratch. -/
def scrForms : List (FM → MemReq) :=
  ([LoadSize.b8, .s8, .b16, .s16, .b32, .b64, .b128].map fun sz o =>
    ⟨.lds sz o, o, sz.bytes, sz.regs, .load, sz == .s8 || sz == .s16, false⟩) ++
  ([StoreSize.b8, .b16, .b32, .b64, .b128].map fun sz o => ⟨.sts sz o, o, sz.bytes, sz.regs, .store, false, false⟩)

/-- The lanes a form asks for (none: the one access of a uniform form). -/
def whoAsks (r : MemReq) (h : Sheaf) : List (Option Lane) := if r.uniform then [none] else (h.effLanes r.i).map some

/-- The causes of each lane: not aligned, outside the space, in slice memory on a mailbox (06/R144, R154), with its LID. -/
def faults (r : MemReq) (s : State) (h : Sheaf) : List (Nat × Nat × DWord) :=
  (whoAsks r h).flatMap fun l =>
    (s.globCauses h (xSpc (h.xmem r.i)) (h.ea r.o r.size true l) r.size (r.kind == .load)).map fun c =>
      ((l.map fun (y : Lane) => y.lid).getD 1024, c)

/-- The lanes that access: those without a cause, the stores of earlier lanes to one address left out (06/R148, R153). -/
def askers (r : MemReq) (s : State) (h : Sheaf) : List (Option Lane) :=
  let who := (whoAsks r h).filter fun l =>
    (s.globCauses h (xSpc (h.xmem r.i)) (h.ea r.o r.size true l) r.size (r.kind == .load)).isEmpty
  if r.kind == .store then keepLast (fun l => (h.ea r.o r.size true l).toNat) who else who

/-- What a form asks of global or slice memory: an access per lane, at base + offset + XOFF, with the data of the lane's
registers from D, or of the s register or pair (06/R144, R147, R148, R153); in the gather collector as far as that has room
(06/R151, 01/R14). -/
def asked (r : MemReq) (s : State) (h : Sheaf) : List Access :=
  s.intoGather h.core ((askers r s h).flatMap fun l =>
    let a := (h.ea r.o r.size true l).toNat
    (r.accs h ((l.map fun (y : Lane) => y.lid).getD 1024) a
      (match l with
       | some y => y.group r.o.d.toNat r.regs
       | none => if r.size == 8 then (h.getPair r.o.d.toNat).setWidth 128 else (h.getS r.o.d.toNat).setWidth 128) false).map
      fun x => { x with undef := s.clouded h (s.place? h x).1 (s.place? h x).2 x.size })

/-- The state and the sheaf once a form's accesses stand in the queue with the markers of its order (06/R159, R165, R166). -/
def asking (r : MemReq) (s : State) (h : Sheaf) : State × Sheaf :=
  let x := h.xmem r.i
  let s1 := (if (xOrd x).getLsbD 1 then s.sendBatches h.uid else s).touchAll h (asked r s h)
  (s1, (h.retile s1).enqueue (asked r s h) (xOrd x) (xScp x))

/-- The state after a form none of whose lanes has a cause. -/
def afterAsk (r : MemReq) (s : State) (h : Sheaf) : State := (asking r s h).1.done (asking r s h).2

/-- The sheaf as a form leaves its queue: one with an order sends the gathered requests on first (06/R151). -/
def asOrdered (r : MemReq) (h : Sheaf) : Sheaf := if xOrd (h.xmem r.i) == 0 then h else h.ungather

/-- No unsatisfied marker holds a scratch form, and its own release may pass (06/R159, 08/R241). -/
def orderFree (r : MemReq) (s : State) (h : Sheaf) : Prop :=
  (h.mq.any fun e => e.isAcquire || (r.kind != .load && e.isRelease)) = false ∧
  ((xOrd (h.xmem r.i)).getLsbD 1 = true → s.released h (xScp (h.xmem r.i)) = true)

/-- 06/R143 to R149, R153, R159: with every lane aligned and inside the space, and room in the operand log, LD, ST, LDU, STU and
the atomics of glob and slm complete with an access per lane of the effective mask at the end of the sheaf's queue, a release
marker before and an acquire marker after as ORD says; the access carries address, width, data and destination. -/
def Obligations.GlobalFormsQueueAccesses : Prop :=
  (∀ f ∈ globForms, ∀ (o : FM) (s : State) (h : Sheaf), Ready s h (f o).i → s.memHeld h (f o) = false → faults (f o) s h = [] →
    exec (f o).i s = .next (afterAsk (f o) s h)) ∧
  (∀ f ∈ atomForms, ∀ (o : FM) (s : State) (h : Sheaf), Ready s h (f o).i → (xSpc (h.xmem (f o).i) = 0 ∨ xSpc (h.xmem (f o).i) = 3) →
    s.memHeld h (f o) = false → faults (f o) s h = [] → exec (f o).i s = .next (afterAsk (f o) s h)) ∧
  (∀ f ∈ globForms ++ atomForms, ∀ (o : FM) (h : Sheaf) (lid a : Nat) (d : BitVec 128) (u : Bool), (f o).size ≤ 8 →
    (f o).accs h lid a d u = [(({
      id := ⟨h.nseq, lid, 0⟩
      kind := (f o).kind
      space := if xSpc (h.xmem (f o).i) == 3 then .slm else .glob
      addr := a
      size := (f o).size
      data := d
      dest := if (f o).kind == .store then none else some ⟨!(f o).uniform, o.d.toNat, (f o).signed⟩
      scp := xScp (h.xmem (f o).i)
      ord := xOrd (h.xmem (f o).i)
      ch := xCh (h.xmem (f o).i)
      insn := encode (f o).i
      xmem := (h.chain.get 4).getD 0
      pc := h.unitPc
      gath := if !(f o).uniform && xOrd (h.xmem (f o).i) == 0 then gatherTime + 1 else 0
      undef := u
      stage := .queued
      held := none } : Access))]) ∧
  (∀ (s : State) (core : Nat) (as : List Access), s.gathering core + as.length ≤ 512 → s.intoGather core as = as) ∧
  (∀ (s : State) (core : Nat) (as : List Access), 512 ≤ s.gathering core →
    s.intoGather core as = as.map fun a => { a with gath := 0 }) ∧
  (∀ (s : State) (h : Sheaf) (r : MemReq), r.uniform = false → xSpc (h.xmem r.i) = 0 → s.logFull h.core = true →
    s.memHeld h r = true) ∧
  (∀ f ∈ globForms, ∀ (o : FM) (s : State) (h : Sheaf), Ready s h (f o).i → s.memHeld h (f o) = true →
    exec (f o).i s = .next s) ∧
  (∀ (h : Sheaf) (as : List Access) (scp : BitVec 3), (h.enqueue as 0 scp).mq = h.mq ++ as.map .acc ∧
    (h.enqueue as 1 scp).mq = h.ungather.mq ++ as.map .acc ++ [.acqOf (h.nseq + 1) scp] ∧
    (h.enqueue as 2 scp).mq = h.ungather.mq ++ [.release h.nseq scp] ++ as.map .acc ∧
    (h.enqueue as 3 scp).mq = h.ungather.mq ++ [.release h.nseq scp] ++ as.map .acc ++ [.acqOf (h.nseq + 1) scp])

/-- 06/R144 with 02/R40, R41: a lane whose address is no multiple of the width takes cause 0x04, a lane outside the space 0x06;
the accesses of the other lanes stand. While such accesses are out, the unit retires and its causes are kept with the causes their
answers may bring, to be raised as one at the boundary; with none out the trap is that of the lowest cause, at once. A uniform form
with a cause has no access. -/
def Obligations.MisalignedLaneRaisesCause : Prop :=
  (∀ f ∈ globForms, ∀ (o : FM) (s : State) (h : Sheaf), Ready s h (f o).i → s.memHeld h (f o) = false → faults (f o) s h ≠ [] →
    ((f o).uniform = true → exec (f o).i s = .next (s.finish h (f o).i ((faults (f o) s h).map (·.2)))) ∧
    ((f o).uniform = false → asked (f o) s h = [] →
      exec (f o).i s = .next ((asking (f o) s h).1.finish (asking (f o) s h).2 (f o).i ((faults (f o) s h).map (·.2)))) ∧
    ((f o).uniform = false → asked (f o) s h ≠ [] →
      exec (f o).i s = .next ((asking (f o) s h).1.finishLater (asking (f o) s h).2 (f o).i h.nseq (faults (f o) s h)))) ∧
  (∀ f ∈ globForms, ∀ (o : FM) (s : State) (h : Sheaf),
    let h' := (asking (f o) s h).2
    h'.s = h.s ∧ h'.lanes = h.lanes ∧ h'.path = h.path ∧ h'.raised = h.raised) ∧
  (∀ (s : State) (h : Sheaf) (i : Instr) (u : Nat) (cs : List (Nat × Nat × DWord)),
    s.finishLater h i u cs = s.done { h with raised := h.raised ++ cs.map fun c =>
      ⟨h.uid, h.core, 0, encode i, 0, 0, 3, [], [(c.1, c.2.2)], h.unitPc, c.2.1, u⟩ }) ∧
  (∀ (s : State) (h : Sheaf) (a : Int) (n : Nat) (rd : Bool), a % n ≠ 0 →
    (4, BitVec.ofInt 64 a) ∈ s.globCauses h 0 a n rd) ∧
  (∀ (s : State) (h : Sheaf) (a : Int) (n : Nat) (rd : Bool), (a < 0 ∨ 2 ^ 57 ≤ a) →
    (6, BitVec.ofInt 64 a) ∈ s.globCauses h 0 a n rd) ∧
  (∀ (s : State) (h : Sheaf) (a : Int) (n : Nat) (rd : Bool), 0 ≤ a → a < 2 ^ 57 → a % n = 0 → s.globCauses h 0 a n rd = []) ∧
  (∀ (s : State) (h : Sheaf) (i : Instr) (cs : List (Nat × DWord)), cs = [] → s.finish h i cs = s.done h) ∧
  (∀ (s : State) (h : Sheaf) (i : Instr) (c : Nat) (a : DWord) (cs : List (Nat × DWord)), cs ≠ [] →
    lowestCause (firstPer cs) = some (c, a) →
    s.finish h i cs = (s.violateAll h (firstPer cs)).takeTrap h c a (encode i) false h.unitPc h.unitPc)

/-- 06/R156 to R160, 08/R251: with no unsatisfied marker in the way and every lane inside the allotment and aligned, a form of own
scratch is performed at its issue in LID order; a load puts the bytes into the lane's registers, a store writes them, an atomic
writes the new word and returns the old one. The registers of a load or atomic stay pending until its result arrives (02/R27, R31). -/
def Obligations.ScratchFormsAccessAtIssue : Prop :=
  (∀ f ∈ scrForms ++ atomForms, ∀ (o : FM) (s : State) (h0 : Sheaf), Ready s h0 (f o).i → xSpc (h0.xmem (f o).i) = 1 →
    let h := asOrdered (f o) h0
    orderFree (f o) s h → s.ownBehind h = false →
    (∀ l ∈ h.effLanes (f o).i, 0 ≤ h.ea o (f o).size false (some l) ∧
      h.ea o (f o).size false (some l) + (f o).size ≤ h.scrBytes ∧ h.ea o (f o).size false (some l) % (f o).size = 0) →
    let off := fun (l : Lane) => (h.ea o (f o).size false (some l)).toNat
    let ls := if (f o).kind == .store then keepLast off (h.effLanes (f o).i) else h.effLanes (f o).i
    let r := ls.foldl (fun (q : State × Sheaf × List (Nat × DWord)) (l : Lane) =>
      let y := q.1.ownAccess q.2.1 (f o) l (off l)
      (y.1, y.2.1, q.2.2 ++ y.2.2)) (s, h, [])
    let late := if (f o).kind == .store || ls.isEmpty then []
      else [⟨o.d.toNat, if (f o).kind == .load then (f o).regs else 1, ls.map (·.lid), false⟩]
    exec (f o).i s = .next (r.1.finish { r.2.1 with late := r.2.1.late ++ late } (f o).i r.2.2)) ∧
  (∀ (s : State) (uid a n : Nat) (d : BitVec 128), s.scrAccess uid .load a n d = (s, leNat (s.scrRead a n), s.scrBad a n)) ∧
  (∀ (s : State) (uid a n : Nat) (d : BitVec 128), s.scrAccess uid .store a n d = (s.stsWrite a (bvLe d n) uid, 0, false)) ∧
  (∀ (s : State) (uid a op n : Nat) (d : BitVec 128), s.scrBad a 4 = false →
    s.scrAccess uid (.atomic op) a n d = (s.plainWrite a (bvLe (atomicNew op (BitVec.ofNat 32 (leNat (s.scrRead a 4)))
      (d.truncate 32) ((d >>> 32).truncate 32)) 4) uid, (BitVec.ofNat 32 (leNat (s.scrRead a 4))).toNat, false)) ∧
  (∀ (s : State) (a uid : Nat) (bs : List Byte), s.liveTxbs = [] → s.plainWrite a bs uid = s.scrWrite a bs uid) ∧
  (∀ (s : State) (a uid : Nat) (bs : List Byte), s.waitedWords = [] → s.stsWrite a bs uid = s.plainWrite a bs uid) ∧
  (∀ (s : State) (h : Sheaf) (r : MemReq) (l : Lane) (off : Nat), s.unseen h = [] → r.kind = .load →
    (s.scrBad (h.scrAbs off) r.size = true → s.ownAccess h r l off = (s, h, [(0x12, BitVec.ofNat 64 off)])) ∧
    (r.size ≤ 8 → s.scrBad (h.scrAbs off) r.size = false → s.ownAccess h r l off = (s,
      h.receive l.lid ⟨true, r.o.d.toNat, r.signed⟩ r.size (leNat (s.scrRead (h.scrAbs off) r.size)), [])))

/-- 06/R156, 08/R251, 09/R270: resolved at issue, one request per lane in LID order, performed by DELIVER at the target. An index
without member is cause 0x07 in every lane, beside 0x04 in a misaligned one; a held member holds the sheaf. That a bad word met at the member
traps late is the model's choice (log entry 79). -/
def Obligations.PeerFormsUseChannels : Prop :=
  (∀ f ∈ scrForms ++ atomForms, ∀ (o : FM) (s : State) (h0 : Sheaf) (t : ScrTarget), Ready s h0 (f o).i →
    xSpc (h0.xmem (f o).i) = 2 →
    let h := asOrdered (f o) h0
    orderFree (f o) s h → s.target h (some (h.memIndex (h.xmem (f o).i))) = some t → t.held = false →
    (∀ l ∈ h.effLanes (f o).i, t.causes (h.ea o (f o).size false (some l)) (f o).size = []) →
    let off := fun (l : Lane) => (h.ea o (f o).size false (some l)).toNat
    let ls := if (f o).kind == .store then keepLast off (h.effLanes (f o).i) else h.effLanes (f o).i
    let rs := ls.flatMap fun l => (f o).chan s h t l (off l)
    let s1 := rs.foldl (fun (u : State) (c : ChanReq) => u.touch h 1 c.addr c.size ((f o).kind != .load)) s
    exec (f o).i s = .next (({ s1 with mm := { s1.mm with chans := s1.mm.chans ++ rs } } : State).done
      { h.retile s1 with nseq := h.nseq + 2, mq := h.mq ++
          (if (xOrd (h.xmem (f o).i)).getLsbD 0 then [MqEntry.acqOf (h.nseq + 1) (xScp (h.xmem (f o).i))] else []) })) ∧
  (∀ (s : State) (h : Sheaf) (a n : Nat) (w : Bool), s.unseen h = [] → s.touch h 1 a n w = s) ∧
  (∀ f ∈ scrForms ++ atomForms, ∀ (o : FM) (s : State) (h0 : Sheaf), Ready s h0 (f o).i → xSpc (h0.xmem (f o).i) = 2 →
    let h := asOrdered (f o) h0
    orderFree (f o) s h → s.target h (some (h.memIndex (h.xmem (f o).i))) = none →
    exec (f o).i s = .next (s.finish h (f o).i ((h.effLanes (f o).i).flatMap fun l =>
      let a := h.ea o (f o).size false (some l)
      (if a % ((f o).size : Int) ≠ 0 then [(4, scrTrapa (some (h.memIndex (h.xmem (f o).i))) a)] else []) ++
      [(7, scrTrapa (some (h.memIndex (h.xmem (f o).i))) a)]))) ∧
  (∀ (s : State) (h : Sheaf) (m : Nat), (∀ k, s.stookOf h = some k → ∀ x ∈ k.members, x.idx ≠ m) → s.target h (some m) = none) ∧
  (∀ (src dst : Nat) (s : State) (r : ChanReq), s.mm.chans.find? (fun r => r.src == src && r.dst == dst) = some r →
    let s1 : State := { s with mm := { s.mm with chans := s.mm.chans.eraseP fun x => x.src == src && x.dst == dst } }
    (r.kind = .acc .load → exec (.deliver src dst) s = .next { s1 with mm := { s1.mm with
      backs := s1.mm.backs ++ [⟨r, leNat (s.scrRead r.addr r.size), s.scrBad r.addr r.size⟩] } }) ∧
    (r.kind = .acc .store →
      let s2 := s1.stsWrite r.addr (bvLe r.data r.size) r.uid
      exec (.deliver src dst) s = .next { s2 with mm := { s2.mm with backs := s2.mm.backs ++ [⟨r, 0, false⟩] } })) ∧
  (∀ (src dst : Nat) (s : State) (b : ChanResp) (k : AccKind), s.mm.backs.find? (fun b => b.req.src == src && b.req.dst == dst) = some b →
    b.req.kind = .acc k →
    let s1 : State := { s with mm := { s.mm with backs := s.mm.backs.eraseP fun x => x.req.src == src && x.req.dst == dst } }
    s1.requests.any b.req.twin = false → b.req.half = none → b.req.undef = false →
    s.respond src dst = (if b.bad then s1.lateChan b.req else match b.req.dest with
      | none => s1
      | some d => s1.modSheaf b.req.uid fun h => h.receive b.req.id.lid d b.req.size b.val)) ∧
  (∀ (s : State) (r : ChanReq), s.lateChan r = s.modSheaf r.uid fun h => { h with
    raised := h.raised ++ [⟨r.uid, r.src, 0, r.insn, 0, 0, 3, [], [(r.id.lid, r.trapa)], r.pc, 0x12, r.id.seq⟩] })

/-- 08/R242 to R247, R250: each enabled step of a sheaf's access. -/
def Obligations.AccessesPerformAtHome : Prop :=
  (∀ (uid : Nat) (a : AccId) (s : State) (h : Sheaf) (x : Access), s.sheaf? uid = some h → h.acc? a = some x → h.drainReady x = true →
    exec (.storeDrain uid a) s = .next (((if x.kind == .store && x.space == .glob then
        s.writeCopy (s.l1Of h.core) (s.asidOf h.ctx) (x.addr / 128) (x.addr % 128) x.bytes else s).fresh 1).putSheaf
      (h.modAcc a fun y => { y with stage := .drained s.ctl.nextId }))) ∧
  (∀ (uid : Nat) (a : AccId) (s s1 : State) (h : Sheaf) (x : Access) (m : Home), s.sheaf? uid = some h → h.acc? a = some x →
    x.kind = .store → x.space = .glob → s.performReady h x = true → s.served h x = true → s.homeFor h x = (s1, .ok m) →
    exec (.homeWritePerform (.acc uid a)) s = .next
      (let r := s1.homeWrite h.ctx h.core h.uid m (x.addr % 128) x.bytes
       (r.1.putSheaf (h.dropAcc a)).foldGw h.uid r.2)) ∧
  (∀ (uid : Nat) (a : AccId) (s s1 : State) (h : Sheaf) (x : Access) (m : Home) (op : Nat), s.sheaf? uid = some h →
    h.acc? a = some x → x.kind = .atomic op → x.space = .glob → s.performReady h x = true → s.served h x = true →
    s.homeFor h x = (s1, .ok m) → exec (.atomicPerform uid a) s = .next (s1.atomicAt h x op m)) ∧
  (∀ (uid : Nat) (a : AccId) (s : State) (h : Sheaf) (x : Access) (c : Copy), s.sheaf? uid = some h → h.acc? a = some x →
    x.space = .glob → h.loadReady x = true →
    ((h.forwards x).all (·.isSome) = true → exec (.loadPerform uid a) s = .next (s.loadDone h x (List.replicate x.size 0))) ∧
    ((h.forwards x).all (·.isSome) = false → s.copyFor h x = some c → badIn c.bad (x.addr % 128) x.size = false →
      exec (.loadPerform uid a) s = .next (s.loadDone h x (lineBytes c.data (x.addr % 128) x.size)))) ∧
  (∀ (s : State) (h : Sheaf) (x : Access), (x.ch = 3 → s.copyFor h x = none) ∧
    (x.ch ≠ 3 → s.copyFor h x = s.copy? (s.l1Of h.core) (s.asidOf h.ctx) (x.addr / 128))) ∧
  (∀ (uid : Nat) (a : AccId) (s s1 : State) (h : Sheaf) (x : Access) (m : Home), s.sheaf? uid = some h → h.acc? a = some x →
    x.space = .glob → h.loadReady x = true → (h.forwards x).all (·.isSome) = false → s.copyFor h x = none → (x.ch = 3 ∨ x.ch = 1) →
    s.served h x = true → s.homeFor h x = (s1, .ok m) → s1.inFlight (s1.l1Of h.core) m.asid m.line = false →
    exec (.loadPerform uid a) s = .next (s1.loadAt h x m)) ∧
  (∀ (uid : Nat) (a : AccId) (s s1 : State) (h : Sheaf) (x : Access) (m : Home), s.sheaf? uid = some h → h.acc? a = some x →
    x.space = .glob → h.loadReady x = true → (h.forwards x).all (·.isSome) = false → x.ch ≠ 3 → x.ch ≠ 1 →
    s.copyFor h x = none → s.served h x = true → s.homeFor h x = (s1, .ok m) → s1.inFlight (s1.l1Of h.core) m.asid m.line = false →
    exec (.fill (.acc uid a)) s = .next ((s1.grant m).1.putCopy (s1.l1Of h.core) m (s1.grant m).2)) ∧
  (∀ (l1 asid line : Nat) (s : State), exec (.expire l1 asid line) s = .next
    (s.dropCopies fun c => c.l1 == l1 && c.asid == asid && c.line == line)) ∧
  (∀ (uid : Nat) (a : AccId) (s : State) (h : Sheaf) (x : Access) (p : Nat), s.sheaf? uid = some h → h.acc? a = some x →
    x.space = .slm → s.slmPos h.ctx x.addr x.size = some p → s.slmRefuses x p = false → s.served h x = true →
    (x.kind = .load → h.loadReady x = true →
      exec (.sliceAccessPerform uid a) s = .next (s.loadDone h x (s.slmRead p x.size))) ∧
    (x.kind = .store → s.performReady h x = true →
      exec (.sliceAccessPerform uid a) s = .next ((s.slmWrite p x.bytes).putSheaf (h.dropAcc a)))) ∧
  (∀ (s : State) (h : Sheaf) (x : Access), (∀ r ∈ s.sys.cmds, r.op ≠ 0x11) → s.served h x = true) ∧
  (∀ (core : Nat) (s : State), 512 ≤ s.gathering core → exec (.gatherFlush core) s = .next
    { s with sheaves := s.sheaves.map fun h => if h.core == core then h.ungather else h }) ∧
  (∀ (core : Nat) (s : State), s.gathering core < 512 → exec (.gatherFlush core) s = .next
    { s with sheaves := s.sheaves.map fun h => if h.core == core then { h with mq := h.mq.map fun e => match e with
      | .acc a => .acc { a with gath := if a.gath = 1 then 0 else a.gath }
      | e => e } else h }) ∧
  (∀ (uid seq : Nat) (s : State) (h : Sheaf) (e : MqEntry), s.sheaf? uid = some h → h.mq.find? (·.marks seq) = some e →
    s.markerOk h e (h.mq.takeWhile fun x => !x.marks seq) = true →
    exec (.wait uid seq) s = .next (s.putSheaf { h with mq := h.mq.filter fun x => !x.marks seq }))

/-- 08/R243, R245, 06/R148: the bytes of a line after a write at an offset; a grant changes no byte and ends no earlier lease.
00/R4, 06/R157: byte memories in canonical form. -/
def Obligations.WritesChangeExactlyTheirBytes : Prop :=
  (∀ (x : Home) (off : Nat) (bs : List Byte) (k : Nat), off + bs.length ≤ 128 → k < 128 →
    byteOf (x.put off bs).data k = if off ≤ k ∧ k < off + bs.length then bs.getD (k - off) 0 else byteOf x.data k) ∧
  (∀ (x : Home) (off : Nat) (bs : List Byte) (k : Nat), off + bs.length ≤ 128 → k < 128 →
    (x.put off bs).dirty.getLsbD k = (x.dirty.getLsbD k || (decide (off ≤ k) && decide (k < off + bs.length)))) ∧
  (∀ (s : State) (x : Home), (s.grant x).2 = s.reading (slicePlace x.slice) + x.ll ∧
    ∀ y ∈ (s.grant x).1.mm.homes, ∃ z ∈ s.mm.homes, y.data = z.data ∧ z.lemax ≤ y.lemax) ∧
  (∀ (s : State) (ctx core uid : Nat) (x : Home) (off : Nat) (bs : List Byte), x.lemax ≤ (s.homeWrite ctx core uid x off bs).2 ∧
    s.reading (slicePlace x.slice) ≤ (s.homeWrite ctx core uid x off bs).2) ∧
  (∀ (m : Mem) (a : Nat) (bs : List Byte), m.wf = true → (m.write a bs).wf = true) ∧
  (∀ (m : Mem) (a c : Nat) (bs : List Byte), m.wf = true → (m.write a bs).get c =
    if a ≤ c ∧ c < a + bs.length then bs.getD (c - a) 0 else m.get c) ∧
  (∀ (m : Mem) (a n x : Nat), m.wf = true → (m.write a (natLe n x)).readNat a n = x % 256 ^ n) ∧
  (∀ (m : Mem) (a n c : Nat), m.wf = true → (m.clear a n).get c = if a ≤ c ∧ c < a + n then 0 else m.get c) ∧
  (∀ (m m' : Mem), m.wf = true → m'.wf = true → (∀ a, m.get a = m'.get a) → m = m')

/-- The instruction words that store nothing when they execute and translate no address: of these the memories never change. JTAB
and LDL translate, which marks page-table entries (17/R376); engine commands do too. SAFE writes the context save area where it
stops (17/R392), NBEG and NXT leave level-local memory undefined (14/R333). -/
def storesNothing (i : Instr) : Bool :=
  match i.grp with
  | .sys => match i with
    | .safe _ => false
    | _ => true
  | .nest => match i with
    | .nbeg _ | .nxt _ => false
    | _ => true
  | .bru | .brd | .salu | .salui | .vint | .vinti | .vri | .vf32 | .vfma | .vcvt | .vcmp | .kops | .vmov | .vsfu => true
  | .stk | .task | .csr | .xw => true
  | .jmp => match i with
    | .jtab _ => false
    | _ => true
  | .mbx => match i with
    | .mtake _ => false
    | _ => true
  | .sync => match i with
    | .bar _ | .bara _ | .txbi _ | .txbe _ | .txba _ | .hcan _ => false
    | _ => true
  | _ => false

/-- The frame of memory for the words that store nothing at their issue, whatever they end in (completion, wait or trap). Accesses
to global, slice and peer memory only ask; their bytes change at the home, the slice or the member (08/R240). A sheaf with an
operation it has not observed may leave bytes of that operation undefined (06/R169), so there is none. -/
def Obligations.FormsThatStoreNothing : Prop :=
  (∀ (i : Instr) (s t : State) (h : Sheaf), s.cur? = some h → s.unseen h = [] → storesNothing i = true → exec i s = .next t →
    SameBytes s t) ∧
  (∀ (imm : BitVec 21) (s t : State) (h : Sheaf), s.cur? = some h → s.unseen h = [] → h.stop = none → exec (.safe imm) s = .next t →
    SameBytes s t) ∧
  (∀ f ∈ globForms ++ atomForms, ∀ (o : FM) (s t : State) (h : Sheaf), s.cur? = some h →
    (xSpc (h.xmem (f o).i) = 0 ∨ xSpc (h.xmem (f o).i) = 3) → s.unseen h = [] → exec (f o).i s = .next t → SameBytes s t) ∧
  (∀ f ∈ scrForms ++ atomForms, ∀ (o : FM) (s t : State) (h : Sheaf), s.cur? = some h → xSpc (h.xmem (f o).i) = 2 →
    s.unseen h = [] → exec (f o).i s = .next t → SameBytes s t)

/-- 06/R156 to R160: the frame of the own-scratch forms. The stored bytes of a lane are those at its effective address. Barrier
objects in use (06/R170, R174) and unobserved operations (06/R169) may leave more undefined, so there are none. -/
def Obligations.ScratchAccessFrame : Prop :=
  ∀ f ∈ scrForms ++ atomForms, ∀ (o : FM) (s t : State) (h : Sheaf), Ready s h (f o).i → xSpc (h.xmem (f o).i) = 1 →
    s.unseen h = [] → s.liveTxbs = [] → s.waitedWords = [] → s.mm.scr.wf = true → exec (f o).i s = .next t →
    (t.mm.pool = s.mm.pool ∧ t.mm.host = s.mm.host ∧ t.mm.slm = s.mm.slm) ∧
    (∀ a : Nat, (∀ l ∈ h.effLanes (f o).i, (f o).kind ≠ .load → 0 ≤ h.ea o (f o).size false (some l) →
        h.ea o (f o).size false (some l) + (f o).size ≤ h.scrBytes →
        ¬ (h.scrAbs (h.ea o (f o).size false (some l)).toNat ≤ a ∧ a < h.scrAbs (h.ea o (f o).size false (some l)).toNat + (f o).size)) →
      t.mm.scr.get a = s.mm.scr.get a) ∧
    (∀ v, v ≠ h.uid → t.sheaf? v = s.sheaf? v) ∧
    (∃ h', t.sheaf? h.uid = some h' ∧ h'.s = h.s ∧ h'.h = h.h ∧ h'.fflg = h.fflg ∧ h'.tiles = h.tiles ∧ h'.gw = h.gw ∧
      ∃ g : Lane → Lane, h'.lanes = h.lanes.map g ∧ (∀ l, (∀ x ∈ h.effLanes (f o).i, x.lid ≠ l.lid) → g l = l) ∧
        ∀ l, g l = { l with v := (g l).v } ∧ ∀ r, r < o.d.toNat ∨ o.d.toNat + (f o).regs ≤ r → (g l).getV r = l.getV r)

/-- 02/R42, 17/R381 to R384. -/
def Obligations.OperandLogAndPages : Prop :=
  (∀ (uid : Nat) (a : AccId) (s s1 : State) (h : Sheaf) (x : Access) (r : Refused), s.sheaf? uid = some h → h.acc? a = some x →
    s.logFull h.core = false → s.logBehind h x = none → s.atHome h x = true → ((s.copyFor h x).isNone ∨ x.kind ≠ .load) →
    s.homeFor h x = (s1, .error r) →
    exec (.operandLogEntry uid a) s = .next (match r with
      | .page => (s1.logAccess h x 1 6).askPage ⟨.core h.core, h.ctx, x.addr / 65536⟩
      | .permission => s1.logAccess h x 3 6
      | .data => s1.logAccess h x 3 0x12)) ∧
  (∀ (uid : Nat) (a : AccId) (s : State) (h : Sheaf) (x y : Access), s.sheaf? uid = some h → h.acc? a = some x →
    s.logFull h.core = false → s.logBehind h x = some (some y) →
    exec (.operandLogEntry uid a) s = .next (s.logAccess h x
      (if y.addr / 65536 = x.addr / 65536 ∧ (s.flt.log.any fun e => e.uid == uid && e.state == 1 && e.accs.contains y.id) = true
        then 1 else 2) 6)) ∧
  (∀ (s : State) (h : Sheaf) (x y : Access), h.stop = none → s.logBehind h x = some (some y) →
    MqEntry.acc y ∈ h.before x.id ∧ y.stage.logged? = true ∧ y.sameLine x = true ∧ x.stage.logged? = false) ∧
  (∀ (r : PageReq) (s : State) (o : Op), s.flt.reqs.contains r = true → s.eng.ops.filter (fun o => o.waitsFor r) = [o] →
    exec (.pageResponseSuccess r) s = .next
      (let u := (s.answer r 2).resumeOp o
       { u with sheaves := u.sheaves.map fun h => if (h.parkedOn r).isSome then { h with run := .running } else h })) ∧
  (∀ (r : PageReq) (s : State), s.flt.reqs.contains r = true → (∀ o ∈ s.eng.ops, o.waitsFor r = false) →
    ∃ t, exec (.pageResponseSuccess r) s = .next t ∧
    r ∉ t.flt.reqs ∧ (∀ h ∈ t.sheaves, h.parkedOn r = none) ∧
    t.flt.log.length = s.flt.log.length) ∧
  (∀ (r : PageReq) (s : State), s.flt.reqs.contains r = true → ∃ t, exec (.pageResponseInvalidRequest r) s = .next t ∧
    (∀ e ∈ s.flt.log, s.waitsFor e r = true → { e with state := 3 } ∈ t.flt.log)) ∧
  (∀ (uid seq : Nat) (s : State) (h : Sheaf) (e : LogEntry), s.sheaf? uid = some h →
    s.flt.log.find? (fun e => e.uid == uid && e.state != 3) = some e → e.seq = seq → e.state = 2 → e.asleep h = false →
    exec (.operandLogReplay uid seq) s = .next
      (e.accs.foldl (fun (t : State) (a : AccId) => t.replayAcc uid seq a) s).trimLog) ∧
  (∀ (uid : Nat) (s : State) (h : Sheaf) (e : LogEntry), s.sheaf? uid = some h → s.lateEntries h = [e] →
    h.run = .running → h.path.isSome = true → h.chain.pc0 = none → h.arr = none →
    let gone := fun (a : AccId) => a.seq == e.unit && (e.accs.map (·.lid)).contains a.lid
    exec (.lateTrap uid) s = .next
      ((({ s with flt := { s.flt with log := (s.flt.log.filter fun x => !(x.uid == uid && x.unit == e.unit && x.state == 3)).map fun x =>
          if x.uid == uid && x.unit == e.unit then { x with
            accs := x.accs.filter fun a => !gone a
            addrs := x.addrs.filter fun p => !(e.accs.map (·.lid)).contains p.1 } else x } } : State).violateAll h
        [(e.cause, lowestLane [e])]).trimLog.takeTrap
        { h with
          mq := h.mq.filter fun m => match m with | .acc x => !gone x.id | _ => true
          raised := h.raised.filter fun x => x.unit != e.unit }
        e.cause (lowestLane [e]) e.insn (s.flt.log.contains e) e.pc e.pc)) ∧
  (∀ (uid : Nat) (s t : State) (h : Sheaf) (e : LogEntry), s.sheaf? uid = some h → e ∈ oldestUnit (s.lateEntries h) →
    (∀ x ∈ oldestUnit (s.lateEntries h), e.cause ≤ x.cause) → h.run = .running → h.path.isSome = true → h.chain.pc0 = none →
    h.arr = none → exec (.lateTrap uid) s = .next t →
    ∃ h', t.sheaf? uid = some h' ∧
      h'.trap.c = trapcWord e.cause ((oldestUnit (s.lateEntries h)).any fun x => x.cause == e.cause && s.flt.log.contains x) ∧
      h'.trap.a = lowestLane ((oldestUnit (s.lateEntries h)).filter fun x => x.cause == e.cause)) ∧
  (∀ (uid : Nat) (s : State) (h : Sheaf), s.sheaf? uid = some h → s.lateEntries h = [] → exec (.lateTrap uid) s = .next s) ∧
  (∀ (uid : Nat) (s : State) (h : Sheaf), s.sheaf? uid = some h → exec (.fetch uid) s = .next (s.fetchFor h)) ∧
  (∀ (uid : Nat) (s : State), exec (.sleepWake uid) s = .next
    (s.modSheaf uid fun h => if h.sleep ≤ s.reading h.core then { h with sleep := 0 } else h))

/-! ### Synchronisation (06/R164 to R184) -/

/-- The conditions of an arrival at the barrier word of a target with no cause (06/R165, R171, R172): not held, no arrival of the
sheaf under way, no request to itself before it, the release satisfied. -/
def canArrive (s : State) (h : Sheaf) (o : FSY) (t : ScrTarget) : Prop :=
  h.arr = none ∧ s.barTarget h o = (some t, []) ∧ t.held = false ∧ (t.member = none → s.ownBehind h = false) ∧
  s.released h o.scp = true

/-- The place of the barrier word. -/
def barAt (h : Sheaf) (o : FSY) (t : ScrTarget) : Nat := t.base + (h.getS o.sa.toNat).toNat

/-- The sheaf as it arrives: its gathered requests have gone on (06/R151). -/
def arriver (s : State) (h : Sheaf) (o : FSY) (t : ScrTarget) : Sheaf := (h.retile (s.touch h 1 (barAt h o t) 8 true)).ungather

/-- The state in which an arrival is made: regions of unobserved operations that it meets are undefined (06/R169). -/
def arriving (s : State) (h : Sheaf) (o : FSY) (t : ScrTarget) : State :=
  (s.touch h 1 (barAt h o t) 8 true).putSheaf (arriver s h o t)

/-- The record of an arrival at an own word. -/
def arrivalOf (s : State) (h : Sheaf) (o : FSY) (t : ScrTarget) : BarHandle :=
  ⟨(h.getS o.sa.toNat).toNat, (h.stook.map (·.2)).getD 0, true, t.holder, 0, 1, 0, s.clouded h 1 (barAt h o t) 8⟩

/-- What BARA does with the record of its arrival. -/
def keepRecord (o : FSY) (b : BarHandle) (h : Sheaf) (s : State) : State := (s.done (h.setH o.h.toNat (.bar b))).collect h.ctx

/-- What BAR does with it. -/
def awaitRecord (b : BarHandle) (h : Sheaf) (s : State) : State :=
  if b.code == 0 then s.done h else s.hold { h with bar := some b } true

/-- The conditions of a form on a transaction barrier at an own offset (06/R175). -/
def txbReady (s : State) (h : Sheaf) (o : FSY) : Prop :=
  (h.getS o.sa.toNat).toNat % 16 = 0 ∧ (h.getS o.sa.toNat).toNat + 16 ≤ h.scrBytes ∧
  (h.mq.any fun e => e.isAcquire || e.isRelease) = false ∧ s.ownBehind h = false ∧
  s.scrBad (h.scrAbs (h.getS o.sa.toNat).toNat) 16 = false

/-- 06/R164 to R168. -/
def Obligations.FencesPutMarkers : Prop :=
  (∀ (o : FSY) (s : State) (h : Sheaf), Ready s h (.fence o) → exec (.fence o) s = .next
    ((if o.ord.getLsbD 1 then s.sendBatches h.uid else s).done { h.ungather with
      mq := h.ungather.mq ++ ((if o.ord.getLsbD 1 then [.release h.nseq o.scp] else []) ++
        (if o.ord.getLsbD 0 then [.acqFence (h.nseq + 1) o.scp] else [])), nseq := h.nseq + 2 })) ∧
  (∀ (o : FSY) (s : State) (h : Sheaf), Ready s h (.fencesc o) → o.scp ≤ 1 → exec (.fencesc o) s = .next
    ((s.sendBatches h.uid).done { h.ungather with
      mq := h.ungather.mq ++ [.release h.nseq o.scp, .acqFence (h.nseq + 1) o.scp], nseq := h.nseq + 2 })) ∧
  (∀ (o : FSY) (s : State) (h : Sheaf), Ready s h (.fencesc o) → 1 < o.scp → s.released h o.scp = true →
    exec (.fencesc o) s = .next ((s.dropCopies fun c => c.l1 == s.l1Of h.core && (c.asid == 0 || c.asid == s.asidOf h.ctx)).done h)) ∧
  (∀ (o : FSY) (s : State) (h : Sheaf), Ready s h (.fencesc o) → 1 < o.scp → s.released h o.scp = false →
    exec (.fencesc o) s = .next ((s.sendBatches h.uid).putSheaf h.ungather)) ∧
  (∀ (o : FSY) (s : State) (h : Sheaf), Ready s h (.ofence o) → exec (.ofence o) s = .next
    (s.done { h.ungather with ofence := some h.nseq, unfenced := [] }))

/-- 06/R170, R172: the update of a barrier word, whose fields not named, ARI among them, keep their bits; 06/R174, R176: the update
of a transaction barrier, with ERR outside the 40-bit range, and the object's bits. -/
def Obligations.BarrierObjectsUpdate : Prop :=
  (∀ w : DWord, barArr w = 1 → (barArrive w).2 = true ∧ barArr (barArrive w).1 = (barAri w).toNat ∧
    barPh (barArrive w).1 = (barPh w + 1) % 16 ∧ barAri (barArrive w).1 = barAri w) ∧
  (∀ w : DWord, 1 < barArr w → (barArrive w).2 = false ∧ barArr (barArrive w).1 = barArr w - 1 ∧
    barPh (barArrive w).1 = barPh w ∧ barAri (barArrive w).1 = barAri w) ∧
  (∀ w : DWord, (barArrive w).1.extractLsb' 4 12 = w.extractLsb' 4 12 ∧
    (barArrive w).1.extractLsb' 48 16 = w.extractLsb' 48 16) ∧
  (∀ t : Txb, Txb.ofBits t.bits = t) ∧
  (∀ (t : Txb) (arrive : Bool) (n : Int),
    let a := if arrive then t.arr - 1 else t.arr
    let c := BitVec.ofInt 40 (t.sec.toInt + n)
    let e := t.err || decide (t.sec.toInt + n < -2 ^ 39 ∨ 2 ^ 39 ≤ t.sec.toInt + n)
    t.update arrive n = if a = 0 ∧ c = 0 then ⟨t.ph + 1, e, t.trn, t.ari, c, t.ari⟩ else ⟨t.ph, e, t.trn, a, c, t.ari⟩)

/-- 06/R171 to R173, R179, R169. For a cancelled handle R173 and R179 state no outcome of BARW and BART: that the one completes and
the other writes 0 is the model's choice (log entry 51). -/
def Obligations.BarrierFormsArriveAndWait : Prop :=
  (∀ p ∈ ([(Instr.bara, keepRecord), (.bar, fun _ => awaitRecord)] : List ((FSY → Instr) × (FSY → BarHandle → Sheaf → State → State))),
    ∀ (o : FSY) (s : State) (h : Sheaf) (t : ScrTarget), Ready s h (p.1 o) → h.bar = none → canArrive s h o t →
    let a := barAt h o t
    let s1 := arriving s h o t
    let w := BitVec.ofNat 64 (leNat (s1.scrRead a 8))
    let b := arrivalOf s h o t
    let s2 := s1.scrWrite a (bvLe (barArrive w).1 8) h.uid
    let s3 := if (barArrive w).2 then s2.phaseDone b.holder b.off else s2
    let h3 := (s3.sheaf? h.uid).getD (arriver s h o t)
    (t.member = none → s1.scrBad a 8 = false → barBad w = false → s.clouded h 1 a 8 = false → 0 < barArr w →
      exec (p.1 o) s = .next (p.2 o { b with ph := barPh w, code := if (barArrive w).2 then 0 else 1 } h3 s3)) ∧
    (t.member = none → s1.scrBad a 8 = false → s.clouded h 1 a 8 = true → t.holder = h.uid →
      let s4 := (s1.draw 10).scrWrite a (freeBytes (s1.ctl.free + 2) 8) h.uid
      exec (p.1 o) s = .next (p.2 o { b with
        ph := (freeByte s1.ctl.free).toNat % 16, code := bitNat (freeBit (s1.ctl.free + 1)), bad := true }
        ((s4.sheaf? h.uid).getD (arriver s h o t)) s4)) ∧
    (t.member = none → s1.scrBad a 8 = false → barBad w = false → s.clouded h 1 a 8 = false → barArr w = 0 →
      exec (p.1 o) s = .next (s1.decodeTrap ((s1.sheaf? h.uid).getD (arriver s h o t)) (encode (p.1 o)) 0x0E)) ∧
    (t.member.isSome = true →
      let s0 := s.touch h 1 a 8 true
      exec (p.1 o) s = .next (({ s0 with mm := { s0.mm with
          chans := s0.mm.chans ++ [arriveReq s h (p.1 o) t (h.getS o.sa.toNat).toNat] } } : State).hold
        { arriver s h o t with arr := some .sent, nseq := h.nseq + 2 } false))) ∧
  (∀ p ∈ ([(Instr.bara, keepRecord), (.bar, fun _ => awaitRecord)] : List ((FSY → Instr) × (FSY → BarHandle → Sheaf → State → State))),
    ∀ (o : FSY) (s : State) (h : Sheaf), Ready s h (p.1 o) → h.bar = none →
    (∀ x c cs, h.arr = none → s.barTarget h o = (x, c :: cs) → exec (p.1 o) s = .next (s.raise h (encode (p.1 o)) (c :: cs))) ∧
    (h.arr = some .sent → exec (p.1 o) s = .next (s.hold h false)) ∧
    (∀ b, h.arr = some (.made b true) → exec (p.1 o) s = .next (p.2 o b { h with arr := none } s)) ∧
    (h.arr = some (.refused 0x0E true) →
      exec (p.1 o) s = .next (s.decodeTrap { h with arr := none } (encode (p.1 o)) 0x0E))) ∧
  (∀ (o : FSY) (s : State) (h : Sheaf), o.sb ≠ 0 → s.member? h (h.getS o.sb.toNat).toNat = none →
    let a := scrTrapa (some (h.getS o.sb.toNat).toNat) (h.getS o.sa.toNat).toNat
    (s.barTarget h o).2 = (if (h.getS o.sa.toNat).toNat % 8 = 0 then [] else [(4, a)]) ++ [(7, a)]) ∧
  (∀ (src dst : Nat) (s : State) (r : ChanReq), s.mm.chans.find? (fun r => r.src == src && r.dst == dst) = some r →
    r.kind = .arrive → r.undef = false →
    let s1 : State := { s with mm := { s.mm with chans := s.mm.chans.eraseP fun x => x.src == src && x.dst == dst } }
    let w := BitVec.ofNat 64 (leNat (s.scrRead r.addr 8))
    let b : BarHandle := ⟨(r.trapa.extractLsb' 0 32).toNat, (r.trapa.extractLsb' 32 32).toNat, false, r.holder, barPh w,
      if (barArrive w).2 then 0 else 1, 0, false⟩
    let s2 := s1.scrWrite r.addr (bvLe (barArrive w).1 8) r.uid
    let s3 := (if (barArrive w).2 then s2.phaseDone b.holder b.off else s2).modSheaf r.uid fun h => { h with arr := some (.made b false) }
    s.scrBad r.addr 8 = false → barBad w = false → 0 < barArr w →
    exec (.deliver src dst) s = .next { s3 with mm := { s3.mm with backs := s3.mm.backs ++ [⟨r, 0, false⟩] } }) ∧
  (∀ (o : FSY) (s : State) (h : Sheaf) (b : BarHandle), Ready s h (.bar o) → h.bar = some b →
    let c := s.barCode b
    (c.2 = 0 → exec (.bar o) s = .next (c.1.done { h.ungather with bar := none })) ∧
    (c.2 = 1 → exec (.bar o) s = .next (c.1.hold h true)) ∧
    (c.2 ≠ 0 → c.2 ≠ 1 → exec (.bar o) s = .next (s.trapNow { h with bar := none } (.bar o) 7 b.trapa))) ∧
  (∀ (o : FSY) (s : State) (h : Sheaf) (b : BarHandle), Ready s h (.barw o) → h.getH o.h.toNat = .bar b →
    let c := s.barCode b
    (c.2 = 1 → exec (.barw o) s = .next (c.1.hold h true)) ∧
    (c.2 = 4 → exec (.barw o) s = .next (s.trapNow h (.barw o) 7 b.trapa)) ∧
    (c.2 ≠ 1 → c.2 ≠ 4 → exec (.barw o) s = .next (c.1.done h.ungather))) ∧
  (∀ (o : FSY) (s : State) (h : Sheaf) (b : BarHandle), Ready s h (.bart o) → h.getH o.h.toNat = .bar b →
    let c := s.barCode b
    (c.2 = 4 → exec (.bart o) s = .next (s.trapNow h (.bart o) 7 b.trapa)) ∧
    (c.2 ≠ 4 → exec (.bart o) s = .next (c.1.done (h.ungather.setS o.sa.toNat (boolWord (c.2 == 0)))))) ∧
  (∀ (s : State) (b : BarHandle), s.barCode b =
    if b.bad = true ∧ b.code ≤ 1 then (s.draw 1, bitNat (freeBit s.ctl.free)) else (s, b.code)) ∧
  (∀ p ∈ ([Instr.barw, Instr.bart] : List (FSY → Instr)), ∀ (o : FSY) (s : State) (h : Sheaf), Ready s h (p o) →
    (∀ b, h.getH o.h.toNat ≠ .bar b) → exec (p o) s = .next (s.decodeTrap h (encode (p o)) 9))

/-- 06/R175, R176, R178, R179. -/
def Obligations.TransactionBarrierForms : Prop :=
  (∀ (o : FSY) (s : State) (h : Sheaf), Ready s h (.txbi o) → txbReady s h o →
    let off := (h.getS o.sa.toNat).toNat
    let a := h.scrAbs off
    let n := (h.getS o.sb.toNat).extractLsb' 0 24
    let s0 := s.touch h 1 a 16 true
    let h0 := h.retile s0
    let s1 := s0.putOwnTxb (s.clouded h 1 a 16) a ⟨0, false, false, n, 0, n⟩ h.uid
    exec (.txbi o) s = .next ((if s0.eng.ops.any fun p => p.live && p.txbs.contains a then
        (s1.draw 16).scrWrite a (freeBytes s1.ctl.free 16) h.uid else s1).done
      { h0 with txbs := off :: h0.txbs.filter (· != off) })) ∧
  (∀ (o : FSY) (s : State) (h : Sheaf), Ready s h (.txbe o) → txbReady s h o →
    let a := h.scrAbs (h.getS o.sa.toNat).toNat
    let s0 := s.touch h 1 a 16 true
    exec (.txbe o) s = .next ((s0.putOwnTxb (s.clouded h 1 a 16) a ((s0.txb a).update false (h.getS o.sb.toNat).toInt) h.uid).done (h.retile s0))) ∧
  (∀ (o : FSY) (s : State) (h : Sheaf), Ready s h (.txba o) → txbReady s h o →
    let a := h.scrAbs (h.getS o.sa.toNat).toNat
    let s0 := s.touch h 1 a 16 true
    let h0 := h.retile s0
    (s0.released h0 o.scp = false → exec (.txba o) s = .next (s0.hold h0 false)) ∧
    (s0.released h0 o.scp = true → exec (.txba o) s = .next (if (s0.txb a).arr = 0 ∧ s.clouded h 1 a 16 = false then
        s0.decodeTrap h0 (encode (.txba o)) 0x0E
      else (s0.putOwnTxb (s.clouded h 1 a 16) a ((s0.txb a).update true (h.getS o.sb.toNat).toInt) h.uid).done h0.ungather))) ∧
  (∀ (s : State) (a uid : Nat) (t : Txb), s.putOwnTxb false a t uid = s.scrWrite a (bvLe t.bits 16) uid ∧
    s.putOwnTxb true a t uid = (s.draw 16).scrWrite a (freeBytes s.ctl.free 16) uid) ∧
  (∀ (o : FSY) (s : State) (h : Sheaf), Ready s h (.txbw o) → txbReady s h o →
    let a := h.scrAbs (h.getS o.sa.toNat).toNat
    let s0 := s.touch h 1 a 16 false
    let cl := s.clouded h 1 a 16
    let s1 := if cl then s0.draw 1 else s0
    let ph := if cl then (freeWord s0.ctl.free).extractLsb' 0 4 else (s0.txb a).ph
    exec (.txbw o) s = .next (if ph == (h.getS o.sb.toNat).extractLsb' 0 4 then s1.hold (h.retile s0) true
      else s1.done (h.retile s0).ungather)) ∧
  (∀ (o : FSY) (s : State) (h : Sheaf), Ready s h (.txbt o) → txbReady s h o →
    let a := h.scrAbs (h.getS o.sa.toNat).toNat
    let s0 := s.touch h 1 a 16 false
    let cl := s.clouded h 1 a 16
    exec (.txbt o) s = .next ((if cl then s0.draw 1 else s0).done ((h.retile s0).setS o.sb.toNat
      (if cl then freeWord s0.ctl.free else (s0.txb a).bits.extractLsb' 0 32)))) ∧
  (∀ (o : FSY) (s : State) (h : Sheaf), Ready s h (.waita o) → (h.getS o.sa.toNat).toNat % 4 = 0 →
    (h.getS o.sa.toNat).toNat + 4 ≤ h.scrBytes → (h.mq.any fun e => e.isAcquire) = false → s.ownBehind h = false →
    let a := h.scrAbs (h.getS o.sa.toNat).toNat
    s.scrBad a 4 = false →
    let s0 := s.touch h 1 a 4 false
    let cl := s.clouded h 1 a 4
    let w : Word := if cl then freeWord s0.ctl.free else BitVec.ofNat 32 (leNat (s.scrRead a 4))
    let s1 := if cl then s0.draw 1 else s0
    let x := h.getS o.sb.toNat
    exec (.waita o) s = .next (if (match o.h.toNat % 4 with
        | 0 => w == x
        | 1 => w != x
        | 2 => decide (x ≤ w)
        | _ => !w.slt x) then s1.done (h.retile s0).ungather else s1.hold (h.retile s0) true)) ∧
  (∀ (s : State) (h : Sheaf) (sp a n : Nat) (w : Bool), s.unseen h = [] → s.touch h sp a n w = s ∧ s.clouded h sp a n = false)

/-- 06/R180 to R184. -/
def Obligations.HandleForms : Prop :=
  (∀ (o : FSY) (s : State) (h : Sheaf), Ready s h (.hwait o) → h.getH o.h.toNat ≠ .empty →
    s.hPending (h.getH o.h.toNat) = false → 
    let x := h.getH o.h.toNat
    let y := s.observe h.ungather x
    exec (.hwait o) s = .next ((y.1.statusRead x).done (y.2.setStatus o.sa (s.statusOf x)))) ∧
  (∀ (o : FSY) (s : State) (h : Sheaf), Ready s h (.hwait o) → h.getH o.h.toNat ≠ .empty →
    s.hPending (h.getH o.h.toNat) = true → exec (.hwait o) s = .next (s.hold h true)) ∧
  (∀ (o : FSY) (s : State) (h : Sheaf), Ready s h (.htest o) → h.getH o.h.toNat ≠ .empty →
    let x := h.getH o.h.toNat
    let y := s.observe h x
    exec (.htest o) s = .next ((y.1.statusRead x).done (y.2.setStatus o.sa (s.statusOf x)))) ∧
  (∀ p ∈ ([Instr.hwait, Instr.htest, Instr.hcan, Instr.hexp] : List (FSY → Instr)), ∀ (o : FSY) (s : State) (h : Sheaf),
    Ready s h (p o) → h.getH o.h.toNat = .empty → exec (p o) s = .next (s.decodeTrap h (encode (p o)) 9)) ∧
  (∀ (o : FSY) (s : State) (h : Sheaf) (b : BarHandle), Ready s h (.hcan o) → h.getH o.h.toNat = .bar b → b.code = 1 →
    exec (.hcan o) s = .next (s.done (h.setH o.h.toNat (.bar { b with code := 2 })))) ∧
  (∀ (o : FSY) (s : State) (h hp : Sheaf) (id : Nat) (p : Op), Ready s h (.hcan o) →
    h.getH o.h.toNat = .op id → s.op? id = some p → p.live = true → p.stage < 2 → s.sheaf? p.sheaf = some hp →
    exec (.hcan o) s = .next ((s.cancelOp p hp).done (((s.cancelOp p hp).sheaf? h.uid).getD h))) ∧
  (∀ (o : FSY) (s : State) (h : Sheaf) (c : Ctx) (id k : Nat), Ready s h (.hexp o) →
    h.getH o.h.toNat = .op id → s.ctx? h.ctx = some c → (c.exports.filter fun e => e.op.isSome).length < 1024 →
    c.exportSlot id = some k →
    exec (.hexp o) s = .next ((s.modCtx h.ctx fun c => c.exportPut k id).done
      (h.setStatus o.sa (c.exportGen k ++ BitVec.ofNat 32 k)))) ∧
  (∀ (o : FSY) (s : State) (h : Sheaf) (c : Ctx) (e : Export) (id : Nat), Ready s h (.himp o) → s.ctx? h.ctx = some c →
    (h.getPair o.sa.toNat).extractLsb' 10 22 = 0 →
    c.exports.find? (fun e => e.slot == ((h.getPair o.sa.toNat).extractLsb' 0 10).toNat &&
      e.gen == (h.getPair o.sa.toNat).extractLsb' 32 32 && (h.getPair o.sa.toNat).extractLsb' 10 22 == 0) = some e →
    e.op = some id → exec (.himp o) s = .next ((s.done (h.setH o.h.toNat (.op id))).collect h.ctx)) ∧
  (∀ (s : State) (h : Sheaf) (id : Nat) (p : Op) (st : DWord), s.op? id = some p → p.status = some st →
    (h.uid ∈ p.seenBy → s.observe h (.op id) = (s, h)) ∧
    (h.uid ∉ p.seenBy → (s.observe h (.op id)).1 = s.modOp id (fun o => { o with seenBy := o.seenBy ++ [h.uid] }) ∧
      (s.observe h (.op id)).2 = if st.extractLsb' 0 3 = 0 then { h with fflg := h.fflg ||| p.facc, gw := max h.gw p.opgw } else h))

/-! ### Engine commands (07/R185 to R216) -/

/-- An engine command goes to its engine: ready, not behind an OFENCE, the engine with room and not fenced (06/R168, 07/R191,
10/R291). -/
def runsEngine (s : State) (h : Sheaf) (i : Instr) (k : OpKind) : Prop :=
  Ready s h i ∧ s.ofenced h = false ∧ s.accepts h k = true ∧
  ((i.grp == .mma || i.grp == .spx) && s.eng.fenced.contains h.core) = false

/-- The sheaf with its OFENCE served. -/
def served (h : Sheaf) : Sheaf := { h with ofence := none }

/-- The sheaf finds entry `e` at place `n` of its tensor table, which leaves state `t` (07/R185, R186; 04/R106). -/
def entryFound (s : State) (h : Sheaf) (n : Nat) (e : Entry) (t : State) : Prop :=
  ∃ x : BitVec 256, e = Entry.ofBits x ∧ entryBad x = false ∧
    if h.seqr then s.scrBad (h.scrAbs (0x5E000 + 32 * n)) 32 = false ∧ x = BitVec.ofNat 256 (leNat (s.scrRead (h.scrAbs (0x5E000 + 32 * n)) 32)) ∧ e.spc = 1 ∧ t = s
    else
      let va := ((s.ctx? h.ctx).map (·.tdbase)).getD 0 + 32 * n
      h.loadHeld va 32 = false ∧ ∃ bs, s.readAs h va 32 = (t, .bytes bs) ∧ x = BitVec.ofNat 256 (leNat bs)

/-- The global ranges of a command are there for it, and the page-lock table takes its pins (07/R190, 17/R378). `skip` 1 asks no
page to be present, 2 none to be permitted or owned by the device either (07/R202, R203). -/
def rangesFit (s : State) (h : Sheaf) (src dst : List Rng) (skip : Nat) : Prop :=
  let p := s.pinAll h ((src.map fun r => (r, false)) ++ dst.map fun r => (r, true))
  (skip ≠ 2 → p.2.denied = [] ∧ p.2.host = []) ∧ (skip = 0 → p.2.missing = []) ∧ p.1.canPin (dieOf h.core) p.2.pins = true

/-- The state in which a command is running: its operation last among them, with its ranges and pins; its handle, where it has
one, holds it; the unit is done (06/R180, 07/R190, R191). -/
def nowRunning (s : State) (h : Sheaf) (o : Op) (src dst : List Rng) : State :=
  let p := s.pinAll h ((src.map fun r => (r, false)) ++ dst.map fun r => (r, true))
  let o1 : Op := { o with srcR := src.flatMap (s.regionOf h), dstR := dst.flatMap (s.regionOf h), pins := p.2.pins }
  let s1 : State := { p.1 with eng := { p.1.eng with ops := p.1.eng.ops ++ [o1] } }
  let h0 : Sheaf := { h with nseq := h.nseq + 2 }
  ((s1.fresh 1).done (if o.kind == .nnz || o.kind == .mmcl then h0 else h0.setH o.hreg (.op o.id))).collect h.ctx

/-- The ranges MCAST writes: its destination tile in each member of its mask. -/
def mcastDst (q : Side × Side × Nat × Nat) (mask : DWord) : List Rng :=
  ((List.range 48).filter fun k => mask.getLsbD k).flatMap fun k => copyDst (q.1, { q.2.1 with sp := 2, mem := k }, q.2.2)

/-- 07/R185 to R191, R197 to R204, R216; that the format of a root RED's destination must be TY is the model's choice (log entry
83): entries found, fields legal, ranges there: the command is done and its operation runs, with
the parameter block and the entries as they were. -/
def Obligations.CopyCommandsStartOperations : Prop :=
  (∀ (o : FE) (s s1 s2 : State) (h : Sheaf) (a b : Entry), runsEngine s h (.bulk o) .bulk →
    let g := served h
    let blk := g.block o.sa 6
    let q := copySides (o.f.getLsbD 2) a b (par blk 1) (par blk 2)
    entryFound s g ((par blk 0).extractLsb' 0 8).toNat a s1 → entryFound s1 g ((par blk 0).extractLsb' 8 8).toNat b s2 →
    (par blk 0).extractLsb' 16 16 = 0 → a.trow = b.trow → a.tcol = b.tcol → a.lay = 0 → b.lay = 0 →
    (if o.f.getLsbD 2 then cvtfPermits a.fmt b.fmt = true else a.fmt = b.fmt) →
    (o.f.getLsbD 0 = true → g.txoChecks (b.spc != 2) (par blk 3) = []) → (o.f.getLsbD 1 = true → g.floChecks (par blk 4) = []) →
    rangesFit s2 g (copySrc q) (copyDst q) 0 →
    exec (.bulk o) s = .next (nowRunning s2 g (Op.bindTo { Op.new s2 g (.bulk o) .bulk o.h.toNat blk with
      ents := [a, b], txbs := g.ownTxb (o.f.getLsbD 0 && b.spc != 2) (par blk 3) } s2 g [a, b]) (copySrc q) (copyDst q))) ∧
  (∀ (o : FE) (s s1 s2 : State) (h : Sheaf) (a b : Entry), runsEngine s h (.mcast o) .mcast →
    let g := served h
    let blk := g.block o.sa 8
    let q := copySides false a b (par blk 1) (par blk 2)
    let mask := pairOf (par blk 6) (par blk 7)
    entryFound s g ((par blk 0).extractLsb' 0 8).toNat a s1 → entryFound s1 g ((par blk 0).extractLsb' 8 8).toNat b s2 →
    (par blk 0).extractLsb' 16 16 = 0 → mask.extractLsb' 48 16 = 0 → a.trow = b.trow → a.tcol = b.tcol → a.lay = 0 → b.lay = 0 →
    a.fmt = b.fmt → b.spc = 1 → (o.f.getLsbD 0 = true → (par blk 3).toNat % 16 = 0) →
    (o.f.getLsbD 1 = true → ((par blk 4).extractLsb' 0 19).toNat % 4 = 0 ∧ (par blk 4).extractLsb' 19 13 = 0) →
    rangesFit s2 g (copySrc q) (mcastDst q mask) 0 →
    exec (.mcast o) s = .next (nowRunning s2 g (Op.bindTo { Op.new s2 g (.mcast o) .mcast o.h.toNat blk with
      ents := [a, b], xfers := ((List.range 48).filter fun k => mask.getLsbD k).map fun k => ⟨k, none, false⟩
      status := if mask == 0 then some 0 else none } s2 g [a]) (copySrc q) (mcastDst q mask))) ∧
  (∀ (o : FE) (s : State) (h : Sheaf), runsEngine s h (.peer o) .peer →
    let g := served h
    let blk := g.block o.sa 7
    (par blk 0).toNat % 4 = 0 → (par blk 1).toNat % 4 = 0 → (par blk 2).toNat % 4 = 0 → (par blk 2).toNat ≤ 524288 →
    (o.f.getLsbD 0 = true → (par blk 4).toNat % 16 = 0) → (o.f.getLsbD 1 = true → g.floChecks (par blk 5) = []) →
    let dst := [(runSide 2 (par blk 3).toNat (par blk 1).toNat (par blk 2).toNat).rowRng 0 (par blk 2).toNat]
    rangesFit s g [⟨1, (par blk 0).toNat, (par blk 2).toNat⟩] dst 0 →
    exec (.peer o) s = .next (nowRunning s g (Op.new s g (.peer o) .peer o.h.toNat blk)
      [⟨1, (par blk 0).toNat, (par blk 2).toNat⟩] dst)) ∧
  (∀ (o : FE) (s s1 s2 : State) (h : Sheaf) (a b : Entry), runsEngine s h (.dec o) .dec →
    let g := served h
    let blk := g.block o.sa 6
    let hdr := s2.peek g a 16
    let src := [⟨a.spc, (runSide a.spc a.pmem a.base 0).at a.base, 16 + streamLen hdr⟩] ++
      (if natAt hdr 3 1 == 1 then [] else [⟨0, (pairOf (par blk 1) (par blk 2)).toNat, 160⟩])
    entryFound s g ((par blk 0).extractLsb' 0 8).toNat a s1 → entryFound s1 g ((par blk 0).extractLsb' 8 8).toNat b s2 →
    (par blk 0).extractLsb' 16 16 = 0 → a.lay = 2 → b.lay = 1 → b.spc = 1 → b.base % 32 = 0 →
    (o.f.getLsbD 0 = true → g.txoChecks true (par blk 3) = []) → (o.f.getLsbD 1 = true → g.floChecks (par blk 4) = []) →
    rangesFit s2 g src [⟨1, b.base, streamOut hdr⟩] 0 →
    exec (.dec o) s = .next (nowRunning s2 g (Op.bindTo { Op.new s2 g (.dec o) .dec o.h.toNat blk with
      ents := [a, b], txbs := g.ownTxb (o.f.getLsbD 0) (par blk 3) } s2 g [a]) src [⟨1, b.base, streamOut hdr⟩])) ∧
  (∀ (o : FE) (s : State) (h : Sheaf), runsEngine s h (.dscd o) .dscd →
    let g := served h
    let blk := g.block o.sa 4
    let va := (pairOf (par blk 0) (par blk 1)).toNat
    let len := (pairOf (par blk 2) (par blk 3)).toNat
    va % 128 = 0 → len % 128 = 0 → rangesFit s g [] [⟨0, va, len⟩] 1 →
    exec (.dscd o) s = .next (nowRunning s g (Op.new s g (.dscd o) .dscd o.h.toNat blk) [] [⟨0, va, len⟩])) ∧
  (∀ (o : FE) (s : State) (h : Sheaf), runsEngine s h (.pref o) .pref →
    let g := served h
    let blk := g.block o.sa 3
    let src := [⟨0, (pairOf (par blk 0) (par blk 1)).toNat, (par blk 2).toNat⟩]
    (par blk 2).toNat ≤ 16777216 → rangesFit s g src [] 2 →
    exec (.pref o) s = .next (nowRunning s g (Op.new s g (.pref o) .pref o.h.toNat blk) src [])) ∧
  (∀ (o : FE) (s s1 : State) (h : Sheaf) (a : Entry), runsEngine s h (.red o) .red →
    let g := served h
    let blk := g.block o.sa 5
    let k := grain a.fmt
    let src := (a.side (par blk 1) k.1 k.2 a.trow a.tcol).rngs a.trow (a.tcol * k.2)
    (par blk 0).extractLsb' 8 8 = 0xFF → entryFound s g ((par blk 0).extractLsb' 0 8).toNat a s1 →
    (par blk 0).extractLsb' 16 16 = 0 → a.lay = 0 → redTypes a.fmt (xTy g.xmod) = true → par blk 2 = 0 →
    rangesFit s1 g src [] 0 →
    exec (.red o) s = .next (nowRunning s1 g (Op.bindTo { Op.new s1 g (.red o) .red o.h.toNat blk with
      ents := [a], txbs := [], code := if s1.fab.groups.any (fun x => x.gid == par blk 3) then 0 else 5 } s1 g [a]) src [])) ∧
  (∀ (o : FE) (s s1 s2 : State) (h : Sheaf) (a b : Entry), runsEngine s h (.red o) .red →
    let g := served h
    let blk := g.block o.sa 5
    let k := grain a.fmt
    let m := grain b.fmt
    let src := (a.side (par blk 1) k.1 k.2 a.trow a.tcol).rngs a.trow (a.tcol * k.2)
    let dst := (b.side (par blk 2) m.1 m.2 b.trow b.tcol).rngs b.trow (b.tcol * m.2)
    (par blk 0).extractLsb' 8 8 ≠ 0xFF → entryFound s g ((par blk 0).extractLsb' 0 8).toNat a s1 →
    entryFound s1 g ((par blk 0).extractLsb' 8 8).toNat b s2 →
    (par blk 0).extractLsb' 16 16 = 0 → a.lay = 0 → redTypes a.fmt (xTy g.xmod) = true → b.lay = 0 → b.fmt = xTy g.xmod →
    b.trow = a.trow → b.tcol = a.tcol → (o.f.getLsbD 2 = true → g.txoChecks (b.spc != 2) (par blk 4) = []) →
    rangesFit s2 g src dst 0 →
    exec (.red o) s = .next (nowRunning s2 g (Op.bindTo { Op.new s2 g (.red o) .red o.h.toNat blk with
      ents := [a, b], txbs := g.ownTxb (o.f.getLsbD 2) (par blk 4)
      code := if s1.fab.groups.any (fun x => x.gid == par blk 3) then 0 else 5 } s2 g [a, b]) src dst)) ∧
  (∀ (o : FE) (s s1 : State) (h : Sheaf) (e : Entry), runsEngine s h (.wnx o) .wnx →
    let g := served h
    let blk := g.block o.sa 5
    let off := (par blk 1).toNat
    let q := wnxSides e (par blk 0).toNat
    let src := ⟨1, off, 256⟩ :: q.1.rngs 64 q.1.cols
    let dst := (wnxRows e (s1.scrRead (g.scrAbs off) 256) (par blk 3)).map fun r => q.2.rowRng r.2 q.2.cols
    entryFound s g ((par blk 2).extractLsb' 0 8).toNat e s1 → (par blk 2).extractLsb' 16 16 = 0 → e.lay = 0 → off % 4 = 0 →
    off + 256 ≤ g.scrBytes → (o.f.getLsbD 0 = true → g.txoChecks (e.spc != 2) (par blk 4) = []) → rangesFit s1 g src dst 0 →
    exec (.wnx o) s = .next (nowRunning s1 g (Op.bindTo { Op.new s1 g (.wnx o) .wnx o.h.toNat blk with
      ents := [e], txbs := g.ownTxb (o.f.getLsbD 0 && e.spc != 2) (par blk 4) } s1 g [e]) src dst))

/-- 07/R193, R196, R206 to R210. That MMLD and MMST refuse an offset or a stride that is no multiple of the element is the model's
choice (log entry 82). For the lane copies: slice memory, or pages whose translations are at hand. -/
def Obligations.LaneCopiesAndMatrixStart : Prop :=
  (∀ p ∈ ([(Instr.lg2s, OpKind.lg2s), (.ls2g, .ls2g)] : List ((FE → Instr) × OpKind)), ∀ (o : FE) (s : State) (h : Sheaf),
    runsEngine s h (p.1 o) p.2 →
    let ord := xOrd (h.xmem (p.1 o))
    let scp := xScp (h.xmem (p.1 o))
    let g := if ord == 0 then served h else (served h).ungather
    let n := 4 * 2 ^ (o.f.extractLsb' 0 2).toNat
    let blk := g.block o.sa 4
    let slm := xSpc (g.xmem (p.1 o)) == 3
    let ls := (g.effLanes (p.1 o)).map fun l => (l.lid, s.laneOf g (p.1 o) blk n l)
    (o.f.getLsbD 2 = true → g.txoChecks true (par blk 3) = []) → (ord.getLsbD 1 = true → s.released g scp = true) →
    (∀ l ∈ ls, l.2.2.2 = [] ∧ (slm = true ∨ ∃ t, s.engTranslate g.core g.ctx l.2.1.toNat = (s, .page t) ∧
      (if p.2 == .ls2g then t.w else t.r) = true)) →
    let cps : List LaneCopy := ls.map fun l => ⟨l.1, l.2.1.toNat, l.2.2.1, decide (g.scrBytes < l.2.2.1 + n)⟩
    let run := cps.filter fun c => !c.skip
    let gR := run.map fun c => if slm then (2, (s.slmPos g.ctx c.g n).getD 0, n) else (0, c.g, n)
    let oR := run.map fun c => (1, g.scrAbs c.o, n)
    let op : Op := { Op.new s g (p.1 o) p.2 o.h.toNat blk with
      lanes := cps, txbs := g.ownTxb (o.f.getLsbD 2) (par blk 3), trunc := cps.any (·.skip)
      code := if cps.any (·.skip) then 3 else 0, viol := ((cps.find? (·.skip)).map fun c => (8, BitVec.ofNat 64 c.o)).toList
      srcR := if p.2 == .lg2s then gR else oR
      dstR := if p.2 == .lg2s then oR else gR
      regs := [xC g.xreg, xE g.xreg]
      pins := if slm then [] else ((ls.foldl (fun (ps : List Pin) l => match (s.engTranslate g.core g.ctx l.2.1.toNat).2 with
        | .page t => (t.pinOf l.2.1.toNat).into ps
        | _ => ps) []).filter fun q => run.any fun c => c.g / 65536 == q.page) }
    s.canPin (dieOf g.core) op.pins = true →
    exec (p.1 o) s = .next (((State.fresh { s with eng := { s.eng with ops := s.eng.ops ++ [op] } } 1).done
      { (g.laneOrder ord scp).setH o.h.toNat (.op op.id) with nseq := g.nseq + 2 }).collect g.ctx)) ∧
  (∀ p ∈ ([(Instr.mma, OpKind.mma), (.mmaz, .mmaz)] : List ((FE → Instr) × OpKind)), ∀ (o : FE) (s s1 s2 : State) (h : Sheaf)
    (a b : Entry), runsEngine s h (p.1 o) p.2 →
    let g := served h
    let blk := g.block o.sa 3
    let kk := kOf a.fmt
    let src := blockRngs a (sideA a (par blk 1) kk) 64 kk ++ blockRngs b (sideB b (par blk 2) kk) kk 64
    entryFound s g ((par blk 0).extractLsb' 0 8).toNat a s1 → entryFound s1 g ((par blk 0).extractLsb' 8 8).toNat b s2 →
    (par blk 0).extractLsb' 16 16 = 0 → a.lay = 0 → b.lay = 0 → (mmaPair a.fmt b.fmt || (a.fmt == 5 && b.fmt == 5)) = true →
    g.beyondAll src = [] → s2.canSpend g (2 ^ o.ec.toNat) = true → rangesFit s2 g src [] 0 →
    exec (p.1 o) s = .next ((nowRunning s2 g (Op.bindTo { Op.new s2 g (p.1 o) p.2 o.h.toNat blk with
      ents := [a, b], tile := o.mt.toNat } s2 g [a, b]) src []).spend g (2 ^ o.ec.toNat))) ∧
  (∀ p ∈ ([(Instr.mmld, OpKind.mmld), (.mmst, .mmst)] : List ((FE → Instr) × OpKind)), ∀ (o : FE) (s : State) (h : Sheaf),
    runsEngine s h (p.1 o) p.2 →
    let g := served h
    let blk := g.block o.sa 2
    let es := fmtBits (if p.2 == .mmld then xTys g.xmod else xTy g.xmod) / 8
    let rows := tileRngs (par blk 0).toNat (par blk 1).toNat (64 * es)
    (par blk 0).toNat % es = 0 → (par blk 1).toNat % es = 0 → (par blk 0).toNat + (63 * (par blk 1).toNat + 64 * es) ≤ g.scrBytes →
    rangesFit s g (if p.2 == .mmld then rows else []) (if p.2 == .mmld then [] else rows) 0 →
    exec (p.1 o) s = .next (nowRunning s g { Op.new s g (p.1 o) p.2 o.h.toNat blk with tile := o.mt.toNat }
      (if p.2 == .mmld then rows else []) (if p.2 == .mmld then [] else rows))) ∧
  (∀ (o : FE) (s : State) (h : Sheaf), runsEngine s h (.mmcl o) .mmcl → rangesFit s (served h) [] [] 0 →
    exec (.mmcl o) s = .next (nowRunning s (served h)
      { Op.new s (served h) (.mmcl o) .mmcl 0 [] with tile := o.mt.toNat } [] [])) ∧
  (∀ (o : FE) (s : State) (h : Sheaf), runsEngine s h (.mmcv o) .mmcv →
    let g := served h
    let blk := g.block o.sa 4
    let n := fun k => (par blk k).toNat
    let dst := tileRngs (n 0) (n 1) (64 * fmtBits (xTy g.xmod) / 8) ++ (if o.f.getLsbD 0 then
      (List.range 2).map fun b => ⟨1, n 2 + b * n 3, 64⟩ else (List.range 64).map fun r => ⟨1, n 2 + r * n 3, 2⟩)
    g.beyondAll dst = [] → rangesFit s g [] dst 0 →
    exec (.mmcv o) s = .next (nowRunning s g { Op.new s g (.mmcv o) .mmcv o.h.toNat blk with tile := o.mt.toNat } [] dst)) ∧
  (∀ (o : FE) (s s1 s2 : State) (h : Sheaf) (a b : Entry), runsEngine s h (.mmsp o) .mmsp →
    let g := served h
    let blk := g.block o.sa 4
    let pat := (o.f.extractLsb' 0 2).toNat
    let kg := (o.f.extractLsb' 4 2).toNat
    let off := (par blk 2).toNat
    let aR := (sideA a (par blk 1) 64).rngs 64 64
    let vals : List Rng :=
      if pat == 1 then (b.side (par blk 3) (fmtBits b.fmt) 1 (16 * kg) 64).rngs (16 * kg) 64
      else [⟨1, off + metaBytes pat kg, min (4096 * (fmtBits b.fmt / 8)) (g.scrBytes - (off + metaBytes pat kg))⟩]
    let src := ⟨1, off, metaBytes pat kg⟩ :: (aR ++ vals)
    entryFound s g ((par blk 0).extractLsb' 0 8).toNat a s1 → entryFound s1 g ((par blk 0).extractLsb' 8 8).toNat b s2 →
    (par blk 0).extractLsb' 16 16 = 0 → (pat ≠ 1 → par blk 3 = 0) → a.lay = 0 → b.lay = (if pat == 1 then 0 else 1) →
    sparseFmt b.fmt = true → mmaPair a.fmt b.fmt = true → off % 32 = 0 → off + metaBytes pat kg ≤ g.scrBytes →
    g.beyondAll aR = [] → (pat = 1 → g.beyondAll vals = []) → s2.canSpend g (2 ^ o.ec.toNat) = true → rangesFit s2 g src [] 0 →
    exec (.mmsp o) s = .next ((nowRunning s2 g (Op.bindTo { Op.new s2 g (.mmsp o) .mmsp o.h.toNat blk with
      ents := [a, b], tile := o.mt.toNat } s2 g (if pat == 1 then [a, b] else [a])) src []).spend g (2 ^ o.ec.toNat)))

/-- 07/R211 to R215, 10/R299; the checks of a stream descriptor are the model's reading (log entry 19). -/
def Obligations.SparseCommandsStart : Prop :=
  (∀ (o : FE) (s s1 : State) (h : Sheaf) (a : Entry), runsEngine s h (.spcmp o) .spcmp →
    let g := served h
    let blk := g.block o.sa 4
    let off := (par blk 2).toNat
    let k := ((par blk 3).extractLsb' 0 8).toNat
    let n := ((par blk 3).extractLsb' 8 8).toNat
    let src := (sideA a (par blk 1) 64).rngs 64 64
    let len := if o.f.getLsbD 0 then 256 * k + 1024 * k * (fmtBits a.fmt / 8) else 512 + 4096 * k / n * (fmtBits a.fmt / 8)
    entryFound s g ((par blk 0).extractLsb' 0 8).toNat a s1 → (par blk 0).extractLsb' 16 16 = 0 →
    (par blk 3).extractLsb' 16 16 = 0 → a.spc = 1 → a.lay = 0 → sparseFmt a.fmt = true → n ∈ [2, 4, 8, 16, 32, 64] → 0 < k → k ≤ n →
    (o.f.getLsbD 0 = true → n = 4 ∧ k ≤ 3) → off % 32 = 0 → off + len ≤ g.scrBytes → g.beyondAll src = [] →
    rangesFit s1 g src [⟨1, off, len⟩] 0 →
    exec (.spcmp o) s = .next (nowRunning s1 g { Op.new s1 g (.spcmp o) .spcmp o.h.toNat blk with ents := [a] } src [⟨1, off, len⟩])) ∧
  (∀ (o : FE) (s : State) (h : Sheaf), runsEngine s h (.pcomp o) .pcomp →
    let g := served h
    let blk := g.block o.sa 2
    let off := (par blk 0).toNat
    let fmt := ((par blk 1).extractLsb' 0 5).toNat
    let op := Op.new s g (.pcomp o) .pcomp o.h.toNat blk
    (par blk 1).extractLsb' 5 27 = 0 → sparseFmt fmt = true → rangesFit s g [] [] 0 →
    (o.f.extractLsb' 0 2 ≠ 0 → exec (.pcomp o) s = .next (nowRunning s g { op with status := some 0 } [] [])) ∧
    (o.f.extractLsb' 0 2 = 0 → off % 32 = 0 → off + 512 ≤ g.scrBytes →
      let t := nowRunning s g op [] []
      exec (.pcomp o) s = .next (if (t.pattern? g off fmt).isSome then t else t.startCompile g off fmt))) ∧
  (∀ (o : FE) (s : State) (h : Sheaf), runsEngine s h (.pinv o) .pcomp →
    let g := served h
    let blk := g.block o.sa 2
    let off := (par blk 0).toNat
    (par blk 1).extractLsb' 5 27 = 0 → sparseFmt ((par blk 1).extractLsb' 0 5).toNat = true →
    (o.f.extractLsb' 0 2 ≠ 0 → exec (.pinv o) s = .next (s.done g)) ∧
    (o.f.extractLsb' 0 2 = 0 → off % 32 = 0 → off + 512 ≤ g.scrBytes →
      exec (.pinv o) s = .next ((s.dropPatterns fun p => p.core == g.core && p.ctx == g.ctx && p.alloc == g.alloc.id &&
        p.off == off && p.fmt == ((par blk 1).extractLsb' 0 5).toNat).done g))) ∧
  (∀ (o : FE) (s s1 : State) (h : Sheaf) (a : Entry), runsEngine s h (.nnz o) .nnz →
    let g := served h
    let blk := g.block o.sa 2
    let d := a.side (par blk 1) (fmtBits a.fmt) 1 a.trow a.tcol
    let hdr := s1.peek g a 16
    let src : List Rng :=
      if a.lay == 0 then d.rngs a.trow a.tcol
      else if a.lay == 1 then [⟨a.spc, d.at a.base, 512⟩]
      else [⟨a.spc, d.at a.base, if natAt hdr 3 1 == 1 then 16 + 4096 * (fmtBits (natAt hdr 2 1) / 8) else 16⟩]
    entryFound s g ((par blk 0).extractLsb' 0 8).toNat a s1 → (par blk 0).extractLsb' 16 16 = 0 → g.beyondAll src = [] →
    rangesFit s1 g src [] 0 →
    exec (.nnz o) s = .next (nowRunning s1 g
      (Op.bindTo { Op.new s1 g (.nnz o) .nnz (o.sa.toNat + 2) blk with ents := [a] } s1 g [a]) src [])) ∧
  (∀ (o : FE) (s s1 : State) (h : Sheaf) (a : Entry), runsEngine s h (.wnw o) .wnw →
    let g := served h
    let blk := g.block o.sa 6
    let desc := (par blk 5).toNat
    let w := Winnow.ofBytes (s.scrRead (g.scrAbs desc) 32)
    let src := (a.side (par blk 1) (fmtBits a.fmt) 1 a.trow a.tcol).rngs a.trow a.tcol
    entryFound s g ((par blk 0).extractLsb' 0 8).toNat a s1 → (par blk 0).extractLsb' 16 16 = 0 → a.spc = 1 → a.lay = 0 →
    a.trow ≤ 64 → a.tcol * fmtBits a.fmt = 8 * w.rb → g.winnowChecks w desc (o.f.getLsbD 2) = [] → g.beyondAll src = [] →
    rangesFit s1 g src (w.rngs desc (o.f.getLsbD 2)) 0 →
    exec (.wnw o) s = .next (nowRunning s1 g { Op.new s1 g (.wnw o) .wnw o.h.toNat blk with ents := [a], txbs := w.txbs g }
      src (w.rngs desc (o.f.getLsbD 2)))) ∧
  (∀ (o : FE) (s : State) (h : Sheaf), runsEngine s h (.wnf o) .wnf →
    let g := served h
    let blk := g.block o.sa 1
    let desc := (par blk 0).toNat
    let w := Winnow.ofBytes (s.scrRead (g.scrAbs desc) 32)
    g.winnowChecks w desc false = [] → rangesFit s g [] (w.rngs desc false) 0 →
    exec (.wnf o) s = .next (nowRunning s g { Op.new s g (.wnf o) .wnf o.h.toNat blk with txbs := w.txbs g } [] (w.rngs desc false)))

/-! ### Steps of engine operations (07/R192; 08/R243, R253; 10/R284 to R302) -/

/-- An operation runs, for a sheaf that is there, and no stop holds it. -/
def opRuns (s : State) (id : Nat) (o : Op) (h : Sheaf) : Prop :=
  s.op? id = some o ∧ o.live = true ∧ o.resting = false ∧ s.sheaf? o.sheaf = some h

/-- No write of a unit of an operation is on its way to a peer. -/
def noneSent (s : State) (id n : Nat) : Prop := (s.requests.any fun r => r.kind == .opWrite id n) = false

/-- Copies whose units are sectors of one destination, given by their shape. -/
def sectorKinds : List OpKind := [.bulk, .peer, .wnx]

/-- 08/R243, R245, R253, 07/R196, R198, R199. A sector is written with the bits of the source elements that fall into it, the
other bits as they were (`Op.sector`, `sectorBytes`). -/
def Obligations.EngineStepsMoveData : Prop :=
  (∀ (s : State) (id n : Nat) (o : Op) (h : Sheaf) (r : Rng), opRuns s id o h → o.pathOpen = false → o.failed = false →
    (o.kind.isWinnow = true → s.slotTurn o = true) → (s.needs o)[n]? = some r → o.got r = false → (s.requests.any fun c => c.kind == .opRead o.id r.key) = false →
    (r.sp = 1 → s.scrBad (h.scrAbs r.a) (min r.n (h.scrBytes - r.a)) = false → o.stale = [] →
      exec (.engineScratchAccess id (.read n)) s = .next ((s.modOp o.id fun x =>
        { x with cap := x.cap ++ [(r.key, s.scrRead (h.scrAbs r.a) (min r.n (h.scrBytes - r.a)))] }).refit o.id)) ∧
    (∀ x : Sheaf, r.sp = 2 → s.peerOf h (r.a / peerStep) = some (x, false) → min r.n (x.scrBytes - r.a % peerStep) ≠ 0 →
      exec (.engineScratchAccess id (.read n)) s = .next (s.send
        (o.request x (.opRead o.id r.key) (r.a % peerStep) (min r.n (x.scrBytes - r.a % peerStep)) 0)))) ∧
  (∀ (s : State) (id : Nat) (o : Op), s.op? id = some o → (o.kind ≠ .dec ∨ o.header = none) → s.refit id = s) ∧
  (∀ (s : State) (id : Nat) (o : Op) (h : Sheaf) (hd : List Byte), s.op? id = some o → o.kind = .dec → o.header = some hd →
    s.sheaf? o.sheaf = some h →
    s.refit id = s.modOp id fun x => { x with dstR := s.regionOf h ⟨1, (o.ent 1).base, streamOut hd⟩ }) ∧
  (∀ (s : State) (id n : Nat) (o : Op) (h : Sheaf), opRuns s id o h → o.pathOpen = false → o.kind.isWinnow = true →
    s.slotTurn o = false → exec (.engineScratchAccess id (.read n)) s = .next s) ∧
  (∀ (s : State) (id n : Nat) (o : Op) (h : Sheaf) (rs : List (Nat × List Byte)) (f : Flags), opRuns s id o h → o.failed = false →
    o.kind ∈ .lg2s :: sectorKinds → xSpc o.xmem ≠ 3 → o.done.contains n = false → (s.units o h).contains n = true →
    s.badLine o = none → s.unitTarget o h n = .own → s.unitRuns o h n .own = some (rs, f) → noneSent s id n →
    exec (.engineScratchAccess id (.write n)) s = .next ((s.putRuns o n .own rs none).unitDone id n f rs.isEmpty)) ∧
  (∀ (s s1 : State) (id n : Nat) (o : Op) (h : Sheaf) (rs : List (Nat × List Byte)) (f : Flags) (x : Home), opRuns s id o h →
    o.failed = false → o.susp = false → o.kind ∈ sectorKinds → o.done.contains n = false → (s.units o h).contains n = true →
    s.badLine o = none → s.unitTarget o h n = .home → s.lineHeld o.ctx (32 * n) = false →
    s.homeOf o.ctx (32 * n) .write = (s1, .ok x) → s1.unitRuns o h n .home = some (rs, f) → s1.op? id = some o → noneSent s1 id n →
    exec (.homeWritePerform (.unit id n)) s = .next ((s1.putRuns o n .home rs none).unitDone id n f rs.isEmpty)) ∧
  (∀ (s : State) (n : Nat) (o : Op) (h : Sheaf) (q : Shape) (v m : Nat) (f : Flags), o.kind ∈ sectorKinds → n < 2 ^ 60 →
    o.shape = some q → o.sector q (s.limOf h q.src) n = some (v, m, f) →
    (q.dst.sp = 1 → let a := h.scrAbs (32 * n)
      s.unitTarget o h n = .own ∧
      s.unitRuns o h n .own = some (runsOf ((sectorBytes v m (s.scrRead a 32)).map fun p => (a + p.1, p.2)), f)) ∧
    (q.dst.sp = 0 → s.unitTarget o h n = .home ∧ ∀ (s1 : State) (x : Home), s.homeOf o.ctx (32 * n) .any = (s1, .ok x) →
      s.unitRuns o h n .home =
        some (runsOf ((sectorBytes v m (lineBytes x.data (32 * n % 128) 32)).map fun p => (32 * n + p.1, p.2)), f))) ∧
  (∀ (s : State) (n : Nat) (o : Op) (h : Sheaf) (c : LaneCopy) (bs : List Byte), o.kind = .lg2s → o.lanes[n]? = some c →
    xSpc o.xmem ≠ 3 → o.bytes ⟨0, c.g, o.laneBytes⟩ = some bs →
    s.unitTarget o h n = .own ∧ s.unitRuns o h n .own = some (runsAt (h.scrAbs c.o) bs, 0)) ∧
  (∀ (s : State) (o : Op) (n : Nat) (x : Sheaf) (a : Nat) (bs : List Byte), s.putRun o n .own (a, bs) = s.plainWrite a bs o.sheaf ∧
    s.putRun o n .home (a, bs) = s.opWrite o a bs ∧ s.putRun o n (.peer x) (a, bs) =
      s.send (o.request x (.opWrite o.id n) (a - x.scrAbs 0) bs.length (BitVec.ofNat 128 (leNat bs)))) ∧
  (∀ (a : Nat) (bs : List Byte), (runsAt a bs).flatMap (fun r => r.2.zipIdx.map fun p => (r.1 + p.2, p.1)) =
      bs.zipIdx.map (fun p => (a + p.2, p.1)) ∧
    ∀ r ∈ runsAt a bs, r.2 ≠ [] ∧ r.1 / 8 = (r.1 + r.2.length - 1) / 8) ∧
  (∀ (s s1 : State) (id line : Nat) (o : Op) (h : Sheaf) (x : Home), opRuns s id o h → s.wantsLine o line = true → o.susp = false →
    s.lineHeld o.ctx (line * 128) = false → s.homeOf o.ctx (line * 128) .read = (s1, .ok x) → x.bad = 0 →
    s1.inFlight (s1.l1Of o.core) x.asid line = false → s1.inStacks o.ctx (line * 128) 128 = false →
    exec (.fill (.op id line)) s = .next
      (((s1.grant x).1.modOp id fun y => { y with lines := y.lines ++ [(line, x.data, x.bad)] }).refit id)) ∧
  (∀ (s s1 : State) (id line : Nat) (o : Op) (h : Sheaf), opRuns s id o h → s.wantsLine o line = true → o.susp = false →
    s.lineHeld o.ctx (line * 128) = false →
    (s.homeOf o.ctx (line * 128) .read = (s1, .denied) →
      exec (.fill (.op id line)) s = .next (s1.failOp id 5 6 (BitVec.ofNat 64 (line * 128)))) ∧
    (s.homeOf o.ctx (line * 128) .read = (s1, .absent) →
      exec (.fill (.op id line)) s = .next ((s1.modOp o.id fun x => { x with susp := true, fva := line * 128 }).askPage
        ⟨.core o.core, o.ctx, line * 128 / 65536⟩))) ∧
  (∀ (s : State) (id k : Nat) (o : Op) (h t : Sheaf) (z : Xfer) (m : Member), opRuns s id o h →
    (o.xfers.find? fun x => x.idx == k && x.tgt.isNone && !x.supp) = some z →
    (s.member? h k = none → exec (.mcastTransferStart id k) s = .next (s.modOp id fun y =>
      { y with xfers := y.xfers.map fun z => if z.idx == k then { z with supp := true } else z })) ∧
    (s.member? h k = some (m, t) → exec (.mcastTransferStart id k) s = .next (if m.hld then s else s.modOp id fun y =>
      { y with xfers := y.xfers.map fun z => if z.idx == k then { z with tgt := some t.uid } else z })))

/-- 07/R192, R194; 08/R253, R254. The first clause is a copy into own scratch without an error; the second an operation of the matrix
engine or the winnow unit. -/
def Obligations.OperationsCompleteInOrder : Prop :=
  (∀ (s : State) (id : Nat) (o : Op) (h : Sheaf) (q : Shape), opRuns s id o h → o.kind = .bulk → o.shape = some q → q.dst.sp = 1 →
    o.code = 0 → o.susp = false → o.xfers = [] → s.badLine o = none → s.finished o h = true →
    let s0 := s.modOp id fun x => { x with xfers := [] }
    s0.truncation o h = none → (o.fl = true → (par o.blk 4).getLsbD 25 = false) →
    (o.stage = 0 → o.tx = true → exec (.complete id) s = .next
      (((s0.countTxb o h (par o.blk 3).toNat o.uncounted.length false false).modOp id fun x =>
        { x with counted := x.counted ++ x.done.filter fun n => !x.counted.contains n }).modOp id fun x => { x with stage := 1 })) ∧
    ((o.stage = 0 → o.tx = false) → o.stage < 2 → o.fl = true →
      exec (.complete id) s = .next (if s0.flagReady o h then
        (s0.plainWrite (h.scrAbs ((par o.blk 4).extractLsb' 0 19).toNat) (bvLe (par o.blk 5) 4) o.sheaf).modOp id fun x => { x with stage := 2 }
        else s0.sendBatches o.sheaf)) ∧
    ((o.stage = 0 → o.tx = false) → (o.stage < 2 → o.fl = false) → exec (.complete id) s = .next (s0.endOp o h 0 0 []))) ∧
  (∀ (s : State) (o : Op) (x : Sheaf) (off n : Nat), x.resident = true → off + 16 ≤ x.scrBytes →
    (n ≠ 0 → s.scrBad (x.scrAbs off) 16 = false → s.countTxb o x off n false false =
      s.scrWrite (x.scrAbs off) (bvLe ((s.txb (x.scrAbs off)).update false (-(n : Int))).bits 16) o.sheaf) ∧
    (s.scrBad (x.scrAbs off) 16 = true →
      s.countTxb o x off n false false = s.failOp o.id 7 0x12 (BitVec.ofNat 64 off))) ∧
  (∀ (s : State) (id va : Nat) (o : Op) (h : Sheaf), opRuns s id o h → o.kind ≠ .red → o.failed = false → s.badLine o = some va →
    exec (.complete id) s = .next (s.failOp id 7 0x12 (BitVec.ofNat 64 va))) ∧
  (∀ (s : State) (id : Nat) (o : Op) (h : Sheaf), opRuns s id o h →
    o.kind ∈ ([.mma, .mmaz, .mmld, .mmst, .mmcv, .mmsp, .spcmp, .wnw, .wnf] : List OpKind) → o.code = 0 →
    o.taint = false → o.susp = false → s.badLine o = none → o.xfers = [] → s.finished o h = true →
    exec (.complete id) s = .next ((s.modOp id fun x => { x with xfers := [] }).endOp o h 0 0 [])) ∧
  (∀ (s : State) (o : Op) (h : Sheaf), o.kind ≠ .nnz → o.taint = false → s.op? o.id = some o →
    ((s.endOp o h 0 0 []).op? o.id).map (·.status) = some (some 0) ∧ (s.endOp o h 0 0 []).mm.scr = s.mm.scr ∧
    (s.endOp o h 0 0 []).mm.pool = s.mm.pool ∧ (s.endOp o h 0 0 []).sheaves = s.sheaves) ∧
  (∀ (s : State) (id : Nat) (o : Op) (h : Sheaf), opRuns s id o h → o.kind ≠ .red → o.failed = false → s.badLine o = none →
    s.finished o h = false →
    exec (.complete id) s = .next s)

/-- 10/R285, R290, R293, R298, R299; 03/R46, R63. -/
def Obligations.MatrixRowsAndPower : Prop :=
  (∀ (s : State) (id : Nat) (o : Op) (h : Sheaf), opRuns s id o h → o.kind ∈ ([.mma, .mmaz, .mmld, .mmcl] : List OpKind) →
    o.failed = false → o.susp = false → o.rp < 64 → s.tileTurn o = true → s.fed o = true →
    (o.kind = .mma → h.rowBad o.tile o.rp = false) →
    let s0 := if o.kind == .mmcl || o.kind == .mmld then s else s.worked o.ctx (dieOf o.core)
    exec (.rowCommit id) s = .next ((s0.putSheaf (h.commit o.tile o.rp (o.result h).1)).modOp o.id fun x => { x with
      rp := o.rp + 1, idle := 0, facc := x.facc ||| (o.result h).2
      status := if o.kind == .mmcl && o.rp == 63 then some 0 else x.status })) ∧
  (∀ (h : Sheaf) (n r : Nat) (w : List Word), n < h.tiles.length → r < (h.tile n).rows.length →
    ((h.commit n r w).tile n).row r = w ∧ (h.commit n r w).rowBad n r = false ∧
    (∀ m k, m ≠ n ∨ k ≠ r → ((h.commit n r w).tile m).row k = (h.tile m).row k)) ∧
  (∀ (rm : Nat) (fz : Bool) (c : List Word) (a : Nat → MatEl) (b : Nat → Nat → MatEl) (n : Nat), n < 64 →
    (mmaRow 0xC 0xC 64 rm fz c a b).1[n]? = some ((List.range 64).foldl (fun (x : Word) (k : Nat) => match a k, b k n with
      | some p, some q => x + (BitVec.ofNat 8 p.1).signExtend 32 * (BitVec.ofNat 8 q.1).signExtend 32
      | _, _ => x) (c.getD n 0)) ∧ (mmaRow 0xC 0xC 64 rm fz c a b).2 = 0) ∧
  (∀ (s : State) (id n : Nat) (o : Op) (h : Sheaf), opRuns s id o h → o.pathOpen = true →
    let off := (par o.blk 2).toNat
    let fmt := (o.ents.getD 1 (Entry.ofBits 0)).fmt
    let s1 := match s.pattern? h off fmt with
      | some p => State.fresh { s with eng := { s.eng with pats := s.eng.pats.map fun (x : Pattern) => if x.id == p.id then { x with used := s.ctl.nextId } else x } } 1
      | none => s.startCompile h off fmt
    exec (.engineScratchAccess id (.read n)) s = .next (s1.modOp id fun x =>
      { x with comp := some (o.insn.getLsbD 3 && s1.compiling h off fmt) })) ∧
  (∀ (s : State) (core : Nat) (o : Op) (l : List Op), ((s.matrixRunning core).filter fun o => stallTime ≤ o.idle) = o :: l → o.stalls = 0 →
    exec (.mmStallReset core) s = .next (State.coreEvent { s with eng := { s.eng with ops := s.eng.ops.map fun p =>
      if p.live && !p.resting && p.core == core && p.kind.writesTile then
        { p.replayed with stalls := if p.id == o.id then p.stalls + 1 else p.stalls } else p } }
      3 core none)) ∧
  (∀ (s : State) (core : Nat), (∀ o ∈ s.matrixRunning core, o.idle < stallTime) → exec (.mmStallReset core) s = .next s) ∧
  (∀ (s : State) (core entry : Nat) (p : Pattern) (h : Sheaf),
    (s.eng.pats.find? fun p => p.id == entry && p.core == core && p.state == .compiling) = some p →
    (s.sheaves.find? fun h => h.alloc.id == p.alloc && h.core == p.core) = some h →
    (s.scrBad (h.scrAbs p.off) 512 = true → exec (.patternCompileDone core entry) s = .next (s.compileFails h p)) ∧
    let bits := bitmapBits (s.scrRead (h.scrAbs p.off) 512)
    let dense := decide (1024 < microOps bits) || decide (p.dthr < bits.length)
    (s.scrBad (h.scrAbs p.off) 512 = false → exec (.patternCompileDone core entry) s = .next (({ s with eng := { s.eng with
      pats := s.eng.pats.map fun x => if x.id == p.id then { x with
        state := if dense then .dense else .compiled
        uops := if dense then 0 else microOps bits
        bits := bits } else x } } : State).worked p.ctx (dieOf core)))) ∧
  (∀ (s : State) (die : Nat), s.ctl.time % 1000 ≠ 0 → exec (.energyWindow die) s = .next s) ∧
  (∀ (s : State) (die : Nat), s.ctl.time % 1000 = 0 → ∃ t, exec (.energyWindow die) s = .next t ∧
    t = { s with ctxs := t.ctxs } ∧ t.ctxs.length = s.ctxs.length ∧ ∀ (k : Nat) (c d : Ctx), s.ctxs[k]? = some c → t.ctxs[k]? = some d →
      ∀ e, c.energy[die]? = some e → e.win < s.ctl.time / 1000 →
        let used := if e.work then Config.measuredEnergy c.id die (s.ctl.time / 1000 - 1) else 0
        let short := used - e.debits
        d.energy[die]? = some { e with
          bud := min (e.bud + e.rate - short) (4 * e.rate)
          short := short
          debits := 0
          win := s.ctl.time / 1000
          work := false
          last := used })

/-- 07/R218 to R220, 09/R269. The two orders of checks stand in `joinCode`'s conditions, written out here. -/
def Obligations.StookMembership : Prop :=
  (∀ (o : FS3) (s : State) (h : Sheaf), Ready s h (.sjoin o) → s.released h 2 = true →
    let name := h.getS o.sa.toNat
    let want := (h.getS o.sb.toNat).toNat
    let k := s.stookNamed h.ctx (clusterOf h.core) name
    let ms := (k.map (·.members)).getD []
    let full := k.isNone && decide (256 ≤ (s.stk.stooks.filter fun x => x.cluster == clusterOf h.core).length)
    let idx := if want == 64 then freeIndex ms else want
    exec (.sjoin o) s = .next (
      if h.stook.isSome then s.done (h.setS o.sd.toNat 0x80000004)
      else if name.getLsbD 31 then s.done (h.setS o.sd.toNat 0x80000005)
      else if 64 < want then s.done (h.setS o.sd.toNat 0x80000006)
      else if full then s.done (h.setS o.sd.toNat 0x80000003)
      else if ms.length == 64 then s.done (h.setS o.sd.toNat 0x80000002)
      else if ms.any (fun m => m.idx == want) then s.done (h.setS o.sd.toNat 0x80000001)
      else if s.strayRequests then s.hold h false
      else (s.joinAs h name idx).done ((((s.joinAs h name idx).sheaf? h.uid).getD h).setS o.sd.toNat (BitVec.ofNat 32 idx)))) ∧
  (∀ (s : State) (h : Sheaf) (name : Word) (idx : Nat) (k : Stook), s.stookNamed h.ctx (clusterOf h.core) name = some k →
    s.sheaf? h.uid = some h →
    ((s.joinAs h name idx).sheaf? h.uid).map (·.stook) = some (some (k.id, idx)) ∧
    (s.joinAs h name idx).stk.stooks = s.stk.stooks.map fun x =>
      if x.id == k.id then { x with members := x.members ++ [⟨idx, h.uid, false⟩] } else x) ∧
  (∀ (s : State) (h : Sheaf) (name : Word) (idx : Nat), s.stookNamed h.ctx (clusterOf h.core) name = none →
    s.sheaf? h.uid = some h →
    ((s.joinAs h name idx).sheaf? h.uid).map (·.stook) = some (some (s.ctl.nextId, idx)) ∧
    (s.joinAs h name idx).stk.stooks = s.stk.stooks ++
      [⟨s.ctl.nextId, name, h.ctx, clusterOf h.core, false, 0, [⟨idx, h.uid, false⟩]⟩]) ∧
  (∀ (o : FS3) (s : State) (h : Sheaf), Ready s h (.sleave o) → s.released h 2 = true →
    (s.stookOf h = none → exec (.sleave o) s = .next (s.done (h.setS o.sd.toNat 0x80000007))) ∧
    (∀ k, s.stookOf h = some k → exec (.sleave o) s = .next (if k.launched then s.done (h.setS o.sd.toNat 0x80000008)
      else (s.leaveStook h.uid).done ((((s.leaveStook h.uid).sheaf? h.uid).getD h).setS o.sd.toNat 0)))) ∧
  (∀ p ∈ ([Instr.sjoin, Instr.sleave] : List (FS3 → Instr)), ∀ (o : FS3) (s : State) (h : Sheaf), Ready s h (p o) →
    s.released h 2 = false → exec (p o) s = .next (s.hold h false)) ∧
  (∀ (s : State) (uid : Nat), (∀ p ∈ (s.leaveStook uid).stk.subs, p ∈ s.stk.subs ∧ p.subr ≠ uid ∧ p.pubr ≠ uid) ∧
    (∀ k ∈ (s.leaveStook uid).stk.stooks, k.members ≠ [] ∧ ∀ m ∈ k.members, m.uid ≠ uid) ∧
    (∀ h ∈ (s.leaveStook uid).sheaves, h.uid = uid → h.stook = none ∧ ∀ b, Handle.bar b ∈ h.h → b.code ≠ 1 ∨ b.passed ≠ 0) ∧
    (∀ h ∈ (s.leaveStook uid).sheaves, ∀ b, Handle.bar b ∈ h.h → b.holder = uid → b.code ≠ 1 ∨ b.passed ≠ 0) ∧
    (s.leaveStook uid).mm = s.mm) ∧
  (∀ (o : FS3) (s : State) (h : Sheaf), Ready s h (.sinfo o) → s.stookOf h = none →
    exec (.sinfo o) s = .next (s.done (h.setS o.sd.toNat (if o.cf.toNat = 0 then 0 else 0xFFFFFFFF)))) ∧
  (∀ (o : FS3) (s : State) (h : Sheaf) (k : Stook) (sid own : Nat), Ready s h (.sinfo o) → s.stookOf h = some k →
    h.stook = some (sid, own) →
    exec (.sinfo o) s = .next (s.done (h.setS o.sd.toNat (match o.cf.toNat with
      | 0 => BitVec.ofNat 32 k.members.length
      | 1 => BitVec.ofNat 32 own
      | 2 => k.name
      | 3 => k.mask.extractLsb' 0 32
      | 4 => k.mask.extractLsb' 32 32
      | _ => match s.member? h (h.getS o.sa.toNat).toNat with
        | some m => BitVec.ofNat 32 (latencyClass (h.core % 48) (m.2.core % 48))
        | none => 0xFFFFFFFF)))) ∧
  (∀ (k : Stook) (n : Nat), (∀ m ∈ k.members, m.idx < 64) → n < 64 →
    k.mask.getLsbD n = k.members.any fun m => m.idx == n)

/-- 07/R221, R222; 08/R252; 09/R279, R282. The order of the checks of R221 is written out. -/
def Obligations.SubscriptionsForward : Prop :=
  (∀ (o : FS3) (s : State) (h : Sheaf), Ready s h (.ssub o) →
    let soff := (h.getS o.sa.toNat).toNat
    let len := (h.getS (o.sa.toNat + 1)).toNat
    let mem := (h.getS o.sb.toNat).toNat
    let poff := (h.getS (o.sb.toNat + 1)).toNat
    let trap := fun (c : Nat) (a : DWord) => s.trapNow h (.ssub o) c a
    let bad := len = 0 ∨ 65536 < len ∨ len % 32 ≠ 0 ∨ soff % 32 ≠ 0 ∨ poff % 32 ≠ 0
    (bad → exec (.ssub o) s = .next (trap 0xF 1)) ∧
    (¬ bad → s.member? h mem = none → exec (.ssub o) s = .next (trap 7 (peerAddr mem poff))) ∧
    (∀ m x, ¬ bad → s.member? h mem = some (m, x) →
      let id := ((List.range 16).find? fun k => !(s.subsOf h.uid).any fun p => p.id == k).getD 0
      exec (.ssub o) s = .next (
        if x.uid == h.uid then trap 0xF 5
        else if h.scrBytes < soff + len || x.scrBytes < poff + len then trap 0xF 2
        else if (s.subsOf h.uid).any (fun p => meets soff len p.soff (32 * p.len)) then trap 0xF 6
        else if 16 ≤ s.subEntries h.core then trap 0xF 3
        else if 16 ≤ s.pubEntries x.core then trap 0xF 4
        else (State.fresh { s with stk := { s.stk with subs := s.stk.subs ++
          [⟨s.ctl.nextId, id, h.uid, x.uid, soff, poff, len / 32, .resync, List.range (len / 32), []⟩] } } 1).done
            (h.setS o.sd.toNat (BitVec.ofNat 32 id))))) ∧
  (∀ (o : FS3) (s : State) (h : Sheaf), Ready s h (.sunsub o) →
    let id := (h.getS o.sa.toNat).toNat
    exec (.sunsub o) s = .next (if (s.subsOf h.uid).any (fun p => p.id == id) then
        State.done { s with stk := { s.stk with subs := s.stk.subs.filter fun p => !(p.subr == h.uid && p.id == id) } } h
      else s.trapNow h (.sunsub o) 0xF 7)) ∧
  (∀ (o : FS3) (s : State) (h : Sheaf), Ready s h (.ssync o) →
    let all := h.getS o.sa.toNat = 0xFFFFFFFF
    let mine := fun (p : Sub) => p.subr = h.uid ∧ (all ∨ p.id = (h.getS o.sa.toNat).toNat)
    (¬ all → (∀ p ∈ s.stk.subs, ¬ mine p) → exec (.ssync o) s = .next (s.trapNow h (.ssync o) 0xF 7)) ∧
    ((all ∨ ∃ p ∈ s.stk.subs, mine p) → (∀ p ∈ s.stk.subs, mine p → p.state = .live) → exec (.ssync o) s = .next (s.done h)) ∧
    ((∃ p ∈ s.stk.subs, mine p ∧ p.state ≠ .live) → exec (.ssync o) s = .next (s.hold h true))) ∧
  (∀ (s : State) (sub batch : Nat), exec (.batchSend sub batch) s = .next (s.modSub sub fun p =>
    { p with batches := p.batches.map fun b => if b.id == batch then { b with sent := true } else b })) ∧
  (∀ (s : State) (sub batch : Nat) (p : Sub) (b : Batch) (x : Sheaf), s.sub? sub = some p →
    (p.batches.find? fun b => b.id == batch) = some b → s.sheaf? p.subr = some x →
    exec (.forward sub batch) s = .next (
      if b.sent && s.flows p && !b.behind (p.batches.takeWhile fun e => e.id != batch) then
        (s.modSub sub fun q => { q with batches := q.batches.filter fun e => e.id != batch }).applyBytes (x.scrAbs 0) b.bytes
      else s)) ∧
  (∀ (s : State) (sub k : Nat) (p : Sub) (x y : Sheaf), s.sub? sub = some p → s.sheaf? p.pubr = some y → s.sheaf? p.subr = some x →
    p.state = .resync → p.dirty.contains k = true → s.flows p = true →
    let rest := p.dirty.filter fun j => j != k
    exec (.subscriptionResyncFetch sub k) s = .next ((s.modSub sub fun q => { q with
      dirty := rest
      state := if rest.isEmpty then .live else .resync
      batches := q.batches.map fun b => { b with bytes := b.bytes.filter fun c =>
        !(decide (p.soff + 32 * k ≤ c.1) && decide (c.1 < p.soff + 32 * k + 32)) } }).scrWrite
      (x.scrAbs (p.soff + 32 * k)) (s.scrRead (y.scrAbs (p.poff + 32 * k)) 32) 0))

/-! ### Nests, tasks, CSRs and mailboxes (07/R223 to R236) -/

/-- An iteration set by the table of R224: KIND, STR, CF and E of a level, and the lane and sheaf indices. -/
def iterationSet (kind str cf e lid shid : Nat) : List Nat :=
  match kind with
  | 1 => ((List.range cf).map fun t => lid / str % ((e + cf - 1) / cf) * cf + t).filter fun k => k < e
  | 2 => [shid / str % e]
  | _ => List.range e

/-- 07/R224, R225. The set of a lane is the run of RC numbers from IX. KIND 3 is reserved (14/R330). -/
def Obligations.NestStepsOfALane : Prop :=
  (∀ (h : Sheaf) (lv lid : Nat), mapKind (h.map lv) < 3 → 0 < h.ext lv →
    List.range' (h.iters lv lid).1 (h.iters lv lid).2 =
      iterationSet (mapKind (h.map lv)) (if (h.map lv).extractLsb' 4 10 = 0 then 1024 else ((h.map lv).extractLsb' 4 10).toNat)
        (max 1 ((h.map lv).extractLsb' 14 10).toNat) (h.ext lv) lid h.shid.toNat) ∧
  (∀ (h : Sheaf) (lv lid : Nat), h.ext lv = 0 → (h.iters lv lid).2 = 0) ∧
  (∀ (o : FVI) (s : State) (h : Sheaf), Ready s h (.nbeg o) → 
    let lv := (o.imm.extractLsb' 0 2).toNat
    let h1 := h.sweep (.nbeg o) fun l =>
      let it := h.iters lv l.lid
      ((l.setNest lv ⟨BitVec.ofNat 32 it.1, BitVec.ofNat 32 it.2⟩).setK o.d.toNat (it.2 != 0), 0)
    exec (.nbeg o) s = .next ((s.beginIters h h1 (.nbeg o) lv).done h1)) ∧
  (∀ (o : FVI) (s : State) (h : Sheaf), Ready s h (.nxt o) → 
    let lv := (o.imm.extractLsb' 0 2).toNat
    let h1 := h.sweep (.nxt o) fun l =>
      let n := l.nestAt lv
      (if n.rc ≤ 1 then (l.setNest lv ⟨n.ix, 0⟩).setK o.d.toNat false
        else (l.setNest lv ⟨n.ix + 1, n.rc - 1⟩).setK o.d.toNat true, 0)
    exec (.nxt o) s = .next ((s.beginIters h h1 (.nxt o) lv).done h1)) ∧
  (∀ (s : State) (h h1 : Sheaf) (i : Instr) (lv : Nat), h1.llmTab[lv]? = none → s.beginIters h h1 i lv = s) ∧
  (∀ (s : State) (h h1 : Sheaf) (i : Instr) (lv : Nat), ∃ m k, s.beginIters h h1 i lv = { s with
    mm := { s.mm with scr := m }, ctl := { s.ctl with free := k }, sheaves := (s.beginIters h h1 i lv).sheaves } ∧
    (s.beginIters h h1 i lv).sheaves.map (fun x => { x with saved := [] }) = s.sheaves.map fun x => { x with saved := [] }) ∧
  (∀ (o : FVI) (s : State) (h : Sheaf), Ready s h (.nidx o) → exec (.nidx o) s = .next (s.done (h.sweep (.nidx o) fun l =>
    let n := l.nestAt (o.imm.extractLsb' 0 2).toNat
    (l.setV o.d.toNat (if n.rc = 0 then 0xFFFFFFFF else n.ix), 0))))

/-- 07/R226 to R230, 14/R333. -/
def Obligations.NestAgentsMeet : Prop :=
  (∀ (o : FVI) (s : State) (h : Sheaf), Ready s h (.nbar o) → h.manyAgents (o.imm.extractLsb' 0 2).toNat = [] →
    exec (.nbar o) s = .next (s.done h)) ∧
  (∀ (o : FVI) (s : State) (h : Sheaf), Ready s h (.nbar o) →
    let lv := (o.imm.extractLsb' 0 2).toNat
    let as := h.manyAgents lv
    let s1 := s.nbarArrive h lv as
    as ≠ [] → s.nestReleased h lv = true →
    exec (.nbar o) s = .next (if h.lvFlag lv 6 = false ∧ freeBit s.ctl.free = true then (s.draw 1).done h
      else if as.all fun a => (s1.nest h.launch lv a.2).through (agentId h.uid a.1.lid) then
        (as.foldl (fun (t : State) a => t.putNest { t.nest h.launch lv a.2 with
          arr := (t.nest h.launch lv a.2).arr.filter fun x => x.1 != agentId h.uid a.1.lid }) s1).done h
      else s1.nestWait h as)) ∧
  (∀ (s : State) (h : Sheaf) (lv : Nat), h.sheavesOf lv = 1 → s.nestReleased h lv = true) ∧
  (∀ (n : NestSync) (agent count : Nat), (n.arr.any fun a => a.1 == agent) = false →
    (n.arrive agent count).arr = n.arr ++ [(agent, n.phase)] ∧
    (n.arrive agent count).phase = (if (n.arr.filter fun a => a.2 == n.phase).length + 1 = count then n.phase + 1 else n.phase)) ∧
  (∀ (o : FVI) (s : State) (h : Sheaf), Ready s h (.nred o) → o.get = false →
    let lv := (o.imm.extractLsb' 0 2).toNat
    exec (.nred o) s = .next (((h.effLanes (.nred o)).foldl (fun (t : State) (l : Lane) => match l.key lv with
      | some k => t.putNest { t.nest h.launch lv k with
          acc := (t.nest h.launch lv k).acc.contribute (xTy h.xmod) (redOp o) (redBits (xTy h.xmod) l o.a.toNat) }
      | none => t) s).done h)) ∧
  (∀ (o : FVI) (s : State) (h : Sheaf), Ready s h (.nred o) → o.get = true →
    let lv := (o.imm.extractLsb' 0 2).toNat
    let as := h.pathAgents lv
    (h.manyAgents lv = [] ∨ s.nestReleased h lv = true) →
    let s1 := as.foldl (fun (t : State) a =>
      t.putNest ((t.nest h.launch lv a.2).get (agentId h.uid a.1.lid) (h.agents lv a.2))) s
    exec (.nred o) s = .next (if as.all fun a => (s1.nest h.launch lv a.2).closed (agentId h.uid a.1.lid) then
        let r := as.foldl (fun (q : State × Sheaf) a => q.1.redLane q.2 lv o.d.toNat (xTy h.xmod) (redOp o) (xRm h.xmod) a.1 a.2) (s1, h)
        r.1.done r.2
      else s1.nestWait h as)) ∧
  (∀ (x : NestAcc) (ty op rm : Nat), x.n = 0 → x.result ty op rm = some (emptyRed ty op, 0)) ∧
  (∀ (o : FVI) (s : State) (h : Sheaf), Ready s h (.nbc o) →
    let lv := (o.imm.extractLsb' 0 2).toNat
    let as := (h.pathAgents lv).filter fun a => (a.1.nestAt (lv + 1)).rc != 0
    let many := as.filter fun a => h.agents lv a.2 != 1
    let num := fun (t : State) (a : Lane × List Nat) =>
      (t.nest h.launch lv a.2).bcount (agentId h.uid a.1.lid) (a.1.nestAt (lv + 1)).ix.toNat
    (many = [] ∨ s.nestReleased h lv = true) →
    let s1 := as.foldl (fun (t : State) a => if (a.1.nestAt (lv + 1)).ix == 0 then
      t.putNest ((t.nest h.launch lv a.2).supply (num t a) a.1.lid (a.1.getV o.a.toNat)) else t) s
    exec (.nbc o) s = .next (if many.all fun a =>
        ((s1.nest h.launch lv a.2).bval (num s1 a) (h.zeroLid (lv + 1) a.1.lid)).isSome then
        let r := as.foldl (fun (q : State × Sheaf) a => q.1.bcLane q.2 lv o.d.toNat a.1 a.2) (s1, h)
        r.1.done r.2
      else s1.nestWait h many)) ∧
  (∀ (o : FVI) (s : State) (h : Sheaf), Ready s h (.nmap o) →
    let lv := (o.imm.extractLsb' 0 2).toNat
    exec (.nmap o) s = .next (s.done (h.setPair o.d.toNat (h.extl.getD lv 0 ++ h.mapl.getD lv 0)))) ∧
  (∀ (o : FVI) (s : State) (h : Sheaf), Ready s h (.nllm o) →
    let lv := (o.imm.extractLsb' 0 2).toNat
    let off := fun (l : Lane) => match h.llmTab[lv]? with
      | some (base, n) => if n = 0 ∨ (l.nestAt lv).rc = 0 then none else some (base + l.lid / h.inner lv * n)
      | none => none
    exec (.nllm o) s = .next (s.done ((h.sweep (.nllm o) fun l =>
      (l.setV o.d.toNat (((off l).map (BitVec.ofNat 32)).getD 0xFFFFFFFF), 0)).setS o.a.toNat
      (if (h.effLanes (.nllm o)).any (fun l => (off l).isSome) then
        BitVec.ofNat 32 (if h.sheavesOf lv = 1 then (h.stook.map (·.2)).getD 0 else 0) else 0xFFFFFFFF))))

/-- 07/R231 to R233. -/
def Obligations.TaskForms : Prop :=
  (∀ (o : FV3) (s : State) (h : Sheaf), Ready s h (.spawn o) → s.spawnOk h (h.getPair o.b.toNat) = false →
    exec (.spawn o) s = .next (s.decodeTrap h (encode (.spawn o)) 0x0B)) ∧
  (∀ (o : FV3) (s : State) (h : Sheaf), Ready s h (.spawn o) → s.spawnOk h (h.getPair o.b.toNat) = true →
    s.queued (clusterOf h.core) + (h.effLanes (.spawn o)).length ≤ 16384 → s.released h 3 = true →
    exec (.spawn o) s = .next (State.done { s with job := { s.job with tasks := s.job.tasks ++
      ((h.effLanes (.spawn o)).map fun l => (clusterOf h.core, ({
        regs := (List.range 8).map (fun k => l.getV (o.a.toNat + k))
        ctx := h.ctx
        cap := h.getPair o.b.toNat
        ln := h.ln
        launch := h.launch
        froms := if h.task then h.origins else [h.launch]
        prio := h.prio
        at_ := s.ctl.time } : Task))) } } h)) ∧
  (∀ (o : FV3) (s : State) (h : Sheaf) (m : Mbx), Ready s h (.launch o) →
    let off := (h.getS o.a.toNat).toNat
    s.mbxOf h.ctx (h.getPair o.b.toNat) = some m → m.kind = 2 → off % 16 = 0 → off + 128 ≤ h.scrBytes →
    s.scrBad (h.scrAbs off) 128 = false → s.released h 5 = true →
    exec (.launch o) s = .next (if m.nslot ≤ m.msgs.length then s
      else
        let q := s.seenBytes h (h.scrAbs off) 128
        (q.1.modMbx m.head fun x => { x with msgs := x.msgs ++ [q.2.2] }).done q.2.1)) ∧
  (∀ (s : State) (h : Sheaf) (a n : Nat), s.unseen h = [] → s.seenBytes h a n = (s, h.retile s, s.scrRead a n)) ∧
  (∀ (o : FV3) (s : State) (h : Sheaf), Ready s h (.launch o) →
    (∀ m, s.mbxOf h.ctx (h.getPair o.b.toNat) = some m → m.kind ≠ 2) → (h.getS o.a.toNat).toNat % 16 = 0 →
    (h.getS o.a.toNat).toNat + 128 ≤ h.scrBytes →
    exec (.launch o) s = .next (s.raise h (encode (.launch o)) [(6, h.getPair o.b.toNat)])) ∧
  (∀ (o : FV3) (s : State) (h : Sheaf), Ready s h (.tdone o) →
    exec (.tdone o) s = .next (if !h.task then s.decodeTrap h (encode (.tdone o)) 1
      else if h.mask &&& ~~~maskOf (h.effLanes (.tdone o)) = 0 then s.putSheaf (h.leave (maskOf (h.effLanes (.tdone o)))).close
      else s.done (h.leave (maskOf (h.effLanes (.tdone o))))))

/-- 07/R234, 04/R91 to R93, 17/R385. -/
def Obligations.CsrForms : Prop :=
  (∀ (o : FCSR) (s : State) (h : Sheaf), Ready s h (.csrr o) →
    let n := o.csrn.toNat
    let x := s.csr h n
    let h1 := if csrWide n then h.setPair o.srg.toNat x else h.setS o.srg.toNat (x.extractLsb' 0 32)
    exec (.csrr o) s = .next (s.putSheaf (if n = 0x20 then
        { h1.retire h1.nextPc with timeL := some (BitVec.ofNat 32 (s.reading h.core / 2 ^ 32)) }
      else h1.retire h1.nextPc))) ∧
  (∀ (o : FCSR) (s : State) (h : Sheaf),
    let n := o.csrn.toNat
    let x := if csrWide n then h.getPair o.srg.toNat else (h.getS o.srg.toNat).setWidth 64
    (Ready s h (.csrw o) → exec (.csrw o) s = .next (s.done (h.putCsr n x))) ∧
    (Ready s h (.csrs o) → exec (.csrs o) s = .next (s.done (h.putCsr n (s.csr h n ||| x)))) ∧
    (Ready s h (.csrc o) → exec (.csrc o) s = .next (s.done (h.putCsr n (s.csr h n &&& ~~~x))))) ∧
  (∀ (h : Sheaf) (n : Nat) (x : DWord), n ≠ 0x30 → n ≠ 0x50 → n ≠ 0x80 → h.putCsr n x = h) ∧
  (∀ (s : State) (h : Sheaf) (x : DWord),
    s.csr (h.putCsr 0x30 x) 0x30 = x &&& 0x1F ∧ s.csr (h.putCsr 0x80 x) 0x80 = x &&& 0x1FFF ∧
    s.csr (h.putCsr 0x50 x) 0x50 = (if x &&& 0xFFFFFF = 0 then x else 0)) ∧
  (∀ (s : State) (h : Sheaf), s.csr h 0x00 = h.shid.setWidth 64 ∧ s.csr h 0x02 = BitVec.ofNat 64 (h.core % 48) ∧
    s.csr h 0x03 = BitVec.ofNat 64 (h.core / 48 % 6) ∧ s.csr h 0x51 = h.trap.e ∧ s.csr h 0x52 = h.trap.c.setWidth 64 ∧
    s.csr h 0x53 = h.trap.a ∧ s.csr h 0x54 = h.trap.i.setWidth 64 ∧ s.csr h 0x20 = BitVec.ofNat 64 (s.reading h.core % 2 ^ 32) ∧
    s.csr h 0x22 = BitVec.ofNat 64 h.gw ∧ s.csr h 0x71 = h.sstk) ∧
  (∀ (s : State) (h : Sheaf) (c : Ctx), s.ctx? h.ctx = some c →
    s.csr h 0x70 = BitVec.ofNat 64 (if c.preto = 0 then 165000 else c.preto))

/-- 07/R235, R236, 14/R326. -/
def Obligations.MailboxForms : Prop :=
  (∀ (o : FS3) (s : State) (h : Sheaf) (m : Mbx), Ready s h (.mpost o) → s.mbxArg h o = some m →
    let w := h.getS o.sb.toNat
    let off := (w.extractLsb' 0 19).toNat
    let len := (w.extractLsb' 24 8).toNat
    8 ≤ len → len ≤ 128 → len % 8 = 0 → off % 8 = 0 → off + len ≤ h.scrBytes → s.scrBad (h.scrAbs off) len = false →
    s.released h 5 = true →
    exec (.mpost o) s = .next (if m.nslot ≤ m.msgs.length then
        (if o.cf.getLsbD 0 then s.hold h false else s.done (h.setS o.sd.toNat 1))
      else
        let q := s.seenBytes h (h.scrAbs off) len
        (q.1.modMbx m.head fun x => { x with msgs := x.msgs ++ [q.2.2] }).done (q.2.1.setS o.sd.toNat 0))) ∧
  (∀ (o : FS3) (s : State) (h : Sheaf) (m : Mbx), Ready s h (.mtake o) → s.mbxArg h o = some m →
    let off := (h.getS o.sb.toNat).toNat
    off % 8 = 0 → off + 128 ≤ h.scrBytes → (h.mq.any fun e => e.isAcquire || e.isRelease) = false → s.ownBehind h = false →
    (m.msgs = [] → exec (.mtake o) s = .next (if o.cf.getLsbD 0 then s.hold h false else s.done (h.setS o.sd.toNat 0))) ∧
    (∀ bs rest, m.msgs = bs :: rest →
      let a := h.scrAbs off
      let s0 := s.touch h 1 a bs.length true
      exec (.mtake o) s = .next (((s0.plainWrite a bs h.uid).modMbx m.head fun x => { x with msgs := rest }).done
        ((s0.keepOld (h.retile s0) a bs.length).setS o.sd.toNat (BitVec.ofNat 32 bs.length))))) ∧
  (∀ (o : FS3) (s : State) (h : Sheaf) (m : Mbx), Ready s h (.mpeek o) → s.mbxArg h o = some m →
    exec (.mpeek o) s = .next (s.done (h.setS o.sd.toNat (BitVec.ofNat 32 ((m.msgs.head?.map List.length).getD 0))))) ∧
  (∀ (o : FS3) (s : State) (h : Sheaf), Ready s h (.mpeek o) → s.mbxArg h o = none →
    exec (.mpeek o) s = .next (s.trapNow h (.mpeek o) 6 (h.getPair o.sa.toNat)))

/-- 14/R319 to R325, R335, R338, R340; 02/R22. The words an accepted packet names are at hand in the second clause. -/
def Obligations.LaunchesAreCheckedAndAdmitted : Prop :=
  (∀ (s : State) (port : Nat) (m : Mbx) (c : Ctx) (p : List Byte) (rest : List (List Byte)), s.mbx? port = some m → m.kind = 2 →
    m.msgs = p :: rest → s.ctx? m.ctx = some c → c.stopped = false → natAt p 0 1 ≠ 1 → wordsOf p = [] → badFields p = true →
    exec (.launchPacketCheck port) s = .next (((s.modMbx port fun x => { x with msgs := rest }).forget (dieOfPos port) m.ctx []).postReject m.ctx port 1)) ∧
  (∀ (s : State) (ctx r : Nat) (p : List Byte) (q : Mapped), (s.lowestReason ctx p r ≤ r) ∧ (r ≤ 2 ∨ r = 4 → s.lowestReason ctx p r = r) ∧
    (∀ m, 2 < r → r ≠ 4 → m ≠ 4 → (s.mapPacket ctx p).2 = .error m → s.lowestReason ctx p r = min r m) ∧
    ((s.mapPacket ctx p).2 = .ok q → s.lowestReason ctx p r = r)) ∧
  (∀ (s : State) (port : Nat) (m : Mbx) (c : Ctx) (p : List Byte) (rest : List (List Byte)) (g : Seg) (e : EntryRec),
    s.mbx? port = some m → m.kind = 2 → m.msgs = p :: rest → s.ctx? m.ctx = some c → c.stopped = false → badFields p = false →
    s.checkEntry m.ctx (BitVec.ofNat 64 (natAt p 8 8)) [.live] = some (g, e) → e.launch = true → badRanges p (some e) = false →
    (natAt p 0 1 = 1 → natAt p 16 8 % 16 = 0 ∧ ∃ d ds, s.globBytes m.ctx (natAt p 16 8) 80 = (s, some d) ∧ descOf d = some ds) →
    (∀ w ∈ wordsOf p, s.arbAccess m.ctx (dieOfPos port) w.1 w.2 = (s, .ok)) →
    let s1 := (s.modMbx port fun x => { x with msgs := rest }).fresh 1
    exec (.launchPacketCheck port) s = .next ((State.ready { s1 with job := { s1.job with launches := s1.job.launches ++
      [⟨s.ctl.nextId, m.ctx, dieOfPos port, port, p, 0xFFFFFFFF, [depCmp p 0 == 0, depCmp p 1 == 0], false, [], [], [], [], 0, 0, 0,
        g.entryPc e, 0, 0, 0, 0, false⟩] } } s.ctl.nextId).number s.ctl.nextId)) ∧
  (∀ w t : Word, depHolds 1 w t = (w == t) ∧ depHolds 2 w t = (w != t) ∧ depHolds 3 w t = t.ule w ∧ depHolds 4 w t = t.sle w) ∧
  (∀ (s s1 s2 : State) (id k : Nat) (l : Launch) (bs : List Byte), s.launch? id = some l → l.ready = false → k < 2 →
    l.deps.getD k true = false → s.ctxStopped l.ctx = false → s.arbAccess l.ctx l.die (depAddr l.packet k) false = (s1, .ok) →
    s1.globBytes l.ctx (depAddr l.packet k) 4 = (s2, some bs) →
    exec (.dependenceRead id k) s = .next (
      if depHolds (depCmp l.packet k) (BitVec.ofNat 32 (leNat bs)) (depTgt l.packet k) then
        (s2.modLaunch id fun x => { x with deps := x.deps.set k true }).ready id else s2)) ∧
  (∀ (s : State) (id cluster : Nat) (l : Launch) (c : Ctx), s.launch? id = some l → s.ctx? l.ctx = some c →
    (s.job.launches.any fun x => x.waits && x.before l && (List.range 24).any fun k => (s.tryAdmit x k).isSome) = false →
    s.coopFirst l = false → l.ready = true → l.started < l.n → c.stopped = false → cluster < 24 → l.coop = false → l.unitN = 0 →
    s.budgets c 1 = true → s.clusterOpen cluster l.ctx l.fused = true → s.partDown 2 cluster = false →
    let t := (s.addSheaf l l.started cluster none).modLaunch l.id fun x => { x with started := x.started + 1 }
    exec (.sheafAdmit id cluster) s = .next (if t.seats cluster then t else s)) ∧
  (∀ (s : State) (uid core : Nat) (h : Sheaf), s.sheaf? uid = some h → h.run = .waiting → clusterOf core = clusterOf h.core →
    s.ctxStopped h.ctx = false →
    s.fitsOn core (s.footprint h) = true → s.clusterOpen (clusterOf core) h.ctx h.admitFused = true → h.task = false →
    exec (.sheafPlace uid core) s = .next (s.placeOn h core) ∧
    ((s.placeOn h core).sheaf? uid).map (fun x => (x.run, x.core, x.alloc.kib, x.saved)) = some (.running, core, h.alloc.kib, [])) ∧
  (∀ (s : State) (ns cluster k ctx : Nat) (cap : DWord) (t : Task) (ts : List Task) (g : Seg) (e : EntryRec), cluster < 24 →
    (s.groups cluster)[k]? = some (ctx, cap) → s.groupTasks cluster (ctx, cap) = t :: ts → s.seg? (capSeg cap).toNat = some g →
    g.elist[(capEnt cap).toNat]? = some e → s.ctxStopped ctx = false → s.ctl.time ≤ t.at_ + 2000 →
    (s.elapse ns).ctl.time ≤ t.at_ + 2000 ∧ (ts.length = 31 → (s.elapse ns).ctl.time = s.ctl.time)) ∧
  (∀ (s : State) (cluster k ctx : Nat) (cap : DWord) (g : Seg) (e : EntryRec), (s.groups cluster)[k]? = some (ctx, cap) →
    let mine := fun (t : Nat × Task) => t.1 == cluster && t.2.ctx == ctx && t.2.cap == cap
    let ts := ((s.job.tasks.filter mine).map (·.2)).take 32
    s.seg? (capSeg cap).toNat = some g → g.elist[(capEnt cap).toNat]? = some e → s.ctxStopped ctx = false → ts ≠ [] →
    (ts.length = 32 ∨ ∀ t, ts.head? = some t → t.at_ + 2000 ≤ s.ctl.time) → (∀ t ∈ ts, t.regs.length = 8) →
    ∃ t h, exec (.groupClose cluster k) s = .next t ∧ t.sheaves = s.sheaves ++ [h] ∧ h.task = true ∧ h.shln = ts.length ∧
      h.ctx = ctx ∧ h.run = .waiting ∧ h.path.map (·.pc) = some ⟨BitVec.ofNat 16 g.idx, capGen cap, e.off⟩ ∧
      t.job.tasks = (s.job.tasks.filter fun x => !mine x) ++ (s.job.tasks.filter mine).drop 32 ∧
      (h.lanes.map fun l => l.v.take 8) = ts.map (·.regs)) ∧
  (∀ (s : State) (cluster k ctx : Nat) (cap : DWord), (s.groups cluster)[k]? = some (ctx, cap) → s.ctxStopped ctx = true →
    exec (.groupClose cluster k) s = .next s) ∧
  (∀ (s : State) (uid : Nat) (h : Sheaf), s.sheaf? uid = some h → h.run = .draining →
    exec (.drainEnd uid) s = .next (if s.drained h then s.freeSheaf h else s) ∧ (s.freeSheaf h).sheaf? uid = none) ∧
  (∀ (s s1 : State) (id : Nat) (l : Launch) (x : Home), s.launch? id = some l →
    let a := natAt l.packet 56 8
    (s.launchOver l = false ∨ s.ctxStopped l.ctx = true → exec (.launchComplete id) s = .next s) ∧
    (s.launchOver l = true → s.ctxStopped l.ctx = false → a = 0 →
      exec (.launchComplete id) s = .next (s.endLaunch l)) ∧
    (s.launchOver l = true → s.ctxStopped l.ctx = false → a ≠ 0 → s.lineHeld l.ctx a = false →
      s.homeOf l.ctx a .both = (s1, .denied) ∨ s.homeOf l.ctx a .both = (s1, .absent) →
      exec (.launchComplete id) s = .next (s1.lostCompletion l)) ∧
    (s.launchOver l = true → s.ctxStopped l.ctx = false → a ≠ 0 → s.lineHeld l.ctx a = false → s.homeOf l.ctx a .both = (s1, .ok x) →
      x.badAt (a % 128) 4 = false →
      exec (.launchComplete id) s = .next ((s1.homeWrite l.ctx (l.die * 288) 0 x (a % 128)
        (bvLe (BitVec.ofNat 32 (leNat (lineBytes x.data (a % 128) 4)) + 1) 4)).1.endLaunch l)))

/-- 17/R390 to R392, R398; 08/R262; 09/R272. -/
def Obligations.StopsAndResumes : Prop :=
  (∀ (s : State) (uids : List Nat), (∀ u ∈ s.groupOf uids, ∀ h, s.sheaf? u = some h → h.stopAtOnce = none) →
    let ask := fun (h : Sheaf) => if (s.groupOf uids).contains h.uid && (h.resident && h.stop.isNone && !h.seqr) then
      { h with stop := some ⟨((s.ctx? h.ctx).map Ctx.pretoCycles).getD 165000 * 1000, false⟩ } else h
    exec (.preemptRequest uids) s = .next { s with sheaves := s.sheaves.map ask }) ∧
  (∀ (s : State) (uid code : Nat) (h : Sheaf) (r : StopReq), s.sheaf? uid = some h → h.stop = some r → h.stopAtOnce = some code →
    exec (.pretoExpiry uid) s = .next (if s.quietToStop h then s.stopSaved h code none (BitVec.allOnes 128)
      else (s.sendBatches uid).modSheaf uid Sheaf.ungather)) ∧
  (∀ (s : State) (uid : Nat) (h : Sheaf) (r : StopReq), s.sheaf? uid = some h → h.stop = some r → h.stopAtOnce = none → r.due = true →
    h.run = .running → h.chain.pc0 = none → s.quietToStop h = true →
    exec (.pretoExpiry uid) s = .next (s.stopSaved h 2 none (BitVec.allOnes 128))) ∧
  (∀ (s : State) (uid ns : Nat) (h : Sheaf) (r : StopReq), s.sheaf? uid = some h → h.stop = some r →
    let ran := min ns s.slack * s.rep.clock.getD (dieOf h.core) 3300
    (h.stopAtOnce = none → r.due = false → exec (.pretoExpiry uid) s = .next s) ∧
    ((s.elapse ns).sheaf? uid).map (fun x => x.stop) = some (some ⟨r.left - ran, r.due || decide (r.left ≤ ran)⟩)) ∧
  (∀ (s : State) (uid code : Nat) (h : Sheaf) (safe : Option Nat) (live : BitVec 128), s.sheaf? uid = some h →
    let q := (s.cutBack h).countAll h
    (s.stopNow h code safe live).mm = q.mm ∧ (∀ v, v ≠ uid → (s.stopNow h code safe live).sheaf? v = q.sheaf? v) ∧
    ((∀ o ∈ s.eng.ops, o.sheaf = uid → o.live = false) → q = s) ∧
    ((s.stopNow h code safe live).sheaf? uid).map (fun x => (x.run, x.stop, x.s, x.lanes, x.h, x.tiles, x.trap, x.stack)) =
      some (.stopped code safe, none, h.s, h.lanes, h.h, h.tiles, h.trap, h.stack) ∧
    (∀ k ∈ (s.stopNow h code safe live).stk.stooks, ∀ m ∈ k.members, m.uid = uid → m.hld = true)) ∧
  (∀ (s : State) (uid core code : Nat) (safe : Option Nat) (h : Sheaf) (c : Ctx), s.sheaf? uid = some h → h.run = .stopped code safe →
    s.groupOf [uid] = [uid] → s.ctx? h.ctx = some c → c.stopped = false → h.queued = false → s.partDown 1 h.core = false → s.budgets c 1 = true → core < nCores → s.stookOf h = none →
    s.takesOps core uid = true → s.fitsOn core (s.footprint h) = true → s.clusterOpen (clusterOf core) h.ctx h.admitFused = true →
    exec (.sheafResume uid core) s = .next ((s.placeOn h core).afterPlace uid code (h.scrAbs 0))) ∧
  (∀ (s : State) (uid core : Nat) (h x : Sheaf), s.sheaf? uid = some h → s.groupOf [uid] = [uid] → h.queued = true → x ∈ s.sheaves →
    x.queued = true → x.ctx = h.ctx → x.launch = h.launch → x.shid < h.shid → x.uid ≠ uid → exec (.sheafResume uid core) s = .next s) ∧
  (∀ (s : State) (uid code : Nat) (h : Sheaf) (p : Path), s.sheaf? uid = some h → h.path = some p → s.resumeCheck uid code =
    if code < 5 ∧ s.checkReturn h.ctx p.pc = false then
      (s.draw 2).raise h (freeWord s.ctl.free) [(0x0B, Config.freeValue (s.ctl.free + 1))]
    else s) ∧
  (∀ (s : State) (uid core : Nat) (h : Sheaf), s.sheaf? uid = some h → h.run = .running → h.chain.pc0 = none → h.seqr = false →
    core ≠ h.core → clusterOf core = clusterOf h.core →
    (s.stk.subs.any fun p => (p.subr == uid || p.pubr == uid) && !p.batches.isEmpty) = false → s.quietToMove h = true →
    s.takesOps core uid = true → s.fitsOn core (s.footprint h) = true →
    let t := s.stopNow { h with stop := none } 2 none (BitVec.allOnes 128)
    ∃ x, t.sheaf? uid = some x ∧ exec (.sheafMigrate uid core) s = .next
      (((State.placeOn { t with stk := { t.stk with subs := s.stk.subs } } x core).afterPlace uid 2 (h.scrAbs 0)).modSheaf uid
        fun y => { y with stop := h.stop }))

/-! ### System commands (17/R379 to R400, 20/R428 to R432) -/

/-- The command at the head of the command port, of operation code `op`. -/
def headCommand (s : State) (op : Nat) (c : Cmd) (m : Mbx) (rest : List (List Byte)) : Prop :=
  s.cmdPort = some m ∧ ∃ bs, m.msgs = bs :: rest ∧ natAt bs 0 1 = op ∧ cmdOf bs = c

/-- The command as it runs: no status yet. -/
def runOf (s : State) (op : Nat) (c : Cmd) : CmdRun := ⟨s.ctl.nextId, op, c, 0, 0, 0⟩

/-- The state with the command taken from the port and in progress. -/
def cmdTaken (s : State) (op : Nat) (c : Cmd) (m : Mbx) (rest : List (List Byte)) : State :=
  let s1 := (s.modMbx m.head fun x => { x with msgs := rest }).fresh 1
  { s1 with sys := { s1.sys with cmds := s1.sys.cmds ++ [runOf s op c] } }

/-- 17/R379, R380, R387, R392, R398 to R400. -/
def Obligations.ContextCommands : Prop :=
  (∀ (s : State) (c : Cmd) (m : Mbx) (rest : List (List Byte)) (x : Ctx), headCommand s 1 c m rest →
    let t := cmdTaken s 1 c m rest
    t.ctx? c.ctx.toNat = some x →
    (t.shootNow c = none → exec (.shoot c) s = .next t) ∧
    (∀ u k, t.shootNow c = some (u, k) → exec (.shoot c) s = .next (u.modCmd s.ctl.nextId fun r => { r with until_ := k }))) ∧
  (∀ (s t : State) (c : Cmd) (k : Nat), s.shootNow c = some (t, k) →
    let asid := s.asidOf c.ctx.toNat
    let hit := fun (a n : Nat) => inShoot c.a.toNat (c.b.extractLsb' 0 63).toNat a n
    (∀ o ∈ s.eng.ops, o.pinsIn asid c.a.toNat (c.b.extractLsb' 0 63).toNat = false) →
    (∀ e ∈ t.mm.tlb, ¬ (e.asid = asid ∧ hit (e.page * 65536) (e.n * 65536) = true)) ∧
    (∀ e ∈ t.mm.l1, ¬ (e.asid = asid ∧ hit (e.line * 128) 128 = true)) ∧
    (∀ e ∈ t.mm.homes, ¬ (e.asid = asid ∧ hit (e.line * 128) 128 = true))) ∧
  (∀ (s : State) (c : Cmd), (∃ o ∈ s.eng.ops, o.pinsIn (s.asidOf c.ctx.toNat) c.a.toNat (c.b.extractLsb' 0 63).toNat = true) →
    c.b.getLsbD 63 = false → s.shootNow c = none) ∧
  (∀ (s : State) (c : Cmd) (m : Mbx) (rest : List (List Byte)) (x : Ctx), headCommand s 2 c m rest →
    let t := cmdTaken s 2 c m rest
    t.ctx? c.ctx.toNat = some x → (∀ h ∈ t.sheaves, h.ctx = x.id → h.run ≠ .waiting) →
    let t1 := t.modCtx x.id fun y => { y with stopped := true }
    exec (.ctxsave c) s = .next (t1.request ((t1.sheavesIn x.id).map (·.uid)))) ∧
  (∀ (s : State) (c : Cmd) (m : Mbx) (rest : List (List Byte)), headCommand s 3 c m rest →
    let t := cmdTaken s 3 c m rest
    (imageRecs (t.backRead false c.a.toNat c.b.toNat) = none →
      exec (.ctxload c) s = .next (t.cmdStatus (runOf s 3 c) 3)) ∧
    (∀ rs, imageRecs (t.backRead false c.a.toNat c.b.toNat) = some rs →
      let x := ctxOf ((bodiesOf rs 1).headD []) t.ctl.time
      (t.ctxs.any fun y => y.live && (y.asid == x.asid || y.id == x.id)) = false →
      let new : Ctx := { x with objs := [], resolver := 0 }
      let g := State.globBytes { t with ctxs := t.ctxs ++ [new] } x.id x.sgrantVa 8192
      g.1.segsBad rs (grantsOf (g.2.getD [])) = false → g.1.ctxBad x = false →
      exec (.ctxload c) s = .next ((g.1.modCtx x.id fun y => { y with sgrant := grantsOf (g.2.getD []) }).restore rs x))) ∧
  (∀ (s : State) (c : Cmd) (m : Mbx) (rest : List (List Byte)), headCommand s 4 c m rest →
    let t := cmdTaken s 4 c m rest
    exec (.shend c) s = .next (match t.sheaves.find? fun h => h.ctx == c.ctx.toNat && h.shid == c.a.extractLsb' 0 32 && h.isHalted with
      | none => t.cmdStatus (runOf s 4 c) 1
      | some h => (t.putSheaf h.drainHalted).modCmd s.ctl.nextId fun r => { r with until_ := h.uid })) ∧
  (∀ (s : State) (c : Cmd) (m : Mbx) (rest : List (List Byte)) (x : Ctx), headCommand s 5 c m rest →
    let t := cmdTaken s 5 c m rest
    t.ctx? c.ctx.toNat = some x →
    ∃ u, exec (.dirtset c) s = .next u ∧ u.sys.logs = (t.sys.logs.filter fun l => l.vf != x.vf) ++
      (if c.b = 0 then [] else [⟨x.vf, c.a.toNat, c.b.toNat⟩]) ∧ u.mm.pool = t.mm.pool ∧ u.mm.homes.length = t.mm.homes.length) ∧
  (∀ (s : State) (c : Cmd) (m : Mbx) (rest : List (List Byte)) (x : Ctx), headCommand s 6 c m rest →
    (cmdTaken s 6 c m rest).ctx? c.ctx.toNat = some x → exec (.dirtclr c) s = .next (cmdTaken s 6 c m rest)) ∧
  (∀ (s : State) (id : Nat) (r : CmdRun), (s.sys.cmds.find? fun r => r.id == id) = some r →
    (r.status ≠ 0 → exec (.commandCompletion id) s = .next { s with sys := { s.sys with
      statuses := s.sys.statuses ++ [(r.cmd.stat, r.status, r.detail)], cmds := s.sys.cmds.filter fun x => x.id != r.id } }) ∧
    (r.status = 0 → r.op = 1 → r.until_ = 0 → exec (.commandCompletion id) s = .next (match s.shootNow r.cmd with
      | none => s
      | some (t, k) => t.modCmd r.id fun x => { x with until_ := k })) ∧
    (r.status = 0 → r.op = 1 → r.until_ ≠ 0 → exec (.commandCompletion id) s = .next
      (if r.until_ ≤ s.ctl.time then s.storeStatus r else s)) ∧
    (r.status = 0 → r.op = 6 → (r.cmd.b.extractLsb' 0 32).toNat ≤ r.until_ →
      exec (.commandCompletion id) s = .next (s.storeStatus r)) ∧
    (∀ x l, r.status = 0 → r.op = 6 → r.until_ < (r.cmd.b.extractLsb' 0 32).toNat → s.ctx? r.cmd.ctx.toNat = some x →
      (s.sys.logs.find? fun l => l.vf == x.vf) = some l → exec (.commandCompletion id) s = .next
        ((s.clearPage l (r.cmd.b.extractLsb' 32 32).toNat (r.cmd.a.toNat / 65536 + r.until_) r.until_).modCmd r.id
          fun y => { y with until_ := r.until_ + 1 })) ∧
    (r.status = 0 → r.op = 4 → (s.sheaf? r.until_).isSome = true → exec (.commandCompletion id) s = .next s) ∧
    (r.status = 0 → r.op = 4 → s.sheaf? r.until_ = none → exec (.commandCompletion id) s = .next (s.storeStatus r)) ∧
    (r.status = 0 → r.op = 2 → s.atRest r.cmd.ctx.toNat = false → exec (.commandCompletion id) s = .next s) ∧
    (∀ c, r.status = 0 → r.op = 2 → s.atRest r.cmd.ctx.toNat = true → s.ctx? r.cmd.ctx.toNat = some c →
      exec (.commandCompletion id) s = .next ((s.saveImage r c).endCmd id))) ∧
  (∀ (s : State) (l : DirtyLog) (result i k pa : Nat), s.mm.pool.wf = true → pagePa (s.extentsOf l.vf) i = some pa →
    let here := fun (h : Home) => !h.hm && decide (pa ≤ h.pa) && decide (h.pa < pa + 65536)
    let t := (s.mm.homes.filter here).foldl (fun (t : State) (h : Home) => t.writeBack h) s
    let u := s.clearPage l result i k
    (∀ h ∈ u.mm.homes, here h = true → h.logged = false) ∧
    (i < l.len → result + k / 8 ≠ l.bitmap + i / 8 → t.assigned false (result + k / 8) = true →
      t.assigned false (l.bitmap + i / 8) = true →
      (u.mm.pool.get (result + k / 8)).getLsbD (k % 8) = (t.mm.pool.get (l.bitmap + i / 8)).getLsbD (i % 8) ∧
      (u.mm.pool.get (l.bitmap + i / 8)).getLsbD (i % 8) = false) ∧
    (∀ a, a ≠ result + k / 8 → a ≠ l.bitmap + i / 8 → u.mm.pool.get a = t.mm.pool.get a))

/-- 17/R380; 20/R428 to R432; 14/R319, R320; 19/R406. -/
def Obligations.RepairAndPortCommands : Prop :=
  (∀ (s : State) (c : Cmd) (m : Mbx) (rest : List (List Byte)) (p : Nat), headCommand s 7 c m rest →
    let t := cmdTaken s 7 c m rest
    let kind := (c.b.extractLsb' 0 8).toNat
    let n := if c.b.extractLsb' 8 16 = 0 then 65536 else (c.b.extractLsb' 8 16).toNat
    let box : Mbx := ⟨p, kind, n, slotBytes kind, c.ctx.toNat, []⟩
    t.slmPos c.ctx.toNat c.a.toNat box.size = some p → c.a.toNat % 128 = 0 →
    (t.job.mbx.any fun x => meets x.head x.size p box.size) = false → kind ∈ [1, 2, 3] → (kind = 2 → n = 64) →
    exec (.mbxmake c) s = .next { t with job := { t.job with mbx := t.job.mbx ++ [box] } }) ∧
  (∀ (s : State) (c : Cmd) (m b : Mbx) (rest : List (List Byte)), headCommand s 8 c m rest →
    let t := cmdTaken s 8 c m rest
    ((t.slmPos c.ctx.toNat c.a.toNat 1).bind t.mbx?) = some b → b.ctx = c.ctx.toNat →
    exec (.mbxfree c) s = .next { t.draw b.size with
      job := { t.job with mbx := t.job.mbx.filter fun x => x.head != b.head }
      mm := { t.mm with slm := t.mm.slm.write b.head (freeBytes t.ctl.free b.size) } }) ∧
  (∀ (s : State) (c : Cmd) (m : Mbx) (rest : List (List Byte)) (p : Part), headCommand s 0x10 c m rest → targetOf c.a = some p →
    p.kind = 3 →
    let t := cmdTaken s 0x10 c m rest
    let w := t.waysOf p.num
    let new := if c.b.getLsbD 16 then c.b.extractLsb' 0 16 else w.pend.getD w.mask
    exec (.slflush c) s = .next (
      if wayCount new < 4 then t.cmdStatus (runOf s 0x10 c) 2
      else if ((List.range 16).filter fun k => new.getLsbD k && !w.mask.getLsbD k).any (fun k => t.wayKept p.num k) then
        t.cmdStatus (runOf s 0x10 c) 3
      else ((if c.b.getLsbD 16 then t else t.putWays { w with pend := none }).writeBackSlice p.num).modCmd s.ctl.nextId fun x => { x with
        cmd := { c with b := (c.b &&& ~~~0xFFFF) ||| new.setWidth 64 }, until_ := t.sliceLemax p.num + 4 })) ∧
  (∀ (s : State) (c : Cmd) (m : Mbx) (rest : List (List Byte)) (p : Part), headCommand s 0x11 c m rest → targetOf c.a = some p →
    let t := cmdTaken s 0x11 c m rest
    let t1 : State := { t with rep := { t.rep with quiesced := t.rep.quiesced ++ [p] } }
    (t.rep.quiesced.contains p = true → exec (.quiesce c) s = .next (t.cmdStatus (runOf s 0x11 c) 1)) ∧
    (t.rep.quiesced.contains p = false → p.kind = 3 → (t.sliceKept p.num && !t.spareFree p.num) = false →
      exec (.quiesce c) s = .next (t1.writeBackSlice p.num)) ∧
    (t.rep.quiesced.contains p = false → p.kind = 1 →
      exec (.quiesce c) s = .next (t1.request (t1.groupOf ((t1.sheaves.filter fun h => h.onPart p && h.resident).map (·.uid)))))) ∧
  (∀ (s : State) (c : Cmd) (m : Mbx) (rest : List (List Byte)) (p : Part), headCommand s 0x12 c m rest → targetOf c.a = some p →
    let t := cmdTaken s 0x12 c m rest
    exec (.test c) s = .next (if !t.rep.quiesced.contains p then t.cmdStatus (runOf s 0x12 c) 1
      else if p.kind ≠ 3 then p.cores.foldl State.startTest t
      else match Config.selfTest (p.kind * 65536 + p.num) t.ctl.time with
        | none => t
        | some (upc, cause) => t.modCmd s.ctl.nextId fun x => { x with
            status := 6, detail := BitVec.ofNat 64 (upc % 16384 + cause % 256 * 65536) })) ∧
  (∀ (s : State) (c : Cmd) (m : Mbx) (rest : List (List Byte)) (p : Part), headCommand s 0x13 c m rest → targetOf c.a = some p →
    let t := cmdTaken s 0x13 c m rest
    (t.rep.quiesced.contains p = false → exec (.remap c) s = .next (t.cmdStatus (runOf s 0x13 c) 1)) ∧
    (t.rep.quiesced.contains p = true → c.b = 0 → p.kind ≠ 2 →
      0 < t.sparesOf (p.kind == 1) (if p.kind == 1 then p.num / 48 else p.num / 24) →
      exec (.remap c) s = .next ((t.mapSpare p).event 5 (some p.place.1) (some p.place.2.1) p.place.2.2 none))) ∧
  (∀ (s : State) (c : Cmd) (m : Mbx) (rest : List (List Byte)) (p : Part), headCommand s 0x14 c m rest → targetOf c.a = some p →
    let t := cmdTaken s 0x14 c m rest
    exec (.resume c) s = .next { t with rep := { t.rep with quiesced := t.rep.quiesced.filter fun q => q != p } }) ∧
  (∀ (s : State) (id : Nat) (r : CmdRun) (p : Part), (s.sys.cmds.find? fun r => r.id == id) = some r → r.status = 0 →
    targetOf r.cmd.a = some p →
    (r.op = 0x10 → exec (.commandCompletion id) s = .next
      (if r.until_ ≤ s.reading (slicePlace p.num) then (s.endFlush r p.num).endCmd id else s)) ∧
    (r.op = 0x11 → exec (.commandCompletion id) s = .next (if s.partIdle p then (s.endQuiesce p).endCmd id else s)) ∧
    (r.op = 0x12 → exec (.commandCompletion id) s = .next (if s.testOver p then (s.endTest r p).endCmd id else s))) ∧
  (∀ p ∈ ([(0x10, Instr.slflush), (0x11, .quiesce), (0x12, .test), (0x13, .remap), (0x14, .resume)] : List (Nat × (Cmd → Instr))),
    ∀ (s : State) (c : Cmd) (m : Mbx) (rest : List (List Byte)), headCommand s p.1 c m rest → targetOf c.a = none →
    exec (p.2 c) s = .next ((cmdTaken s p.1 c m rest).cmdStatus (runOf s p.1 c) 5)) ∧
  (∀ (s : State) (fn off ctx p : Nat) (bytes : List Byte) (m : Mbx), ¬ (fn = 0 ∧ off = 0) →
    s.barPos fn off bytes.length = some (ctx, p) → s.mbx? p = some m → wholeMsg m.kind bytes.length = true →
    exec (.hostPost fn off bytes) s = .next (if m.msgs.length < m.nslot then
        s.modMbx m.head fun x => { x with msgs := x.msgs ++ [bytes] }
      else if m.kind == 2 then s.postReject m.ctx m.head 9 else s)) ∧
  (∀ (s : State) (fn off ctx p : Nat) (b : Byte), s.barPos fn off 1 = some (ctx, p) → s.mbxOver p = none →
    exec (.hostBar0Write fn off [b]) s = .next (s.slmWrite p [b]))

/-- 16/R357 to R372; 04/R104 to R106. The success of a load is stated for a file without imports; what makes a file good is `fileOk`,
the checks of R346 to R357. -/
def Obligations.LoaderAndSequencer : Prop :=
  (∀ (s : State) (r : LoadReq) (c : Ctx), s.ctx? r.ctx = some c →
    let dup := c.objs.any fun o => o.name == nameAt r.file (natAt r.file 24 4)
    (fileOk r.file = false → exec (.segmentLoad r) s = .next (s.loadAnswer "BADFMT" [])) ∧
    (fileOk r.file = true → sigBad r.file r.needSig = true → exec (.segmentLoad r) s = .next (s.loadAnswer "BADSIG" [])) ∧
    (fileOk r.file = true → sigBad r.file r.needSig = false → (dup != r.swap) = true →
      exec (.segmentLoad r) s = .next (s.loadAnswer "DUPNAME" []))) ∧
  (∀ (s s1 : State) (r : LoadReq) (c : Ctx) (segs : List (Nat × Nat × BitVec 8)), s.ctx? r.ctx = some c → fileOk r.file = true →
    sigBad r.file r.needSig = false → ((c.objs.any fun o => o.name == nameAt r.file (natAt r.file 24 4)) != r.swap) = false →
    let ss := secsOf r.file
    let place := placing ss r.place
    s.allotSegs (ordinals ss) [] = some segs → s.pagesFree c (pagesTaken ss place []) = true →
    s.placeSecs c r.file ss place segs = some s1 →
    recsOf r.file 7 = [] → recsOf r.file 8 = [] → (ss.findIdx? fun x => x.ty == 0xA) = none →
    ∃ t, exec (.segmentLoad r) s = .next t ∧
      t.segs = (s1.segs.filter fun g => !segs.any fun x => x.2.1 == g.idx) ++ segs.map (segFor r.file ss place c.id) ∧
      t.rep.msgs.getLast? = some (.answer "OK" (segs.flatMap fun x => natLe 2 x.2.1 ++ bvLe x.2.2 1))) ∧
  (∀ (s : State) (r : LoadReq) (c : Ctx), s.ctx? r.ctx = some c → badFile r c = none →
    (∀ e, s.loadFile r c [] [] (State.resolverFor r r.ctx) = .error e → exec (.segmentLoad r) s = .next (s.loadAnswer e [])) ∧
    (∀ t segs, s.loadFile r c [] [] (State.resolverFor r r.ctx) = .ok (t, segs) →
      exec (.segmentLoad r) s = .next (t.loadAnswer "OK" (segs.flatMap fun x => natLe 2 x.2.1 ++ bvLe x.2.2 1))) ∧
    (s.allotSegs (ordinals (secsOf r.file)) [] = none → exec (.segmentLoad r) s = .next (s.loadAnswer "NOSEG" []))) ∧
  (∀ (s : State) (r : LoadReq) (c : Ctx) (used : List Nat) (taken : List (Nat × Nat)), s.ctx? r.ctx = some c →
    ((s.checkEntry r.ctx c.resolver [.live]).isSome = true → State.resolverFor r r.ctx s used taken = .ok (s, c.resolver)) ∧
    ((s.checkEntry r.ctx c.resolver [.live]).isSome = false →
      badFile { r with file := r.rslv, place := r.rslvPlace, swap := false } c = none → resolverOk r.rslv = false →
      State.resolverFor r r.ctx s used taken = .error "BADFMT")) ∧
  (∀ (s : State) (ctx old new : Nat) (c : Ctx) (o n : Seg), s.ctx? ctx = some c → s.seg? old = some o → s.seg? new = some n →
    (c.objs.any fun x => x.segs.contains old && x.segs.contains new) = true → o.state = .live → n.state = .live → o.owner = ctx →
    ∃ t, exec (.segmentRetire ctx old new) s = .next t ∧
      ((t.seg? old).map (·.state) = some .retired ∨ (t.seg? old).map (·.state) = some .free)) ∧
  (∀ (s : State) (ctx obj : Nat) (c : Ctx) (o : Obj), s.obj? ctx obj = some (c, o) →
    let gs := s.segsOf o
    let idle := gs.all fun g => (g.state == .live || g.state == .retired) && s.refc g == 0
    (idle = false → exec (.unload ctx obj) s = .next (s.loadAnswer "BUSY" [])) ∧
    (idle = true → exec (.unload ctx obj) s = .next
      (((gs.foldl (fun (t : State) g => t.freeSegment g) (s.unbind ctx gs)).dropObj ctx obj).loadAnswer "OK" [])) ∧
    (let live := gs.filter fun g => g.state == .live || g.state == .retired
      let s1 := live.foldl (fun (t : State) (g : Seg) => (t.unmapSeg g).setSeg g.idx .revoked) (s.unbind ctx live)
      let s2 := (c.ownLinks o).foldl (fun (t : State) (va : Nat) => t.loaderStore ctx va 0) s1
      exec (.forcedUnload ctx obj) s = .next ((s2.dropObj ctx obj).sweepSegs.loadAnswer "OK" [])) ∧
    (∃ t, exec (.forcedUnload ctx obj) s = .next t ∧ t.rep.msgs.getLast? = some (.answer "OK" []) ∧
      (∀ d, t.ctx? ctx = some d → ∀ x ∈ d.objs, x.id ≠ obj) ∧
      (∀ g ∈ gs, g.state = .live ∨ g.state = .retired →
        (t.seg? g.idx).map (·.state) = some .revoked ∨ (t.seg? g.idx).map (·.state) = some .free))) ∧
  (∀ (s : State) (ctx : Nat) (c : Ctx) (gs : List Seg), s.ctx? ctx = some c → s.unbind ctx gs =
    (((c.objs.flatMap fun x => x.cells.map (·.2) ++ x.slots.map (·.1)).dedup).filter fun va => gs.any fun g =>
      (capSeg (s.loaderRead ctx va)).toNat == g.idx && capGen (s.loaderRead ctx va) == g.gen).foldl
        (fun (t : State) (va : Nat) => t.loaderStore ctx va 0) s) ∧
  (∀ (s s1 : State) (ctx va : Nat) (h : Home) (x : DWord), s.homeOf ctx va .write = (s1, .ok h) →
    s.loaderStore ctx va x = (s1.homeWrite ctx nCores 0 h (va % 128) (bvLe x 8)).1) ∧
  (∀ (s : State) (core : Nat) (v : Word), core < nCores →
    let q := s.seqOf core
    let q1 : Seqr := { q with
      flag := v.getLsbD 30
      link := (v.extractLsb' 16 14).toNat
      upc := if q.en then q.upc else (v.extractLsb' 0 14).toNat }
    (v.getLsbD 31 = q.en → exec (.seqmWrite core v) s = .next (s.putSeqr q1)) ∧
    (v.getLsbD 31 = true → q.en = false → (∀ h ∈ s.residents core, h.seqr = true) →
      exec (.seqmWrite core v) s = .next (s.startSeq q1)) ∧
    (∀ h, v.getLsbD 31 = false → q.en = true → s.sheaf? q.uid = some h →
      ∃ t, exec (.seqmWrite core v) s = .next t ∧ SeqEnds s t h fun _ => q1)) ∧
  (∀ (w : DWord) (a : Nat) (q : Seqr), nextMicro w a q = (match (w.extractLsb' 62 2).toNat with
    | 0 => (a + 1) % 16384
    | 1 => (w.extractLsb' 48 14).toNat
    | 2 => if q.flag then (w.extractLsb' 48 14).toNat else (a + 1) % 16384
    | _ => q.link)) ∧
  (∀ (s : State) (core : Nat) (q : Seqr) (h : Sheaf), s.seqr? core = some q → s.sheaf? q.uid = some h → q.en = true →
    h.fbuf = none → s.canIssue h = true →
    let a := q.next.getD q.upc
    let w : DWord := BitVec.ofNat 64 (leNat (s.scrRead (core * 524288 + 8 * a) 8))
    s.scrBad (core * 524288 + 8 * a) 8 = false → w.extractLsb' 32 16 = 0 →
    exec (.microword core) s = .next ((s.putSeqr { q with
      upc := a
      next := some (nextMicro w a q)
      link := if w.extractLsb' 62 2 == 1 then (a + 1) % 16384 else q.link
      chain0 := if h.chain.pc0.isNone then none else q.chain0 }).putSheaf { h with fbuf := some (w.extractLsb' 0 32) }))

/-- 20/R421 to R437, 19/R414, 08/R248, 01/R16. -/
def Obligations.HealthAndPower : Prop :=
  (∀ (s : State) (die : Nat) (v : Word), die < 4 → (v.extractLsb' 16 5).toNat < 24 →
    let sel := (v.extractLsb' 16 5).toNat
    ∃ t, exec (.waymkWrite die v) s = .next t ∧ t.waysOf (die * 24 + sel) =
      { s.waysOf (die * 24 + sel) with pend := some (v.extractLsb' 0 16) } ∧ t.waymk die =
      BitVec.ofNat 32 (2 ^ 31 + sel * 2 ^ 16 + (s.waysOf (die * 24 + sel)).mask.toNat)) ∧
  (∀ (s : State) (asid line : Nat) (h : Home), (s.mm.homes.find? fun h => h.asid == asid && h.line == line) = some h →
    (h.owed = [] → h.dirty = 0 → exec (.poolWriteCompletion asid line) s = .next s) ∧
    (h.owed ≠ [] ∨ h.dirty ≠ 0 → exec (.poolWriteCompletion asid line) s = .next (s.writeBack h)) ∧
    exec (.l2LineEviction asid line) s = .next (if h.bad == 0 && decide (h.lemax + 4 ≤ s.reading (slicePlace h.slice)) then
      (s.writeBack h).dropHome asid line else s.writeBack h)) ∧
  (∀ (s : State) (asid line : Nat) (x : BitVec 4) (h : Home), s.home? asid line = some h → h.lemax = 0 → h.writes = [] → h.hm = false →
    exec (.poisonResponse asid line x) s = .next (s.modHome h.asid h.line fun y => y.poison x)) ∧
  (∀ (h : Home) (x : BitVec 4) (k : Nat), k < 128 → (h.poison x).bad.getLsbD k = (h.bad.getLsbD k || x.getLsbD (k / 32))) ∧
  (∀ (s : State) (asid line slice : Nat), exec (.homeMigration asid line slice) s = .next
    (if s.slicesUp.contains slice && s.mm.homes.any (fun h => h.asid == asid && h.line == line && h.slice != slice) then
      (s.makeRoom slice 1).modHome asid line fun x => { x with slice := slice } else s)) ∧
  (∀ (s : State) (asid line : Nat) (h : Home), s.home? asid line = some h →
    let s1 := s.modHome h.asid h.line fun x => { x with seen := s.ctl.time }
    (Config.scrubFinds asid line s.ctl.time = 0 → exec (.patrolScrub asid line) s = .next s1) ∧
    (Config.scrubFinds asid line s.ctl.time = 1 → exec (.patrolScrub asid line) s = .next (s1.corrected (s1.sliceArray h.slice))) ∧
    (∀ n, Config.scrubFinds asid line s.ctl.time = n + 2 → exec (.patrolScrub asid line) s = .next
      ((s1.modHome h.asid line fun x => { x with bad := x.bad ||| rangeMask 128 (32 * (n % 4)) 32 }).event 2 (some (h.slice / 24))
        (some (h.slice % 24)) none (some (BitVec.ofNat 64 (line * 128 + 32 * (n % 4))))))) ∧
  (∀ (s : State) (ns : Nat) (h : Home), h ∈ s.mm.homes → s.ctl.time ≤ h.seen + 86400000000000 →
    (s.elapse ns).ctl.time ≤ h.seen + 86400000000000) ∧
  (∀ (s : State), exec .telemetryReport s = .next (if s.ctl.time % 10000000 = 0 then { s with rep := { s.rep with
    msgs := s.rep.msgs ++ [.telemetry ((List.range 8).map fun k => Config.telemetry k s.ctl.time)] } } else s)) ∧
  (∀ (s : State) (die : Nat), die < 4 → die < s.rep.clock.length → 1 < s.rep.clock.getD die 3300 →
    ∃ t, exec (.thermalThrottle die) s = .next t ∧ t.rep.clock.getD die 3300 < s.rep.clock.getD die 3300 ∧
      0 < t.rep.clock.getD die 3300 ∧ t.rep.hot.contains die = true ∧ t.sheaves = s.sheaves ∧ t.mm = s.mm) ∧
  (∀ (s : State) (die : Nat), die < 4 → s.rep.shutdown = none →
    exec (.thermalShutdown die) s = .next (State.event { s with rep := { s.rep with
      fatal := true
      shutdown := some (s.ctl.time + 1000000000) } } 0xB (some die) none none none)) ∧
  (∀ (s : State) (h : Sheaf), s.rep.shutdown.isSome = true → s.canIssue h = false) ∧
  (∀ (s : State) (t0 : Nat), s.rep.shutdown = some t0 → t0 ≤ s.ctl.time →
    ∃ t, exec .powerRemoval s = .next t ∧ t.mm.pool = s.mm.pool ∧ t.mm.host = s.mm.host ∧ t.mm.scr = [] ∧ t.sheaves = [] ∧
      t.ctxs = [] ∧ t.sys.statuses = s.sys.statuses ∧ t.rep.fuse = s.rep.fuse ∧ t.rep.out = s.rep.out ∧ t.rep.booted = false) ∧
  (∀ (s : State), s.rep.booted = false → s.bootable s.rep.imgA = true → s.rep.imgB = none →
    ∃ t, exec .boot s = .next t ∧ t.rep.booted = true ∧ t.rep.runB = false ∧ t.cmdPort = some portBox ∧
      (∀ k ∈ (List.range 12), (t.waysOf (8 * k)).mask = 0x7FFF) ∧ (∀ k < 24, (t.mbx? (queueBox k).head) = some (queueBox k))) ∧
  (∀ (s : State) (i : FwImage), s.rep.restarting = false → exec (.firmwareUpdate i) s = .next
    (let x := if imageSigned i.bytes i.svn then some i else none
     if s.rep.runB then { s with rep := { s.rep with imgA := x } } else { s with rep := { s.rep with imgB := x } })) ∧
  (∀ (s : State) (i : FwImage), (if s.rep.runB then s.rep.imgA else s.rep.imgB) = some i → s.rep.restarting = false →
    exec .firmwareActivate s = .next (if i.svn < s.rep.fuse then s else { s with rep := { s.rep with
      runB := !s.rep.runB
      restarting := true
      fuse := max s.rep.fuse i.svn } })) ∧
  (∀ (s : State) (rates : List Nat), s.rep.restarting = true → ∃ t, exec (.newImageTakeover rates) s = .next t ∧
    t.rep.restarting = false ∧ ∀ (c : Ctx) (k d r : Nat) (e : Energy), s.ctxs[k]? = some c → c.energy[d]? = some e →
      rates[4 * k + d]? = some r → ((t.ctxs[k]?).bind fun x => x.energy[d]?) = some { e with rate := r % 2 ^ 24 }) ∧
  (∀ (s : State) (die mhz : Nat), die < 4 → 0 < mhz → mhz ≤ 3300 → s.rep.hot.contains die = false →
    ∃ t, exec (.arithmeticClockChange die mhz) s = .next t ∧ t = { s with rep := t.rep } ∧ t.rep.clock = s.rep.clock.set die mhz)

/-- 19/R412 to R420. What a flit carries is abstract (log entry 28). That a new extent is function 0's is the model's choice (log entry 95). -/
def Obligations.PoolAndFabric : Prop :=
  (∀ (s : State) (base len port : Nat), base % 2 ^ 28 = 0 → len % 2 ^ 28 = 0 → 0 < len → port < 24 → s.fab.extents.length < 4096 →
    (s.fab.extents.map fun e => e.len).sum + len ≤ 2 ^ 46 → (∀ e ∈ s.fab.extents, meets e.base e.len base len = false) →
    ∃ t, exec (.extentAdd base len port) s = .next t ∧
      t.fab = { s.fab with extents := s.fab.extents ++ [⟨base, len, port, 0⟩] } ∧
      t.mm = s.mm ∧ t.sheaves = s.sheaves) ∧
  (∀ (s : State) (base : Nat) (e : Extent), (s.fab.extents.find? fun e => e.base == base) = some e →
    ∃ t, exec (.extentReleaseRequest base) s = .next t ∧
      (s.fab.releasing.contains base = false → t.fab.extents = s.fab.extents ∧ t.fab.releasing = s.fab.releasing ++ [base] ∧ t.rep.msgs =
        s.rep.msgs ++ [.answer "EXTENT_RELEASE" (natLe 8 e.base ++ natLe 8 e.len)] ++ [.extentAnswer base false]) ∧
      (s.fab.releasing.contains base = true → s.extentUsed e.base e.len = true → t.fab = s.fab) ∧
      (s.fab.releasing.contains base = true → s.extentUsed e.base e.len = false →
        t.fab.extents = s.fab.extents.filter fun x => x.base != base) ∧ t.mm = s.mm) ∧
  (∀ (s : State) (ctx rdev rctx : Nat), exec (.fabricBindingInstall ctx rdev rctx) s = .next (if 4096 ≤ rdev then s
    else { s with fab := { s.fab with
      bindings := (ctx, rdev, rctx) :: s.fab.bindings.filter fun b => !(b.1 == ctx && b.2.1 == rdev) } })) ∧
  (∀ (s : State) (g : GroupRec), 0 < g.ncont → g.ncont ≤ 4096 → g.op.toNat ≤ 2 → exec (.reductionGroupInstall g) s = .next
    { s with fab := { s.fab with groups := g :: s.fab.groups.filter fun x => x.gid != g.gid } }) ∧
  (∀ (s : State) (n ty : Nat) (f : List Byte) (k : State → State), n < 12 → (s.link n).up = true → f.length = 256 →
    let l := s.link n
    (natAt f 248 8 = (crc64 (f.take 248)).toNat → natAt f 2 2 = l.next → natAt f 0 1 = ty → natAt f 1 1 ≤ 3 →
      s.flit n ty f k = k (s.putLink { l with next := (l.next + 1) % 65536, fails := 0 })) ∧
    (natAt f 248 8 ≠ (crc64 (f.take 248)).toNat → natAt f 2 2 = l.next → s.flit n ty f k =
      if l.fails < 8 then s.putLink { l with fails := l.fails + 1 } else (s.putLink { l with fails := l.fails + 1 }).linkDown n) ∧
    (natAt f 2 2 ≠ l.next → s.flit n ty f k = s)) ∧
  (∀ (s : State) (n : Nat) (f : List Byte) (c : Carry),
    exec (.tieFlitIdle n f) s = .next (s.flit n 0 f id) ∧ exec (.tieFlitRequest n f c) s = .next (s.flit n 1 f fun t => t.farAccess c) ∧
    exec (.tieFlitData n f c) s = .next (s.flit n 2 f fun t => (t.farAccess c).farAnswer c) ∧
    exec (.tieFlitAckCredit n f) s = .next (s.flit n 3 f id) ∧
    exec (.tieFlitReductionPartial n f c) s = .next (s.flit n 4 f fun t => t.addPartial c)) ∧
  (∀ (s s1 : State) (ctx va : Nat) (bs : List Byte) (h : Home), va % 128 + bs.length ≤ 128 → s.homeOf ctx va .write = (s1, .ok h) →
    s.farAccess (.remoteWrite ctx va bs) = (s1.homeWrite ctx nCores 0 h (va % 128) bs).1) ∧
  (∀ (s : State) (n : Nat), n < 12 → s.linkUp n = true →
    let s1 := (s.putLink { s.link n with up := false }).event 0xA (some (n / 3)) none none (some (BitVec.ofNat 64 n))
    s1.linkUp n = false ∧ (∀ m, m ≠ n → s1.linkUp m = s.linkUp m) ∧
    ∃ t, exec (.linkDeclaredDown n) s = .next t ∧ t.fab.links = s1.fab.links ∧ t.mm = s.mm ∧ t.sheaves = s.sheaves ∧
      ((∀ g ∈ s.fab.groups, Config.onTree g.gid n = false) →
        ((∀ o ∈ s.eng.ops, o.remote = true → ∀ dev base, o.farEnd = some (dev, base) → s1.linkTo dev = true) → t = s1) ∧
        (∀ o dev base, s.eng.ops.filter Op.remote = [o] → o.farEnd = some (dev, base) → s1.linkTo dev = false →
          t = s1.failOp o.id 5 6 (BitVec.ofNat 64 base)))) ∧
  (∀ (s : State) (id n : Nat) (o : Op) (h : Sheaf) (q : Shape) (v m : Nat) (f : Flags), opRuns s id o h → o.failed = false →
    o.done.contains n = false → (s.units o h).contains n = true → o.shape = some q → q.dst.sp = 3 →
    o.sector q (s.limOf h q.src) n = some (v, m, f) → exec (.remoteWriteAck id n) s = .next (s.unitDone id n f (m == 0))) ∧
  (∀ (s : State) (gid : Word) (g : GroupRec), s.group? gid = some g →
    (s.heldCount gid ≠ g.ncont → exec (.reductionRoundClose gid) s = .next s) ∧
    (s.heldCount gid = g.ncont → g.rootDev ≠ s.fab.self → exec (.reductionRoundClose gid) s = .next { s with fab := { s.fab with
      contribs := (s.fab.contribs.filter fun c => c.gid != gid) ++ (s.round gid).2 } })) ∧
  (∀ (s : State) (gid : Word) (g : GroupRec) (o : Op) (c : Contrib), s.group? gid = some g → s.heldCount gid = g.ncont →
    g.rootDev = s.fab.self →
    (s.held gid).findSome? (·.op) = some o.id → s.op? o.id = some o → o.live = true → o.resting = false → o.susp = false →
    o.rp = 1 → c ∈ s.held gid →
    ((∀ x ∈ s.held gid, x.rows = g.rows ∧ x.cols = g.cols ∧ x.kind.toNat = g.op.toNat ∧ x.ty = g.ty) →
      exec (.reductionRoundClose gid) s = .next (s.captureRound o g)) ∧
    (c.rows ≠ g.rows ∨ c.cols ≠ g.cols ∨ c.kind.toNat ≠ g.op.toNat ∨ c.ty ≠ g.ty → exec (.reductionRoundClose gid) s = .next ((s.modOp o.id fun x =>
      { x.fail 7 0x12 0 with trunc := true }).endRound gid))) ∧
  (∀ (s : State) (gid : Word) (g : GroupRec), s.group? gid = some g →
    ∃ t, exec (.groupAbort gid) s = .next t ∧
      t.fab.contribs = (s.fab.contribs.filter fun c => c.gid != gid) ++ (s.round gid).2 ∧ (t.group? gid).map (·.epoch) = some (g.epoch + 1) ∧
      t.mm = s.mm ∧ t.sheaves = s.sheaves) ∧
  (∀ (n : Nat) (cs : List Contrib), (∀ c ∈ cs, 0 < c.n) → (((takeRound n cs).1.map fun c => c.n).sum ≤ n) ∧
    ((cs.map fun c => c.n).sum ≤ n → takeRound n cs = (cs, [])) ∧ (takeRound n cs).1.length + (takeRound n cs).2.length = cs.length) ∧
  (∀ (cs : List Contrib) (ty rm j : Nat), fmtOf ty = none →
    roundElem cs 0 ty rm j = (((cs.filterMap fun c => (c.elem j).map leNat).sum) % 2 ^ 32, 0)) ∧
  (∀ (s : State) (k fn off : Nat) (b : Byte), (k < 4 → s.barByte 0 (0x1000 + k) b = byteOf s.health k) ∧
    (fn ≠ 0 → off < 0x1004 → s.barByte fn off b = 0) ∧
    (0x1004 ≤ off → s.barPos fn off 1 = none → s.barByte fn off b = 0) ∧
    (∀ c p, 0x1004 ≤ off → s.barPos fn off 1 = some (c, p) → s.mbxOver p = none → s.slmBad p 1 = false →
      s.barByte fn off b = s.mm.slm.get p)) ∧
  crc64 [0x31, 0x32, 0x33, 0x34, 0x35, 0x36, 0x37, 0x38, 0x39] = 0x6C40DF5F0B497347

/-- 20/R435, R436. Kinds and byte layouts of the answers are the model's (log entry 26). -/
def Obligations.ManagementAnswers : Prop :=
  (∀ s : State, exec .getVersion s = .next (s.answerTo "VERSION" [0x13]) ∧ exec .getCapabilities s = .next (s.answerTo "CAPABILITIES" (natLe 4 0x16)) ∧
    exec .negotiateAlgorithms s = .next (s.answerTo "ALGORITHMS" (natLe 4 0x100 ++ natLe 4 4 ++ natLe 4 8)) ∧
    exec .getDigests s = .next (s.answerTo "DIGESTS" (sha512 Config.certificateChain)) ∧
    exec .getCertificate s = .next (s.answerTo "CERTIFICATE" Config.certificateChain)) ∧
  (∀ (s : State) (n : List Byte), exec (.challenge n) s = .next (s.answerTo "CHALLENGE_AUTH" (identitySign n))) ∧
  (∀ (s : State) (k : Nat), k ≠ 0xFF → exec (.getMeasurements k) s = .next
    (s.answerTo "MEASUREMENTS" (s.measurement k ++ identitySign (sha512 (s.measurement k))))) ∧
  (∀ s : State, s.measurement 1 = Config.bootRomDigest ∧ s.measurement 3 = sha512 s.microcode ∧
    s.measurement 5 = sha512 (natLe 4 s.rep.vfs ++ natLe 1 (bitNat s.rep.sriov) ++ natLe 1 (bitNat s.rep.ats)) ∧
    s.measurement 4 = sha512 s.repairBytes ∧
    s.measurement 2 = sha512 (((s.running.map (·.bytes)).getD []) ++ natLe 4 ((s.running.map (·.svn)).getD 0))) ∧
  (∀ (s : State) (k : String) (b : List Byte), s.answerTo k b = { s with rep := { s.rep with msgs := s.rep.msgs ++ [.answer k b] } })

/-- 02/R29, 04/R105, 20/R425, R431, R433. That every byte of every memory reads 0 is the model's choice (log entry 6), as is
that TIME starts at 0 (log entry 11). -/
def Obligations.ResetAndFirstInstruction : Prop :=
  (State.reset.ctl.time = 0 ∧ State.reset.sheaves = [] ∧ State.reset.ctxs = [] ∧ State.reset.segs = [] ∧
    State.reset.health = 0x2100 ∧ (∀ die < 4, State.reset.waymk die = 0xFFFF) ∧ (∀ core, (State.reset.seqOf core).word = 0) ∧
    (∀ slice, (State.reset.waysOf slice).mask = 0xFFFF) ∧ MemOk State.reset ∧ State.reset.mm.pool = [] ∧ State.reset.mm.scr = []) ∧
  (∀ a : Nat, Mem.get [] a = 0) ∧
  (∀ (uid : Nat) (shid : Word) (x : Footprint) (ctx : Nat) (pc : Pc) (seed : Nat),
    let h := Sheaf.start uid shid x ctx pc seed
    (∀ n, h.getS n = 0) ∧ (∀ n, h.getH n = .empty) ∧ h.gw = 0 ∧ h.fflg = 0 ∧ h.dthr = 2560 ∧ h.stook = none ∧
    h.trap = ⟨0, 0, 0, 0, 0, false, none, 0⟩ ∧ h.lanes.length = x.shln ∧ h.tiles.length = x.mt ∧ h.pc = pc ∧
    (∀ l ∈ h.lanes, (∀ n, l.getV n = 0) ∧ (∀ n, l.getK n = (n == 0)) ∧ l.v.length = x.vn ∧ l.lid = l.lpos ∧ l.left = false)) ∧
  (∀ (l : Launch) (uid k cluster seed time n : Nat), n < 8 →
    (l.sheaf uid k cluster seed time).getS (56 + n) = BitVec.ofNat 32 (natAt l.packet (64 + 4 * n) 4))

/-- The encodings the spec prints beside its examples (04/R74, R80, R91; 05/R108, R115; 06/R149, R156; 07/R217, R223, R231, R236). -/
def Obligations.WorkedEncodingsDecode : Prop :=
  decode 0x40414184 = some (.fadd ⟨2, 5, 3, 4⟩) ∧ decode 0xFB200000 = some (.xmod 0x200000) ∧
  decode 0x280820A0 = some (.saluiAddi ⟨4, 4, 0xA0⟩) ∧ decode 0xF8000186 = some (.ximm 0x186) ∧
  decode 0x3002448C = some (.vintAdd ⟨0, 9, 9, 12⟩) ∧ decode 0xF9000100 = some (.xreg 0x100) ∧
  decode 0x84818014 = some (.ldu .b64 ⟨0, 6, 0, 10, 0⟩) ∧ decode 0xFC150000 = some (.xmem 0x150000) ∧
  decode 0x0A5FFFFD = some (.bru .nz ⟨5, 0xFFFFD⟩) ∧ decode 0x10100008 = some (.brd ⟨1, 8⟩) ∧ decode 0x1100000C = some (.rcv ⟨0, 12⟩) ∧
  decode 0xE0030010 = some (.csrr ⟨6, 0, 0x10⟩) ∧ decode 0xC8020A30 = some (.sjoin ⟨4, 5, 6, 0⟩) ∧
  decode 0xC8438001 = some (.sinfo ⟨7, 0, 0, 1⟩) ∧ decode 0xD0004001 = some (.nbeg ⟨0, 1, 0, 1⟩) ∧
  decode 0xD800040A = some (.spawn ⟨0, 0, 8, 10⟩) ∧ decode 0xE8021061 = some (.mpost ⟨4, 8, 12, 1⟩) ∧
  decode 0x19200000 = some (.callx ⟨2, 0⟩) ∧ decode 0x1A000000 = some (.ret ⟨0, 0⟩) ∧
  decode 0x82020215 = some (.ld .b32 ⟨0, 8, 4, 10, 1⟩) ∧ decode 0x8A024215 = some (.st .b32 ⟨0, 9, 4, 10, 1⟩) ∧
  decode 0xC02C0000 = some (.fence ⟨5, 2, 0, 0, 0⟩) ∧ decode 0xC110A2A3 = some (.bara ⟨2, 0, 20, 21, 3⟩) ∧
  decode 0xC31030E0 = some (.waita ⟨2, 0, 6, 7, 0⟩) ∧ decode 0x92018119 = some (.lds .b32 ⟨0, 6, 2, 12, 1⟩) ∧
  decode 0xA0080006 = some (.ldls ⟨0, 8, 6⟩) ∧ decode 0x48020103 = some (.fma ⟨0, 8, 2, 3⟩) ∧
  decode 0 = some .nop ∧ decode 0xFFFFFFFF = none ∧ (0xFFFFFFFF : Word).extractLsb' 27 5 = 0x1F ∧
  (0xFFFFFFFF : Word).extractLsb' 24 3 = 7 ∧
  (∀ (s : State) (h : Sheaf), s.cur? = some h → s.canIssue h = true →
    exec (.illegalInstruction 0xFFFFFFFF) s = .next (s.decodeTrap h 0xFFFFFFFF 1)) ∧
  (∀ b0 b1 b2 b3 : Byte, (wordOfBytes b0 b1 b2 b3).toNat = leNat [b0, b1, b2, b3])

/-- 04/R74 to R80: every instruction that has a word, with every operand at every value its encoding admits. -/
def Obligations.EncodingsDecodeBack : Prop :=
  (∀ i : Instr, isStep i = false → i.wf = true → decode (encode i) = some i) ∧
  (∀ i j : Instr, isStep i = false → isStep j = false → i.wf = true → j.wf = true → encode i = encode j → i = j)

/-- 02/R27, 14/R342, 16/R364, 04/R74: with an empty agenda and the turn with the sheaves (log entry 1), and what the step adds: the issue is
marked for the selector (log entry 13), the retired segments nothing refers to are freed (16/R366), and copies leave an L1 that has
been fused or is fused no longer (log entry 78). -/
def Obligations.StepRunsTheFetchedWord : Prop :=
  (∀ (s : State) (h g : Sheaf) (w : Word) (i : Instr), s.ctl.agenda = [] → s.ctl.svc = false →
    let s0 : State := { s with ctl := { s.ctl with svc := true } }
    s0.cur? = some h → s0.mayIssue h = true → (s0.fetchFor h).cur? = some g → g.fbuf = some w → decode w = some i →
    ∃ t, exec i (s0.fetchFor h) = .next t ∧ step s = Out.tidy (.next (t.stampIssue h i))) ∧
  (∀ (s : State) (h g : Sheaf) (w : Word), s.ctl.agenda = [] → s.ctl.svc = false →
    let s0 : State := { s with ctl := { s.ctl with svc := true } }
    s0.cur? = some h → s0.mayIssue h = true → (s0.fetchFor h).cur? = some g → g.fbuf = some w → decode w = none →
    step s = Out.tidy (exec (.illegalInstruction w) (s0.fetchFor h))) ∧
  (∀ (s : State) (h : Sheaf), s.ctl.agenda = [] → s.ctl.svc = false →
    let s0 : State := { s with ctl := { s.ctl with svc := true } }
    s0.cur? = some h → s0.mayIssue h = false → step s = Out.tidy (.next s0)) ∧
  (∀ (s : State) (h : Sheaf), (∀ g ∈ s.sheaves, g.uid ≠ h.uid → g.core ≠ h.core) → s.mayIssue h = true) ∧
  (∀ (s : State) (h g : Sheaf) (i j : Instr), g ∈ s.sheaves → g.uid ≠ h.uid → g.core = h.core → h.prio < g.prio →
    s.readyFor h = some i → s.readyFor g = some j → g.vectorPipe j = h.vectorPipe i → h.seqr = false → h.rdy < 512000 →
    s.mayIssue h = false) ∧
  (∀ (t : State) (h : Sheaf) (i : Instr), ∃ f : Sheaf → Sheaf, t.stampIssue h i = { t with sheaves := t.sheaves.map f } ∧
    ∀ x, f x = { x with lastU := (f x).lastU, lastV := (f x).lastV, rdy := (f x).rdy, hinted := (f x).hinted }) ∧
  (∀ (s : State) (h : Sheaf) (g : Seg) (c : ICLine), s.cur? = some h → h.fbuf = none → h.seqr = false → s.canIssue h = true →
    s.seg? h.pc.seg.toNat = some g → g.state ≠ .revoked → h.pc.off.toNat < g.len →
    s.ic? h.core (BitVec.ofNat 16 g.idx) g.gen (h.pc.off.toNat / 64) = some c →
    s.fetchFor h = s.putSheaf { h with fbuf := some (c.words.getD (h.pc.off.toNat % 64 / 4) 0) } ∧
    (s.fetchFor h).cur? = some { h with fbuf := some (c.words.getD (h.pc.off.toNat % 64 / 4) 0) }) ∧
  (∀ t : State, (∀ g ∈ t.segs, g.state ≠ .retired ∧ g.state ≠ .revoked) → (∀ c ∈ t.mm.l1, t.strayCopy c = false) → Out.tidy (.next t) = .next t)

/-- No instruction the device is given stops it: what cannot take effect is a trap, a wait, or leaves the state as it is. -/
def Obligations.EveryStepAnswers : Prop :=
  (∀ s : State, ∃ t, step s = .next t) ∧
  (∀ (i : Instr) (s : State), s.cur?.isSome = true → ∃ t, exec i s = .next t) ∧
  (∀ (i : Instr) (s : State), isStep i = true → (∀ w, i ≠ .illegalInstruction w) → ∃ t, exec i s = .next t)

/-- An invariant of the model: pool, host memory, slice memory and scratchpads list their bytes by rising address and no byte that
reads as an unlisted one does, so that equal memories are equal data. -/
def Obligations.MemoriesStayCanonical : Prop :=
  ∀ s t : State, MemOk s → step s = .next t → MemOk t
end

