-- ==== Sys2Proof/Laws/Memory.lean ====
section
/-! SUPPORT. The memories: every operation keeps the canonical form; a byte reads back what was written to it and no other
byte changes. -/

namespace Sys2Proof.Machine

/-- The form above a lower bound holds above every smaller one. -/
theorem Mem.wfFrom_mono {lo lo' : Nat} (m : Mem) (h : lo' ≤ lo) (hw : Mem.wfFrom lo m = true) : Mem.wfFrom lo' m = true := by
  cases m with
  | nil => rfl
  | cons c m =>
    obtain ⟨k, b⟩ := c
    simp only [Mem.wfFrom, Bool.and_eq_true, decide_eq_true_eq] at hw ⊢
    exact ⟨⟨Nat.le_trans h hw.1.1, hw.1.2⟩, hw.2⟩

/-- A byte below the least listed address reads zero. -/
theorem Mem.get_below {lo : Nat} (m : Mem) (hw : Mem.wfFrom lo m = true) (a : Nat) (h : a < lo) : m.get a = 0 := by
  cases m with
  | nil => rfl
  | cons c m =>
    obtain ⟨k, b⟩ := c
    simp only [Mem.wfFrom, Bool.and_eq_true, decide_eq_true_eq] at hw
    have h1 : ¬ k = a := by omega
    have h2 : a < k := by omega
    simp [Mem.get, h1, h2]

/-- The form of a memory that lists a byte first. -/
theorem Mem.wfFrom_cons (lo k : Nat) (b : Byte) (m : Mem) :
    Mem.wfFrom lo ((k, b) :: m) = true ↔ (lo ≤ k ∧ b ≠ 0#8) ∧ Mem.wfFrom (k + 1) m = true := by
  simp [Mem.wfFrom]

/-- Writing a byte keeps the canonical form. -/
theorem Mem.put_wfFrom (m : Mem) : ∀ lo a b, lo ≤ a → Mem.wfFrom lo m = true → Mem.wfFrom lo (m.put a b) = true := by
  induction m with
  | nil =>
    intro lo a b h _
    by_cases hb : b = 0#8 <;> simp [Mem.put, Mem.wfFrom, hb, h]
  | cons c m ih =>
    obtain ⟨k, x⟩ := c
    intro lo a b h hw
    obtain ⟨⟨h1, h2⟩, h3⟩ := (Mem.wfFrom_cons lo k x m).1 hw
    unfold Mem.put
    split
    · next hak =>
      split
      · exact hw
      · next hb => exact (Mem.wfFrom_cons ..).2 ⟨⟨h, hb⟩, (Mem.wfFrom_cons ..).2 ⟨⟨hak, h2⟩, h3⟩⟩
    · split
      · next _ hak =>
        subst hak
        split
        · exact Mem.wfFrom_mono m (by omega) h3
        · next hb => exact (Mem.wfFrom_cons ..).2 ⟨⟨h, hb⟩, h3⟩
      · next hlt hne =>
        exact (Mem.wfFrom_cons ..).2 ⟨⟨h1, h2⟩, ih (k + 1) a b (by omega) h3⟩

/-- Writing a byte keeps the canonical form. -/
theorem Mem.put_wf (m : Mem) (a : Nat) (b : Byte) (h : m.wf = true) : (m.put a b).wf = true :=
  Mem.put_wfFrom m 0 a b (Nat.zero_le a) h

/-- Writing bytes keeps the canonical form. -/
theorem Mem.write_wf (bs : List Byte) : ∀ (m : Mem) (a : Nat), m.wf = true → (m.write a bs).wf = true := by
  induction bs with
  | nil => intro m a h; exact h
  | cons b bs ih => intro m a h; exact ih _ _ (Mem.put_wf m a b h)

/-- Clearing a range keeps the canonical form. -/
theorem Mem.clear_wfFrom (m : Mem) (a n : Nat) : ∀ lo, Mem.wfFrom lo m = true → Mem.wfFrom lo (m.clear a n) = true := by
  induction m with
  | nil => intro lo h; exact h
  | cons c m ih =>
    obtain ⟨k, x⟩ := c
    intro lo hw
    have hw := (Mem.wfFrom_cons lo k x m).1 hw
    have h3 := ih (k + 1) hw.2
    unfold Mem.clear at h3 ⊢
    rw [List.filter_cons]
    split
    · exact (Mem.wfFrom_cons ..).2 ⟨hw.1, h3⟩
    · exact Mem.wfFrom_mono _ (by omega) h3

/-- Clearing a range keeps the canonical form. -/
theorem Mem.clear_wf (m : Mem) (a n : Nat) (h : m.wf = true) : (m.clear a n).wf = true := Mem.clear_wfFrom m a n 0 h

/-- A byte reads what was written to it; another byte reads as before. -/
theorem Mem.get_putFrom (m : Mem) : ∀ lo a b c, Mem.wfFrom lo m = true →
    (m.put a b).get c = if c = a then b else m.get c := by
  induction m with
  | nil =>
    intro lo a b c _
    by_cases hb : b = 0#8
    · subst hb; simp [Mem.put, Mem.get]
    · by_cases hc : c = a
      · subst hc; simp [Mem.put, Mem.get, hb]
      · have : ¬ a = c := fun e => hc e.symm
        simp [Mem.put, Mem.get, hb, hc, this]
  | cons d m ih =>
    obtain ⟨k, x⟩ := d
    intro lo a b c hw
    obtain ⟨⟨h1, h2⟩, h3⟩ := (Mem.wfFrom_cons lo k x m).1 hw
    unfold Mem.put
    split
    · next hak =>
      split
      · next hb =>
        subst hb
        by_cases hc : c = a
        · subst hc
          have e1 : ¬ k = c := by omega
          simp [Mem.get, e1, hak]
        · simp [hc]
      · next hb =>
        by_cases hc : c = a
        · subst hc; simp [Mem.get]
        · have e1 : ¬ a = c := fun e => hc e.symm
          by_cases hlt : c < a
          · have e2 : ¬ k = c := by omega
            have e3 : c < k := by omega
            simp [Mem.get, e1, hlt, hc, e2, e3]
          · simp [Mem.get, e1, hlt, hc]
    · split
      · next _ hak =>
        subst hak
        split
        · next hb =>
          subst hb
          by_cases hc : c = a
          · subst hc; simp [Mem.get_below m h3 c (by omega)]
          · have e1 : ¬ a = c := fun e => hc e.symm
            simp only [hc, if_false]
            by_cases hlt : c < a
            · simp [Mem.get, e1, hlt, Mem.get_below m h3 c (by omega)]
            · simp [Mem.get, e1, hlt]
        · next hb =>
          by_cases hc : c = a
          · subst hc; simp [Mem.get]
          · have e1 : ¬ a = c := fun e => hc e.symm
            simp [Mem.get, e1, hc]
      · next hlt hne =>
        by_cases hk : k = c
        · subst hk
          have e1 : ¬ k = a := fun e => hne e.symm
          simp [Mem.get, e1]
        · by_cases hck : c < k
          · have e1 : ¬ c = a := by omega
            simp [Mem.get, hk, hck, e1]
          · simp [Mem.get, hk, hck, ih (k + 1) a b c h3]

/-- A byte reads what was written to it; another byte reads as before. -/
theorem Mem.get_put (m : Mem) (a : Nat) (b : Byte) (c : Nat) (h : m.wf = true) :
    (m.put a b).get c = if c = a then b else m.get c := Mem.get_putFrom m 0 a b c h

/-- A byte outside the bytes written reads as before. -/
theorem Mem.get_write_other (bs : List Byte) : ∀ (m : Mem) (a c : Nat), m.wf = true → (c < a ∨ a + bs.length ≤ c) →
    (m.write a bs).get c = m.get c := by
  induction bs with
  | nil => intro m a c _ _; rfl
  | cons b bs ih =>
    intro m a c h hc
    have hl : (b :: bs).length = bs.length + 1 := rfl
    have := ih (m.put a b) (a + 1) c (Mem.put_wf m a b h) (by omega)
    simp only [Mem.write, this, Mem.get_put m a b c h]
    have : ¬ c = a := by omega
    simp [this]

/-- A byte written reads as written. -/
theorem Mem.get_write (bs : List Byte) : ∀ (m : Mem) (a i : Nat), m.wf = true → (hi : i < bs.length) →
    (m.write a bs).get (a + i) = bs[i] := by
  induction bs with
  | nil => intro m a i _ hi; exact absurd hi (by simp)
  | cons b bs ih =>
    intro m a i h hi
    cases i with
    | zero =>
      have := Mem.get_write_other bs (m.put a b) (a + 1) a (Mem.put_wf m a b h) (by omega)
      simp [Mem.write, this, Mem.get_put m a b a h]
    | succ i =>
      have := ih (m.put a b) (a + 1) i (Mem.put_wf m a b h) (by simpa using hi)
      have e : a + (i + 1) = a + 1 + i := by omega
      simp [Mem.write, e, this]

/-- Reading back the bytes written. -/
theorem Mem.read_write (m : Mem) (a : Nat) (bs : List Byte) (h : m.wf = true) : (m.write a bs).read a bs.length = bs := by
  apply List.ext_getElem
  · simp [Mem.read]
  · intro i h1 h2
    simp [Mem.read, Mem.get_write bs m a i h h2]

/-- A little-endian number of n bytes reads back from its bytes. -/
theorem leNat_natLe (n : Nat) : ∀ x, leNat (natLe n x) = x % 256 ^ n := by
  induction n with
  | zero => intro x; simp [natLe, leNat, Nat.mod_one]
  | succ n ih =>
    intro x
    have e : (256 : Nat) ^ (n + 1) = 256 * 256 ^ n := by rw [Nat.pow_succ, Nat.mul_comm]
    rw [e, Nat.mod_mul, natLe, leNat, ih, BitVec.toNat_ofNat]

/-- The number of bytes. -/
theorem natLe_length (n : Nat) : ∀ x, (natLe n x).length = n := by
  induction n with
  | zero => intro x; rfl
  | succ n ih => intro x; simp [natLe, ih]

end Sys2Proof.Machine
end

