-- ==== Sys2Proof/Laws/State.lean ====
section
/-! SUPPORT. What each update of the state and of a sheaf leaves alone: one lemma per field per update. -/

namespace Sys2Proof.Machine

/-! `State.draw` -/
@[simp] theorem State.draw_sheaves (s : State) (k : Nat) : (s.draw k).sheaves = s.sheaves := rfl
@[simp] theorem State.draw_ctxs (s : State) (k : Nat) : (s.draw k).ctxs = s.ctxs := rfl
@[simp] theorem State.draw_segs (s : State) (k : Nat) : (s.draw k).segs = s.segs := rfl
@[simp] theorem State.draw_mm (s : State) (k : Nat) : (s.draw k).mm = s.mm := rfl
@[simp] theorem State.draw_stk (s : State) (k : Nat) : (s.draw k).stk = s.stk := rfl
@[simp] theorem State.draw_eng (s : State) (k : Nat) : (s.draw k).eng = s.eng := rfl
@[simp] theorem State.draw_flt (s : State) (k : Nat) : (s.draw k).flt = s.flt := rfl
@[simp] theorem State.draw_job (s : State) (k : Nat) : (s.draw k).job = s.job := rfl
@[simp] theorem State.draw_sys (s : State) (k : Nat) : (s.draw k).sys = s.sys := rfl
@[simp] theorem State.draw_rep (s : State) (k : Nat) : (s.draw k).rep = s.rep := rfl
@[simp] theorem State.draw_fab (s : State) (k : Nat) : (s.draw k).fab = s.fab := rfl
@[simp] theorem State.draw_seqs (s : State) (k : Nat) : (s.draw k).seqs = s.seqs := rfl

/-! `State.fresh` -/
@[simp] theorem State.fresh_sheaves (s : State) (k : Nat) : (s.fresh k).sheaves = s.sheaves := rfl
@[simp] theorem State.fresh_ctxs (s : State) (k : Nat) : (s.fresh k).ctxs = s.ctxs := rfl
@[simp] theorem State.fresh_segs (s : State) (k : Nat) : (s.fresh k).segs = s.segs := rfl
@[simp] theorem State.fresh_mm (s : State) (k : Nat) : (s.fresh k).mm = s.mm := rfl
@[simp] theorem State.fresh_stk (s : State) (k : Nat) : (s.fresh k).stk = s.stk := rfl
@[simp] theorem State.fresh_eng (s : State) (k : Nat) : (s.fresh k).eng = s.eng := rfl
@[simp] theorem State.fresh_flt (s : State) (k : Nat) : (s.fresh k).flt = s.flt := rfl
@[simp] theorem State.fresh_job (s : State) (k : Nat) : (s.fresh k).job = s.job := rfl
@[simp] theorem State.fresh_sys (s : State) (k : Nat) : (s.fresh k).sys = s.sys := rfl
@[simp] theorem State.fresh_rep (s : State) (k : Nat) : (s.fresh k).rep = s.rep := rfl
@[simp] theorem State.fresh_fab (s : State) (k : Nat) : (s.fresh k).fab = s.fab := rfl
@[simp] theorem State.fresh_seqs (s : State) (k : Nat) : (s.fresh k).seqs = s.seqs := rfl

/-! `State.putSheaf` -/
@[simp] theorem State.putSheaf_ctl (s : State) (h : Sheaf) : (s.putSheaf h).ctl = s.ctl := rfl
@[simp] theorem State.putSheaf_ctxs (s : State) (h : Sheaf) : (s.putSheaf h).ctxs = s.ctxs := rfl
@[simp] theorem State.putSheaf_segs (s : State) (h : Sheaf) : (s.putSheaf h).segs = s.segs := rfl
@[simp] theorem State.putSheaf_mm (s : State) (h : Sheaf) : (s.putSheaf h).mm = s.mm := rfl
@[simp] theorem State.putSheaf_stk (s : State) (h : Sheaf) : (s.putSheaf h).stk = s.stk := rfl
@[simp] theorem State.putSheaf_eng (s : State) (h : Sheaf) : (s.putSheaf h).eng = s.eng := rfl
@[simp] theorem State.putSheaf_flt (s : State) (h : Sheaf) : (s.putSheaf h).flt = s.flt := rfl
@[simp] theorem State.putSheaf_job (s : State) (h : Sheaf) : (s.putSheaf h).job = s.job := rfl
@[simp] theorem State.putSheaf_sys (s : State) (h : Sheaf) : (s.putSheaf h).sys = s.sys := rfl
@[simp] theorem State.putSheaf_rep (s : State) (h : Sheaf) : (s.putSheaf h).rep = s.rep := rfl
@[simp] theorem State.putSheaf_fab (s : State) (h : Sheaf) : (s.putSheaf h).fab = s.fab := rfl
@[simp] theorem State.putSheaf_seqs (s : State) (h : Sheaf) : (s.putSheaf h).seqs = s.seqs := rfl

/-! `State.modSheaf` -/
@[simp] theorem State.modSheaf_ctl (s : State) (u : Nat) (f : Sheaf → Sheaf) : (s.modSheaf u f).ctl = s.ctl := rfl
@[simp] theorem State.modSheaf_ctxs (s : State) (u : Nat) (f : Sheaf → Sheaf) : (s.modSheaf u f).ctxs = s.ctxs := rfl
@[simp] theorem State.modSheaf_segs (s : State) (u : Nat) (f : Sheaf → Sheaf) : (s.modSheaf u f).segs = s.segs := rfl
@[simp] theorem State.modSheaf_mm (s : State) (u : Nat) (f : Sheaf → Sheaf) : (s.modSheaf u f).mm = s.mm := rfl
@[simp] theorem State.modSheaf_stk (s : State) (u : Nat) (f : Sheaf → Sheaf) : (s.modSheaf u f).stk = s.stk := rfl
@[simp] theorem State.modSheaf_eng (s : State) (u : Nat) (f : Sheaf → Sheaf) : (s.modSheaf u f).eng = s.eng := rfl
@[simp] theorem State.modSheaf_flt (s : State) (u : Nat) (f : Sheaf → Sheaf) : (s.modSheaf u f).flt = s.flt := rfl
@[simp] theorem State.modSheaf_job (s : State) (u : Nat) (f : Sheaf → Sheaf) : (s.modSheaf u f).job = s.job := rfl
@[simp] theorem State.modSheaf_sys (s : State) (u : Nat) (f : Sheaf → Sheaf) : (s.modSheaf u f).sys = s.sys := rfl
@[simp] theorem State.modSheaf_rep (s : State) (u : Nat) (f : Sheaf → Sheaf) : (s.modSheaf u f).rep = s.rep := rfl
@[simp] theorem State.modSheaf_fab (s : State) (u : Nat) (f : Sheaf → Sheaf) : (s.modSheaf u f).fab = s.fab := rfl
@[simp] theorem State.modSheaf_seqs (s : State) (u : Nat) (f : Sheaf → Sheaf) : (s.modSheaf u f).seqs = s.seqs := rfl

/-! `State.modCtx` -/
@[simp] theorem State.modCtx_ctl (s : State) (c : Nat) (f : Ctx → Ctx) : (s.modCtx c f).ctl = s.ctl := rfl
@[simp] theorem State.modCtx_sheaves (s : State) (c : Nat) (f : Ctx → Ctx) : (s.modCtx c f).sheaves = s.sheaves := rfl
@[simp] theorem State.modCtx_segs (s : State) (c : Nat) (f : Ctx → Ctx) : (s.modCtx c f).segs = s.segs := rfl
@[simp] theorem State.modCtx_mm (s : State) (c : Nat) (f : Ctx → Ctx) : (s.modCtx c f).mm = s.mm := rfl
@[simp] theorem State.modCtx_stk (s : State) (c : Nat) (f : Ctx → Ctx) : (s.modCtx c f).stk = s.stk := rfl
@[simp] theorem State.modCtx_eng (s : State) (c : Nat) (f : Ctx → Ctx) : (s.modCtx c f).eng = s.eng := rfl
@[simp] theorem State.modCtx_flt (s : State) (c : Nat) (f : Ctx → Ctx) : (s.modCtx c f).flt = s.flt := rfl
@[simp] theorem State.modCtx_job (s : State) (c : Nat) (f : Ctx → Ctx) : (s.modCtx c f).job = s.job := rfl
@[simp] theorem State.modCtx_sys (s : State) (c : Nat) (f : Ctx → Ctx) : (s.modCtx c f).sys = s.sys := rfl
@[simp] theorem State.modCtx_rep (s : State) (c : Nat) (f : Ctx → Ctx) : (s.modCtx c f).rep = s.rep := rfl
@[simp] theorem State.modCtx_fab (s : State) (c : Nat) (f : Ctx → Ctx) : (s.modCtx c f).fab = s.fab := rfl
@[simp] theorem State.modCtx_seqs (s : State) (c : Nat) (f : Ctx → Ctx) : (s.modCtx c f).seqs = s.seqs := rfl

/-! `State.modSeqr` -/
@[simp] theorem State.modSeqr_ctl (s : State) (c : Nat) (f : Seqr → Seqr) : (s.modSeqr c f).ctl = s.ctl := rfl
@[simp] theorem State.modSeqr_sheaves (s : State) (c : Nat) (f : Seqr → Seqr) : (s.modSeqr c f).sheaves = s.sheaves := rfl
@[simp] theorem State.modSeqr_ctxs (s : State) (c : Nat) (f : Seqr → Seqr) : (s.modSeqr c f).ctxs = s.ctxs := rfl
@[simp] theorem State.modSeqr_segs (s : State) (c : Nat) (f : Seqr → Seqr) : (s.modSeqr c f).segs = s.segs := rfl
@[simp] theorem State.modSeqr_mm (s : State) (c : Nat) (f : Seqr → Seqr) : (s.modSeqr c f).mm = s.mm := rfl
@[simp] theorem State.modSeqr_stk (s : State) (c : Nat) (f : Seqr → Seqr) : (s.modSeqr c f).stk = s.stk := rfl
@[simp] theorem State.modSeqr_eng (s : State) (c : Nat) (f : Seqr → Seqr) : (s.modSeqr c f).eng = s.eng := rfl
@[simp] theorem State.modSeqr_flt (s : State) (c : Nat) (f : Seqr → Seqr) : (s.modSeqr c f).flt = s.flt := rfl
@[simp] theorem State.modSeqr_job (s : State) (c : Nat) (f : Seqr → Seqr) : (s.modSeqr c f).job = s.job := rfl
@[simp] theorem State.modSeqr_sys (s : State) (c : Nat) (f : Seqr → Seqr) : (s.modSeqr c f).sys = s.sys := rfl
@[simp] theorem State.modSeqr_rep (s : State) (c : Nat) (f : Seqr → Seqr) : (s.modSeqr c f).rep = s.rep := rfl
@[simp] theorem State.modSeqr_fab (s : State) (c : Nat) (f : Seqr → Seqr) : (s.modSeqr c f).fab = s.fab := rfl

/-! `State.modOp` -/
@[simp] theorem State.modOp_ctl (s : State) (o : Nat) (f : Op → Op) : (s.modOp o f).ctl = s.ctl := rfl
@[simp] theorem State.modOp_sheaves (s : State) (o : Nat) (f : Op → Op) : (s.modOp o f).sheaves = s.sheaves := rfl
@[simp] theorem State.modOp_ctxs (s : State) (o : Nat) (f : Op → Op) : (s.modOp o f).ctxs = s.ctxs := rfl
@[simp] theorem State.modOp_segs (s : State) (o : Nat) (f : Op → Op) : (s.modOp o f).segs = s.segs := rfl
@[simp] theorem State.modOp_mm (s : State) (o : Nat) (f : Op → Op) : (s.modOp o f).mm = s.mm := rfl
@[simp] theorem State.modOp_stk (s : State) (o : Nat) (f : Op → Op) : (s.modOp o f).stk = s.stk := rfl
@[simp] theorem State.modOp_flt (s : State) (o : Nat) (f : Op → Op) : (s.modOp o f).flt = s.flt := rfl
@[simp] theorem State.modOp_job (s : State) (o : Nat) (f : Op → Op) : (s.modOp o f).job = s.job := rfl
@[simp] theorem State.modOp_sys (s : State) (o : Nat) (f : Op → Op) : (s.modOp o f).sys = s.sys := rfl
@[simp] theorem State.modOp_rep (s : State) (o : Nat) (f : Op → Op) : (s.modOp o f).rep = s.rep := rfl
@[simp] theorem State.modOp_fab (s : State) (o : Nat) (f : Op → Op) : (s.modOp o f).fab = s.fab := rfl
@[simp] theorem State.modOp_seqs (s : State) (o : Nat) (f : Op → Op) : (s.modOp o f).seqs = s.seqs := rfl

/-! `State.modMbx` -/
@[simp] theorem State.modMbx_ctl (s : State) (m : Nat) (f : Mbx → Mbx) : (s.modMbx m f).ctl = s.ctl := rfl
@[simp] theorem State.modMbx_sheaves (s : State) (m : Nat) (f : Mbx → Mbx) : (s.modMbx m f).sheaves = s.sheaves := rfl
@[simp] theorem State.modMbx_ctxs (s : State) (m : Nat) (f : Mbx → Mbx) : (s.modMbx m f).ctxs = s.ctxs := rfl
@[simp] theorem State.modMbx_segs (s : State) (m : Nat) (f : Mbx → Mbx) : (s.modMbx m f).segs = s.segs := rfl
@[simp] theorem State.modMbx_mm (s : State) (m : Nat) (f : Mbx → Mbx) : (s.modMbx m f).mm = s.mm := rfl
@[simp] theorem State.modMbx_stk (s : State) (m : Nat) (f : Mbx → Mbx) : (s.modMbx m f).stk = s.stk := rfl
@[simp] theorem State.modMbx_eng (s : State) (m : Nat) (f : Mbx → Mbx) : (s.modMbx m f).eng = s.eng := rfl
@[simp] theorem State.modMbx_flt (s : State) (m : Nat) (f : Mbx → Mbx) : (s.modMbx m f).flt = s.flt := rfl
@[simp] theorem State.modMbx_sys (s : State) (m : Nat) (f : Mbx → Mbx) : (s.modMbx m f).sys = s.sys := rfl
@[simp] theorem State.modMbx_rep (s : State) (m : Nat) (f : Mbx → Mbx) : (s.modMbx m f).rep = s.rep := rfl
@[simp] theorem State.modMbx_fab (s : State) (m : Nat) (f : Mbx → Mbx) : (s.modMbx m f).fab = s.fab := rfl
@[simp] theorem State.modMbx_seqs (s : State) (m : Nat) (f : Mbx → Mbx) : (s.modMbx m f).seqs = s.seqs := rfl

/-! `State.sendBatches` -/
@[simp] theorem State.sendBatches_ctl (s : State) (u : Nat) : (s.sendBatches u).ctl = s.ctl := rfl
@[simp] theorem State.sendBatches_sheaves (s : State) (u : Nat) : (s.sendBatches u).sheaves = s.sheaves := rfl
@[simp] theorem State.sendBatches_ctxs (s : State) (u : Nat) : (s.sendBatches u).ctxs = s.ctxs := rfl
@[simp] theorem State.sendBatches_segs (s : State) (u : Nat) : (s.sendBatches u).segs = s.segs := rfl
@[simp] theorem State.sendBatches_mm (s : State) (u : Nat) : (s.sendBatches u).mm = s.mm := rfl
@[simp] theorem State.sendBatches_eng (s : State) (u : Nat) : (s.sendBatches u).eng = s.eng := rfl
@[simp] theorem State.sendBatches_flt (s : State) (u : Nat) : (s.sendBatches u).flt = s.flt := rfl
@[simp] theorem State.sendBatches_job (s : State) (u : Nat) : (s.sendBatches u).job = s.job := rfl
@[simp] theorem State.sendBatches_sys (s : State) (u : Nat) : (s.sendBatches u).sys = s.sys := rfl
@[simp] theorem State.sendBatches_rep (s : State) (u : Nat) : (s.sendBatches u).rep = s.rep := rfl
@[simp] theorem State.sendBatches_fab (s : State) (u : Nat) : (s.sendBatches u).fab = s.fab := rfl
@[simp] theorem State.sendBatches_seqs (s : State) (u : Nat) : (s.sendBatches u).seqs = s.seqs := rfl

/-! `State.modHome` -/
@[simp] theorem State.modHome_ctl (s : State) (a l : Nat) (f : Home → Home) : (s.modHome a l f).ctl = s.ctl := rfl
@[simp] theorem State.modHome_sheaves (s : State) (a l : Nat) (f : Home → Home) : (s.modHome a l f).sheaves = s.sheaves := rfl
@[simp] theorem State.modHome_ctxs (s : State) (a l : Nat) (f : Home → Home) : (s.modHome a l f).ctxs = s.ctxs := rfl
@[simp] theorem State.modHome_segs (s : State) (a l : Nat) (f : Home → Home) : (s.modHome a l f).segs = s.segs := rfl
@[simp] theorem State.modHome_stk (s : State) (a l : Nat) (f : Home → Home) : (s.modHome a l f).stk = s.stk := rfl
@[simp] theorem State.modHome_eng (s : State) (a l : Nat) (f : Home → Home) : (s.modHome a l f).eng = s.eng := rfl
@[simp] theorem State.modHome_flt (s : State) (a l : Nat) (f : Home → Home) : (s.modHome a l f).flt = s.flt := rfl
@[simp] theorem State.modHome_job (s : State) (a l : Nat) (f : Home → Home) : (s.modHome a l f).job = s.job := rfl
@[simp] theorem State.modHome_sys (s : State) (a l : Nat) (f : Home → Home) : (s.modHome a l f).sys = s.sys := rfl
@[simp] theorem State.modHome_rep (s : State) (a l : Nat) (f : Home → Home) : (s.modHome a l f).rep = s.rep := rfl
@[simp] theorem State.modHome_fab (s : State) (a l : Nat) (f : Home → Home) : (s.modHome a l f).fab = s.fab := rfl
@[simp] theorem State.modHome_seqs (s : State) (a l : Nat) (f : Home → Home) : (s.modHome a l f).seqs = s.seqs := rfl

/-! `State.dropCopies` -/
@[simp] theorem State.dropCopies_ctl (s : State) (p : Copy → Bool) : (s.dropCopies p).ctl = s.ctl := rfl
@[simp] theorem State.dropCopies_sheaves (s : State) (p : Copy → Bool) : (s.dropCopies p).sheaves = s.sheaves := rfl
@[simp] theorem State.dropCopies_ctxs (s : State) (p : Copy → Bool) : (s.dropCopies p).ctxs = s.ctxs := rfl
@[simp] theorem State.dropCopies_segs (s : State) (p : Copy → Bool) : (s.dropCopies p).segs = s.segs := rfl
@[simp] theorem State.dropCopies_stk (s : State) (p : Copy → Bool) : (s.dropCopies p).stk = s.stk := rfl
@[simp] theorem State.dropCopies_eng (s : State) (p : Copy → Bool) : (s.dropCopies p).eng = s.eng := rfl
@[simp] theorem State.dropCopies_flt (s : State) (p : Copy → Bool) : (s.dropCopies p).flt = s.flt := rfl
@[simp] theorem State.dropCopies_job (s : State) (p : Copy → Bool) : (s.dropCopies p).job = s.job := rfl
@[simp] theorem State.dropCopies_sys (s : State) (p : Copy → Bool) : (s.dropCopies p).sys = s.sys := rfl
@[simp] theorem State.dropCopies_rep (s : State) (p : Copy → Bool) : (s.dropCopies p).rep = s.rep := rfl
@[simp] theorem State.dropCopies_fab (s : State) (p : Copy → Bool) : (s.dropCopies p).fab = s.fab := rfl
@[simp] theorem State.dropCopies_seqs (s : State) (p : Copy → Bool) : (s.dropCopies p).seqs = s.seqs := rfl

@[simp] theorem State.modHome_pool (s : State) (a l : Nat) (f : Home → Home) : (s.modHome a l f).mm.pool = s.mm.pool := rfl
@[simp] theorem State.dropCopies_pool (s : State) (p : Copy → Bool) : (s.dropCopies p).mm.pool = s.mm.pool := rfl
@[simp] theorem State.modHome_host (s : State) (a l : Nat) (f : Home → Home) : (s.modHome a l f).mm.host = s.mm.host := rfl
@[simp] theorem State.dropCopies_host (s : State) (p : Copy → Bool) : (s.dropCopies p).mm.host = s.mm.host := rfl
@[simp] theorem State.modHome_slm (s : State) (a l : Nat) (f : Home → Home) : (s.modHome a l f).mm.slm = s.mm.slm := rfl
@[simp] theorem State.dropCopies_slm (s : State) (p : Copy → Bool) : (s.dropCopies p).mm.slm = s.mm.slm := rfl
@[simp] theorem State.modHome_scr (s : State) (a l : Nat) (f : Home → Home) : (s.modHome a l f).mm.scr = s.mm.scr := rfl
@[simp] theorem State.dropCopies_scr (s : State) (p : Copy → Bool) : (s.dropCopies p).mm.scr = s.mm.scr := rfl

/-- Settling changes only the paths. -/
theorem Sheaf.settle_eq (n : Nat) : ∀ h : Sheaf, h.settle n = { h with path := (h.settle n).path, stack := (h.settle n).stack } := by
  induction n with
  | zero => intro h; rfl
  | succ n ih =>
    intro h
    unfold Sheaf.settle
    split
    · rfl
    · split
      · rfl
      · rw [ih]; rfl

/-- Settling changes only the paths. -/
theorem Sheaf.settled_eq (h : Sheaf) : h.settled = { h with path := h.settled.path, stack := h.settled.stack } :=
  Sheaf.settle_eq _ h

/-- The end of a unit changes only what `apart` leaves out. -/
theorem Sheaf.close_eq (h : Sheaf) : h.close =
    { h with path := h.close.path, stack := h.close.stack, chain := ⟨none, []⟩, fbuf := none, waiting := false, timeL := none } :=
  Sheaf.settled_eq _

/-! `Sheaf.setPc` -/
@[simp] theorem Sheaf.setPc_uid (h : Sheaf) (pc : Pc) : (h.setPc pc).uid = h.uid := rfl
@[simp] theorem Sheaf.setPc_shid (h : Sheaf) (pc : Pc) : (h.setPc pc).shid = h.shid := rfl
@[simp] theorem Sheaf.setPc_shln (h : Sheaf) (pc : Pc) : (h.setPc pc).shln = h.shln := rfl
@[simp] theorem Sheaf.setPc_vn (h : Sheaf) (pc : Pc) : (h.setPc pc).vn = h.vn := rfl
@[simp] theorem Sheaf.setPc_mt (h : Sheaf) (pc : Pc) : (h.setPc pc).mt = h.mt := rfl
@[simp] theorem Sheaf.setPc_core (h : Sheaf) (pc : Pc) : (h.setPc pc).core = h.core := rfl
@[simp] theorem Sheaf.setPc_ctx (h : Sheaf) (pc : Pc) : (h.setPc pc).ctx = h.ctx := rfl
@[simp] theorem Sheaf.setPc_ln (h : Sheaf) (pc : Pc) : (h.setPc pc).ln = h.ln := rfl
@[simp] theorem Sheaf.setPc_launch (h : Sheaf) (pc : Pc) : (h.setPc pc).launch = h.launch := rfl
@[simp] theorem Sheaf.setPc_prio (h : Sheaf) (pc : Pc) : (h.setPc pc).prio = h.prio := rfl
@[simp] theorem Sheaf.setPc_task (h : Sheaf) (pc : Pc) : (h.setPc pc).task = h.task := rfl
@[simp] theorem Sheaf.setPc_seqr (h : Sheaf) (pc : Pc) : (h.setPc pc).seqr = h.seqr := rfl
@[simp] theorem Sheaf.setPc_taskSlot (h : Sheaf) (pc : Pc) : (h.setPc pc).taskSlot = h.taskSlot := rfl
@[simp] theorem Sheaf.setPc_origins (h : Sheaf) (pc : Pc) : (h.setPc pc).origins = h.origins := rfl
@[simp] theorem Sheaf.setPc_alloc (h : Sheaf) (pc : Pc) : (h.setPc pc).alloc = h.alloc := rfl
@[simp] theorem Sheaf.setPc_s (h : Sheaf) (pc : Pc) : (h.setPc pc).s = h.s := rfl
@[simp] theorem Sheaf.setPc_h (h : Sheaf) (pc : Pc) : (h.setPc pc).h = h.h := rfl
@[simp] theorem Sheaf.setPc_tiles (h : Sheaf) (pc : Pc) : (h.setPc pc).tiles = h.tiles := rfl
@[simp] theorem Sheaf.setPc_gw (h : Sheaf) (pc : Pc) : (h.setPc pc).gw = h.gw := rfl
@[simp] theorem Sheaf.setPc_fflg (h : Sheaf) (pc : Pc) : (h.setPc pc).fflg = h.fflg := rfl
@[simp] theorem Sheaf.setPc_dthr (h : Sheaf) (pc : Pc) : (h.setPc pc).dthr = h.dthr := rfl
@[simp] theorem Sheaf.setPc_mapl (h : Sheaf) (pc : Pc) : (h.setPc pc).mapl = h.mapl := rfl
@[simp] theorem Sheaf.setPc_extl (h : Sheaf) (pc : Pc) : (h.setPc pc).extl = h.extl := rfl
@[simp] theorem Sheaf.setPc_llmTab (h : Sheaf) (pc : Pc) : (h.setPc pc).llmTab = h.llmTab := rfl
@[simp] theorem Sheaf.setPc_lvf (h : Sheaf) (pc : Pc) : (h.setPc pc).lvf = h.lvf := rfl
@[simp] theorem Sheaf.setPc_lanes (h : Sheaf) (pc : Pc) : (h.setPc pc).lanes = h.lanes := rfl
@[simp] theorem Sheaf.setPc_stack (h : Sheaf) (pc : Pc) : (h.setPc pc).stack = h.stack := rfl
@[simp] theorem Sheaf.setPc_chain (h : Sheaf) (pc : Pc) : (h.setPc pc).chain = h.chain := rfl
@[simp] theorem Sheaf.setPc_trap (h : Sheaf) (pc : Pc) : (h.setPc pc).trap = h.trap := rfl
@[simp] theorem Sheaf.setPc_sstk (h : Sheaf) (pc : Pc) : (h.setPc pc).sstk = h.sstk := rfl
@[simp] theorem Sheaf.setPc_sstks (h : Sheaf) (pc : Pc) : (h.setPc pc).sstks = h.sstks := rfl
@[simp] theorem Sheaf.setPc_stook (h : Sheaf) (pc : Pc) : (h.setPc pc).stook = h.stook := rfl
@[simp] theorem Sheaf.setPc_mq (h : Sheaf) (pc : Pc) : (h.setPc pc).mq = h.mq := rfl
@[simp] theorem Sheaf.setPc_nseq (h : Sheaf) (pc : Pc) : (h.setPc pc).nseq = h.nseq := rfl
@[simp] theorem Sheaf.setPc_ofence (h : Sheaf) (pc : Pc) : (h.setPc pc).ofence = h.ofence := rfl
@[simp] theorem Sheaf.setPc_unfenced (h : Sheaf) (pc : Pc) : (h.setPc pc).unfenced = h.unfenced := rfl
@[simp] theorem Sheaf.setPc_bar (h : Sheaf) (pc : Pc) : (h.setPc pc).bar = h.bar := rfl
@[simp] theorem Sheaf.setPc_arr (h : Sheaf) (pc : Pc) : (h.setPc pc).arr = h.arr := rfl
@[simp] theorem Sheaf.setPc_late (h : Sheaf) (pc : Pc) : (h.setPc pc).late = h.late := rfl
@[simp] theorem Sheaf.setPc_raised (h : Sheaf) (pc : Pc) : (h.setPc pc).raised = h.raised := rfl
@[simp] theorem Sheaf.setPc_txbs (h : Sheaf) (pc : Pc) : (h.setPc pc).txbs = h.txbs := rfl
@[simp] theorem Sheaf.setPc_lastU (h : Sheaf) (pc : Pc) : (h.setPc pc).lastU = h.lastU := rfl
@[simp] theorem Sheaf.setPc_lastV (h : Sheaf) (pc : Pc) : (h.setPc pc).lastV = h.lastV := rfl
@[simp] theorem Sheaf.setPc_rdy (h : Sheaf) (pc : Pc) : (h.setPc pc).rdy = h.rdy := rfl
@[simp] theorem Sheaf.setPc_hinted (h : Sheaf) (pc : Pc) : (h.setPc pc).hinted = h.hinted := rfl
@[simp] theorem Sheaf.setPc_waiting (h : Sheaf) (pc : Pc) : (h.setPc pc).waiting = h.waiting := rfl
@[simp] theorem Sheaf.setPc_sleep (h : Sheaf) (pc : Pc) : (h.setPc pc).sleep = h.sleep := rfl
@[simp] theorem Sheaf.setPc_timeL (h : Sheaf) (pc : Pc) : (h.setPc pc).timeL = h.timeL := rfl
@[simp] theorem Sheaf.setPc_run (h : Sheaf) (pc : Pc) : (h.setPc pc).run = h.run := rfl
@[simp] theorem Sheaf.setPc_stop (h : Sheaf) (pc : Pc) : (h.setPc pc).stop = h.stop := rfl
@[simp] theorem Sheaf.setPc_fbuf (h : Sheaf) (pc : Pc) : (h.setPc pc).fbuf = h.fbuf := rfl
@[simp] theorem Sheaf.setPc_safeV (h : Sheaf) (pc : Pc) : (h.setPc pc).safeV = h.safeV := rfl
@[simp] theorem Sheaf.setPc_saved (h : Sheaf) (pc : Pc) : (h.setPc pc).saved = h.saved := rfl
@[simp] theorem Sheaf.setPc_savedBad (h : Sheaf) (pc : Pc) : (h.setPc pc).savedBad = h.savedBad := rfl
@[simp] theorem Sheaf.setPc_admitAt (h : Sheaf) (pc : Pc) : (h.setPc pc).admitAt = h.admitAt := rfl
@[simp] theorem Sheaf.setPc_admitFused (h : Sheaf) (pc : Pc) : (h.setPc pc).admitFused = h.admitFused := rfl
@[simp] theorem Sheaf.setPc_queued (h : Sheaf) (pc : Pc) : (h.setPc pc).queued = h.queued := rfl

/-! `Sheaf.setH` -/
@[simp] theorem Sheaf.setH_uid (h : Sheaf) (n : Nat) (x : Handle) : (h.setH n x).uid = h.uid := rfl
@[simp] theorem Sheaf.setH_shid (h : Sheaf) (n : Nat) (x : Handle) : (h.setH n x).shid = h.shid := rfl
@[simp] theorem Sheaf.setH_shln (h : Sheaf) (n : Nat) (x : Handle) : (h.setH n x).shln = h.shln := rfl
@[simp] theorem Sheaf.setH_vn (h : Sheaf) (n : Nat) (x : Handle) : (h.setH n x).vn = h.vn := rfl
@[simp] theorem Sheaf.setH_mt (h : Sheaf) (n : Nat) (x : Handle) : (h.setH n x).mt = h.mt := rfl
@[simp] theorem Sheaf.setH_core (h : Sheaf) (n : Nat) (x : Handle) : (h.setH n x).core = h.core := rfl
@[simp] theorem Sheaf.setH_ctx (h : Sheaf) (n : Nat) (x : Handle) : (h.setH n x).ctx = h.ctx := rfl
@[simp] theorem Sheaf.setH_ln (h : Sheaf) (n : Nat) (x : Handle) : (h.setH n x).ln = h.ln := rfl
@[simp] theorem Sheaf.setH_launch (h : Sheaf) (n : Nat) (x : Handle) : (h.setH n x).launch = h.launch := rfl
@[simp] theorem Sheaf.setH_prio (h : Sheaf) (n : Nat) (x : Handle) : (h.setH n x).prio = h.prio := rfl
@[simp] theorem Sheaf.setH_task (h : Sheaf) (n : Nat) (x : Handle) : (h.setH n x).task = h.task := rfl
@[simp] theorem Sheaf.setH_seqr (h : Sheaf) (n : Nat) (x : Handle) : (h.setH n x).seqr = h.seqr := rfl
@[simp] theorem Sheaf.setH_taskSlot (h : Sheaf) (n : Nat) (x : Handle) : (h.setH n x).taskSlot = h.taskSlot := rfl
@[simp] theorem Sheaf.setH_origins (h : Sheaf) (n : Nat) (x : Handle) : (h.setH n x).origins = h.origins := rfl
@[simp] theorem Sheaf.setH_alloc (h : Sheaf) (n : Nat) (x : Handle) : (h.setH n x).alloc = h.alloc := rfl
@[simp] theorem Sheaf.setH_s (h : Sheaf) (n : Nat) (x : Handle) : (h.setH n x).s = h.s := rfl
@[simp] theorem Sheaf.setH_tiles (h : Sheaf) (n : Nat) (x : Handle) : (h.setH n x).tiles = h.tiles := rfl
@[simp] theorem Sheaf.setH_gw (h : Sheaf) (n : Nat) (x : Handle) : (h.setH n x).gw = h.gw := rfl
@[simp] theorem Sheaf.setH_fflg (h : Sheaf) (n : Nat) (x : Handle) : (h.setH n x).fflg = h.fflg := rfl
@[simp] theorem Sheaf.setH_dthr (h : Sheaf) (n : Nat) (x : Handle) : (h.setH n x).dthr = h.dthr := rfl
@[simp] theorem Sheaf.setH_mapl (h : Sheaf) (n : Nat) (x : Handle) : (h.setH n x).mapl = h.mapl := rfl
@[simp] theorem Sheaf.setH_extl (h : Sheaf) (n : Nat) (x : Handle) : (h.setH n x).extl = h.extl := rfl
@[simp] theorem Sheaf.setH_llmTab (h : Sheaf) (n : Nat) (x : Handle) : (h.setH n x).llmTab = h.llmTab := rfl
@[simp] theorem Sheaf.setH_lvf (h : Sheaf) (n : Nat) (x : Handle) : (h.setH n x).lvf = h.lvf := rfl
@[simp] theorem Sheaf.setH_lanes (h : Sheaf) (n : Nat) (x : Handle) : (h.setH n x).lanes = h.lanes := rfl
@[simp] theorem Sheaf.setH_path (h : Sheaf) (n : Nat) (x : Handle) : (h.setH n x).path = h.path := rfl
@[simp] theorem Sheaf.setH_stack (h : Sheaf) (n : Nat) (x : Handle) : (h.setH n x).stack = h.stack := rfl
@[simp] theorem Sheaf.setH_chain (h : Sheaf) (n : Nat) (x : Handle) : (h.setH n x).chain = h.chain := rfl
@[simp] theorem Sheaf.setH_trap (h : Sheaf) (n : Nat) (x : Handle) : (h.setH n x).trap = h.trap := rfl
@[simp] theorem Sheaf.setH_sstk (h : Sheaf) (n : Nat) (x : Handle) : (h.setH n x).sstk = h.sstk := rfl
@[simp] theorem Sheaf.setH_sstks (h : Sheaf) (n : Nat) (x : Handle) : (h.setH n x).sstks = h.sstks := rfl
@[simp] theorem Sheaf.setH_stook (h : Sheaf) (n : Nat) (x : Handle) : (h.setH n x).stook = h.stook := rfl
@[simp] theorem Sheaf.setH_mq (h : Sheaf) (n : Nat) (x : Handle) : (h.setH n x).mq = h.mq := rfl
@[simp] theorem Sheaf.setH_nseq (h : Sheaf) (n : Nat) (x : Handle) : (h.setH n x).nseq = h.nseq := rfl
@[simp] theorem Sheaf.setH_ofence (h : Sheaf) (n : Nat) (x : Handle) : (h.setH n x).ofence = h.ofence := rfl
@[simp] theorem Sheaf.setH_unfenced (h : Sheaf) (n : Nat) (x : Handle) : (h.setH n x).unfenced = h.unfenced := rfl
@[simp] theorem Sheaf.setH_bar (h : Sheaf) (n : Nat) (x : Handle) : (h.setH n x).bar = h.bar := rfl
@[simp] theorem Sheaf.setH_arr (h : Sheaf) (n : Nat) (x : Handle) : (h.setH n x).arr = h.arr := rfl
@[simp] theorem Sheaf.setH_late (h : Sheaf) (n : Nat) (x : Handle) : (h.setH n x).late = h.late := rfl
@[simp] theorem Sheaf.setH_raised (h : Sheaf) (n : Nat) (x : Handle) : (h.setH n x).raised = h.raised := rfl
@[simp] theorem Sheaf.setH_txbs (h : Sheaf) (n : Nat) (x : Handle) : (h.setH n x).txbs = h.txbs := rfl
@[simp] theorem Sheaf.setH_lastU (h : Sheaf) (n : Nat) (x : Handle) : (h.setH n x).lastU = h.lastU := rfl
@[simp] theorem Sheaf.setH_lastV (h : Sheaf) (n : Nat) (x : Handle) : (h.setH n x).lastV = h.lastV := rfl
@[simp] theorem Sheaf.setH_rdy (h : Sheaf) (n : Nat) (x : Handle) : (h.setH n x).rdy = h.rdy := rfl
@[simp] theorem Sheaf.setH_hinted (h : Sheaf) (n : Nat) (x : Handle) : (h.setH n x).hinted = h.hinted := rfl
@[simp] theorem Sheaf.setH_waiting (h : Sheaf) (n : Nat) (x : Handle) : (h.setH n x).waiting = h.waiting := rfl
@[simp] theorem Sheaf.setH_sleep (h : Sheaf) (n : Nat) (x : Handle) : (h.setH n x).sleep = h.sleep := rfl
@[simp] theorem Sheaf.setH_timeL (h : Sheaf) (n : Nat) (x : Handle) : (h.setH n x).timeL = h.timeL := rfl
@[simp] theorem Sheaf.setH_run (h : Sheaf) (n : Nat) (x : Handle) : (h.setH n x).run = h.run := rfl
@[simp] theorem Sheaf.setH_stop (h : Sheaf) (n : Nat) (x : Handle) : (h.setH n x).stop = h.stop := rfl
@[simp] theorem Sheaf.setH_fbuf (h : Sheaf) (n : Nat) (x : Handle) : (h.setH n x).fbuf = h.fbuf := rfl
@[simp] theorem Sheaf.setH_safeV (h : Sheaf) (n : Nat) (x : Handle) : (h.setH n x).safeV = h.safeV := rfl
@[simp] theorem Sheaf.setH_saved (h : Sheaf) (n : Nat) (x : Handle) : (h.setH n x).saved = h.saved := rfl
@[simp] theorem Sheaf.setH_savedBad (h : Sheaf) (n : Nat) (x : Handle) : (h.setH n x).savedBad = h.savedBad := rfl
@[simp] theorem Sheaf.setH_admitAt (h : Sheaf) (n : Nat) (x : Handle) : (h.setH n x).admitAt = h.admitAt := rfl
@[simp] theorem Sheaf.setH_admitFused (h : Sheaf) (n : Nat) (x : Handle) : (h.setH n x).admitFused = h.admitFused := rfl
@[simp] theorem Sheaf.setH_queued (h : Sheaf) (n : Nat) (x : Handle) : (h.setH n x).queued = h.queued := rfl

/-! `Sheaf.setS` -/
@[simp] theorem Sheaf.setS_uid (h : Sheaf) (n : Nat) (w : Word) : (h.setS n w).uid = h.uid := by unfold Sheaf.setS; split <;> rfl
@[simp] theorem Sheaf.setS_shid (h : Sheaf) (n : Nat) (w : Word) : (h.setS n w).shid = h.shid := by unfold Sheaf.setS; split <;> rfl
@[simp] theorem Sheaf.setS_shln (h : Sheaf) (n : Nat) (w : Word) : (h.setS n w).shln = h.shln := by unfold Sheaf.setS; split <;> rfl
@[simp] theorem Sheaf.setS_vn (h : Sheaf) (n : Nat) (w : Word) : (h.setS n w).vn = h.vn := by unfold Sheaf.setS; split <;> rfl
@[simp] theorem Sheaf.setS_mt (h : Sheaf) (n : Nat) (w : Word) : (h.setS n w).mt = h.mt := by unfold Sheaf.setS; split <;> rfl
@[simp] theorem Sheaf.setS_core (h : Sheaf) (n : Nat) (w : Word) : (h.setS n w).core = h.core := by unfold Sheaf.setS; split <;> rfl
@[simp] theorem Sheaf.setS_ctx (h : Sheaf) (n : Nat) (w : Word) : (h.setS n w).ctx = h.ctx := by unfold Sheaf.setS; split <;> rfl
@[simp] theorem Sheaf.setS_ln (h : Sheaf) (n : Nat) (w : Word) : (h.setS n w).ln = h.ln := by unfold Sheaf.setS; split <;> rfl
@[simp] theorem Sheaf.setS_launch (h : Sheaf) (n : Nat) (w : Word) : (h.setS n w).launch = h.launch := by unfold Sheaf.setS; split <;> rfl
@[simp] theorem Sheaf.setS_prio (h : Sheaf) (n : Nat) (w : Word) : (h.setS n w).prio = h.prio := by unfold Sheaf.setS; split <;> rfl
@[simp] theorem Sheaf.setS_task (h : Sheaf) (n : Nat) (w : Word) : (h.setS n w).task = h.task := by unfold Sheaf.setS; split <;> rfl
@[simp] theorem Sheaf.setS_seqr (h : Sheaf) (n : Nat) (w : Word) : (h.setS n w).seqr = h.seqr := by unfold Sheaf.setS; split <;> rfl
@[simp] theorem Sheaf.setS_taskSlot (h : Sheaf) (n : Nat) (w : Word) : (h.setS n w).taskSlot = h.taskSlot := by unfold Sheaf.setS; split <;> rfl
@[simp] theorem Sheaf.setS_origins (h : Sheaf) (n : Nat) (w : Word) : (h.setS n w).origins = h.origins := by unfold Sheaf.setS; split <;> rfl
@[simp] theorem Sheaf.setS_alloc (h : Sheaf) (n : Nat) (w : Word) : (h.setS n w).alloc = h.alloc := by unfold Sheaf.setS; split <;> rfl
@[simp] theorem Sheaf.setS_h (h : Sheaf) (n : Nat) (w : Word) : (h.setS n w).h = h.h := by unfold Sheaf.setS; split <;> rfl
@[simp] theorem Sheaf.setS_tiles (h : Sheaf) (n : Nat) (w : Word) : (h.setS n w).tiles = h.tiles := by unfold Sheaf.setS; split <;> rfl
@[simp] theorem Sheaf.setS_gw (h : Sheaf) (n : Nat) (w : Word) : (h.setS n w).gw = h.gw := by unfold Sheaf.setS; split <;> rfl
@[simp] theorem Sheaf.setS_fflg (h : Sheaf) (n : Nat) (w : Word) : (h.setS n w).fflg = h.fflg := by unfold Sheaf.setS; split <;> rfl
@[simp] theorem Sheaf.setS_dthr (h : Sheaf) (n : Nat) (w : Word) : (h.setS n w).dthr = h.dthr := by unfold Sheaf.setS; split <;> rfl
@[simp] theorem Sheaf.setS_mapl (h : Sheaf) (n : Nat) (w : Word) : (h.setS n w).mapl = h.mapl := by unfold Sheaf.setS; split <;> rfl
@[simp] theorem Sheaf.setS_extl (h : Sheaf) (n : Nat) (w : Word) : (h.setS n w).extl = h.extl := by unfold Sheaf.setS; split <;> rfl
@[simp] theorem Sheaf.setS_llmTab (h : Sheaf) (n : Nat) (w : Word) : (h.setS n w).llmTab = h.llmTab := by unfold Sheaf.setS; split <;> rfl
@[simp] theorem Sheaf.setS_lvf (h : Sheaf) (n : Nat) (w : Word) : (h.setS n w).lvf = h.lvf := by unfold Sheaf.setS; split <;> rfl
@[simp] theorem Sheaf.setS_lanes (h : Sheaf) (n : Nat) (w : Word) : (h.setS n w).lanes = h.lanes := by unfold Sheaf.setS; split <;> rfl
@[simp] theorem Sheaf.setS_path (h : Sheaf) (n : Nat) (w : Word) : (h.setS n w).path = h.path := by unfold Sheaf.setS; split <;> rfl
@[simp] theorem Sheaf.setS_stack (h : Sheaf) (n : Nat) (w : Word) : (h.setS n w).stack = h.stack := by unfold Sheaf.setS; split <;> rfl
@[simp] theorem Sheaf.setS_chain (h : Sheaf) (n : Nat) (w : Word) : (h.setS n w).chain = h.chain := by unfold Sheaf.setS; split <;> rfl
@[simp] theorem Sheaf.setS_trap (h : Sheaf) (n : Nat) (w : Word) : (h.setS n w).trap = h.trap := by unfold Sheaf.setS; split <;> rfl
@[simp] theorem Sheaf.setS_sstk (h : Sheaf) (n : Nat) (w : Word) : (h.setS n w).sstk = h.sstk := by unfold Sheaf.setS; split <;> rfl
@[simp] theorem Sheaf.setS_sstks (h : Sheaf) (n : Nat) (w : Word) : (h.setS n w).sstks = h.sstks := by unfold Sheaf.setS; split <;> rfl
@[simp] theorem Sheaf.setS_stook (h : Sheaf) (n : Nat) (w : Word) : (h.setS n w).stook = h.stook := by unfold Sheaf.setS; split <;> rfl
@[simp] theorem Sheaf.setS_mq (h : Sheaf) (n : Nat) (w : Word) : (h.setS n w).mq = h.mq := by unfold Sheaf.setS; split <;> rfl
@[simp] theorem Sheaf.setS_nseq (h : Sheaf) (n : Nat) (w : Word) : (h.setS n w).nseq = h.nseq := by unfold Sheaf.setS; split <;> rfl
@[simp] theorem Sheaf.setS_ofence (h : Sheaf) (n : Nat) (w : Word) : (h.setS n w).ofence = h.ofence := by unfold Sheaf.setS; split <;> rfl
@[simp] theorem Sheaf.setS_unfenced (h : Sheaf) (n : Nat) (w : Word) : (h.setS n w).unfenced = h.unfenced := by unfold Sheaf.setS; split <;> rfl
@[simp] theorem Sheaf.setS_bar (h : Sheaf) (n : Nat) (w : Word) : (h.setS n w).bar = h.bar := by unfold Sheaf.setS; split <;> rfl
@[simp] theorem Sheaf.setS_arr (h : Sheaf) (n : Nat) (w : Word) : (h.setS n w).arr = h.arr := by unfold Sheaf.setS; split <;> rfl
@[simp] theorem Sheaf.setS_late (h : Sheaf) (n : Nat) (w : Word) : (h.setS n w).late = h.late := by unfold Sheaf.setS; split <;> rfl
@[simp] theorem Sheaf.setS_raised (h : Sheaf) (n : Nat) (w : Word) : (h.setS n w).raised = h.raised := by unfold Sheaf.setS; split <;> rfl
@[simp] theorem Sheaf.setS_txbs (h : Sheaf) (n : Nat) (w : Word) : (h.setS n w).txbs = h.txbs := by unfold Sheaf.setS; split <;> rfl
@[simp] theorem Sheaf.setS_lastU (h : Sheaf) (n : Nat) (w : Word) : (h.setS n w).lastU = h.lastU := by unfold Sheaf.setS; split <;> rfl
@[simp] theorem Sheaf.setS_lastV (h : Sheaf) (n : Nat) (w : Word) : (h.setS n w).lastV = h.lastV := by unfold Sheaf.setS; split <;> rfl
@[simp] theorem Sheaf.setS_rdy (h : Sheaf) (n : Nat) (w : Word) : (h.setS n w).rdy = h.rdy := by unfold Sheaf.setS; split <;> rfl
@[simp] theorem Sheaf.setS_hinted (h : Sheaf) (n : Nat) (w : Word) : (h.setS n w).hinted = h.hinted := by unfold Sheaf.setS; split <;> rfl
@[simp] theorem Sheaf.setS_waiting (h : Sheaf) (n : Nat) (w : Word) : (h.setS n w).waiting = h.waiting := by unfold Sheaf.setS; split <;> rfl
@[simp] theorem Sheaf.setS_sleep (h : Sheaf) (n : Nat) (w : Word) : (h.setS n w).sleep = h.sleep := by unfold Sheaf.setS; split <;> rfl
@[simp] theorem Sheaf.setS_timeL (h : Sheaf) (n : Nat) (w : Word) : (h.setS n w).timeL = h.timeL := by unfold Sheaf.setS; split <;> rfl
@[simp] theorem Sheaf.setS_run (h : Sheaf) (n : Nat) (w : Word) : (h.setS n w).run = h.run := by unfold Sheaf.setS; split <;> rfl
@[simp] theorem Sheaf.setS_stop (h : Sheaf) (n : Nat) (w : Word) : (h.setS n w).stop = h.stop := by unfold Sheaf.setS; split <;> rfl
@[simp] theorem Sheaf.setS_fbuf (h : Sheaf) (n : Nat) (w : Word) : (h.setS n w).fbuf = h.fbuf := by unfold Sheaf.setS; split <;> rfl
@[simp] theorem Sheaf.setS_safeV (h : Sheaf) (n : Nat) (w : Word) : (h.setS n w).safeV = h.safeV := by unfold Sheaf.setS; split <;> rfl
@[simp] theorem Sheaf.setS_saved (h : Sheaf) (n : Nat) (w : Word) : (h.setS n w).saved = h.saved := by unfold Sheaf.setS; split <;> rfl
@[simp] theorem Sheaf.setS_savedBad (h : Sheaf) (n : Nat) (w : Word) : (h.setS n w).savedBad = h.savedBad := by unfold Sheaf.setS; split <;> rfl
@[simp] theorem Sheaf.setS_admitAt (h : Sheaf) (n : Nat) (w : Word) : (h.setS n w).admitAt = h.admitAt := by unfold Sheaf.setS; split <;> rfl
@[simp] theorem Sheaf.setS_admitFused (h : Sheaf) (n : Nat) (w : Word) : (h.setS n w).admitFused = h.admitFused := by unfold Sheaf.setS; split <;> rfl
@[simp] theorem Sheaf.setS_queued (h : Sheaf) (n : Nat) (w : Word) : (h.setS n w).queued = h.queued := by unfold Sheaf.setS; split <;> rfl

/-! `Sheaf.setPair` -/
@[simp] theorem Sheaf.setPair_uid (h : Sheaf) (n : Nat) (x : DWord) : (h.setPair n x).uid = h.uid := by simp [Sheaf.setPair]
@[simp] theorem Sheaf.setPair_shid (h : Sheaf) (n : Nat) (x : DWord) : (h.setPair n x).shid = h.shid := by simp [Sheaf.setPair]
@[simp] theorem Sheaf.setPair_shln (h : Sheaf) (n : Nat) (x : DWord) : (h.setPair n x).shln = h.shln := by simp [Sheaf.setPair]
@[simp] theorem Sheaf.setPair_vn (h : Sheaf) (n : Nat) (x : DWord) : (h.setPair n x).vn = h.vn := by simp [Sheaf.setPair]
@[simp] theorem Sheaf.setPair_mt (h : Sheaf) (n : Nat) (x : DWord) : (h.setPair n x).mt = h.mt := by simp [Sheaf.setPair]
@[simp] theorem Sheaf.setPair_core (h : Sheaf) (n : Nat) (x : DWord) : (h.setPair n x).core = h.core := by simp [Sheaf.setPair]
@[simp] theorem Sheaf.setPair_ctx (h : Sheaf) (n : Nat) (x : DWord) : (h.setPair n x).ctx = h.ctx := by simp [Sheaf.setPair]
@[simp] theorem Sheaf.setPair_ln (h : Sheaf) (n : Nat) (x : DWord) : (h.setPair n x).ln = h.ln := by simp [Sheaf.setPair]
@[simp] theorem Sheaf.setPair_launch (h : Sheaf) (n : Nat) (x : DWord) : (h.setPair n x).launch = h.launch := by simp [Sheaf.setPair]
@[simp] theorem Sheaf.setPair_prio (h : Sheaf) (n : Nat) (x : DWord) : (h.setPair n x).prio = h.prio := by simp [Sheaf.setPair]
@[simp] theorem Sheaf.setPair_task (h : Sheaf) (n : Nat) (x : DWord) : (h.setPair n x).task = h.task := by simp [Sheaf.setPair]
@[simp] theorem Sheaf.setPair_seqr (h : Sheaf) (n : Nat) (x : DWord) : (h.setPair n x).seqr = h.seqr := by simp [Sheaf.setPair]
@[simp] theorem Sheaf.setPair_taskSlot (h : Sheaf) (n : Nat) (x : DWord) : (h.setPair n x).taskSlot = h.taskSlot := by simp [Sheaf.setPair]
@[simp] theorem Sheaf.setPair_origins (h : Sheaf) (n : Nat) (x : DWord) : (h.setPair n x).origins = h.origins := by simp [Sheaf.setPair]
@[simp] theorem Sheaf.setPair_alloc (h : Sheaf) (n : Nat) (x : DWord) : (h.setPair n x).alloc = h.alloc := by simp [Sheaf.setPair]
@[simp] theorem Sheaf.setPair_h (h : Sheaf) (n : Nat) (x : DWord) : (h.setPair n x).h = h.h := by simp [Sheaf.setPair]
@[simp] theorem Sheaf.setPair_tiles (h : Sheaf) (n : Nat) (x : DWord) : (h.setPair n x).tiles = h.tiles := by simp [Sheaf.setPair]
@[simp] theorem Sheaf.setPair_gw (h : Sheaf) (n : Nat) (x : DWord) : (h.setPair n x).gw = h.gw := by simp [Sheaf.setPair]
@[simp] theorem Sheaf.setPair_fflg (h : Sheaf) (n : Nat) (x : DWord) : (h.setPair n x).fflg = h.fflg := by simp [Sheaf.setPair]
@[simp] theorem Sheaf.setPair_dthr (h : Sheaf) (n : Nat) (x : DWord) : (h.setPair n x).dthr = h.dthr := by simp [Sheaf.setPair]
@[simp] theorem Sheaf.setPair_mapl (h : Sheaf) (n : Nat) (x : DWord) : (h.setPair n x).mapl = h.mapl := by simp [Sheaf.setPair]
@[simp] theorem Sheaf.setPair_extl (h : Sheaf) (n : Nat) (x : DWord) : (h.setPair n x).extl = h.extl := by simp [Sheaf.setPair]
@[simp] theorem Sheaf.setPair_llmTab (h : Sheaf) (n : Nat) (x : DWord) : (h.setPair n x).llmTab = h.llmTab := by simp [Sheaf.setPair]
@[simp] theorem Sheaf.setPair_lvf (h : Sheaf) (n : Nat) (x : DWord) : (h.setPair n x).lvf = h.lvf := by simp [Sheaf.setPair]
@[simp] theorem Sheaf.setPair_lanes (h : Sheaf) (n : Nat) (x : DWord) : (h.setPair n x).lanes = h.lanes := by simp [Sheaf.setPair]
@[simp] theorem Sheaf.setPair_path (h : Sheaf) (n : Nat) (x : DWord) : (h.setPair n x).path = h.path := by simp [Sheaf.setPair]
@[simp] theorem Sheaf.setPair_stack (h : Sheaf) (n : Nat) (x : DWord) : (h.setPair n x).stack = h.stack := by simp [Sheaf.setPair]
@[simp] theorem Sheaf.setPair_chain (h : Sheaf) (n : Nat) (x : DWord) : (h.setPair n x).chain = h.chain := by simp [Sheaf.setPair]
@[simp] theorem Sheaf.setPair_trap (h : Sheaf) (n : Nat) (x : DWord) : (h.setPair n x).trap = h.trap := by simp [Sheaf.setPair]
@[simp] theorem Sheaf.setPair_sstk (h : Sheaf) (n : Nat) (x : DWord) : (h.setPair n x).sstk = h.sstk := by simp [Sheaf.setPair]
@[simp] theorem Sheaf.setPair_sstks (h : Sheaf) (n : Nat) (x : DWord) : (h.setPair n x).sstks = h.sstks := by simp [Sheaf.setPair]
@[simp] theorem Sheaf.setPair_stook (h : Sheaf) (n : Nat) (x : DWord) : (h.setPair n x).stook = h.stook := by simp [Sheaf.setPair]
@[simp] theorem Sheaf.setPair_mq (h : Sheaf) (n : Nat) (x : DWord) : (h.setPair n x).mq = h.mq := by simp [Sheaf.setPair]
@[simp] theorem Sheaf.setPair_nseq (h : Sheaf) (n : Nat) (x : DWord) : (h.setPair n x).nseq = h.nseq := by simp [Sheaf.setPair]
@[simp] theorem Sheaf.setPair_ofence (h : Sheaf) (n : Nat) (x : DWord) : (h.setPair n x).ofence = h.ofence := by simp [Sheaf.setPair]
@[simp] theorem Sheaf.setPair_unfenced (h : Sheaf) (n : Nat) (x : DWord) : (h.setPair n x).unfenced = h.unfenced := by simp [Sheaf.setPair]
@[simp] theorem Sheaf.setPair_bar (h : Sheaf) (n : Nat) (x : DWord) : (h.setPair n x).bar = h.bar := by simp [Sheaf.setPair]
@[simp] theorem Sheaf.setPair_arr (h : Sheaf) (n : Nat) (x : DWord) : (h.setPair n x).arr = h.arr := by simp [Sheaf.setPair]
@[simp] theorem Sheaf.setPair_late (h : Sheaf) (n : Nat) (x : DWord) : (h.setPair n x).late = h.late := by simp [Sheaf.setPair]
@[simp] theorem Sheaf.setPair_raised (h : Sheaf) (n : Nat) (x : DWord) : (h.setPair n x).raised = h.raised := by simp [Sheaf.setPair]
@[simp] theorem Sheaf.setPair_txbs (h : Sheaf) (n : Nat) (x : DWord) : (h.setPair n x).txbs = h.txbs := by simp [Sheaf.setPair]
@[simp] theorem Sheaf.setPair_lastU (h : Sheaf) (n : Nat) (x : DWord) : (h.setPair n x).lastU = h.lastU := by simp [Sheaf.setPair]
@[simp] theorem Sheaf.setPair_lastV (h : Sheaf) (n : Nat) (x : DWord) : (h.setPair n x).lastV = h.lastV := by simp [Sheaf.setPair]
@[simp] theorem Sheaf.setPair_rdy (h : Sheaf) (n : Nat) (x : DWord) : (h.setPair n x).rdy = h.rdy := by simp [Sheaf.setPair]
@[simp] theorem Sheaf.setPair_hinted (h : Sheaf) (n : Nat) (x : DWord) : (h.setPair n x).hinted = h.hinted := by simp [Sheaf.setPair]
@[simp] theorem Sheaf.setPair_waiting (h : Sheaf) (n : Nat) (x : DWord) : (h.setPair n x).waiting = h.waiting := by simp [Sheaf.setPair]
@[simp] theorem Sheaf.setPair_sleep (h : Sheaf) (n : Nat) (x : DWord) : (h.setPair n x).sleep = h.sleep := by simp [Sheaf.setPair]
@[simp] theorem Sheaf.setPair_timeL (h : Sheaf) (n : Nat) (x : DWord) : (h.setPair n x).timeL = h.timeL := by simp [Sheaf.setPair]
@[simp] theorem Sheaf.setPair_run (h : Sheaf) (n : Nat) (x : DWord) : (h.setPair n x).run = h.run := by simp [Sheaf.setPair]
@[simp] theorem Sheaf.setPair_stop (h : Sheaf) (n : Nat) (x : DWord) : (h.setPair n x).stop = h.stop := by simp [Sheaf.setPair]
@[simp] theorem Sheaf.setPair_fbuf (h : Sheaf) (n : Nat) (x : DWord) : (h.setPair n x).fbuf = h.fbuf := by simp [Sheaf.setPair]
@[simp] theorem Sheaf.setPair_safeV (h : Sheaf) (n : Nat) (x : DWord) : (h.setPair n x).safeV = h.safeV := by simp [Sheaf.setPair]
@[simp] theorem Sheaf.setPair_saved (h : Sheaf) (n : Nat) (x : DWord) : (h.setPair n x).saved = h.saved := by simp [Sheaf.setPair]
@[simp] theorem Sheaf.setPair_savedBad (h : Sheaf) (n : Nat) (x : DWord) : (h.setPair n x).savedBad = h.savedBad := by simp [Sheaf.setPair]
@[simp] theorem Sheaf.setPair_admitAt (h : Sheaf) (n : Nat) (x : DWord) : (h.setPair n x).admitAt = h.admitAt := by simp [Sheaf.setPair]
@[simp] theorem Sheaf.setPair_admitFused (h : Sheaf) (n : Nat) (x : DWord) : (h.setPair n x).admitFused = h.admitFused := by simp [Sheaf.setPair]
@[simp] theorem Sheaf.setPair_queued (h : Sheaf) (n : Nat) (x : DWord) : (h.setPair n x).queued = h.queued := by simp [Sheaf.setPair]

/-! `Sheaf.sweep` -/
@[simp] theorem Sheaf.sweep_uid (h : Sheaf) (i : Instr) (f : Lane → Lane × Flags) : (h.sweep i f).uid = h.uid := rfl
@[simp] theorem Sheaf.sweep_shid (h : Sheaf) (i : Instr) (f : Lane → Lane × Flags) : (h.sweep i f).shid = h.shid := rfl
@[simp] theorem Sheaf.sweep_shln (h : Sheaf) (i : Instr) (f : Lane → Lane × Flags) : (h.sweep i f).shln = h.shln := rfl
@[simp] theorem Sheaf.sweep_vn (h : Sheaf) (i : Instr) (f : Lane → Lane × Flags) : (h.sweep i f).vn = h.vn := rfl
@[simp] theorem Sheaf.sweep_mt (h : Sheaf) (i : Instr) (f : Lane → Lane × Flags) : (h.sweep i f).mt = h.mt := rfl
@[simp] theorem Sheaf.sweep_core (h : Sheaf) (i : Instr) (f : Lane → Lane × Flags) : (h.sweep i f).core = h.core := rfl
@[simp] theorem Sheaf.sweep_ctx (h : Sheaf) (i : Instr) (f : Lane → Lane × Flags) : (h.sweep i f).ctx = h.ctx := rfl
@[simp] theorem Sheaf.sweep_ln (h : Sheaf) (i : Instr) (f : Lane → Lane × Flags) : (h.sweep i f).ln = h.ln := rfl
@[simp] theorem Sheaf.sweep_launch (h : Sheaf) (i : Instr) (f : Lane → Lane × Flags) : (h.sweep i f).launch = h.launch := rfl
@[simp] theorem Sheaf.sweep_prio (h : Sheaf) (i : Instr) (f : Lane → Lane × Flags) : (h.sweep i f).prio = h.prio := rfl
@[simp] theorem Sheaf.sweep_task (h : Sheaf) (i : Instr) (f : Lane → Lane × Flags) : (h.sweep i f).task = h.task := rfl
@[simp] theorem Sheaf.sweep_seqr (h : Sheaf) (i : Instr) (f : Lane → Lane × Flags) : (h.sweep i f).seqr = h.seqr := rfl
@[simp] theorem Sheaf.sweep_taskSlot (h : Sheaf) (i : Instr) (f : Lane → Lane × Flags) : (h.sweep i f).taskSlot = h.taskSlot := rfl
@[simp] theorem Sheaf.sweep_origins (h : Sheaf) (i : Instr) (f : Lane → Lane × Flags) : (h.sweep i f).origins = h.origins := rfl
@[simp] theorem Sheaf.sweep_alloc (h : Sheaf) (i : Instr) (f : Lane → Lane × Flags) : (h.sweep i f).alloc = h.alloc := rfl
@[simp] theorem Sheaf.sweep_s (h : Sheaf) (i : Instr) (f : Lane → Lane × Flags) : (h.sweep i f).s = h.s := rfl
@[simp] theorem Sheaf.sweep_h (h : Sheaf) (i : Instr) (f : Lane → Lane × Flags) : (h.sweep i f).h = h.h := rfl
@[simp] theorem Sheaf.sweep_tiles (h : Sheaf) (i : Instr) (f : Lane → Lane × Flags) : (h.sweep i f).tiles = h.tiles := rfl
@[simp] theorem Sheaf.sweep_gw (h : Sheaf) (i : Instr) (f : Lane → Lane × Flags) : (h.sweep i f).gw = h.gw := rfl
@[simp] theorem Sheaf.sweep_dthr (h : Sheaf) (i : Instr) (f : Lane → Lane × Flags) : (h.sweep i f).dthr = h.dthr := rfl
@[simp] theorem Sheaf.sweep_mapl (h : Sheaf) (i : Instr) (f : Lane → Lane × Flags) : (h.sweep i f).mapl = h.mapl := rfl
@[simp] theorem Sheaf.sweep_extl (h : Sheaf) (i : Instr) (f : Lane → Lane × Flags) : (h.sweep i f).extl = h.extl := rfl
@[simp] theorem Sheaf.sweep_llmTab (h : Sheaf) (i : Instr) (f : Lane → Lane × Flags) : (h.sweep i f).llmTab = h.llmTab := rfl
@[simp] theorem Sheaf.sweep_lvf (h : Sheaf) (i : Instr) (f : Lane → Lane × Flags) : (h.sweep i f).lvf = h.lvf := rfl
@[simp] theorem Sheaf.sweep_path (h : Sheaf) (i : Instr) (f : Lane → Lane × Flags) : (h.sweep i f).path = h.path := rfl
@[simp] theorem Sheaf.sweep_stack (h : Sheaf) (i : Instr) (f : Lane → Lane × Flags) : (h.sweep i f).stack = h.stack := rfl
@[simp] theorem Sheaf.sweep_chain (h : Sheaf) (i : Instr) (f : Lane → Lane × Flags) : (h.sweep i f).chain = h.chain := rfl
@[simp] theorem Sheaf.sweep_trap (h : Sheaf) (i : Instr) (f : Lane → Lane × Flags) : (h.sweep i f).trap = h.trap := rfl
@[simp] theorem Sheaf.sweep_sstk (h : Sheaf) (i : Instr) (f : Lane → Lane × Flags) : (h.sweep i f).sstk = h.sstk := rfl
@[simp] theorem Sheaf.sweep_sstks (h : Sheaf) (i : Instr) (f : Lane → Lane × Flags) : (h.sweep i f).sstks = h.sstks := rfl
@[simp] theorem Sheaf.sweep_stook (h : Sheaf) (i : Instr) (f : Lane → Lane × Flags) : (h.sweep i f).stook = h.stook := rfl
@[simp] theorem Sheaf.sweep_mq (h : Sheaf) (i : Instr) (f : Lane → Lane × Flags) : (h.sweep i f).mq = h.mq := rfl
@[simp] theorem Sheaf.sweep_nseq (h : Sheaf) (i : Instr) (f : Lane → Lane × Flags) : (h.sweep i f).nseq = h.nseq := rfl
@[simp] theorem Sheaf.sweep_ofence (h : Sheaf) (i : Instr) (f : Lane → Lane × Flags) : (h.sweep i f).ofence = h.ofence := rfl
@[simp] theorem Sheaf.sweep_unfenced (h : Sheaf) (i : Instr) (f : Lane → Lane × Flags) : (h.sweep i f).unfenced = h.unfenced := rfl
@[simp] theorem Sheaf.sweep_bar (h : Sheaf) (i : Instr) (f : Lane → Lane × Flags) : (h.sweep i f).bar = h.bar := rfl
@[simp] theorem Sheaf.sweep_arr (h : Sheaf) (i : Instr) (f : Lane → Lane × Flags) : (h.sweep i f).arr = h.arr := rfl
@[simp] theorem Sheaf.sweep_raised (h : Sheaf) (i : Instr) (f : Lane → Lane × Flags) : (h.sweep i f).raised = h.raised := rfl
@[simp] theorem Sheaf.sweep_txbs (h : Sheaf) (i : Instr) (f : Lane → Lane × Flags) : (h.sweep i f).txbs = h.txbs := rfl
@[simp] theorem Sheaf.sweep_lastU (h : Sheaf) (i : Instr) (f : Lane → Lane × Flags) : (h.sweep i f).lastU = h.lastU := rfl
@[simp] theorem Sheaf.sweep_lastV (h : Sheaf) (i : Instr) (f : Lane → Lane × Flags) : (h.sweep i f).lastV = h.lastV := rfl
@[simp] theorem Sheaf.sweep_rdy (h : Sheaf) (i : Instr) (f : Lane → Lane × Flags) : (h.sweep i f).rdy = h.rdy := rfl
@[simp] theorem Sheaf.sweep_hinted (h : Sheaf) (i : Instr) (f : Lane → Lane × Flags) : (h.sweep i f).hinted = h.hinted := rfl
@[simp] theorem Sheaf.sweep_waiting (h : Sheaf) (i : Instr) (f : Lane → Lane × Flags) : (h.sweep i f).waiting = h.waiting := rfl
@[simp] theorem Sheaf.sweep_sleep (h : Sheaf) (i : Instr) (f : Lane → Lane × Flags) : (h.sweep i f).sleep = h.sleep := rfl
@[simp] theorem Sheaf.sweep_timeL (h : Sheaf) (i : Instr) (f : Lane → Lane × Flags) : (h.sweep i f).timeL = h.timeL := rfl
@[simp] theorem Sheaf.sweep_run (h : Sheaf) (i : Instr) (f : Lane → Lane × Flags) : (h.sweep i f).run = h.run := rfl
@[simp] theorem Sheaf.sweep_stop (h : Sheaf) (i : Instr) (f : Lane → Lane × Flags) : (h.sweep i f).stop = h.stop := rfl
@[simp] theorem Sheaf.sweep_fbuf (h : Sheaf) (i : Instr) (f : Lane → Lane × Flags) : (h.sweep i f).fbuf = h.fbuf := rfl
@[simp] theorem Sheaf.sweep_safeV (h : Sheaf) (i : Instr) (f : Lane → Lane × Flags) : (h.sweep i f).safeV = h.safeV := rfl
@[simp] theorem Sheaf.sweep_saved (h : Sheaf) (i : Instr) (f : Lane → Lane × Flags) : (h.sweep i f).saved = h.saved := rfl
@[simp] theorem Sheaf.sweep_savedBad (h : Sheaf) (i : Instr) (f : Lane → Lane × Flags) : (h.sweep i f).savedBad = h.savedBad := rfl
@[simp] theorem Sheaf.sweep_admitAt (h : Sheaf) (i : Instr) (f : Lane → Lane × Flags) : (h.sweep i f).admitAt = h.admitAt := rfl
@[simp] theorem Sheaf.sweep_admitFused (h : Sheaf) (i : Instr) (f : Lane → Lane × Flags) : (h.sweep i f).admitFused = h.admitFused := rfl
@[simp] theorem Sheaf.sweep_queued (h : Sheaf) (i : Instr) (f : Lane → Lane × Flags) : (h.sweep i f).queued = h.queued := rfl

/-! `Sheaf.endPath` -/
@[simp] theorem Sheaf.endPath_uid (h : Sheaf) : (h.endPath).uid = h.uid := rfl
@[simp] theorem Sheaf.endPath_shid (h : Sheaf) : (h.endPath).shid = h.shid := rfl
@[simp] theorem Sheaf.endPath_shln (h : Sheaf) : (h.endPath).shln = h.shln := rfl
@[simp] theorem Sheaf.endPath_vn (h : Sheaf) : (h.endPath).vn = h.vn := rfl
@[simp] theorem Sheaf.endPath_mt (h : Sheaf) : (h.endPath).mt = h.mt := rfl
@[simp] theorem Sheaf.endPath_core (h : Sheaf) : (h.endPath).core = h.core := rfl
@[simp] theorem Sheaf.endPath_ctx (h : Sheaf) : (h.endPath).ctx = h.ctx := rfl
@[simp] theorem Sheaf.endPath_ln (h : Sheaf) : (h.endPath).ln = h.ln := rfl
@[simp] theorem Sheaf.endPath_launch (h : Sheaf) : (h.endPath).launch = h.launch := rfl
@[simp] theorem Sheaf.endPath_prio (h : Sheaf) : (h.endPath).prio = h.prio := rfl
@[simp] theorem Sheaf.endPath_task (h : Sheaf) : (h.endPath).task = h.task := rfl
@[simp] theorem Sheaf.endPath_seqr (h : Sheaf) : (h.endPath).seqr = h.seqr := rfl
@[simp] theorem Sheaf.endPath_taskSlot (h : Sheaf) : (h.endPath).taskSlot = h.taskSlot := rfl
@[simp] theorem Sheaf.endPath_origins (h : Sheaf) : (h.endPath).origins = h.origins := rfl
@[simp] theorem Sheaf.endPath_alloc (h : Sheaf) : (h.endPath).alloc = h.alloc := rfl
@[simp] theorem Sheaf.endPath_s (h : Sheaf) : (h.endPath).s = h.s := rfl
@[simp] theorem Sheaf.endPath_h (h : Sheaf) : (h.endPath).h = h.h := rfl
@[simp] theorem Sheaf.endPath_tiles (h : Sheaf) : (h.endPath).tiles = h.tiles := rfl
@[simp] theorem Sheaf.endPath_gw (h : Sheaf) : (h.endPath).gw = h.gw := rfl
@[simp] theorem Sheaf.endPath_fflg (h : Sheaf) : (h.endPath).fflg = h.fflg := rfl
@[simp] theorem Sheaf.endPath_dthr (h : Sheaf) : (h.endPath).dthr = h.dthr := rfl
@[simp] theorem Sheaf.endPath_mapl (h : Sheaf) : (h.endPath).mapl = h.mapl := rfl
@[simp] theorem Sheaf.endPath_extl (h : Sheaf) : (h.endPath).extl = h.extl := rfl
@[simp] theorem Sheaf.endPath_llmTab (h : Sheaf) : (h.endPath).llmTab = h.llmTab := rfl
@[simp] theorem Sheaf.endPath_lvf (h : Sheaf) : (h.endPath).lvf = h.lvf := rfl
@[simp] theorem Sheaf.endPath_lanes (h : Sheaf) : (h.endPath).lanes = h.lanes := rfl
@[simp] theorem Sheaf.endPath_chain (h : Sheaf) : (h.endPath).chain = h.chain := rfl
@[simp] theorem Sheaf.endPath_trap (h : Sheaf) : (h.endPath).trap = h.trap := rfl
@[simp] theorem Sheaf.endPath_sstk (h : Sheaf) : (h.endPath).sstk = h.sstk := rfl
@[simp] theorem Sheaf.endPath_sstks (h : Sheaf) : (h.endPath).sstks = h.sstks := rfl
@[simp] theorem Sheaf.endPath_stook (h : Sheaf) : (h.endPath).stook = h.stook := rfl
@[simp] theorem Sheaf.endPath_mq (h : Sheaf) : (h.endPath).mq = h.mq := rfl
@[simp] theorem Sheaf.endPath_nseq (h : Sheaf) : (h.endPath).nseq = h.nseq := rfl
@[simp] theorem Sheaf.endPath_ofence (h : Sheaf) : (h.endPath).ofence = h.ofence := rfl
@[simp] theorem Sheaf.endPath_unfenced (h : Sheaf) : (h.endPath).unfenced = h.unfenced := rfl
@[simp] theorem Sheaf.endPath_bar (h : Sheaf) : (h.endPath).bar = h.bar := rfl
@[simp] theorem Sheaf.endPath_arr (h : Sheaf) : (h.endPath).arr = h.arr := rfl
@[simp] theorem Sheaf.endPath_late (h : Sheaf) : (h.endPath).late = h.late := rfl
@[simp] theorem Sheaf.endPath_raised (h : Sheaf) : (h.endPath).raised = h.raised := rfl
@[simp] theorem Sheaf.endPath_txbs (h : Sheaf) : (h.endPath).txbs = h.txbs := rfl
@[simp] theorem Sheaf.endPath_lastU (h : Sheaf) : (h.endPath).lastU = h.lastU := rfl
@[simp] theorem Sheaf.endPath_lastV (h : Sheaf) : (h.endPath).lastV = h.lastV := rfl
@[simp] theorem Sheaf.endPath_rdy (h : Sheaf) : (h.endPath).rdy = h.rdy := rfl
@[simp] theorem Sheaf.endPath_hinted (h : Sheaf) : (h.endPath).hinted = h.hinted := rfl
@[simp] theorem Sheaf.endPath_waiting (h : Sheaf) : (h.endPath).waiting = h.waiting := rfl
@[simp] theorem Sheaf.endPath_sleep (h : Sheaf) : (h.endPath).sleep = h.sleep := rfl
@[simp] theorem Sheaf.endPath_timeL (h : Sheaf) : (h.endPath).timeL = h.timeL := rfl
@[simp] theorem Sheaf.endPath_run (h : Sheaf) : (h.endPath).run = h.run := rfl
@[simp] theorem Sheaf.endPath_stop (h : Sheaf) : (h.endPath).stop = h.stop := rfl
@[simp] theorem Sheaf.endPath_fbuf (h : Sheaf) : (h.endPath).fbuf = h.fbuf := rfl
@[simp] theorem Sheaf.endPath_safeV (h : Sheaf) : (h.endPath).safeV = h.safeV := rfl
@[simp] theorem Sheaf.endPath_saved (h : Sheaf) : (h.endPath).saved = h.saved := rfl
@[simp] theorem Sheaf.endPath_savedBad (h : Sheaf) : (h.endPath).savedBad = h.savedBad := rfl
@[simp] theorem Sheaf.endPath_admitAt (h : Sheaf) : (h.endPath).admitAt = h.admitAt := rfl
@[simp] theorem Sheaf.endPath_admitFused (h : Sheaf) : (h.endPath).admitFused = h.admitFused := rfl
@[simp] theorem Sheaf.endPath_queued (h : Sheaf) : (h.endPath).queued = h.queued := rfl

/-! `Sheaf.ungather` -/
@[simp] theorem Sheaf.ungather_uid (h : Sheaf) : (h.ungather).uid = h.uid := rfl
@[simp] theorem Sheaf.ungather_shid (h : Sheaf) : (h.ungather).shid = h.shid := rfl
@[simp] theorem Sheaf.ungather_shln (h : Sheaf) : (h.ungather).shln = h.shln := rfl
@[simp] theorem Sheaf.ungather_vn (h : Sheaf) : (h.ungather).vn = h.vn := rfl
@[simp] theorem Sheaf.ungather_mt (h : Sheaf) : (h.ungather).mt = h.mt := rfl
@[simp] theorem Sheaf.ungather_core (h : Sheaf) : (h.ungather).core = h.core := rfl
@[simp] theorem Sheaf.ungather_ctx (h : Sheaf) : (h.ungather).ctx = h.ctx := rfl
@[simp] theorem Sheaf.ungather_ln (h : Sheaf) : (h.ungather).ln = h.ln := rfl
@[simp] theorem Sheaf.ungather_launch (h : Sheaf) : (h.ungather).launch = h.launch := rfl
@[simp] theorem Sheaf.ungather_prio (h : Sheaf) : (h.ungather).prio = h.prio := rfl
@[simp] theorem Sheaf.ungather_task (h : Sheaf) : (h.ungather).task = h.task := rfl
@[simp] theorem Sheaf.ungather_seqr (h : Sheaf) : (h.ungather).seqr = h.seqr := rfl
@[simp] theorem Sheaf.ungather_taskSlot (h : Sheaf) : (h.ungather).taskSlot = h.taskSlot := rfl
@[simp] theorem Sheaf.ungather_origins (h : Sheaf) : (h.ungather).origins = h.origins := rfl
@[simp] theorem Sheaf.ungather_alloc (h : Sheaf) : (h.ungather).alloc = h.alloc := rfl
@[simp] theorem Sheaf.ungather_s (h : Sheaf) : (h.ungather).s = h.s := rfl
@[simp] theorem Sheaf.ungather_h (h : Sheaf) : (h.ungather).h = h.h := rfl
@[simp] theorem Sheaf.ungather_tiles (h : Sheaf) : (h.ungather).tiles = h.tiles := rfl
@[simp] theorem Sheaf.ungather_gw (h : Sheaf) : (h.ungather).gw = h.gw := rfl
@[simp] theorem Sheaf.ungather_fflg (h : Sheaf) : (h.ungather).fflg = h.fflg := rfl
@[simp] theorem Sheaf.ungather_dthr (h : Sheaf) : (h.ungather).dthr = h.dthr := rfl
@[simp] theorem Sheaf.ungather_mapl (h : Sheaf) : (h.ungather).mapl = h.mapl := rfl
@[simp] theorem Sheaf.ungather_extl (h : Sheaf) : (h.ungather).extl = h.extl := rfl
@[simp] theorem Sheaf.ungather_llmTab (h : Sheaf) : (h.ungather).llmTab = h.llmTab := rfl
@[simp] theorem Sheaf.ungather_lvf (h : Sheaf) : (h.ungather).lvf = h.lvf := rfl
@[simp] theorem Sheaf.ungather_lanes (h : Sheaf) : (h.ungather).lanes = h.lanes := rfl
@[simp] theorem Sheaf.ungather_path (h : Sheaf) : (h.ungather).path = h.path := rfl
@[simp] theorem Sheaf.ungather_stack (h : Sheaf) : (h.ungather).stack = h.stack := rfl
@[simp] theorem Sheaf.ungather_chain (h : Sheaf) : (h.ungather).chain = h.chain := rfl
@[simp] theorem Sheaf.ungather_trap (h : Sheaf) : (h.ungather).trap = h.trap := rfl
@[simp] theorem Sheaf.ungather_sstk (h : Sheaf) : (h.ungather).sstk = h.sstk := rfl
@[simp] theorem Sheaf.ungather_sstks (h : Sheaf) : (h.ungather).sstks = h.sstks := rfl
@[simp] theorem Sheaf.ungather_stook (h : Sheaf) : (h.ungather).stook = h.stook := rfl
@[simp] theorem Sheaf.ungather_nseq (h : Sheaf) : (h.ungather).nseq = h.nseq := rfl
@[simp] theorem Sheaf.ungather_ofence (h : Sheaf) : (h.ungather).ofence = h.ofence := rfl
@[simp] theorem Sheaf.ungather_unfenced (h : Sheaf) : (h.ungather).unfenced = h.unfenced := rfl
@[simp] theorem Sheaf.ungather_bar (h : Sheaf) : (h.ungather).bar = h.bar := rfl
@[simp] theorem Sheaf.ungather_arr (h : Sheaf) : (h.ungather).arr = h.arr := rfl
@[simp] theorem Sheaf.ungather_late (h : Sheaf) : (h.ungather).late = h.late := rfl
@[simp] theorem Sheaf.ungather_raised (h : Sheaf) : (h.ungather).raised = h.raised := rfl
@[simp] theorem Sheaf.ungather_txbs (h : Sheaf) : (h.ungather).txbs = h.txbs := rfl
@[simp] theorem Sheaf.ungather_lastU (h : Sheaf) : (h.ungather).lastU = h.lastU := rfl
@[simp] theorem Sheaf.ungather_lastV (h : Sheaf) : (h.ungather).lastV = h.lastV := rfl
@[simp] theorem Sheaf.ungather_rdy (h : Sheaf) : (h.ungather).rdy = h.rdy := rfl
@[simp] theorem Sheaf.ungather_hinted (h : Sheaf) : (h.ungather).hinted = h.hinted := rfl
@[simp] theorem Sheaf.ungather_waiting (h : Sheaf) : (h.ungather).waiting = h.waiting := rfl
@[simp] theorem Sheaf.ungather_sleep (h : Sheaf) : (h.ungather).sleep = h.sleep := rfl
@[simp] theorem Sheaf.ungather_timeL (h : Sheaf) : (h.ungather).timeL = h.timeL := rfl
@[simp] theorem Sheaf.ungather_run (h : Sheaf) : (h.ungather).run = h.run := rfl
@[simp] theorem Sheaf.ungather_stop (h : Sheaf) : (h.ungather).stop = h.stop := rfl
@[simp] theorem Sheaf.ungather_fbuf (h : Sheaf) : (h.ungather).fbuf = h.fbuf := rfl
@[simp] theorem Sheaf.ungather_safeV (h : Sheaf) : (h.ungather).safeV = h.safeV := rfl
@[simp] theorem Sheaf.ungather_saved (h : Sheaf) : (h.ungather).saved = h.saved := rfl
@[simp] theorem Sheaf.ungather_savedBad (h : Sheaf) : (h.ungather).savedBad = h.savedBad := rfl
@[simp] theorem Sheaf.ungather_admitAt (h : Sheaf) : (h.ungather).admitAt = h.admitAt := rfl
@[simp] theorem Sheaf.ungather_admitFused (h : Sheaf) : (h.ungather).admitFused = h.admitFused := rfl
@[simp] theorem Sheaf.ungather_queued (h : Sheaf) : (h.ungather).queued = h.queued := rfl

/-! `Sheaf.settled` -/
@[simp] theorem Sheaf.settled_uid (h : Sheaf) : (h.settled).uid = h.uid := by rw [Sheaf.settled_eq]
@[simp] theorem Sheaf.settled_shid (h : Sheaf) : (h.settled).shid = h.shid := by rw [Sheaf.settled_eq]
@[simp] theorem Sheaf.settled_shln (h : Sheaf) : (h.settled).shln = h.shln := by rw [Sheaf.settled_eq]
@[simp] theorem Sheaf.settled_vn (h : Sheaf) : (h.settled).vn = h.vn := by rw [Sheaf.settled_eq]
@[simp] theorem Sheaf.settled_mt (h : Sheaf) : (h.settled).mt = h.mt := by rw [Sheaf.settled_eq]
@[simp] theorem Sheaf.settled_core (h : Sheaf) : (h.settled).core = h.core := by rw [Sheaf.settled_eq]
@[simp] theorem Sheaf.settled_ctx (h : Sheaf) : (h.settled).ctx = h.ctx := by rw [Sheaf.settled_eq]
@[simp] theorem Sheaf.settled_ln (h : Sheaf) : (h.settled).ln = h.ln := by rw [Sheaf.settled_eq]
@[simp] theorem Sheaf.settled_launch (h : Sheaf) : (h.settled).launch = h.launch := by rw [Sheaf.settled_eq]
@[simp] theorem Sheaf.settled_prio (h : Sheaf) : (h.settled).prio = h.prio := by rw [Sheaf.settled_eq]
@[simp] theorem Sheaf.settled_task (h : Sheaf) : (h.settled).task = h.task := by rw [Sheaf.settled_eq]
@[simp] theorem Sheaf.settled_seqr (h : Sheaf) : (h.settled).seqr = h.seqr := by rw [Sheaf.settled_eq]
@[simp] theorem Sheaf.settled_taskSlot (h : Sheaf) : (h.settled).taskSlot = h.taskSlot := by rw [Sheaf.settled_eq]
@[simp] theorem Sheaf.settled_origins (h : Sheaf) : (h.settled).origins = h.origins := by rw [Sheaf.settled_eq]
@[simp] theorem Sheaf.settled_alloc (h : Sheaf) : (h.settled).alloc = h.alloc := by rw [Sheaf.settled_eq]
@[simp] theorem Sheaf.settled_s (h : Sheaf) : (h.settled).s = h.s := by rw [Sheaf.settled_eq]
@[simp] theorem Sheaf.settled_h (h : Sheaf) : (h.settled).h = h.h := by rw [Sheaf.settled_eq]
@[simp] theorem Sheaf.settled_tiles (h : Sheaf) : (h.settled).tiles = h.tiles := by rw [Sheaf.settled_eq]
@[simp] theorem Sheaf.settled_gw (h : Sheaf) : (h.settled).gw = h.gw := by rw [Sheaf.settled_eq]
@[simp] theorem Sheaf.settled_fflg (h : Sheaf) : (h.settled).fflg = h.fflg := by rw [Sheaf.settled_eq]
@[simp] theorem Sheaf.settled_dthr (h : Sheaf) : (h.settled).dthr = h.dthr := by rw [Sheaf.settled_eq]
@[simp] theorem Sheaf.settled_mapl (h : Sheaf) : (h.settled).mapl = h.mapl := by rw [Sheaf.settled_eq]
@[simp] theorem Sheaf.settled_extl (h : Sheaf) : (h.settled).extl = h.extl := by rw [Sheaf.settled_eq]
@[simp] theorem Sheaf.settled_llmTab (h : Sheaf) : (h.settled).llmTab = h.llmTab := by rw [Sheaf.settled_eq]
@[simp] theorem Sheaf.settled_lvf (h : Sheaf) : (h.settled).lvf = h.lvf := by rw [Sheaf.settled_eq]
@[simp] theorem Sheaf.settled_lanes (h : Sheaf) : (h.settled).lanes = h.lanes := by rw [Sheaf.settled_eq]
@[simp] theorem Sheaf.settled_chain (h : Sheaf) : (h.settled).chain = h.chain := by rw [Sheaf.settled_eq]
@[simp] theorem Sheaf.settled_trap (h : Sheaf) : (h.settled).trap = h.trap := by rw [Sheaf.settled_eq]
@[simp] theorem Sheaf.settled_sstk (h : Sheaf) : (h.settled).sstk = h.sstk := by rw [Sheaf.settled_eq]
@[simp] theorem Sheaf.settled_sstks (h : Sheaf) : (h.settled).sstks = h.sstks := by rw [Sheaf.settled_eq]
@[simp] theorem Sheaf.settled_stook (h : Sheaf) : (h.settled).stook = h.stook := by rw [Sheaf.settled_eq]
@[simp] theorem Sheaf.settled_mq (h : Sheaf) : (h.settled).mq = h.mq := by rw [Sheaf.settled_eq]
@[simp] theorem Sheaf.settled_nseq (h : Sheaf) : (h.settled).nseq = h.nseq := by rw [Sheaf.settled_eq]
@[simp] theorem Sheaf.settled_ofence (h : Sheaf) : (h.settled).ofence = h.ofence := by rw [Sheaf.settled_eq]
@[simp] theorem Sheaf.settled_unfenced (h : Sheaf) : (h.settled).unfenced = h.unfenced := by rw [Sheaf.settled_eq]
@[simp] theorem Sheaf.settled_bar (h : Sheaf) : (h.settled).bar = h.bar := by rw [Sheaf.settled_eq]
@[simp] theorem Sheaf.settled_arr (h : Sheaf) : (h.settled).arr = h.arr := by rw [Sheaf.settled_eq]
@[simp] theorem Sheaf.settled_late (h : Sheaf) : (h.settled).late = h.late := by rw [Sheaf.settled_eq]
@[simp] theorem Sheaf.settled_raised (h : Sheaf) : (h.settled).raised = h.raised := by rw [Sheaf.settled_eq]
@[simp] theorem Sheaf.settled_txbs (h : Sheaf) : (h.settled).txbs = h.txbs := by rw [Sheaf.settled_eq]
@[simp] theorem Sheaf.settled_lastU (h : Sheaf) : (h.settled).lastU = h.lastU := by rw [Sheaf.settled_eq]
@[simp] theorem Sheaf.settled_lastV (h : Sheaf) : (h.settled).lastV = h.lastV := by rw [Sheaf.settled_eq]
@[simp] theorem Sheaf.settled_rdy (h : Sheaf) : (h.settled).rdy = h.rdy := by rw [Sheaf.settled_eq]
@[simp] theorem Sheaf.settled_hinted (h : Sheaf) : (h.settled).hinted = h.hinted := by rw [Sheaf.settled_eq]
@[simp] theorem Sheaf.settled_waiting (h : Sheaf) : (h.settled).waiting = h.waiting := by rw [Sheaf.settled_eq]
@[simp] theorem Sheaf.settled_sleep (h : Sheaf) : (h.settled).sleep = h.sleep := by rw [Sheaf.settled_eq]
@[simp] theorem Sheaf.settled_timeL (h : Sheaf) : (h.settled).timeL = h.timeL := by rw [Sheaf.settled_eq]
@[simp] theorem Sheaf.settled_run (h : Sheaf) : (h.settled).run = h.run := by rw [Sheaf.settled_eq]
@[simp] theorem Sheaf.settled_stop (h : Sheaf) : (h.settled).stop = h.stop := by rw [Sheaf.settled_eq]
@[simp] theorem Sheaf.settled_fbuf (h : Sheaf) : (h.settled).fbuf = h.fbuf := by rw [Sheaf.settled_eq]
@[simp] theorem Sheaf.settled_safeV (h : Sheaf) : (h.settled).safeV = h.safeV := by rw [Sheaf.settled_eq]
@[simp] theorem Sheaf.settled_saved (h : Sheaf) : (h.settled).saved = h.saved := by rw [Sheaf.settled_eq]
@[simp] theorem Sheaf.settled_savedBad (h : Sheaf) : (h.settled).savedBad = h.savedBad := by rw [Sheaf.settled_eq]
@[simp] theorem Sheaf.settled_admitAt (h : Sheaf) : (h.settled).admitAt = h.admitAt := by rw [Sheaf.settled_eq]
@[simp] theorem Sheaf.settled_admitFused (h : Sheaf) : (h.settled).admitFused = h.admitFused := by rw [Sheaf.settled_eq]
@[simp] theorem Sheaf.settled_queued (h : Sheaf) : (h.settled).queued = h.queued := by rw [Sheaf.settled_eq]

/-! `Sheaf.close` -/
@[simp] theorem Sheaf.close_uid (h : Sheaf) : (h.close).uid = h.uid := by rw [Sheaf.close_eq]
@[simp] theorem Sheaf.close_shid (h : Sheaf) : (h.close).shid = h.shid := by rw [Sheaf.close_eq]
@[simp] theorem Sheaf.close_shln (h : Sheaf) : (h.close).shln = h.shln := by rw [Sheaf.close_eq]
@[simp] theorem Sheaf.close_vn (h : Sheaf) : (h.close).vn = h.vn := by rw [Sheaf.close_eq]
@[simp] theorem Sheaf.close_mt (h : Sheaf) : (h.close).mt = h.mt := by rw [Sheaf.close_eq]
@[simp] theorem Sheaf.close_core (h : Sheaf) : (h.close).core = h.core := by rw [Sheaf.close_eq]
@[simp] theorem Sheaf.close_ctx (h : Sheaf) : (h.close).ctx = h.ctx := by rw [Sheaf.close_eq]
@[simp] theorem Sheaf.close_ln (h : Sheaf) : (h.close).ln = h.ln := by rw [Sheaf.close_eq]
@[simp] theorem Sheaf.close_launch (h : Sheaf) : (h.close).launch = h.launch := by rw [Sheaf.close_eq]
@[simp] theorem Sheaf.close_prio (h : Sheaf) : (h.close).prio = h.prio := by rw [Sheaf.close_eq]
@[simp] theorem Sheaf.close_task (h : Sheaf) : (h.close).task = h.task := by rw [Sheaf.close_eq]
@[simp] theorem Sheaf.close_seqr (h : Sheaf) : (h.close).seqr = h.seqr := by rw [Sheaf.close_eq]
@[simp] theorem Sheaf.close_taskSlot (h : Sheaf) : (h.close).taskSlot = h.taskSlot := by rw [Sheaf.close_eq]
@[simp] theorem Sheaf.close_origins (h : Sheaf) : (h.close).origins = h.origins := by rw [Sheaf.close_eq]
@[simp] theorem Sheaf.close_alloc (h : Sheaf) : (h.close).alloc = h.alloc := by rw [Sheaf.close_eq]
@[simp] theorem Sheaf.close_s (h : Sheaf) : (h.close).s = h.s := by rw [Sheaf.close_eq]
@[simp] theorem Sheaf.close_h (h : Sheaf) : (h.close).h = h.h := by rw [Sheaf.close_eq]
@[simp] theorem Sheaf.close_tiles (h : Sheaf) : (h.close).tiles = h.tiles := by rw [Sheaf.close_eq]
@[simp] theorem Sheaf.close_gw (h : Sheaf) : (h.close).gw = h.gw := by rw [Sheaf.close_eq]
@[simp] theorem Sheaf.close_fflg (h : Sheaf) : (h.close).fflg = h.fflg := by rw [Sheaf.close_eq]
@[simp] theorem Sheaf.close_dthr (h : Sheaf) : (h.close).dthr = h.dthr := by rw [Sheaf.close_eq]
@[simp] theorem Sheaf.close_mapl (h : Sheaf) : (h.close).mapl = h.mapl := by rw [Sheaf.close_eq]
@[simp] theorem Sheaf.close_extl (h : Sheaf) : (h.close).extl = h.extl := by rw [Sheaf.close_eq]
@[simp] theorem Sheaf.close_llmTab (h : Sheaf) : (h.close).llmTab = h.llmTab := by rw [Sheaf.close_eq]
@[simp] theorem Sheaf.close_lvf (h : Sheaf) : (h.close).lvf = h.lvf := by rw [Sheaf.close_eq]
@[simp] theorem Sheaf.close_lanes (h : Sheaf) : (h.close).lanes = h.lanes := by rw [Sheaf.close_eq]
@[simp] theorem Sheaf.close_trap (h : Sheaf) : (h.close).trap = h.trap := by rw [Sheaf.close_eq]
@[simp] theorem Sheaf.close_sstk (h : Sheaf) : (h.close).sstk = h.sstk := by rw [Sheaf.close_eq]
@[simp] theorem Sheaf.close_sstks (h : Sheaf) : (h.close).sstks = h.sstks := by rw [Sheaf.close_eq]
@[simp] theorem Sheaf.close_stook (h : Sheaf) : (h.close).stook = h.stook := by rw [Sheaf.close_eq]
@[simp] theorem Sheaf.close_mq (h : Sheaf) : (h.close).mq = h.mq := by rw [Sheaf.close_eq]
@[simp] theorem Sheaf.close_nseq (h : Sheaf) : (h.close).nseq = h.nseq := by rw [Sheaf.close_eq]
@[simp] theorem Sheaf.close_ofence (h : Sheaf) : (h.close).ofence = h.ofence := by rw [Sheaf.close_eq]
@[simp] theorem Sheaf.close_unfenced (h : Sheaf) : (h.close).unfenced = h.unfenced := by rw [Sheaf.close_eq]
@[simp] theorem Sheaf.close_bar (h : Sheaf) : (h.close).bar = h.bar := by rw [Sheaf.close_eq]
@[simp] theorem Sheaf.close_arr (h : Sheaf) : (h.close).arr = h.arr := by rw [Sheaf.close_eq]
@[simp] theorem Sheaf.close_late (h : Sheaf) : (h.close).late = h.late := by rw [Sheaf.close_eq]
@[simp] theorem Sheaf.close_raised (h : Sheaf) : (h.close).raised = h.raised := by rw [Sheaf.close_eq]
@[simp] theorem Sheaf.close_txbs (h : Sheaf) : (h.close).txbs = h.txbs := by rw [Sheaf.close_eq]
@[simp] theorem Sheaf.close_lastU (h : Sheaf) : (h.close).lastU = h.lastU := by rw [Sheaf.close_eq]
@[simp] theorem Sheaf.close_lastV (h : Sheaf) : (h.close).lastV = h.lastV := by rw [Sheaf.close_eq]
@[simp] theorem Sheaf.close_rdy (h : Sheaf) : (h.close).rdy = h.rdy := by rw [Sheaf.close_eq]
@[simp] theorem Sheaf.close_hinted (h : Sheaf) : (h.close).hinted = h.hinted := by rw [Sheaf.close_eq]
@[simp] theorem Sheaf.close_sleep (h : Sheaf) : (h.close).sleep = h.sleep := by rw [Sheaf.close_eq]
@[simp] theorem Sheaf.close_run (h : Sheaf) : (h.close).run = h.run := by rw [Sheaf.close_eq]
@[simp] theorem Sheaf.close_stop (h : Sheaf) : (h.close).stop = h.stop := by rw [Sheaf.close_eq]
@[simp] theorem Sheaf.close_safeV (h : Sheaf) : (h.close).safeV = h.safeV := by rw [Sheaf.close_eq]
@[simp] theorem Sheaf.close_saved (h : Sheaf) : (h.close).saved = h.saved := by rw [Sheaf.close_eq]
@[simp] theorem Sheaf.close_savedBad (h : Sheaf) : (h.close).savedBad = h.savedBad := by rw [Sheaf.close_eq]
@[simp] theorem Sheaf.close_admitAt (h : Sheaf) : (h.close).admitAt = h.admitAt := by rw [Sheaf.close_eq]
@[simp] theorem Sheaf.close_admitFused (h : Sheaf) : (h.close).admitFused = h.admitFused := by rw [Sheaf.close_eq]
@[simp] theorem Sheaf.close_queued (h : Sheaf) : (h.close).queued = h.queued := by rw [Sheaf.close_eq]

/-! `Sheaf.retire` -/
@[simp] theorem Sheaf.retire_uid (h : Sheaf) (pc : Pc) : (h.retire pc).uid = h.uid := by simp [Sheaf.retire]
@[simp] theorem Sheaf.retire_shid (h : Sheaf) (pc : Pc) : (h.retire pc).shid = h.shid := by simp [Sheaf.retire]
@[simp] theorem Sheaf.retire_shln (h : Sheaf) (pc : Pc) : (h.retire pc).shln = h.shln := by simp [Sheaf.retire]
@[simp] theorem Sheaf.retire_vn (h : Sheaf) (pc : Pc) : (h.retire pc).vn = h.vn := by simp [Sheaf.retire]
@[simp] theorem Sheaf.retire_mt (h : Sheaf) (pc : Pc) : (h.retire pc).mt = h.mt := by simp [Sheaf.retire]
@[simp] theorem Sheaf.retire_core (h : Sheaf) (pc : Pc) : (h.retire pc).core = h.core := by simp [Sheaf.retire]
@[simp] theorem Sheaf.retire_ctx (h : Sheaf) (pc : Pc) : (h.retire pc).ctx = h.ctx := by simp [Sheaf.retire]
@[simp] theorem Sheaf.retire_ln (h : Sheaf) (pc : Pc) : (h.retire pc).ln = h.ln := by simp [Sheaf.retire]
@[simp] theorem Sheaf.retire_launch (h : Sheaf) (pc : Pc) : (h.retire pc).launch = h.launch := by simp [Sheaf.retire]
@[simp] theorem Sheaf.retire_prio (h : Sheaf) (pc : Pc) : (h.retire pc).prio = h.prio := by simp [Sheaf.retire]
@[simp] theorem Sheaf.retire_task (h : Sheaf) (pc : Pc) : (h.retire pc).task = h.task := by simp [Sheaf.retire]
@[simp] theorem Sheaf.retire_seqr (h : Sheaf) (pc : Pc) : (h.retire pc).seqr = h.seqr := by simp [Sheaf.retire]
@[simp] theorem Sheaf.retire_taskSlot (h : Sheaf) (pc : Pc) : (h.retire pc).taskSlot = h.taskSlot := by simp [Sheaf.retire]
@[simp] theorem Sheaf.retire_origins (h : Sheaf) (pc : Pc) : (h.retire pc).origins = h.origins := by simp [Sheaf.retire]
@[simp] theorem Sheaf.retire_alloc (h : Sheaf) (pc : Pc) : (h.retire pc).alloc = h.alloc := by simp [Sheaf.retire]
@[simp] theorem Sheaf.retire_s (h : Sheaf) (pc : Pc) : (h.retire pc).s = h.s := by simp [Sheaf.retire]
@[simp] theorem Sheaf.retire_h (h : Sheaf) (pc : Pc) : (h.retire pc).h = h.h := by simp [Sheaf.retire]
@[simp] theorem Sheaf.retire_tiles (h : Sheaf) (pc : Pc) : (h.retire pc).tiles = h.tiles := by simp [Sheaf.retire]
@[simp] theorem Sheaf.retire_gw (h : Sheaf) (pc : Pc) : (h.retire pc).gw = h.gw := by simp [Sheaf.retire]
@[simp] theorem Sheaf.retire_fflg (h : Sheaf) (pc : Pc) : (h.retire pc).fflg = h.fflg := by simp [Sheaf.retire]
@[simp] theorem Sheaf.retire_dthr (h : Sheaf) (pc : Pc) : (h.retire pc).dthr = h.dthr := by simp [Sheaf.retire]
@[simp] theorem Sheaf.retire_mapl (h : Sheaf) (pc : Pc) : (h.retire pc).mapl = h.mapl := by simp [Sheaf.retire]
@[simp] theorem Sheaf.retire_extl (h : Sheaf) (pc : Pc) : (h.retire pc).extl = h.extl := by simp [Sheaf.retire]
@[simp] theorem Sheaf.retire_llmTab (h : Sheaf) (pc : Pc) : (h.retire pc).llmTab = h.llmTab := by simp [Sheaf.retire]
@[simp] theorem Sheaf.retire_lvf (h : Sheaf) (pc : Pc) : (h.retire pc).lvf = h.lvf := by simp [Sheaf.retire]
@[simp] theorem Sheaf.retire_lanes (h : Sheaf) (pc : Pc) : (h.retire pc).lanes = h.lanes := by simp [Sheaf.retire]
@[simp] theorem Sheaf.retire_trap (h : Sheaf) (pc : Pc) : (h.retire pc).trap = h.trap := by simp [Sheaf.retire]
@[simp] theorem Sheaf.retire_sstk (h : Sheaf) (pc : Pc) : (h.retire pc).sstk = h.sstk := by simp [Sheaf.retire]
@[simp] theorem Sheaf.retire_sstks (h : Sheaf) (pc : Pc) : (h.retire pc).sstks = h.sstks := by simp [Sheaf.retire]
@[simp] theorem Sheaf.retire_stook (h : Sheaf) (pc : Pc) : (h.retire pc).stook = h.stook := by simp [Sheaf.retire]
@[simp] theorem Sheaf.retire_mq (h : Sheaf) (pc : Pc) : (h.retire pc).mq = h.mq := by simp [Sheaf.retire]
@[simp] theorem Sheaf.retire_nseq (h : Sheaf) (pc : Pc) : (h.retire pc).nseq = h.nseq := by simp [Sheaf.retire]
@[simp] theorem Sheaf.retire_ofence (h : Sheaf) (pc : Pc) : (h.retire pc).ofence = h.ofence := by simp [Sheaf.retire]
@[simp] theorem Sheaf.retire_unfenced (h : Sheaf) (pc : Pc) : (h.retire pc).unfenced = h.unfenced := by simp [Sheaf.retire]
@[simp] theorem Sheaf.retire_bar (h : Sheaf) (pc : Pc) : (h.retire pc).bar = h.bar := by simp [Sheaf.retire]
@[simp] theorem Sheaf.retire_arr (h : Sheaf) (pc : Pc) : (h.retire pc).arr = h.arr := by simp [Sheaf.retire]
@[simp] theorem Sheaf.retire_late (h : Sheaf) (pc : Pc) : (h.retire pc).late = h.late := by simp [Sheaf.retire]
@[simp] theorem Sheaf.retire_raised (h : Sheaf) (pc : Pc) : (h.retire pc).raised = h.raised := by simp [Sheaf.retire]
@[simp] theorem Sheaf.retire_txbs (h : Sheaf) (pc : Pc) : (h.retire pc).txbs = h.txbs := by simp [Sheaf.retire]
@[simp] theorem Sheaf.retire_lastU (h : Sheaf) (pc : Pc) : (h.retire pc).lastU = h.lastU := by simp [Sheaf.retire]
@[simp] theorem Sheaf.retire_lastV (h : Sheaf) (pc : Pc) : (h.retire pc).lastV = h.lastV := by simp [Sheaf.retire]
@[simp] theorem Sheaf.retire_rdy (h : Sheaf) (pc : Pc) : (h.retire pc).rdy = h.rdy := by simp [Sheaf.retire]
@[simp] theorem Sheaf.retire_hinted (h : Sheaf) (pc : Pc) : (h.retire pc).hinted = h.hinted := by simp [Sheaf.retire]
@[simp] theorem Sheaf.retire_sleep (h : Sheaf) (pc : Pc) : (h.retire pc).sleep = h.sleep := by simp [Sheaf.retire]
@[simp] theorem Sheaf.retire_run (h : Sheaf) (pc : Pc) : (h.retire pc).run = h.run := by simp [Sheaf.retire]
@[simp] theorem Sheaf.retire_stop (h : Sheaf) (pc : Pc) : (h.retire pc).stop = h.stop := by simp [Sheaf.retire]
@[simp] theorem Sheaf.retire_safeV (h : Sheaf) (pc : Pc) : (h.retire pc).safeV = h.safeV := by simp [Sheaf.retire]
@[simp] theorem Sheaf.retire_saved (h : Sheaf) (pc : Pc) : (h.retire pc).saved = h.saved := by simp [Sheaf.retire]
@[simp] theorem Sheaf.retire_savedBad (h : Sheaf) (pc : Pc) : (h.retire pc).savedBad = h.savedBad := by simp [Sheaf.retire]
@[simp] theorem Sheaf.retire_admitAt (h : Sheaf) (pc : Pc) : (h.retire pc).admitAt = h.admitAt := by simp [Sheaf.retire]
@[simp] theorem Sheaf.retire_admitFused (h : Sheaf) (pc : Pc) : (h.retire pc).admitFused = h.admitFused := by simp [Sheaf.retire]
@[simp] theorem Sheaf.retire_queued (h : Sheaf) (pc : Pc) : (h.retire pc).queued = h.queued := by simp [Sheaf.retire]

/-- The end of a unit shows in nothing that `apart` keeps. -/
@[simp] theorem Sheaf.retire_apart (h : Sheaf) (pc : Pc) : (h.retire pc).apart = h.apart := by
  unfold Sheaf.retire
  rw [Sheaf.close_eq]
  simp [Sheaf.apart]
@[simp] theorem Sheaf.close_apart (h : Sheaf) : h.close.apart = h.apart := by
  rw [Sheaf.close_eq]
  simp only [Sheaf.apart]

/-! Registers -/

@[simp] theorem Sheaf.setS_zero (h : Sheaf) (w : Word) : h.setS 0 w = h := rfl
@[simp] theorem Sheaf.getS_zero (h : Sheaf) : h.getS 0 = 0 := rfl
theorem Sheaf.getS_congr (h h' : Sheaf) (e : h'.s = h.s) (n : Nat) : h'.getS n = h.getS n := by simp [Sheaf.getS, e]
/-- Another register reads as before. -/
theorem Sheaf.getS_setS_other (h : Sheaf) (n m : Nat) (w : Word) (e : m ≠ n) : (h.setS n w).getS m = h.getS m := by
  unfold Sheaf.setS Sheaf.getS
  split
  · rfl
  · split
    · rfl
    · simp [List.getD, List.getElem?_set, Ne.symm e]
/-- A register of the file reads what was written. -/
theorem Sheaf.getS_setS_same (h : Sheaf) (n : Nat) (w : Word) (e : n ≠ 0) (l : n < h.s.length) : (h.setS n w).getS n = w := by
  simp [Sheaf.setS, Sheaf.getS, e, List.getD, l]
/-- Another v register reads as before. -/
theorem Lane.getV_setV_other (l : Lane) (n m : Nat) (w : Word) (e : m ≠ n) : (l.setV n w).getV m = l.getV m := by
  simp [Lane.setV, Lane.getV, List.getD, List.getElem?_set, Ne.symm e]
/-- A v register of the file reads what was written. -/
theorem Lane.getV_setV_same (l : Lane) (n : Nat) (w : Word) (e : n < l.v.length) : (l.setV n w).getV n = w := by
  simp [Lane.setV, Lane.getV, List.getD, e]

/-! Sheaves -/

/-- Looking a sheaf up after one of the same identifier has been put back. -/
theorem State.sheaf?_putSheaf (s : State) (h : Sheaf) (u : Nat) :
    (s.putSheaf h).sheaf? u = if u = h.uid then (s.sheaf? u).map (fun _ => h) else s.sheaf? u := by
  unfold State.sheaf? State.putSheaf
  simp only [List.find?_map]
  induction s.sheaves with
  | nil => simp
  | cons x l ih =>
    by_cases hx : x.uid = h.uid <;> by_cases hu : u = h.uid <;> by_cases hxu : x.uid = u <;>
      simp_all [List.find?_cons, Function.comp]

end Sys2Proof.Machine
end

