-- ==== Sys2Proof/Laws/Bytes.lean ====
section
/-! SUPPORT. What leaves every byte of the four memories as it was: one lemma for each shared operation, and one for the
instructions that complete through them. -/

namespace Sys2Proof.Machine

/-- The four memories of the machine. -/
def State.bytes (s : State) : Mem × Mem × Mem × Mem := (s.mm.pool, s.mm.host, s.mm.slm, s.mm.scr)

/-- Equal memories read alike. -/
theorem sameBytes_of_bytes {s t : State} (h : t.bytes = s.bytes) : SameBytes s t := by
  simp only [State.bytes, Prod.mk.injEq] at h
  obtain ⟨h1, h2, h3, h4⟩ := h
  simp [SameBytes, h1, h2, h3, h4]

/-- Memories in canonical form stay so where no byte changes. -/
theorem memOk_of_bytes {s t : State} (h : t.bytes = s.bytes) (m : MemOk s) : MemOk t := by
  simp only [State.bytes, Prod.mk.injEq] at h
  obtain ⟨h1, h2, h3, h4⟩ := h
  simpa [MemOk, h1, h2, h3, h4] using m

/-! ### Shared operations -/

@[simp] theorem State.draw_bytes (s : State) (k : Nat) : (s.draw k).bytes = s.bytes := rfl
@[simp] theorem State.fresh_bytes (s : State) (k : Nat) : (s.fresh k).bytes = s.bytes := rfl
@[simp] theorem State.putSheaf_bytes (s : State) (h : Sheaf) : (s.putSheaf h).bytes = s.bytes := rfl
@[simp] theorem State.modSheaf_bytes (s : State) (u : Nat) (f : Sheaf → Sheaf) : (s.modSheaf u f).bytes = s.bytes := rfl
@[simp] theorem State.modCtx_bytes (s : State) (c : Nat) (f : Ctx → Ctx) : (s.modCtx c f).bytes = s.bytes := rfl
@[simp] theorem State.modSeqr_bytes (s : State) (c : Nat) (f : Seqr → Seqr) : (s.modSeqr c f).bytes = s.bytes := rfl
@[simp] theorem State.modOp_bytes (s : State) (o : Nat) (f : Op → Op) : (s.modOp o f).bytes = s.bytes := rfl
@[simp] theorem State.modMbx_bytes (s : State) (m : Nat) (f : Mbx → Mbx) : (s.modMbx m f).bytes = s.bytes := rfl
@[simp] theorem State.postMsg_bytes (s : State) (m : Nat) (b : List Byte) : (s.postMsg m b).bytes = s.bytes := rfl
@[simp] theorem State.sendBatches_bytes (s : State) (u : Nat) : (s.sendBatches u).bytes = s.bytes := rfl
@[simp] theorem State.dropCopies_bytes (s : State) (f : Copy → Bool) : (s.dropCopies f).bytes = s.bytes := rfl
@[simp] theorem State.done_bytes (s : State) (h : Sheaf) : (s.done h).bytes = s.bytes := rfl
@[simp] theorem State.goTo_bytes (s : State) (h : Sheaf) (pc : Pc) : (s.goTo h pc).bytes = s.bytes := rfl
@[simp] theorem State.hold_bytes (s : State) (h : Sheaf) (b : Bool) : (s.hold h b).bytes = s.bytes := rfl
@[simp] theorem State.spend_bytes (s : State) (h : Sheaf) (n : Nat) : (s.spend h n).bytes = s.bytes := by
  unfold State.spend; split <;> rfl
@[simp] theorem State.putNest_bytes (s : State) (n : NestSync) : (s.putNest n).bytes = s.bytes := rfl
@[simp] theorem State.leaveStook_bytes (s : State) (u : Nat) : (s.leaveStook u).bytes = s.bytes := rfl
@[simp] theorem State.joinAs_bytes (s : State) (h : Sheaf) (n : Word) (k : Nat) : (s.joinAs h n k).bytes = s.bytes := by
  unfold State.joinAs; split <;> rfl
@[simp] theorem State.postFault_bytes (s : State) (c : Nat) (b : List Byte) : (s.postFault c b).bytes = s.bytes := by
  unfold State.postFault
  repeat' split
  all_goals rfl
@[simp] theorem State.haltSheaf_bytes (s : State) (h : Sheaf) (c : Nat) (a : DWord) (w : Word) (l : Bool) (pc : Pc) :
    (s.haltSheaf h c a w l pc).bytes = s.bytes := by
  simp [State.haltSheaf, State.postHalt]
@[simp] theorem State.endSeq_bytes (s : State) (h : Sheaf) (f : Seqr → Seqr) : (s.endSeq h f).bytes = s.bytes := rfl
@[simp] theorem State.takeTrap_bytes (s : State) (h : Sheaf) (c : Nat) (a : DWord) (w : Word) (l : Bool) (pc ret : Pc) :
    (s.takeTrap h c a w l pc ret).bytes = s.bytes := by
  unfold State.takeTrap
  repeat' split
  all_goals simp
@[simp] theorem State.violateAll_bytes (s : State) (h : Sheaf) (cs : List (Nat × DWord)) : (s.violateAll h cs).bytes = s.bytes := by
  induction cs generalizing s with
  | nil => rfl
  | cons c cs ih =>
    unfold State.violateAll
    rw [ih]
    split <;> rfl
@[simp] theorem State.raise_bytes (s : State) (h : Sheaf) (w : Word) (cs : List (Nat × DWord)) : (s.raise h w cs).bytes = s.bytes := by
  unfold State.raise
  repeat' split
  all_goals simp
@[simp] theorem State.trapNow_bytes (s : State) (h : Sheaf) (i : Instr) (c : Nat) (a : DWord) : (s.trapNow h i c a).bytes = s.bytes := by
  simp [State.trapNow]
@[simp] theorem State.decodeTrap_bytes (s : State) (h : Sheaf) (w : Word) (c : Nat) : (s.decodeTrap h w c).bytes = s.bytes := by
  simp [State.decodeTrap]
@[simp] theorem State.refuse_bytes (s : State) (h : Sheaf) (i : Instr) (cs : List Refusal1) : (s.refuse h i cs).bytes = s.bytes := by
  simp [State.refuse]
@[simp] theorem State.finish_bytes (s : State) (h : Sheaf) (i : Instr) (cs : List (Nat × DWord)) : (s.finish h i cs).bytes = s.bytes := by
  unfold State.finish; split <;> simp
@[simp] theorem State.pushTo_bytes (s : State) (h h' : Sheaf) (i : Instr) (pc : Pc) : (s.pushTo h h' i pc).bytes = s.bytes := by
  unfold State.pushTo; split <;> simp
@[simp] theorem State.softTrap_bytes (s : State) (h : Sheaf) (i : Instr) (c : Nat) (k : BitVec 21) : (s.softTrap h i c k).bytes = s.bytes := by
  simp [State.softTrap]
theorem State.afterRelease_bytes (s : State) (h : Sheaf) (scp : BitVec 3) (b : Bool) (k : Sheaf → State → State)
    (e : ∀ x t, (k x t).bytes = t.bytes) : (s.afterRelease h scp b k).bytes = s.bytes := by
  unfold State.afterRelease; split <;> simp [e]

/-! ### Instructions -/

/-- A sheaf that has observed all its operations overwrites no operand register of one (06/R169). -/
theorem State.clobbered_of_unseen {s : State} {h : Sheaf} (u : s.unseen h = []) (i : Instr) : s.clobbered h i = [] := by
  simp [State.clobbered, u]

/-- An instruction word of a sheaf that has observed all its operations leaves the bytes as they were if its own effect does. -/
theorem issue_bytes {i : Instr} {s t : State} {body : Sheaf → State → State} (e : ∀ h, (body h s).bytes = s.bytes)
    (u : ∀ h, s.cur? = some h → s.unseen h = []) (r : issue i s body = .next t) : t.bytes = s.bytes := by
  unfold issue at r
  split at r
  · cases r
  next h c =>
    cases r
    unfold State.issueBy
    simp only [State.clobbered_of_unseen (u h c)]
    repeat' split
    all_goals simp [e]

end Sys2Proof.Machine
end

