-- ==== Sys2Proof/Laws/Issue.lean ====
section
/-! SUPPORT. What an instruction word does when its sheaf is ready, and what the end of a unit leaves. -/

namespace Sys2Proof.Machine

/-- A ready instruction has its own effect. -/
theorem issue_ready {s : State} {h : Sheaf} {i : Instr} (r : Ready s h i) (body : Sheaf → State → State) :
    issue i s body = .next (body h s) := by
  obtain ⟨h1, h2, h3, h4, h5, h6⟩ := r
  simp [issue, h1, State.issueBy, h2, h3, leastCause, h4, h5, h6]

/-- A swept instruction, ready. -/
theorem swept_ready {s : State} {h : Sheaf} {i : Instr} (r : Ready s h i) (f : Sheaf → Lane → Lane × Flags) :
    swept i s f = .next (s.done (h.sweep i (f h))) := issue_ready r _

/-- A uniform instruction that writes an s register, ready. -/
theorem scalar_ready {s : State} {h : Sheaf} {i : Instr} (r : Ready s h i) (n : Nat) (f : Sheaf → Word) :
    scalar i s n f = .next (s.done (h.setS n (f h))) := issue_ready r _

/-- A uniform instruction that writes an s pair, ready. -/
theorem scalarPair_ready {s : State} {h : Sheaf} {i : Instr} (r : Ready s h i) (n : Nat) (f : Sheaf → DWord) :
    scalarPair i s n f = .next (s.done (h.setPair n (f h))) := issue_ready r _

/-- A swept instruction of a declared class, ready and within its budget. -/
theorem sweptAt_ready {s : State} {h : Sheaf} {i : Instr} (r : Ready s h i) (c : Nat) (f : Sheaf → Lane → Lane × Flags)
    (b : s.canSpend h (energyCost c) = true) :
    sweptAt c i s f = .next ((s.spend h (energyCost c)).done (h.sweep i (f h))) := by
  simp [sweptAt, issue_ready r, b]

/-- An instruction word answers a next state whenever there is a current sheaf. -/
theorem issue_next {s : State} {h : Sheaf} (c : s.cur? = some h) (i : Instr) (body : Sheaf → State → State) :
    ∃ t, issue i s body = .next t := by
  simp [issue, c]

/-- The current sheaf is found under its identifier. -/
theorem State.cur_sheaf {s : State} {h : Sheaf} (c : s.cur? = some h) : s.sheaf? h.uid = some h := by
  have e : s.ctl.cur = h.uid := by
    have := List.find?_some c
    simpa using (eq_comm.mp (by simpa using this : h.uid = s.ctl.cur))
  simpa [State.cur?, e] using c

/-- After the end of a unit the sheaf is the changed one, without its unit. -/
theorem State.done_sheaf {s : State} {h h' : Sheaf} (c : s.cur? = some h) (e : h'.uid = h.uid) :
    (s.done h').sheaf? h.uid = some (h'.retire h'.nextPc) := by
  unfold State.done
  rw [State.sheaf?_putSheaf]
  simp [e, State.cur_sheaf c]

/-- The end of a unit changes nothing but its sheaf. -/
theorem State.done_only (s : State) (h : Sheaf) : OnlySheaf s (s.done h) h.uid := by
  refine ⟨rfl, fun v hv => ?_⟩
  unfold State.done
  rw [State.sheaf?_putSheaf]
  simp [hv]

end Sys2Proof.Machine
end

