-- ==== Sys2Proof/Laws/PerInstr.lean ====
section
/-! SUPPORT. Decoding what is encoded (04/R74, R75, R90, R91): one lemma per constructor. -/

namespace Sys2Proof.Laws

/-- Bits of a concatenation, read field by field. -/
theorem extract_eq {n m : Nat} (x : BitVec n) (y : BitVec m) (lo : Nat)
    (h : ∀ i, i < m → x.getLsbD (lo + i) = y.getLsbD i) : x.extractLsb' lo m = y := by
  apply BitVec.eq_of_getLsbD_eq
  intro i hi
  simpa [BitVec.getLsbD_extractLsb', hi] using h i hi

theorem FV3_maj (o : FV3) (maj : BitVec 5) (opx : BitVec 4) : (o.word maj opx).extractLsb' 27 5 = maj := by
  apply extract_eq; intro i hi
  change BitVec.getLsbD (w := 5 + 4 + 2 + 7 + 7 + 7) (maj ++ opx ++ o.pg ++ o.d ++ o.a ++ o.b) (27 + i) = _
  simp only [BitVec.getLsbD_append]
  (repeat' split) <;> first | omega | (congr 1; omega)

theorem FV3_opx (o : FV3) (maj : BitVec 5) (opx : BitVec 4) : (o.word maj opx).extractLsb' 23 4 = opx := by
  apply extract_eq; intro i hi
  change BitVec.getLsbD (w := 5 + 4 + 2 + 7 + 7 + 7) (maj ++ opx ++ o.pg ++ o.d ++ o.a ++ o.b) (23 + i) = _
  simp only [BitVec.getLsbD_append]
  (repeat' split) <;> first | omega | (congr 1; omega)

theorem FV3_pg (o : FV3) (maj : BitVec 5) (opx : BitVec 4) : (o.word maj opx).extractLsb' 21 2 = o.pg := by
  apply extract_eq; intro i hi
  change BitVec.getLsbD (w := 5 + 4 + 2 + 7 + 7 + 7) (maj ++ opx ++ o.pg ++ o.d ++ o.a ++ o.b) (21 + i) = _
  simp only [BitVec.getLsbD_append]
  (repeat' split) <;> first | omega | (congr 1; omega)

theorem FV3_d (o : FV3) (maj : BitVec 5) (opx : BitVec 4) : (o.word maj opx).extractLsb' 14 7 = o.d := by
  apply extract_eq; intro i hi
  change BitVec.getLsbD (w := 5 + 4 + 2 + 7 + 7 + 7) (maj ++ opx ++ o.pg ++ o.d ++ o.a ++ o.b) (14 + i) = _
  simp only [BitVec.getLsbD_append]
  (repeat' split) <;> first | omega | (congr 1; omega)

theorem FV3_a (o : FV3) (maj : BitVec 5) (opx : BitVec 4) : (o.word maj opx).extractLsb' 7 7 = o.a := by
  apply extract_eq; intro i hi
  change BitVec.getLsbD (w := 5 + 4 + 2 + 7 + 7 + 7) (maj ++ opx ++ o.pg ++ o.d ++ o.a ++ o.b) (7 + i) = _
  simp only [BitVec.getLsbD_append]
  (repeat' split) <;> first | omega | (congr 1; omega)

theorem FV3_b (o : FV3) (maj : BitVec 5) (opx : BitVec 4) : (o.word maj opx).extractLsb' 0 7 = o.b := by
  apply extract_eq; intro i hi
  change BitVec.getLsbD (w := 5 + 4 + 2 + 7 + 7 + 7) (maj ++ opx ++ o.pg ++ o.d ++ o.a ++ o.b) (0 + i) = _
  simp only [BitVec.getLsbD_append]
  (repeat' split) <;> first | omega | (congr 1; omega)

/-- Every field of the format is read back. -/
theorem FV3_ofWord (o : FV3) (maj : BitVec 5) (opx : BitVec 4) : FV3.ofWord (o.word maj opx) = o := by
  simp only [FV3.ofWord, FV3_pg, FV3_d, FV3_a, FV3_b]

theorem FVI_maj (o : FVI) (maj : BitVec 5) (opx : BitVec 4) : (o.word maj opx).extractLsb' 27 5 = maj := by
  apply extract_eq; intro i hi
  change BitVec.getLsbD (w := 5 + 4 + 2 + 7 + 7 + 7) (maj ++ opx ++ o.pg ++ o.d ++ o.a ++ o.imm) (27 + i) = _
  simp only [BitVec.getLsbD_append]
  (repeat' split) <;> first | omega | (congr 1; omega)

theorem FVI_opx (o : FVI) (maj : BitVec 5) (opx : BitVec 4) : (o.word maj opx).extractLsb' 23 4 = opx := by
  apply extract_eq; intro i hi
  change BitVec.getLsbD (w := 5 + 4 + 2 + 7 + 7 + 7) (maj ++ opx ++ o.pg ++ o.d ++ o.a ++ o.imm) (23 + i) = _
  simp only [BitVec.getLsbD_append]
  (repeat' split) <;> first | omega | (congr 1; omega)

theorem FVI_pg (o : FVI) (maj : BitVec 5) (opx : BitVec 4) : (o.word maj opx).extractLsb' 21 2 = o.pg := by
  apply extract_eq; intro i hi
  change BitVec.getLsbD (w := 5 + 4 + 2 + 7 + 7 + 7) (maj ++ opx ++ o.pg ++ o.d ++ o.a ++ o.imm) (21 + i) = _
  simp only [BitVec.getLsbD_append]
  (repeat' split) <;> first | omega | (congr 1; omega)

theorem FVI_d (o : FVI) (maj : BitVec 5) (opx : BitVec 4) : (o.word maj opx).extractLsb' 14 7 = o.d := by
  apply extract_eq; intro i hi
  change BitVec.getLsbD (w := 5 + 4 + 2 + 7 + 7 + 7) (maj ++ opx ++ o.pg ++ o.d ++ o.a ++ o.imm) (14 + i) = _
  simp only [BitVec.getLsbD_append]
  (repeat' split) <;> first | omega | (congr 1; omega)

theorem FVI_a (o : FVI) (maj : BitVec 5) (opx : BitVec 4) : (o.word maj opx).extractLsb' 7 7 = o.a := by
  apply extract_eq; intro i hi
  change BitVec.getLsbD (w := 5 + 4 + 2 + 7 + 7 + 7) (maj ++ opx ++ o.pg ++ o.d ++ o.a ++ o.imm) (7 + i) = _
  simp only [BitVec.getLsbD_append]
  (repeat' split) <;> first | omega | (congr 1; omega)

theorem FVI_imm (o : FVI) (maj : BitVec 5) (opx : BitVec 4) : (o.word maj opx).extractLsb' 0 7 = o.imm := by
  apply extract_eq; intro i hi
  change BitVec.getLsbD (w := 5 + 4 + 2 + 7 + 7 + 7) (maj ++ opx ++ o.pg ++ o.d ++ o.a ++ o.imm) (0 + i) = _
  simp only [BitVec.getLsbD_append]
  (repeat' split) <;> first | omega | (congr 1; omega)

/-- Every field of the format is read back. -/
theorem FVI_ofWord (o : FVI) (maj : BitVec 5) (opx : BitVec 4) : FVI.ofWord (o.word maj opx) = o := by
  simp only [FVI.ofWord, FVI_pg, FVI_d, FVI_a, FVI_imm]

theorem FRI_maj (o : FRI) (maj : BitVec 5) (opx : BitVec 2) : (o.word maj opx).extractLsb' 27 5 = maj := by
  apply extract_eq; intro i hi
  change BitVec.getLsbD (w := 5 + 2 + 2 + 7 + 16) (maj ++ opx ++ o.pg ++ o.d ++ o.imm) (27 + i) = _
  simp only [BitVec.getLsbD_append]
  (repeat' split) <;> first | omega | (congr 1; omega)

theorem FRI_opx (o : FRI) (maj : BitVec 5) (opx : BitVec 2) : (o.word maj opx).extractLsb' 25 2 = opx := by
  apply extract_eq; intro i hi
  change BitVec.getLsbD (w := 5 + 2 + 2 + 7 + 16) (maj ++ opx ++ o.pg ++ o.d ++ o.imm) (25 + i) = _
  simp only [BitVec.getLsbD_append]
  (repeat' split) <;> first | omega | (congr 1; omega)

theorem FRI_pg (o : FRI) (maj : BitVec 5) (opx : BitVec 2) : (o.word maj opx).extractLsb' 23 2 = o.pg := by
  apply extract_eq; intro i hi
  change BitVec.getLsbD (w := 5 + 2 + 2 + 7 + 16) (maj ++ opx ++ o.pg ++ o.d ++ o.imm) (23 + i) = _
  simp only [BitVec.getLsbD_append]
  (repeat' split) <;> first | omega | (congr 1; omega)

theorem FRI_d (o : FRI) (maj : BitVec 5) (opx : BitVec 2) : (o.word maj opx).extractLsb' 16 7 = o.d := by
  apply extract_eq; intro i hi
  change BitVec.getLsbD (w := 5 + 2 + 2 + 7 + 16) (maj ++ opx ++ o.pg ++ o.d ++ o.imm) (16 + i) = _
  simp only [BitVec.getLsbD_append]
  (repeat' split) <;> first | omega | (congr 1; omega)

theorem FRI_imm (o : FRI) (maj : BitVec 5) (opx : BitVec 2) : (o.word maj opx).extractLsb' 0 16 = o.imm := by
  apply extract_eq; intro i hi
  change BitVec.getLsbD (w := 5 + 2 + 2 + 7 + 16) (maj ++ opx ++ o.pg ++ o.d ++ o.imm) (0 + i) = _
  simp only [BitVec.getLsbD_append]
  (repeat' split) <;> first | omega | (congr 1; omega)

/-- Every field of the format is read back. -/
theorem FRI_ofWord (o : FRI) (maj : BitVec 5) (opx : BitVec 2) : FRI.ofWord (o.word maj opx) = o := by
  simp only [FRI.ofWord, FRI_pg, FRI_d, FRI_imm]

theorem FS3_maj (o : FS3) (maj : BitVec 5) (opx : BitVec 6) : (o.word maj opx).extractLsb' 27 5 = maj := by
  apply extract_eq; intro i hi
  change BitVec.getLsbD (w := 5 + 6 + 6 + 6 + 6 + 3) (maj ++ opx ++ o.sd ++ o.sa ++ o.sb ++ o.cf) (27 + i) = _
  simp only [BitVec.getLsbD_append]
  (repeat' split) <;> first | omega | (congr 1; omega)

theorem FS3_opx (o : FS3) (maj : BitVec 5) (opx : BitVec 6) : (o.word maj opx).extractLsb' 21 6 = opx := by
  apply extract_eq; intro i hi
  change BitVec.getLsbD (w := 5 + 6 + 6 + 6 + 6 + 3) (maj ++ opx ++ o.sd ++ o.sa ++ o.sb ++ o.cf) (21 + i) = _
  simp only [BitVec.getLsbD_append]
  (repeat' split) <;> first | omega | (congr 1; omega)

theorem FS3_sd (o : FS3) (maj : BitVec 5) (opx : BitVec 6) : (o.word maj opx).extractLsb' 15 6 = o.sd := by
  apply extract_eq; intro i hi
  change BitVec.getLsbD (w := 5 + 6 + 6 + 6 + 6 + 3) (maj ++ opx ++ o.sd ++ o.sa ++ o.sb ++ o.cf) (15 + i) = _
  simp only [BitVec.getLsbD_append]
  (repeat' split) <;> first | omega | (congr 1; omega)

theorem FS3_sa (o : FS3) (maj : BitVec 5) (opx : BitVec 6) : (o.word maj opx).extractLsb' 9 6 = o.sa := by
  apply extract_eq; intro i hi
  change BitVec.getLsbD (w := 5 + 6 + 6 + 6 + 6 + 3) (maj ++ opx ++ o.sd ++ o.sa ++ o.sb ++ o.cf) (9 + i) = _
  simp only [BitVec.getLsbD_append]
  (repeat' split) <;> first | omega | (congr 1; omega)

theorem FS3_sb (o : FS3) (maj : BitVec 5) (opx : BitVec 6) : (o.word maj opx).extractLsb' 3 6 = o.sb := by
  apply extract_eq; intro i hi
  change BitVec.getLsbD (w := 5 + 6 + 6 + 6 + 6 + 3) (maj ++ opx ++ o.sd ++ o.sa ++ o.sb ++ o.cf) (3 + i) = _
  simp only [BitVec.getLsbD_append]
  (repeat' split) <;> first | omega | (congr 1; omega)

theorem FS3_cf (o : FS3) (maj : BitVec 5) (opx : BitVec 6) : (o.word maj opx).extractLsb' 0 3 = o.cf := by
  apply extract_eq; intro i hi
  change BitVec.getLsbD (w := 5 + 6 + 6 + 6 + 6 + 3) (maj ++ opx ++ o.sd ++ o.sa ++ o.sb ++ o.cf) (0 + i) = _
  simp only [BitVec.getLsbD_append]
  (repeat' split) <;> first | omega | (congr 1; omega)

/-- Every field of the format is read back. -/
theorem FS3_ofWord (o : FS3) (maj : BitVec 5) (opx : BitVec 6) : FS3.ofWord (o.word maj opx) = o := by
  simp only [FS3.ofWord, FS3_sd, FS3_sa, FS3_sb, FS3_cf]

theorem FSI_maj (o : FSI) (maj : BitVec 5) (opx : BitVec 4) : (o.word maj opx).extractLsb' 27 5 = maj := by
  apply extract_eq; intro i hi
  change BitVec.getLsbD (w := 5 + 4 + 6 + 6 + 11) (maj ++ opx ++ o.sd ++ o.sa ++ o.imm) (27 + i) = _
  simp only [BitVec.getLsbD_append]
  (repeat' split) <;> first | omega | (congr 1; omega)

theorem FSI_opx (o : FSI) (maj : BitVec 5) (opx : BitVec 4) : (o.word maj opx).extractLsb' 23 4 = opx := by
  apply extract_eq; intro i hi
  change BitVec.getLsbD (w := 5 + 4 + 6 + 6 + 11) (maj ++ opx ++ o.sd ++ o.sa ++ o.imm) (23 + i) = _
  simp only [BitVec.getLsbD_append]
  (repeat' split) <;> first | omega | (congr 1; omega)

theorem FSI_sd (o : FSI) (maj : BitVec 5) (opx : BitVec 4) : (o.word maj opx).extractLsb' 17 6 = o.sd := by
  apply extract_eq; intro i hi
  change BitVec.getLsbD (w := 5 + 4 + 6 + 6 + 11) (maj ++ opx ++ o.sd ++ o.sa ++ o.imm) (17 + i) = _
  simp only [BitVec.getLsbD_append]
  (repeat' split) <;> first | omega | (congr 1; omega)

theorem FSI_sa (o : FSI) (maj : BitVec 5) (opx : BitVec 4) : (o.word maj opx).extractLsb' 11 6 = o.sa := by
  apply extract_eq; intro i hi
  change BitVec.getLsbD (w := 5 + 4 + 6 + 6 + 11) (maj ++ opx ++ o.sd ++ o.sa ++ o.imm) (11 + i) = _
  simp only [BitVec.getLsbD_append]
  (repeat' split) <;> first | omega | (congr 1; omega)

theorem FSI_imm (o : FSI) (maj : BitVec 5) (opx : BitVec 4) : (o.word maj opx).extractLsb' 0 11 = o.imm := by
  apply extract_eq; intro i hi
  change BitVec.getLsbD (w := 5 + 4 + 6 + 6 + 11) (maj ++ opx ++ o.sd ++ o.sa ++ o.imm) (0 + i) = _
  simp only [BitVec.getLsbD_append]
  (repeat' split) <;> first | omega | (congr 1; omega)

/-- Every field of the format is read back. -/
theorem FSI_ofWord (o : FSI) (maj : BitVec 5) (opx : BitVec 4) : FSI.ofWord (o.word maj opx) = o := by
  simp only [FSI.ofWord, FSI_sd, FSI_sa, FSI_imm]

theorem FBR_maj (o : FBR) (maj : BitVec 5) (opx : BitVec 3) : (o.word maj opx).extractLsb' 27 5 = maj := by
  apply extract_eq; intro i hi
  change BitVec.getLsbD (w := 5 + 3 + 4 + 20) (maj ++ opx ++ o.sel ++ o.off) (27 + i) = _
  simp only [BitVec.getLsbD_append]
  (repeat' split) <;> first | omega | (congr 1; omega)

theorem FBR_opx (o : FBR) (maj : BitVec 5) (opx : BitVec 3) : (o.word maj opx).extractLsb' 24 3 = opx := by
  apply extract_eq; intro i hi
  change BitVec.getLsbD (w := 5 + 3 + 4 + 20) (maj ++ opx ++ o.sel ++ o.off) (24 + i) = _
  simp only [BitVec.getLsbD_append]
  (repeat' split) <;> first | omega | (congr 1; omega)

theorem FBR_sel (o : FBR) (maj : BitVec 5) (opx : BitVec 3) : (o.word maj opx).extractLsb' 20 4 = o.sel := by
  apply extract_eq; intro i hi
  change BitVec.getLsbD (w := 5 + 3 + 4 + 20) (maj ++ opx ++ o.sel ++ o.off) (20 + i) = _
  simp only [BitVec.getLsbD_append]
  (repeat' split) <;> first | omega | (congr 1; omega)

theorem FBR_off (o : FBR) (maj : BitVec 5) (opx : BitVec 3) : (o.word maj opx).extractLsb' 0 20 = o.off := by
  apply extract_eq; intro i hi
  change BitVec.getLsbD (w := 5 + 3 + 4 + 20) (maj ++ opx ++ o.sel ++ o.off) (0 + i) = _
  simp only [BitVec.getLsbD_append]
  (repeat' split) <;> first | omega | (congr 1; omega)

/-- Every field of the format is read back. -/
theorem FBR_ofWord (o : FBR) (maj : BitVec 5) (opx : BitVec 3) : FBR.ofWord (o.word maj opx) = o := by
  simp only [FBR.ofWord, FBR_sel, FBR_off]

theorem FM_maj (o : FM) (maj : BitVec 5) (opx : BitVec 4) : (o.word maj opx).extractLsb' 27 5 = maj := by
  apply extract_eq; intro i hi
  change BitVec.getLsbD (w := 5 + 4 + 2 + 7 + 7 + 6 + 1) (maj ++ opx ++ o.pg ++ o.d ++ o.a ++ o.sb ++ o.sc) (27 + i) = _
  simp only [BitVec.getLsbD_append]
  (repeat' split) <;> first | omega | (congr 1; omega)

theorem FM_opx (o : FM) (maj : BitVec 5) (opx : BitVec 4) : (o.word maj opx).extractLsb' 23 4 = opx := by
  apply extract_eq; intro i hi
  change BitVec.getLsbD (w := 5 + 4 + 2 + 7 + 7 + 6 + 1) (maj ++ opx ++ o.pg ++ o.d ++ o.a ++ o.sb ++ o.sc) (23 + i) = _
  simp only [BitVec.getLsbD_append]
  (repeat' split) <;> first | omega | (congr 1; omega)

theorem FM_pg (o : FM) (maj : BitVec 5) (opx : BitVec 4) : (o.word maj opx).extractLsb' 21 2 = o.pg := by
  apply extract_eq; intro i hi
  change BitVec.getLsbD (w := 5 + 4 + 2 + 7 + 7 + 6 + 1) (maj ++ opx ++ o.pg ++ o.d ++ o.a ++ o.sb ++ o.sc) (21 + i) = _
  simp only [BitVec.getLsbD_append]
  (repeat' split) <;> first | omega | (congr 1; omega)

theorem FM_d (o : FM) (maj : BitVec 5) (opx : BitVec 4) : (o.word maj opx).extractLsb' 14 7 = o.d := by
  apply extract_eq; intro i hi
  change BitVec.getLsbD (w := 5 + 4 + 2 + 7 + 7 + 6 + 1) (maj ++ opx ++ o.pg ++ o.d ++ o.a ++ o.sb ++ o.sc) (14 + i) = _
  simp only [BitVec.getLsbD_append]
  (repeat' split) <;> first | omega | (congr 1; omega)

theorem FM_a (o : FM) (maj : BitVec 5) (opx : BitVec 4) : (o.word maj opx).extractLsb' 7 7 = o.a := by
  apply extract_eq; intro i hi
  change BitVec.getLsbD (w := 5 + 4 + 2 + 7 + 7 + 6 + 1) (maj ++ opx ++ o.pg ++ o.d ++ o.a ++ o.sb ++ o.sc) (7 + i) = _
  simp only [BitVec.getLsbD_append]
  (repeat' split) <;> first | omega | (congr 1; omega)

theorem FM_sb (o : FM) (maj : BitVec 5) (opx : BitVec 4) : (o.word maj opx).extractLsb' 1 6 = o.sb := by
  apply extract_eq; intro i hi
  change BitVec.getLsbD (w := 5 + 4 + 2 + 7 + 7 + 6 + 1) (maj ++ opx ++ o.pg ++ o.d ++ o.a ++ o.sb ++ o.sc) (1 + i) = _
  simp only [BitVec.getLsbD_append]
  (repeat' split) <;> first | omega | (congr 1; omega)

theorem FM_sc (o : FM) (maj : BitVec 5) (opx : BitVec 4) : (o.word maj opx).extractLsb' 0 1 = o.sc := by
  apply extract_eq; intro i hi
  change BitVec.getLsbD (w := 5 + 4 + 2 + 7 + 7 + 6 + 1) (maj ++ opx ++ o.pg ++ o.d ++ o.a ++ o.sb ++ o.sc) (0 + i) = _
  simp only [BitVec.getLsbD_append]
  (repeat' split) <;> first | omega | (congr 1; omega)

/-- Every field of the format is read back. -/
theorem FM_ofWord (o : FM) (maj : BitVec 5) (opx : BitVec 4) : FM.ofWord (o.word maj opx) = o := by
  simp only [FM.ofWord, FM_pg, FM_d, FM_a, FM_sb, FM_sc]

theorem FE_maj (o : FE) (maj : BitVec 5) (opx : BitVec 4) : (o.word maj opx).extractLsb' 27 5 = maj := by
  apply extract_eq; intro i hi
  change BitVec.getLsbD (w := 5 + 4 + 5 + 4 + 6 + 2 + 6) (maj ++ opx ++ o.h ++ o.mt ++ o.sa ++ o.ec ++ o.f) (27 + i) = _
  simp only [BitVec.getLsbD_append]
  (repeat' split) <;> first | omega | (congr 1; omega)

theorem FE_opx (o : FE) (maj : BitVec 5) (opx : BitVec 4) : (o.word maj opx).extractLsb' 23 4 = opx := by
  apply extract_eq; intro i hi
  change BitVec.getLsbD (w := 5 + 4 + 5 + 4 + 6 + 2 + 6) (maj ++ opx ++ o.h ++ o.mt ++ o.sa ++ o.ec ++ o.f) (23 + i) = _
  simp only [BitVec.getLsbD_append]
  (repeat' split) <;> first | omega | (congr 1; omega)

theorem FE_h (o : FE) (maj : BitVec 5) (opx : BitVec 4) : (o.word maj opx).extractLsb' 18 5 = o.h := by
  apply extract_eq; intro i hi
  change BitVec.getLsbD (w := 5 + 4 + 5 + 4 + 6 + 2 + 6) (maj ++ opx ++ o.h ++ o.mt ++ o.sa ++ o.ec ++ o.f) (18 + i) = _
  simp only [BitVec.getLsbD_append]
  (repeat' split) <;> first | omega | (congr 1; omega)

theorem FE_mt (o : FE) (maj : BitVec 5) (opx : BitVec 4) : (o.word maj opx).extractLsb' 14 4 = o.mt := by
  apply extract_eq; intro i hi
  change BitVec.getLsbD (w := 5 + 4 + 5 + 4 + 6 + 2 + 6) (maj ++ opx ++ o.h ++ o.mt ++ o.sa ++ o.ec ++ o.f) (14 + i) = _
  simp only [BitVec.getLsbD_append]
  (repeat' split) <;> first | omega | (congr 1; omega)

theorem FE_sa (o : FE) (maj : BitVec 5) (opx : BitVec 4) : (o.word maj opx).extractLsb' 8 6 = o.sa := by
  apply extract_eq; intro i hi
  change BitVec.getLsbD (w := 5 + 4 + 5 + 4 + 6 + 2 + 6) (maj ++ opx ++ o.h ++ o.mt ++ o.sa ++ o.ec ++ o.f) (8 + i) = _
  simp only [BitVec.getLsbD_append]
  (repeat' split) <;> first | omega | (congr 1; omega)

theorem FE_ec (o : FE) (maj : BitVec 5) (opx : BitVec 4) : (o.word maj opx).extractLsb' 6 2 = o.ec := by
  apply extract_eq; intro i hi
  change BitVec.getLsbD (w := 5 + 4 + 5 + 4 + 6 + 2 + 6) (maj ++ opx ++ o.h ++ o.mt ++ o.sa ++ o.ec ++ o.f) (6 + i) = _
  simp only [BitVec.getLsbD_append]
  (repeat' split) <;> first | omega | (congr 1; omega)

theorem FE_f (o : FE) (maj : BitVec 5) (opx : BitVec 4) : (o.word maj opx).extractLsb' 0 6 = o.f := by
  apply extract_eq; intro i hi
  change BitVec.getLsbD (w := 5 + 4 + 5 + 4 + 6 + 2 + 6) (maj ++ opx ++ o.h ++ o.mt ++ o.sa ++ o.ec ++ o.f) (0 + i) = _
  simp only [BitVec.getLsbD_append]
  (repeat' split) <;> first | omega | (congr 1; omega)

/-- Every field of the format is read back. -/
theorem FE_ofWord (o : FE) (maj : BitVec 5) (opx : BitVec 4) : FE.ofWord (o.word maj opx) = o := by
  simp only [FE.ofWord, FE_h, FE_mt, FE_sa, FE_ec, FE_f]

theorem FSY_maj (o : FSY) (maj : BitVec 5) (opx : BitVec 5) : (o.word maj opx).extractLsb' 27 5 = maj := by
  apply extract_eq; intro i hi
  change BitVec.getLsbD (w := 5 + 5 + 3 + 2 + 6 + 6 + 5) (maj ++ opx ++ o.scp ++ o.ord ++ o.sa ++ o.sb ++ o.h) (27 + i) = _
  simp only [BitVec.getLsbD_append]
  (repeat' split) <;> first | omega | (congr 1; omega)

theorem FSY_opx (o : FSY) (maj : BitVec 5) (opx : BitVec 5) : (o.word maj opx).extractLsb' 22 5 = opx := by
  apply extract_eq; intro i hi
  change BitVec.getLsbD (w := 5 + 5 + 3 + 2 + 6 + 6 + 5) (maj ++ opx ++ o.scp ++ o.ord ++ o.sa ++ o.sb ++ o.h) (22 + i) = _
  simp only [BitVec.getLsbD_append]
  (repeat' split) <;> first | omega | (congr 1; omega)

theorem FSY_scp (o : FSY) (maj : BitVec 5) (opx : BitVec 5) : (o.word maj opx).extractLsb' 19 3 = o.scp := by
  apply extract_eq; intro i hi
  change BitVec.getLsbD (w := 5 + 5 + 3 + 2 + 6 + 6 + 5) (maj ++ opx ++ o.scp ++ o.ord ++ o.sa ++ o.sb ++ o.h) (19 + i) = _
  simp only [BitVec.getLsbD_append]
  (repeat' split) <;> first | omega | (congr 1; omega)

theorem FSY_ord (o : FSY) (maj : BitVec 5) (opx : BitVec 5) : (o.word maj opx).extractLsb' 17 2 = o.ord := by
  apply extract_eq; intro i hi
  change BitVec.getLsbD (w := 5 + 5 + 3 + 2 + 6 + 6 + 5) (maj ++ opx ++ o.scp ++ o.ord ++ o.sa ++ o.sb ++ o.h) (17 + i) = _
  simp only [BitVec.getLsbD_append]
  (repeat' split) <;> first | omega | (congr 1; omega)

theorem FSY_sa (o : FSY) (maj : BitVec 5) (opx : BitVec 5) : (o.word maj opx).extractLsb' 11 6 = o.sa := by
  apply extract_eq; intro i hi
  change BitVec.getLsbD (w := 5 + 5 + 3 + 2 + 6 + 6 + 5) (maj ++ opx ++ o.scp ++ o.ord ++ o.sa ++ o.sb ++ o.h) (11 + i) = _
  simp only [BitVec.getLsbD_append]
  (repeat' split) <;> first | omega | (congr 1; omega)

theorem FSY_sb (o : FSY) (maj : BitVec 5) (opx : BitVec 5) : (o.word maj opx).extractLsb' 5 6 = o.sb := by
  apply extract_eq; intro i hi
  change BitVec.getLsbD (w := 5 + 5 + 3 + 2 + 6 + 6 + 5) (maj ++ opx ++ o.scp ++ o.ord ++ o.sa ++ o.sb ++ o.h) (5 + i) = _
  simp only [BitVec.getLsbD_append]
  (repeat' split) <;> first | omega | (congr 1; omega)

theorem FSY_h (o : FSY) (maj : BitVec 5) (opx : BitVec 5) : (o.word maj opx).extractLsb' 0 5 = o.h := by
  apply extract_eq; intro i hi
  change BitVec.getLsbD (w := 5 + 5 + 3 + 2 + 6 + 6 + 5) (maj ++ opx ++ o.scp ++ o.ord ++ o.sa ++ o.sb ++ o.h) (0 + i) = _
  simp only [BitVec.getLsbD_append]
  (repeat' split) <;> first | omega | (congr 1; omega)

/-- Every field of the format is read back. -/
theorem FSY_ofWord (o : FSY) (maj : BitVec 5) (opx : BitVec 5) : FSY.ofWord (o.word maj opx) = o := by
  simp only [FSY.ofWord, FSY_scp, FSY_ord, FSY_sa, FSY_sb, FSY_h]

theorem FCSR_maj (o : FCSR) (maj : BitVec 5) (opx : BitVec 6) : (o.word maj opx).extractLsb' 27 5 = maj := by
  apply extract_eq; intro i hi
  change BitVec.getLsbD (w := 5 + 6 + 6 + 3 + 12) (maj ++ opx ++ o.srg ++ o.rsv ++ o.csrn) (27 + i) = _
  simp only [BitVec.getLsbD_append]
  (repeat' split) <;> first | omega | (congr 1; omega)

theorem FCSR_opx (o : FCSR) (maj : BitVec 5) (opx : BitVec 6) : (o.word maj opx).extractLsb' 21 6 = opx := by
  apply extract_eq; intro i hi
  change BitVec.getLsbD (w := 5 + 6 + 6 + 3 + 12) (maj ++ opx ++ o.srg ++ o.rsv ++ o.csrn) (21 + i) = _
  simp only [BitVec.getLsbD_append]
  (repeat' split) <;> first | omega | (congr 1; omega)

theorem FCSR_srg (o : FCSR) (maj : BitVec 5) (opx : BitVec 6) : (o.word maj opx).extractLsb' 15 6 = o.srg := by
  apply extract_eq; intro i hi
  change BitVec.getLsbD (w := 5 + 6 + 6 + 3 + 12) (maj ++ opx ++ o.srg ++ o.rsv ++ o.csrn) (15 + i) = _
  simp only [BitVec.getLsbD_append]
  (repeat' split) <;> first | omega | (congr 1; omega)

theorem FCSR_rsv (o : FCSR) (maj : BitVec 5) (opx : BitVec 6) : (o.word maj opx).extractLsb' 12 3 = o.rsv := by
  apply extract_eq; intro i hi
  change BitVec.getLsbD (w := 5 + 6 + 6 + 3 + 12) (maj ++ opx ++ o.srg ++ o.rsv ++ o.csrn) (12 + i) = _
  simp only [BitVec.getLsbD_append]
  (repeat' split) <;> first | omega | (congr 1; omega)

theorem FCSR_csrn (o : FCSR) (maj : BitVec 5) (opx : BitVec 6) : (o.word maj opx).extractLsb' 0 12 = o.csrn := by
  apply extract_eq; intro i hi
  change BitVec.getLsbD (w := 5 + 6 + 6 + 3 + 12) (maj ++ opx ++ o.srg ++ o.rsv ++ o.csrn) (0 + i) = _
  simp only [BitVec.getLsbD_append]
  (repeat' split) <;> first | omega | (congr 1; omega)

/-- Every field of the format is read back. -/
theorem FCSR_ofWord (o : FCSR) (maj : BitVec 5) (opx : BitVec 6) : FCSR.ofWord (o.word maj opx) = o := by
  simp only [FCSR.ofWord, FCSR_srg, FCSR_rsv, FCSR_csrn]

theorem sys_maj (opx : BitVec 6) (imm : BitVec 21) : (sysWord opx imm).extractLsb' 27 5 = (0 : BitVec 5) := by
  apply extract_eq; intro i hi
  change BitVec.getLsbD (w := 5 + 6 + 21) ((0 : BitVec 5) ++ opx ++ imm) (27 + i) = _
  simp only [BitVec.getLsbD_append]
  (repeat' split) <;> first | omega | (congr 1; omega)

theorem sys_opx (opx : BitVec 6) (imm : BitVec 21) : (sysWord opx imm).extractLsb' 21 6 = opx := by
  apply extract_eq; intro i hi
  change BitVec.getLsbD (w := 5 + 6 + 21) ((0 : BitVec 5) ++ opx ++ imm) (21 + i) = _
  simp only [BitVec.getLsbD_append]
  (repeat' split) <;> first | omega | (congr 1; omega)

theorem sys_imm (opx : BitVec 6) (imm : BitVec 21) : (sysWord opx imm).extractLsb' 0 21 = imm := by
  apply extract_eq; intro i hi
  change BitVec.getLsbD (w := 5 + 6 + 21) ((0 : BitVec 5) ++ opx ++ imm) (0 + i) = _
  simp only [BitVec.getLsbD_append]
  (repeat' split) <;> first | omega | (congr 1; omega)

theorem xw_maj (kind : BitVec 3) (p : BitVec 24) : (xwWord kind p).extractLsb' 27 5 = (0x1F : BitVec 5) := by
  apply extract_eq; intro i hi
  change BitVec.getLsbD (w := 5 + 3 + 24) ((0x1F : BitVec 5) ++ kind ++ p) (27 + i) = _
  simp only [BitVec.getLsbD_append]
  (repeat' split) <;> first | omega | (congr 1; omega)

theorem xw_kind (kind : BitVec 3) (p : BitVec 24) : (xwWord kind p).extractLsb' 24 3 = kind := by
  apply extract_eq; intro i hi
  change BitVec.getLsbD (w := 5 + 3 + 24) ((0x1F : BitVec 5) ++ kind ++ p) (24 + i) = _
  simp only [BitVec.getLsbD_append]
  (repeat' split) <;> first | omega | (congr 1; omega)

theorem xw_payload (kind : BitVec 3) (p : BitVec 24) : (xwWord kind p).extractLsb' 0 24 = p := by
  apply extract_eq; intro i hi
  change BitVec.getLsbD (w := 5 + 3 + 24) ((0x1F : BitVec 5) ++ kind ++ p) (0 + i) = _
  simp only [BitVec.getLsbD_append]
  (repeat' split) <;> first | omega | (congr 1; omega)

theorem form_decodeSys (w : Word) (h : w.extractLsb' 27 5 = 0) : decodeForm w = decodeSys w := by
  unfold decodeForm; rw [h]; rfl

theorem form_decodeBrd (w : Word) (h : w.extractLsb' 27 5 = 2) : decodeForm w = decodeBrd w := by
  unfold decodeForm; rw [h]; rfl

theorem form_decodeJmp (w : Word) (h : w.extractLsb' 27 5 = 3) : decodeForm w = decodeJmp w := by
  unfold decodeForm; rw [h]; rfl

theorem form_decodeSalu (w : Word) (h : w.extractLsb' 27 5 = 4) : decodeForm w = decodeSalu w := by
  unfold decodeForm; rw [h]; rfl

theorem form_decodeSalui (w : Word) (h : w.extractLsb' 27 5 = 5) : decodeForm w = decodeSalui w := by
  unfold decodeForm; rw [h]; rfl

theorem form_decodeVint (w : Word) (h : w.extractLsb' 27 5 = 6) : decodeForm w = decodeVint w := by
  unfold decodeForm; rw [h]; rfl

theorem form_decodeVinti (w : Word) (h : w.extractLsb' 27 5 = 7) : decodeForm w = decodeVinti w := by
  unfold decodeForm; rw [h]; rfl

theorem form_decodeVf32 (w : Word) (h : w.extractLsb' 27 5 = 8) : decodeForm w = decodeVf32 w := by
  unfold decodeForm; rw [h]; rfl

theorem form_decodeVfma (w : Word) (h : w.extractLsb' 27 5 = 9) : decodeForm w = decodeVfma w := by
  unfold decodeForm; rw [h]; rfl

theorem form_decodeVcvt (w : Word) (h : w.extractLsb' 27 5 = 10) : decodeForm w = decodeVcvt w := by
  unfold decodeForm; rw [h]; rfl

theorem form_decodeVcmp (w : Word) (h : w.extractLsb' 27 5 = 11) : decodeForm w = decodeVcmp w := by
  unfold decodeForm; rw [h]; rfl

theorem form_decodeKops (w : Word) (h : w.extractLsb' 27 5 = 12) : decodeForm w = decodeKops w := by
  unfold decodeForm; rw [h]; rfl

theorem form_decodeVmov (w : Word) (h : w.extractLsb' 27 5 = 13) : decodeForm w = decodeVmov w := by
  unfold decodeForm; rw [h]; rfl

theorem form_decodeVsfu (w : Word) (h : w.extractLsb' 27 5 = 14) : decodeForm w = decodeVsfu w := by
  unfold decodeForm; rw [h]; rfl

theorem form_decodeVri (w : Word) (h : w.extractLsb' 27 5 = 15) : decodeForm w = decodeVri w := by
  unfold decodeForm; rw [h]; rfl

theorem form_decodeLd (w : Word) (h : w.extractLsb' 27 5 = 16) : decodeForm w = decodeLd w := by
  unfold decodeForm; rw [h]; rfl

theorem form_decodeSt (w : Word) (h : w.extractLsb' 27 5 = 17) : decodeForm w = decodeSt w := by
  unfold decodeForm; rw [h]; rfl

theorem form_decodeScr (w : Word) (h : w.extractLsb' 27 5 = 18) : decodeForm w = decodeScr w := by
  unfold decodeForm; rw [h]; rfl

theorem form_decodeAtom (w : Word) (h : w.extractLsb' 27 5 = 19) : decodeForm w = decodeAtom w := by
  unfold decodeForm; rw [h]; rfl

theorem form_decodeLdl (w : Word) (h : w.extractLsb' 27 5 = 20) : decodeForm w = decodeLdl w := by
  unfold decodeForm; rw [h]; rfl

theorem form_decodeCpy (w : Word) (h : w.extractLsb' 27 5 = 21) : decodeForm w = decodeCpy w := by
  unfold decodeForm; rw [h]; rfl

theorem form_decodeMma (w : Word) (h : w.extractLsb' 27 5 = 22) : decodeForm w = decodeMma w := by
  unfold decodeForm; rw [h]; rfl

theorem form_decodeSpx (w : Word) (h : w.extractLsb' 27 5 = 23) : decodeForm w = decodeSpx w := by
  unfold decodeForm; rw [h]; rfl

theorem form_decodeSync (w : Word) (h : w.extractLsb' 27 5 = 24) : decodeForm w = decodeSync w := by
  unfold decodeForm; rw [h]; rfl

theorem form_decodeStk (w : Word) (h : w.extractLsb' 27 5 = 25) : decodeForm w = decodeStk w := by
  unfold decodeForm; rw [h]; rfl

theorem form_decodeNest (w : Word) (h : w.extractLsb' 27 5 = 26) : decodeForm w = decodeNest w := by
  unfold decodeForm; rw [h]; rfl

theorem form_decodeTask (w : Word) (h : w.extractLsb' 27 5 = 27) : decodeForm w = decodeTask w := by
  unfold decodeForm; rw [h]; rfl

theorem form_decodeCsr (w : Word) (h : w.extractLsb' 27 5 = 28) : decodeForm w = decodeCsr w := by
  unfold decodeForm; rw [h]; rfl

theorem form_decodeMbx (w : Word) (h : w.extractLsb' 27 5 = 29) : decodeForm w = decodeMbx w := by
  unfold decodeForm; rw [h]; rfl

theorem form_decodeXw (w : Word) (h : w.extractLsb' 27 5 = 31) : decodeForm w = decodeXw w := by
  unfold decodeForm; rw [h]; rfl

theorem form_bru (w : Word) (h : w.extractLsb' 27 5 = 1) :
    decodeForm w = some (.bru (Cond.ofCode (w.extractLsb' 24 3)) (FBR.ofWord w)) := by
  unfold decodeForm; rw [h]; rfl

/-- A word whose form is read back decodes, if the instruction is well-formed. -/
theorem decode_of_form (i : Instr) (h : decodeForm (encode i) = some i) (hw : i.wf = true) : decode (encode i) = some i := by
  simp [decode, h, hw]

/-- The codes of a condition. -/
theorem cond_code (c : Cond) : Cond.ofCode c.code = c := by cases c <;> rfl

/-- Decoding the word of a well-formed instruction gives the instruction. -/
def RoundTrip.Statement (i : Instr) : Prop := Machine.isStep i = false → i.wf = true → decode (encode i) = some i

theorem RoundTrip.trap imm : RoundTrip.Statement (.trap imm) := by
  intro _ hw; refine decode_of_form _ ?_ hw
  show decodeForm (sysWord 2 imm) = _
  rw [form_decodeSys _ (sys_maj _ _)]; unfold decodeSys; rw [sys_opx]; simp only [sys_imm]; rfl

theorem RoundTrip.brk imm : RoundTrip.Statement (.brk imm) := by
  intro _ hw; refine decode_of_form _ ?_ hw
  show decodeForm (sysWord 3 imm) = _
  rw [form_decodeSys _ (sys_maj _ _)]; unfold decodeSys; rw [sys_opx]; simp only [sys_imm]; rfl

theorem RoundTrip.safe imm : RoundTrip.Statement (.safe imm) := by
  intro _ hw; refine decode_of_form _ ?_ hw
  show decodeForm (sysWord 4 imm) = _
  rw [form_decodeSys _ (sys_maj _ _)]; unfold decodeSys; rw [sys_opx]; simp only [sys_imm]; rfl

theorem RoundTrip.sleep imm : RoundTrip.Statement (.sleep imm) := by
  intro _ hw; refine decode_of_form _ ?_ hw
  show decodeForm (sysWord 6 imm) = _
  rw [form_decodeSys _ (sys_maj _ _)]; unfold decodeSys; rw [sys_opx]; simp only [sys_imm]; rfl

theorem RoundTrip.bru c o : RoundTrip.Statement (.bru c o) := by
  intro _ hw; refine decode_of_form _ ?_ hw
  show decodeForm (o.word 1 c.code) = _
  rw [form_bru _ (FBR_maj _ _ _), FBR_opx, FBR_ofWord, cond_code]

theorem RoundTrip.brd o : RoundTrip.Statement (.brd o) := by
  intro _ hw; refine decode_of_form _ ?_ hw
  show decodeForm (o.word 2 0) = _
  rw [form_decodeBrd _ (FBR_maj _ _ _)]; unfold decodeBrd; rw [FBR_opx, FBR_ofWord]; rfl

theorem RoundTrip.rcv o : RoundTrip.Statement (.rcv o) := by
  intro _ hw; refine decode_of_form _ ?_ hw
  show decodeForm (o.word 2 1) = _
  rw [form_decodeBrd _ (FBR_maj _ _ _)]; unfold decodeBrd; rw [FBR_opx, FBR_ofWord]; rfl

theorem RoundTrip.call o : RoundTrip.Statement (.call o) := by
  intro _ hw; refine decode_of_form _ ?_ hw
  show decodeForm (o.word 3 0) = _
  rw [form_decodeJmp _ (FBR_maj _ _ _)]; unfold decodeJmp; rw [FBR_opx, FBR_ofWord]; rfl

theorem RoundTrip.callx o : RoundTrip.Statement (.callx o) := by
  intro _ hw; refine decode_of_form _ ?_ hw
  show decodeForm (o.word 3 1) = _
  rw [form_decodeJmp _ (FBR_maj _ _ _)]; unfold decodeJmp; rw [FBR_opx, FBR_ofWord]; rfl

theorem RoundTrip.ret o : RoundTrip.Statement (.ret o) := by
  intro _ hw; refine decode_of_form _ ?_ hw
  show decodeForm (o.word 3 2) = _
  rw [form_decodeJmp _ (FBR_maj _ _ _)]; unfold decodeJmp; rw [FBR_opx, FBR_ofWord]; rfl

theorem RoundTrip.jtab o : RoundTrip.Statement (.jtab o) := by
  intro _ hw; refine decode_of_form _ ?_ hw
  show decodeForm (o.word 3 3) = _
  rw [form_decodeJmp _ (FBR_maj _ _ _)]; unfold decodeJmp; rw [FBR_opx, FBR_ofWord]; rfl

theorem RoundTrip.saluAdd o : RoundTrip.Statement (.saluAdd o) := by
  intro _ hw; refine decode_of_form _ ?_ hw
  show decodeForm (o.word 4 0x0) = _
  rw [form_decodeSalu _ (FS3_maj _ _ _)]; unfold decodeSalu; rw [FS3_opx, FS3_ofWord]; rfl

theorem RoundTrip.saluSub o : RoundTrip.Statement (.saluSub o) := by
  intro _ hw; refine decode_of_form _ ?_ hw
  show decodeForm (o.word 4 0x1) = _
  rw [form_decodeSalu _ (FS3_maj _ _ _)]; unfold decodeSalu; rw [FS3_opx, FS3_ofWord]; rfl

theorem RoundTrip.saluMul o : RoundTrip.Statement (.saluMul o) := by
  intro _ hw; refine decode_of_form _ ?_ hw
  show decodeForm (o.word 4 0x2) = _
  rw [form_decodeSalu _ (FS3_maj _ _ _)]; unfold decodeSalu; rw [FS3_opx, FS3_ofWord]; rfl

theorem RoundTrip.saluMulh o : RoundTrip.Statement (.saluMulh o) := by
  intro _ hw; refine decode_of_form _ ?_ hw
  show decodeForm (o.word 4 0x3) = _
  rw [form_decodeSalu _ (FS3_maj _ _ _)]; unfold decodeSalu; rw [FS3_opx, FS3_ofWord]; rfl

theorem RoundTrip.saluMulhn o : RoundTrip.Statement (.saluMulhn o) := by
  intro _ hw; refine decode_of_form _ ?_ hw
  show decodeForm (o.word 4 0x4) = _
  rw [form_decodeSalu _ (FS3_maj _ _ _)]; unfold decodeSalu; rw [FS3_opx, FS3_ofWord]; rfl

theorem RoundTrip.saluAnd o : RoundTrip.Statement (.saluAnd o) := by
  intro _ hw; refine decode_of_form _ ?_ hw
  show decodeForm (o.word 4 0x5) = _
  rw [form_decodeSalu _ (FS3_maj _ _ _)]; unfold decodeSalu; rw [FS3_opx, FS3_ofWord]; rfl

theorem RoundTrip.saluOr o : RoundTrip.Statement (.saluOr o) := by
  intro _ hw; refine decode_of_form _ ?_ hw
  show decodeForm (o.word 4 0x6) = _
  rw [form_decodeSalu _ (FS3_maj _ _ _)]; unfold decodeSalu; rw [FS3_opx, FS3_ofWord]; rfl

theorem RoundTrip.saluXor o : RoundTrip.Statement (.saluXor o) := by
  intro _ hw; refine decode_of_form _ ?_ hw
  show decodeForm (o.word 4 0x7) = _
  rw [form_decodeSalu _ (FS3_maj _ _ _)]; unfold decodeSalu; rw [FS3_opx, FS3_ofWord]; rfl

theorem RoundTrip.andn o : RoundTrip.Statement (.andn o) := by
  intro _ hw; refine decode_of_form _ ?_ hw
  show decodeForm (o.word 4 0x8) = _
  rw [form_decodeSalu _ (FS3_maj _ _ _)]; unfold decodeSalu; rw [FS3_opx, FS3_ofWord]; rfl

theorem RoundTrip.saluShl o : RoundTrip.Statement (.saluShl o) := by
  intro _ hw; refine decode_of_form _ ?_ hw
  show decodeForm (o.word 4 0x9) = _
  rw [form_decodeSalu _ (FS3_maj _ _ _)]; unfold decodeSalu; rw [FS3_opx, FS3_ofWord]; rfl

theorem RoundTrip.saluShr o : RoundTrip.Statement (.saluShr o) := by
  intro _ hw; refine decode_of_form _ ?_ hw
  show decodeForm (o.word 4 0xA) = _
  rw [form_decodeSalu _ (FS3_maj _ _ _)]; unfold decodeSalu; rw [FS3_opx, FS3_ofWord]; rfl

theorem RoundTrip.saluSar o : RoundTrip.Statement (.saluSar o) := by
  intro _ hw; refine decode_of_form _ ?_ hw
  show decodeForm (o.word 4 0xB) = _
  rw [form_decodeSalu _ (FS3_maj _ _ _)]; unfold decodeSalu; rw [FS3_opx, FS3_ofWord]; rfl

theorem RoundTrip.rotl o : RoundTrip.Statement (.rotl o) := by
  intro _ hw; refine decode_of_form _ ?_ hw
  show decodeForm (o.word 4 0xC) = _
  rw [form_decodeSalu _ (FS3_maj _ _ _)]; unfold decodeSalu; rw [FS3_opx, FS3_ofWord]; rfl

theorem RoundTrip.saluMin o : RoundTrip.Statement (.saluMin o) := by
  intro _ hw; refine decode_of_form _ ?_ hw
  show decodeForm (o.word 4 0xD) = _
  rw [form_decodeSalu _ (FS3_maj _ _ _)]; unfold decodeSalu; rw [FS3_opx, FS3_ofWord]; rfl

theorem RoundTrip.saluMax o : RoundTrip.Statement (.saluMax o) := by
  intro _ hw; refine decode_of_form _ ?_ hw
  show decodeForm (o.word 4 0xE) = _
  rw [form_decodeSalu _ (FS3_maj _ _ _)]; unfold decodeSalu; rw [FS3_opx, FS3_ofWord]; rfl

theorem RoundTrip.minn o : RoundTrip.Statement (.minn o) := by
  intro _ hw; refine decode_of_form _ ?_ hw
  show decodeForm (o.word 4 0xF) = _
  rw [form_decodeSalu _ (FS3_maj _ _ _)]; unfold decodeSalu; rw [FS3_opx, FS3_ofWord]; rfl

theorem RoundTrip.maxn o : RoundTrip.Statement (.maxn o) := by
  intro _ hw; refine decode_of_form _ ?_ hw
  show decodeForm (o.word 4 0x10) = _
  rw [form_decodeSalu _ (FS3_maj _ _ _)]; unfold decodeSalu; rw [FS3_opx, FS3_ofWord]; rfl

theorem RoundTrip.slt o : RoundTrip.Statement (.slt o) := by
  intro _ hw; refine decode_of_form _ ?_ hw
  show decodeForm (o.word 4 0x11) = _
  rw [form_decodeSalu _ (FS3_maj _ _ _)]; unfold decodeSalu; rw [FS3_opx, FS3_ofWord]; rfl

theorem RoundTrip.sltn o : RoundTrip.Statement (.sltn o) := by
  intro _ hw; refine decode_of_form _ ?_ hw
  show decodeForm (o.word 4 0x12) = _
  rw [form_decodeSalu _ (FS3_maj _ _ _)]; unfold decodeSalu; rw [FS3_opx, FS3_ofWord]; rfl

theorem RoundTrip.seq o : RoundTrip.Statement (.seq o) := by
  intro _ hw; refine decode_of_form _ ?_ hw
  show decodeForm (o.word 4 0x13) = _
  rw [form_decodeSalu _ (FS3_maj _ _ _)]; unfold decodeSalu; rw [FS3_opx, FS3_ofWord]; rfl

theorem RoundTrip.saluSel o : RoundTrip.Statement (.saluSel o) := by
  intro _ hw; refine decode_of_form _ ?_ hw
  show decodeForm (o.word 4 0x14) = _
  rw [form_decodeSalu _ (FS3_maj _ _ _)]; unfold decodeSalu; rw [FS3_opx, FS3_ofWord]; rfl

theorem RoundTrip.clz o : RoundTrip.Statement (.clz o) := by
  intro _ hw; refine decode_of_form _ ?_ hw
  show decodeForm (o.word 4 0x15) = _
  rw [form_decodeSalu _ (FS3_maj _ _ _)]; unfold decodeSalu; rw [FS3_opx, FS3_ofWord]; rfl

theorem RoundTrip.popc o : RoundTrip.Statement (.popc o) := by
  intro _ hw; refine decode_of_form _ ?_ hw
  show decodeForm (o.word 4 0x16) = _
  rw [form_decodeSalu _ (FS3_maj _ _ _)]; unfold decodeSalu; rw [FS3_opx, FS3_ofWord]; rfl

theorem RoundTrip.brev o : RoundTrip.Statement (.brev o) := by
  intro _ hw; refine decode_of_form _ ?_ hw
  show decodeForm (o.word 4 0x17) = _
  rw [form_decodeSalu _ (FS3_maj _ _ _)]; unfold decodeSalu; rw [FS3_opx, FS3_ofWord]; rfl

theorem RoundTrip.add64 o : RoundTrip.Statement (.add64 o) := by
  intro _ hw; refine decode_of_form _ ?_ hw
  show decodeForm (o.word 4 0x18) = _
  rw [form_decodeSalu _ (FS3_maj _ _ _)]; unfold decodeSalu; rw [FS3_opx, FS3_ofWord]; rfl

theorem RoundTrip.sub64 o : RoundTrip.Statement (.sub64 o) := by
  intro _ hw; refine decode_of_form _ ?_ hw
  show decodeForm (o.word 4 0x19) = _
  rw [form_decodeSalu _ (FS3_maj _ _ _)]; unfold decodeSalu; rw [FS3_opx, FS3_ofWord]; rfl

theorem RoundTrip.shl64 o : RoundTrip.Statement (.shl64 o) := by
  intro _ hw; refine decode_of_form _ ?_ hw
  show decodeForm (o.word 4 0x1A) = _
  rw [form_decodeSalu _ (FS3_maj _ _ _)]; unfold decodeSalu; rw [FS3_opx, FS3_ofWord]; rfl

theorem RoundTrip.shr64 o : RoundTrip.Statement (.shr64 o) := by
  intro _ hw; refine decode_of_form _ ?_ hw
  show decodeForm (o.word 4 0x1B) = _
  rw [form_decodeSalu _ (FS3_maj _ _ _)]; unfold decodeSalu; rw [FS3_opx, FS3_ofWord]; rfl

theorem RoundTrip.saluiAddi o : RoundTrip.Statement (.saluiAddi o) := by
  intro _ hw; refine decode_of_form _ ?_ hw
  show decodeForm (o.word 5 0x0) = _
  rw [form_decodeSalui _ (FSI_maj _ _ _)]; unfold decodeSalui; rw [FSI_opx, FSI_ofWord]; rfl

theorem RoundTrip.saluiAndi o : RoundTrip.Statement (.saluiAndi o) := by
  intro _ hw; refine decode_of_form _ ?_ hw
  show decodeForm (o.word 5 0x1) = _
  rw [form_decodeSalui _ (FSI_maj _ _ _)]; unfold decodeSalui; rw [FSI_opx, FSI_ofWord]; rfl

theorem RoundTrip.saluiOri o : RoundTrip.Statement (.saluiOri o) := by
  intro _ hw; refine decode_of_form _ ?_ hw
  show decodeForm (o.word 5 0x2) = _
  rw [form_decodeSalui _ (FSI_maj _ _ _)]; unfold decodeSalui; rw [FSI_opx, FSI_ofWord]; rfl

theorem RoundTrip.saluiXori o : RoundTrip.Statement (.saluiXori o) := by
  intro _ hw; refine decode_of_form _ ?_ hw
  show decodeForm (o.word 5 0x3) = _
  rw [form_decodeSalui _ (FSI_maj _ _ _)]; unfold decodeSalui; rw [FSI_opx, FSI_ofWord]; rfl

theorem RoundTrip.saluiShli o : RoundTrip.Statement (.saluiShli o) := by
  intro _ hw; refine decode_of_form _ ?_ hw
  show decodeForm (o.word 5 0x4) = _
  rw [form_decodeSalui _ (FSI_maj _ _ _)]; unfold decodeSalui; rw [FSI_opx, FSI_ofWord]; rfl

theorem RoundTrip.saluiShri o : RoundTrip.Statement (.saluiShri o) := by
  intro _ hw; refine decode_of_form _ ?_ hw
  show decodeForm (o.word 5 0x5) = _
  rw [form_decodeSalui _ (FSI_maj _ _ _)]; unfold decodeSalui; rw [FSI_opx, FSI_ofWord]; rfl

theorem RoundTrip.saluiSari o : RoundTrip.Statement (.saluiSari o) := by
  intro _ hw; refine decode_of_form _ ?_ hw
  show decodeForm (o.word 5 0x6) = _
  rw [form_decodeSalui _ (FSI_maj _ _ _)]; unfold decodeSalui; rw [FSI_opx, FSI_ofWord]; rfl

theorem RoundTrip.saluiMovi o : RoundTrip.Statement (.saluiMovi o) := by
  intro _ hw; refine decode_of_form _ ?_ hw
  show decodeForm (o.word 5 0x7) = _
  rw [form_decodeSalui _ (FSI_maj _ _ _)]; unfold decodeSalui; rw [FSI_opx, FSI_ofWord]; rfl

theorem RoundTrip.saluiMovhi o : RoundTrip.Statement (.saluiMovhi o) := by
  intro _ hw; refine decode_of_form _ ?_ hw
  show decodeForm (o.word 5 0x8) = _
  rw [form_decodeSalui _ (FSI_maj _ _ _)]; unfold decodeSalui; rw [FSI_opx, FSI_ofWord]; rfl

theorem RoundTrip.slti o : RoundTrip.Statement (.slti o) := by
  intro _ hw; refine decode_of_form _ ?_ hw
  show decodeForm (o.word 5 0x9) = _
  rw [form_decodeSalui _ (FSI_maj _ _ _)]; unfold decodeSalui; rw [FSI_opx, FSI_ofWord]; rfl

theorem RoundTrip.vintAdd o : RoundTrip.Statement (.vintAdd o) := by
  intro _ hw; refine decode_of_form _ ?_ hw
  show decodeForm (o.word 6 0x0) = _
  rw [form_decodeVint _ (FV3_maj _ _ _)]; unfold decodeVint; rw [FV3_opx, FV3_ofWord]; rfl

theorem RoundTrip.vintSub o : RoundTrip.Statement (.vintSub o) := by
  intro _ hw; refine decode_of_form _ ?_ hw
  show decodeForm (o.word 6 0x1) = _
  rw [form_decodeVint _ (FV3_maj _ _ _)]; unfold decodeVint; rw [FV3_opx, FV3_ofWord]; rfl

theorem RoundTrip.addc o : RoundTrip.Statement (.addc o) := by
  intro _ hw; refine decode_of_form _ ?_ hw
  show decodeForm (o.word 6 0x2) = _
  rw [form_decodeVint _ (FV3_maj _ _ _)]; unfold decodeVint; rw [FV3_opx, FV3_ofWord]; rfl

theorem RoundTrip.subb o : RoundTrip.Statement (.subb o) := by
  intro _ hw; refine decode_of_form _ ?_ hw
  show decodeForm (o.word 6 0x3) = _
  rw [form_decodeVint _ (FV3_maj _ _ _)]; unfold decodeVint; rw [FV3_opx, FV3_ofWord]; rfl

theorem RoundTrip.vintMul o : RoundTrip.Statement (.vintMul o) := by
  intro _ hw; refine decode_of_form _ ?_ hw
  show decodeForm (o.word 6 0x4) = _
  rw [form_decodeVint _ (FV3_maj _ _ _)]; unfold decodeVint; rw [FV3_opx, FV3_ofWord]; rfl

theorem RoundTrip.vintMulh o : RoundTrip.Statement (.vintMulh o) := by
  intro _ hw; refine decode_of_form _ ?_ hw
  show decodeForm (o.word 6 0x5) = _
  rw [form_decodeVint _ (FV3_maj _ _ _)]; unfold decodeVint; rw [FV3_opx, FV3_ofWord]; rfl

theorem RoundTrip.vintMulhn o : RoundTrip.Statement (.vintMulhn o) := by
  intro _ hw; refine decode_of_form _ ?_ hw
  show decodeForm (o.word 6 0x6) = _
  rw [form_decodeVint _ (FV3_maj _ _ _)]; unfold decodeVint; rw [FV3_opx, FV3_ofWord]; rfl

theorem RoundTrip.mad o : RoundTrip.Statement (.mad o) := by
  intro _ hw; refine decode_of_form _ ?_ hw
  show decodeForm (o.word 6 0x7) = _
  rw [form_decodeVint _ (FV3_maj _ _ _)]; unfold decodeVint; rw [FV3_opx, FV3_ofWord]; rfl

theorem RoundTrip.vintAnd o : RoundTrip.Statement (.vintAnd o) := by
  intro _ hw; refine decode_of_form _ ?_ hw
  show decodeForm (o.word 6 0x8) = _
  rw [form_decodeVint _ (FV3_maj _ _ _)]; unfold decodeVint; rw [FV3_opx, FV3_ofWord]; rfl

theorem RoundTrip.vintOr o : RoundTrip.Statement (.vintOr o) := by
  intro _ hw; refine decode_of_form _ ?_ hw
  show decodeForm (o.word 6 0x9) = _
  rw [form_decodeVint _ (FV3_maj _ _ _)]; unfold decodeVint; rw [FV3_opx, FV3_ofWord]; rfl

theorem RoundTrip.vintXor o : RoundTrip.Statement (.vintXor o) := by
  intro _ hw; refine decode_of_form _ ?_ hw
  show decodeForm (o.word 6 0xA) = _
  rw [form_decodeVint _ (FV3_maj _ _ _)]; unfold decodeVint; rw [FV3_opx, FV3_ofWord]; rfl

theorem RoundTrip.vintShl o : RoundTrip.Statement (.vintShl o) := by
  intro _ hw; refine decode_of_form _ ?_ hw
  show decodeForm (o.word 6 0xB) = _
  rw [form_decodeVint _ (FV3_maj _ _ _)]; unfold decodeVint; rw [FV3_opx, FV3_ofWord]; rfl

theorem RoundTrip.vintShr o : RoundTrip.Statement (.vintShr o) := by
  intro _ hw; refine decode_of_form _ ?_ hw
  show decodeForm (o.word 6 0xC) = _
  rw [form_decodeVint _ (FV3_maj _ _ _)]; unfold decodeVint; rw [FV3_opx, FV3_ofWord]; rfl

theorem RoundTrip.vintSar o : RoundTrip.Statement (.vintSar o) := by
  intro _ hw; refine decode_of_form _ ?_ hw
  show decodeForm (o.word 6 0xD) = _
  rw [form_decodeVint _ (FV3_maj _ _ _)]; unfold decodeVint; rw [FV3_opx, FV3_ofWord]; rfl

theorem RoundTrip.vintMin o : RoundTrip.Statement (.vintMin o) := by
  intro _ hw; refine decode_of_form _ ?_ hw
  show decodeForm (o.word 6 0xE) = _
  rw [form_decodeVint _ (FV3_maj _ _ _)]; unfold decodeVint; rw [FV3_opx, FV3_ofWord]; rfl

theorem RoundTrip.vintMax o : RoundTrip.Statement (.vintMax o) := by
  intro _ hw; refine decode_of_form _ ?_ hw
  show decodeForm (o.word 6 0xF) = _
  rw [form_decodeVint _ (FV3_maj _ _ _)]; unfold decodeVint; rw [FV3_opx, FV3_ofWord]; rfl

theorem RoundTrip.vintiAddi o : RoundTrip.Statement (.vintiAddi o) := by
  intro _ hw; refine decode_of_form _ ?_ hw
  show decodeForm (o.word 7 0x0) = _
  rw [form_decodeVinti _ (FVI_maj _ _ _)]; unfold decodeVinti; rw [FVI_opx, FVI_ofWord]; rfl

theorem RoundTrip.vintiAndi o : RoundTrip.Statement (.vintiAndi o) := by
  intro _ hw; refine decode_of_form _ ?_ hw
  show decodeForm (o.word 7 0x1) = _
  rw [form_decodeVinti _ (FVI_maj _ _ _)]; unfold decodeVinti; rw [FVI_opx, FVI_ofWord]; rfl

theorem RoundTrip.vintiOri o : RoundTrip.Statement (.vintiOri o) := by
  intro _ hw; refine decode_of_form _ ?_ hw
  show decodeForm (o.word 7 0x2) = _
  rw [form_decodeVinti _ (FVI_maj _ _ _)]; unfold decodeVinti; rw [FVI_opx, FVI_ofWord]; rfl

theorem RoundTrip.vintiXori o : RoundTrip.Statement (.vintiXori o) := by
  intro _ hw; refine decode_of_form _ ?_ hw
  show decodeForm (o.word 7 0x3) = _
  rw [form_decodeVinti _ (FVI_maj _ _ _)]; unfold decodeVinti; rw [FVI_opx, FVI_ofWord]; rfl

theorem RoundTrip.vintiShli o : RoundTrip.Statement (.vintiShli o) := by
  intro _ hw; refine decode_of_form _ ?_ hw
  show decodeForm (o.word 7 0x4) = _
  rw [form_decodeVinti _ (FVI_maj _ _ _)]; unfold decodeVinti; rw [FVI_opx, FVI_ofWord]; rfl

theorem RoundTrip.vintiShri o : RoundTrip.Statement (.vintiShri o) := by
  intro _ hw; refine decode_of_form _ ?_ hw
  show decodeForm (o.word 7 0x5) = _
  rw [form_decodeVinti _ (FVI_maj _ _ _)]; unfold decodeVinti; rw [FVI_opx, FVI_ofWord]; rfl

theorem RoundTrip.vintiSari o : RoundTrip.Statement (.vintiSari o) := by
  intro _ hw; refine decode_of_form _ ?_ hw
  show decodeForm (o.word 7 0x6) = _
  rw [form_decodeVinti _ (FVI_maj _ _ _)]; unfold decodeVinti; rw [FVI_opx, FVI_ofWord]; rfl

theorem RoundTrip.muli o : RoundTrip.Statement (.muli o) := by
  intro _ hw; refine decode_of_form _ ?_ hw
  show decodeForm (o.word 7 0x7) = _
  rw [form_decodeVinti _ (FVI_maj _ _ _)]; unfold decodeVinti; rw [FVI_opx, FVI_ofWord]; rfl

theorem RoundTrip.vriMovi o : RoundTrip.Statement (.vriMovi o) := by
  intro _ hw; refine decode_of_form _ ?_ hw
  show decodeForm (o.word 15 0x0) = _
  rw [form_decodeVri _ (FRI_maj _ _ _)]; unfold decodeVri; rw [FRI_opx, FRI_ofWord]; rfl

theorem RoundTrip.vriMovhi o : RoundTrip.Statement (.vriMovhi o) := by
  intro _ hw; refine decode_of_form _ ?_ hw
  show decodeForm (o.word 15 0x1) = _
  rw [form_decodeVri _ (FRI_maj _ _ _)]; unfold decodeVri; rw [FRI_opx, FRI_ofWord]; rfl

theorem RoundTrip.addi16 o : RoundTrip.Statement (.addi16 o) := by
  intro _ hw; refine decode_of_form _ ?_ hw
  show decodeForm (o.word 15 0x2) = _
  rw [form_decodeVri _ (FRI_maj _ _ _)]; unfold decodeVri; rw [FRI_opx, FRI_ofWord]; rfl

theorem RoundTrip.fadd o : RoundTrip.Statement (.fadd o) := by
  intro _ hw; refine decode_of_form _ ?_ hw
  show decodeForm (o.word 8 0x0) = _
  rw [form_decodeVf32 _ (FV3_maj _ _ _)]; unfold decodeVf32; rw [FV3_opx, FV3_ofWord]; rfl

theorem RoundTrip.fsub o : RoundTrip.Statement (.fsub o) := by
  intro _ hw; refine decode_of_form _ ?_ hw
  show decodeForm (o.word 8 0x1) = _
  rw [form_decodeVf32 _ (FV3_maj _ _ _)]; unfold decodeVf32; rw [FV3_opx, FV3_ofWord]; rfl

theorem RoundTrip.fmul o : RoundTrip.Statement (.fmul o) := by
  intro _ hw; refine decode_of_form _ ?_ hw
  show decodeForm (o.word 8 0x2) = _
  rw [form_decodeVf32 _ (FV3_maj _ _ _)]; unfold decodeVf32; rw [FV3_opx, FV3_ofWord]; rfl

theorem RoundTrip.fmin o : RoundTrip.Statement (.fmin o) := by
  intro _ hw; refine decode_of_form _ ?_ hw
  show decodeForm (o.word 8 0x3) = _
  rw [form_decodeVf32 _ (FV3_maj _ _ _)]; unfold decodeVf32; rw [FV3_opx, FV3_ofWord]; rfl

theorem RoundTrip.fmax o : RoundTrip.Statement (.fmax o) := by
  intro _ hw; refine decode_of_form _ ?_ hw
  show decodeForm (o.word 8 0x4) = _
  rw [form_decodeVf32 _ (FV3_maj _ _ _)]; unfold decodeVf32; rw [FV3_opx, FV3_ofWord]; rfl

theorem RoundTrip.fminm o : RoundTrip.Statement (.fminm o) := by
  intro _ hw; refine decode_of_form _ ?_ hw
  show decodeForm (o.word 8 0x5) = _
  rw [form_decodeVf32 _ (FV3_maj _ _ _)]; unfold decodeVf32; rw [FV3_opx, FV3_ofWord]; rfl

theorem RoundTrip.fmaxm o : RoundTrip.Statement (.fmaxm o) := by
  intro _ hw; refine decode_of_form _ ?_ hw
  show decodeForm (o.word 8 0x6) = _
  rw [form_decodeVf32 _ (FV3_maj _ _ _)]; unfold decodeVf32; rw [FV3_opx, FV3_ofWord]; rfl

theorem RoundTrip.fcps o : RoundTrip.Statement (.fcps o) := by
  intro _ hw; refine decode_of_form _ ?_ hw
  show decodeForm (o.word 8 0x7) = _
  rw [form_decodeVf32 _ (FV3_maj _ _ _)]; unfold decodeVf32; rw [FV3_opx, FV3_ofWord]; rfl

theorem RoundTrip.fflr o : RoundTrip.Statement (.fflr o) := by
  intro _ hw; refine decode_of_form _ ?_ hw
  show decodeForm (o.word 8 0x8) = _
  rw [form_decodeVf32 _ (FV3_maj _ _ _)]; unfold decodeVf32; rw [FV3_opx, FV3_ofWord]; rfl

theorem RoundTrip.fceil o : RoundTrip.Statement (.fceil o) := by
  intro _ hw; refine decode_of_form _ ?_ hw
  show decodeForm (o.word 8 0x9) = _
  rw [form_decodeVf32 _ (FV3_maj _ _ _)]; unfold decodeVf32; rw [FV3_opx, FV3_ofWord]; rfl

theorem RoundTrip.frne o : RoundTrip.Statement (.frne o) := by
  intro _ hw; refine decode_of_form _ ?_ hw
  show decodeForm (o.word 8 0xA) = _
  rw [form_decodeVf32 _ (FV3_maj _ _ _)]; unfold decodeVf32; rw [FV3_opx, FV3_ofWord]; rfl

theorem RoundTrip.ftrn o : RoundTrip.Statement (.ftrn o) := by
  intro _ hw; refine decode_of_form _ ?_ hw
  show decodeForm (o.word 8 0xB) = _
  rw [form_decodeVf32 _ (FV3_maj _ _ _)]; unfold decodeVf32; rw [FV3_opx, FV3_ofWord]; rfl

theorem RoundTrip.fabs o : RoundTrip.Statement (.fabs o) := by
  intro _ hw; refine decode_of_form _ ?_ hw
  show decodeForm (o.word 8 0xC) = _
  rw [form_decodeVf32 _ (FV3_maj _ _ _)]; unfold decodeVf32; rw [FV3_opx, FV3_ofWord]; rfl

theorem RoundTrip.fneg o : RoundTrip.Statement (.fneg o) := by
  intro _ hw; refine decode_of_form _ ?_ hw
  show decodeForm (o.word 8 0xD) = _
  rw [form_decodeVf32 _ (FV3_maj _ _ _)]; unfold decodeVf32; rw [FV3_opx, FV3_ofWord]; rfl

theorem RoundTrip.fsat o : RoundTrip.Statement (.fsat o) := by
  intro _ hw; refine decode_of_form _ ?_ hw
  show decodeForm (o.word 8 0xE) = _
  rw [form_decodeVf32 _ (FV3_maj _ _ _)]; unfold decodeVf32; rw [FV3_opx, FV3_ofWord]; rfl

theorem RoundTrip.fscl o : RoundTrip.Statement (.fscl o) := by
  intro _ hw; refine decode_of_form _ ?_ hw
  show decodeForm (o.word 8 0xF) = _
  rw [form_decodeVf32 _ (FV3_maj _ _ _)]; unfold decodeVf32; rw [FV3_opx, FV3_ofWord]; rfl

theorem RoundTrip.fma o : RoundTrip.Statement (.fma o) := by
  intro _ hw; refine decode_of_form _ ?_ hw
  show decodeForm (o.word 9 0x0) = _
  rw [form_decodeVfma _ (FV3_maj _ _ _)]; unfold decodeVfma; rw [FV3_opx, FV3_ofWord]; rfl

theorem RoundTrip.fms o : RoundTrip.Statement (.fms o) := by
  intro _ hw; refine decode_of_form _ ?_ hw
  show decodeForm (o.word 9 0x1) = _
  rw [form_decodeVfma _ (FV3_maj _ _ _)]; unfold decodeVfma; rw [FV3_opx, FV3_ofWord]; rfl

theorem RoundTrip.fnma o : RoundTrip.Statement (.fnma o) := by
  intro _ hw; refine decode_of_form _ ?_ hw
  show decodeForm (o.word 9 0x2) = _
  rw [form_decodeVfma _ (FV3_maj _ _ _)]; unfold decodeVfma; rw [FV3_opx, FV3_ofWord]; rfl

theorem RoundTrip.fnms o : RoundTrip.Statement (.fnms o) := by
  intro _ hw; refine decode_of_form _ ?_ hw
  show decodeForm (o.word 9 0x3) = _
  rw [form_decodeVfma _ (FV3_maj _ _ _)]; unfold decodeVfma; rw [FV3_opx, FV3_ofWord]; rfl

theorem RoundTrip.hfma2 o : RoundTrip.Statement (.hfma2 o) := by
  intro _ hw; refine decode_of_form _ ?_ hw
  show decodeForm (o.word 9 0x4) = _
  rw [form_decodeVfma _ (FV3_maj _ _ _)]; unfold decodeVfma; rw [FV3_opx, FV3_ofWord]; rfl

theorem RoundTrip.bfma2 o : RoundTrip.Statement (.bfma2 o) := by
  intro _ hw; refine decode_of_form _ ?_ hw
  show decodeForm (o.word 9 0x5) = _
  rw [form_decodeVfma _ (FV3_maj _ _ _)]; unfold decodeVfma; rw [FV3_opx, FV3_ofWord]; rfl

theorem RoundTrip.dot4e4 o : RoundTrip.Statement (.dot4e4 o) := by
  intro _ hw; refine decode_of_form _ ?_ hw
  show decodeForm (o.word 9 0x6) = _
  rw [form_decodeVfma _ (FV3_maj _ _ _)]; unfold decodeVfma; rw [FV3_opx, FV3_ofWord]; rfl

theorem RoundTrip.dot4e5 o : RoundTrip.Statement (.dot4e5 o) := by
  intro _ hw; refine decode_of_form _ ?_ hw
  show decodeForm (o.word 9 0x7) = _
  rw [form_decodeVfma _ (FV3_maj _ _ _)]; unfold decodeVfma; rw [FV3_opx, FV3_ofWord]; rfl

theorem RoundTrip.dot4i o : RoundTrip.Statement (.dot4i o) := by
  intro _ hw; refine decode_of_form _ ?_ hw
  show decodeForm (o.word 9 0x8) = _
  rw [form_decodeVfma _ (FV3_maj _ _ _)]; unfold decodeVfma; rw [FV3_opx, FV3_ofWord]; rfl

theorem RoundTrip.dot2h o : RoundTrip.Statement (.dot2h o) := by
  intro _ hw; refine decode_of_form _ ?_ hw
  show decodeForm (o.word 9 0x9) = _
  rw [form_decodeVfma _ (FV3_maj _ _ _)]; unfold decodeVfma; rw [FV3_opx, FV3_ofWord]; rfl

theorem RoundTrip.cvtf o : RoundTrip.Statement (.cvtf o) := by
  intro _ hw; refine decode_of_form _ ?_ hw
  show decodeForm (o.word 10 0x0) = _
  rw [form_decodeVcvt _ (FV3_maj _ _ _)]; unfold decodeVcvt; rw [FV3_opx, FV3_ofWord]; rfl

theorem RoundTrip.cvti o : RoundTrip.Statement (.cvti o) := by
  intro _ hw; refine decode_of_form _ ?_ hw
  show decodeForm (o.word 10 0x1) = _
  rw [form_decodeVcvt _ (FV3_maj _ _ _)]; unfold decodeVcvt; rw [FV3_opx, FV3_ofWord]; rfl

theorem RoundTrip.cvtp o : RoundTrip.Statement (.cvtp o) := by
  intro _ hw; refine decode_of_form _ ?_ hw
  show decodeForm (o.word 10 0x2) = _
  rw [form_decodeVcvt _ (FV3_maj _ _ _)]; unfold decodeVcvt; rw [FV3_opx, FV3_ofWord]; rfl

theorem RoundTrip.expn o : RoundTrip.Statement (.expn o) := by
  intro _ hw; refine decode_of_form _ ?_ hw
  show decodeForm (o.word 10 0x3) = _
  rw [form_decodeVcvt _ (FV3_maj _ _ _)]; unfold decodeVcvt; rw [FV3_opx, FV3_ofWord]; rfl

theorem RoundTrip.lutx o : RoundTrip.Statement (.lutx o) := by
  intro _ hw; refine decode_of_form _ ?_ hw
  show decodeForm (o.word 10 0x4) = _
  rw [form_decodeVcvt _ (FV3_maj _ _ _)]; unfold decodeVcvt; rw [FV3_opx, FV3_ofWord]; rfl

theorem RoundTrip.mxsc o : RoundTrip.Statement (.mxsc o) := by
  intro _ hw; refine decode_of_form _ ?_ hw
  show decodeForm (o.word 10 0x5) = _
  rw [form_decodeVcvt _ (FV3_maj _ _ _)]; unfold decodeVcvt; rw [FV3_opx, FV3_ofWord]; rfl

theorem RoundTrip.feq o : RoundTrip.Statement (.feq o) := by
  intro _ hw; refine decode_of_form _ ?_ hw
  show decodeForm (o.word 11 0x0) = _
  rw [form_decodeVcmp _ (FV3_maj _ _ _)]; unfold decodeVcmp; rw [FV3_opx, FV3_ofWord]; rfl

theorem RoundTrip.fne o : RoundTrip.Statement (.fne o) := by
  intro _ hw; refine decode_of_form _ ?_ hw
  show decodeForm (o.word 11 0x1) = _
  rw [form_decodeVcmp _ (FV3_maj _ _ _)]; unfold decodeVcmp; rw [FV3_opx, FV3_ofWord]; rfl

theorem RoundTrip.flt o : RoundTrip.Statement (.flt o) := by
  intro _ hw; refine decode_of_form _ ?_ hw
  show decodeForm (o.word 11 0x2) = _
  rw [form_decodeVcmp _ (FV3_maj _ _ _)]; unfold decodeVcmp; rw [FV3_opx, FV3_ofWord]; rfl

theorem RoundTrip.fle o : RoundTrip.Statement (.fle o) := by
  intro _ hw; refine decode_of_form _ ?_ hw
  show decodeForm (o.word 11 0x3) = _
  rw [form_decodeVcmp _ (FV3_maj _ _ _)]; unfold decodeVcmp; rw [FV3_opx, FV3_ofWord]; rfl

theorem RoundTrip.fun o : RoundTrip.Statement (.fun o) := by
  intro _ hw; refine decode_of_form _ ?_ hw
  show decodeForm (o.word 11 0x4) = _
  rw [form_decodeVcmp _ (FV3_maj _ _ _)]; unfold decodeVcmp; rw [FV3_opx, FV3_ofWord]; rfl

theorem RoundTrip.fcls o : RoundTrip.Statement (.fcls o) := by
  intro _ hw; refine decode_of_form _ ?_ hw
  show decodeForm (o.word 11 0x5) = _
  rw [form_decodeVcmp _ (FV3_maj _ _ _)]; unfold decodeVcmp; rw [FV3_opx, FV3_ofWord]; rfl

theorem RoundTrip.ieq o : RoundTrip.Statement (.ieq o) := by
  intro _ hw; refine decode_of_form _ ?_ hw
  show decodeForm (o.word 11 0x6) = _
  rw [form_decodeVcmp _ (FV3_maj _ _ _)]; unfold decodeVcmp; rw [FV3_opx, FV3_ofWord]; rfl

theorem RoundTrip.ine o : RoundTrip.Statement (.ine o) := by
  intro _ hw; refine decode_of_form _ ?_ hw
  show decodeForm (o.word 11 0x7) = _
  rw [form_decodeVcmp _ (FV3_maj _ _ _)]; unfold decodeVcmp; rw [FV3_opx, FV3_ofWord]; rfl

theorem RoundTrip.ilt o : RoundTrip.Statement (.ilt o) := by
  intro _ hw; refine decode_of_form _ ?_ hw
  show decodeForm (o.word 11 0x8) = _
  rw [form_decodeVcmp _ (FV3_maj _ _ _)]; unfold decodeVcmp; rw [FV3_opx, FV3_ofWord]; rfl

theorem RoundTrip.ile o : RoundTrip.Statement (.ile o) := by
  intro _ hw; refine decode_of_form _ ?_ hw
  show decodeForm (o.word 11 0x9) = _
  rw [form_decodeVcmp _ (FV3_maj _ _ _)]; unfold decodeVcmp; rw [FV3_opx, FV3_ofWord]; rfl

theorem RoundTrip.iltn o : RoundTrip.Statement (.iltn o) := by
  intro _ hw; refine decode_of_form _ ?_ hw
  show decodeForm (o.word 11 0xA) = _
  rw [form_decodeVcmp _ (FV3_maj _ _ _)]; unfold decodeVcmp; rw [FV3_opx, FV3_ofWord]; rfl

theorem RoundTrip.ilen o : RoundTrip.Statement (.ilen o) := by
  intro _ hw; refine decode_of_form _ ?_ hw
  show decodeForm (o.word 11 0xB) = _
  rw [form_decodeVcmp _ (FV3_maj _ _ _)]; unfold decodeVcmp; rw [FV3_opx, FV3_ofWord]; rfl

theorem RoundTrip.kand o : RoundTrip.Statement (.kand o) := by
  intro _ hw; refine decode_of_form _ ?_ hw
  show decodeForm (o.word 12 0x0) = _
  rw [form_decodeKops _ (FV3_maj _ _ _)]; unfold decodeKops; rw [FV3_opx, FV3_ofWord]; rfl

theorem RoundTrip.kor o : RoundTrip.Statement (.kor o) := by
  intro _ hw; refine decode_of_form _ ?_ hw
  show decodeForm (o.word 12 0x1) = _
  rw [form_decodeKops _ (FV3_maj _ _ _)]; unfold decodeKops; rw [FV3_opx, FV3_ofWord]; rfl

theorem RoundTrip.kxor o : RoundTrip.Statement (.kxor o) := by
  intro _ hw; refine decode_of_form _ ?_ hw
  show decodeForm (o.word 12 0x2) = _
  rw [form_decodeKops _ (FV3_maj _ _ _)]; unfold decodeKops; rw [FV3_opx, FV3_ofWord]; rfl

theorem RoundTrip.kandn o : RoundTrip.Statement (.kandn o) := by
  intro _ hw; refine decode_of_form _ ?_ hw
  show decodeForm (o.word 12 0x3) = _
  rw [form_decodeKops _ (FV3_maj _ _ _)]; unfold decodeKops; rw [FV3_opx, FV3_ofWord]; rfl

theorem RoundTrip.knot o : RoundTrip.Statement (.knot o) := by
  intro _ hw; refine decode_of_form _ ?_ hw
  show decodeForm (o.word 12 0x4) = _
  rw [form_decodeKops _ (FV3_maj _ _ _)]; unfold decodeKops; rw [FV3_opx, FV3_ofWord]; rfl

theorem RoundTrip.kmov o : RoundTrip.Statement (.kmov o) := by
  intro _ hw; refine decode_of_form _ ?_ hw
  show decodeForm (o.word 12 0x5) = _
  rw [form_decodeKops _ (FV3_maj _ _ _)]; unfold decodeKops; rw [FV3_opx, FV3_ofWord]; rfl

theorem RoundTrip.kset o : RoundTrip.Statement (.kset o) := by
  intro _ hw; refine decode_of_form _ ?_ hw
  show decodeForm (o.word 12 0x6) = _
  rw [form_decodeKops _ (FV3_maj _ _ _)]; unfold decodeKops; rw [FV3_opx, FV3_ofWord]; rfl

theorem RoundTrip.kcnt o : RoundTrip.Statement (.kcnt o) := by
  intro _ hw; refine decode_of_form _ ?_ hw
  show decodeForm (o.word 12 0x7) = _
  rw [form_decodeKops _ (FV3_maj _ _ _)]; unfold decodeKops; rw [FV3_opx, FV3_ofWord]; rfl

theorem RoundTrip.kfirst o : RoundTrip.Statement (.kfirst o) := by
  intro _ hw; refine decode_of_form _ ?_ hw
  show decodeForm (o.word 12 0x8) = _
  rw [form_decodeKops _ (FV3_maj _ _ _)]; unfold decodeKops; rw [FV3_opx, FV3_ofWord]; rfl

theorem RoundTrip.kall o : RoundTrip.Statement (.kall o) := by
  intro _ hw; refine decode_of_form _ ?_ hw
  show decodeForm (o.word 12 0x9) = _
  rw [form_decodeKops _ (FV3_maj _ _ _)]; unfold decodeKops; rw [FV3_opx, FV3_ofWord]; rfl

theorem RoundTrip.kany o : RoundTrip.Statement (.kany o) := by
  intro _ hw; refine decode_of_form _ ?_ hw
  show decodeForm (o.word 12 0xA) = _
  rw [form_decodeKops _ (FV3_maj _ _ _)]; unfold decodeKops; rw [FV3_opx, FV3_ofWord]; rfl

theorem RoundTrip.mov o : RoundTrip.Statement (.mov o) := by
  intro _ hw; refine decode_of_form _ ?_ hw
  show decodeForm (o.word 13 0x0) = _
  rw [form_decodeVmov _ (FV3_maj _ _ _)]; unfold decodeVmov; rw [FV3_opx, FV3_ofWord]; rfl

theorem RoundTrip.vmovSel o : RoundTrip.Statement (.vmovSel o) := by
  intro _ hw; refine decode_of_form _ ?_ hw
  show decodeForm (o.word 13 0x1) = _
  rw [form_decodeVmov _ (FV3_maj _ _ _)]; unfold decodeVmov; rw [FV3_opx, FV3_ofWord]; rfl

theorem RoundTrip.shfl o : RoundTrip.Statement (.shfl o) := by
  intro _ hw; refine decode_of_form _ ?_ hw
  show decodeForm (o.word 13 0x2) = _
  rw [form_decodeVmov _ (FV3_maj _ _ _)]; unfold decodeVmov; rw [FV3_opx, FV3_ofWord]; rfl

theorem RoundTrip.shflx o : RoundTrip.Statement (.shflx o) := by
  intro _ hw; refine decode_of_form _ ?_ hw
  show decodeForm (o.word 13 0x3) = _
  rw [form_decodeVmov _ (FV3_maj _ _ _)]; unfold decodeVmov; rw [FV3_opx, FV3_ofWord]; rfl

theorem RoundTrip.shflup o : RoundTrip.Statement (.shflup o) := by
  intro _ hw; refine decode_of_form _ ?_ hw
  show decodeForm (o.word 13 0x4) = _
  rw [form_decodeVmov _ (FV3_maj _ _ _)]; unfold decodeVmov; rw [FV3_opx, FV3_ofWord]; rfl

theorem RoundTrip.shfldn o : RoundTrip.Statement (.shfldn o) := by
  intro _ hw; refine decode_of_form _ ?_ hw
  show decodeForm (o.word 13 0x5) = _
  rw [form_decodeVmov _ (FV3_maj _ _ _)]; unfold decodeVmov; rw [FV3_opx, FV3_ofWord]; rfl

theorem RoundTrip.rdfl o : RoundTrip.Statement (.rdfl o) := by
  intro _ hw; refine decode_of_form _ ?_ hw
  show decodeForm (o.word 13 0x6) = _
  rw [form_decodeVmov _ (FV3_maj _ _ _)]; unfold decodeVmov; rw [FV3_opx, FV3_ofWord]; rfl

theorem RoundTrip.rdln o : RoundTrip.Statement (.rdln o) := by
  intro _ hw; refine decode_of_form _ ?_ hw
  show decodeForm (o.word 13 0x7) = _
  rw [form_decodeVmov _ (FV3_maj _ _ _)]; unfold decodeVmov; rw [FV3_opx, FV3_ofWord]; rfl

theorem RoundTrip.bcst o : RoundTrip.Statement (.bcst o) := by
  intro _ hw; refine decode_of_form _ ?_ hw
  show decodeForm (o.word 13 0x8) = _
  rw [form_decodeVmov _ (FV3_maj _ _ _)]; unfold decodeVmov; rw [FV3_opx, FV3_ofWord]; rfl

theorem RoundTrip.lid o : RoundTrip.Statement (.lid o) := by
  intro _ hw; refine decode_of_form _ ?_ hw
  show decodeForm (o.word 13 0x9) = _
  rw [form_decodeVmov _ (FV3_maj _ _ _)]; unfold decodeVmov; rw [FV3_opx, FV3_ofWord]; rfl

theorem RoundTrip.lpos o : RoundTrip.Statement (.lpos o) := by
  intro _ hw; refine decode_of_form _ ?_ hw
  show decodeForm (o.word 13 0xA) = _
  rw [form_decodeVmov _ (FV3_maj _ _ _)]; unfold decodeVmov; rw [FV3_opx, FV3_ofWord]; rfl

theorem RoundTrip.exp2 o : RoundTrip.Statement (.exp2 o) := by
  intro _ hw; refine decode_of_form _ ?_ hw
  show decodeForm (o.word 14 0x0) = _
  rw [form_decodeVsfu _ (FV3_maj _ _ _)]; unfold decodeVsfu; rw [FV3_opx, FV3_ofWord]; rfl

theorem RoundTrip.log2 o : RoundTrip.Statement (.log2 o) := by
  intro _ hw; refine decode_of_form _ ?_ hw
  show decodeForm (o.word 14 0x1) = _
  rw [form_decodeVsfu _ (FV3_maj _ _ _)]; unfold decodeVsfu; rw [FV3_opx, FV3_ofWord]; rfl

theorem RoundTrip.rcp o : RoundTrip.Statement (.rcp o) := by
  intro _ hw; refine decode_of_form _ ?_ hw
  show decodeForm (o.word 14 0x2) = _
  rw [form_decodeVsfu _ (FV3_maj _ _ _)]; unfold decodeVsfu; rw [FV3_opx, FV3_ofWord]; rfl

theorem RoundTrip.rsq o : RoundTrip.Statement (.rsq o) := by
  intro _ hw; refine decode_of_form _ ?_ hw
  show decodeForm (o.word 14 0x3) = _
  rw [form_decodeVsfu _ (FV3_maj _ _ _)]; unfold decodeVsfu; rw [FV3_opx, FV3_ofWord]; rfl

theorem RoundTrip.sqrt o : RoundTrip.Statement (.sqrt o) := by
  intro _ hw; refine decode_of_form _ ?_ hw
  show decodeForm (o.word 14 0x4) = _
  rw [form_decodeVsfu _ (FV3_maj _ _ _)]; unfold decodeVsfu; rw [FV3_opx, FV3_ofWord]; rfl

theorem RoundTrip.sin2pi o : RoundTrip.Statement (.sin2pi o) := by
  intro _ hw; refine decode_of_form _ ?_ hw
  show decodeForm (o.word 14 0x5) = _
  rw [form_decodeVsfu _ (FV3_maj _ _ _)]; unfold decodeVsfu; rw [FV3_opx, FV3_ofWord]; rfl

theorem RoundTrip.cos2pi o : RoundTrip.Statement (.cos2pi o) := by
  intro _ hw; refine decode_of_form _ ?_ hw
  show decodeForm (o.word 14 0x6) = _
  rw [form_decodeVsfu _ (FV3_maj _ _ _)]; unfold decodeVsfu; rw [FV3_opx, FV3_ofWord]; rfl

theorem RoundTrip.tanh o : RoundTrip.Statement (.tanh o) := by
  intro _ hw; refine decode_of_form _ ?_ hw
  show decodeForm (o.word 14 0x7) = _
  rw [form_decodeVsfu _ (FV3_maj _ _ _)]; unfold decodeVsfu; rw [FV3_opx, FV3_ofWord]; rfl

theorem RoundTrip.ld sz o : RoundTrip.Statement (.ld sz o) := by
  intro _ hw; refine decode_of_form _ ?_ hw
  show decodeForm (o.word 16 sz.code) = _
  rw [form_decodeLd _ (FM_maj _ _ _)]; unfold decodeLd; rw [FM_opx, FM_ofWord]; cases sz <;> rfl

theorem RoundTrip.ldu sz o : RoundTrip.Statement (.ldu sz o) := by
  intro _ hw; refine decode_of_form _ ?_ hw
  show decodeForm (o.word 16 sz.code) = _
  rw [form_decodeLd _ (FM_maj _ _ _)]; unfold decodeLd; rw [FM_opx, FM_ofWord]; cases sz <;> rfl

theorem RoundTrip.st sz o : RoundTrip.Statement (.st sz o) := by
  intro _ hw; refine decode_of_form _ ?_ hw
  show decodeForm (o.word 17 sz.code) = _
  rw [form_decodeSt _ (FM_maj _ _ _)]; unfold decodeSt; rw [FM_opx, FM_ofWord]; cases sz <;> rfl

theorem RoundTrip.stu sz o : RoundTrip.Statement (.stu sz o) := by
  intro _ hw; refine decode_of_form _ ?_ hw
  show decodeForm (o.word 17 sz.code) = _
  rw [form_decodeSt _ (FM_maj _ _ _)]; unfold decodeSt; rw [FM_opx, FM_ofWord]; cases sz <;> rfl

theorem RoundTrip.lds sz o : RoundTrip.Statement (.lds sz o) := by
  intro _ hw; refine decode_of_form _ ?_ hw
  show decodeForm (o.word 18 sz.code) = _
  rw [form_decodeScr _ (FM_maj _ _ _)]; unfold decodeScr; rw [FM_opx, FM_ofWord]; cases sz <;> rfl

theorem RoundTrip.sts sz o : RoundTrip.Statement (.sts sz o) := by
  intro _ hw; refine decode_of_form _ ?_ hw
  show decodeForm (o.word 18 (8 + sz.code)) = _
  rw [form_decodeScr _ (FM_maj _ _ _)]; unfold decodeScr; rw [FM_opx, FM_ofWord]; cases sz <;> rfl

theorem RoundTrip.aadd o : RoundTrip.Statement (.aadd o) := by
  intro _ hw; refine decode_of_form _ ?_ hw
  show decodeForm (o.word 19 0x0) = _
  rw [form_decodeAtom _ (FM_maj _ _ _)]; unfold decodeAtom; rw [FM_opx, FM_ofWord]; rfl

theorem RoundTrip.amin o : RoundTrip.Statement (.amin o) := by
  intro _ hw; refine decode_of_form _ ?_ hw
  show decodeForm (o.word 19 0x1) = _
  rw [form_decodeAtom _ (FM_maj _ _ _)]; unfold decodeAtom; rw [FM_opx, FM_ofWord]; rfl

theorem RoundTrip.amax o : RoundTrip.Statement (.amax o) := by
  intro _ hw; refine decode_of_form _ ?_ hw
  show decodeForm (o.word 19 0x2) = _
  rw [form_decodeAtom _ (FM_maj _ _ _)]; unfold decodeAtom; rw [FM_opx, FM_ofWord]; rfl

theorem RoundTrip.aminn o : RoundTrip.Statement (.aminn o) := by
  intro _ hw; refine decode_of_form _ ?_ hw
  show decodeForm (o.word 19 0x3) = _
  rw [form_decodeAtom _ (FM_maj _ _ _)]; unfold decodeAtom; rw [FM_opx, FM_ofWord]; rfl

theorem RoundTrip.amaxn o : RoundTrip.Statement (.amaxn o) := by
  intro _ hw; refine decode_of_form _ ?_ hw
  show decodeForm (o.word 19 0x4) = _
  rw [form_decodeAtom _ (FM_maj _ _ _)]; unfold decodeAtom; rw [FM_opx, FM_ofWord]; rfl

theorem RoundTrip.aand o : RoundTrip.Statement (.aand o) := by
  intro _ hw; refine decode_of_form _ ?_ hw
  show decodeForm (o.word 19 0x5) = _
  rw [form_decodeAtom _ (FM_maj _ _ _)]; unfold decodeAtom; rw [FM_opx, FM_ofWord]; rfl

theorem RoundTrip.aor o : RoundTrip.Statement (.aor o) := by
  intro _ hw; refine decode_of_form _ ?_ hw
  show decodeForm (o.word 19 0x6) = _
  rw [form_decodeAtom _ (FM_maj _ _ _)]; unfold decodeAtom; rw [FM_opx, FM_ofWord]; rfl

theorem RoundTrip.axor o : RoundTrip.Statement (.axor o) := by
  intro _ hw; refine decode_of_form _ ?_ hw
  show decodeForm (o.word 19 0x7) = _
  rw [form_decodeAtom _ (FM_maj _ _ _)]; unfold decodeAtom; rw [FM_opx, FM_ofWord]; rfl

theorem RoundTrip.axchg o : RoundTrip.Statement (.axchg o) := by
  intro _ hw; refine decode_of_form _ ?_ hw
  show decodeForm (o.word 19 0x8) = _
  rw [form_decodeAtom _ (FM_maj _ _ _)]; unfold decodeAtom; rw [FM_opx, FM_ofWord]; rfl

theorem RoundTrip.acas o : RoundTrip.Statement (.acas o) := by
  intro _ hw; refine decode_of_form _ ?_ hw
  show decodeForm (o.word 19 0x9) = _
  rw [form_decodeAtom _ (FM_maj _ _ _)]; unfold decodeAtom; rw [FM_opx, FM_ofWord]; rfl

theorem RoundTrip.afadd o : RoundTrip.Statement (.afadd o) := by
  intro _ hw; refine decode_of_form _ ?_ hw
  show decodeForm (o.word 19 0xA) = _
  rw [form_decodeAtom _ (FM_maj _ _ _)]; unfold decodeAtom; rw [FM_opx, FM_ofWord]; rfl

theorem RoundTrip.abfadd2 o : RoundTrip.Statement (.abfadd2 o) := by
  intro _ hw; refine decode_of_form _ ?_ hw
  show decodeForm (o.word 19 0xB) = _
  rw [form_decodeAtom _ (FM_maj _ _ _)]; unfold decodeAtom; rw [FM_opx, FM_ofWord]; rfl

theorem RoundTrip.ldls o : RoundTrip.Statement (.ldls o) := by
  intro _ hw; refine decode_of_form _ ?_ hw
  show decodeForm (o.word 20 0x0) = _
  rw [form_decodeLdl _ (FRI_maj _ _ _)]; unfold decodeLdl; rw [FRI_opx, FRI_ofWord]; rfl

theorem RoundTrip.ldlv o : RoundTrip.Statement (.ldlv o) := by
  intro _ hw; refine decode_of_form _ ?_ hw
  show decodeForm (o.word 20 0x1) = _
  rw [form_decodeLdl _ (FRI_maj _ _ _)]; unfold decodeLdl; rw [FRI_opx, FRI_ofWord]; rfl

theorem RoundTrip.ldl64 o : RoundTrip.Statement (.ldl64 o) := by
  intro _ hw; refine decode_of_form _ ?_ hw
  show decodeForm (o.word 20 0x2) = _
  rw [form_decodeLdl _ (FRI_maj _ _ _)]; unfold decodeLdl; rw [FRI_opx, FRI_ofWord]; rfl

theorem RoundTrip.lg2s o : RoundTrip.Statement (.lg2s o) := by
  intro _ hw; refine decode_of_form _ ?_ hw
  show decodeForm (o.word 21 0x0) = _
  rw [form_decodeCpy _ (FE_maj _ _ _)]; unfold decodeCpy; rw [FE_opx, FE_ofWord]; rfl

theorem RoundTrip.ls2g o : RoundTrip.Statement (.ls2g o) := by
  intro _ hw; refine decode_of_form _ ?_ hw
  show decodeForm (o.word 21 0x1) = _
  rw [form_decodeCpy _ (FE_maj _ _ _)]; unfold decodeCpy; rw [FE_opx, FE_ofWord]; rfl

theorem RoundTrip.bulk o : RoundTrip.Statement (.bulk o) := by
  intro _ hw; refine decode_of_form _ ?_ hw
  show decodeForm (o.word 21 0x2) = _
  rw [form_decodeCpy _ (FE_maj _ _ _)]; unfold decodeCpy; rw [FE_opx, FE_ofWord]; rfl

theorem RoundTrip.mcast o : RoundTrip.Statement (.mcast o) := by
  intro _ hw; refine decode_of_form _ ?_ hw
  show decodeForm (o.word 21 0x3) = _
  rw [form_decodeCpy _ (FE_maj _ _ _)]; unfold decodeCpy; rw [FE_opx, FE_ofWord]; rfl

theorem RoundTrip.dec o : RoundTrip.Statement (.dec o) := by
  intro _ hw; refine decode_of_form _ ?_ hw
  show decodeForm (o.word 21 0x4) = _
  rw [form_decodeCpy _ (FE_maj _ _ _)]; unfold decodeCpy; rw [FE_opx, FE_ofWord]; rfl

theorem RoundTrip.peer o : RoundTrip.Statement (.peer o) := by
  intro _ hw; refine decode_of_form _ ?_ hw
  show decodeForm (o.word 21 0x5) = _
  rw [form_decodeCpy _ (FE_maj _ _ _)]; unfold decodeCpy; rw [FE_opx, FE_ofWord]; rfl

theorem RoundTrip.dscd o : RoundTrip.Statement (.dscd o) := by
  intro _ hw; refine decode_of_form _ ?_ hw
  show decodeForm (o.word 21 0x6) = _
  rw [form_decodeCpy _ (FE_maj _ _ _)]; unfold decodeCpy; rw [FE_opx, FE_ofWord]; rfl

theorem RoundTrip.pref o : RoundTrip.Statement (.pref o) := by
  intro _ hw; refine decode_of_form _ ?_ hw
  show decodeForm (o.word 21 0x7) = _
  rw [form_decodeCpy _ (FE_maj _ _ _)]; unfold decodeCpy; rw [FE_opx, FE_ofWord]; rfl

theorem RoundTrip.red o : RoundTrip.Statement (.red o) := by
  intro _ hw; refine decode_of_form _ ?_ hw
  show decodeForm (o.word 21 0x8) = _
  rw [form_decodeCpy _ (FE_maj _ _ _)]; unfold decodeCpy; rw [FE_opx, FE_ofWord]; rfl

theorem RoundTrip.mma o : RoundTrip.Statement (.mma o) := by
  intro _ hw; refine decode_of_form _ ?_ hw
  show decodeForm (o.word 22 0x0) = _
  rw [form_decodeMma _ (FE_maj _ _ _)]; unfold decodeMma; rw [FE_opx, FE_ofWord]; rfl

theorem RoundTrip.mmaz o : RoundTrip.Statement (.mmaz o) := by
  intro _ hw; refine decode_of_form _ ?_ hw
  show decodeForm (o.word 22 0x1) = _
  rw [form_decodeMma _ (FE_maj _ _ _)]; unfold decodeMma; rw [FE_opx, FE_ofWord]; rfl

theorem RoundTrip.mmld o : RoundTrip.Statement (.mmld o) := by
  intro _ hw; refine decode_of_form _ ?_ hw
  show decodeForm (o.word 22 0x2) = _
  rw [form_decodeMma _ (FE_maj _ _ _)]; unfold decodeMma; rw [FE_opx, FE_ofWord]; rfl

theorem RoundTrip.mmst o : RoundTrip.Statement (.mmst o) := by
  intro _ hw; refine decode_of_form _ ?_ hw
  show decodeForm (o.word 22 0x3) = _
  rw [form_decodeMma _ (FE_maj _ _ _)]; unfold decodeMma; rw [FE_opx, FE_ofWord]; rfl

theorem RoundTrip.mmcl o : RoundTrip.Statement (.mmcl o) := by
  intro _ hw; refine decode_of_form _ ?_ hw
  show decodeForm (o.word 22 0x4) = _
  rw [form_decodeMma _ (FE_maj _ _ _)]; unfold decodeMma; rw [FE_opx, FE_ofWord]; rfl

theorem RoundTrip.mmcv o : RoundTrip.Statement (.mmcv o) := by
  intro _ hw; refine decode_of_form _ ?_ hw
  show decodeForm (o.word 22 0x5) = _
  rw [form_decodeMma _ (FE_maj _ _ _)]; unfold decodeMma; rw [FE_opx, FE_ofWord]; rfl

theorem RoundTrip.mmsp o : RoundTrip.Statement (.mmsp o) := by
  intro _ hw; refine decode_of_form _ ?_ hw
  show decodeForm (o.word 23 0x0) = _
  rw [form_decodeSpx _ (FE_maj _ _ _)]; unfold decodeSpx; rw [FE_opx, FE_ofWord]; rfl

theorem RoundTrip.spcmp o : RoundTrip.Statement (.spcmp o) := by
  intro _ hw; refine decode_of_form _ ?_ hw
  show decodeForm (o.word 23 0x1) = _
  rw [form_decodeSpx _ (FE_maj _ _ _)]; unfold decodeSpx; rw [FE_opx, FE_ofWord]; rfl

theorem RoundTrip.pcomp o : RoundTrip.Statement (.pcomp o) := by
  intro _ hw; refine decode_of_form _ ?_ hw
  show decodeForm (o.word 23 0x2) = _
  rw [form_decodeSpx _ (FE_maj _ _ _)]; unfold decodeSpx; rw [FE_opx, FE_ofWord]; rfl

theorem RoundTrip.pinv o : RoundTrip.Statement (.pinv o) := by
  intro _ hw; refine decode_of_form _ ?_ hw
  show decodeForm (o.word 23 0x3) = _
  rw [form_decodeSpx _ (FE_maj _ _ _)]; unfold decodeSpx; rw [FE_opx, FE_ofWord]; rfl

theorem RoundTrip.nnz o : RoundTrip.Statement (.nnz o) := by
  intro _ hw; refine decode_of_form _ ?_ hw
  show decodeForm (o.word 23 0x4) = _
  rw [form_decodeSpx _ (FE_maj _ _ _)]; unfold decodeSpx; rw [FE_opx, FE_ofWord]; rfl

theorem RoundTrip.wnw o : RoundTrip.Statement (.wnw o) := by
  intro _ hw; refine decode_of_form _ ?_ hw
  show decodeForm (o.word 23 0x5) = _
  rw [form_decodeSpx _ (FE_maj _ _ _)]; unfold decodeSpx; rw [FE_opx, FE_ofWord]; rfl

theorem RoundTrip.wnf o : RoundTrip.Statement (.wnf o) := by
  intro _ hw; refine decode_of_form _ ?_ hw
  show decodeForm (o.word 23 0x6) = _
  rw [form_decodeSpx _ (FE_maj _ _ _)]; unfold decodeSpx; rw [FE_opx, FE_ofWord]; rfl

theorem RoundTrip.wnx o : RoundTrip.Statement (.wnx o) := by
  intro _ hw; refine decode_of_form _ ?_ hw
  show decodeForm (o.word 23 0x7) = _
  rw [form_decodeSpx _ (FE_maj _ _ _)]; unfold decodeSpx; rw [FE_opx, FE_ofWord]; rfl

theorem RoundTrip.fence o : RoundTrip.Statement (.fence o) := by
  intro _ hw; refine decode_of_form _ ?_ hw
  show decodeForm (o.word 24 0x0) = _
  rw [form_decodeSync _ (FSY_maj _ _ _)]; unfold decodeSync; rw [FSY_opx, FSY_ofWord]; rfl

theorem RoundTrip.fencesc o : RoundTrip.Statement (.fencesc o) := by
  intro _ hw; refine decode_of_form _ ?_ hw
  show decodeForm (o.word 24 0x1) = _
  rw [form_decodeSync _ (FSY_maj _ _ _)]; unfold decodeSync; rw [FSY_opx, FSY_ofWord]; rfl

theorem RoundTrip.ofence o : RoundTrip.Statement (.ofence o) := by
  intro _ hw; refine decode_of_form _ ?_ hw
  show decodeForm (o.word 24 0x2) = _
  rw [form_decodeSync _ (FSY_maj _ _ _)]; unfold decodeSync; rw [FSY_opx, FSY_ofWord]; rfl

theorem RoundTrip.bar o : RoundTrip.Statement (.bar o) := by
  intro _ hw; refine decode_of_form _ ?_ hw
  show decodeForm (o.word 24 0x3) = _
  rw [form_decodeSync _ (FSY_maj _ _ _)]; unfold decodeSync; rw [FSY_opx, FSY_ofWord]; rfl

theorem RoundTrip.bara o : RoundTrip.Statement (.bara o) := by
  intro _ hw; refine decode_of_form _ ?_ hw
  show decodeForm (o.word 24 0x4) = _
  rw [form_decodeSync _ (FSY_maj _ _ _)]; unfold decodeSync; rw [FSY_opx, FSY_ofWord]; rfl

theorem RoundTrip.barw o : RoundTrip.Statement (.barw o) := by
  intro _ hw; refine decode_of_form _ ?_ hw
  show decodeForm (o.word 24 0x5) = _
  rw [form_decodeSync _ (FSY_maj _ _ _)]; unfold decodeSync; rw [FSY_opx, FSY_ofWord]; rfl

theorem RoundTrip.bart o : RoundTrip.Statement (.bart o) := by
  intro _ hw; refine decode_of_form _ ?_ hw
  show decodeForm (o.word 24 0x6) = _
  rw [form_decodeSync _ (FSY_maj _ _ _)]; unfold decodeSync; rw [FSY_opx, FSY_ofWord]; rfl

theorem RoundTrip.txbi o : RoundTrip.Statement (.txbi o) := by
  intro _ hw; refine decode_of_form _ ?_ hw
  show decodeForm (o.word 24 0x7) = _
  rw [form_decodeSync _ (FSY_maj _ _ _)]; unfold decodeSync; rw [FSY_opx, FSY_ofWord]; rfl

theorem RoundTrip.txbe o : RoundTrip.Statement (.txbe o) := by
  intro _ hw; refine decode_of_form _ ?_ hw
  show decodeForm (o.word 24 0x8) = _
  rw [form_decodeSync _ (FSY_maj _ _ _)]; unfold decodeSync; rw [FSY_opx, FSY_ofWord]; rfl

theorem RoundTrip.txba o : RoundTrip.Statement (.txba o) := by
  intro _ hw; refine decode_of_form _ ?_ hw
  show decodeForm (o.word 24 0x9) = _
  rw [form_decodeSync _ (FSY_maj _ _ _)]; unfold decodeSync; rw [FSY_opx, FSY_ofWord]; rfl

theorem RoundTrip.txbw o : RoundTrip.Statement (.txbw o) := by
  intro _ hw; refine decode_of_form _ ?_ hw
  show decodeForm (o.word 24 0xA) = _
  rw [form_decodeSync _ (FSY_maj _ _ _)]; unfold decodeSync; rw [FSY_opx, FSY_ofWord]; rfl

theorem RoundTrip.txbt o : RoundTrip.Statement (.txbt o) := by
  intro _ hw; refine decode_of_form _ ?_ hw
  show decodeForm (o.word 24 0xB) = _
  rw [form_decodeSync _ (FSY_maj _ _ _)]; unfold decodeSync; rw [FSY_opx, FSY_ofWord]; rfl

theorem RoundTrip.waita o : RoundTrip.Statement (.waita o) := by
  intro _ hw; refine decode_of_form _ ?_ hw
  show decodeForm (o.word 24 0xC) = _
  rw [form_decodeSync _ (FSY_maj _ _ _)]; unfold decodeSync; rw [FSY_opx, FSY_ofWord]; rfl

theorem RoundTrip.hwait o : RoundTrip.Statement (.hwait o) := by
  intro _ hw; refine decode_of_form _ ?_ hw
  show decodeForm (o.word 24 0xD) = _
  rw [form_decodeSync _ (FSY_maj _ _ _)]; unfold decodeSync; rw [FSY_opx, FSY_ofWord]; rfl

theorem RoundTrip.htest o : RoundTrip.Statement (.htest o) := by
  intro _ hw; refine decode_of_form _ ?_ hw
  show decodeForm (o.word 24 0xE) = _
  rw [form_decodeSync _ (FSY_maj _ _ _)]; unfold decodeSync; rw [FSY_opx, FSY_ofWord]; rfl

theorem RoundTrip.hcan o : RoundTrip.Statement (.hcan o) := by
  intro _ hw; refine decode_of_form _ ?_ hw
  show decodeForm (o.word 24 0xF) = _
  rw [form_decodeSync _ (FSY_maj _ _ _)]; unfold decodeSync; rw [FSY_opx, FSY_ofWord]; rfl

theorem RoundTrip.hexp o : RoundTrip.Statement (.hexp o) := by
  intro _ hw; refine decode_of_form _ ?_ hw
  show decodeForm (o.word 24 0x10) = _
  rw [form_decodeSync _ (FSY_maj _ _ _)]; unfold decodeSync; rw [FSY_opx, FSY_ofWord]; rfl

theorem RoundTrip.himp o : RoundTrip.Statement (.himp o) := by
  intro _ hw; refine decode_of_form _ ?_ hw
  show decodeForm (o.word 24 0x11) = _
  rw [form_decodeSync _ (FSY_maj _ _ _)]; unfold decodeSync; rw [FSY_opx, FSY_ofWord]; rfl

theorem RoundTrip.sjoin o : RoundTrip.Statement (.sjoin o) := by
  intro _ hw; refine decode_of_form _ ?_ hw
  show decodeForm (o.word 25 0x0) = _
  rw [form_decodeStk _ (FS3_maj _ _ _)]; unfold decodeStk; rw [FS3_opx, FS3_ofWord]; rfl

theorem RoundTrip.sleave o : RoundTrip.Statement (.sleave o) := by
  intro _ hw; refine decode_of_form _ ?_ hw
  show decodeForm (o.word 25 0x1) = _
  rw [form_decodeStk _ (FS3_maj _ _ _)]; unfold decodeStk; rw [FS3_opx, FS3_ofWord]; rfl

theorem RoundTrip.sinfo o : RoundTrip.Statement (.sinfo o) := by
  intro _ hw; refine decode_of_form _ ?_ hw
  show decodeForm (o.word 25 0x2) = _
  rw [form_decodeStk _ (FS3_maj _ _ _)]; unfold decodeStk; rw [FS3_opx, FS3_ofWord]; rfl

theorem RoundTrip.ssub o : RoundTrip.Statement (.ssub o) := by
  intro _ hw; refine decode_of_form _ ?_ hw
  show decodeForm (o.word 25 0x3) = _
  rw [form_decodeStk _ (FS3_maj _ _ _)]; unfold decodeStk; rw [FS3_opx, FS3_ofWord]; rfl

theorem RoundTrip.sunsub o : RoundTrip.Statement (.sunsub o) := by
  intro _ hw; refine decode_of_form _ ?_ hw
  show decodeForm (o.word 25 0x4) = _
  rw [form_decodeStk _ (FS3_maj _ _ _)]; unfold decodeStk; rw [FS3_opx, FS3_ofWord]; rfl

theorem RoundTrip.ssync o : RoundTrip.Statement (.ssync o) := by
  intro _ hw; refine decode_of_form _ ?_ hw
  show decodeForm (o.word 25 0x5) = _
  rw [form_decodeStk _ (FS3_maj _ _ _)]; unfold decodeStk; rw [FS3_opx, FS3_ofWord]; rfl

theorem RoundTrip.nbeg o : RoundTrip.Statement (.nbeg o) := by
  intro _ hw; refine decode_of_form _ ?_ hw
  show decodeForm (o.word 26 0x0) = _
  rw [form_decodeNest _ (FVI_maj _ _ _)]; unfold decodeNest; rw [FVI_opx, FVI_ofWord]; rfl

theorem RoundTrip.nxt o : RoundTrip.Statement (.nxt o) := by
  intro _ hw; refine decode_of_form _ ?_ hw
  show decodeForm (o.word 26 0x1) = _
  rw [form_decodeNest _ (FVI_maj _ _ _)]; unfold decodeNest; rw [FVI_opx, FVI_ofWord]; rfl

theorem RoundTrip.nidx o : RoundTrip.Statement (.nidx o) := by
  intro _ hw; refine decode_of_form _ ?_ hw
  show decodeForm (o.word 26 0x2) = _
  rw [form_decodeNest _ (FVI_maj _ _ _)]; unfold decodeNest; rw [FVI_opx, FVI_ofWord]; rfl

theorem RoundTrip.nbar o : RoundTrip.Statement (.nbar o) := by
  intro _ hw; refine decode_of_form _ ?_ hw
  show decodeForm (o.word 26 0x3) = _
  rw [form_decodeNest _ (FVI_maj _ _ _)]; unfold decodeNest; rw [FVI_opx, FVI_ofWord]; rfl

theorem RoundTrip.nred o : RoundTrip.Statement (.nred o) := by
  intro _ hw; refine decode_of_form _ ?_ hw
  show decodeForm (o.word 26 0x4) = _
  rw [form_decodeNest _ (FVI_maj _ _ _)]; unfold decodeNest; rw [FVI_opx, FVI_ofWord]; rfl

theorem RoundTrip.nbc o : RoundTrip.Statement (.nbc o) := by
  intro _ hw; refine decode_of_form _ ?_ hw
  show decodeForm (o.word 26 0x5) = _
  rw [form_decodeNest _ (FVI_maj _ _ _)]; unfold decodeNest; rw [FVI_opx, FVI_ofWord]; rfl

theorem RoundTrip.nmap o : RoundTrip.Statement (.nmap o) := by
  intro _ hw; refine decode_of_form _ ?_ hw
  show decodeForm (o.word 26 0x6) = _
  rw [form_decodeNest _ (FVI_maj _ _ _)]; unfold decodeNest; rw [FVI_opx, FVI_ofWord]; rfl

theorem RoundTrip.nllm o : RoundTrip.Statement (.nllm o) := by
  intro _ hw; refine decode_of_form _ ?_ hw
  show decodeForm (o.word 26 0x7) = _
  rw [form_decodeNest _ (FVI_maj _ _ _)]; unfold decodeNest; rw [FVI_opx, FVI_ofWord]; rfl

theorem RoundTrip.spawn o : RoundTrip.Statement (.spawn o) := by
  intro _ hw; refine decode_of_form _ ?_ hw
  show decodeForm (o.word 27 0x0) = _
  rw [form_decodeTask _ (FV3_maj _ _ _)]; unfold decodeTask; rw [FV3_opx, FV3_ofWord]; rfl

theorem RoundTrip.launch o : RoundTrip.Statement (.launch o) := by
  intro _ hw; refine decode_of_form _ ?_ hw
  show decodeForm (o.word 27 0x1) = _
  rw [form_decodeTask _ (FV3_maj _ _ _)]; unfold decodeTask; rw [FV3_opx, FV3_ofWord]; rfl

theorem RoundTrip.tdone o : RoundTrip.Statement (.tdone o) := by
  intro _ hw; refine decode_of_form _ ?_ hw
  show decodeForm (o.word 27 0x2) = _
  rw [form_decodeTask _ (FV3_maj _ _ _)]; unfold decodeTask; rw [FV3_opx, FV3_ofWord]; rfl

theorem RoundTrip.csrr o : RoundTrip.Statement (.csrr o) := by
  intro _ hw; refine decode_of_form _ ?_ hw
  show decodeForm (o.word 28 0x0) = _
  rw [form_decodeCsr _ (FCSR_maj _ _ _)]; unfold decodeCsr; rw [FCSR_opx, FCSR_ofWord]; rfl

theorem RoundTrip.csrw o : RoundTrip.Statement (.csrw o) := by
  intro _ hw; refine decode_of_form _ ?_ hw
  show decodeForm (o.word 28 0x1) = _
  rw [form_decodeCsr _ (FCSR_maj _ _ _)]; unfold decodeCsr; rw [FCSR_opx, FCSR_ofWord]; rfl

theorem RoundTrip.csrs o : RoundTrip.Statement (.csrs o) := by
  intro _ hw; refine decode_of_form _ ?_ hw
  show decodeForm (o.word 28 0x2) = _
  rw [form_decodeCsr _ (FCSR_maj _ _ _)]; unfold decodeCsr; rw [FCSR_opx, FCSR_ofWord]; rfl

theorem RoundTrip.csrc o : RoundTrip.Statement (.csrc o) := by
  intro _ hw; refine decode_of_form _ ?_ hw
  show decodeForm (o.word 28 0x3) = _
  rw [form_decodeCsr _ (FCSR_maj _ _ _)]; unfold decodeCsr; rw [FCSR_opx, FCSR_ofWord]; rfl

theorem RoundTrip.mpost o : RoundTrip.Statement (.mpost o) := by
  intro _ hw; refine decode_of_form _ ?_ hw
  show decodeForm (o.word 29 0x0) = _
  rw [form_decodeMbx _ (FS3_maj _ _ _)]; unfold decodeMbx; rw [FS3_opx, FS3_ofWord]; rfl

theorem RoundTrip.mtake o : RoundTrip.Statement (.mtake o) := by
  intro _ hw; refine decode_of_form _ ?_ hw
  show decodeForm (o.word 29 0x1) = _
  rw [form_decodeMbx _ (FS3_maj _ _ _)]; unfold decodeMbx; rw [FS3_opx, FS3_ofWord]; rfl

theorem RoundTrip.mpeek o : RoundTrip.Statement (.mpeek o) := by
  intro _ hw; refine decode_of_form _ ?_ hw
  show decodeForm (o.word 29 0x2) = _
  rw [form_decodeMbx _ (FS3_maj _ _ _)]; unfold decodeMbx; rw [FS3_opx, FS3_ofWord]; rfl

theorem RoundTrip.ximm p : RoundTrip.Statement (.ximm p) := by
  intro _ hw; refine decode_of_form _ ?_ hw
  show decodeForm (xwWord 0 p) = _
  rw [form_decodeXw _ (xw_maj _ _)]; unfold decodeXw; rw [xw_kind]; simp only [xw_payload]; rfl

theorem RoundTrip.xreg p : RoundTrip.Statement (.xreg p) := by
  intro _ hw; refine decode_of_form _ ?_ hw
  show decodeForm (xwWord 1 p) = _
  rw [form_decodeXw _ (xw_maj _ _)]; unfold decodeXw; rw [xw_kind]; simp only [xw_payload]; rfl

theorem RoundTrip.xprd p : RoundTrip.Statement (.xprd p) := by
  intro _ hw; refine decode_of_form _ ?_ hw
  show decodeForm (xwWord 2 p) = _
  rw [form_decodeXw _ (xw_maj _ _)]; unfold decodeXw; rw [xw_kind]; simp only [xw_payload]; rfl

theorem RoundTrip.xmod p : RoundTrip.Statement (.xmod p) := by
  intro _ hw; refine decode_of_form _ ?_ hw
  show decodeForm (xwWord 3 p) = _
  rw [form_decodeXw _ (xw_maj _ _)]; unfold decodeXw; rw [xw_kind]; simp only [xw_payload]; rfl

theorem RoundTrip.xmem p : RoundTrip.Statement (.xmem p) := by
  intro _ hw; refine decode_of_form _ ?_ hw
  show decodeForm (xwWord 4 p) = _
  rw [form_decodeXw _ (xw_maj _ _)]; unfold decodeXw; rw [xw_kind]; simp only [xw_payload]; rfl

theorem RoundTrip.xsch p : RoundTrip.Statement (.xsch p) := by
  intro _ hw; refine decode_of_form _ ?_ hw
  show decodeForm (xwWord 5 p) = _
  rw [form_decodeXw _ (xw_maj _ _)]; unfold decodeXw; rw [xw_kind]; simp only [xw_payload]; rfl

theorem RoundTrip.xoff p : RoundTrip.Statement (.xoff p) := by
  intro _ hw; refine decode_of_form _ ?_ hw
  show decodeForm (xwWord 6 p) = _
  rw [form_decodeXw _ (xw_maj _ _)]; unfold decodeXw; rw [xw_kind]; simp only [xw_payload]; rfl

theorem RoundTrip.nop  : RoundTrip.Statement (.nop) := by
  intro _ hw; refine decode_of_form _ ?_ hw
  show decodeForm (sysWord 0 0) = _
  rw [form_decodeSys _ (sys_maj _ _)]; unfold decodeSys; rw [sys_opx]; rfl

theorem RoundTrip.exit  : RoundTrip.Statement (.exit) := by
  intro _ hw; refine decode_of_form _ ?_ hw
  show decodeForm (sysWord 1 0) = _
  rw [form_decodeSys _ (sys_maj _ _)]; unfold decodeSys; rw [sys_opx]; rfl

theorem RoundTrip.yld  : RoundTrip.Statement (.yld) := by
  intro _ hw; refine decode_of_form _ ?_ hw
  show decodeForm (sysWord 5 0) = _
  rw [form_decodeSys _ (sys_maj _ _)]; unfold decodeSys; rw [sys_opx]; rfl

theorem RoundTrip.eret  : RoundTrip.Statement (.eret) := by
  intro _ hw; refine decode_of_form _ ?_ hw
  show decodeForm (sysWord 7 0) = _
  rw [form_decodeSys _ (sys_maj _ _)]; unfold decodeSys; rw [sys_opx]; rfl

theorem RoundTrip.ifence  : RoundTrip.Statement (.ifence) := by
  intro _ hw; refine decode_of_form _ ?_ hw
  show decodeForm (sysWord 8 0) = _
  rw [form_decodeSys _ (sys_maj _ _)]; unfold decodeSys; rw [sys_opx]; rfl

theorem RoundTrip.fetch uid : RoundTrip.Statement (.fetch uid) := by
  intro h; exact Bool.noConfusion (h : true = false)

theorem RoundTrip.pageResponseSuccess r : RoundTrip.Statement (.pageResponseSuccess r) := by
  intro h; exact Bool.noConfusion (h : true = false)

theorem RoundTrip.pageResponseInvalidRequest r : RoundTrip.Statement (.pageResponseInvalidRequest r) := by
  intro h; exact Bool.noConfusion (h : true = false)

theorem RoundTrip.gatherFlush core : RoundTrip.Statement (.gatherFlush core) := by
  intro h; exact Bool.noConfusion (h : true = false)

theorem RoundTrip.operandLogEntry uid a : RoundTrip.Statement (.operandLogEntry uid a) := by
  intro h; exact Bool.noConfusion (h : true = false)

theorem RoundTrip.operandLogReplay uid seq : RoundTrip.Statement (.operandLogReplay uid seq) := by
  intro h; exact Bool.noConfusion (h : true = false)

theorem RoundTrip.lateTrap uid : RoundTrip.Statement (.lateTrap uid) := by
  intro h; exact Bool.noConfusion (h : true = false)

theorem RoundTrip.storeDrain uid a : RoundTrip.Statement (.storeDrain uid a) := by
  intro h; exact Bool.noConfusion (h : true = false)

theorem RoundTrip.homeWritePerform w : RoundTrip.Statement (.homeWritePerform w) := by
  intro h; exact Bool.noConfusion (h : true = false)

theorem RoundTrip.loadPerform uid a : RoundTrip.Statement (.loadPerform uid a) := by
  intro h; exact Bool.noConfusion (h : true = false)

theorem RoundTrip.atomicPerform uid a : RoundTrip.Statement (.atomicPerform uid a) := by
  intro h; exact Bool.noConfusion (h : true = false)

theorem RoundTrip.sliceAccessPerform uid a : RoundTrip.Statement (.sliceAccessPerform uid a) := by
  intro h; exact Bool.noConfusion (h : true = false)

theorem RoundTrip.fill f : RoundTrip.Statement (.fill f) := by
  intro h; exact Bool.noConfusion (h : true = false)

theorem RoundTrip.expire l1 asid line : RoundTrip.Statement (.expire l1 asid line) := by
  intro h; exact Bool.noConfusion (h : true = false)

theorem RoundTrip.deliver src dst : RoundTrip.Statement (.deliver src dst) := by
  intro h; exact Bool.noConfusion (h : true = false)

theorem RoundTrip.batchSend sub batch : RoundTrip.Statement (.batchSend sub batch) := by
  intro h; exact Bool.noConfusion (h : true = false)

theorem RoundTrip.forward sub batch : RoundTrip.Statement (.forward sub batch) := by
  intro h; exact Bool.noConfusion (h : true = false)

theorem RoundTrip.wait uid seq : RoundTrip.Statement (.wait uid seq) := by
  intro h; exact Bool.noConfusion (h : true = false)

theorem RoundTrip.complete op : RoundTrip.Statement (.complete op) := by
  intro h; exact Bool.noConfusion (h : true = false)

theorem RoundTrip.mcastTransferStart op member : RoundTrip.Statement (.mcastTransferStart op member) := by
  intro h; exact Bool.noConfusion (h : true = false)

theorem RoundTrip.rowCommit op : RoundTrip.Statement (.rowCommit op) := by
  intro h; exact Bool.noConfusion (h : true = false)

theorem RoundTrip.mmStallReset core : RoundTrip.Statement (.mmStallReset core) := by
  intro h; exact Bool.noConfusion (h : true = false)

theorem RoundTrip.patternCompileDone core entry : RoundTrip.Statement (.patternCompileDone core entry) := by
  intro h; exact Bool.noConfusion (h : true = false)

theorem RoundTrip.energyWindow die : RoundTrip.Statement (.energyWindow die) := by
  intro h; exact Bool.noConfusion (h : true = false)

theorem RoundTrip.sleepWake uid : RoundTrip.Statement (.sleepWake uid) := by
  intro h; exact Bool.noConfusion (h : true = false)

theorem RoundTrip.preemptRequest uids : RoundTrip.Statement (.preemptRequest uids) := by
  intro h; exact Bool.noConfusion (h : true = false)

theorem RoundTrip.pretoExpiry uid : RoundTrip.Statement (.pretoExpiry uid) := by
  intro h; exact Bool.noConfusion (h : true = false)

theorem RoundTrip.sheafResume uid core : RoundTrip.Statement (.sheafResume uid core) := by
  intro h; exact Bool.noConfusion (h : true = false)

theorem RoundTrip.sheafMigrate uid core : RoundTrip.Statement (.sheafMigrate uid core) := by
  intro h; exact Bool.noConfusion (h : true = false)

theorem RoundTrip.subscriptionResyncFetch sub sector : RoundTrip.Statement (.subscriptionResyncFetch sub sector) := by
  intro h; exact Bool.noConfusion (h : true = false)

theorem RoundTrip.hostPost fn off bytes : RoundTrip.Statement (.hostPost fn off bytes) := by
  intro h; exact Bool.noConfusion (h : true = false)

theorem RoundTrip.launchPacketCheck port : RoundTrip.Statement (.launchPacketCheck port) := by
  intro h; exact Bool.noConfusion (h : true = false)

theorem RoundTrip.dependenceRead launch dep : RoundTrip.Statement (.dependenceRead launch dep) := by
  intro h; exact Bool.noConfusion (h : true = false)

theorem RoundTrip.sheafAdmit launch cluster : RoundTrip.Statement (.sheafAdmit launch cluster) := by
  intro h; exact Bool.noConfusion (h : true = false)

theorem RoundTrip.sheafPlace uid core : RoundTrip.Statement (.sheafPlace uid core) := by
  intro h; exact Bool.noConfusion (h : true = false)

theorem RoundTrip.groupClose cluster group : RoundTrip.Statement (.groupClose cluster group) := by
  intro h; exact Bool.noConfusion (h : true = false)

theorem RoundTrip.drainEnd uid : RoundTrip.Statement (.drainEnd uid) := by
  intro h; exact Bool.noConfusion (h : true = false)

theorem RoundTrip.launchComplete launch : RoundTrip.Statement (.launchComplete launch) := by
  intro h; exact Bool.noConfusion (h : true = false)

theorem RoundTrip.shoot c : RoundTrip.Statement (.shoot c) := by
  intro h; exact Bool.noConfusion (h : true = false)

theorem RoundTrip.ctxsave c : RoundTrip.Statement (.ctxsave c) := by
  intro h; exact Bool.noConfusion (h : true = false)

theorem RoundTrip.ctxload c : RoundTrip.Statement (.ctxload c) := by
  intro h; exact Bool.noConfusion (h : true = false)

theorem RoundTrip.shend c : RoundTrip.Statement (.shend c) := by
  intro h; exact Bool.noConfusion (h : true = false)

theorem RoundTrip.dirtset c : RoundTrip.Statement (.dirtset c) := by
  intro h; exact Bool.noConfusion (h : true = false)

theorem RoundTrip.dirtclr c : RoundTrip.Statement (.dirtclr c) := by
  intro h; exact Bool.noConfusion (h : true = false)

theorem RoundTrip.mbxmake c : RoundTrip.Statement (.mbxmake c) := by
  intro h; exact Bool.noConfusion (h : true = false)

theorem RoundTrip.mbxfree c : RoundTrip.Statement (.mbxfree c) := by
  intro h; exact Bool.noConfusion (h : true = false)

theorem RoundTrip.slflush c : RoundTrip.Statement (.slflush c) := by
  intro h; exact Bool.noConfusion (h : true = false)

theorem RoundTrip.quiesce c : RoundTrip.Statement (.quiesce c) := by
  intro h; exact Bool.noConfusion (h : true = false)

theorem RoundTrip.test c : RoundTrip.Statement (.test c) := by
  intro h; exact Bool.noConfusion (h : true = false)

theorem RoundTrip.remap c : RoundTrip.Statement (.remap c) := by
  intro h; exact Bool.noConfusion (h : true = false)

theorem RoundTrip.resume c : RoundTrip.Statement (.resume c) := by
  intro h; exact Bool.noConfusion (h : true = false)

theorem RoundTrip.segmentLoad r : RoundTrip.Statement (.segmentLoad r) := by
  intro h; exact Bool.noConfusion (h : true = false)

theorem RoundTrip.segmentRetire ctx old new : RoundTrip.Statement (.segmentRetire ctx old new) := by
  intro h; exact Bool.noConfusion (h : true = false)

theorem RoundTrip.unload ctx obj : RoundTrip.Statement (.unload ctx obj) := by
  intro h; exact Bool.noConfusion (h : true = false)

theorem RoundTrip.forcedUnload ctx obj : RoundTrip.Statement (.forcedUnload ctx obj) := by
  intro h; exact Bool.noConfusion (h : true = false)

theorem RoundTrip.seqmWrite core v : RoundTrip.Statement (.seqmWrite core v) := by
  intro h; exact Bool.noConfusion (h : true = false)

theorem RoundTrip.microword core : RoundTrip.Statement (.microword core) := by
  intro h; exact Bool.noConfusion (h : true = false)

theorem RoundTrip.waymkWrite die v : RoundTrip.Statement (.waymkWrite die v) := by
  intro h; exact Bool.noConfusion (h : true = false)

theorem RoundTrip.poolWriteCompletion asid line : RoundTrip.Statement (.poolWriteCompletion asid line) := by
  intro h; exact Bool.noConfusion (h : true = false)

theorem RoundTrip.poisonResponse asid line sectors : RoundTrip.Statement (.poisonResponse asid line sectors) := by
  intro h; exact Bool.noConfusion (h : true = false)

theorem RoundTrip.extentAdd base len port : RoundTrip.Statement (.extentAdd base len port) := by
  intro h; exact Bool.noConfusion (h : true = false)

theorem RoundTrip.extentReleaseRequest base : RoundTrip.Statement (.extentReleaseRequest base) := by
  intro h; exact Bool.noConfusion (h : true = false)

theorem RoundTrip.fabricBindingInstall ctx rdev rctx : RoundTrip.Statement (.fabricBindingInstall ctx rdev rctx) := by
  intro h; exact Bool.noConfusion (h : true = false)

theorem RoundTrip.reductionGroupInstall g : RoundTrip.Statement (.reductionGroupInstall g) := by
  intro h; exact Bool.noConfusion (h : true = false)

theorem RoundTrip.tieFlitIdle link flit : RoundTrip.Statement (.tieFlitIdle link flit) := by
  intro h; exact Bool.noConfusion (h : true = false)

theorem RoundTrip.tieFlitRequest link flit carry : RoundTrip.Statement (.tieFlitRequest link flit carry) := by
  intro h; exact Bool.noConfusion (h : true = false)

theorem RoundTrip.tieFlitData link flit carry : RoundTrip.Statement (.tieFlitData link flit carry) := by
  intro h; exact Bool.noConfusion (h : true = false)

theorem RoundTrip.tieFlitAckCredit link flit : RoundTrip.Statement (.tieFlitAckCredit link flit) := by
  intro h; exact Bool.noConfusion (h : true = false)

theorem RoundTrip.tieFlitReductionPartial link flit carry : RoundTrip.Statement (.tieFlitReductionPartial link flit carry) := by
  intro h; exact Bool.noConfusion (h : true = false)

theorem RoundTrip.linkDeclaredDown link : RoundTrip.Statement (.linkDeclaredDown link) := by
  intro h; exact Bool.noConfusion (h : true = false)

theorem RoundTrip.remoteWriteAck op n : RoundTrip.Statement (.remoteWriteAck op n) := by
  intro h; exact Bool.noConfusion (h : true = false)

theorem RoundTrip.reductionRoundClose gid : RoundTrip.Statement (.reductionRoundClose gid) := by
  intro h; exact Bool.noConfusion (h : true = false)

theorem RoundTrip.groupAbort gid : RoundTrip.Statement (.groupAbort gid) := by
  intro h; exact Bool.noConfusion (h : true = false)

theorem RoundTrip.getVersion  : RoundTrip.Statement (.getVersion) := by
  intro h; exact Bool.noConfusion (h : true = false)

theorem RoundTrip.getCapabilities  : RoundTrip.Statement (.getCapabilities) := by
  intro h; exact Bool.noConfusion (h : true = false)

theorem RoundTrip.negotiateAlgorithms  : RoundTrip.Statement (.negotiateAlgorithms) := by
  intro h; exact Bool.noConfusion (h : true = false)

theorem RoundTrip.getDigests  : RoundTrip.Statement (.getDigests) := by
  intro h; exact Bool.noConfusion (h : true = false)

theorem RoundTrip.getCertificate  : RoundTrip.Statement (.getCertificate) := by
  intro h; exact Bool.noConfusion (h : true = false)

theorem RoundTrip.challenge nonce : RoundTrip.Statement (.challenge nonce) := by
  intro h; exact Bool.noConfusion (h : true = false)

theorem RoundTrip.getMeasurements index : RoundTrip.Statement (.getMeasurements index) := by
  intro h; exact Bool.noConfusion (h : true = false)

theorem RoundTrip.patrolScrub asid line : RoundTrip.Statement (.patrolScrub asid line) := by
  intro h; exact Bool.noConfusion (h : true = false)

theorem RoundTrip.telemetryReport  : RoundTrip.Statement (.telemetryReport) := by
  intro h; exact Bool.noConfusion (h : true = false)

theorem RoundTrip.thermalThrottle die : RoundTrip.Statement (.thermalThrottle die) := by
  intro h; exact Bool.noConfusion (h : true = false)

theorem RoundTrip.thermalShutdown die : RoundTrip.Statement (.thermalShutdown die) := by
  intro h; exact Bool.noConfusion (h : true = false)

theorem RoundTrip.powerRemoval  : RoundTrip.Statement (.powerRemoval) := by
  intro h; exact Bool.noConfusion (h : true = false)

theorem RoundTrip.boot  : RoundTrip.Statement (.boot) := by
  intro h; exact Bool.noConfusion (h : true = false)

theorem RoundTrip.firmwareUpdate img : RoundTrip.Statement (.firmwareUpdate img) := by
  intro h; exact Bool.noConfusion (h : true = false)

theorem RoundTrip.firmwareActivate  : RoundTrip.Statement (.firmwareActivate) := by
  intro h; exact Bool.noConfusion (h : true = false)

theorem RoundTrip.illegalInstruction w : RoundTrip.Statement (.illegalInstruction w) := by
  intro h; exact Bool.noConfusion (h : true = false)

theorem RoundTrip.commandCompletion id : RoundTrip.Statement (.commandCompletion id) := by
  intro h; exact Bool.noConfusion (h : true = false)

theorem RoundTrip.engineScratchAccess op act : RoundTrip.Statement (.engineScratchAccess op act) := by
  intro h; exact Bool.noConfusion (h : true = false)

theorem RoundTrip.homeMigration asid line slice : RoundTrip.Statement (.homeMigration asid line slice) := by
  intro h; exact Bool.noConfusion (h : true = false)

theorem RoundTrip.l2LineEviction asid line : RoundTrip.Statement (.l2LineEviction asid line) := by
  intro h; exact Bool.noConfusion (h : true = false)

theorem RoundTrip.hostBar0Write fn off bytes : RoundTrip.Statement (.hostBar0Write fn off bytes) := by
  intro h; exact Bool.noConfusion (h : true = false)

theorem RoundTrip.arithmeticClockChange die mhz : RoundTrip.Statement (.arithmeticClockChange die mhz) := by
  intro h; exact Bool.noConfusion (h : true = false)

theorem RoundTrip.newImageTakeover rates : RoundTrip.Statement (.newImageTakeover rates) := by
  intro h; exact Bool.noConfusion (h : true = false)

end Sys2Proof.Laws
end

