-- ==== Sys2Proof/Tests/Slice0.lean ====
section
/-! SUPPORT. The model's own tests: an ill-formed instruction for each check of well-formedness; words of the spec and what
they decode to; worked examples of the spec; and, for each statement with hypotheses, a state that meets them. -/

open Sys2Proof Sys2Proof.Machine

namespace Sys2Proof.Tests

set_option Elab.async false
set_option linter.unreachableTactic false
set_option linter.unusedTactic false

/-- Whether an answer is a next state. -/
def goes (o : Out) : Bool := match o with | .next _ => true | _ => false

/-- The state an answer leads to. -/
def after (o : Out) : State := match o with | .next t => t | _ => State.reset

theorem next_of_goes {o : Out} (h : goes o = true) : o = .next (after o) := by
  cases o with
  | next t => rfl
  | fault r => simp [goes] at h
  | refused r => simp [goes] at h

/-- A machine with one context, one code segment and one running sheaf. -/
def m0 : State := State.reset.withTrial

/-- Its sheaf: one lane, at offset 0 of segment 1, core 0. -/
def h0 : Sheaf := trialSheaf

/-- The machine with its sheaf changed. -/
def mach (h : Sheaf) : State := m0.putSheaf h

/-- The sheaf with extension words before the instruction. -/
def withX (h : Sheaf) (ws : List (Nat × BitVec 24)) : Sheaf := { h with chain := ⟨some h.pc, ws⟩ }

/-- The sheaf with an s register set. -/
def regS (h : Sheaf) (ws : List (Nat × Word)) : Sheaf := ws.foldl (fun h w => h.setS w.1 w.2) h

/-- Extension words of a unit. -/
abbrev Exts := List (Nat × BitVec 24)

/-- Operands for scalar forms of two and of one source. -/
def saluOps : List (FS3 × Exts) := [(⟨2, 62, 60, 0⟩, []), (⟨2, 62, 0, 0⟩, [])]

/-- Operands for scalar forms with an immediate. -/
def saluiOps : List (FSI × Exts) := [(⟨1, 2, 31⟩, []), (⟨1, 0, 31⟩, [])]

/-- Operands for vector forms: with an XREG word; of one source; in groups of registers; of predicates; with XMOD. -/
def vecOps : List (FV3 × Exts) :=
  [(⟨1, 2, 4, 8⟩, []), (⟨1, 2, 4, 0⟩, []), (⟨1, 2, 0, 0⟩, []), (⟨0, 2, 4, 0⟩, []), (⟨0, 2, 4, 8⟩, []), (⟨0, 2, 0, 0⟩, []),
   (⟨1, 2, 0, 1⟩, []), (⟨1, 2, 4, 8⟩, [(1, 0x1E0000)]), (⟨1, 2, 4, 0⟩, [(3, 0x00D400)]), (⟨1, 2, 4, 0⟩, [(3, 0x00CC00)]),
   (⟨1, 2, 4, 8⟩, [(3, 0x00D200)]), (⟨1, 2, 4, 8⟩, [(3, 0x004000)]), (⟨1, 2, 4, 0⟩, [(3, 0x00C000)])]

/-- The machine with the budget of the context spent. -/
def poor : State := m0.modCtx 1 fun c => { c with energy := List.replicate 4 ⟨0, 1000, 1000, 0, 0, false, 0⟩ }

/-- A sheaf of two lanes, of which the second has k1 set. -/
def two : Sheaf :=
  { h0 with shln := 2, lanes := [⟨0, 0, false, List.replicate 128 0, 1, List.replicate 4 ⟨0, 0⟩⟩,
                                 ⟨1, 1, false, List.replicate 128 0, 3, List.replicate 4 ⟨0, 0⟩⟩]
            path := some ⟨⟨1, 1, 0⟩, 3, [], none⟩ }

/-- A lane that has left. -/
def goneLane : Lane := ⟨0, 0, true, List.replicate 128 0, 1, List.replicate 4 ⟨0, 0⟩⟩

/-- The machine one microsecond on. -/
def later (h : Sheaf) : State := { mach h with ctl := { m0.ctl with time := 1000 } }

/-- The path of `h0`, and of `two`. -/
def p0 : Path := ⟨⟨1, 1, 0⟩, 1, [], none⟩

/-- A sheaf with a call frame. -/
def called : Sheaf := { h0 with path := some ⟨⟨1, 1, 8⟩, 1, [⟨⟨1, 1, 4⟩, 1⟩], none⟩ }

/-- The capability of the entry of the segment. -/
def cap0 : DWord := entryCap 1 1 0

/-- A sheaf with a trap handler; in the handler, with a point to return to. -/
def handled : Sheaf := { h0 with trap := { h0.trap with v := cap0 } }
def inside : Sheaf := { h0 with trap := { h0.trap with v := cap0, inH := true, ret := some ⟨1, 1, 4⟩ } }

/-- A sheaf in its handler whose return point no segment backs; a sheaf asked to stop. -/
def adrift : Sheaf := { h0 with trap := { h0.trap with v := cap0, inH := true, ret := some ⟨9, 1, 4⟩ } }
def asked0 : Sheaf := { h0 with stop := some ⟨5, false⟩ }

/-- A sheaf of a core in sequencer mode. -/
def micro : Sheaf := { h0 with seqr := true }

/-- The machine with code words cached at the start of the segment. -/
def coded (h : Sheaf) : State :=
  { mach h with mm := { m0.mm with ic := [⟨0, 1, 1, 0, [3, 20, 24, 28, 0, 0, 0, 0, 0, 0, 0, 0, 0, 0, 0, 0]⟩] } }

/-- The machine with a fault mailbox at the start of a window of slice memory. -/
def boxedCtx : Ctx := { trialCtx with win := [⟨0, 0, 0, 64, 0⟩] }
def boxed : State :=
  ({ m0 with job := { m0.job with mbx := [⟨0, 3, 2, 256, 1, [[]]⟩] } } : State).modCtx 1 fun c => { c with win := boxedCtx.win }

/-- A load of the sheaf that waits in its queue. -/
def load0 : Access :=
  { id := ⟨0, 0, 0⟩, kind := .load, space := .glob, addr := 0x20000, size := 4, data := 0, dest := some ⟨true, 5, false⟩
    scp := 5, ord := 0, ch := 0, insn := 0, xmem := 0, pc := ⟨1, 1, 0⟩, gath := 0, undef := false, stage := .queued, held := none }

def asking : Sheaf := { h0 with mq := [.acc load0], nseq := 1 }

/-- Four nanoseconds lie behind whatever the reading of a place. -/
theorem later_reading (h : Sheaf) (n : Nat) : ∀ k ≤ 1000, k ≤ (later h).reading n := fun _ hk => Nat.le_add_right_of_le hk

theorem quiet_asked : (later asked0).quietToStop asked0 = true := by
  have e : decide (asked0.gw + 4 ≤ (later asked0).reading asked0.core) = true :=
    decide_eq_true (later_reading asked0 _ 4 (by decide))
  unfold State.quietToStop State.releaseOk
  rw [e]
  decide +kernel

/-- Operands of memory forms. -/
def memOps : List (FM × Exts) :=
  [(⟨1, 4, 8, 2, 0⟩, []), (⟨1, 4, 8, 2, 0⟩, [(4, 0x280000)]), (⟨1, 4, 8, 2, 0⟩, [(4, 0x480000)]), (⟨0, 4, 0, 2, 0⟩, []),
   (⟨1, 4, 8, 2, 1⟩, [])]

/-- A stook of two sheaves, the second on core 1. -/
def duoA : Sheaf := { h0 with stook := some (7, 0) }
def duoB : Sheaf := { h0 with uid := 2, core := 1, shid := 1, stook := some (7, 1) }
def duo (h : Sheaf) : State :=
  { mach h with sheaves := [h, duoB], stk := ⟨[⟨7, 5, 1, 0, false, 0, [⟨0, 1, false⟩, ⟨1, 2, false⟩]⟩], [], []⟩ }

/-- The line at 0x20000 in L2, and a machine that has it. -/
def home0 : Home := ⟨1, 1024, 0, 0, 0, 0, 128, [], false, 0x20000, false, true, true, false, 0, [], 0⟩
def atHome (h : Sheaf) : State :=
  { mach h with mm := { m0.mm with homes := [home0] }, fab := { m0.fab with extents := [⟨0, 2 ^ 28, 0, 0⟩] } }

/-- The sheaf with one access in its queue. -/
def queued (x : Access) : Sheaf := { h0 with mq := [.acc x], nseq := 2 }
def store0 : Access := { load0 with kind := .store, dest := none, data := 7 }
def store1 : Access := { store0 with stage := .drained 5 }
def atom1 : Access := { load0 with kind := .atomic 0, stage := .drained 5 }
def load3 : Access := { load0 with ch := 3 }

/-- What a home answers. -/
def okIs (r : Except Refused Home) (m : Home) : Bool := match r with | .ok x => x == m | .error _ => false

theorem homeFor_ok {s s1 : State} {h : Sheaf} {x : Access} {m : Home} (e : (s.homeFor h x).1 = s1 ∧ okIs (s.homeFor h x).2 m = true) :
    s.homeFor h x = (s1, .ok m) := by
  obtain ⟨a, b⟩ := e
  rcases q : s.homeFor h x with ⟨t, r⟩
  rw [q] at a b
  cases r with
  | ok y => simp [okIs] at b; simp_all
  | error r => simp [okIs] at b

theorem homeFor_error {s s1 : State} {h : Sheaf} {x : Access} {k : Refused}
    (e : (s.homeFor h x).1 = s1 ∧ (match (s.homeFor h x).2 with | .ok _ => false | .error r => r == k) = true) :
    s.homeFor h x = (s1, .error k) := by
  obtain ⟨a, b⟩ := e
  rcases q : s.homeFor h x with ⟨t, r⟩
  rw [q] at a b
  cases r with
  | ok y => simp at b
  | error r => simp at b; simp_all

/-- Operands of peer forms, member 1 named by MEM. -/
def peerOps : List (FM × Exts) := [(⟨1, 4, 8, 2, 0⟩, [(4, 0x480080)])]

/-- A request on the channel from core 0 to core 1. -/
def reqOf (k : AccKind) (d : Option Dest) : ChanReq :=
  { src := 0, dst := 1, uid := 1, id := ⟨0, 0, 0⟩, kind := .acc k, addr := 524288 + 65532, size := 4, data := 7, dest := d
    holder := 2, insn := 0, pc := ⟨1, 1, 0⟩, trapa := 0, undef := false, half := none }
def sent (k : AccKind) (d : Option Dest) : State := { duo duoA with mm := { m0.mm with chans := [reqOf k d] } }

/-- A machine with a copy of the line in the L1 of core 0; with a window of slice memory; a sheaf with a marker. -/
def copied (h : Sheaf) : State := { mach h with mm := { m0.mm with l1 := [⟨0, 1, 1024, 9, 0, 0⟩] } }
def slmed (h : Sheaf) : State := { mach h with ctxs := [boxedCtx] }
def load4 : Access := { load0 with space := .slm, addr := 65532 }
def store4 : Access := { store1 with space := .slm, addr := 65532 }
def marked : Sheaf := { h0 with mq := [.release 1 1], nseq := 3 }

/-- A machine with an operand-log entry in a state, and its page requested. -/
def logged0 (k : Nat) : LogEntry := ⟨1, 0, 0, 0, 0, 2, k, [⟨0, 0, 0⟩], [(0, 0x20000)], ⟨1, 1, 0⟩, 6, 0⟩
def waiting0 : Sheaf := queued { load0 with stage := .logged none }
def faulted (k : Nat) : State := { mach waiting0 with flt := { m0.flt with log := [logged0 k], reqs := [⟨.core 0, 1, 2⟩] } }

/-- A memory with two bytes listed. -/
def bytes0 : Mem := [(3, 1), (200, 9)]

theorem released_later : (later h0).released h0 5 = true := by
  have e : decide (h0.gw + 4 ≤ (later h0).reading h0.core) = true :=
    decide_eq_true (later_reading h0 _ 4 (by decide))
  unfold State.released State.releaseOk
  rw [e]
  decide +kernel

/-- A sheaf whose s1 names the last 16 bytes of its scratch, and a machine with an object there. -/
def tail16 : Sheaf := regS h0 [(1, 65520)]
def object (h : Sheaf) (v : Nat) : State := { mach h with mm := { m0.mm with scr := Mem.write [] 65520 (natLe 16 v) } }

/-- A barrier handle, and a sheaf that holds it in BAR and in h31. -/
def bar0 (k : Nat) : BarHandle := ⟨65520, 0, true, 1, 3, k, 0, false⟩
def barred (k : Nat) : Sheaf := { h0 with bar := some (bar0 k), h := h0.h.set 31 (.bar (bar0 k)) }

/-- An operation of the sheaf, and a machine that has it with its handle in h31. -/
def op0 (st : Option DWord) : Op := { Op.new m0 h0 (.bulk ⟨31, 0, 0, 0, 0⟩) .bulk 31 [] with id := 9, status := st }
def owner : Sheaf := { h0 with h := h0.h.set 31 (.op 9) }
def working (st : Option DWord) : State := { mach owner with eng := { m0.eng with ops := [op0 st] } }

/-- A machine with the operation exported in slot 1023. -/
def exportCtx : Ctx := { trialCtx with exports := [⟨1023, 4, some 9⟩] }
def importer : Sheaf := regS h0 [(2, 1023), (3, 4)]
def exported (h : Sheaf) : State := { mach h with ctxs := [exportCtx], eng := { m0.eng with ops := [op0 none] } }

/-! Engines. -/

/-- The bits of a tensor-table entry (07/R186). -/
def entryNat (e : Entry) : Nat :=
  e.base + e.rstr * 2 ^ 64 + e.rows * 2 ^ 96 + e.cols * 2 ^ 120 + e.trow % 256 * 2 ^ 144 + e.tcol % 256 * 2 ^ 152 +
  e.fmt * 2 ^ 224 + e.spc * 2 ^ 229 + e.lay * 2 ^ 232

/-- An entry of own scratch: base, row stride, rows, columns, format, layout; one tile. -/
def ent (base rstr rows cols fmt lay : Nat) : Entry :=
  { base := base, rstr := rstr, rows := rows, cols := cols, trow := rows, tcol := cols, scoff := 0, scstr := 0, ver := 0
    fmt := fmt, spc := 1, lay := lay, skr := false, pmem := 0, rdev := 0 }

/-- A machine whose sheaf has two entries in its tensor table, cached in the L1, a page of memory it may use, and bytes of scratch. -/
def desk (h : Sheaf) (a b : Entry) (scr : Mem) : State :=
  { mach h with
    ctxs := [{ trialCtx with tdbase := 0x20000 }]
    mm := { m0.mm with
      l1 := [⟨0, 1, 1024, BitVec.ofNat 1024 (entryNat a + entryNat b * 2 ^ 256), 0, 1000⟩]
      tlb := [⟨0, 1, 2, 256, 0x20000, false, true, true, false, 0⟩], scr := scr } }

/-- An entry that lies in a line of the L1 is found there, and nothing changes. -/
theorem found_of_copy {s : State} {h : Sheaf} {n : Nat} {e : Entry} {c : Copy} (a : h.seqr = false ∧
    h.loadHeld (((s.ctx? h.ctx).map (·.tdbase)).getD 0 + 32 * n) 32 = false ∧ h.mq = [] ∧
    s.inStacks h.ctx (((s.ctx? h.ctx).map (·.tdbase)).getD 0 + 32 * n) 32 = false ∧
    s.copy? (s.l1Of h.core) (s.asidOf h.ctx) ((((s.ctx? h.ctx).map (·.tdbase)).getD 0 + 32 * n) / 128) = some c ∧
    badIn c.bad ((((s.ctx? h.ctx).map (·.tdbase)).getD 0 + 32 * n) % 128) 32 = false ∧
    entryBad (BitVec.ofNat 256 (leNat (merge ((List.range 32).map fun k => storedByte h.mq .glob
      (((s.ctx? h.ctx).map (·.tdbase)).getD 0 + 32 * n + k))
      (lineBytes c.data ((((s.ctx? h.ctx).map (·.tdbase)).getD 0 + 32 * n) % 128) 32)))) = false ∧
    e = Entry.ofBits (BitVec.ofNat 256 (leNat (merge ((List.range 32).map fun k => storedByte h.mq .glob
      (((s.ctx? h.ctx).map (·.tdbase)).getD 0 + 32 * n + k))
      (lineBytes c.data ((((s.ctx? h.ctx).map (·.tdbase)).getD 0 + 32 * n) % 128) 32))))) : entryFound s h n e s := by
  obtain ⟨a1, a2, q, st, a3, b, a4, a5⟩ := a
  refine ⟨_, a5, a4, ?_⟩
  rw [a1]
  refine ⟨a2, _, ?_, rfl⟩
  have z : (((List.range 32).map fun k => storedByte h.mq .glob (((s.ctx? h.ctx).map (·.tdbase)).getD 0 + 32 * n + k)).all
      (·.isSome)) = false := by
    rw [q]
    simp [storedByte]
  have st' : s.inStacks h.ctx (((s.ctx? h.ctx).map (·.tdbase)).getD 0 + 32 * n)
      (lineBytes c.data ((((s.ctx? h.ctx).map (·.tdbase)).getD 0 + 32 * n) % 128) 32).length = false := by simpa [lineBytes] using st
  simp only [State.readAs, z, a3, b, State.overStacks, st']
  rfl

/-- The line of a table. -/
def line0 (a b : Entry) : Copy := ⟨0, 1, 1024, BitVec.ofNat 1024 (entryNat a + entryNat b * 2 ^ 256), 0, 1000⟩

/-! Operations that run. -/

/-- A machine with an operation, its sheaf, a line in L2 and bytes of scratch. -/
def ran (o : Op) (h : Sheaf) (scr : Mem) : State :=
  { atHome h with eng := { m0.eng with ops := [o] }, mm := { (atHome h).mm with scr := scr } }

/-- A copy of one row of 32 bytes into the last sector of the scratch: nothing read yet; read; written. -/
def copyOp : Op :=
  { op0 none with insn := encode (.bulk ⟨31, 0, 58, 0, 3⟩), blk := [0x100, 0, 0, 65504, 65500, 9]
                  ents := [ent 0 64 1 32 3 0, ent 65472 64 1 32 3 0] }
def fedOp : Op := { copyOp with cap := [(Rng.key ⟨1, 0, 32⟩, List.replicate 32 1)] }
def doneOp : Op := { fedOp with done := [2046], xmem := 0x040000 }
def copyShape : Shape := ⟨⟨1, 0, 0, 64, 8, 0, 0, 1, 32⟩, ⟨1, 0, 65472, 64, 8, 0, 0, 1, 32⟩, 32, [(0, 0)]⟩

/-- A copy of one lane; copies from and to memory; a multicast; a matrix operation at its last row, and past it. -/
def laneOp : Op :=
  { op0 none with kind := .lg2s, insn := encode (.lg2s ⟨31, 0, 60, 0, 2⟩), xmem := 0, lanes := [⟨0, 0x20000, 65520, false⟩]
                  lines := [(1024, 0, 0)] }
def fromOp : Op := { copyOp with ents := [{ ent 0x20000 64 1 32 3 0 with spc := 0 }, ent 65472 64 1 32 3 0] }
def toOp : Op := { fedOp with ents := [ent 0 64 1 32 3 0, { ent 0x20000 64 1 32 3 0 with spc := 0 }] }
def toShape : Shape := ⟨⟨1, 0, 0, 64, 8, 0, 0, 1, 32⟩, ⟨0, 0, 0x20000, 64, 8, 0, 0, 1, 32⟩, 32, [(0, 0)]⟩
def castOp : Op := { op0 none with kind := .mcast, xfers := [⟨1, none, false⟩] }
def clearOp (n : Nat) : Op := { op0 none with kind := .mmcl, tile := 15, rp := n }
def loadOp (n : Nat) : Op := { op0 none with kind := .mmld, tile := 15, rp := n }

/-- A machine with a pattern being compiled. -/
def pat0 : Pattern := ⟨4, 0, 1, 1, 65024, 3, 2560, .compiling, 1024, [], 2⟩
def compilingM : State := { m0 with eng := { m0.eng with pats := [pat0] } }

/-! Stooks, nests, tasks, mailboxes, launches. -/

/-- A release passes where nothing of the sheaf is under way and four nanoseconds lie behind. -/
theorem released_quiet {s : State} {h : Sheaf} {scp : BitVec 3} (q : 4 ≤ s.ctl.time ∧ h.gw = 0 ∧ h.mq = [] ∧ s.requests = [] ∧
    s.stk.subs = [] ∧ s.flt.log = [] ∧ s.mm.homes = []) : s.released h scp = true := by
  obtain ⟨q1, q2, q3, q4, q5, q6, q7⟩ := q
  have e : 4 ≤ s.reading h.core := Nat.le_trans q1 (Nat.le_add_right _ _)
  simp [State.released, State.releaseOk, q2, q3, q4, q5, q6, q7, e]

/-- The machine one microsecond on. -/
def State.aged (s : State) : State := { s with ctl := { s.ctl with time := 1000 } }

/-- A sheaf with a barrier handle in a stook. -/
def duoBar : Sheaf := { duoA with h := h0.h.set 31 (.bar (bar0 1)) }

/-- A machine with a subscription of the first sheaf of the stook to the second. -/
def sub0 (st : SubState) : Sub := ⟨11, 0, 1, 2, 64, 128, 2, st, if st = .resync then [1] else [], [⟨12, 4, [(128, 1)], [2], true⟩]⟩
def subbed (st : SubState) (h : Sheaf) : State := { duo h with stk := { (duo h).stk with subs := [sub0 st] } }

/-- A sheaf of two lanes in a nest of two levels that each lane runs whole; and in a level divided among the lanes. -/
def nestS : Sheaf :=
  { two with mapl := [0x4000, 0x4000], extl := [2, 2], llmTab := [(0, 64), (0, 0)], lvf := [96, 96]
             lanes := two.lanes.map fun l => { l with nest := [⟨0, 2⟩, ⟨0, 2⟩, ⟨0, 0⟩, ⟨0, 0⟩] } }
def nestL : Sheaf :=
  { two with mapl := [0x4011], extl := [2]
             lanes := two.lanes.map fun l => { l with nest := [⟨BitVec.ofNat 32 l.lid, 1⟩, ⟨0, 0⟩, ⟨0, 0⟩, ⟨0, 0⟩] } }

/-- Operands of NEST forms. -/
def nestOps : List FVI := [⟨1, 2, 0, 0⟩, ⟨1, 2, 3, 0⟩, ⟨1, 0, 3, 0⟩, ⟨0, 2, 0, 0⟩, ⟨0, 0, 0, 0⟩, ⟨0, 2, 0, 16⟩]

/-- A mailbox of a kind at offset 0 of the window, and a machine that has it. -/
def box (k : Nat) (ms : List (List Byte)) : Mbx := ⟨0, k, 64, 256, 1, ms⟩
def posting (h : Sheaf) (b : Mbx) : State :=
  State.aged { mach h with ctxs := [boxedCtx], job := { m0.job with mbx := [b] } }

/-- A sheaf that may spawn tasks of the segment's entry, in a context with task stacks. -/
def spawner : Sheaf := regS h0 [(3, 0x01000100)]
def spawning : State := State.aged { mach spawner with ctxs := [{ trialCtx with tstks := 4096 }] }

/-- A sheaf that posts the last 128 bytes of its scratch. -/
def poster : Sheaf := regS h0 [(4, 0x80000000 + 65408), (5, 65408)]

/-- A launch packet of SHEAFS: the entry of the segment, one sheaf, its completion word at `done`. -/
def packet (kind vn done : Nat) : List Byte :=
  natLe 128 (kind + 2 ^ 8 + vn * 2 ^ 32 + 16 * 2 ^ 40 + 64 * 2 ^ 48 + cap0.toNat * 2 ^ 64 + 2 ^ 224 + 4096 * 2 ^ 352 + done * 2 ^ 448)

/-- A launch of it, and a machine that has it. -/
def launch0 (ready : Bool) (started done : Nat) : Launch :=
  { id := 3, ctx := 1, die := 0, port := 0, packet := packet 2 128 done, ln := 1, deps := [false, true], ready := ready, mapl := []
    extl := [], llmTab := [], lvf := [], shln := 1, n := 1, scr := 64, entry := ⟨1, 1, 0⟩, unitN := 0, order := 1, started := started
    taskN := 0, done := false }
/-- A context whose budgets are what it used, whatever that is. -/
def evenCtx : Ctx :=
  { trialCtx with cb := 2, bb := Config.otherBytes 1 0 }
def launching (c : Ctx) (l : Launch) : State := { atHome h0 with ctxs := [c], job := { m0.job with launches := [l] } }

theorem even_budgets : (launching evenCtx (launch0 true 0 0)).budgets evenCtx 1 = true := by
  simp only [State.budgets, Bool.and_eq_true, decide_eq_true_eq]
  exact ⟨⟨by decide +kernel, Nat.le_of_eq (Nat.zero_add _)⟩, by decide +kernel⟩

/-- A sheaf that waits for a place; one that drains; a task in the queue of cluster 0. -/
def unplaced : Sheaf := { h0 with run := .waiting }
def leaving : Sheaf := { h0 with run := .draining, path := none }
def task0 : Task := ⟨List.replicate 8 7, 1, cap0, 1, 3, [3], 0, 0⟩
def tasked : State := { m0 with ctl := { m0.ctl with time := 2000 }, job := { m0.job with tasks := [(0, task0)] } }

/-- A launch that waits for a word to be at least 0 (unsigned), and a machine in which the word is at hand. -/
def depLaunch (k : Nat) : Launch := { launch0 false 0 0 with packet := (packet 2 128 0).take (96 + 16 * k) ++ natLe 16 (0x2007C + 3 * 2 ^ 96) ++ (packet 2 128 0).drop (112 + 16 * k) }
def depending (k : Nat) : State :=
  let s := launching { trialCtx with ptroot := 0x100000 } (depLaunch k)
  { s with mm := { s.mm with pool :=
      ((Mem.write [] 0x100000 (natLe 8 0x101001)).write 0x101000 (natLe 8 0x102001)).write 0x102000 (natLe 8 7) } }

theorem pair_of {α β : Type} {a : α × β} {y : β} (e : a.2 = y) : a = (a.1, y) := Prod.ext rfl e

/-! Stops, commands. -/

/-- A stop or a move finds a sheaf quiet where nothing of it is under way and four nanoseconds lie behind. -/
theorem quiet_of {s : State} {h : Sheaf} (q : 4 ≤ s.ctl.time ∧ h.gw = 0 ∧ h.mq = [] ∧ s.requests = [] ∧ h.arr = none ∧ h.late = [] ∧
    h.raised = [] ∧ s.stk.subs = [] ∧ s.stk.nests = [] ∧ s.flt.log = [] ∧ s.mm.homes = [] ∧ s.eng.ops = []) :
    s.quietToStop h = true ∧ s.quietToMove h = true := by
  obtain ⟨q1, q2, q3, q4, qa, ql, qr, q5, q6, q7, q8, q9⟩ := q
  have e : 4 ≤ s.reading h.core := Nat.le_trans q1 (Nat.le_add_right _ _)
  constructor <;> simp [State.quietToStop, State.quietToMove, State.settledAt, State.releaseOk, State.letThrough, q2, q3, q4, qa, ql, qr, q5, q6, q7, q8, q9, e]

/-- A sheaf asked to stop that waits for tasks; one whose time is over; one that has stopped. -/
def resting0 : Sheaf := { asked0 with waiting := true }
def overdue : Sheaf := { h0 with stop := some ⟨0, true⟩ }
def stopped0 : Sheaf := { h0 with run := .stopped 2 none }

theorem even_budgets_of {s : State} {c : Ctx} {n : Nat} (q : s.residentCount c.id + n ≤ c.cb ∧ s.mm.moved = [] ∧
    c.bb = Config.otherBytes c.id (s.ctl.time / 1000 - 1) ∧ (c.energy.map (·.last)).sum ≤ c.pb) : s.budgets c n = true := by
  obtain ⟨q1, q2, q3, q4⟩ := q
  simp [State.budgets, State.poolBytes, q1, q2, q3, q4]

/-- A context of five sheaves whose other budgets are what it used, and a machine with a stopped sheaf of it. -/
def roomyCtx : Ctx :=
  { trialCtx with cb := 5, bb := Config.otherBytes 1 0 }
def waitsOut : State := { mach stopped0 with ctxs := [roomyCtx] }

/-- A command message, a command port that holds it, and a machine with that port. -/
def cmdBytes (op : Nat) (c : Cmd) : List Byte :=
  natLe 32 (op + c.ctx.toNat * 2 ^ 32 + c.a.toNat * 2 ^ 64 + c.b.toNat * 2 ^ 128 + c.stat.toNat * 2 ^ 192)
def port (op : Nat) (c : Cmd) : Mbx := ⟨2 ^ 26, 5, 64, 32, 0, [cmdBytes op c]⟩
def told (s : State) (op : Nat) (c : Cmd) : State :=
  State.aged { s with job := { s.job with mbx := port op c :: s.job.mbx } }

theorem head_of {s : State} {op : Nat} {c : Cmd} {m : Mbx} {rest : List (List Byte)} (q : s.cmdPort = some m ∧
    m.msgs = m.msgs.headD [] :: rest ∧ natAt (m.msgs.headD []) 0 1 = op ∧ cmdOf (m.msgs.headD []) = c) : headCommand s op c m rest :=
  ⟨q.1, m.msgs.headD [], q.2.1, q.2.2.1, q.2.2.2⟩

/-- A command on context 1, with operands. -/
def cmd1 (a b : DWord) : Cmd := ⟨1, a, b, 0x1000⟩

/-- A machine with an operation that pins page 2. -/
def pinning : State := { m0 with eng := { m0.eng with ops := [{ op0 none with pins := [⟨1, 2, 0x20000, false⟩] }] } }

/-- A machine with a command in progress. -/
def running (s : State) (r : CmdRun) : State := { s with sys := { s.sys with cmds := [r] } }
def cmdRun0 (op : Nat) (status : Word) (u : Nat) : CmdRun := ⟨9, op, cmd1 0 0, status, 0, u⟩

/-- The machine with a part quiesced. -/
def quiet0 (p : Part) : State := { m0 with rep := { m0.rep with quiesced := [p] } }

/-! A context image: one context of one window, in the pool with its page table. -/

/-- The context, the records of its image, the image, the pool that holds it, and a machine told to load it. -/
def imageCtx : Ctx := { trialCtx with id := 2, asid := 2, ptroot := 0x100000, sgrantVa := 2 ^ 50, win := [⟨0, 0, 0, 1, 1024⟩] }
def imageBody : List Byte := recBytes 1 2 (ctxBytes imageCtx) ++ recBytes 0xFF 0 []
def image : List Byte :=
  [0x46, 0x53, 0x43, 0x58] ++ natLe 2 1 ++ natLe 2 0 ++ natLe 4 2 ++ natLe 4 0 ++ natLe 8 640 ++ natLe 8 0 ++ sha512 imageBody ++ imageBody
def imagePool : Mem :=
  (((Mem.write [] 0x40000 image).write 0x100000 (natLe 8 0x101001)).write 0x101000 (natLe 8 0x102001)).write 0x102000 (natLe 8 7)
def loading : State :=
  told { m0 with mm := { m0.mm with pool := imagePool }, fab := { m0.fab with extents := [⟨0, 2 ^ 28, 0, 0⟩] }
                 rep := { m0.rep with ways := [⟨0, 0xFFFE, none⟩] } } 3 (cmd1 0x40000 640)

theorem globBytes_absent {s : State} {ctx va : Nat} (e : s.homeOf ctx va .read = (s, .absent)) :
    ∀ n, s.globBytes ctx va (n + 1) = (s, none)
  | 0 => by simp [State.globBytes, e]
  | n + 1 => by rw [State.globBytes, globBytes_absent e n]

/-- What a state must meet to load an image, where its grant bitmap is in no page. -/
def loads (t : State) (im : List Byte) : Bool :=
  match imageRecs im with
  | none => false
  | some rs =>
    let x := ctxOf ((bodiesOf rs 1).headD []) t.ctl.time
    let u : State := { t with ctxs := t.ctxs ++ [{ x with objs := [], resolver := 0 }] }
    !(t.ctxs.any fun y => y.live && (y.asid == x.asid || y.id == x.id)) && decide (u.homeOf x.id x.sgrantVa .read = (u, .absent)) &&
    !u.segsBad rs (grantsOf []) && !u.ctxBad x

theorem loads_spec {t : State} {im : List Byte} (e : loads t im = true) : ∃ rs, imageRecs im = some rs ∧
    let x := ctxOf ((bodiesOf rs 1).headD []) t.ctl.time
    let new : Ctx := { x with objs := [], resolver := 0 }
    let g := State.globBytes { t with ctxs := t.ctxs ++ [new] } x.id x.sgrantVa 8192
    (t.ctxs.any fun y => y.live && (y.asid == x.asid || y.id == x.id)) = false ∧
    g.1.segsBad rs (grantsOf (g.2.getD [])) = false ∧ g.1.ctxBad x = false := by
  unfold loads at e
  split at e
  · contradiction
  · next rs q =>
    simp only [Bool.and_eq_true, Bool.not_eq_true', decide_eq_true_eq] at e
    obtain ⟨⟨⟨e1, e2⟩, e3⟩, e4⟩ := e
    refine ⟨rs, q, e1, ?_⟩
    rw [globBytes_absent e2 8191]
    exact ⟨e3, e4⟩

/-! The loader. -/

/-- The smallest object file: one word of code, no entries, a name; and a machine whose context maps its memory. -/
def hof : List Byte :=
  [0x48, 0x4F, 0x46, 0x00] ++ natLe 2 1 ++ natLe 2 0 ++ natLe 4 0x10000 ++ natLe 4 200 ++ natLe 4 32 ++ natLe 4 5 ++ natLe 4 1 ++ natLe 4 0 ++
  (([(1, 0, 192, 4, 0, 65536), (2, 0, 196, 0, 0, 4), (3, 0, 196, 0, 0, 4), (4, 0, 196, 0, 0, 4), (14, 0xFFFF, 196, 4, 0, 4)] :
    List (Nat × Nat × Nat × Nat × Nat × Nat)).flatMap fun x =>
      natLe 2 x.1 ++ natLe 2 x.2.1 ++ natLe 4 x.2.2.1 ++ natLe 4 x.2.2.2.1 ++ natLe 4 x.2.2.2.2.1 ++ natLe 4 x.2.2.2.2.2 ++
      natLe 4 0xFFFFFFFF ++ natLe 8 0) ++ natLe 4 3 ++ [0, 0x41, 0, 0]
def request (swap need : Bool) : LoadReq := ⟨1, hof, [0x40000, 0, 0, 0, 0], need, [], [], swap⟩
def mappedCtx : Ctx := { trialCtx with ptroot := 0x100000 }
def mapped : State :=
  { m0 with ctxs := [mappedCtx], mm := { m0.mm with pool :=
      ((Mem.write [] 0x100000 (natLe 8 0x101001)).write 0x101000 (natLe 8 0x102001)).write 0x102000 (natLe 8 7) } }

theorem allotSegs_zero {s : State} {o : Nat} {p : BitVec 8} (e : s.seg? 0 = none ∧ p = 1) : s.allotSegs [o] [] = some [(o, 0, p)] := by
  have f : s.freeSeg [] = some (0, 1) := by
    unfold State.freeSeg
    rw [show 65536 = 65535 + 1 from rfl, List.range_succ_eq_map, List.find?_cons_of_pos (by simp [e.1])]
    simp [e.1]
  simp [State.allotSegs, f, e.2]

/-- An object file with an imported name and a lazy slot for it, and the request to load it without a resolver's file. -/
def lazyHof : List Byte :=
  [0x48, 0x4F, 0x46, 0x00] ++ natLe 2 1 ++ natLe 2 0 ++ natLe 4 0x10000 ++ natLe 4 288 ++ natLe 4 32 ++ natLe 4 7 ++ natLe 4 1 ++ natLe 4 0 ++
  (([(1, 0, 256, 4, 0, 65536), (2, 0, 260, 0, 0, 4), (3, 0, 260, 0, 0, 4), (4, 0, 260, 0, 0, 4), (14, 0xFFFF, 260, 4, 0, 4),
     (7, 0xFFFF, 264, 8, 1, 4), (8, 0xFFFF, 272, 16, 1, 16)] :
    List (Nat × Nat × Nat × Nat × Nat × Nat)).flatMap fun x =>
      natLe 2 x.1 ++ natLe 2 x.2.1 ++ natLe 4 x.2.2.1 ++ natLe 4 x.2.2.2.1 ++ natLe 4 x.2.2.2.2.1 ++ natLe 4 x.2.2.2.2.2 ++
      natLe 4 0xFFFFFFFF ++ natLe 8 0) ++ natLe 4 3 ++ [0, 0x41, 0, 0] ++ natLe 4 1 ++ natLe 4 0xFFFFFFFF ++ natLe 16 0
def lazyRequest : LoadReq := ⟨1, lazyHof, [], false, [], [], false⟩

theorem loadFile_noMem {s : State} {r : LoadReq} {c : Ctx} {segs : List (Nat × Nat × BitVec 8)}
    {res : State → List Nat → List (Nat × Nat) → Except String (State × DWord)}
    (e1 : s.allotSegs (ordinals (secsOf r.file)) [] = some segs)
    (e2 : s.pagesFree c (pagesTaken (secsOf r.file) (placing (secsOf r.file) r.place) (((cellsFor c.objs
      ((recsOf r.file 7).map (importKey r.file)).dedup (r.place.drop (secsOf r.file).length)).filter fun x => x.2.2).map fun x => x.2.1)) = false) :
    s.loadFile r c [] [] res = .error "NOMEM" := by
  simp [State.loadFile, e1, e2]

theorem loadFile_ok {s : State} {r : LoadReq} {c : Ctx} {segs : List (Nat × Nat × BitVec 8)}
    {res : State → List Nat → List (Nat × Nat) → Except String (State × DWord)}
    (e1 : s.allotSegs (ordinals (secsOf r.file)) [] = some segs)
    (e2 : s.pagesFree c (pagesTaken (secsOf r.file) (placing (secsOf r.file) r.place) []) = true)
    (e3 : (s.placeSecs c r.file (secsOf r.file) (placing (secsOf r.file) r.place) segs).isSome = true)
    (e4 : recsOf r.file 7 = []) (e5 : recsOf r.file 8 = []) (e6 : (secsOf r.file).findIdx? (fun x => x.ty == 0xA) = none) :
    ∃ t gs, s.loadFile r c [] [] res = .ok (t, gs) := by
  obtain ⟨s1, e3⟩ := Option.isSome_iff_exists.mp e3
  have e7 : hasLazy r.file = false := by simp [hasLazy, e5]
  simp [State.loadFile, State.linkFile, e1, e2, e3, e4, e5, e6, e7, pieces, cellsFor]

/-- A machine in which every segment index is taken. -/
def crowded : State := { m0 with segs := (List.range 65536).map fun i => { trialSeg with idx := i } }

theorem find_crowd (n i : Nat) (hi : i ∈ List.range n) :
    ∃ g, ((List.range n).map fun i => { trialSeg with idx := i }).find? (fun g => g.idx == i) = some g ∧ g.state = .live := by
  have hs : (((List.range n).map fun i => { trialSeg with idx := i }).find? (fun g => g.idx == i)).isSome = true := by
    rw [List.find?_isSome]
    exact ⟨{ trialSeg with idx := i }, List.mem_map.mpr ⟨i, hi, rfl⟩, beq_self_eq_true i⟩
  obtain ⟨g, hg⟩ := Option.isSome_iff_exists.mp hs
  obtain ⟨j, -, rfl⟩ := List.mem_map.mp (List.mem_of_find?_eq_some hg)
  exact ⟨_, hg, rfl⟩

theorem allotSegs_crowded (o : Nat) : crowded.allotSegs [o] [] = none := by
  have f : crowded.freeSeg [] = none := by
    unfold State.freeSeg State.seg? crowded
    generalize 65536 = n
    rw [Option.map_eq_none_iff, List.find?_eq_none]
    intro i hi
    obtain ⟨g, hg, hl⟩ := find_crowd n i hi
    simp only [hg, hl]
    simp
  rw [State.allotSegs, f]
  rfl

/-- A context with an object of two segments, and a machine that has them; with the object's cell addresses in no page. -/
def obj0 : Obj := ⟨5, [0x41], [1, 2], [], [], [], [], []⟩
def obj1 : Obj := ⟨6, [0x42], [], [], [], [], [], []⟩
def objCtx : Ctx := { trialCtx with objs := [obj0, obj1] }
def seg2 : Seg := { trialSeg with idx := 2, base := 0x30000 }
def holding : State := { m0 with ctxs := [objCtx], segs := [trialSeg, seg2] }

/-- A core in sequencer mode, and a machine that has it. -/
def seq0 : Seqr := ⟨0, true, false, 0, 0, none, 1, none⟩
def sequenced : State := { mach micro with seqs := [seq0] }

/-- A line with a byte not yet at the pool, and a machine that has it in L2. -/
def dirty0 : Home := { home0 with dirty := 1 }
def atDirty : State := { atHome h0 with mm := { (atHome h0).mm with homes := [dirty0] } }

/-- Machines in which repair state differs. -/
def repd (f : RepSys → RepSys) : State := { m0 with rep := f m0.rep }

/-! The fabric. -/

/-- A machine with a fabric changed. -/
def fabd (f : FabSys → FabSys) : State := { m0 with fab := f m0.fab }

/-- A copy to another device whose data has been read, and its shape. -/
def farOp : Op := { fedOp with ents := [ent 0 64 1 32 3 0, { ent 65472 64 1 32 3 0 with spc := 3 }] }
def farShape : Shape := ⟨⟨1, 0, 0, 64, 8, 0, 0, 1, 32⟩, ⟨3, 0, 65472, 64, 8, 0, 0, 1, 32⟩, 32, [(0, 0)]⟩

/-- A reduction group of one contribution, the root's operation, its contribution of a type, and a machine whose round is full. -/
def group0 : GroupRec := ⟨7, 1, 0, 0, 0, 8, 1, 1, 0⟩
def redOp : Op := { op0 none with kind := .red, rp := 1, blk := [0, 0, 0, 7, 0, 0], ents := [ent 0 4 1 1 8 0, ent 65472 4 1 1 8 0] }
def contrib0 (ty : BitVec 5) : Contrib := ⟨7, some 9, 1, 1, 0, ty, 8, 1, false, [[1, 0, 0, 0]]⟩
def fullRound (ty : BitVec 5) : State :=
  { fabd (fun f => { f with groups := [group0], contribs := [contrib0 ty] }) with eng := { m0.eng with ops := [redOp] } }

/-- The machine after reset with a word where its first instruction is fetched, and its sheaf when it has fetched it. -/
def placed (w : Nat) : State := State.reset.withFetchWord 32 w
def fetched (w : Word) : Sheaf := { h0 with fbuf := some w }

/-- The code of bytes of zero is zero. -/
theorem crc64_zeros (n : Nat) : crc64 (List.replicate n 0) = 0 := by
  unfold crc64
  induction n with
  | zero => rfl
  | succ n ih =>
    rw [List.replicate_succ, List.foldl_cons, show (List.range 8).foldl (fun (d : DWord) (_ : Nat) => crcStep d)
      ((0 : DWord) ^^^ ((0 : Byte).setWidth 64 <<< 56)) = 0 by decide +kernel]
    exact ih

theorem crc64_of_zeros {f : List Byte} (e : f.take 248 = List.replicate 248 0) : (crc64 (f.take 248)).toNat = 0 := by
  rw [e, crc64_zeros]
  rfl


/-! ### Well-formedness -/

/-- One ill-formed instruction for each check on a field: a reserved field that is not zero, a register its class does not
have (04/R76, R78). -/
def badFieldTerms : List Instr :=
  [.clz ⟨1, 2, 1, 0⟩, .bru .al ⟨1, 0⟩, .bcst ⟨0, 1, 2, 64⟩, .spawn ⟨0, 0, 8, 64⟩, .rdfl ⟨0, 64, 1, 0⟩, .kand ⟨0, 16, 1, 2⟩,
   .saluiMovi ⟨1, 1, 0⟩, .callx ⟨1, 4⟩, .kset ⟨0, 1, 1, 0⟩, .sleave ⟨1, 1, 0, 0⟩, .ldu .b32 ⟨0, 6, 1, 10, 0⟩, .mmcl ⟨1, 2, 0, 0, 0⟩]

/-- One for each check on the other bits of a word (04/R78; 05 to 07 per form). -/
def badExtraTerms : List Instr :=
  [.saluAdd ⟨1, 2, 3, 1⟩, .saluiShli ⟨1, 2, 32⟩, .vintiShli ⟨0, 1, 2, 32⟩, .kset ⟨0, 1, 0, 2⟩, .ldu .b32 ⟨0, 6, 0, 10, 1⟩,
   .lg2s ⟨1, 0, 4, 1, 0⟩, .lg2s ⟨1, 0, 4, 0, 8⟩, .ls2g ⟨1, 0, 4, 0, 3⟩, .bulk ⟨1, 0, 4, 1, 0⟩, .bulk ⟨1, 0, 4, 0, 8⟩,
   .mcast ⟨1, 0, 4, 0, 4⟩, .dec ⟨1, 0, 4, 0, 4⟩, .peer ⟨1, 0, 4, 1, 0⟩, .dscd ⟨1, 0, 4, 0, 1⟩, .pref ⟨1, 0, 4, 1, 0⟩,
   .red ⟨1, 0, 4, 0, 3⟩, .red ⟨1, 0, 4, 0, 8⟩, .mma ⟨1, 2, 4, 0, 2⟩, .mmaz ⟨1, 2, 4, 0, 32⟩, .mmld ⟨1, 2, 4, 1, 0⟩, .mmst ⟨1, 2, 4, 0, 1⟩,
   .mmcl ⟨0, 2, 0, 1, 0⟩, .mmcv ⟨1, 2, 4, 0, 2⟩, .spcmp ⟨1, 0, 4, 1, 0⟩, .wnx ⟨1, 0, 4, 0, 2⟩, .mmsp ⟨1, 2, 4, 0, 1⟩, .mmsp ⟨1, 2, 4, 0, 16⟩,
   .mmsp ⟨1, 2, 4, 0, 3⟩, .pcomp ⟨1, 0, 4, 0, 3⟩, .pinv ⟨0, 0, 4, 0, 4⟩, .nnz ⟨0, 0, 4, 0, 1⟩, .wnw ⟨1, 0, 4, 0, 8⟩, .wnf ⟨1, 0, 4, 0, 4⟩]
def badOrderTerms : List Instr :=
  [.fence ⟨7, 1, 0, 0, 0⟩, .fence ⟨5, 0, 0, 0, 0⟩, .fencesc ⟨7, 0, 0, 0, 0⟩, .fencesc ⟨5, 1, 0, 0, 0⟩, .ofence ⟨1, 0, 0, 0, 0⟩,
   .ofence ⟨0, 1, 0, 0, 0⟩, .bar ⟨0, 0, 1, 2, 0⟩, .bara ⟨7, 0, 1, 2, 3⟩, .barw ⟨2, 1, 0, 0, 3⟩, .txba ⟨0, 0, 1, 2, 0⟩,
   .txbi ⟨1, 0, 1, 2, 0⟩, .hwait ⟨0, 1, 2, 0, 3⟩, .waita ⟨0, 0, 6, 7, 0⟩, .waita ⟨2, 0, 6, 7, 4⟩, .waita ⟨2, 1, 6, 7, 0⟩,
   .sjoin ⟨1, 2, 3, 1⟩, .sinfo ⟨1, 2, 0, 6⟩, .sinfo ⟨1, 2, 0, 7⟩, .nbeg ⟨0, 1, 0, 4⟩, .nred ⟨0, 0, 1, 32⟩, .nred ⟨0, 0, 1, 12⟩,
   .csrr ⟨1, 1, 0⟩, .mpost ⟨1, 2, 3, 2⟩, .mpeek ⟨1, 2, 0, 1⟩, .ldls ⟨1, 8, 6⟩, .nbc ⟨1, 1, 2, 0⟩, .launch ⟨2, 0, 4, 6⟩]

theorem test_field_checks : ∀ i ∈ badFieldTerms, i.fields.all Field.ok = false ∧ decode (encode i) = none := by decide +kernel

theorem test_extra_checks : ∀ i ∈ badExtraTerms, i.extraOk = false ∧ decode (encode i) = none := by decide +kernel

theorem test_order_checks : ∀ i ∈ badOrderTerms, i.wf = false ∧ decode (encode i) = none := by decide +kernel

/-- Field values beyond a class's registers, where the format's field cannot hold one. -/
theorem test_classes : Field.ok ⟨.tile, .rd, 16⟩ = false ∧ Field.ok ⟨.h, .rd, 32⟩ = false ∧ Field.ok ⟨.block 4, .rd, 64⟩ = false ∧
    Field.ok ⟨.v 1, .rd, 127⟩ = true := by decide

/-- MAJ 0x1E, the reserved extension word and OPX values beyond each list stand for no instruction (04/R74, R91). -/
theorem test_reserved_codes : ([0xF0000000, 0xFF000000, 0x01200000, 0x12000000, 0x1C000000, 0x23800000, 0x2D000000, 0x3C000000,
    0x4D000000, 0x53000000, 0x5E000000, 0x65800000, 0x6D800000, 0x74000000, 0x7E000000, 0x83800000, 0x88800000, 0x93800000,
    0x9E000000, 0xA6000000, 0xAC800000, 0xB3000000, 0xBC000000, 0xC4800000, 0xC8C00000, 0xD4000000, 0xD9800000, 0xE0800000,
    0xE8600000] : List Word).all (fun w => (decode w).isNone) = true := by decide +kernel

/-- Words of MAJ 0x0. -/
def wordsSys : List (Word × Instr) :=
  [(0x00000000, .nop), (0x00200000, .exit), (0x004AAD15, .trap 0xAAD15), (0x006AAD15, .brk 0xAAD15),
   (0x008AAD15, .safe 0xAAD15), (0x00A00000, .yld), (0x00CAAD15, .sleep 0xAAD15), (0x00E00000, .eret),
   (0x01000000, .ifence)]

theorem test_words_sys : ∀ p ∈ wordsSys, decode p.1 = some p.2 ∧ encode p.2 = p.1 := by decide +kernel

/-- Words of MAJ 0x1. -/
def wordsBru : List (Word × Instr) :=
  [(0x0A5FFFFD, .bru .nz ⟨5, 0xFFFFD⟩)]

theorem test_words_bru : ∀ p ∈ wordsBru, decode p.1 = some p.2 ∧ encode p.2 = p.1 := by decide +kernel

/-- Words of MAJ 0x2. -/
def wordsBrd : List (Word × Instr) :=
  [(0x105FFFFD, .brd ⟨5, 0xFFFFD⟩), (0x110FFFFD, .rcv ⟨0, 0xFFFFD⟩)]

theorem test_words_brd : ∀ p ∈ wordsBrd, decode p.1 = some p.2 ∧ encode p.2 = p.1 := by decide +kernel

/-- Words of MAJ 0x3. -/
def wordsJmp : List (Word × Instr) :=
  [(0x180FFFFD, .call ⟨0, 0xFFFFD⟩), (0x19500000, .callx ⟨5, 0⟩), (0x1A000000, .ret ⟨0, 0⟩),
   (0x1B5FFFFD, .jtab ⟨5, 0xFFFFD⟩)]

theorem test_words_jmp : ∀ p ∈ wordsJmp, decode p.1 = some p.2 ∧ encode p.2 = p.1 := by decide +kernel

/-- Words of MAJ 0x4. -/
def wordsSalu : List (Word × Instr) :=
  [(0x201B5B98, .saluAdd ⟨0x36, 0x2D, 0x33, 0⟩), (0x203B5B98, .saluSub ⟨0x36, 0x2D, 0x33, 0⟩),
   (0x205B5B98, .saluMul ⟨0x36, 0x2D, 0x33, 0⟩), (0x207B5B98, .saluMulh ⟨0x36, 0x2D, 0x33, 0⟩),
   (0x209B5B98, .saluMulhn ⟨0x36, 0x2D, 0x33, 0⟩), (0x20BB5B98, .saluAnd ⟨0x36, 0x2D, 0x33, 0⟩),
   (0x20DB5B98, .saluOr ⟨0x36, 0x2D, 0x33, 0⟩), (0x20FB5B98, .saluXor ⟨0x36, 0x2D, 0x33, 0⟩),
   (0x211B5B98, .andn ⟨0x36, 0x2D, 0x33, 0⟩), (0x213B5B98, .saluShl ⟨0x36, 0x2D, 0x33, 0⟩),
   (0x215B5B98, .saluShr ⟨0x36, 0x2D, 0x33, 0⟩), (0x217B5B98, .saluSar ⟨0x36, 0x2D, 0x33, 0⟩),
   (0x219B5B98, .rotl ⟨0x36, 0x2D, 0x33, 0⟩), (0x21BB5B98, .saluMin ⟨0x36, 0x2D, 0x33, 0⟩),
   (0x21DB5B98, .saluMax ⟨0x36, 0x2D, 0x33, 0⟩), (0x21FB5B98, .minn ⟨0x36, 0x2D, 0x33, 0⟩),
   (0x221B5B98, .maxn ⟨0x36, 0x2D, 0x33, 0⟩), (0x223B5B98, .slt ⟨0x36, 0x2D, 0x33, 0⟩),
   (0x225B5B98, .sltn ⟨0x36, 0x2D, 0x33, 0⟩), (0x227B5B98, .seq ⟨0x36, 0x2D, 0x33, 0⟩),
   (0x229B5B98, .saluSel ⟨0x36, 0x2D, 0x33, 0⟩), (0x22BB5A00, .clz ⟨0x36, 0x2D, 0, 0⟩),
   (0x22DB5A00, .popc ⟨0x36, 0x2D, 0, 0⟩), (0x22FB5A00, .brev ⟨0x36, 0x2D, 0, 0⟩),
   (0x231B5B98, .add64 ⟨0x36, 0x2D, 0x33, 0⟩), (0x233B5B98, .sub64 ⟨0x36, 0x2D, 0x33, 0⟩),
   (0x235B5B98, .shl64 ⟨0x36, 0x2D, 0x33, 0⟩), (0x237B5B98, .shr64 ⟨0x36, 0x2D, 0x33, 0⟩)]

theorem test_words_salu : ∀ p ∈ wordsSalu, decode p.1 = some p.2 ∧ encode p.2 = p.1 := by decide +kernel

/-- Words of MAJ 0x5. -/
def wordsSalui : List (Word × Instr) :=
  [(0x286D6D15, .saluiAddi ⟨0x36, 0x2D, 0x515⟩), (0x28ED6D15, .saluiAndi ⟨0x36, 0x2D, 0x515⟩),
   (0x296D6D15, .saluiOri ⟨0x36, 0x2D, 0x515⟩), (0x29ED6D15, .saluiXori ⟨0x36, 0x2D, 0x515⟩),
   (0x2A6D6815, .saluiShli ⟨0x36, 0x2D, 0x15⟩), (0x2AED6815, .saluiShri ⟨0x36, 0x2D, 0x15⟩),
   (0x2B6D6815, .saluiSari ⟨0x36, 0x2D, 0x15⟩), (0x2BEC0515, .saluiMovi ⟨0x36, 0, 0x515⟩),
   (0x2C6D6D15, .saluiMovhi ⟨0x36, 0x2D, 0x515⟩), (0x2CED6D15, .slti ⟨0x36, 0x2D, 0x515⟩)]

theorem test_words_salui : ∀ p ∈ wordsSalui, decode p.1 = some p.2 ∧ encode p.2 = p.1 := by decide +kernel

/-- Words of MAJ 0x6. -/
def wordsVint : List (Word × Instr) :=
  [(0x304D96B3, .vintAdd ⟨2, 0x36, 0x2D, 0x33⟩), (0x30CD96B3, .vintSub ⟨2, 0x36, 0x2D, 0x33⟩),
   (0x314D96B3, .addc ⟨2, 0x36, 0x2D, 0x33⟩), (0x31CD96B3, .subb ⟨2, 0x36, 0x2D, 0x33⟩),
   (0x324D96B3, .vintMul ⟨2, 0x36, 0x2D, 0x33⟩), (0x32CD96B3, .vintMulh ⟨2, 0x36, 0x2D, 0x33⟩),
   (0x334D96B3, .vintMulhn ⟨2, 0x36, 0x2D, 0x33⟩), (0x33CD96B3, .mad ⟨2, 0x36, 0x2D, 0x33⟩),
   (0x344D96B3, .vintAnd ⟨2, 0x36, 0x2D, 0x33⟩), (0x34CD96B3, .vintOr ⟨2, 0x36, 0x2D, 0x33⟩),
   (0x354D96B3, .vintXor ⟨2, 0x36, 0x2D, 0x33⟩), (0x35CD96B3, .vintShl ⟨2, 0x36, 0x2D, 0x33⟩),
   (0x364D96B3, .vintShr ⟨2, 0x36, 0x2D, 0x33⟩), (0x36CD96B3, .vintSar ⟨2, 0x36, 0x2D, 0x33⟩),
   (0x374D96B3, .vintMin ⟨2, 0x36, 0x2D, 0x33⟩), (0x37CD96B3, .vintMax ⟨2, 0x36, 0x2D, 0x33⟩)]

theorem test_words_vint : ∀ p ∈ wordsVint, decode p.1 = some p.2 ∧ encode p.2 = p.1 := by decide +kernel

/-- Words of MAJ 0x7. -/
def wordsVinti : List (Word × Instr) :=
  [(0x384D9695, .vintiAddi ⟨2, 0x36, 0x2D, 0x15⟩), (0x38CD9695, .vintiAndi ⟨2, 0x36, 0x2D, 0x15⟩),
   (0x394D9695, .vintiOri ⟨2, 0x36, 0x2D, 0x15⟩), (0x39CD9695, .vintiXori ⟨2, 0x36, 0x2D, 0x15⟩),
   (0x3A4D9695, .vintiShli ⟨2, 0x36, 0x2D, 0x15⟩), (0x3ACD9695, .vintiShri ⟨2, 0x36, 0x2D, 0x15⟩),
   (0x3B4D9695, .vintiSari ⟨2, 0x36, 0x2D, 0x15⟩), (0x3BCD9695, .muli ⟨2, 0x36, 0x2D, 0x15⟩)]

theorem test_words_vinti : ∀ p ∈ wordsVinti, decode p.1 = some p.2 ∧ encode p.2 = p.1 := by decide +kernel

/-- Words of MAJ 0x8. -/
def wordsVf32 : List (Word × Instr) :=
  [(0x404D96B3, .fadd ⟨2, 0x36, 0x2D, 0x33⟩), (0x40CD96B3, .fsub ⟨2, 0x36, 0x2D, 0x33⟩),
   (0x414D96B3, .fmul ⟨2, 0x36, 0x2D, 0x33⟩), (0x41CD96B3, .fmin ⟨2, 0x36, 0x2D, 0x33⟩),
   (0x424D96B3, .fmax ⟨2, 0x36, 0x2D, 0x33⟩), (0x42CD96B3, .fminm ⟨2, 0x36, 0x2D, 0x33⟩),
   (0x434D96B3, .fmaxm ⟨2, 0x36, 0x2D, 0x33⟩), (0x43CD96B3, .fcps ⟨2, 0x36, 0x2D, 0x33⟩),
   (0x444D9680, .fflr ⟨2, 0x36, 0x2D, 0⟩), (0x44CD9680, .fceil ⟨2, 0x36, 0x2D, 0⟩),
   (0x454D9680, .frne ⟨2, 0x36, 0x2D, 0⟩), (0x45CD9680, .ftrn ⟨2, 0x36, 0x2D, 0⟩),
   (0x464D9680, .fabs ⟨2, 0x36, 0x2D, 0⟩), (0x46CD9680, .fneg ⟨2, 0x36, 0x2D, 0⟩),
   (0x474D9680, .fsat ⟨2, 0x36, 0x2D, 0⟩), (0x47CD96B3, .fscl ⟨2, 0x36, 0x2D, 0x33⟩)]

theorem test_words_vf32 : ∀ p ∈ wordsVf32, decode p.1 = some p.2 ∧ encode p.2 = p.1 := by decide +kernel

/-- Words of MAJ 0x9. -/
def wordsVfma : List (Word × Instr) :=
  [(0x484D96B3, .fma ⟨2, 0x36, 0x2D, 0x33⟩), (0x48CD96B3, .fms ⟨2, 0x36, 0x2D, 0x33⟩),
   (0x494D96B3, .fnma ⟨2, 0x36, 0x2D, 0x33⟩), (0x49CD96B3, .fnms ⟨2, 0x36, 0x2D, 0x33⟩),
   (0x4A4D96B3, .hfma2 ⟨2, 0x36, 0x2D, 0x33⟩), (0x4ACD96B3, .bfma2 ⟨2, 0x36, 0x2D, 0x33⟩),
   (0x4B4D96B3, .dot4e4 ⟨2, 0x36, 0x2D, 0x33⟩), (0x4BCD96B3, .dot4e5 ⟨2, 0x36, 0x2D, 0x33⟩),
   (0x4C4D96B3, .dot4i ⟨2, 0x36, 0x2D, 0x33⟩), (0x4CCD96B3, .dot2h ⟨2, 0x36, 0x2D, 0x33⟩)]

theorem test_words_vfma : ∀ p ∈ wordsVfma, decode p.1 = some p.2 ∧ encode p.2 = p.1 := by decide +kernel

/-- Words of MAJ 0xA. -/
def wordsVcvt : List (Word × Instr) :=
  [(0x504D9680, .cvtf ⟨2, 0x36, 0x2D, 0⟩), (0x50CD9680, .cvti ⟨2, 0x36, 0x2D, 0⟩),
   (0x514D96B3, .cvtp ⟨2, 0x36, 0x2D, 0x33⟩), (0x51CD9680, .expn ⟨2, 0x36, 0x2D, 0⟩),
   (0x524D96B3, .lutx ⟨2, 0x36, 0x2D, 0x33⟩), (0x52CD9680, .mxsc ⟨2, 0x36, 0x2D, 0⟩)]

theorem test_words_vcvt : ∀ p ∈ wordsVcvt, decode p.1 = some p.2 ∧ encode p.2 = p.1 := by decide +kernel

/-- Words of MAJ 0xB. -/
def wordsVcmp : List (Word × Instr) :=
  [(0x584196B3, .feq ⟨2, 6, 0x2D, 0x33⟩), (0x58C196B3, .fne ⟨2, 6, 0x2D, 0x33⟩),
   (0x594196B3, .flt ⟨2, 6, 0x2D, 0x33⟩), (0x59C196B3, .fle ⟨2, 6, 0x2D, 0x33⟩),
   (0x5A4196B3, .fun ⟨2, 6, 0x2D, 0x33⟩), (0x5AC19695, .fcls ⟨2, 6, 0x2D, 0x15⟩),
   (0x5B4196B3, .ieq ⟨2, 6, 0x2D, 0x33⟩), (0x5BC196B3, .ine ⟨2, 6, 0x2D, 0x33⟩),
   (0x5C4196B3, .ilt ⟨2, 6, 0x2D, 0x33⟩), (0x5CC196B3, .ile ⟨2, 6, 0x2D, 0x33⟩),
   (0x5D4196B3, .iltn ⟨2, 6, 0x2D, 0x33⟩), (0x5DC196B3, .ilen ⟨2, 6, 0x2D, 0x33⟩)]

theorem test_words_vcmp : ∀ p ∈ wordsVcmp, decode p.1 = some p.2 ∧ encode p.2 = p.1 := by decide +kernel

/-- Words of MAJ 0xC. -/
def wordsKops : List (Word × Instr) :=
  [(0x60418683, .kand ⟨2, 6, 0xD, 3⟩), (0x60C18683, .kor ⟨2, 6, 0xD, 3⟩), (0x61418683, .kxor ⟨2, 6, 0xD, 3⟩),
   (0x61C18683, .kandn ⟨2, 6, 0xD, 3⟩), (0x62418680, .knot ⟨2, 6, 0xD, 0⟩), (0x62C18680, .kmov ⟨2, 6, 0xD, 0⟩),
   (0x63418001, .kset ⟨2, 6, 0, 1⟩), (0x63CD8680, .kcnt ⟨2, 0x36, 0xD, 0⟩), (0x644D8680, .kfirst ⟨2, 0x36, 0xD, 0⟩),
   (0x64CD8680, .kall ⟨2, 0x36, 0xD, 0⟩), (0x654D8680, .kany ⟨2, 0x36, 0xD, 0⟩)]

theorem test_words_kops : ∀ p ∈ wordsKops, decode p.1 = some p.2 ∧ encode p.2 = p.1 := by decide +kernel

/-- Words of MAJ 0xD. -/
def wordsVmov : List (Word × Instr) :=
  [(0x684D9680, .mov ⟨2, 0x36, 0x2D, 0⟩), (0x68CD96B3, .vmovSel ⟨2, 0x36, 0x2D, 0x33⟩),
   (0x694D96B3, .shfl ⟨2, 0x36, 0x2D, 0x33⟩), (0x69CD96B3, .shflx ⟨2, 0x36, 0x2D, 0x33⟩),
   (0x6A4D96B3, .shflup ⟨2, 0x36, 0x2D, 0x33⟩), (0x6ACD96B3, .shfldn ⟨2, 0x36, 0x2D, 0x33⟩),
   (0x6B4D9680, .rdfl ⟨2, 0x36, 0x2D, 0⟩), (0x6BCD96B3, .rdln ⟨2, 0x36, 0x2D, 0x33⟩),
   (0x6C4D96B3, .bcst ⟨2, 0x36, 0x2D, 0x33⟩), (0x6CCD8000, .lid ⟨2, 0x36, 0, 0⟩), (0x6D4D8000, .lpos ⟨2, 0x36, 0, 0⟩)]

theorem test_words_vmov : ∀ p ∈ wordsVmov, decode p.1 = some p.2 ∧ encode p.2 = p.1 := by decide +kernel

/-- Words of MAJ 0xE. -/
def wordsVsfu : List (Word × Instr) :=
  [(0x704D9680, .exp2 ⟨2, 0x36, 0x2D, 0⟩), (0x70CD9680, .log2 ⟨2, 0x36, 0x2D, 0⟩),
   (0x714D9680, .rcp ⟨2, 0x36, 0x2D, 0⟩), (0x71CD9680, .rsq ⟨2, 0x36, 0x2D, 0⟩),
   (0x724D9680, .sqrt ⟨2, 0x36, 0x2D, 0⟩), (0x72CD9680, .sin2pi ⟨2, 0x36, 0x2D, 0⟩),
   (0x734D9680, .cos2pi ⟨2, 0x36, 0x2D, 0⟩), (0x73CD9680, .tanh ⟨2, 0x36, 0x2D, 0⟩)]

theorem test_words_vsfu : ∀ p ∈ wordsVsfu, decode p.1 = some p.2 ∧ encode p.2 = p.1 := by decide +kernel

/-- Words of MAJ 0xF. -/
def wordsVri : List (Word × Instr) :=
  [(0x7936AD15, .vriMovi ⟨2, 0x36, 0xAD15⟩), (0x7B36AD15, .vriMovhi ⟨2, 0x36, 0xAD15⟩),
   (0x7D36AD15, .addi16 ⟨2, 0x36, 0xAD15⟩)]

theorem test_words_vri : ∀ p ∈ wordsVri, decode p.1 = some p.2 ∧ encode p.2 = p.1 := by decide +kernel

/-- Words of MAJ 0x10. -/
def wordsLd : List (Word × Instr) :=
  [(0x82CD96E7, .ld .b64 ⟨2, 0x36, 0x2D, 0x33, 1⟩), (0x848D8066, .ldu .b64 ⟨0, 0x36, 0, 0x33, 0⟩)]

theorem test_words_ld : ∀ p ∈ wordsLd, decode p.1 = some p.2 ∧ encode p.2 = p.1 := by decide +kernel

/-- Words of MAJ 0x11. -/
def wordsSt : List (Word × Instr) :=
  [(0x8ACD96E7, .st .b64 ⟨2, 0x36, 0x2D, 0x33, 1⟩), (0x8C8D8066, .stu .b64 ⟨0, 0x36, 0, 0x33, 0⟩)]

theorem test_words_st : ∀ p ∈ wordsSt, decode p.1 = some p.2 ∧ encode p.2 = p.1 := by decide +kernel

/-- Words of MAJ 0x12. -/
def wordsScr : List (Word × Instr) :=
  [(0x92CD96E7, .lds .b64 ⟨2, 0x36, 0x2D, 0x33, 1⟩), (0x96CD96E7, .sts .b64 ⟨2, 0x36, 0x2D, 0x33, 1⟩)]

theorem test_words_scr : ∀ p ∈ wordsScr, decode p.1 = some p.2 ∧ encode p.2 = p.1 := by decide +kernel

/-- Words of MAJ 0x13. -/
def wordsAtom : List (Word × Instr) :=
  [(0x984D96E7, .aadd ⟨2, 0x36, 0x2D, 0x33, 1⟩), (0x98CD96E7, .amin ⟨2, 0x36, 0x2D, 0x33, 1⟩),
   (0x994D96E7, .amax ⟨2, 0x36, 0x2D, 0x33, 1⟩), (0x99CD96E7, .aminn ⟨2, 0x36, 0x2D, 0x33, 1⟩),
   (0x9A4D96E7, .amaxn ⟨2, 0x36, 0x2D, 0x33, 1⟩), (0x9ACD96E7, .aand ⟨2, 0x36, 0x2D, 0x33, 1⟩),
   (0x9B4D96E7, .aor ⟨2, 0x36, 0x2D, 0x33, 1⟩), (0x9BCD96E7, .axor ⟨2, 0x36, 0x2D, 0x33, 1⟩),
   (0x9C4D96E7, .axchg ⟨2, 0x36, 0x2D, 0x33, 1⟩), (0x9CCD96E7, .acas ⟨2, 0x36, 0x2D, 0x33, 1⟩),
   (0x9D4D96E7, .afadd ⟨2, 0x36, 0x2D, 0x33, 1⟩), (0x9DCD96E7, .abfadd2 ⟨2, 0x36, 0x2D, 0x33, 1⟩)]

theorem test_words_atom : ∀ p ∈ wordsAtom, decode p.1 = some p.2 ∧ encode p.2 = p.1 := by decide +kernel

/-- Words of MAJ 0x14. -/
def wordsLdl : List (Word × Instr) :=
  [(0xA036AD15, .ldls ⟨0, 0x36, 0xAD15⟩), (0xA336AD15, .ldlv ⟨2, 0x36, 0xAD15⟩),
   (0xA436AD15, .ldl64 ⟨0, 0x36, 0xAD15⟩)]

theorem test_words_ldl : ∀ p ∈ wordsLdl, decode p.1 = some p.2 ∧ encode p.2 = p.1 := by decide +kernel

/-- Words of MAJ 0x15. -/
def wordsCpy : List (Word × Instr) :=
  [(0xA84C2D01, .lg2s ⟨0x13, 0, 0x2D, 0, 1⟩), (0xA8CC2D01, .ls2g ⟨0x13, 0, 0x2D, 0, 1⟩),
   (0xA94C2D01, .bulk ⟨0x13, 0, 0x2D, 0, 1⟩), (0xA9CC2D01, .mcast ⟨0x13, 0, 0x2D, 0, 1⟩),
   (0xAA4C2D01, .dec ⟨0x13, 0, 0x2D, 0, 1⟩), (0xAACC2D01, .peer ⟨0x13, 0, 0x2D, 0, 1⟩),
   (0xAB4C2D00, .dscd ⟨0x13, 0, 0x2D, 0, 0⟩), (0xABCC2D00, .pref ⟨0x13, 0, 0x2D, 0, 0⟩),
   (0xAC4C2D01, .red ⟨0x13, 0, 0x2D, 0, 1⟩)]

theorem test_words_cpy : ∀ p ∈ wordsCpy, decode p.1 = some p.2 ∧ encode p.2 = p.1 := by decide +kernel

/-- Words of MAJ 0x16. -/
def wordsMma : List (Word × Instr) :=
  [(0xB04E6D81, .mma ⟨0x13, 9, 0x2D, 2, 1⟩), (0xB0CE6D81, .mmaz ⟨0x13, 9, 0x2D, 2, 1⟩),
   (0xB14E6D00, .mmld ⟨0x13, 9, 0x2D, 0, 0⟩), (0xB1CE6D00, .mmst ⟨0x13, 9, 0x2D, 0, 0⟩),
   (0xB2024000, .mmcl ⟨0, 9, 0, 0, 0⟩), (0xB2CE6D01, .mmcv ⟨0x13, 9, 0x2D, 0, 1⟩)]

theorem test_words_mma : ∀ p ∈ wordsMma, decode p.1 = some p.2 ∧ encode p.2 = p.1 := by decide +kernel

/-- Words of MAJ 0x17. -/
def wordsSpx : List (Word × Instr) :=
  [(0xB84E6DA1, .mmsp ⟨0x13, 9, 0x2D, 2, 0x21⟩), (0xB8CC2D01, .spcmp ⟨0x13, 0, 0x2D, 0, 1⟩),
   (0xB94C2D01, .pcomp ⟨0x13, 0, 0x2D, 0, 1⟩), (0xB9802D01, .pinv ⟨0, 0, 0x2D, 0, 1⟩),
   (0xBA002D00, .nnz ⟨0, 0, 0x2D, 0, 0⟩), (0xBACC2D01, .wnw ⟨0x13, 0, 0x2D, 0, 1⟩),
   (0xBB4C2D01, .wnf ⟨0x13, 0, 0x2D, 0, 1⟩), (0xBBCC2D01, .wnx ⟨0x13, 0, 0x2D, 0, 1⟩)]

theorem test_words_spx : ∀ p ∈ wordsSpx, decode p.1 = some p.2 ∧ encode p.2 = p.1 := by decide +kernel

/-- Words of MAJ 0x18. -/
def wordsSyn : List (Word × Instr) :=
  [(0xC02C0000, .fence ⟨5, 2, 0, 0, 0⟩), (0xC0680000, .fencesc ⟨5, 0, 0, 0, 0⟩),
   (0xC0800000, .ofence ⟨0, 0, 0, 0, 0⟩), (0xC0E96E60, .bar ⟨5, 0, 0x2D, 0x33, 0⟩),
   (0xC1296E73, .bara ⟨5, 0, 0x2D, 0x33, 0x13⟩), (0xC1680013, .barw ⟨5, 0, 0, 0, 0x13⟩),
   (0xC1A96813, .bart ⟨5, 0, 0x2D, 0, 0x13⟩), (0xC1C16E60, .txbi ⟨0, 0, 0x2D, 0x33, 0⟩),
   (0xC2016E60, .txbe ⟨0, 0, 0x2D, 0x33, 0⟩), (0xC2696E60, .txba ⟨5, 0, 0x2D, 0x33, 0⟩),
   (0xC2A96E60, .txbw ⟨5, 0, 0x2D, 0x33, 0⟩), (0xC2C16E60, .txbt ⟨0, 0, 0x2D, 0x33, 0⟩),
   (0xC3296E62, .waita ⟨5, 0, 0x2D, 0x33, 2⟩), (0xC3416813, .hwait ⟨0, 0, 0x2D, 0, 0x13⟩),
   (0xC3816813, .htest ⟨0, 0, 0x2D, 0, 0x13⟩), (0xC3C00013, .hcan ⟨0, 0, 0, 0, 0x13⟩),
   (0xC4016813, .hexp ⟨0, 0, 0x2D, 0, 0x13⟩), (0xC4416813, .himp ⟨0, 0, 0x2D, 0, 0x13⟩)]

theorem test_words_syn : ∀ p ∈ wordsSyn, decode p.1 = some p.2 ∧ encode p.2 = p.1 := by decide +kernel

/-- Words of MAJ 0x19. -/
def wordsStk : List (Word × Instr) :=
  [(0xC81B5B98, .sjoin ⟨0x36, 0x2D, 0x33, 0⟩), (0xC83B0000, .sleave ⟨0x36, 0, 0, 0⟩),
   (0xC85B5A01, .sinfo ⟨0x36, 0x2D, 0, 1⟩), (0xC87B5B98, .ssub ⟨0x36, 0x2D, 0x33, 0⟩),
   (0xC8805A00, .sunsub ⟨0, 0x2D, 0, 0⟩), (0xC8A05A00, .ssync ⟨0, 0x2D, 0, 0⟩)]

theorem test_words_stk : ∀ p ∈ wordsStk, decode p.1 = some p.2 ∧ encode p.2 = p.1 := by decide +kernel

/-- Words of MAJ 0x1A. -/
def wordsNest : List (Word × Instr) :=
  [(0xD0418002, .nbeg ⟨2, 6, 0, 2⟩), (0xD0C18002, .nxt ⟨2, 6, 0, 2⟩), (0xD14D8002, .nidx ⟨2, 0x36, 0, 2⟩),
   (0xD1800002, .nbar ⟨0, 0, 0, 2⟩), (0xD240168A, .nred ⟨2, 0, 0x2D, 0xA⟩), (0xD28D9682, .nbc ⟨0, 0x36, 0x2D, 2⟩),
   (0xD30D8002, .nmap ⟨0, 0x36, 0, 2⟩), (0xD3CD9682, .nllm ⟨2, 0x36, 0x2D, 2⟩)]

theorem test_words_nest : ∀ p ∈ wordsNest, decode p.1 = some p.2 ∧ encode p.2 = p.1 := by decide +kernel

/-- Words of MAJ 0x1B. -/
def wordsTask : List (Word × Instr) :=
  [(0xD84016B3, .spawn ⟨2, 0, 0x2D, 0x33⟩), (0xD88016B3, .launch ⟨0, 0, 0x2D, 0x33⟩),
   (0xD9400000, .tdone ⟨2, 0, 0, 0⟩)]

theorem test_words_task : ∀ p ∈ wordsTask, decode p.1 = some p.2 ∧ encode p.2 = p.1 := by decide +kernel

/-- Words of MAJ 0x1C. -/
def wordsCsr : List (Word × Instr) :=
  [(0xE0108022, .csrr ⟨0x21, 0, 0x22⟩), (0xE0308022, .csrw ⟨0x21, 0, 0x22⟩), (0xE0508022, .csrs ⟨0x21, 0, 0x22⟩),
   (0xE0708022, .csrc ⟨0x21, 0, 0x22⟩)]

theorem test_words_csr : ∀ p ∈ wordsCsr, decode p.1 = some p.2 ∧ encode p.2 = p.1 := by decide +kernel

/-- Words of MAJ 0x1D. -/
def wordsMbx : List (Word × Instr) :=
  [(0xE81B5B99, .mpost ⟨0x36, 0x2D, 0x33, 1⟩), (0xE83B5B99, .mtake ⟨0x36, 0x2D, 0x33, 1⟩),
   (0xE85B5A00, .mpeek ⟨0x36, 0x2D, 0, 0⟩)]

theorem test_words_mbx : ∀ p ∈ wordsMbx, decode p.1 = some p.2 ∧ encode p.2 = p.1 := by decide +kernel

/-- Words of MAJ 0x1F. -/
def wordsXw : List (Word × Instr) :=
  [(0xF82AAD15, .ximm 0x2AAD15), (0xF9020B00, .xreg 0x20B00), (0xFA300000, .xprd 0x300000),
   (0xFB38C600, .xmod 0x38C600), (0xFC55E100, .xmem 0x55E100), (0xFD100000, .xsch 0x100000),
   (0xFE0FFFFD, .xoff 0xFFFFD)]

theorem test_words_xw : ∀ p ∈ wordsXw, decode p.1 = some p.2 ∧ encode p.2 = p.1 := by decide +kernel


/-- Words that the spec prints beside its examples (04, 05, 06, 07). -/
def wordsWorked : List (Word × Instr) :=
  [(0x40414184, .fadd ⟨2, 5, 3, 4⟩), (0xFB200000, .xmod 0x200000), (0x280820A0, .saluiAddi ⟨4, 4, 0xA0⟩), (0xF8000186, .ximm 0x186),
   (0x3002448C, .vintAdd ⟨0, 9, 9, 12⟩), (0xF9000100, .xreg 0x100), (0x84818014, .ldu .b64 ⟨0, 6, 0, 10, 0⟩),
   (0xFC150000, .xmem 0x150000), (0x0A5FFFFD, .bru .nz ⟨5, 0xFFFFD⟩), (0x10100008, .brd ⟨1, 8⟩), (0x1100000C, .rcv ⟨0, 12⟩),
   (0xE0030010, .csrr ⟨6, 0, 0x10⟩), (0xC8020A30, .sjoin ⟨4, 5, 6, 0⟩), (0xC8438001, .sinfo ⟨7, 0, 0, 1⟩),
   (0xD0004001, .nbeg ⟨0, 1, 0, 1⟩), (0xD800040A, .spawn ⟨0, 0, 8, 10⟩), (0xE8021061, .mpost ⟨4, 8, 12, 1⟩),
   (0x19200000, .callx ⟨2, 0⟩), (0x1A000000, .ret ⟨0, 0⟩), (0x82020215, .ld .b32 ⟨0, 8, 4, 10, 1⟩),
   (0x8A024215, .st .b32 ⟨0, 9, 4, 10, 1⟩), (0xC02C0000, .fence ⟨5, 2, 0, 0, 0⟩), (0xC110A2A3, .bara ⟨2, 0, 20, 21, 3⟩),
   (0xC31030E0, .waita ⟨2, 0, 6, 7, 0⟩), (0xC31063E2, .waita ⟨2, 0, 12, 31, 2⟩), (0x92018119, .lds .b32 ⟨0, 6, 2, 12, 1⟩),
   (0xA0080006, .ldls ⟨0, 8, 6⟩), (0x48020103, .fma ⟨0, 8, 2, 3⟩), (0x5080C680, .cvti ⟨0, 3, 13, 0⟩), (0xFB244000, .xmod 0x244000)]

theorem test_words_worked : ∀ p ∈ wordsWorked, decode p.1 = some p.2 ∧ encode p.2 = p.1 := by decide +kernel


/-! ### Worked examples of the spec -/

/-- The element of the BF16 example: 1 + 2^24 + 1 - 2^24 = 2, whatever the order (03, after R66). -/
theorem test_exact_sum : ∀ ks ∈ ([[0, 1, 2], [0, 2, 1], [1, 0, 2], [2, 1, 0]] : List (List Nat)),
    let v := fun (x : Nat) => matVal 2 false (x, 0)
    let ps := [(v 0x4580, v 0x4580), (v 0x3F80, v 0x3F80), (v 0xC580, v 0x4580)]
    mmaElem 0 0x3F800000 (ks.map fun k => ps.getD k (.nan, .nan)) = (0x40000000, 0) := by decide +kernel

/-- The MXFP4 element: 32 products of 1.0 with scale 2 and 0.5 with scale 1/8; a scale code 0xFF makes NaN. -/
theorem test_mx_scales :
    mmaElem 0 0 (List.replicate 32 (matVal 5 false (2, 0x80), matVal 5 false (1, 0x7C))) = (0x40800000, 0) ∧
    (mmaElem 0 0 [(matVal 5 false (2, 0x80), matVal 5 false (1, 0x7C)), (matVal 5 false (0, 0x7F), matVal 5 false (0, 0xFF))]).1 = 0x7FC00000 := by
  decide +kernel

/-- 2^100, 1 and -2^100 in any order give 1 with no flag (03, after R70). -/
theorem test_xa320 : ∀ xs ∈ ([[0x71800000, 0x3F800000, 0xF1800000], [0xF1800000, 0x71800000, 0x3F800000], [0x3F800000, 0xF1800000, 0x71800000]] :
    List (List Nat)), (xs.foldl (fun (x : Xa) (b : Nat) => x.add (contribVal 0 b)) Xa.zero).round 0 f32 = (0x3F800000, 0) := by decide +kernel

/-- The TXB that two copies of 128 sectors complete (06, after R177). -/
theorem test_txb :
    let t0 : Txb := ⟨0, false, false, 1, 0, 1⟩
    let t1 := t0.update false (-128)
    let t2 := t1.update true 256
    let t3 := t2.update false (-128)
    t0.bits = 0x00000000_00000100_00000000_00000100 ∧ t1.bits = 0x00000000_000001FF_FFFFFF80_00000100 ∧
    t2.bits = 0x00000000_00000100_00000080_00000000 ∧ t3.bits = 0x00000000_00000100_00000000_00000101 := by decide +kernel

/-- The tensor-table entry td5 (07, after R186). -/
theorem test_entry : Entry.ofBits (BitVec.ofNat 256 (leNat [0, 0, 0, 0x34, 0x12, 0, 0, 0, 0, 0x10, 0, 0, 0, 0x10, 0, 0,
    0x10, 0, 0x40, 0x40, 0, 0, 0, 0, 0, 0, 7, 0, 3, 0, 0, 0])) =
    { base := 0x001234000000, rstr := 4096, rows := 4096, cols := 4096, trow := 64, tcol := 64, scoff := 0, scstr := 0, ver := 7
      fmt := 3, spc := 0, lay := 0, skr := false, pmem := 0, rdev := 0 } := by decide +kernel

/-- The BMP64 tile of 1.0, 2.0 and 0.5 in e4m3 (10, after R295). -/
def tile3 : List Byte := (0x21 : Byte) :: List.replicate 7 0 ++ (0x01 : Byte) :: List.replicate 503 0 ++ [0x38, 0x40, 0x30]

theorem test_bmp64 : bmpTile 3 [0, 5, 64] (fun r c => if r == 1 then 0x30 else if c == 0 then 0x38 else 0x40) = tile3 := by decide +kernel

/-- The stream of that tile, with its code table (10, after R308). -/
theorem test_lsc :
    let tab : List Byte := (((((((([0x54, 0x43, 0, 0, 7] : List Byte) ++ List.replicate 155 0).set 8 2).set 10 2).set 13 2).set 16 2).set 40 0x20).set 44 0x10).set 48 0x20
    lscDecode [0x43, 0x53, 3, 0, 3, 0, 0, 0, 7, 0, 0, 0, 3, 0, 0, 0, 0xF0, 0xBF, 0] tab = some tile3 := by decide +kernel

/-- A tile of 23 non-zeros in three groups compiles to 8 micro-operations (10, after R304). -/
theorem test_micro_ops : microOps (List.range 20 ++ [5 * 64 + 63, 9 * 64 + 3, 9 * 64 + 5]) = 8 := by decide +kernel

/-- The mapper's example: one descriptor, two sets of extents (14, after R330). -/
def levels3 : List Level :=
  [⟨false, true, false, false, false, true, false, 0⟩, ⟨false, true, false, false, false, false, false, 0⟩,
   ⟨true, false, false, false, false, false, false, 0⟩]
def nestPacket (e1 : Nat) : List Byte :=
  natLe 128 (32 * 2 ^ 32 + 16 * 2 ^ 48 + 6 * 2 ^ 192 + e1 * 2 ^ 224 + 3000 * 2 ^ 256 + 8 * 2 ^ 320 + 1024 * 2 ^ 336)

theorem test_mapper :
    (match mapNest (nestPacket 100) levels3 1152 4608 with
      | .ok m => m.mapl == [0x4012, 0, 0xC011] && m.extl == [6, 100, 3000] && m.shln == 1000 && m.n == 6 && m.unitN == 1
      | .error _ => false) = true ∧
    (match mapNest (nestPacket 50) levels3 1152 4608 with
      | .ok m => m.mapl == [0x4322, 0x4012, 0xC011] && m.shln == 1000 && m.n == 300 && m.unitN == 50
      | .error _ => false) = true := by decide +kernel

/-- The check value of CRC-64/ECMA-182, and the digest of "abc" that FIPS 180-4 gives. -/
theorem test_crc : crc64 [0x31, 0x32, 0x33, 0x34, 0x35, 0x36, 0x37, 0x38, 0x39] = 0x6C40DF5F0B497347 := by decide +kernel

theorem test_sha512 : (sha512 [0x61, 0x62, 0x63]).take 8 = [0xDD, 0xAF, 0x35, 0xA1, 0x93, 0x61, 0x7A, 0xBA] := by decide +kernel

/-! ### Results, by hand from the rules -/

/-- What a form with v1 as destination, and v2 and v4 as sources, leaves in v1 of the one lane. -/
def vecOf (i : Instr) (d a b : Word) : Word :=
  let h := { h0 with lanes := h0.lanes.map fun l => { l with v := ((l.v.set 1 d).set 2 a).set 4 b } }
  (((after (exec i (mach h))).sheaf? 1).map fun x => (x.lanes.map fun l => l.getV 1).headD 0).getD 0

/-- What a form with s1 as destination, and s2 and s4 as sources, leaves in s1. -/
def scaOf (i : Instr) (d a b : Word) : Word :=
  (((after (exec i (mach (regS h0 [(1, d), (2, a), (4, b)])))).sheaf? 1).map fun x => x.getS 1).getD 0

/-- The operands of those forms. -/
def o3 : FV3 := ⟨0, 1, 2, 4⟩
def o2 : FV3 := ⟨0, 1, 2, 0⟩
def s3 : FS3 := ⟨1, 2, 4, 0⟩
def s2 : FS3 := ⟨1, 2, 0, 0⟩

theorem test_vector_integers : ∀ p ∈ ([(.vintAdd o3, 0, 0xFFFFFFFF, 2, 1), (.vintSub o3, 0, 1, 2, 0xFFFFFFFF), (.vintMul o3, 0, 0x10000, 0x10001, 0x10000),
    (.vintMulh o3, 0, 0xFFFFFFFF, 3, 0xFFFFFFFF), (.vintMulhn o3, 0, 0xFFFFFFFF, 3, 2), (.mad o3, 5, 3, 0xFFFFFFFF, 2),
    (.vintAnd o3, 0, 12, 10, 8), (.vintOr o3, 0, 12, 10, 14), (.vintXor o3, 0, 12, 10, 6), (.vintShl o3, 0, 1, 31, 0x80000000),
    (.vintShr o3, 0, 0x80000000, 31, 1), (.vintSar o3, 0, 0x80000000, 31, 0xFFFFFFFF), (.vintMin o3, 0, 0xFFFFFFFF, 1, 0xFFFFFFFF),
    (.vintMax o3, 0, 0xFFFFFFFF, 1, 1)] : List (Instr × Word × Word × Word × Word)), vecOf p.1 p.2.1 p.2.2.1 p.2.2.2.1 = p.2.2.2.2 := by decide +kernel

/-- FADD of 2^24 and 1 ties to the even 2^24 (03, after R66); FFLR, FCEIL and FTRN of -0.5 (05/R129). -/
theorem test_vector_floats : ∀ p ∈ ([(.fadd o3, 0, 0x4B800000, 0x3F800000, 0x4B800000), (.fsub o3, 0, 0x3F800000, 0x3F800000, 0),
    (.fmul o3, 0, 0x40400000, 0xC0000000, 0xC0C00000), (.fmul o3, 0, 0x7F800000, 0, 0x7FC00000), (.fmin o3, 0, 0x7FC00000, 0x3F800000, 0x3F800000),
    (.fmax o3, 0, 0x80000000, 0, 0), (.fflr o2, 0, 0xBF000000, 0, 0xBF800000), (.fceil o2, 0, 0xBF000000, 0, 0x80000000),
    (.ftrn o2, 0, 0xBF000000, 0, 0x80000000), (.frne o2, 0, 0x40200000, 0, 0x40000000), (.fabs o2, 0, 0xBF000000, 0, 0x3F000000),
    (.fneg o2, 0, 0xBF000000, 0, 0x3F000000), (.fsat o2, 0, 0x40000000, 0, 0x3F800000), (.fscl o3, 0, 0x3F800000, 0xFFFFFFFF, 0x3F000000),
    (.fma o3, 0xBF800000, 0x40000000, 0x3F000000, 0), (.fms o3, 0x3F800000, 0x40000000, 0x3F800000, 0x3F800000),
    (.fnma o3, 0, 0x3F800000, 0, 0x80000000), (.fnms o3, 0x40400000, 0x40000000, 0x3F800000, 0x3F800000), (.dot4i o3, 1, 0x01FF0203, 0x02020202, 11),
    (.rcp o2, 0, 0x40000000, 0, 0x3F000000), (.sqrt o2, 0, 0x40800000, 0, 0x40000000)] : List (Instr × Word × Word × Word × Word)),
    vecOf p.1 p.2.1 p.2.2.1 p.2.2.2.1 = p.2.2.2.2 := by decide +kernel

theorem test_scalars : ∀ p ∈ ([(.saluAdd s3, 0, 0xFFFFFFFF, 2, 1), (.saluSub s3, 0, 1, 2, 0xFFFFFFFF), (.saluMul s3, 0, 0x10000, 0x10001, 0x10000),
    (.saluMulh s3, 0, 0xFFFFFFFF, 3, 0xFFFFFFFF), (.saluMulhn s3, 0, 0xFFFFFFFF, 3, 2), (.andn s3, 0, 12, 10, 4), (.saluShl s3, 0, 1, 33, 2),
    (.saluShr s3, 0, 0x80000000, 31, 1), (.saluSar s3, 0, 0x80000000, 31, 0xFFFFFFFF), (.rotl s3, 0, 0x80000001, 4, 24),
    (.saluMin s3, 0, 0xFFFFFFFF, 1, 0xFFFFFFFF), (.saluMax s3, 0, 0xFFFFFFFF, 1, 1), (.minn s3, 0, 0xFFFFFFFF, 1, 1), (.maxn s3, 0, 0xFFFFFFFF, 1, 0xFFFFFFFF),
    (.slt s3, 0, 0xFFFFFFFF, 1, 1), (.sltn s3, 0, 0xFFFFFFFF, 1, 0), (.seq s3, 0, 7, 7, 1), (.clz s2, 0, 1, 0, 31), (.popc s2, 0, 0xF0F, 0, 8),
    (.brev s2, 0, 1, 0, 0x80000000), (.saluiAddi ⟨1, 2, 0x7FF⟩, 0, 1, 0, 0), (.saluiMovhi ⟨1, 1, 1⟩, 0xABCD, 0, 0, 0x20ABCD)] : List (Instr × Word × Word × Word × Word)),
    scaOf p.1 p.2.1 p.2.2.1 p.2.2.2.1 = p.2.2.2.2 := by decide +kernel

/-! ### One step from reset with a word placed -/

theorem test_step_addi : ((after (step (placed 0x280820A0))).sheaf? 1).map (fun h => (h.getS 4, h.pc.off)) = some (0xA0, 4) := by decide +kernel

/-- A word that stands for no instruction raises cause 0x01; without a handler the sheaf halts (02/R41, 17/R387). -/
theorem test_step_illegal : ((after (step (placed 0xFFFFFFFF))).sheaf? 1).map (fun h => (h.run, h.trap.c.toNat % 256, h.trap.i)) =
    some (.halted, 1, 0xFFFFFFFF) := by decide +kernel

/-- A TRAP with a handler enters it: TRAPE names the next unit, TRAPA the code, TRAPC the cause (05/R110, 17/R385). -/
theorem test_step_trap : ((after (exec (.trap 5) (mach handled))).sheaf? 1).map (fun h => (h.pc, h.trap.inH, h.trap.ret, h.trap.a, h.trap.c.toNat % 256)) =
    some (⟨1, 1, 0⟩, true, some ⟨1, 1, 4⟩, 5, 0x10) := by decide +kernel

/-! ### Witnesses: scalar and vector forms -/

theorem witness_SaluResults_1 :
    ∀ p ∈ saluTable, ∃ c ∈ saluOps, Ready (mach (withX h0 c.2)) (withX h0 c.2) (p.1 c.1) := by decide +kernel

theorem witness_SaluResults_2 :
    Ready m0 h0 (.saluSel (⟨63, 62, 1, 0⟩ : FS3)) := by decide +kernel

theorem witness_SaluResults_3 :
    ∀ p ∈ saluPairs, ∃ c ∈ saluOps, Ready (mach (withX h0 c.2)) (withX h0 c.2) (p.1 c.1) := by decide +kernel

theorem witness_SaluResults_4 :
    ∀ p ∈ saluCompares, Ready m0 h0 (p.1 (⟨0, 2, 3, 0⟩ : FS3)) := by decide +kernel

theorem witness_SaluiResults_1 :
    ∀ p ∈ saluiTable, ∃ c ∈ saluiOps, Ready (mach (withX h0 c.2)) (withX h0 c.2) (p.1 c.1) := by decide +kernel

theorem witness_SaluiResults_2 :
    Ready m0 h0 (.slti (⟨1, 2, 0x7FF⟩ : FSI)) := by decide +kernel

theorem witness_SaluiResults_3 :
    h0.chain.get 0 = none := by decide +kernel

theorem witness_SaluiResults_4 :
    (withX h0 [(0, 0xFFFFFF)]).chain.get 0 = some (0xFFFFFF : BitVec 24) := by decide +kernel

theorem witness_ScalarFrame_1 :
    ∀ c ∈ saluTable.map (·.1) ++ [.saluSel], ∃ x ∈ saluOps, Ready (mach (withX h0 x.2)) (withX h0 x.2) (c x.1) ∧ goes (exec
      (c x.1) (mach (withX h0 x.2))) = true := by decide +kernel

theorem witness_ScalarFrame_2 :
    ∀ c ∈ saluCompares.map (·.1), ∃ x ∈ saluOps, Ready (mach (withX h0 x.2)) (withX h0 x.2) (c x.1) ∧ goes (exec (c x.1)
      (mach (withX h0 x.2))) = true ∧ (withX h0 x.2).seqr = false := by decide +kernel

theorem witness_ScalarFrame_3 :
    ∀ c ∈ saluPairs.map (·.1), ∃ x ∈ saluOps, Ready (mach (withX h0 x.2)) (withX h0 x.2) (c x.1) ∧ goes (exec (c x.1) (mach
      (withX h0 x.2))) = true := by decide +kernel

theorem witness_ScalarFrame_5 :
    ∃ c ∈ saluiOps, Ready (mach (withX h0 c.2)) (withX h0 c.2) (.slti c.1) ∧ goes (exec (.slti c.1) (mach (withX h0 c.2))) =
      true ∧ (withX h0 c.2).seqr = false := by decide +kernel

theorem witness_HardwiredRegisters_1 :
    (63 : Nat) ≠ 0 ∧ (63 : Nat) < h0.s.length := by decide +kernel

theorem witness_HardwiredRegisters_2 :
    (15 : Nat) ≠ 0 ∧ (15 : Nat) < 16 := by decide +kernel

theorem witness_VectorResults_1 :
    ∀ p ∈ vecTable, ∃ c ∈ vecOps, Ready (mach (withX h0 c.2)) (withX h0 c.2) (p.1 c.1) := by decide +kernel

theorem witness_VectorResults_2 :
    ∀ p ∈ vecImmTable, Ready m0 h0 (p.1 (⟨1, 127, 126, 31⟩ : FVI)) := by decide +kernel

theorem witness_VectorResults_3 :
    ∀ p ∈ vriTable, Ready m0 h0 (p.1 (⟨1, 127, 0xFFFF⟩ : FRI)) := by decide +kernel

theorem witness_VectorResults_4 :
    Ready m0 h0 (.addc (⟨0, 1, 1, 1⟩ : FV3)) := by decide +kernel

theorem witness_VectorResults_5 :
    Ready m0 h0 (.subb (⟨0, 1, 1, 1⟩ : FV3)) := by decide +kernel

theorem witness_FloatResults_1 :
    ∀ p ∈ fpTable, ∃ c ∈ vecOps, Ready (mach (withX h0 c.2)) (withX h0 c.2) (p.1 c.1) := by decide +kernel

theorem witness_FloatResults_2 :
    Ready (mach (withX h0 [(3, 0x048600)])) (withX h0 [(3, 0x048600)]) (.cvti (⟨1, 2, 4, 0⟩ : FV3)) := by decide +kernel

theorem witness_DeclaredClassResults_1 :
    ∀ p ∈ costedTable, ∃ c ∈ vecOps, Ready (mach (withX h0 c.2)) (withX h0 c.2) (p.2.1 c.1) ∧ (mach (withX h0 c.2)).canSpend
      (withX h0 c.2) (2 ^ p.1) = true := by decide +kernel

theorem witness_DeclaredClassResults_2 :
    ∀ p ∈ costedTable, ∃ c ∈ vecOps, Ready poor h0 (p.2.1 c.1) ∧ poor.canSpend h0 (2 ^ p.1) = false := by decide +kernel

theorem witness_PredicateResults_1 :
    ∀ p ∈ cmpTable, ∃ c ∈ vecOps, Ready (mach (withX h0 c.2)) (withX h0 c.2) (p.1 c.1) := by decide +kernel

theorem witness_PredicateResults_2 :
    ∀ p ∈ laneReads, ∃ c ∈ vecOps, Ready (mach (withX h0 c.2)) (withX h0 c.2) (p.1 c.1) := by decide +kernel

theorem witness_VectorFrame_5 :
    ∀ c ∈ fpTable.map (·.1), ∃ x ∈ vecOps, Ready (mach (withX h0 x.2)) (withX h0 x.2) (c x.1) ∧ goes (exec (c x.1) (mach
      (withX h0 x.2))) = true := by decide +kernel

theorem witness_VectorFrame_8 :
    ∀ c ∈ cmpTable.map (·.1), ∃ x ∈ vecOps, Ready (mach (withX h0 x.2)) (withX h0 x.2) (c x.1) ∧ goes (exec (c x.1) (mach
      (withX h0 x.2))) = true := by decide +kernel

theorem witness_VectorFrame_9 :
    ∀ c ∈ laneReads.map (·.1), ∃ x ∈ vecOps, Ready (mach (withX h0 x.2)) (withX h0 x.2) (c x.1) ∧ goes (exec (c x.1) (mach
      (withX h0 x.2))) = true := by decide +kernel

theorem witness_ShiftsUseLowCountBits_1 :
    ∀ p ∈ [Instr.saluShl, .saluShr, .saluSar].zip shiftKinds, Ready m0 h0 (p.1 (⟨1, 2, 3, 0⟩ : FS3)) := by decide +kernel

theorem witness_ShiftsUseLowCountBits_2 :
    ∀ p ∈ [Instr.saluiShli, .saluiShri, .saluiSari].zip shiftKinds, Ready m0 h0 (p.1 (⟨1, 2, 31⟩ : FSI)) := by decide +kernel

theorem witness_ShiftsUseLowCountBits_3 :
    ∀ p ∈ [Instr.vintShl, .vintShr, .vintSar].zip shiftKinds, Ready m0 h0 (p.1 (⟨0, 1, 2, 3⟩ : FV3)) := by decide +kernel

theorem witness_ShiftsUseLowCountBits_4 :
    ∀ p ∈ [Instr.vintiShli, .vintiShri, .vintiSari].zip shiftKinds, Ready m0 h0 (p.1 (⟨0, 1, 2, 31⟩ : FVI)) := by decide +kernel

theorem witness_ShiftsUseLowCountBits_5 :
    Ready m0 h0 (.shl64 (⟨2, 4, 6, 0⟩ : FS3)) := by decide +kernel

theorem witness_ShiftsUseLowCountBits_6 :
    Ready m0 h0 (.shr64 (⟨2, 4, 6, 0⟩ : FS3)) := by decide +kernel

theorem witness_ShiftsUseLowCountBits_7 :
    (31 : Nat) < 32 := by decide +kernel

theorem witness_ShiftsUseLowCountBits_8 :
    (63 : Nat) < 64 := by decide +kernel

/-! ### Witnesses: extension words, flow, traps -/

theorem witness_ExtensionWordJoinsChain_1 :
    ∀ p ∈ extTable, m0.cur? = some h0 ∧ m0.canIssue h0 = true ∧ h0.seqr = false := by decide +kernel

theorem witness_ExtensionWordJoinsChain_2 :
    ∀ p ∈ extTable, (mach micro).cur? = some micro ∧ (mach micro).canIssue micro = true ∧ micro.seqr = true := by decide +kernel

theorem witness_BruMovesWholePath_1 :
    Ready (mach two) two (.bru Cond.any (⟨1, 0x80000⟩ : FBR)) ∧ bruTaken two Cond.any (⟨1, 0x80000⟩ : FBR) = true := by decide +kernel

theorem witness_BruMovesWholePath_2 :
    Ready (mach two) two (.bru Cond.all (⟨1, 0x7FFFF⟩ : FBR)) ∧ bruTaken two Cond.all (⟨1, 0x7FFFF⟩ : FBR) = false := by decide +kernel

theorem witness_BruMovesWholePath_3 :
    Ready m0 h0 (.bru Cond.al (⟨0, 0xFFFFF⟩ : FBR)) ∧ goes (exec (.bru Cond.al (⟨0, 0xFFFFF⟩ : FBR)) m0) = true := by decide +kernel

theorem witness_DivergenceAndCalls_1 :
    Ready m0 h0 (.brd (⟨1, 8⟩ : FBR)) ∧ h0.path = some p0 ∧ (h0.lanes.filter h0.onPath).any (fun (l : Lane) => h0.guard
      (.brd (⟨1, 8⟩ : FBR)) l && l.getK (⟨1, 8⟩ : FBR).sel.toNat) = false := by decide +kernel

theorem witness_DivergenceAndCalls_2 :
    Ready m0 h0 (.brd (⟨0, 8⟩ : FBR)) ∧ h0.path = some p0 ∧ (h0.lanes.filter h0.onPath).any (fun (l : Lane) => h0.guard
      (.brd (⟨0, 8⟩ : FBR)) l && l.getK (⟨0, 8⟩ : FBR).sel.toNat) = true ∧ (h0.lanes.filter h0.onPath).all (fun (l :
      Lane) => h0.guard (.brd (⟨0, 8⟩ : FBR)) l && l.getK (⟨0, 8⟩ : FBR).sel.toNat) = true := by decide +kernel

theorem witness_DivergenceAndCalls_3 :
    Ready (mach two) two (.brd (⟨1, 8⟩ : FBR)) ∧ two.path = some (⟨⟨1, 1, 0⟩, 3, [], none⟩ : Path) ∧ (two.lanes.filter
      two.onPath).any (fun (l : Lane) => two.guard (.brd (⟨1, 8⟩ : FBR)) l && l.getK (⟨1, 8⟩ : FBR).sel.toNat) = true ∧
      (two.lanes.filter two.onPath).all (fun (l : Lane) => two.guard (.brd (⟨1, 8⟩ : FBR)) l && l.getK (⟨1, 8⟩ :
      FBR).sel.toNat) = false ∧ ((mach two).split two (⟨⟨1, 1, 0⟩, 3, [], none⟩ : Path) (fun (l : Lane) => two.guard
      (.brd (⟨1, 8⟩ : FBR)) l && l.getK (⟨1, 8⟩ : FBR).sel.toNat) (two.target (⟨1, 8⟩ : FBR).off)).overflows = false := by decide +kernel

theorem witness_DivergenceAndCalls_4 :
    Ready m0 h0 (.rcv (⟨0, 12⟩ : FBR)) ∧ h0.path = some p0 ∧
      ({ h0 with stack := .record m0.ctl.nextId (h0.target (⟨0, 12⟩ : FBR).off) 0 p0.frames :: h0.stack, path := some { p0 with link := some m0.ctl.nextId } }
      : Sheaf).overflows = false := by decide +kernel

theorem witness_DivergenceAndCalls_5 :
    Ready m0 h0 (.call (⟨0, 0xFFFFF⟩ : FBR)) ∧ h0.depth < 65535 ∧ (h0.pushFrame m0.ctl.nextId).overflows = false := by decide +kernel

theorem witness_DivergenceAndCalls_6 :
    Ready (mach (regS h0 [(3, 0x01000100)])) (regS h0 [(3, 0x01000100)]) (.callx (⟨1, 0⟩ : FBR)) ∧ (regS h0 [(3,
      0x01000100)]).depth < 65535 ∧ ((regS h0 [(3, 0x01000100)]).pushFrame (mach (regS h0 [(3,
      0x01000100)])).ctl.nextId).overflows = false ∧ (mach (regS h0 [(3, 0x01000100)])).checkEntry (regS h0 [(3,
      0x01000100)]).ctx ((regS h0 [(3, 0x01000100)]).getPair (2 * (⟨1, 0⟩ : FBR).sel.toNat)) [.live, .revoked] = some
      (trialSeg, (⟨0, 128, 16, 64, 4096, true, true⟩ : EntryRec)) := by decide +kernel

theorem witness_DivergenceAndCalls_7 :
    Ready (mach called) called (.ret (⟨0, 0⟩ : FBR)) ∧ called.path = some (⟨⟨1, 1, 8⟩, 1, [⟨⟨1, 1, 4⟩, 1⟩], none⟩ : Path) ∧
      (⟨⟨1, 1, 8⟩, 1, [⟨⟨1, 1, 4⟩, 1⟩], none⟩ : Path).frames = (⟨⟨1, 1, 4⟩, 1⟩ : Frame) :: ([] : List Frame) ∧ (mach
      called).checkReturn called.ctx (⟨⟨1, 1, 4⟩, 1⟩ : Frame).pc = true := by decide +kernel

theorem witness_DivergenceAndCalls_8 :
    Ready m0 h0 (.ret (⟨0, 0⟩ : FBR)) ∧ h0.path = some p0 ∧ p0.frames = [] := by decide +kernel

theorem witness_TablesAndLiterals_6 :
    Ready (coded (regS h0 [(1, 3)])) (regS h0 [(1, 3)]) (.jtab (⟨1, 0⟩ : FBR)) ∧ (coded (regS h0 [(1, 3)])).curSeg (regS h0
      [(1, 3)]) = some trialSeg ∧ Unheld (coded (regS h0 [(1, 3)])) (regS h0 [(1, 3)]) trialSeg [(regS h0 [(1,
      3)]).tableAt (⟨1, 0⟩ : FBR).off] ∧ (coded (regS h0 [(1, 3)])).pool (regS h0 [(1, 3)]) trialSeg [(regS h0 [(1,
      3)]).tableAt (⟨1, 0⟩ : FBR).off] = ((coded (regS h0 [(1, 3)])), .words [(3 : Word)]) ∧ (3 : Word) ≤ (regS h0 [(1,
      3)]).getS (⟨1, 0⟩ : FBR).sel.toNat := by
  unfold Unheld
  decide +kernel

theorem witness_TablesAndLiterals_7 :
    Ready (coded (regS h0 [(1, 2)])) (regS h0 [(1, 2)]) (.jtab (⟨1, 0⟩ : FBR)) ∧ (coded (regS h0 [(1, 2)])).curSeg (regS h0
      [(1, 2)]) = some trialSeg ∧ Unheld (coded (regS h0 [(1, 2)])) (regS h0 [(1, 2)]) trialSeg [(regS h0 [(1,
      2)]).tableAt (⟨1, 0⟩ : FBR).off] ∧ (coded (regS h0 [(1, 2)])).pool (regS h0 [(1, 2)]) trialSeg [(regS h0 [(1,
      2)]).tableAt (⟨1, 0⟩ : FBR).off] = ((coded (regS h0 [(1, 2)])), .words [(3 : Word)]) ∧ (regS h0 [(1, 2)]).getS
      (⟨1, 0⟩ : FBR).sel.toNat < (3 : Word) ∧ Unheld (coded (regS h0 [(1, 2)])) (regS h0 [(1, 2)]) trialSeg [(regS h0
      [(1, 2)]).tableAt (⟨1, 0⟩ : FBR).off + 4 + 4 * ((regS h0 [(1, 2)]).getS (⟨1, 0⟩ : FBR).sel.toNat).toNat] ∧ (coded
      (regS h0 [(1, 2)])).pool (regS h0 [(1, 2)]) trialSeg [(regS h0 [(1, 2)]).tableAt (⟨1, 0⟩ : FBR).off + 4 + 4 *
      ((regS h0 [(1, 2)]).getS (⟨1, 0⟩ : FBR).sel.toNat).toNat] = ((coded (regS h0 [(1, 2)])), .words [(28 : Word)]) ∧
      (regS h0 [(1, 2)]).tableAt (⟨1, 0⟩ : FBR).off + 4 * (28 : Word).toInt = (112 : Nat) ∧ (112 : Nat) < 2 ^ 32 := by
  unfold Unheld
  decide +kernel

theorem witness_TablesAndLiterals_8 :
    Ready (coded h0) h0 (.ldls (⟨0, 63, 15⟩ : FRI)) ∧ (coded h0).curSeg h0 = some trialSeg ∧ Unheld (coded h0) h0 trialSeg
      [h0.literal (⟨0, 63, 15⟩ : FRI).imm] ∧ (coded h0).pool h0 trialSeg [h0.literal (⟨0, 63, 15⟩ : FRI).imm] = ((coded
      h0), .words [(0 : Word)]) := by
  unfold Unheld
  decide +kernel

theorem witness_TablesAndLiterals_9 :
    Ready (coded h0) h0 (.ldlv (⟨0, 127, 1⟩ : FRI)) ∧ (coded h0).curSeg h0 = some trialSeg ∧ Unheld (coded h0) h0 trialSeg
      [h0.literal (⟨0, 127, 1⟩ : FRI).imm] ∧ (coded h0).pool h0 trialSeg [h0.literal (⟨0, 127, 1⟩ : FRI).imm] = ((coded
      h0), .words [(20 : Word)]) := by
  unfold Unheld
  decide +kernel

theorem witness_TablesAndLiterals_10 :
    Ready (coded h0) h0 (.ldl64 (⟨0, 62, 2⟩ : FRI)) ∧ (coded h0).curSeg h0 = some trialSeg ∧ h0.literal (⟨0, 62, 2⟩ :
      FRI).imm % 8 = 0 ∧ Unheld (coded h0) h0 trialSeg [h0.literal (⟨0, 62, 2⟩ : FRI).imm, h0.literal (⟨0, 62, 2⟩ :
      FRI).imm + 4] ∧ (coded h0).pool h0 trialSeg [h0.literal (⟨0, 62, 2⟩ : FRI).imm, h0.literal (⟨0, 62, 2⟩ : FRI).imm
      + 4] = ((coded h0), .words [(24 : Word), (28 : Word)]) := by
  unfold Unheld
  decide +kernel

theorem witness_TablesAndLiterals_11 :
    Ready (coded h0) h0 (.ldl64 (⟨0, 62, 1⟩ : FRI)) ∧ (coded h0).curSeg h0 = some trialSeg ∧ h0.literal (⟨0, 62, 1⟩ :
      FRI).imm % 8 ≠ 0 := by decide +kernel

theorem witness_SysForms_1 :
    Ready m0 h0 .nop := by decide +kernel

theorem witness_SysForms_2 :
    Ready m0 h0 .exit ∧ h0.seqr = false := by decide +kernel

theorem witness_SysForms_3 :
    Ready (mach micro) micro .exit ∧ micro.seqr = true := by decide +kernel

theorem witness_SysForms_4 :
    Ready m0 h0 .yld ∧ (h0.yield h0.nextPc).overflows = false := by decide +kernel

theorem witness_SysForms_7 :
    Ready m0 h0 (.sleep (0x1FFFFF : BitVec 21)) := by decide +kernel

theorem witness_SysForms_8 :
    Ready m0 h0 .ifence ∧ m0.memQuiet h0 = true := by decide +kernel

theorem witness_SysForms_9 :
    Ready (mach asking) asking .ifence ∧ (mach asking).memQuiet asking = false := by decide +kernel

theorem witness_SysForms_10 :
    Ready m0 h0 (.safe (0 : BitVec 21)) ∧ h0.stop = none := by decide +kernel

theorem witness_SysForms_11 :
    Ready (later asked0) asked0 (.safe (0 : BitVec 21)) ∧ asked0.stop = some (⟨5, false⟩ : StopReq) ∧ (((later
      asked0).curSeg asked0).bind fun g => g.spt[(0 : BitVec 21).toNat]?) = some (⟨0, 0, 0, 0⟩ : SafeRec) ∧ (later
      asked0).quietToStop asked0 = true := ⟨by decide +kernel, by decide +kernel, by decide +kernel, quiet_asked⟩

theorem witness_SysForms_13 :
    goneLane ∈ (h0.leave h0.mask).lanes ∧ h0.mask.getLsbD goneLane.lpos = true := by decide +kernel

theorem witness_SoftTrapsEnterHandler_1 :
    ∀ p ∈ softTraps, Ready (mach handled) handled (p.2 (0x1FFFFF : BitVec 21)) ∧ handled.seqr = false ∧ handled.trap.inH =
      false ∧ handled.trap.v ≠ 0 ∧ (mach handled).checkEntry handled.ctx handled.trap.v [.live, .retired] = some
      (trialSeg, (⟨0, 128, 16, 64, 4096, true, true⟩ : EntryRec)) := by decide +kernel

theorem witness_SoftTrapsEnterHandler_2 :
    ∀ p ∈ softTraps, Ready (mach micro) micro (p.2 (0x1FFFFF : BitVec 21)) ∧ micro.seqr = true := by decide +kernel

theorem witness_TrapWithoutHandlerHalts_1 :
    h0.seqr = false ∧ (h0.trap.inH = true ∨ h0.trap.v = 0 ∨ m0.checkEntry h0.ctx h0.trap.v [.live, .retired] = none) := by decide +kernel

theorem witness_TrapWithoutHandlerHalts_2 :
    m0.sheaf? h0.uid ≠ none := by decide +kernel

theorem witness_TrapWithoutHandlerHalts_3 :
    boxed.ctx? (1 : Nat) = some boxedCtx ∧ (boxed.slmPos (1 : Nat) boxedCtx.fmbx 128).bind boxed.mbx? = some (⟨0, 3, 2, 256,
      1, [[]]⟩ : Mbx) ∧ (⟨0, 3, 2, 256, 1, [[]]⟩ : Mbx).kind = 3 ∧ (⟨0, 3, 2, 256, 1, [[]]⟩ : Mbx).msgs.length < (⟨0, 3,
      2, 256, 1, [[]]⟩ : Mbx).nslot := by decide +kernel

theorem witness_TrapWithoutHandlerHalts_4 :
    m0.ctx? (1 : Nat) = some trialCtx ∧ (∀ m, (m0.slmPos (1 : Nat) trialCtx.fmbx 128).bind m0.mbx? = some m → m.kind ≠ 3 ∨
      m.nslot ≤ m.msgs.length) := by
  refine ⟨by decide +kernel, fun m e => ?_⟩
  have n : (m0.slmPos 1 trialCtx.fmbx 128).bind m0.mbx? = none := by decide +kernel
  exact nomatch n.symm.trans e

theorem witness_EretReturns_1 :
    Ready (mach inside) inside .eret ∧ inside.trap.inH = true ∧ inside.trap.ret = some (⟨1, 1, 4⟩ : Pc) ∧ (mach
      inside).checkReturn inside.ctx (⟨1, 1, 4⟩ : Pc) = true := by decide +kernel

theorem witness_EretReturns_2 :
    Ready (mach handled) handled .eret ∧ handled.trap.inH = false := by decide +kernel

theorem witness_EretReturns_3 :
    Ready (mach adrift) adrift .eret ∧ adrift.trap.inH = true ∧ (∀ pc, adrift.trap.ret = some pc → (mach adrift).checkReturn
      adrift.ctx pc = false) := by
  refine ⟨by decide +kernel, by decide +kernel, fun pc e => ?_⟩
  obtain rfl : (⟨9, 1, 4⟩ : Pc) = pc := Option.some.inj e
  decide +kernel

theorem witness_EretReturns_4 :
    Ready (mach inside) inside .eret ∧ inside.trap.inH = true ∧ inside.trap.ret = some (⟨1, 1, 4⟩ : Pc) ∧ (mach
      inside).checkReturn inside.ctx (⟨1, 1, 4⟩ : Pc) = true ∧ goes (exec .eret (mach inside)) = true := by decide +kernel

theorem witness_DecodeTrapIsLowestCause_1 :
    m0.cur? = some h0 ∧ m0.canIssue h0 = true ∧ (2 : Nat) ∈ m0.decodeCauses h0 (.saluAdd ⟨1, 2, 3, 1⟩) ∧ (∀ d ∈
      m0.decodeCauses h0 (.saluAdd ⟨1, 2, 3, 1⟩), (2 : Nat) ≤ d) := by decide +kernel

theorem witness_DecodeTrapIsLowestCause_3 :
    m0.cur? = some h0 ∧ m0.canIssue h0 = true ∧ decodeForm (0xFFFFFFFF : Word) = none := by decide +kernel

theorem witness_DecodeTrapIsLowestCause_4 :
    m0.cur? = some h0 ∧ m0.canIssue h0 = true ∧ decodeForm (encode (.saluAdd ⟨1, 2, 3, 1⟩)) = some (.saluAdd ⟨1, 2, 3, 1⟩) ∧
      decode (encode (.saluAdd ⟨1, 2, 3, 1⟩)) = none ∧ 1 ∉ m0.decodeCauses h0 (.saluAdd ⟨1, 2, 3, 1⟩) := by decide +kernel

theorem witness_DecodeTrapIsLowestCause_5 :
    m0.cur? = some h0 ∧ m0.canIssue h0 = true ∧ decodeForm (0xFFFFFFFF : Word) = none := by decide +kernel

theorem witness_DecodeTrapIsLowestCause_6 :
    ∀ p ∈ ([Instr.csrr, Instr.csrw, Instr.csrs, Instr.csrc] : List (FCSR → Instr)), 0x800 ≤ (⟨0, 0, 0x800⟩ :
      FCSR).csrn.toNat := by decide +kernel

theorem witness_DecodeTrapIsLowestCause_7 :
    ∀ p ∈ ([Instr.csrr, Instr.csrw, Instr.csrs, Instr.csrc] : List (FCSR → Instr)), csrAssigned (⟨0, 0, 0x9⟩ :
      FCSR).csrn.toNat = false := by decide +kernel

/-! ### Witnesses: memory -/

theorem witness_GlobalFormsQueueAccesses_1 :
    ∀ f ∈ globForms, ∃ c ∈ memOps, Ready (mach (withX h0 c.2)) (withX h0 c.2) (f c.1).i ∧ (mach (withX h0 c.2)).memHeld
      (withX h0 c.2) (f c.1) = false ∧ faults (f c.1) (mach (withX h0 c.2)) (withX h0 c.2) = [] := by
  unfold faults
  decide +kernel

theorem witness_GlobalFormsQueueAccesses_2 :
    ∀ f ∈ atomForms, ∃ c ∈ memOps, Ready (mach (withX h0 c.2)) (withX h0 c.2) (f c.1).i ∧ (xSpc ((withX h0 c.2).xmem (f
      c.1).i) = 0 ∨ xSpc ((withX h0 c.2).xmem (f c.1).i) = 3) ∧ (mach (withX h0 c.2)).memHeld (withX h0 c.2) (f c.1) =
      false ∧ faults (f c.1) (mach (withX h0 c.2)) (withX h0 c.2) = [] := by
  unfold faults
  decide +kernel

theorem witness_GlobalFormsQueueAccesses_3 :
    ∃ f ∈ globForms ++ atomForms, (f (⟨0, 4, 8, 2, 0⟩ : FM)).size ≤ 8 := by decide +kernel

theorem witness_MisalignedLaneRaisesCause_4 :
    (-1 : Int) % (2 : Nat) ≠ 0 := by decide +kernel

theorem witness_MisalignedLaneRaisesCause_5 :
    ((-1 : Int) < 0 ∨ 2 ^ 57 ≤ (-1 : Int)) := by decide +kernel

theorem witness_MisalignedLaneRaisesCause_5_top :
    ((144115188075855872 : Int) < 0 ∨ 2 ^ 57 ≤ (144115188075855872 : Int)) := by decide +kernel

theorem witness_MisalignedLaneRaisesCause_6 :
    0 ≤ (144115188075855856 : Int) ∧ (144115188075855856 : Int) < 2 ^ 57 ∧ (144115188075855856 : Int) % (16 : Nat) = 0 := by decide +kernel

theorem witness_MisalignedLaneRaisesCause_7 :
    ([] : List (Nat × DWord)) = [] := by decide +kernel

theorem witness_MisalignedLaneRaisesCause_8 :
    ([(6, 0), (4, 8)] : List (Nat × DWord)) ≠ [] ∧ lowestCause (firstPer ([(6, 0), (4, 8)] : List (Nat × DWord))) = some ((4
      : Nat), (8 : DWord)) := by decide +kernel

theorem witness_ScratchFormsAccessAtIssue_1 :
    ∀ f ∈ scrForms ++ atomForms, ∃ c ∈ memOps, Ready (mach (withX h0 c.2)) (withX h0 c.2) (f c.1).i ∧ xSpc ((withX h0
      c.2).xmem (f c.1).i) = 1 ∧ orderFree (f c.1) (mach (withX h0 c.2)) (asOrdered (f c.1) (withX h0 c.2)) ∧ (mach
      (withX h0 c.2)).ownBehind (asOrdered (f c.1) (withX h0 c.2)) = false ∧ (∀ l ∈ (asOrdered (f c.1) (withX h0
      c.2)).effLanes (f c.1).i, 0 ≤ (asOrdered (f c.1) (withX h0 c.2)).ea c.1 (f c.1).size false (some l) ∧ (asOrdered
      (f c.1) (withX h0 c.2)).ea c.1 (f c.1).size false (some l) + (f c.1).size ≤ (asOrdered (f c.1) (withX h0
      c.2)).scrBytes ∧ (asOrdered (f c.1) (withX h0 c.2)).ea c.1 (f c.1).size false (some l) % (f c.1).size = 0) := by
  unfold orderFree
  decide +kernel

theorem witness_ScratchFormsAccessAtIssue_2 :
    m0.scrBad (65532 : Nat) 4 = false := by decide +kernel

theorem witness_ScratchFormsAccessAtIssue_3 :
    m0.liveTxbs = [] := by decide +kernel

theorem witness_ScratchFormsAccessAtIssue_6 :
    m0.unseen h0 = [] ∧ (⟨.lds .b64 ⟨0, 4, 8, 2, 0⟩, ⟨0, 4, 8, 2, 0⟩, 8, 2, .load, false, false⟩ : MemReq).kind = .load ∧
      (⟨.lds .b64 ⟨0, 4, 8, 2, 0⟩, ⟨0, 4, 8, 2, 0⟩, 8, 2, .load, false, false⟩ : MemReq).size ≤ 8 ∧ m0.scrBad (h0.scrAbs
      (65528 : Nat)) (⟨.lds .b64 ⟨0, 4, 8, 2, 0⟩, ⟨0, 4, 8, 2, 0⟩, 8, 2, .load, false, false⟩ : MemReq).size = false := by decide +kernel

theorem witness_PeerFormsUseChannels_1 :
    ∀ f ∈ scrForms ++ atomForms, ∃ c ∈ peerOps, Ready (duo (withX duoA c.2)) (withX duoA c.2) (f c.1).i ∧ xSpc ((withX duoA
      c.2).xmem (f c.1).i) = 2 ∧ orderFree (f c.1) (duo (withX duoA c.2)) (asOrdered (f c.1) (withX duoA c.2)) ∧ (duo
      (withX duoA c.2)).target (asOrdered (f c.1) (withX duoA c.2)) (some ((asOrdered (f c.1) (withX duoA c.2)).memIndex
      ((asOrdered (f c.1) (withX duoA c.2)).xmem (f c.1).i))) = some (⟨duoB.scrAbs 0, 65536, 2, 1, some 1, false⟩ :
      ScrTarget) ∧ (⟨duoB.scrAbs 0, 65536, 2, 1, some 1, false⟩ : ScrTarget).held = false ∧ (∀ l ∈ (asOrdered (f c.1)
      (withX duoA c.2)).effLanes (f c.1).i, (⟨duoB.scrAbs 0, 65536, 2, 1, some 1, false⟩ : ScrTarget).causes ((asOrdered
      (f c.1) (withX duoA c.2)).ea c.1 (f c.1).size false (some l)) (f c.1).size = []) := by
  unfold orderFree
  decide +kernel

theorem witness_PeerFormsUseChannels_3 :
    ∀ f ∈ scrForms ++ atomForms, ∃ c ∈ peerOps, Ready (mach (withX h0 c.2)) (withX h0 c.2) (f c.1).i ∧ xSpc ((withX h0
      c.2).xmem (f c.1).i) = 2 ∧ orderFree (f c.1) (mach (withX h0 c.2)) (asOrdered (f c.1) (withX h0 c.2)) ∧ (mach
      (withX h0 c.2)).target (asOrdered (f c.1) (withX h0 c.2)) (some ((asOrdered (f c.1) (withX h0 c.2)).memIndex
      ((asOrdered (f c.1) (withX h0 c.2)).xmem (f c.1).i))) = none := by
  unfold orderFree
  decide +kernel

theorem witness_PeerFormsUseChannels_4 :
    ∀ k, (duo duoA).stookOf duoA = some k → ∀ x ∈ k.members, x.idx ≠ 2 := by
  intro k e
  obtain rfl : (⟨7, 5, 1, 0, false, 0, [⟨0, 1, false⟩, ⟨1, 2, false⟩]⟩ : Stook) = k := Option.some.inj (Eq.trans (by decide +kernel) e)
  decide

theorem witness_PeerFormsUseChannels_5 :
    (sent .load (some ⟨true, 5, false⟩)).mm.chans.find? (fun r => r.src == (0 : Nat) && r.dst == (1 : Nat)) = some (reqOf
      .load (some ⟨true, 5, false⟩)) ∧ (reqOf .load (some ⟨true, 5, false⟩)).kind = .acc .load := by decide +kernel

theorem witness_PeerFormsUseChannels_6 :
    (sent .store none).mm.chans.find? (fun r => r.src == (0 : Nat) && r.dst == (1 : Nat)) = some (reqOf .store none) ∧
      (reqOf .store none).kind = .acc .store := by decide +kernel

theorem witness_AccessesPerformAtHome_1 :
    (atHome (queued store0)).sheaf? (1 : Nat) = some (queued store0) ∧ (queued store0).acc? (⟨0, 0, 0⟩ : AccId) = some
      store0 ∧ (queued store0).drainReady store0 = true := by decide +kernel

theorem witness_AccessesPerformAtHome_2 :
    (atHome (queued store1)).sheaf? (1 : Nat) = some (queued store1) ∧ (queued store1).acc? (⟨0, 0, 0⟩ : AccId) = some
      store1 ∧ store1.kind = .store ∧ store1.space = .glob ∧ (atHome (queued store1)).performReady (queued store1)
      store1 = true ∧ (atHome (queued store1)).served (queued store1) store1 = true ∧ (atHome (queued store1)).homeFor
      (queued store1) store1 = ((atHome (queued store1)), .ok home0) := by
  constructorm* _ ∧ _ <;> first | exact homeFor_ok (by decide +kernel) | exact homeFor_error (by decide +kernel) | decide +kernel

theorem witness_AccessesPerformAtHome_3 :
    (atHome (queued atom1)).sheaf? (1 : Nat) = some (queued atom1) ∧ (queued atom1).acc? (⟨0, 0, 0⟩ : AccId) = some atom1 ∧
      atom1.kind = .atomic (0 : Nat) ∧ atom1.space = .glob ∧ (atHome (queued atom1)).performReady (queued atom1) atom1 =
      true ∧ (atHome (queued atom1)).served (queued atom1) atom1 = true ∧ (atHome (queued atom1)).homeFor (queued atom1)
      atom1 = ((atHome (queued atom1)), .ok home0) := by
  constructorm* _ ∧ _ <;> first | exact homeFor_ok (by decide +kernel) | exact homeFor_error (by decide +kernel) | decide +kernel

theorem witness_AccessesPerformAtHome_5 :
    (copied (queued load0)).sheaf? (1 : Nat) = some (queued load0) ∧ (queued load0).acc? (⟨0, 0, 0⟩ : AccId) = some load0 ∧
      load0.space = .glob ∧ (queued load0).loadReady load0 = true ∧ ((queued load0).forwards load0).all (·.isSome) =
      false ∧ (copied (queued load0)).copyFor (queued load0) load0 = some (⟨0, 1, 1024, 9, 0, 0⟩ : Copy) ∧ badIn (⟨0, 1,
      1024, 9, 0, 0⟩ : Copy).bad (load0.addr % 128) load0.size = false := by decide +kernel

theorem witness_AccessesPerformAtHome_8 :
    (atHome (queued load3)).sheaf? (1 : Nat) = some (queued load3) ∧ (queued load3).acc? (⟨0, 0, 0⟩ : AccId) = some load3 ∧
      load3.space = .glob ∧ (queued load3).loadReady load3 = true ∧ ((queued load3).forwards load3).all (·.isSome) =
      false ∧ (atHome (queued load3)).copyFor (queued load3) load3 = none ∧ (load3.ch = 3 ∨ load3.ch = 1) ∧ (atHome
      (queued load3)).served (queued load3) load3 = true ∧ (atHome (queued load3)).homeFor (queued load3) load3 =
      ((atHome (queued load3)), .ok home0) ∧ (atHome (queued load3)).inFlight ((atHome (queued load3)).l1Of (queued
      load3).core) home0.asid home0.line = false := by
  constructorm* _ ∧ _ <;> first | exact homeFor_ok (by decide +kernel) | exact homeFor_error (by decide +kernel) | decide +kernel

theorem witness_AccessesPerformAtHome_9 :
    (atHome (queued load0)).sheaf? (1 : Nat) = some (queued load0) ∧ (queued load0).acc? (⟨0, 0, 0⟩ : AccId) = some load0 ∧
      load0.space = .glob ∧ (queued load0).loadReady load0 = true ∧ ((queued load0).forwards load0).all (·.isSome) =
      false ∧ load0.ch ≠ 3 ∧ load0.ch ≠ 1 ∧ (atHome (queued load0)).copyFor (queued load0) load0 = none ∧ (atHome
      (queued load0)).served (queued load0) load0 = true ∧ (atHome (queued load0)).homeFor (queued load0) load0 =
      ((atHome (queued load0)), .ok home0) ∧ (atHome (queued load0)).inFlight ((atHome (queued load0)).l1Of (queued
      load0).core) home0.asid home0.line = false := by
  constructorm* _ ∧ _ <;> first | exact homeFor_ok (by decide +kernel) | exact homeFor_error (by decide +kernel) | decide +kernel

theorem witness_AccessesPerformAtHome_10 :
    (slmed (queued load4)).sheaf? (1 : Nat) = some (queued load4) ∧ (queued load4).acc? (⟨0, 0, 0⟩ : AccId) = some load4 ∧
      load4.space = .slm ∧ (slmed (queued load4)).slmPos (queued load4).ctx load4.addr load4.size = some (65532 : Nat) ∧
      (slmed (queued load4)).slmRefuses load4 (65532 : Nat) = false ∧ (slmed (queued load4)).served (queued load4) load4
      = true ∧ load4.kind = .load ∧ (queued load4).loadReady load4 = true := by decide +kernel

theorem witness_AccessesPerformAtHome_11 :
    (slmed (queued store4)).sheaf? (1 : Nat) = some (queued store4) ∧ (queued store4).acc? (⟨0, 0, 0⟩ : AccId) = some store4
      ∧ store4.space = .slm ∧ (slmed (queued store4)).slmPos (queued store4).ctx store4.addr store4.size = some (65532 :
      Nat) ∧ (slmed (queued store4)).slmRefuses store4 (65532 : Nat) = false ∧ (slmed (queued store4)).served (queued
      store4) store4 = true ∧ store4.kind = .store ∧ (slmed (queued store4)).performReady (queued store4) store4 = true := by decide +kernel

theorem witness_AccessesPerformAtHome_15 :
    (mach marked).sheaf? (1 : Nat) = some marked ∧ marked.mq.find? (·.marks (1 : Nat)) = some (.release 1 1) ∧ (mach
      marked).markerOk marked (.release 1 1) (marked.mq.takeWhile fun x => !x.marks (1 : Nat)) = true := by decide +kernel

theorem witness_WritesChangeExactlyTheirBytes_1 :
    (124 : Nat) + ([1, 2, 3, 4] : List Byte).length ≤ 128 ∧ (127 : Nat) < 128 := by decide +kernel

theorem witness_WritesChangeExactlyTheirBytes_2 :
    (124 : Nat) + ([1, 2, 3, 4] : List Byte).length ≤ 128 ∧ (127 : Nat) < 128 := by decide +kernel

theorem witness_WritesChangeExactlyTheirBytes_3 :
    bytes0.wf = true := by decide +kernel

theorem witness_WritesChangeExactlyTheirBytes_4 :
    bytes0.wf = true := by decide +kernel

theorem witness_WritesChangeExactlyTheirBytes_5 :
    bytes0.wf = true := by decide +kernel

theorem witness_WritesChangeExactlyTheirBytes_6 :
    bytes0.wf = true := by decide +kernel

theorem witness_WritesChangeExactlyTheirBytes_7 :
    bytes0.wf = true ∧ ∀ a, Mem.get bytes0 a = Mem.get bytes0 a := by
  exact ⟨by decide +kernel, fun _ => rfl⟩

theorem witness_FormsThatStoreNothing_1 :
    m0.cur? = some h0 ∧ m0.unseen h0 = [] ∧ storesNothing (.fadd ⟨1, 2, 4, 8⟩) = true ∧ goes (exec (.fadd ⟨1, 2, 4, 8⟩) m0)
      = true := by decide +kernel

theorem witness_FormsThatStoreNothing_3 :
    ∀ f ∈ globForms ++ atomForms, m0.cur? = some h0 ∧ (xSpc (h0.xmem (f (⟨0, 4, 8, 2, 0⟩ : FM)).i) = 0 ∨ xSpc (h0.xmem (f
      (⟨0, 4, 8, 2, 0⟩ : FM)).i) = 3) ∧ m0.unseen h0 = [] ∧ goes (exec (f (⟨0, 4, 8, 2, 0⟩ : FM)).i m0) = true := by decide +kernel

theorem witness_FormsThatStoreNothing_4 :
    ∀ f ∈ scrForms ++ atomForms, ∃ c ∈ peerOps, (duo (withX duoA c.2)).cur? = some (withX duoA c.2) ∧ xSpc ((withX duoA
      c.2).xmem (f c.1).i) = 2 ∧ (duo (withX duoA c.2)).unseen (withX duoA c.2) = [] ∧ goes (exec (f c.1).i (duo (withX
      duoA c.2))) = true := by decide +kernel

theorem witness_ScratchAccessFrame_1 :
    ∀ f ∈ scrForms ++ atomForms, ∃ c ∈ memOps, Ready (mach (withX h0 c.2)) (withX h0 c.2) (f c.1).i ∧ xSpc ((withX h0
      c.2).xmem (f c.1).i) = 1 ∧ (mach (withX h0 c.2)).unseen (withX h0 c.2) = [] ∧ (mach (withX h0 c.2)).liveTxbs = []
      ∧ (mach (withX h0 c.2)).waitedWords = [] ∧ (mach (withX h0 c.2)).mm.scr.wf = true ∧ goes (exec (f c.1).i (mach
      (withX h0 c.2))) = true := by decide +kernel

theorem witness_ScratchAccessFrame_1_outside :
    ∀ f ∈ scrForms ++ atomForms, ∃ c ∈ memOps, Ready (mach (withX h0 c.2)) (withX h0 c.2) (f c.1).i ∧ xSpc ((withX h0
      c.2).xmem (f c.1).i) = 1 ∧ (mach (withX h0 c.2)).unseen (withX h0 c.2) = [] ∧ (mach (withX h0 c.2)).liveTxbs = []
      ∧ (mach (withX h0 c.2)).waitedWords = [] ∧ (mach (withX h0 c.2)).mm.scr.wf = true ∧ goes (exec (f c.1).i (mach
      (withX h0 c.2))) = true ∧ (∀ l ∈ (withX h0 c.2).effLanes (f c.1).i, (f c.1).kind ≠ .load → 0 ≤ (withX h0 c.2).ea
      c.1 (f c.1).size false (some l) → (withX h0 c.2).ea c.1 (f c.1).size false (some l) + (f c.1).size ≤ (withX h0
      c.2).scrBytes → ¬ ((withX h0 c.2).scrAbs ((withX h0 c.2).ea c.1 (f c.1).size false (some l)).toNat ≤ (131072 :
      Nat) ∧ (131072 : Nat) < (withX h0 c.2).scrAbs ((withX h0 c.2).ea c.1 (f c.1).size false (some l)).toNat + (f
      c.1).size)) := by decide +kernel

theorem witness_ScratchAccessFrame_2 :
    ∀ f ∈ scrForms ++ atomForms, ∃ c ∈ memOps, Ready (mach (withX h0 c.2)) (withX h0 c.2) (f c.1).i ∧ xSpc ((withX h0
      c.2).xmem (f c.1).i) = 1 ∧ (mach (withX h0 c.2)).unseen (withX h0 c.2) = [] ∧ (mach (withX h0 c.2)).liveTxbs = []
      ∧ (mach (withX h0 c.2)).waitedWords = [] ∧ (mach (withX h0 c.2)).mm.scr.wf = true ∧ goes (exec (f c.1).i (mach
      (withX h0 c.2))) = true ∧ 2 ≠ (withX h0 c.2).uid := by decide +kernel

theorem witness_OperandLogAndPages_5 :
    (faulted 1).flt.reqs.contains (⟨.core 0, 1, 2⟩ : PageReq) = true ∧ (∀ o ∈ (faulted 1).eng.ops, o.waitsFor (⟨.core 0, 1,
      2⟩ : PageReq) = false) := by decide +kernel

theorem witness_OperandLogAndPages_6 :
    ∃ e ∈ (faulted 1).flt.log, (faulted 1).flt.reqs.contains (⟨.core 0, 1, 2⟩ : PageReq) = true ∧ (faulted 1).waitsFor e
      (⟨.core 0, 1, 2⟩ : PageReq) = true := by decide +kernel

theorem witness_OperandLogAndPages_7 :
    (faulted 2).sheaf? (1 : Nat) = some waiting0 ∧ (faulted 2).flt.log.find? (fun e => e.uid == (1 : Nat) && e.state != 3) =
      some (logged0 2) ∧ (logged0 2).seq = (0 : Nat) ∧ (logged0 2).state = 2 ∧ (logged0 2).asleep waiting0 = false := by decide +kernel

theorem witness_OperandLogAndPages_8 :
    (faulted 3).sheaf? (1 : Nat) = some waiting0 ∧ (faulted 3).lateEntries waiting0 = [(logged0 3)] ∧ waiting0.run =
      .running ∧ waiting0.path.isSome = true ∧ waiting0.chain.pc0 = none ∧ waiting0.arr = none := by decide +kernel

theorem witness_OperandLogAndPages_11 :
    m0.sheaf? (1 : Nat) = some h0 := by decide +kernel

/-! ### Witnesses: synchronisation -/

theorem witness_FencesPutMarkers_1 :
    Ready m0 h0 (.fence (⟨5, 3, 0, 0, 0⟩ : FSY)) := by decide +kernel

theorem witness_FencesPutMarkers_2 :
    Ready m0 h0 (.fencesc (⟨1, 0, 0, 0, 0⟩ : FSY)) ∧ (⟨1, 0, 0, 0, 0⟩ : FSY).scp ≤ 1 := by decide +kernel

theorem witness_FencesPutMarkers_3 :
    Ready (later h0) h0 (.fencesc (⟨5, 0, 0, 0, 0⟩ : FSY)) ∧ 1 < (⟨5, 0, 0, 0, 0⟩ : FSY).scp ∧ (later h0).released h0 (⟨5,
      0, 0, 0, 0⟩ : FSY).scp = true := ⟨by decide +kernel, by decide +kernel, released_later⟩

theorem witness_FencesPutMarkers_4 :
    Ready (mach asking) asking (.fencesc (⟨2, 0, 0, 0, 0⟩ : FSY)) ∧ 1 < (⟨2, 0, 0, 0, 0⟩ : FSY).scp ∧ (mach asking).released
      asking (⟨2, 0, 0, 0, 0⟩ : FSY).scp = false := by decide +kernel

theorem witness_FencesPutMarkers_5 :
    Ready m0 h0 (.ofence (⟨0, 0, 0, 0, 0⟩ : FSY)) := by decide +kernel

theorem witness_BarrierObjectsUpdate_1 :
    barArr (0x000000020001000F : DWord) = 1 := by decide +kernel

theorem witness_BarrierObjectsUpdate_2 :
    1 < barArr (0x00000002FFFF000F : DWord) := by decide +kernel

theorem witness_BarrierFormsArriveAndWait_19 :
    ∀ p ∈ ([Instr.barw, Instr.bart] : List (FSY → Instr)), Ready m0 h0 (p (⟨1, 0, 0, 0, 31⟩ : FSY)) ∧
      h0.getH 31 = .empty := by decide +kernel

theorem witness_BarrierFormsArriveAndWait_19_no_handle : ∀ b, h0.getH 31 ≠ .bar b := by
  intro b e
  exact nomatch (show h0.getH 31 = .empty by decide +kernel).symm.trans e

theorem witness_TransactionBarrierForms_1 :
    Ready (mach tail16) tail16 (.txbi (⟨0, 0, 1, 2, 0⟩ : FSY)) ∧ txbReady (mach tail16) tail16 (⟨0, 0, 1, 2, 0⟩ : FSY) := by
  unfold txbReady
  decide +kernel

theorem witness_TransactionBarrierForms_2 :
    Ready (mach tail16) tail16 (.txbe (⟨0, 0, 1, 2, 0⟩ : FSY)) ∧ txbReady (mach tail16) tail16 (⟨0, 0, 1, 2, 0⟩ : FSY) := by
  unfold txbReady
  decide +kernel

theorem witness_TransactionBarrierForms_4 :
    Ready (mach tail16) tail16 (.txba (⟨1, 0, 1, 2, 0⟩ : FSY)) ∧ txbReady (mach tail16) tail16 (⟨1, 0, 1, 2, 0⟩ : FSY) ∧
      ((mach tail16).touch tail16 1 (tail16.scrAbs (tail16.getS (⟨1, 0, 1, 2, 0⟩ : FSY).sa.toNat).toNat) 16
      true).released (tail16.retile ((mach tail16).touch tail16 1 (tail16.scrAbs (tail16.getS (⟨1, 0, 1, 2, 0⟩ :
      FSY).sa.toNat).toNat) 16 true)) (⟨1, 0, 1, 2, 0⟩ : FSY).scp = true := by
  unfold txbReady
  decide +kernel

theorem witness_TransactionBarrierForms_5 :
    Ready (mach tail16) tail16 (.txbw (⟨1, 0, 1, 2, 0⟩ : FSY)) ∧ txbReady (mach tail16) tail16 (⟨1, 0, 1, 2, 0⟩ : FSY) := by
  unfold txbReady
  decide +kernel

theorem witness_TransactionBarrierForms_6 :
    Ready (mach tail16) tail16 (.txbt (⟨0, 0, 1, 2, 0⟩ : FSY)) ∧ txbReady (mach tail16) tail16 (⟨0, 0, 1, 2, 0⟩ : FSY) := by
  unfold txbReady
  decide +kernel

theorem witness_TransactionBarrierForms_7 :
    Ready (mach tail16) tail16 (.waita (⟨1, 0, 1, 2, 3⟩ : FSY)) ∧ (tail16.getS (⟨1, 0, 1, 2, 3⟩ : FSY).sa.toNat).toNat % 4 =
      0 ∧ (tail16.getS (⟨1, 0, 1, 2, 3⟩ : FSY).sa.toNat).toNat + 4 ≤ tail16.scrBytes ∧ (tail16.mq.any fun e =>
      e.isAcquire) = false ∧ (mach tail16).ownBehind tail16 = false ∧ (mach tail16).scrBad (tail16.scrAbs (tail16.getS
      (⟨1, 0, 1, 2, 3⟩ : FSY).sa.toNat).toNat) 4 = false := by decide +kernel

theorem witness_HandleForms_1 :
    Ready (working (some 0)) owner (.hwait (⟨0, 0, 62, 0, 31⟩ : FSY)) ∧ owner.getH (⟨0, 0, 62, 0, 31⟩ : FSY).h.toNat ≠
      .empty ∧ (working (some 0)).hPending (owner.getH (⟨0, 0, 62, 0, 31⟩ : FSY).h.toNat) = false := by decide +kernel

theorem witness_HandleForms_2 :
    Ready (working none) owner (.hwait (⟨0, 0, 62, 0, 31⟩ : FSY)) ∧ owner.getH (⟨0, 0, 62, 0, 31⟩ : FSY).h.toNat ≠ .empty ∧
      (working none).hPending (owner.getH (⟨0, 0, 62, 0, 31⟩ : FSY).h.toNat) = true := by decide +kernel

theorem witness_HandleForms_3 :
    Ready (working none) owner (.htest (⟨0, 0, 62, 0, 31⟩ : FSY)) ∧ owner.getH (⟨0, 0, 62, 0, 31⟩ : FSY).h.toNat ≠ .empty := by decide +kernel

theorem witness_HandleForms_4 :
    ∀ p ∈ ([Instr.hwait, Instr.htest, Instr.hcan, Instr.hexp] : List (FSY → Instr)), ∃ c ∈ ([⟨0, 0, 62, 0, 31⟩, ⟨0, 0, 0, 0,
      31⟩] : List FSY), Ready m0 h0 (p c) ∧ h0.getH c.h.toNat = .empty := by decide +kernel

theorem witness_HandleForms_5 :
    Ready (mach (barred 1)) (barred 1) (.hcan (⟨0, 0, 0, 0, 31⟩ : FSY)) ∧ (barred 1).getH (⟨0, 0, 0, 0, 31⟩ : FSY).h.toNat =
      .bar (bar0 1) ∧ (bar0 1).code = 1 := by decide +kernel

theorem witness_HandleForms_6 :
    Ready (working none) owner (.hcan (⟨0, 0, 0, 0, 31⟩ : FSY)) ∧ owner.getH (⟨0, 0, 0, 0, 31⟩ : FSY).h.toNat = .op (9 :
      Nat) ∧ (working none).op? (9 : Nat) = some (op0 none) ∧ (op0 none).live = true ∧ (op0 none).stage < 2 ∧ (working
      none).sheaf? (op0 none).sheaf = some owner := by decide +kernel

theorem witness_HandleForms_7 :
    Ready (working none) owner (.hexp (⟨0, 0, 62, 0, 31⟩ : FSY)) ∧ owner.getH (⟨0, 0, 62, 0, 31⟩ : FSY).h.toNat = .op (9 :
      Nat) ∧ (working none).ctx? owner.ctx = some trialCtx ∧ (trialCtx.exports.filter fun e => e.op.isSome).length <
      1024 ∧ trialCtx.exportSlot (9 : Nat) = some (0 : Nat) := by decide +kernel

theorem witness_HandleForms_8 :
    Ready (exported importer) importer (.himp (⟨0, 0, 2, 0, 31⟩ : FSY)) ∧ (exported importer).ctx? importer.ctx = some
      exportCtx ∧ (importer.getPair (⟨0, 0, 2, 0, 31⟩ : FSY).sa.toNat).extractLsb' 10 22 = 0 ∧ exportCtx.exports.find?
      (fun e => e.slot == ((importer.getPair (⟨0, 0, 2, 0, 31⟩ : FSY).sa.toNat).extractLsb' 0 10).toNat && e.gen ==
      (importer.getPair (⟨0, 0, 2, 0, 31⟩ : FSY).sa.toNat).extractLsb' 32 32 && (importer.getPair (⟨0, 0, 2, 0, 31⟩ :
      FSY).sa.toNat).extractLsb' 10 22 == 0) = some (⟨1023, 4, some 9⟩ : Export) ∧ (⟨1023, 4, some 9⟩ : Export).op =
      some (9 : Nat) := by decide +kernel

theorem witness_HandleForms_10 :
    (working (some 0)).op? (9 : Nat) = some (op0 (some 0)) ∧ (op0 (some 0)).status = some (0 : DWord) ∧ owner.uid ∉ (op0
      (some 0)).seenBy := by decide +kernel

/-! ### Witnesses: engine commands -/

def bulkS : Sheaf := regS h0 [(58, 0x100), (61, 65520), (62, 65516)]

def bulkM : State := desk bulkS (ent 0 64 4 32 3 0) (ent 4096 64 4 32 3 0) []

theorem witness_CopyCommandsStartOperations_1 :
    runsEngine bulkM bulkS (.bulk (⟨31, 0, 58, 0, 3⟩ : FE)) .bulk ∧ entryFound bulkM ((served bulkS)) ((par (((served
      bulkS)).block (⟨31, 0, 58, 0, 3⟩ : FE).sa 6) 0).extractLsb' 0 8).toNat (ent 0 64 4 32 3 0) bulkM ∧ entryFound
      bulkM ((served bulkS)) ((par (((served bulkS)).block (⟨31, 0, 58, 0, 3⟩ : FE).sa 6) 0).extractLsb' 8 8).toNat (ent
      4096 64 4 32 3 0) bulkM ∧ (par (((served bulkS)).block (⟨31, 0, 58, 0, 3⟩ : FE).sa 6) 0).extractLsb' 16 16 = 0 ∧
      (ent 0 64 4 32 3 0).trow = (ent 4096 64 4 32 3 0).trow ∧ (ent 0 64 4 32 3 0).tcol = (ent 4096 64 4 32 3 0).tcol ∧
      (ent 0 64 4 32 3 0).lay = 0 ∧ (ent 4096 64 4 32 3 0).lay = 0 ∧ (if (⟨31, 0, 58, 0, 3⟩ : FE).f.getLsbD 2 then
      cvtfPermits (ent 0 64 4 32 3 0).fmt (ent 4096 64 4 32 3 0).fmt = true else (ent 0 64 4 32 3 0).fmt = (ent 4096 64
      4 32 3 0).fmt) ∧ ((⟨31, 0, 58, 0, 3⟩ : FE).f.getLsbD 0 = true → ((served bulkS)).txoChecks ((ent 4096 64 4 32 3
      0).spc != 2) (par (((served bulkS)).block (⟨31, 0, 58, 0, 3⟩ : FE).sa 6) 3) = []) ∧ ((⟨31, 0, 58, 0, 3⟩ :
      FE).f.getLsbD 1 = true → ((served bulkS)).floChecks (par (((served bulkS)).block (⟨31, 0, 58, 0, 3⟩ : FE).sa 6) 4)
      = []) ∧ rangesFit bulkM ((served bulkS)) (copySrc (copySides ((⟨31, 0, 58, 0, 3⟩ : FE).f.getLsbD 2) (ent 0 64 4 32
      3 0) (ent 4096 64 4 32 3 0) (par (((served bulkS)).block (⟨31, 0, 58, 0, 3⟩ : FE).sa 6) 1) (par (((served
      bulkS)).block (⟨31, 0, 58, 0, 3⟩ : FE).sa 6) 2))) (copyDst (copySides ((⟨31, 0, 58, 0, 3⟩ : FE).f.getLsbD 2) (ent
      0 64 4 32 3 0) (ent 4096 64 4 32 3 0) (par (((served bulkS)).block (⟨31, 0, 58, 0, 3⟩ : FE).sa 6) 1) (par
      (((served bulkS)).block (⟨31, 0, 58, 0, 3⟩ : FE).sa 6) 2))) 0 := by
  constructorm* _ ∧ _ <;> first | exact found_of_copy (c := line0 (ent 0 64 4 32 3 0) (ent 4096 64 4 32 3 0)) (by decide +kernel) | (unfold runsEngine; decide +kernel) | (unfold rangesFit; decide +kernel) | decide +kernel

def mcastS : Sheaf := regS h0 [(56, 0x100), (59, 65520), (60, 65516), (62, 2)]

def mcastM : State := desk mcastS (ent 0 64 4 32 3 0) (ent 4096 64 4 32 3 0) []

theorem witness_CopyCommandsStartOperations_2 :
    runsEngine mcastM mcastS (.mcast (⟨31, 0, 56, 0, 3⟩ : FE)) .mcast ∧ entryFound mcastM ((served mcastS)) ((par (((served
      mcastS)).block (⟨31, 0, 56, 0, 3⟩ : FE).sa 8) 0).extractLsb' 0 8).toNat (ent 0 64 4 32 3 0) mcastM ∧ entryFound
      mcastM ((served mcastS)) ((par (((served mcastS)).block (⟨31, 0, 56, 0, 3⟩ : FE).sa 8) 0).extractLsb' 8 8).toNat
      (ent 4096 64 4 32 3 0) mcastM ∧ (par (((served mcastS)).block (⟨31, 0, 56, 0, 3⟩ : FE).sa 8) 0).extractLsb' 16 16
      = 0 ∧ (pairOf (par (((served mcastS)).block (⟨31, 0, 56, 0, 3⟩ : FE).sa 8) 6) (par (((served mcastS)).block (⟨31,
      0, 56, 0, 3⟩ : FE).sa 8) 7)).extractLsb' 48 16 = 0 ∧ (ent 0 64 4 32 3 0).trow = (ent 4096 64 4 32 3 0).trow ∧ (ent
      0 64 4 32 3 0).tcol = (ent 4096 64 4 32 3 0).tcol ∧ (ent 0 64 4 32 3 0).lay = 0 ∧ (ent 4096 64 4 32 3 0).lay = 0 ∧
      (ent 0 64 4 32 3 0).fmt = (ent 4096 64 4 32 3 0).fmt ∧ (ent 4096 64 4 32 3 0).spc = 1 ∧ ((⟨31, 0, 56, 0, 3⟩ :
      FE).f.getLsbD 0 = true → (par (((served mcastS)).block (⟨31, 0, 56, 0, 3⟩ : FE).sa 8) 3).toNat % 16 = 0) ∧ ((⟨31,
      0, 56, 0, 3⟩ : FE).f.getLsbD 1 = true → ((par (((served mcastS)).block (⟨31, 0, 56, 0, 3⟩ : FE).sa 8)
      4).extractLsb' 0 19).toNat % 4 = 0 ∧ (par (((served mcastS)).block (⟨31, 0, 56, 0, 3⟩ : FE).sa 8) 4).extractLsb'
      19 13 = 0) ∧ rangesFit mcastM ((served mcastS)) (copySrc (copySides false (ent 0 64 4 32 3 0) (ent 4096 64 4 32 3
      0) (par (((served mcastS)).block (⟨31, 0, 56, 0, 3⟩ : FE).sa 8) 1) (par (((served mcastS)).block (⟨31, 0, 56, 0,
      3⟩ : FE).sa 8) 2))) (mcastDst (copySides false (ent 0 64 4 32 3 0) (ent 4096 64 4 32 3 0) (par (((served
      mcastS)).block (⟨31, 0, 56, 0, 3⟩ : FE).sa 8) 1) (par (((served mcastS)).block (⟨31, 0, 56, 0, 3⟩ : FE).sa 8) 2))
      (pairOf (par (((served mcastS)).block (⟨31, 0, 56, 0, 3⟩ : FE).sa 8) 6) (par (((served mcastS)).block (⟨31, 0, 56,
      0, 3⟩ : FE).sa 8) 7))) 0 := by
  constructorm* _ ∧ _ <;> first | exact found_of_copy (c := line0 (ent 0 64 4 32 3 0) (ent 4096 64 4 32 3 0)) (by decide +kernel) | (unfold runsEngine; decide +kernel) | (unfold rangesFit; decide +kernel) | decide +kernel

def peerS : Sheaf := regS h0 [(56, 64), (57, 64), (58, 524288), (60, 65520), (61, 65516)]

def peerM : State := desk peerS (ent 0 64 4 32 3 0) (ent 4096 64 4 32 3 0) []

theorem witness_CopyCommandsStartOperations_3 :
    runsEngine peerM peerS (.peer (⟨31, 0, 56, 0, 3⟩ : FE)) .peer ∧ (par (((served peerS)).block (⟨31, 0, 56, 0, 3⟩ : FE).sa
      7) 0).toNat % 4 = 0 ∧ (par (((served peerS)).block (⟨31, 0, 56, 0, 3⟩ : FE).sa 7) 1).toNat % 4 = 0 ∧ (par
      (((served peerS)).block (⟨31, 0, 56, 0, 3⟩ : FE).sa 7) 2).toNat % 4 = 0 ∧ (par (((served peerS)).block (⟨31, 0,
      56, 0, 3⟩ : FE).sa 7) 2).toNat ≤ 524288 ∧ ((⟨31, 0, 56, 0, 3⟩ : FE).f.getLsbD 0 = true → (par (((served
      peerS)).block (⟨31, 0, 56, 0, 3⟩ : FE).sa 7) 4).toNat % 16 = 0) ∧ ((⟨31, 0, 56, 0, 3⟩ : FE).f.getLsbD 1 = true →
      ((served peerS)).floChecks (par (((served peerS)).block (⟨31, 0, 56, 0, 3⟩ : FE).sa 7) 5) = []) ∧ rangesFit peerM
      ((served peerS)) [⟨1, (par (((served peerS)).block (⟨31, 0, 56, 0, 3⟩ : FE).sa 7) 0).toNat, (par (((served
      peerS)).block (⟨31, 0, 56, 0, 3⟩ : FE).sa 7) 2).toNat⟩] ([(runSide 2 (par (((served peerS)).block (⟨31, 0, 56, 0,
      3⟩ : FE).sa 7) 3).toNat (par (((served peerS)).block (⟨31, 0, 56, 0, 3⟩ : FE).sa 7) 1).toNat (par (((served
      peerS)).block (⟨31, 0, 56, 0, 3⟩ : FE).sa 7) 2).toNat).rowRng 0 (par (((served peerS)).block (⟨31, 0, 56, 0, 3⟩ :
      FE).sa 7) 2).toNat]) 0 := by
  constructorm* _ ∧ _ <;> first | exact found_of_copy (c := line0 (ent 0 64 4 32 3 0) (ent 4096 64 4 32 3 0)) (by decide +kernel) | (unfold runsEngine; decide +kernel) | (unfold rangesFit; decide +kernel) | decide +kernel

def decS : Sheaf := regS h0 [(58, 0x100), (61, 65520), (62, 65516)]

def decM : State := desk decS (ent 0 64 4 32 3 2) (ent 4096 64 4 32 3 1) [(2, 3), (3, 1)]

theorem witness_CopyCommandsStartOperations_4 :
    runsEngine decM decS (.dec (⟨31, 0, 58, 0, 3⟩ : FE)) .dec ∧ entryFound decM ((served decS)) ((par (((served decS)).block
      (⟨31, 0, 58, 0, 3⟩ : FE).sa 6) 0).extractLsb' 0 8).toNat (ent 0 64 4 32 3 2) decM ∧ entryFound decM ((served
      decS)) ((par (((served decS)).block (⟨31, 0, 58, 0, 3⟩ : FE).sa 6) 0).extractLsb' 8 8).toNat (ent 4096 64 4 32 3
      1) decM ∧ (par (((served decS)).block (⟨31, 0, 58, 0, 3⟩ : FE).sa 6) 0).extractLsb' 16 16 = 0 ∧ (ent 0 64 4 32 3
      2).lay = 2 ∧ (ent 4096 64 4 32 3 1).lay = 1 ∧ (ent 4096 64 4 32 3 1).spc = 1 ∧ (ent 4096 64 4 32 3 1).base % 32 =
      0 ∧ ((⟨31, 0, 58, 0, 3⟩ : FE).f.getLsbD 0 = true → ((served decS)).txoChecks true (par (((served decS)).block
      (⟨31, 0, 58, 0, 3⟩ : FE).sa 6) 3) = []) ∧ ((⟨31, 0, 58, 0, 3⟩ : FE).f.getLsbD 1 = true → ((served decS)).floChecks
      (par (((served decS)).block (⟨31, 0, 58, 0, 3⟩ : FE).sa 6) 4) = []) ∧ rangesFit decM ((served decS)) ([⟨(ent 0 64
      4 32 3 2).spc, (runSide (ent 0 64 4 32 3 2).spc (ent 0 64 4 32 3 2).pmem (ent 0 64 4 32 3 2).base 0).at (ent 0 64
      4 32 3 2).base, 16 + streamLen (decM.peek ((served decS)) (ent 0 64 4 32 3 2) 16)⟩] ++ (if natAt (decM.peek
      ((served decS)) (ent 0 64 4 32 3 2) 16) 3 1 == 1 then [] else [⟨0, (pairOf (par (((served decS)).block (⟨31, 0,
      58, 0, 3⟩ : FE).sa 6) 1) (par (((served decS)).block (⟨31, 0, 58, 0, 3⟩ : FE).sa 6) 2)).toNat, 160⟩])) [⟨1, (ent
      4096 64 4 32 3 1).base, streamOut (decM.peek ((served decS)) (ent 0 64 4 32 3 2) 16)⟩] 0 := by
  constructorm* _ ∧ _ <;> first | exact found_of_copy (c := line0 (ent 0 64 4 32 3 2) (ent 4096 64 4 32 3 1)) (by decide +kernel) | (unfold runsEngine; decide +kernel) | (unfold rangesFit; decide +kernel) | decide +kernel

def dscdS : Sheaf := regS h0 [(60, 0x20000), (62, 128)]

def dscdM : State := desk dscdS (ent 0 64 4 32 3 0) (ent 4096 64 4 32 3 0) []

theorem witness_CopyCommandsStartOperations_5 :
    runsEngine dscdM dscdS (.dscd (⟨31, 0, 60, 0, 0⟩ : FE)) .dscd ∧ ((pairOf (par (((served dscdS)).block (⟨31, 0, 60, 0, 0⟩
      : FE).sa 4) 0) (par (((served dscdS)).block (⟨31, 0, 60, 0, 0⟩ : FE).sa 4) 1)).toNat) % 128 = 0 ∧ ((pairOf (par
      (((served dscdS)).block (⟨31, 0, 60, 0, 0⟩ : FE).sa 4) 2) (par (((served dscdS)).block (⟨31, 0, 60, 0, 0⟩ : FE).sa
      4) 3)).toNat) % 128 = 0 ∧ rangesFit dscdM ((served dscdS)) [] [⟨0, ((pairOf (par (((served dscdS)).block (⟨31, 0,
      60, 0, 0⟩ : FE).sa 4) 0) (par (((served dscdS)).block (⟨31, 0, 60, 0, 0⟩ : FE).sa 4) 1)).toNat), ((pairOf (par
      (((served dscdS)).block (⟨31, 0, 60, 0, 0⟩ : FE).sa 4) 2) (par (((served dscdS)).block (⟨31, 0, 60, 0, 0⟩ : FE).sa
      4) 3)).toNat)⟩] 1 := by
  constructorm* _ ∧ _ <;> first | exact found_of_copy (c := line0 (ent 0 64 4 32 3 0) (ent 4096 64 4 32 3 0)) (by decide +kernel) | (unfold runsEngine; decide +kernel) | (unfold rangesFit; decide +kernel) | decide +kernel

def prefS : Sheaf := regS h0 [(60, 0x20000), (62, 16777216)]

def prefM : State := desk prefS (ent 0 64 4 32 3 0) (ent 4096 64 4 32 3 0) []

theorem witness_CopyCommandsStartOperations_6 :
    runsEngine prefM prefS (.pref (⟨31, 0, 60, 0, 0⟩ : FE)) .pref ∧ (par (((served prefS)).block (⟨31, 0, 60, 0, 0⟩ : FE).sa
      3) 2).toNat ≤ 16777216 ∧ rangesFit prefM ((served prefS)) ([⟨0, (pairOf (par (((served prefS)).block (⟨31, 0, 60,
      0, 0⟩ : FE).sa 3) 0) (par (((served prefS)).block (⟨31, 0, 60, 0, 0⟩ : FE).sa 3) 1)).toNat, (par (((served
      prefS)).block (⟨31, 0, 60, 0, 0⟩ : FE).sa 3) 2).toNat⟩]) [] 2 := by
  constructorm* _ ∧ _ <;> first | exact found_of_copy (c := line0 (ent 0 64 4 32 3 0) (ent 4096 64 4 32 3 0)) (by decide +kernel) | (unfold runsEngine; decide +kernel) | (unfold rangesFit; decide +kernel) | decide +kernel

def redcS : Sheaf := regS h0 [(58, 0xFF00)]

def redcM : State := desk redcS (ent 0 128 4 32 0 0) (ent 4096 64 4 32 3 0) []

theorem witness_CopyCommandsStartOperations_7 :
    runsEngine redcM redcS (.red (⟨31, 0, 58, 0, 0⟩ : FE)) .red ∧ (par (((served redcS)).block (⟨31, 0, 58, 0, 0⟩ : FE).sa
      5) 0).extractLsb' 8 8 = 0xFF ∧ entryFound redcM ((served redcS)) ((par (((served redcS)).block (⟨31, 0, 58, 0, 0⟩
      : FE).sa 5) 0).extractLsb' 0 8).toNat (ent 0 128 4 32 0 0) redcM ∧ (par (((served redcS)).block (⟨31, 0, 58, 0, 0⟩
      : FE).sa 5) 0).extractLsb' 16 16 = 0 ∧ (ent 0 128 4 32 0 0).lay = 0 ∧ redTypes (ent 0 128 4 32 0 0).fmt (xTy
      ((served redcS)).xmod) = true ∧ par (((served redcS)).block (⟨31, 0, 58, 0, 0⟩ : FE).sa 5) 2 = 0 ∧ rangesFit redcM
      ((served redcS)) (((ent 0 128 4 32 0 0).side (par (((served redcS)).block (⟨31, 0, 58, 0, 0⟩ : FE).sa 5) 1) (grain
      (ent 0 128 4 32 0 0).fmt).1 (grain (ent 0 128 4 32 0 0).fmt).2 (ent 0 128 4 32 0 0).trow (ent 0 128 4 32 0
      0).tcol).rngs (ent 0 128 4 32 0 0).trow ((ent 0 128 4 32 0 0).tcol * (grain (ent 0 128 4 32 0 0).fmt).2)) [] 0 := by
  constructorm* _ ∧ _ <;> first | exact found_of_copy (c := line0 (ent 0 128 4 32 0 0) (ent 4096 64 4 32 3 0)) (by decide +kernel) | (unfold runsEngine; decide +kernel) | (unfold rangesFit; decide +kernel) | decide +kernel

def redrS : Sheaf := regS h0 [(58, 0x100), (62, 65520)]

def redrM : State := desk redrS (ent 0 128 4 32 0 0) (ent 4096 128 4 32 0 0) []

theorem witness_CopyCommandsStartOperations_8 :
    runsEngine redrM redrS (.red (⟨31, 0, 58, 0, 4⟩ : FE)) .red ∧ (par (((served redrS)).block (⟨31, 0, 58, 0, 4⟩ : FE).sa
      5) 0).extractLsb' 8 8 ≠ 0xFF ∧ entryFound redrM ((served redrS)) ((par (((served redrS)).block (⟨31, 0, 58, 0, 4⟩
      : FE).sa 5) 0).extractLsb' 0 8).toNat (ent 0 128 4 32 0 0) redrM ∧ entryFound redrM ((served redrS)) ((par
      (((served redrS)).block (⟨31, 0, 58, 0, 4⟩ : FE).sa 5) 0).extractLsb' 8 8).toNat (ent 4096 128 4 32 0 0) redrM ∧
      (par (((served redrS)).block (⟨31, 0, 58, 0, 4⟩ : FE).sa 5) 0).extractLsb' 16 16 = 0 ∧ (ent 0 128 4 32 0 0).lay =
      0 ∧ redTypes (ent 0 128 4 32 0 0).fmt (xTy ((served redrS)).xmod) = true ∧ (ent 4096 128 4 32 0 0).lay = 0 ∧ (ent
      4096 128 4 32 0 0).fmt = xTy ((served redrS)).xmod ∧ (ent 4096 128 4 32 0 0).trow = (ent 0 128 4 32 0 0).trow ∧
      (ent 4096 128 4 32 0 0).tcol = (ent 0 128 4 32 0 0).tcol ∧ ((⟨31, 0, 58, 0, 4⟩ : FE).f.getLsbD 2 = true → ((served
      redrS)).txoChecks ((ent 4096 128 4 32 0 0).spc != 2) (par (((served redrS)).block (⟨31, 0, 58, 0, 4⟩ : FE).sa 5)
      4) = []) ∧ rangesFit redrM ((served redrS)) (((ent 0 128 4 32 0 0).side (par (((served redrS)).block (⟨31, 0, 58,
      0, 4⟩ : FE).sa 5) 1) (grain (ent 0 128 4 32 0 0).fmt).1 (grain (ent 0 128 4 32 0 0).fmt).2 (ent 0 128 4 32 0
      0).trow (ent 0 128 4 32 0 0).tcol).rngs (ent 0 128 4 32 0 0).trow ((ent 0 128 4 32 0 0).tcol * (grain (ent 0 128 4
      32 0 0).fmt).2)) (((ent 4096 128 4 32 0 0).side (par (((served redrS)).block (⟨31, 0, 58, 0, 4⟩ : FE).sa 5) 2)
      (grain (ent 4096 128 4 32 0 0).fmt).1 (grain (ent 4096 128 4 32 0 0).fmt).2 (ent 4096 128 4 32 0 0).trow (ent 4096
      128 4 32 0 0).tcol).rngs (ent 4096 128 4 32 0 0).trow ((ent 4096 128 4 32 0 0).tcol * (grain (ent 4096 128 4 32 0
      0).fmt).2)) 0 := by
  constructorm* _ ∧ _ <;> first | exact found_of_copy (c := line0 (ent 0 128 4 32 0 0) (ent 4096 128 4 32 0 0)) (by decide +kernel) | (unfold runsEngine; decide +kernel) | (unfold rangesFit; decide +kernel) | decide +kernel

def wnxS : Sheaf := regS h0 [(59, 4096), (62, 65520)]

def wnxM : State := desk wnxS (ent 32768 64 4 32 3 0) (ent 4096 64 4 32 3 0) []

theorem witness_CopyCommandsStartOperations_9 :
    runsEngine wnxM wnxS (.wnx (⟨31, 0, 58, 0, 1⟩ : FE)) .wnx ∧ entryFound wnxM ((served wnxS)) ((par (((served wnxS)).block
      (⟨31, 0, 58, 0, 1⟩ : FE).sa 5) 2).extractLsb' 0 8).toNat (ent 32768 64 4 32 3 0) wnxM ∧ (par (((served
      wnxS)).block (⟨31, 0, 58, 0, 1⟩ : FE).sa 5) 2).extractLsb' 16 16 = 0 ∧ (ent 32768 64 4 32 3 0).lay = 0 ∧ ((par
      (((served wnxS)).block (⟨31, 0, 58, 0, 1⟩ : FE).sa 5) 1).toNat) % 4 = 0 ∧ ((par (((served wnxS)).block (⟨31, 0,
      58, 0, 1⟩ : FE).sa 5) 1).toNat) + 256 ≤ ((served wnxS)).scrBytes ∧ ((⟨31, 0, 58, 0, 1⟩ : FE).f.getLsbD 0 = true →
      ((served wnxS)).txoChecks ((ent 32768 64 4 32 3 0).spc != 2) (par (((served wnxS)).block (⟨31, 0, 58, 0, 1⟩ :
      FE).sa 5) 4) = []) ∧ rangesFit wnxM ((served wnxS)) (⟨1, ((par (((served wnxS)).block (⟨31, 0, 58, 0, 1⟩ : FE).sa
      5) 1).toNat), 256⟩ :: (wnxSides (ent 32768 64 4 32 3 0) (par (((served wnxS)).block (⟨31, 0, 58, 0, 1⟩ : FE).sa 5)
      0).toNat).1.rngs 64 (wnxSides (ent 32768 64 4 32 3 0) (par (((served wnxS)).block (⟨31, 0, 58, 0, 1⟩ : FE).sa 5)
      0).toNat).1.cols) ((wnxRows (ent 32768 64 4 32 3 0) (wnxM.scrRead (((served wnxS)).scrAbs ((par (((served
      wnxS)).block (⟨31, 0, 58, 0, 1⟩ : FE).sa 5) 1).toNat)) 256) (par (((served wnxS)).block (⟨31, 0, 58, 0, 1⟩ :
      FE).sa 5) 3)).map fun r => (wnxSides (ent 32768 64 4 32 3 0) (par (((served wnxS)).block (⟨31, 0, 58, 0, 1⟩ :
      FE).sa 5) 0).toNat).2.rowRng r.2 (wnxSides (ent 32768 64 4 32 3 0) (par (((served wnxS)).block (⟨31, 0, 58, 0, 1⟩
      : FE).sa 5) 0).toNat).2.cols) 0 := by
  constructorm* _ ∧ _ <;> first | exact found_of_copy (c := line0 (ent 32768 64 4 32 3 0) (ent 4096 64 4 32 3 0)) (by decide +kernel) | (unfold runsEngine; decide +kernel) | (unfold rangesFit; decide +kernel) | decide +kernel

def laneS : Sheaf := withX (regS h0 [(60, 0x20000), (63, 65520)]) [(1, 0x020800)]
def laneM : State := desk laneS (ent 0 64 4 32 3 0) (ent 0 64 4 32 3 0) []

theorem witness_LaneCopiesAndMatrixStart_1 :
    ∀ p ∈ ([(Instr.lg2s, OpKind.lg2s), (.ls2g, .ls2g)] : List ((FE → Instr) × OpKind)),
      (Ready laneM laneS (p.1 ⟨31, 0, 60, 0, 6⟩) ∧ laneM.ofenced laneS = false ∧ laneM.accepts laneS p.2 = true) ∧
      (served laneS).txoChecks true (par ((served laneS).block 60 4) 3) = [] ∧
      (∀ l ∈ (served laneS).effLanes (p.1 ⟨31, 0, 60, 0, 6⟩),
        laneM.laneOf (served laneS) (p.1 ⟨31, 0, 60, 0, 6⟩) ((served laneS).block 60 4) 16 l = (0x20000, 0, [])) ∧
      (∃ t, laneM.engTranslate 0 1 0x20000 = (laneM, .page t) ∧ (t.w && t.r) = true ∧ laneM.canPin 0 [t.pinOf 0x20000] = true) := by
  have e : ∃ t ∈ laneM.mm.tlb, (laneM.engTranslate 0 1 0x20000).1 = laneM ∧
      (match (laneM.engTranslate 0 1 0x20000).2 with | .page u => decide (u = t) | _ => false) = true ∧ (t.w && t.r) = true ∧
      laneM.canPin 0 [t.pinOf 0x20000] = true := by decide +kernel
  obtain ⟨t, -, e1, e2, e3, e4⟩ := e
  have q : laneM.engTranslate 0 1 0x20000 = (laneM, .page t) := by
    rcases x : laneM.engTranslate 0 1 0x20000 with ⟨u, r⟩
    rw [x] at e1 e2
    cases r <;> simp_all
  intro p hp
  refine ⟨?_, ?_, ?_, t, q, e3, e4⟩ <;> revert p <;> decide +kernel

def mmaS : Sheaf := regS h0 [(60, 0x100)]

def mmaM : State := desk mmaS (ent 0 64 64 64 3 0) (ent 4096 64 64 64 3 0) []

theorem witness_LaneCopiesAndMatrixStart_2 :
    ∀ p ∈ ([(Instr.mma, OpKind.mma), (.mmaz, .mmaz)] : List ((FE → Instr) × OpKind)), runsEngine mmaM mmaS (p.1 (⟨31, 15,
      60, 3, 0⟩ : FE)) p.2 ∧ entryFound mmaM ((served mmaS)) ((par (((served mmaS)).block (⟨31, 15, 60, 3, 0⟩ : FE).sa
      3) 0).extractLsb' 0 8).toNat (ent 0 64 64 64 3 0) mmaM ∧ entryFound mmaM ((served mmaS)) ((par (((served
      mmaS)).block (⟨31, 15, 60, 3, 0⟩ : FE).sa 3) 0).extractLsb' 8 8).toNat (ent 4096 64 64 64 3 0) mmaM ∧ (par
      (((served mmaS)).block (⟨31, 15, 60, 3, 0⟩ : FE).sa 3) 0).extractLsb' 16 16 = 0 ∧ (ent 0 64 64 64 3 0).lay = 0 ∧
      (ent 4096 64 64 64 3 0).lay = 0 ∧ (mmaPair (ent 0 64 64 64 3 0).fmt (ent 4096 64 64 64 3 0).fmt || ((ent 0 64 64
      64 3 0).fmt == 5 && (ent 4096 64 64 64 3 0).fmt == 5)) = true ∧ ((served mmaS)).beyondAll (blockRngs (ent 0 64 64
      64 3 0) (sideA (ent 0 64 64 64 3 0) (par (((served mmaS)).block (⟨31, 15, 60, 3, 0⟩ : FE).sa 3) 1) (kOf (ent 0 64
      64 64 3 0).fmt)) 64 (kOf (ent 0 64 64 64 3 0).fmt) ++ blockRngs (ent 4096 64 64 64 3 0) (sideB (ent 4096 64 64 64
      3 0) (par (((served mmaS)).block (⟨31, 15, 60, 3, 0⟩ : FE).sa 3) 2) (kOf (ent 0 64 64 64 3 0).fmt)) (kOf (ent 0 64
      64 64 3 0).fmt) 64) = [] ∧ mmaM.canSpend ((served mmaS)) (2 ^ (⟨31, 15, 60, 3, 0⟩ : FE).ec.toNat) = true ∧
      rangesFit mmaM ((served mmaS)) (blockRngs (ent 0 64 64 64 3 0) (sideA (ent 0 64 64 64 3 0) (par (((served
      mmaS)).block (⟨31, 15, 60, 3, 0⟩ : FE).sa 3) 1) (kOf (ent 0 64 64 64 3 0).fmt)) 64 (kOf (ent 0 64 64 64 3 0).fmt)
      ++ blockRngs (ent 4096 64 64 64 3 0) (sideB (ent 4096 64 64 64 3 0) (par (((served mmaS)).block (⟨31, 15, 60, 3,
      0⟩ : FE).sa 3) 2) (kOf (ent 0 64 64 64 3 0).fmt)) (kOf (ent 0 64 64 64 3 0).fmt) 64) [] 0 := by
  intro p hp
  simp only [List.mem_cons, List.not_mem_nil, or_false] at hp
  obtain rfl | rfl := hp <;> constructorm* _ ∧ _ <;> first | exact found_of_copy (c := line0 (ent 0 64 64 64 3 0) (ent 4096 64 64 64 3 0)) (by decide +kernel) | (unfold runsEngine; decide +kernel) | (unfold rangesFit; decide +kernel) | decide +kernel

def mmldS : Sheaf := regS h0 [(63, 256)]

def mmldM : State := desk mmldS (ent 0 64 64 64 3 0) (ent 4096 64 64 64 3 0) []

theorem witness_LaneCopiesAndMatrixStart_3 :
    ∀ p ∈ ([(Instr.mmld, OpKind.mmld), (.mmst, .mmst)] : List ((FE → Instr) × OpKind)), runsEngine mmldM mmldS (p.1 (⟨31,
      15, 62, 0, 0⟩ : FE)) p.2 ∧ (par (((served mmldS)).block (⟨31, 15, 62, 0, 0⟩ : FE).sa 2) 0).toNat % (fmtBits (if
      p.2 == .mmld then xTys ((served mmldS)).xmod else xTy ((served mmldS)).xmod) / 8) = 0 ∧ (par (((served
      mmldS)).block (⟨31, 15, 62, 0, 0⟩ : FE).sa 2) 1).toNat % (fmtBits (if p.2 == .mmld then xTys ((served mmldS)).xmod
      else xTy ((served mmldS)).xmod) / 8) = 0 ∧ (par (((served mmldS)).block (⟨31, 15, 62, 0, 0⟩ : FE).sa 2) 0).toNat +
      (63 * (par (((served mmldS)).block (⟨31, 15, 62, 0, 0⟩ : FE).sa 2) 1).toNat + 64 * (fmtBits (if p.2 == .mmld then
      xTys ((served mmldS)).xmod else xTy ((served mmldS)).xmod) / 8)) ≤ ((served mmldS)).scrBytes ∧ rangesFit mmldM
      ((served mmldS)) (if p.2 == .mmld then (tileRngs (par (((served mmldS)).block (⟨31, 15, 62, 0, 0⟩ : FE).sa 2)
      0).toNat (par (((served mmldS)).block (⟨31, 15, 62, 0, 0⟩ : FE).sa 2) 1).toNat (64 * (fmtBits (if p.2 == .mmld
      then xTys ((served mmldS)).xmod else xTy ((served mmldS)).xmod) / 8))) else []) (if p.2 == .mmld then [] else
      (tileRngs (par (((served mmldS)).block (⟨31, 15, 62, 0, 0⟩ : FE).sa 2) 0).toNat (par (((served mmldS)).block (⟨31,
      15, 62, 0, 0⟩ : FE).sa 2) 1).toNat (64 * (fmtBits (if p.2 == .mmld then xTys ((served mmldS)).xmod else xTy
      ((served mmldS)).xmod) / 8)))) 0 := by
  intro p hp
  simp only [List.mem_cons, List.not_mem_nil, or_false] at hp
  obtain rfl | rfl := hp <;> constructorm* _ ∧ _ <;> first | exact found_of_copy (c := line0 (ent 0 64 64 64 3 0) (ent 4096 64 64 64 3 0)) (by decide +kernel) | (unfold runsEngine; decide +kernel) | (unfold rangesFit; decide +kernel) | decide +kernel

def mmclS : Sheaf := regS h0 [(63, 256)]

def mmclM : State := desk mmclS (ent 0 64 4 32 3 0) (ent 4096 64 4 32 3 0) []

theorem witness_LaneCopiesAndMatrixStart_4 :
    runsEngine mmclM mmclS (.mmcl (⟨0, 15, 0, 0, 0⟩ : FE)) .mmcl ∧ rangesFit mmclM (served mmclS) [] [] 0 := by
  constructorm* _ ∧ _ <;> first | exact found_of_copy (c := line0 (ent 0 64 4 32 3 0) (ent 4096 64 4 32 3 0)) (by decide +kernel) | (unfold runsEngine; decide +kernel) | (unfold rangesFit; decide +kernel) | decide +kernel

def mmcvS : Sheaf := withX (regS h0 [(61, 64), (62, 4096), (63, 2)]) [(3, 0xC000)]

def mmcvM : State := desk mmcvS (ent 0 64 4 32 3 0) (ent 4096 64 4 32 3 0) []

theorem witness_LaneCopiesAndMatrixStart_5 :
    runsEngine mmcvM mmcvS (.mmcv (⟨31, 15, 60, 0, 0⟩ : FE)) .mmcv ∧ ((served mmcvS)).beyondAll (tileRngs ((fun k => (par
      (((served mmcvS)).block (⟨31, 15, 60, 0, 0⟩ : FE).sa 4) k).toNat) 0) ((fun k => (par (((served mmcvS)).block (⟨31,
      15, 60, 0, 0⟩ : FE).sa 4) k).toNat) 1) (64 * fmtBits (xTy ((served mmcvS)).xmod) / 8) ++ (if (⟨31, 15, 60, 0, 0⟩ :
      FE).f.getLsbD 0 then (List.range 2).map fun b => ⟨1, (fun k => (par (((served mmcvS)).block (⟨31, 15, 60, 0, 0⟩ :
      FE).sa 4) k).toNat) 2 + b * (fun k => (par (((served mmcvS)).block (⟨31, 15, 60, 0, 0⟩ : FE).sa 4) k).toNat) 3,
      64⟩ else (List.range 64).map fun r => ⟨1, (fun k => (par (((served mmcvS)).block (⟨31, 15, 60, 0, 0⟩ : FE).sa 4)
      k).toNat) 2 + r * (fun k => (par (((served mmcvS)).block (⟨31, 15, 60, 0, 0⟩ : FE).sa 4) k).toNat) 3, 2⟩)) = [] ∧
      rangesFit mmcvM ((served mmcvS)) [] (tileRngs ((fun k => (par (((served mmcvS)).block (⟨31, 15, 60, 0, 0⟩ : FE).sa
      4) k).toNat) 0) ((fun k => (par (((served mmcvS)).block (⟨31, 15, 60, 0, 0⟩ : FE).sa 4) k).toNat) 1) (64 * fmtBits
      (xTy ((served mmcvS)).xmod) / 8) ++ (if (⟨31, 15, 60, 0, 0⟩ : FE).f.getLsbD 0 then (List.range 2).map fun b => ⟨1,
      (fun k => (par (((served mmcvS)).block (⟨31, 15, 60, 0, 0⟩ : FE).sa 4) k).toNat) 2 + b * (fun k => (par (((served
      mmcvS)).block (⟨31, 15, 60, 0, 0⟩ : FE).sa 4) k).toNat) 3, 64⟩ else (List.range 64).map fun r => ⟨1, (fun k =>
      (par (((served mmcvS)).block (⟨31, 15, 60, 0, 0⟩ : FE).sa 4) k).toNat) 2 + r * (fun k => (par (((served
      mmcvS)).block (⟨31, 15, 60, 0, 0⟩ : FE).sa 4) k).toNat) 3, 2⟩)) 0 := by
  constructorm* _ ∧ _ <;> first | exact found_of_copy (c := line0 (ent 0 64 4 32 3 0) (ent 4096 64 4 32 3 0)) (by decide +kernel) | (unfold runsEngine; decide +kernel) | (unfold rangesFit; decide +kernel) | decide +kernel

def mmspS : Sheaf := regS h0 [(60, 0x100), (62, 32768)]

def mmspM : State := desk mmspS (ent 0 64 64 64 3 0) (ent 4096 64 64 64 3 1) []

theorem witness_LaneCopiesAndMatrixStart_6 :
    runsEngine mmspM mmspS (.mmsp (⟨31, 15, 60, 0, 0⟩ : FE)) .mmsp ∧ entryFound mmspM ((served mmspS)) ((par (((served
      mmspS)).block (⟨31, 15, 60, 0, 0⟩ : FE).sa 4) 0).extractLsb' 0 8).toNat (ent 0 64 64 64 3 0) mmspM ∧ entryFound
      mmspM ((served mmspS)) ((par (((served mmspS)).block (⟨31, 15, 60, 0, 0⟩ : FE).sa 4) 0).extractLsb' 8 8).toNat
      (ent 4096 64 64 64 3 1) mmspM ∧ (par (((served mmspS)).block (⟨31, 15, 60, 0, 0⟩ : FE).sa 4) 0).extractLsb' 16 16
      = 0 ∧ ((((⟨31, 15, 60, 0, 0⟩ : FE).f.extractLsb' 0 2).toNat) ≠ 1 → par (((served mmspS)).block (⟨31, 15, 60, 0, 0⟩
      : FE).sa 4) 3 = 0) ∧ (ent 0 64 64 64 3 0).lay = 0 ∧ (ent 4096 64 64 64 3 1).lay = (if (((⟨31, 15, 60, 0, 0⟩ :
      FE).f.extractLsb' 0 2).toNat) == 1 then 0 else 1) ∧ sparseFmt (ent 4096 64 64 64 3 1).fmt = true ∧ mmaPair (ent 0
      64 64 64 3 0).fmt (ent 4096 64 64 64 3 1).fmt = true ∧ ((par (((served mmspS)).block (⟨31, 15, 60, 0, 0⟩ : FE).sa
      4) 2).toNat) % 32 = 0 ∧ ((par (((served mmspS)).block (⟨31, 15, 60, 0, 0⟩ : FE).sa 4) 2).toNat) + metaBytes
      (((⟨31, 15, 60, 0, 0⟩ : FE).f.extractLsb' 0 2).toNat) (((⟨31, 15, 60, 0, 0⟩ : FE).f.extractLsb' 4 2).toNat) ≤
      ((served mmspS)).scrBytes ∧ ((served mmspS)).beyondAll ((sideA (ent 0 64 64 64 3 0) (par (((served mmspS)).block
      (⟨31, 15, 60, 0, 0⟩ : FE).sa 4) 1) 64).rngs 64 64) = [] ∧ ((((⟨31, 15, 60, 0, 0⟩ : FE).f.extractLsb' 0 2).toNat) =
      1 → ((served mmspS)).beyondAll (if (((⟨31, 15, 60, 0, 0⟩ : FE).f.extractLsb' 0 2).toNat) == 1 then ((ent 4096 64
      64 64 3 1).side (par (((served mmspS)).block (⟨31, 15, 60, 0, 0⟩ : FE).sa 4) 3) (fmtBits (ent 4096 64 64 64 3
      1).fmt) 1 (16 * (((⟨31, 15, 60, 0, 0⟩ : FE).f.extractLsb' 4 2).toNat)) 64).rngs (16 * (((⟨31, 15, 60, 0, 0⟩ :
      FE).f.extractLsb' 4 2).toNat)) 64 else [⟨1, ((par (((served mmspS)).block (⟨31, 15, 60, 0, 0⟩ : FE).sa 4)
      2).toNat) + metaBytes (((⟨31, 15, 60, 0, 0⟩ : FE).f.extractLsb' 0 2).toNat) (((⟨31, 15, 60, 0, 0⟩ :
      FE).f.extractLsb' 4 2).toNat), min (4096 * (fmtBits (ent 4096 64 64 64 3 1).fmt / 8)) (((served mmspS)).scrBytes -
      (((par (((served mmspS)).block (⟨31, 15, 60, 0, 0⟩ : FE).sa 4) 2).toNat) + metaBytes (((⟨31, 15, 60, 0, 0⟩ :
      FE).f.extractLsb' 0 2).toNat) (((⟨31, 15, 60, 0, 0⟩ : FE).f.extractLsb' 4 2).toNat)))⟩] : List Rng) = []) ∧
      mmspM.canSpend ((served mmspS)) (2 ^ (⟨31, 15, 60, 0, 0⟩ : FE).ec.toNat) = true ∧ rangesFit mmspM ((served mmspS))
      (⟨1, ((par (((served mmspS)).block (⟨31, 15, 60, 0, 0⟩ : FE).sa 4) 2).toNat), metaBytes (((⟨31, 15, 60, 0, 0⟩ :
      FE).f.extractLsb' 0 2).toNat) (((⟨31, 15, 60, 0, 0⟩ : FE).f.extractLsb' 4 2).toNat)⟩ :: (((sideA (ent 0 64 64 64 3
      0) (par (((served mmspS)).block (⟨31, 15, 60, 0, 0⟩ : FE).sa 4) 1) 64).rngs 64 64) ++ (if (((⟨31, 15, 60, 0, 0⟩ :
      FE).f.extractLsb' 0 2).toNat) == 1 then ((ent 4096 64 64 64 3 1).side (par (((served mmspS)).block (⟨31, 15, 60,
      0, 0⟩ : FE).sa 4) 3) (fmtBits (ent 4096 64 64 64 3 1).fmt) 1 (16 * (((⟨31, 15, 60, 0, 0⟩ : FE).f.extractLsb' 4
      2).toNat)) 64).rngs (16 * (((⟨31, 15, 60, 0, 0⟩ : FE).f.extractLsb' 4 2).toNat)) 64 else [⟨1, ((par (((served
      mmspS)).block (⟨31, 15, 60, 0, 0⟩ : FE).sa 4) 2).toNat) + metaBytes (((⟨31, 15, 60, 0, 0⟩ : FE).f.extractLsb' 0
      2).toNat) (((⟨31, 15, 60, 0, 0⟩ : FE).f.extractLsb' 4 2).toNat), min (4096 * (fmtBits (ent 4096 64 64 64 3 1).fmt
      / 8)) (((served mmspS)).scrBytes - (((par (((served mmspS)).block (⟨31, 15, 60, 0, 0⟩ : FE).sa 4) 2).toNat) +
      metaBytes (((⟨31, 15, 60, 0, 0⟩ : FE).f.extractLsb' 0 2).toNat) (((⟨31, 15, 60, 0, 0⟩ : FE).f.extractLsb' 4
      2).toNat)))⟩] : List Rng))) [] 0 := by
  constructorm* _ ∧ _ <;> first | exact found_of_copy (c := line0 (ent 0 64 64 64 3 0) (ent 4096 64 64 64 3 1)) (by decide +kernel) | (unfold runsEngine; decide +kernel) | (unfold rangesFit; decide +kernel) | decide +kernel

def mmsbS : Sheaf := regS h0 [(60, 0x100), (62, 32768)]

def mmsbM : State := desk mmsbS (ent 0 64 64 64 3 0) (ent 4096 64 64 64 3 0) []

theorem witness_LaneCopiesAndMatrixStart_6_pat1 :
    runsEngine mmsbM mmsbS (.mmsp (⟨31, 15, 60, 0, 0x31⟩ : FE)) .mmsp ∧ entryFound mmsbM ((served mmsbS)) ((par (((served
      mmsbS)).block (⟨31, 15, 60, 0, 0x31⟩ : FE).sa 4) 0).extractLsb' 0 8).toNat (ent 0 64 64 64 3 0) mmsbM ∧ entryFound
      mmsbM ((served mmsbS)) ((par (((served mmsbS)).block (⟨31, 15, 60, 0, 0x31⟩ : FE).sa 4) 0).extractLsb' 8 8).toNat
      (ent 4096 64 64 64 3 0) mmsbM ∧ (par (((served mmsbS)).block (⟨31, 15, 60, 0, 0x31⟩ : FE).sa 4) 0).extractLsb' 16
      16 = 0 ∧ ((((⟨31, 15, 60, 0, 0x31⟩ : FE).f.extractLsb' 0 2).toNat) ≠ 1 → par (((served mmsbS)).block (⟨31, 15, 60,
      0, 0x31⟩ : FE).sa 4) 3 = 0) ∧ (ent 0 64 64 64 3 0).lay = 0 ∧ (ent 4096 64 64 64 3 0).lay = (if (((⟨31, 15, 60, 0,
      0x31⟩ : FE).f.extractLsb' 0 2).toNat) == 1 then 0 else 1) ∧ sparseFmt (ent 4096 64 64 64 3 0).fmt = true ∧ mmaPair
      (ent 0 64 64 64 3 0).fmt (ent 4096 64 64 64 3 0).fmt = true ∧ ((par (((served mmsbS)).block (⟨31, 15, 60, 0, 0x31⟩
      : FE).sa 4) 2).toNat) % 32 = 0 ∧ ((par (((served mmsbS)).block (⟨31, 15, 60, 0, 0x31⟩ : FE).sa 4) 2).toNat) +
      metaBytes (((⟨31, 15, 60, 0, 0x31⟩ : FE).f.extractLsb' 0 2).toNat) (((⟨31, 15, 60, 0, 0x31⟩ : FE).f.extractLsb' 4
      2).toNat) ≤ ((served mmsbS)).scrBytes ∧ ((served mmsbS)).beyondAll ((sideA (ent 0 64 64 64 3 0) (par (((served
      mmsbS)).block (⟨31, 15, 60, 0, 0x31⟩ : FE).sa 4) 1) 64).rngs 64 64) = [] ∧ ((((⟨31, 15, 60, 0, 0x31⟩ :
      FE).f.extractLsb' 0 2).toNat) = 1 → ((served mmsbS)).beyondAll (if (((⟨31, 15, 60, 0, 0x31⟩ : FE).f.extractLsb' 0
      2).toNat) == 1 then ((ent 4096 64 64 64 3 0).side (par (((served mmsbS)).block (⟨31, 15, 60, 0, 0x31⟩ : FE).sa 4)
      3) (fmtBits (ent 4096 64 64 64 3 0).fmt) 1 (16 * (((⟨31, 15, 60, 0, 0x31⟩ : FE).f.extractLsb' 4 2).toNat))
      64).rngs (16 * (((⟨31, 15, 60, 0, 0x31⟩ : FE).f.extractLsb' 4 2).toNat)) 64 else [⟨1, ((par (((served
      mmsbS)).block (⟨31, 15, 60, 0, 0x31⟩ : FE).sa 4) 2).toNat) + metaBytes (((⟨31, 15, 60, 0, 0x31⟩ :
      FE).f.extractLsb' 0 2).toNat) (((⟨31, 15, 60, 0, 0x31⟩ : FE).f.extractLsb' 4 2).toNat), min (4096 * (fmtBits (ent
      4096 64 64 64 3 0).fmt / 8)) (((served mmsbS)).scrBytes - (((par (((served mmsbS)).block (⟨31, 15, 60, 0, 0x31⟩ :
      FE).sa 4) 2).toNat) + metaBytes (((⟨31, 15, 60, 0, 0x31⟩ : FE).f.extractLsb' 0 2).toNat) (((⟨31, 15, 60, 0, 0x31⟩
      : FE).f.extractLsb' 4 2).toNat)))⟩] : List Rng) = []) ∧ mmsbM.canSpend ((served mmsbS)) (2 ^ (⟨31, 15, 60, 0,
      0x31⟩ : FE).ec.toNat) = true ∧ rangesFit mmsbM ((served mmsbS)) (⟨1, ((par (((served mmsbS)).block (⟨31, 15, 60,
      0, 0x31⟩ : FE).sa 4) 2).toNat), metaBytes (((⟨31, 15, 60, 0, 0x31⟩ : FE).f.extractLsb' 0 2).toNat) (((⟨31, 15, 60,
      0, 0x31⟩ : FE).f.extractLsb' 4 2).toNat)⟩ :: (((sideA (ent 0 64 64 64 3 0) (par (((served mmsbS)).block (⟨31, 15,
      60, 0, 0x31⟩ : FE).sa 4) 1) 64).rngs 64 64) ++ (if (((⟨31, 15, 60, 0, 0x31⟩ : FE).f.extractLsb' 0 2).toNat) == 1
      then ((ent 4096 64 64 64 3 0).side (par (((served mmsbS)).block (⟨31, 15, 60, 0, 0x31⟩ : FE).sa 4) 3) (fmtBits
      (ent 4096 64 64 64 3 0).fmt) 1 (16 * (((⟨31, 15, 60, 0, 0x31⟩ : FE).f.extractLsb' 4 2).toNat)) 64).rngs (16 *
      (((⟨31, 15, 60, 0, 0x31⟩ : FE).f.extractLsb' 4 2).toNat)) 64 else [⟨1, ((par (((served mmsbS)).block (⟨31, 15, 60,
      0, 0x31⟩ : FE).sa 4) 2).toNat) + metaBytes (((⟨31, 15, 60, 0, 0x31⟩ : FE).f.extractLsb' 0 2).toNat) (((⟨31, 15,
      60, 0, 0x31⟩ : FE).f.extractLsb' 4 2).toNat), min (4096 * (fmtBits (ent 4096 64 64 64 3 0).fmt / 8)) (((served
      mmsbS)).scrBytes - (((par (((served mmsbS)).block (⟨31, 15, 60, 0, 0x31⟩ : FE).sa 4) 2).toNat) + metaBytes (((⟨31,
      15, 60, 0, 0x31⟩ : FE).f.extractLsb' 0 2).toNat) (((⟨31, 15, 60, 0, 0x31⟩ : FE).f.extractLsb' 4 2).toNat)))⟩] :
      List Rng))) [] 0 := by
  constructorm* _ ∧ _ <;> first | exact found_of_copy (c := line0 (ent 0 64 64 64 3 0) (ent 4096 64 64 64 3 0)) (by decide +kernel) | (unfold runsEngine; decide +kernel) | (unfold rangesFit; decide +kernel) | decide +kernel

def spcmpS : Sheaf := regS h0 [(62, 32768), (63, 0x402)]

def spcmpM : State := desk spcmpS (ent 0 64 64 64 3 0) (ent 4096 64 4 32 3 0) []

theorem witness_SparseCommandsStart_1 :
    runsEngine spcmpM spcmpS (.spcmp (⟨31, 0, 60, 0, 0⟩ : FE)) .spcmp ∧ entryFound spcmpM ((served spcmpS)) ((par (((served
      spcmpS)).block (⟨31, 0, 60, 0, 0⟩ : FE).sa 4) 0).extractLsb' 0 8).toNat (ent 0 64 64 64 3 0) spcmpM ∧ (par
      (((served spcmpS)).block (⟨31, 0, 60, 0, 0⟩ : FE).sa 4) 0).extractLsb' 16 16 = 0 ∧ (par (((served spcmpS)).block
      (⟨31, 0, 60, 0, 0⟩ : FE).sa 4) 3).extractLsb' 16 16 = 0 ∧ (ent 0 64 64 64 3 0).spc = 1 ∧ (ent 0 64 64 64 3 0).lay
      = 0 ∧ sparseFmt (ent 0 64 64 64 3 0).fmt = true ∧ (((par (((served spcmpS)).block (⟨31, 0, 60, 0, 0⟩ : FE).sa 4)
      3).extractLsb' 8 8).toNat) ∈ [2, 4, 8, 16, 32, 64] ∧ 0 < (((par (((served spcmpS)).block (⟨31, 0, 60, 0, 0⟩ :
      FE).sa 4) 3).extractLsb' 0 8).toNat) ∧ (((par (((served spcmpS)).block (⟨31, 0, 60, 0, 0⟩ : FE).sa 4)
      3).extractLsb' 0 8).toNat) ≤ (((par (((served spcmpS)).block (⟨31, 0, 60, 0, 0⟩ : FE).sa 4) 3).extractLsb' 8
      8).toNat) ∧ ((⟨31, 0, 60, 0, 0⟩ : FE).f.getLsbD 0 = true → (((par (((served spcmpS)).block (⟨31, 0, 60, 0, 0⟩ :
      FE).sa 4) 3).extractLsb' 8 8).toNat) = 4 ∧ (((par (((served spcmpS)).block (⟨31, 0, 60, 0, 0⟩ : FE).sa 4)
      3).extractLsb' 0 8).toNat) ≤ 3) ∧ ((par (((served spcmpS)).block (⟨31, 0, 60, 0, 0⟩ : FE).sa 4) 2).toNat) % 32 = 0
      ∧ ((par (((served spcmpS)).block (⟨31, 0, 60, 0, 0⟩ : FE).sa 4) 2).toNat) + (if (⟨31, 0, 60, 0, 0⟩ : FE).f.getLsbD
      0 then 256 * (((par (((served spcmpS)).block (⟨31, 0, 60, 0, 0⟩ : FE).sa 4) 3).extractLsb' 0 8).toNat) + 1024 *
      (((par (((served spcmpS)).block (⟨31, 0, 60, 0, 0⟩ : FE).sa 4) 3).extractLsb' 0 8).toNat) * (fmtBits (ent 0 64 64
      64 3 0).fmt / 8) else 512 + 4096 * (((par (((served spcmpS)).block (⟨31, 0, 60, 0, 0⟩ : FE).sa 4) 3).extractLsb' 0
      8).toNat) / (((par (((served spcmpS)).block (⟨31, 0, 60, 0, 0⟩ : FE).sa 4) 3).extractLsb' 8 8).toNat) * (fmtBits
      (ent 0 64 64 64 3 0).fmt / 8)) ≤ ((served spcmpS)).scrBytes ∧ ((served spcmpS)).beyondAll ((sideA (ent 0 64 64 64
      3 0) (par (((served spcmpS)).block (⟨31, 0, 60, 0, 0⟩ : FE).sa 4) 1) 64).rngs 64 64) = [] ∧ rangesFit spcmpM
      ((served spcmpS)) ((sideA (ent 0 64 64 64 3 0) (par (((served spcmpS)).block (⟨31, 0, 60, 0, 0⟩ : FE).sa 4) 1)
      64).rngs 64 64) [⟨1, ((par (((served spcmpS)).block (⟨31, 0, 60, 0, 0⟩ : FE).sa 4) 2).toNat), (if (⟨31, 0, 60, 0,
      0⟩ : FE).f.getLsbD 0 then 256 * (((par (((served spcmpS)).block (⟨31, 0, 60, 0, 0⟩ : FE).sa 4) 3).extractLsb' 0
      8).toNat) + 1024 * (((par (((served spcmpS)).block (⟨31, 0, 60, 0, 0⟩ : FE).sa 4) 3).extractLsb' 0 8).toNat) *
      (fmtBits (ent 0 64 64 64 3 0).fmt / 8) else 512 + 4096 * (((par (((served spcmpS)).block (⟨31, 0, 60, 0, 0⟩ :
      FE).sa 4) 3).extractLsb' 0 8).toNat) / (((par (((served spcmpS)).block (⟨31, 0, 60, 0, 0⟩ : FE).sa 4)
      3).extractLsb' 8 8).toNat) * (fmtBits (ent 0 64 64 64 3 0).fmt / 8))⟩] 0 := by
  constructorm* _ ∧ _ <;> first | exact found_of_copy (c := line0 (ent 0 64 64 64 3 0) (ent 4096 64 4 32 3 0)) (by decide +kernel) | (unfold runsEngine; decide +kernel) | (unfold rangesFit; decide +kernel) | decide +kernel

def pcomS : Sheaf := regS h0 [(62, 65024), (63, 3)]

def pcomM : State := desk pcomS (ent 0 64 4 32 3 0) (ent 4096 64 4 32 3 0) []

theorem witness_SparseCommandsStart_2 :
    runsEngine pcomM pcomS (.pcomp (⟨31, 0, 62, 0, 1⟩ : FE)) .pcomp ∧ (par (((served pcomS)).block (⟨31, 0, 62, 0, 1⟩ :
      FE).sa 2) 1).extractLsb' 5 27 = 0 ∧ sparseFmt (((par (((served pcomS)).block (⟨31, 0, 62, 0, 1⟩ : FE).sa 2)
      1).extractLsb' 0 5).toNat) = true ∧ rangesFit pcomM ((served pcomS)) [] [] 0 ∧ (⟨31, 0, 62, 0, 1⟩ :
      FE).f.extractLsb' 0 2 ≠ 0 := by
  constructorm* _ ∧ _ <;> first | exact found_of_copy (c := line0 (ent 0 64 4 32 3 0) (ent 4096 64 4 32 3 0)) (by decide +kernel) | (unfold runsEngine; decide +kernel) | (unfold rangesFit; decide +kernel) | decide +kernel

def pcompS : Sheaf := regS h0 [(62, 65024), (63, 3)]

def pcompM : State := desk pcompS (ent 0 64 4 32 3 0) (ent 4096 64 4 32 3 0) []

theorem witness_SparseCommandsStart_3 :
    runsEngine pcompM pcompS (.pcomp (⟨31, 0, 62, 0, 0⟩ : FE)) .pcomp ∧ (par (((served pcompS)).block (⟨31, 0, 62, 0, 0⟩ :
      FE).sa 2) 1).extractLsb' 5 27 = 0 ∧ sparseFmt (((par (((served pcompS)).block (⟨31, 0, 62, 0, 0⟩ : FE).sa 2)
      1).extractLsb' 0 5).toNat) = true ∧ rangesFit pcompM ((served pcompS)) [] [] 0 ∧ (⟨31, 0, 62, 0, 0⟩ :
      FE).f.extractLsb' 0 2 = 0 ∧ ((par (((served pcompS)).block (⟨31, 0, 62, 0, 0⟩ : FE).sa 2) 0).toNat) % 32 = 0 ∧
      ((par (((served pcompS)).block (⟨31, 0, 62, 0, 0⟩ : FE).sa 2) 0).toNat) + 512 ≤ ((served pcompS)).scrBytes := by
  constructorm* _ ∧ _ <;> first | exact found_of_copy (c := line0 (ent 0 64 4 32 3 0) (ent 4096 64 4 32 3 0)) (by decide +kernel) | (unfold runsEngine; decide +kernel) | (unfold rangesFit; decide +kernel) | decide +kernel

def pinwS : Sheaf := regS h0 [(62, 65024), (63, 3)]

def pinwM : State := desk pinwS (ent 0 64 4 32 3 0) (ent 4096 64 4 32 3 0) []

theorem witness_SparseCommandsStart_4 :
    runsEngine pinwM pinwS (.pinv (⟨0, 0, 62, 0, 1⟩ : FE)) .pcomp ∧ (par (((served pinwS)).block (⟨0, 0, 62, 0, 1⟩ : FE).sa
      2) 1).extractLsb' 5 27 = 0 ∧ sparseFmt ((par (((served pinwS)).block (⟨0, 0, 62, 0, 1⟩ : FE).sa 2) 1).extractLsb'
      0 5).toNat = true ∧ (⟨0, 0, 62, 0, 1⟩ : FE).f.extractLsb' 0 2 ≠ 0 := by
  constructorm* _ ∧ _ <;> first | exact found_of_copy (c := line0 (ent 0 64 4 32 3 0) (ent 4096 64 4 32 3 0)) (by decide +kernel) | (unfold runsEngine; decide +kernel) | (unfold rangesFit; decide +kernel) | decide +kernel

def pinvS : Sheaf := regS h0 [(62, 65024), (63, 3)]

def pinvM : State := desk pinvS (ent 0 64 4 32 3 0) (ent 4096 64 4 32 3 0) []

theorem witness_SparseCommandsStart_5 :
    runsEngine pinvM pinvS (.pinv (⟨0, 0, 62, 0, 0⟩ : FE)) .pcomp ∧ (par (((served pinvS)).block (⟨0, 0, 62, 0, 0⟩ : FE).sa
      2) 1).extractLsb' 5 27 = 0 ∧ sparseFmt ((par (((served pinvS)).block (⟨0, 0, 62, 0, 0⟩ : FE).sa 2) 1).extractLsb'
      0 5).toNat = true ∧ (⟨0, 0, 62, 0, 0⟩ : FE).f.extractLsb' 0 2 = 0 ∧ ((par (((served pinvS)).block (⟨0, 0, 62, 0,
      0⟩ : FE).sa 2) 0).toNat) % 32 = 0 ∧ ((par (((served pinvS)).block (⟨0, 0, 62, 0, 0⟩ : FE).sa 2) 0).toNat) + 512 ≤
      ((served pinvS)).scrBytes := by
  constructorm* _ ∧ _ <;> first | exact found_of_copy (c := line0 (ent 0 64 4 32 3 0) (ent 4096 64 4 32 3 0)) (by decide +kernel) | (unfold runsEngine; decide +kernel) | (unfold rangesFit; decide +kernel) | decide +kernel

def nnzS : Sheaf := regS h0 [(60, 0)]

def nnzM : State := desk nnzS (ent 0 64 64 64 3 0) (ent 4096 64 4 32 3 0) []

theorem witness_SparseCommandsStart_6 :
    runsEngine nnzM nnzS (.nnz (⟨0, 0, 60, 0, 0⟩ : FE)) .nnz ∧ entryFound nnzM ((served nnzS)) ((par (((served nnzS)).block
      (⟨0, 0, 60, 0, 0⟩ : FE).sa 2) 0).extractLsb' 0 8).toNat (ent 0 64 64 64 3 0) nnzM ∧ (par (((served nnzS)).block
      (⟨0, 0, 60, 0, 0⟩ : FE).sa 2) 0).extractLsb' 16 16 = 0 ∧ ((served nnzS)).beyondAll (if (ent 0 64 64 64 3 0).lay ==
      0 then ((ent 0 64 64 64 3 0).side (par (((served nnzS)).block (⟨0, 0, 60, 0, 0⟩ : FE).sa 2) 1) (fmtBits (ent 0 64
      64 64 3 0).fmt) 1 (ent 0 64 64 64 3 0).trow (ent 0 64 64 64 3 0).tcol).rngs (ent 0 64 64 64 3 0).trow (ent 0 64 64
      64 3 0).tcol else if (ent 0 64 64 64 3 0).lay == 1 then [⟨(ent 0 64 64 64 3 0).spc, ((ent 0 64 64 64 3 0).side
      (par (((served nnzS)).block (⟨0, 0, 60, 0, 0⟩ : FE).sa 2) 1) (fmtBits (ent 0 64 64 64 3 0).fmt) 1 (ent 0 64 64 64
      3 0).trow (ent 0 64 64 64 3 0).tcol).at (ent 0 64 64 64 3 0).base, 512⟩] else [⟨(ent 0 64 64 64 3 0).spc, ((ent 0
      64 64 64 3 0).side (par (((served nnzS)).block (⟨0, 0, 60, 0, 0⟩ : FE).sa 2) 1) (fmtBits (ent 0 64 64 64 3 0).fmt)
      1 (ent 0 64 64 64 3 0).trow (ent 0 64 64 64 3 0).tcol).at (ent 0 64 64 64 3 0).base, if natAt (nnzM.peek ((served
      nnzS)) (ent 0 64 64 64 3 0) 16) 3 1 == 1 then 16 + 4096 * (fmtBits (natAt (nnzM.peek ((served nnzS)) (ent 0 64 64
      64 3 0) 16) 2 1) / 8) else 16⟩] : List Rng) = [] ∧ rangesFit nnzM ((served nnzS)) (if (ent 0 64 64 64 3 0).lay ==
      0 then ((ent 0 64 64 64 3 0).side (par (((served nnzS)).block (⟨0, 0, 60, 0, 0⟩ : FE).sa 2) 1) (fmtBits (ent 0 64
      64 64 3 0).fmt) 1 (ent 0 64 64 64 3 0).trow (ent 0 64 64 64 3 0).tcol).rngs (ent 0 64 64 64 3 0).trow (ent 0 64 64
      64 3 0).tcol else if (ent 0 64 64 64 3 0).lay == 1 then [⟨(ent 0 64 64 64 3 0).spc, ((ent 0 64 64 64 3 0).side
      (par (((served nnzS)).block (⟨0, 0, 60, 0, 0⟩ : FE).sa 2) 1) (fmtBits (ent 0 64 64 64 3 0).fmt) 1 (ent 0 64 64 64
      3 0).trow (ent 0 64 64 64 3 0).tcol).at (ent 0 64 64 64 3 0).base, 512⟩] else [⟨(ent 0 64 64 64 3 0).spc, ((ent 0
      64 64 64 3 0).side (par (((served nnzS)).block (⟨0, 0, 60, 0, 0⟩ : FE).sa 2) 1) (fmtBits (ent 0 64 64 64 3 0).fmt)
      1 (ent 0 64 64 64 3 0).trow (ent 0 64 64 64 3 0).tcol).at (ent 0 64 64 64 3 0).base, if natAt (nnzM.peek ((served
      nnzS)) (ent 0 64 64 64 3 0) 16) 3 1 == 1 then 16 + 4096 * (fmtBits (natAt (nnzM.peek ((served nnzS)) (ent 0 64 64
      64 3 0) 16) 2 1) / 8) else 16⟩] : List Rng) [] 0 := by
  constructorm* _ ∧ _ <;> first | exact found_of_copy (c := line0 (ent 0 64 64 64 3 0) (ent 4096 64 4 32 3 0)) (by decide +kernel) | (unfold runsEngine; decide +kernel) | (unfold rangesFit; decide +kernel) | decide +kernel

def wnwS : Sheaf := regS h0 [(63, 65504)]

def wnwM : State := desk wnwS (ent 0 64 64 32 3 0) (ent 4096 64 4 32 3 0) (Mem.write [] 65504 (natLe 32 (8192 + 32 * 2 ^ 32 + 2 ^ 48 + 16384 * 2 ^ 64 + 0xFFFFFFFF * 2 ^ 96 + 0xFFFFFFFF * 2 ^ 192)))

theorem witness_SparseCommandsStart_7 :
    runsEngine wnwM wnwS (.wnw (⟨31, 0, 58, 0, 0⟩ : FE)) .wnw ∧ entryFound wnwM ((served wnwS)) ((par (((served wnwS)).block
      (⟨31, 0, 58, 0, 0⟩ : FE).sa 6) 0).extractLsb' 0 8).toNat (ent 0 64 64 32 3 0) wnwM ∧ (par (((served wnwS)).block
      (⟨31, 0, 58, 0, 0⟩ : FE).sa 6) 0).extractLsb' 16 16 = 0 ∧ (ent 0 64 64 32 3 0).spc = 1 ∧ (ent 0 64 64 32 3 0).lay
      = 0 ∧ (ent 0 64 64 32 3 0).trow ≤ 64 ∧ (ent 0 64 64 32 3 0).tcol * fmtBits (ent 0 64 64 32 3 0).fmt = 8 *
      (Winnow.ofBytes (wnwM.scrRead (((served wnwS)).scrAbs ((par (((served wnwS)).block (⟨31, 0, 58, 0, 0⟩ : FE).sa 6)
      5).toNat)) 32)).rb ∧ ((served wnwS)).winnowChecks (Winnow.ofBytes (wnwM.scrRead (((served wnwS)).scrAbs ((par
      (((served wnwS)).block (⟨31, 0, 58, 0, 0⟩ : FE).sa 6) 5).toNat)) 32)) ((par (((served wnwS)).block (⟨31, 0, 58, 0,
      0⟩ : FE).sa 6) 5).toNat) ((⟨31, 0, 58, 0, 0⟩ : FE).f.getLsbD 2) = [] ∧ ((served wnwS)).beyondAll (((ent 0 64 64 32
      3 0).side (par (((served wnwS)).block (⟨31, 0, 58, 0, 0⟩ : FE).sa 6) 1) (fmtBits (ent 0 64 64 32 3 0).fmt) 1 (ent
      0 64 64 32 3 0).trow (ent 0 64 64 32 3 0).tcol).rngs (ent 0 64 64 32 3 0).trow (ent 0 64 64 32 3 0).tcol) = [] ∧
      rangesFit wnwM ((served wnwS)) (((ent 0 64 64 32 3 0).side (par (((served wnwS)).block (⟨31, 0, 58, 0, 0⟩ : FE).sa
      6) 1) (fmtBits (ent 0 64 64 32 3 0).fmt) 1 (ent 0 64 64 32 3 0).trow (ent 0 64 64 32 3 0).tcol).rngs (ent 0 64 64
      32 3 0).trow (ent 0 64 64 32 3 0).tcol) ((Winnow.ofBytes (wnwM.scrRead (((served wnwS)).scrAbs ((par (((served
      wnwS)).block (⟨31, 0, 58, 0, 0⟩ : FE).sa 6) 5).toNat)) 32)).rngs ((par (((served wnwS)).block (⟨31, 0, 58, 0, 0⟩ :
      FE).sa 6) 5).toNat) ((⟨31, 0, 58, 0, 0⟩ : FE).f.getLsbD 2)) 0 := by
  constructorm* _ ∧ _ <;> first | exact found_of_copy (c := line0 (ent 0 64 64 32 3 0) (ent 4096 64 4 32 3 0)) (by decide +kernel) | (unfold runsEngine; decide +kernel) | (unfold rangesFit; decide +kernel) | decide +kernel

def wnfS : Sheaf := regS h0 [(62, 65504)]

def wnfM : State := desk wnfS (ent 0 64 4 32 3 0) (ent 4096 64 4 32 3 0) (Mem.write [] 65504 (natLe 32 (8192 + 32 * 2 ^ 32 + 2 ^ 48 + 16384 * 2 ^ 64 + 0xFFFFFFFF * 2 ^ 96 + 0xFFFFFFFF * 2 ^ 192)))

theorem witness_SparseCommandsStart_8 :
    runsEngine wnfM wnfS (.wnf (⟨31, 0, 62, 0, 0⟩ : FE)) .wnf ∧ ((served wnfS)).winnowChecks (Winnow.ofBytes (wnfM.scrRead
      (((served wnfS)).scrAbs ((par (((served wnfS)).block (⟨31, 0, 62, 0, 0⟩ : FE).sa 1) 0).toNat)) 32)) ((par
      (((served wnfS)).block (⟨31, 0, 62, 0, 0⟩ : FE).sa 1) 0).toNat) false = [] ∧ rangesFit wnfM ((served wnfS)) []
      ((Winnow.ofBytes (wnfM.scrRead (((served wnfS)).scrAbs ((par (((served wnfS)).block (⟨31, 0, 62, 0, 0⟩ : FE).sa 1)
      0).toNat)) 32)).rngs ((par (((served wnfS)).block (⟨31, 0, 62, 0, 0⟩ : FE).sa 1) 0).toNat) false) 0 := by
  constructorm* _ ∧ _ <;> first | exact found_of_copy (c := line0 (ent 0 64 4 32 3 0) (ent 4096 64 4 32 3 0)) (by decide +kernel) | (unfold runsEngine; decide +kernel) | (unfold rangesFit; decide +kernel) | decide +kernel

/-! ### Witnesses: engine steps -/

theorem witness_EngineStepsMoveData_1 :
    opRuns (ran copyOp h0 []) (9 : Nat) copyOp h0 ∧ copyOp.pathOpen = false ∧ copyOp.failed = false ∧ (copyOp.kind.isWinnow
      = true → (ran copyOp h0 []).slotTurn copyOp = true) ∧ ((ran copyOp h0 []).needs copyOp)[(0 : Nat)]? = some (⟨1, 0,
      32⟩ : Rng) ∧ copyOp.got (⟨1, 0, 32⟩ : Rng) = false ∧ ((ran copyOp h0 []).requests.any fun c => c.kind == .opRead
      copyOp.id (⟨1, 0, 32⟩ : Rng).key) = false ∧ (⟨1, 0, 32⟩ : Rng).sp = 1 ∧ (ran copyOp h0 []).scrBad (h0.scrAbs (⟨1,
      0, 32⟩ : Rng).a) (min (⟨1, 0, 32⟩ : Rng).n (h0.scrBytes - (⟨1, 0, 32⟩ : Rng).a)) = false ∧ copyOp.stale = [] := by
  unfold opRuns
  decide +kernel

theorem witness_EngineStepsMoveData_11 :
    opRuns (ran fromOp h0 []) (9 : Nat) fromOp h0 ∧ (ran fromOp h0 []).wantsLine fromOp (1024 : Nat) = true ∧ fromOp.susp =
      false ∧ (ran fromOp h0 []).lineHeld fromOp.ctx ((1024 : Nat) * 128) = false ∧ (ran fromOp h0 []).homeOf fromOp.ctx
      ((1024 : Nat) * 128) .read = ((ran fromOp h0 []), .ok home0) ∧ home0.bad = 0 ∧ (ran fromOp h0 []).inFlight ((ran
      fromOp h0 []).l1Of fromOp.core) home0.asid (1024 : Nat) = false ∧ (ran fromOp h0 []).inStacks fromOp.ctx ((1024 :
      Nat) * 128) 128 = false := by
  unfold opRuns
  decide +kernel

theorem witness_EngineStepsMoveData_14 :
    opRuns (ran castOp h0 []) (9 : Nat) castOp h0 ∧ (castOp.xfers.find? fun x => x.idx == (1 : Nat) && x.tgt.isNone &&
      !x.supp) = some (⟨1, none, false⟩ : Xfer) ∧ (ran castOp h0 []).member? h0 (1 : Nat) = none := by
  unfold opRuns
  decide +kernel

theorem witness_EngineStepsMoveData_15 :
    opRuns ({ duo duoA with eng := { m0.eng with ops := [castOp] } } : State) (9 : Nat) castOp duoA ∧ (castOp.xfers.find?
      fun x => x.idx == (1 : Nat) && x.tgt.isNone && !x.supp) = some (⟨1, none, false⟩ : Xfer) ∧
      ({ duo duoA with eng := { m0.eng with ops := [castOp] } } : State).member? duoA (1 : Nat) = some ((⟨1, 2, false⟩ :
      Member), duoB) := by
  unfold opRuns
  decide +kernel

theorem witness_OperationsCompleteInOrder_1 :
    opRuns (ran doneOp h0 []) (9 : Nat) doneOp h0 ∧ doneOp.kind = .bulk ∧ doneOp.shape = some copyShape ∧ copyShape.dst.sp =
      1 ∧ doneOp.code = 0 ∧ doneOp.susp = false ∧ doneOp.xfers = [] ∧ (ran doneOp h0 []).badLine doneOp = none ∧ (ran
      doneOp h0 []).finished doneOp h0 = true ∧ ((ran doneOp h0 []).modOp (9 : Nat) fun x =>
      { x with xfers := [] }).truncation doneOp h0 = none ∧ (doneOp.fl = true → (par doneOp.blk 4).getLsbD 25 = false) ∧
      doneOp.stage = 0 ∧ doneOp.tx = true := by
  unfold opRuns
  decide +kernel

theorem witness_OperationsCompleteInOrder_7 :
    opRuns (ran (loadOp 64) h0 []) (9 : Nat) (loadOp 64) h0 ∧ (loadOp 64).kind ∈ ([.mma, .mmaz, .mmld, .mmst, .mmcv, .mmsp,
      .spcmp, .wnw, .wnf] : List OpKind) ∧ (loadOp 64).code = 0 ∧ (loadOp 64).taint = false ∧ (loadOp 64).susp = false ∧
      (ran (loadOp 64) h0 []).badLine (loadOp 64) = none ∧ (loadOp 64).xfers = [] ∧ (ran (loadOp 64) h0 []).finished
      (loadOp 64) h0 = true := by
  unfold opRuns
  decide +kernel

theorem witness_OperationsCompleteInOrder_8 :
    doneOp.kind ≠ .nnz ∧ doneOp.taint = false ∧ (ran doneOp h0 []).op? doneOp.id = some doneOp := by decide +kernel

theorem witness_OperationsCompleteInOrder_9 :
    opRuns (ran fedOp h0 []) (9 : Nat) fedOp h0 ∧ fedOp.kind ≠ .red ∧ fedOp.failed = false ∧ (ran fedOp h0 []).badLine fedOp
      = none ∧ (ran fedOp h0 []).finished fedOp h0 = false := by
  unfold opRuns
  decide +kernel

theorem witness_MatrixRowsAndPower_1 :
    opRuns (ran (clearOp 63) h0 []) (9 : Nat) (clearOp 63) h0 ∧ (clearOp 63).kind ∈ ([.mma, .mmaz, .mmld, .mmcl] : List
      OpKind) ∧ (clearOp 63).failed = false ∧ (clearOp 63).susp = false ∧ (clearOp 63).rp < 64 ∧ (ran (clearOp 63) h0
      []).tileTurn (clearOp 63) = true ∧ (ran (clearOp 63) h0 []).fed (clearOp 63) = true ∧ ((clearOp 63).kind = .mma →
      h0.rowBad (clearOp 63).tile (clearOp 63).rp = false) := by
  unfold opRuns
  decide +kernel

theorem witness_MatrixRowsAndPower_2 :
    (15 : Nat) < h0.tiles.length ∧ (63 : Nat) < (h0.tile (15 : Nat)).rows.length ∧ (0 : Nat) ≠ (15 : Nat) ∨ (63 : Nat) ≠ (63
      : Nat) := by decide +kernel

theorem witness_MatrixRowsAndPower_3 :
    (63 : Nat) < 64 := by decide +kernel

theorem witness_MatrixRowsAndPower_5 :
    (((ran ({ clearOp 5 with idle := stallTime } : Op) h0 []).matrixRunning (0 : Nat)).filter fun o => stallTime ≤ o.idle) =
      ({ clearOp 5 with idle := stallTime } : Op) :: ([] : List Op) ∧ ({ clearOp 5 with idle := stallTime } : Op).stalls
      = 0 := by decide +kernel

theorem witness_MatrixRowsAndPower_8 :
    (compilingM.eng.pats.find? fun p => p.id == (4 : Nat) && p.core == (0 : Nat) && p.state == .compiling) = some pat0 ∧
      (compilingM.sheaves.find? fun h => h.alloc.id == pat0.alloc && h.core == pat0.core) = some h0 := by decide +kernel

theorem witness_MatrixRowsAndPower_9 :
    ({ m0 with ctl := { m0.ctl with time := 999 } } : State).ctl.time % 1000 ≠ 0 := by decide +kernel

theorem witness_MatrixRowsAndPower_10 :
    (later h0).ctl.time % 1000 = 0 := by decide +kernel

theorem witness_MatrixRowsAndPower_10_budget :
    (later h0).ctl.time % 1000 = 0 ∧ (later h0).ctxs[0]? = some trialCtx ∧ trialCtx.energy[3]? = some ⟨1000, 1000, 0, 0, 0, false, 0⟩ ∧
      0 < (later h0).ctl.time / 1000 := by decide +kernel

/-! ### Witnesses: stooks, subscriptions, nests -/

theorem witness_StookMembership_1 :
    Ready (later h0) h0 (.sjoin (⟨63, 1, 2, 0⟩ : FS3)) ∧ (later h0).released h0 2 = true := by
  constructorm* _ ∧ _ <;> first | exact released_quiet (by decide +kernel) | decide +kernel

theorem witness_StookMembership_2 :
    (duo duoA).stookNamed duoA.ctx (clusterOf duoA.core) (5 : Word) = some (⟨7, 5, 1, 0, false, 0, [⟨0, 1, false⟩, ⟨1, 2,
      false⟩]⟩ : Stook) ∧ (duo duoA).sheaf? duoA.uid = some duoA := by decide +kernel

theorem witness_StookMembership_3 :
    m0.stookNamed h0.ctx (clusterOf h0.core) (0x7FFFFFFF : Word) = none ∧ m0.sheaf? h0.uid = some h0 := by decide +kernel

theorem witness_StookMembership_4 :
    Ready (later h0) h0 (.sleave (⟨63, 0, 0, 0⟩ : FS3)) ∧ (later h0).released h0 2 = true ∧ (later h0).stookOf h0 = none := by
  constructorm* _ ∧ _ <;> first | exact released_quiet (by decide +kernel) | decide +kernel

theorem witness_StookMembership_5 :
    Ready (State.aged (duo duoA)) duoA (.sleave (⟨63, 0, 0, 0⟩ : FS3)) ∧ (State.aged (duo duoA)).released duoA 2 = true ∧
      (State.aged (duo duoA)).stookOf duoA = some (⟨7, 5, 1, 0, false, 0, [⟨0, 1, false⟩, ⟨1, 2, false⟩]⟩) := by
  constructorm* _ ∧ _ <;> first | exact released_quiet (by decide +kernel) | decide +kernel

theorem witness_StookMembership_6 :
    ∀ p ∈ ([Instr.sjoin, Instr.sleave] : List (FS3 → Instr)), ∃ c ∈ ([⟨63, 1, 2, 0⟩, ⟨63, 0, 0, 0⟩] : List FS3), Ready (mach
      asking) asking (p c) ∧ (mach asking).released asking 2 = false := by decide +kernel

theorem witness_StookMembership_7 :
    (((duo duoBar).leaveStook 1).sheaves.any fun h => h.uid == 1 && h.h.any fun x => match x with
      | .bar _ => true
      | _ => false) = true := by decide +kernel

theorem witness_StookMembership_9 :
    Ready m0 h0 (.sinfo (⟨63, 0, 0, 4⟩ : FS3)) ∧ m0.stookOf h0 = none := by decide +kernel

theorem witness_StookMembership_10 :
    Ready (duo duoA) duoA (.sinfo (⟨63, 1, 0, 5⟩ : FS3)) ∧ (duo duoA).stookOf duoA = some (⟨7, 5, 1, 0, false, 0, [⟨0, 1,
      false⟩, ⟨1, 2, false⟩]⟩ : Stook) ∧ duoA.stook = some ((7 : Nat), (0 : Nat)) := by decide +kernel

theorem witness_StookMembership_11 :
    (∀ m ∈ (⟨7, 5, 1, 0, false, 0, [⟨0, 1, false⟩, ⟨63, 2, false⟩]⟩ : Stook).members, m.idx < 64) ∧ (63 : Nat) < 64 := by decide +kernel

theorem witness_SubscriptionsForward_1 :
    Ready m0 h0 (.ssub (⟨63, 2, 4, 0⟩ : FS3)) ∧ (((h0.getS ((⟨63, 2, 4, 0⟩ : FS3).sa.toNat + 1)).toNat) = 0 ∨ 65536 <
      ((h0.getS ((⟨63, 2, 4, 0⟩ : FS3).sa.toNat + 1)).toNat) ∨ ((h0.getS ((⟨63, 2, 4, 0⟩ : FS3).sa.toNat + 1)).toNat) %
      32 ≠ 0 ∨ ((h0.getS (⟨63, 2, 4, 0⟩ : FS3).sa.toNat).toNat) % 32 ≠ 0 ∨ ((h0.getS ((⟨63, 2, 4, 0⟩ : FS3).sb.toNat +
      1)).toNat) % 32 ≠ 0) := by decide +kernel

theorem witness_SubscriptionsForward_2 :
    Ready (mach (regS h0 [(3, 65536), (4, 0)])) (regS h0 [(3, 65536), (4, 0)]) (.ssub (⟨63, 2, 4, 0⟩ : FS3)) ∧ (¬ ((((regS
      h0 [(3, 65536), (4, 0)]).getS ((⟨63, 2, 4, 0⟩ : FS3).sa.toNat + 1)).toNat) = 0 ∨ 65536 < (((regS h0 [(3, 65536),
      (4, 0)]).getS ((⟨63, 2, 4, 0⟩ : FS3).sa.toNat + 1)).toNat) ∨ (((regS h0 [(3, 65536), (4, 0)]).getS ((⟨63, 2, 4, 0⟩
      : FS3).sa.toNat + 1)).toNat) % 32 ≠ 0 ∨ (((regS h0 [(3, 65536), (4, 0)]).getS (⟨63, 2, 4, 0⟩ :
      FS3).sa.toNat).toNat) % 32 ≠ 0 ∨ (((regS h0 [(3, 65536), (4, 0)]).getS ((⟨63, 2, 4, 0⟩ : FS3).sb.toNat +
      1)).toNat) % 32 ≠ 0)) ∧ (mach (regS h0 [(3, 65536), (4, 0)])).member? (regS h0 [(3, 65536), (4, 0)]) (((regS h0
      [(3, 65536), (4, 0)]).getS (⟨63, 2, 4, 0⟩ : FS3).sb.toNat).toNat) = none := by decide +kernel

theorem witness_SubscriptionsForward_3 :
    Ready (duo (regS duoA [(3, 65536), (4, 1)])) (regS duoA [(3, 65536), (4, 1)]) (.ssub (⟨63, 2, 4, 0⟩ : FS3)) ∧ (¬
      ((((regS duoA [(3, 65536), (4, 1)]).getS ((⟨63, 2, 4, 0⟩ : FS3).sa.toNat + 1)).toNat) = 0 ∨ 65536 < (((regS duoA
      [(3, 65536), (4, 1)]).getS ((⟨63, 2, 4, 0⟩ : FS3).sa.toNat + 1)).toNat) ∨ (((regS duoA [(3, 65536), (4, 1)]).getS
      ((⟨63, 2, 4, 0⟩ : FS3).sa.toNat + 1)).toNat) % 32 ≠ 0 ∨ (((regS duoA [(3, 65536), (4, 1)]).getS (⟨63, 2, 4, 0⟩ :
      FS3).sa.toNat).toNat) % 32 ≠ 0 ∨ (((regS duoA [(3, 65536), (4, 1)]).getS ((⟨63, 2, 4, 0⟩ : FS3).sb.toNat +
      1)).toNat) % 32 ≠ 0)) ∧ (duo (regS duoA [(3, 65536), (4, 1)])).member? (regS duoA [(3, 65536), (4, 1)]) (((regS
      duoA [(3, 65536), (4, 1)]).getS (⟨63, 2, 4, 0⟩ : FS3).sb.toNat).toNat) = some ((⟨1, 2, false⟩ : Member), duoB) := by decide +kernel

theorem witness_SubscriptionsForward_4 :
    Ready (subbed .live duoA) duoA (.sunsub (⟨0, 2, 0, 0⟩ : FS3)) := by decide +kernel

theorem witness_SubscriptionsForward_5 :
    Ready m0 h0 (.ssync (⟨0, 2, 0, 0⟩ : FS3)) ∧ ¬ (h0.getS (⟨0, 2, 0, 0⟩ : FS3).sa.toNat = 0xFFFFFFFF) ∧ (∀ p ∈ m0.stk.subs,
      ¬ (fun (p : Sub) => p.subr = h0.uid ∧ ((h0.getS (⟨0, 2, 0, 0⟩ : FS3).sa.toNat = 0xFFFFFFFF) ∨ p.id = (h0.getS (⟨0,
      2, 0, 0⟩ : FS3).sa.toNat).toNat)) p) := by decide +kernel

theorem witness_SubscriptionsForward_6 :
    Ready (subbed .live duoA) duoA (.ssync (⟨0, 2, 0, 0⟩ : FS3)) ∧ ((duoA.getS (⟨0, 2, 0, 0⟩ : FS3).sa.toNat = 0xFFFFFFFF) ∨
      ∃ p ∈ (subbed .live duoA).stk.subs, (fun (p : Sub) => p.subr = duoA.uid ∧ ((duoA.getS (⟨0, 2, 0, 0⟩ :
      FS3).sa.toNat = 0xFFFFFFFF) ∨ p.id = (duoA.getS (⟨0, 2, 0, 0⟩ : FS3).sa.toNat).toNat)) p) ∧ (∀ p ∈ (subbed .live
      duoA).stk.subs, (fun (p : Sub) => p.subr = duoA.uid ∧ ((duoA.getS (⟨0, 2, 0, 0⟩ : FS3).sa.toNat = 0xFFFFFFFF) ∨
      p.id = (duoA.getS (⟨0, 2, 0, 0⟩ : FS3).sa.toNat).toNat)) p → p.state = .live) := by decide +kernel

theorem witness_SubscriptionsForward_7 :
    Ready (subbed .resync duoA) duoA (.ssync (⟨0, 2, 0, 0⟩ : FS3)) ∧ (∃ p ∈ (subbed .resync duoA).stk.subs, (fun (p : Sub)
      => p.subr = duoA.uid ∧ ((duoA.getS (⟨0, 2, 0, 0⟩ : FS3).sa.toNat = 0xFFFFFFFF) ∨ p.id = (duoA.getS (⟨0, 2, 0, 0⟩ :
      FS3).sa.toNat).toNat)) p ∧ p.state ≠ .live) := by decide +kernel

theorem witness_SubscriptionsForward_6_all :
    Ready (mach (regS h0 [(2, 0xFFFFFFFF)])) (regS h0 [(2, 0xFFFFFFFF)]) (.ssync (⟨0, 2, 0, 0⟩ : FS3)) ∧ (((regS h0 [(2,
      0xFFFFFFFF)]).getS (⟨0, 2, 0, 0⟩ : FS3).sa.toNat = 0xFFFFFFFF) ∨ ∃ p ∈ (mach (regS h0 [(2,
      0xFFFFFFFF)])).stk.subs, (fun (p : Sub) => p.subr = (regS h0 [(2, 0xFFFFFFFF)]).uid ∧ (((regS h0 [(2,
      0xFFFFFFFF)]).getS (⟨0, 2, 0, 0⟩ : FS3).sa.toNat = 0xFFFFFFFF) ∨ p.id = ((regS h0 [(2, 0xFFFFFFFF)]).getS (⟨0, 2,
      0, 0⟩ : FS3).sa.toNat).toNat)) p) ∧ (∀ p ∈ (mach (regS h0 [(2, 0xFFFFFFFF)])).stk.subs, (fun (p : Sub) => p.subr =
      (regS h0 [(2, 0xFFFFFFFF)]).uid ∧ (((regS h0 [(2, 0xFFFFFFFF)]).getS (⟨0, 2, 0, 0⟩ : FS3).sa.toNat = 0xFFFFFFFF) ∨
      p.id = ((regS h0 [(2, 0xFFFFFFFF)]).getS (⟨0, 2, 0, 0⟩ : FS3).sa.toNat).toNat)) p → p.state = .live) := by decide +kernel

theorem witness_SubscriptionsForward_8 :
    (subbed .live duoA).sub? (11 : Nat) = some (sub0 .live) ∧ ((sub0 .live).batches.find? fun b => b.id == (12 : Nat)) =
      some (⟨12, 4, [(128, 1)], [2], true⟩ : Batch) ∧ (subbed .live duoA).sheaf? (sub0 .live).subr = some duoA := by decide +kernel

theorem witness_SubscriptionsForward_9 :
    (subbed .resync duoA).sub? (11 : Nat) = some (sub0 .resync) ∧ (subbed .resync duoA).sheaf? (sub0 .resync).pubr = some
      duoB ∧ (subbed .resync duoA).sheaf? (sub0 .resync).subr = some duoA ∧ (sub0 .resync).state = .resync ∧ (sub0
      .resync).dirty.contains (1 : Nat) = true ∧ (subbed .resync duoA).flows (sub0 .resync) = true := by decide +kernel

theorem witness_NestStepsOfALane_1 :
    mapKind (nestL.map (0 : Nat)) < 3 ∧ 0 < nestL.ext (0 : Nat) := by decide +kernel

theorem witness_NestStepsOfALane_3 :
    ∃ c ∈ nestOps, Ready (mach nestS) nestS (.nbeg c) := by decide +kernel

theorem witness_NestStepsOfALane_4 :
    ∃ c ∈ nestOps, Ready (mach nestS) nestS (.nxt c) := by decide +kernel

theorem witness_NestStepsOfALane_6 :
    ∃ c ∈ nestOps, Ready (mach nestS) nestS (.nidx c) := by decide +kernel

theorem witness_NestAgentsMeet_1 :
    Ready (mach nestL) nestL (.nbar (⟨0, 0, 0, 0⟩ : FVI)) ∧ nestL.manyAgents ((⟨0, 0, 0, 0⟩ : FVI).imm.extractLsb' 0
      2).toNat = [] := by decide +kernel

theorem witness_NestAgentsMeet_2 :
    Ready (mach nestS) nestS (.nbar (⟨0, 0, 0, 0⟩ : FVI)) ∧ (nestS.manyAgents (((⟨0, 0, 0, 0⟩ : FVI).imm.extractLsb' 0
      2).toNat)) ≠ [] ∧ (mach nestS).nestReleased nestS (((⟨0, 0, 0, 0⟩ : FVI).imm.extractLsb' 0 2).toNat) = true := by decide +kernel

theorem witness_NestAgentsMeet_4 :
    ((NestSync.fresh 0 0 [0]).arr.any fun a => a.1 == (1023 : Nat)) = false := by decide +kernel

theorem witness_NestAgentsMeet_5 :
    ∃ c ∈ nestOps, Ready (mach nestS) nestS (.nred c) ∧ c.get = false := by decide +kernel

theorem witness_NestAgentsMeet_6 :
    ∃ c ∈ nestOps, Ready (mach nestS) nestS (.nred c) ∧ c.get = true ∧ (nestS.manyAgents ((c.imm.extractLsb' 0 2).toNat) =
      [] ∨ (mach nestS).nestReleased nestS ((c.imm.extractLsb' 0 2).toNat) = true) := by decide +kernel

theorem witness_NestAgentsMeet_7 :
    NestAcc.empty.n = 0 := by decide +kernel

theorem witness_NestAgentsMeet_8 :
    ∃ c ∈ nestOps, Ready (mach nestS) nestS (.nbc c) ∧ ((((nestS.pathAgents ((c.imm.extractLsb' 0 2).toNat)).filter fun a =>
      (a.1.nestAt (((c.imm.extractLsb' 0 2).toNat) + 1)).rc != 0).filter fun a => nestS.agents ((c.imm.extractLsb' 0
      2).toNat) a.2 != 1) = [] ∨ (mach nestS).nestReleased nestS ((c.imm.extractLsb' 0 2).toNat) = true) := by decide +kernel

theorem witness_NestAgentsMeet_9 :
    ∃ c ∈ nestOps, Ready (mach nestS) nestS (.nmap c) := by decide +kernel

theorem witness_NestAgentsMeet_10 :
    ∃ c ∈ nestOps, Ready (mach nestS) nestS (.nllm c) := by decide +kernel

/-! ### Witnesses: tasks, CSRs, mailboxes, launches -/

theorem witness_TaskForms_1 :
    Ready m0 h0 (.spawn (⟨0, 0, 0, 2⟩ : FV3)) ∧ m0.spawnOk h0 (h0.getPair (⟨0, 0, 0, 2⟩ : FV3).b.toNat) = false := by decide +kernel

theorem witness_TaskForms_2 :
    Ready spawning spawner (.spawn (⟨0, 0, 120, 2⟩ : FV3)) ∧ spawning.spawnOk spawner (spawner.getPair (⟨0, 0, 120, 2⟩ :
      FV3).b.toNat) = true ∧ spawning.queued (clusterOf spawner.core) + (spawner.effLanes (.spawn (⟨0, 0, 120, 2⟩ :
      FV3))).length ≤ 16384 ∧ spawning.released spawner 3 = true := by
  constructorm* _ ∧ _ <;> first | exact released_quiet (by decide +kernel) | decide +kernel

theorem witness_TaskForms_3 :
    Ready (posting poster (box 2 [])) poster (.launch (⟨0, 0, 5, 2⟩ : FV3)) ∧ (posting poster (box 2 [])).mbxOf poster.ctx
      (poster.getPair (⟨0, 0, 5, 2⟩ : FV3).b.toNat) = some (box 2 []) ∧ (box 2 []).kind = 2 ∧ ((poster.getS (⟨0, 0, 5,
      2⟩ : FV3).a.toNat).toNat) % 16 = 0 ∧ ((poster.getS (⟨0, 0, 5, 2⟩ : FV3).a.toNat).toNat) + 128 ≤ poster.scrBytes ∧
      (posting poster (box 2 [])).scrBad (poster.scrAbs ((poster.getS (⟨0, 0, 5, 2⟩ : FV3).a.toNat).toNat)) 128 = false
      ∧ (posting poster (box 2 [])).released poster 5 = true := by
  constructorm* _ ∧ _ <;> first | exact released_quiet (by decide +kernel) | decide +kernel

theorem witness_TaskForms_5 :
    Ready (mach poster) poster (.launch (⟨0, 0, 5, 2⟩ : FV3)) ∧ (poster.getS (⟨0, 0, 5, 2⟩ : FV3).a.toNat).toNat % 16 = 0 ∧
      (poster.getS (⟨0, 0, 5, 2⟩ : FV3).a.toNat).toNat + 128 ≤ poster.scrBytes ∧
      (mach poster).mbxOf 1 (poster.getPair 2) = none := by decide +kernel

theorem witness_TaskForms_6 :
    Ready m0 h0 (.tdone (⟨1, 0, 0, 0⟩ : FV3)) := by decide +kernel

theorem witness_CsrForms_1 :
    ∃ c ∈ ([⟨62, 0, 0x22⟩, ⟨63, 0, 0x20⟩] : List FCSR), Ready m0 h0 (.csrr c) := by decide +kernel

theorem witness_CsrForms_2 :
    Ready m0 h0 (.csrw (⟨62, 0, 0x50⟩ : FCSR)) := by decide +kernel

theorem witness_CsrForms_3 :
    Ready m0 h0 (.csrs (⟨62, 0, 0x50⟩ : FCSR)) := by decide +kernel

theorem witness_CsrForms_4 :
    Ready m0 h0 (.csrc (⟨62, 0, 0x50⟩ : FCSR)) := by decide +kernel

theorem witness_CsrForms_5 :
    (0 : Nat) ≠ 0x30 ∧ (0 : Nat) ≠ 0x50 ∧ (0 : Nat) ≠ 0x80 := by decide +kernel

theorem witness_CsrForms_6 :
    m0.ctx? h0.ctx = some trialCtx := by decide +kernel

theorem witness_MailboxForms_1 :
    Ready (posting poster (box 1 [])) poster (.mpost (⟨63, 2, 4, 1⟩ : FS3)) ∧ (posting poster (box 1 [])).mbxArg poster
      (⟨63, 2, 4, 1⟩ : FS3) = some (box 1 []) ∧ 8 ≤ (((poster.getS (⟨63, 2, 4, 1⟩ : FS3).sb.toNat).extractLsb' 24
      8).toNat) ∧ (((poster.getS (⟨63, 2, 4, 1⟩ : FS3).sb.toNat).extractLsb' 24 8).toNat) ≤ 128 ∧ (((poster.getS (⟨63,
      2, 4, 1⟩ : FS3).sb.toNat).extractLsb' 24 8).toNat) % 8 = 0 ∧ (((poster.getS (⟨63, 2, 4, 1⟩ :
      FS3).sb.toNat).extractLsb' 0 19).toNat) % 8 = 0 ∧ (((poster.getS (⟨63, 2, 4, 1⟩ : FS3).sb.toNat).extractLsb' 0
      19).toNat) + (((poster.getS (⟨63, 2, 4, 1⟩ : FS3).sb.toNat).extractLsb' 24 8).toNat) ≤ poster.scrBytes ∧ (posting
      poster (box 1 [])).scrBad (poster.scrAbs (((poster.getS (⟨63, 2, 4, 1⟩ : FS3).sb.toNat).extractLsb' 0 19).toNat))
      (((poster.getS (⟨63, 2, 4, 1⟩ : FS3).sb.toNat).extractLsb' 24 8).toNat) = false ∧ (posting poster (box 1
      [])).released poster 5 = true := by
  constructorm* _ ∧ _ <;> first | exact released_quiet (by decide +kernel) | decide +kernel

theorem witness_MailboxForms_2 :
    Ready (posting poster (box 1 [])) poster (.mtake (⟨63, 2, 5, 1⟩ : FS3)) ∧ (posting poster (box 1 [])).mbxArg poster
      (⟨63, 2, 5, 1⟩ : FS3) = some (box 1 []) ∧ ((poster.getS (⟨63, 2, 5, 1⟩ : FS3).sb.toNat).toNat) % 8 = 0 ∧
      ((poster.getS (⟨63, 2, 5, 1⟩ : FS3).sb.toNat).toNat) + 128 ≤ poster.scrBytes ∧ (poster.mq.any fun e => e.isAcquire
      || e.isRelease) = false ∧ (posting poster (box 1 [])).ownBehind poster = false ∧ (box 1 []).msgs = [] := by decide +kernel

theorem witness_MailboxForms_3 :
    Ready (posting poster (box 1 [[1, 2, 3, 4, 5, 6, 7, 8]])) poster (.mtake (⟨63, 2, 5, 1⟩ : FS3)) ∧ (posting poster (box 1
      [[1, 2, 3, 4, 5, 6, 7, 8]])).mbxArg poster (⟨63, 2, 5, 1⟩ : FS3) = some (box 1 [[1, 2, 3, 4, 5, 6, 7, 8]]) ∧
      ((poster.getS (⟨63, 2, 5, 1⟩ : FS3).sb.toNat).toNat) % 8 = 0 ∧ ((poster.getS (⟨63, 2, 5, 1⟩ :
      FS3).sb.toNat).toNat) + 128 ≤ poster.scrBytes ∧ (poster.mq.any fun e => e.isAcquire || e.isRelease) = false ∧
      (posting poster (box 1 [[1, 2, 3, 4, 5, 6, 7, 8]])).ownBehind poster = false ∧ (box 1 [[1, 2, 3, 4, 5, 6, 7,
      8]]).msgs = ([1, 2, 3, 4, 5, 6, 7, 8] : List Byte) :: ([] : List (List Byte)) := by decide +kernel

theorem witness_MailboxForms_4 :
    Ready (posting poster (box 1 [])) poster (.mpeek (⟨63, 2, 0, 0⟩ : FS3)) ∧ (posting poster (box 1 [])).mbxArg poster
      (⟨63, 2, 0, 0⟩ : FS3) = some (box 1 []) := by decide +kernel

theorem witness_MailboxForms_5 :
    Ready m0 h0 (.mpeek (⟨63, 2, 0, 0⟩ : FS3)) ∧ m0.mbxArg h0 (⟨63, 2, 0, 0⟩ : FS3) = none := by decide +kernel

theorem witness_LaunchesAreCheckedAndAdmitted_1 :
    (posting h0 (box 2 [packet 3 128 0])).mbx? (0 : Nat) = some (box 2 [packet 3 128 0]) ∧ (box 2 [packet 3 128 0]).kind = 2
      ∧ (box 2 [packet 3 128 0]).msgs = (packet 3 128 0) :: ([] : List (List Byte)) ∧ (posting h0 (box 2 [packet 3 128
      0])).ctx? (box 2 [packet 3 128 0]).ctx = some boxedCtx ∧ boxedCtx.stopped = false ∧ natAt (packet 3 128 0) 0 1 ≠ 1
      ∧ wordsOf (packet 3 128 0) = [] ∧ badFields (packet 3 128 0) = true := by decide +kernel

theorem witness_LaunchesAreCheckedAndAdmitted_5 :
    (posting h0 (box 2 [packet 2 128 0])).mbx? (0 : Nat) = some (box 2 [packet 2 128 0]) ∧ (box 2 [packet 2 128 0]).kind = 2
      ∧ (box 2 [packet 2 128 0]).msgs = (packet 2 128 0) :: ([] : List (List Byte)) ∧ (posting h0 (box 2 [packet 2 128
      0])).ctx? (box 2 [packet 2 128 0]).ctx = some boxedCtx ∧ boxedCtx.stopped = false ∧ badFields (packet 2 128 0) =
      false ∧ (posting h0 (box 2 [packet 2 128 0])).checkEntry (box 2 [packet 2 128 0]).ctx (BitVec.ofNat 64 (natAt
      (packet 2 128 0) 8 8)) [.live] = some (trialSeg, (⟨0, 128, 16, 64, 4096, true, true⟩ : EntryRec)) ∧ (⟨0, 128, 16,
      64, 4096, true, true⟩ : EntryRec).launch = true ∧ badRanges (packet 2 128 0) (some (⟨0, 128, 16, 64, 4096, true,
      true⟩ : EntryRec)) = false ∧ (∀ w ∈ wordsOf (packet 2 128 0), (posting h0 (box 2 [packet 2 128 0])).arbAccess (box
      2 [packet 2 128 0]).ctx (dieOfPos (0 : Nat)) w.1 w.2 = ((posting h0 (box 2 [packet 2 128 0])), .ok)) ∧
      natAt (packet 2 128 0) 0 1 ≠ 1 := by decide +kernel

theorem witness_LaunchesAreCheckedAndAdmitted_6 :
    ∃ s1 s2, (depending 0).launch? 3 = some (depLaunch 0) ∧ (depLaunch 0).ready = false ∧ (depLaunch 0).deps.getD 0 true = false ∧
      (depending 0).arbAccess (depLaunch 0).ctx (depLaunch 0).die (depAddr (depLaunch 0).packet 0) false = (s1, .ok) ∧
      s1.globBytes (depLaunch 0).ctx (depAddr (depLaunch 0).packet 0) 4 = (s2, some [0, 0, 0, 0]) :=
  ⟨_, _, by decide +kernel, by decide +kernel, by decide +kernel, pair_of (by decide +kernel), pair_of (by decide +kernel)⟩

theorem witness_LaunchesAreCheckedAndAdmitted_7 :
    (launching evenCtx (launch0 true 0 0)).launch? (3 : Nat) = some (launch0 true 0 0) ∧ (launching evenCtx (launch0 true 0
      0)).ctx? (launch0 true 0 0).ctx = some evenCtx ∧ ((launching evenCtx (launch0 true 0 0)).job.launches.any fun x =>
      x.waits && x.before (launch0 true 0 0) && (List.range 24).any fun k => ((launching evenCtx (launch0 true 0
      0)).tryAdmit x k).isSome) = false ∧ (launching evenCtx (launch0 true 0 0)).coopFirst (launch0 true 0 0) = false ∧
      (launch0 true 0 0).ready = true ∧ (launch0 true 0 0).started < (launch0 true 0 0).n ∧ evenCtx.stopped = false ∧
      (23 : Nat) < 24 ∧ (launch0 true 0 0).coop = false ∧ (launch0 true 0 0).unitN = 0 ∧ (launching evenCtx (launch0
      true 0 0)).budgets evenCtx 1 = true ∧ (launching evenCtx (launch0 true 0 0)).clusterOpen (23 : Nat) (launch0 true
      0 0).ctx (launch0 true 0 0).fused = true ∧ (launching evenCtx (launch0 true 0 0)).partDown 2 (23 : Nat) = false := by
  constructorm* _ ∧ _ <;> first | exact even_budgets | exact rfl | decide +kernel

theorem witness_LaunchesAreCheckedAndAdmitted_8 :
    (mach unplaced).sheaf? (1 : Nat) = some unplaced ∧ unplaced.run = .waiting ∧ clusterOf (47 : Nat) = clusterOf
      unplaced.core ∧ (mach unplaced).ctxStopped unplaced.ctx = false ∧ (mach unplaced).fitsOn (47 : Nat) ((mach
      unplaced).footprint unplaced) = true ∧ (mach unplaced).clusterOpen (clusterOf (47 : Nat)) unplaced.ctx
      unplaced.admitFused = true ∧ unplaced.task = false := by decide +kernel

theorem witness_LaunchesAreCheckedAndAdmitted_10 :
    (tasked.groups (0 : Nat))[(0 : Nat)]? = some ((1 : Nat), cap0) ∧ tasked.seg? (capSeg cap0).toNat = some trialSeg ∧
      trialSeg.elist[(capEnt cap0).toNat]? = some (⟨0, 128, 16, 64, 4096, true, true⟩ : EntryRec) ∧ tasked.ctxStopped (1
      : Nat) = false ∧ (((tasked.job.tasks.filter (fun (t : Nat × Task) => t.1 == (0 : Nat) && t.2.ctx == (1 : Nat) &&
      t.2.cap == cap0)).map (·.2)).take 32) ≠ [] ∧ (∀ t ∈ (((tasked.job.tasks.filter (fun (t : Nat × Task) => t.1 == (0
      : Nat) && t.2.ctx == (1 : Nat) && t.2.cap == cap0)).map (·.2)).take 32), t.regs.length = 8) ∧
      task0.at_ + 2000 ≤ tasked.ctl.time := by decide +kernel

theorem witness_LaunchesAreCheckedAndAdmitted_12 :
    (mach leaving).sheaf? (1 : Nat) = some leaving ∧ leaving.run = .draining := by decide +kernel

theorem witness_LaunchesAreCheckedAndAdmitted_13 :
    (launching trialCtx (launch0 true 0 0)).launch? (3 : Nat) = some (launch0 true 0 0) ∧ (launching trialCtx (launch0 true
      0 0)).launchOver (launch0 true 0 0) = false ∨ (launching trialCtx (launch0 true 0 0)).ctxStopped (launch0 true 0
      0).ctx = true := by decide +kernel

theorem witness_LaunchesAreCheckedAndAdmitted_14 :
    (launching trialCtx (launch0 true 1 0)).launch? (3 : Nat) = some (launch0 true 1 0) ∧ (launching trialCtx (launch0 true
      1 0)).launchOver (launch0 true 1 0) = true ∧ (launching trialCtx (launch0 true 1 0)).ctxStopped (launch0 true 1
      0).ctx = false ∧ (natAt (launch0 true 1 0).packet 56 8) = 0 := by decide +kernel

theorem witness_LaunchesAreCheckedAndAdmitted_16 :
    (launching trialCtx (launch0 true 1 0x2007C)).launch? (3 : Nat) = some (launch0 true 1 0x2007C) ∧ (launching trialCtx
      (launch0 true 1 0x2007C)).launchOver (launch0 true 1 0x2007C) = true ∧ (launching trialCtx (launch0 true 1
      0x2007C)).ctxStopped (launch0 true 1 0x2007C).ctx = false ∧ (natAt (launch0 true 1 0x2007C).packet 56 8) ≠ 0 ∧
      (launching trialCtx (launch0 true 1 0x2007C)).lineHeld (launch0 true 1 0x2007C).ctx (natAt (launch0 true 1
      0x2007C).packet 56 8) = false ∧ (launching trialCtx (launch0 true 1 0x2007C)).homeOf (launch0 true 1 0x2007C).ctx
      (natAt (launch0 true 1 0x2007C).packet 56 8) .both = ((launching trialCtx (launch0 true 1 0x2007C)), .ok home0) ∧
      home0.badAt ((natAt (launch0 true 1 0x2007C).packet 56 8) % 128) 4 = false := by decide +kernel

/-! ### Witnesses: stops and commands -/

theorem witness_StopsAndResumes_1 :
    (∀ u ∈ m0.groupOf ([1] : List Nat), ∀ h, m0.sheaf? u = some h → h.stopAtOnce = none) := by decide +kernel

theorem witness_StopsAndResumes_2 :
    (mach resting0).sheaf? (1 : Nat) = some resting0 ∧ resting0.stop = some (⟨5, false⟩ : StopReq) ∧ resting0.stopAtOnce =
      some (3 : Nat) := by decide +kernel

theorem witness_StopsAndResumes_3 :
    (State.aged (mach overdue)).sheaf? (1 : Nat) = some overdue ∧ overdue.stop = some (⟨0, true⟩ : StopReq) ∧
      overdue.stopAtOnce = none ∧ (⟨0, true⟩ : StopReq).due = true ∧ overdue.run = .running ∧ overdue.chain.pc0 = none ∧
      (State.aged (mach overdue)).quietToStop overdue = true := by
  constructorm* _ ∧ _ <;> first | exact (quiet_of (by decide +kernel)).1 | decide +kernel

theorem witness_StopsAndResumes_4 :
    (mach asked0).sheaf? (1 : Nat) = some asked0 ∧ asked0.stop = some (⟨5, false⟩ : StopReq) ∧ asked0.stopAtOnce = none ∧
      (⟨5, false⟩ : StopReq).due = false := by decide +kernel

theorem witness_StopsAndResumes_5 :
    m0.sheaf? (1 : Nat) = some h0 ∧ 2 ≠ (1 : Nat) := by decide +kernel

theorem witness_StopsAndResumes_7 :
    ∃ k ∈ ((duo duoA).stopNow duoA 2 none 0).stk.stooks, ∃ m ∈ k.members, (duo duoA).sheaf? (1 : Nat) = some duoA ∧ m.uid =
      (1 : Nat) := by decide +kernel

theorem witness_StopsAndResumes_8 :
    waitsOut.sheaf? (1 : Nat) = some stopped0 ∧ stopped0.run = .stopped (2 : Nat) none ∧ waitsOut.groupOf [(1 : Nat)] = [(1
      : Nat)] ∧ waitsOut.ctx? stopped0.ctx = some roomyCtx ∧ roomyCtx.stopped = false ∧ stopped0.queued = false ∧
      waitsOut.partDown 1 stopped0.core = false ∧ waitsOut.budgets roomyCtx 1 = true ∧ (1151 : Nat) < nCores ∧
      waitsOut.stookOf stopped0 = none ∧ waitsOut.takesOps (1151 : Nat) (1 : Nat) = true ∧ waitsOut.fitsOn (1151 : Nat)
      (waitsOut.footprint stopped0) = true ∧ waitsOut.clusterOpen (clusterOf (1151 : Nat)) stopped0.ctx
      stopped0.admitFused = true := by
  constructorm* _ ∧ _ <;> first | exact even_budgets_of ⟨by decide +kernel, by decide +kernel, rfl, by decide +kernel⟩ | exact rfl | decide +kernel

theorem witness_StopsAndResumes_11 :
    (State.aged m0).sheaf? (1 : Nat) = some h0 ∧ h0.run = .running ∧ h0.chain.pc0 = none ∧ h0.seqr = false ∧ (47 : Nat) ≠
      h0.core ∧ clusterOf (47 : Nat) = clusterOf h0.core ∧ ((State.aged m0).stk.subs.any fun p => (p.subr == (1 : Nat)
      || p.pubr == (1 : Nat)) && !p.batches.isEmpty) = false ∧ (State.aged m0).quietToMove h0 = true ∧ (State.aged
      m0).takesOps (47 : Nat) (1 : Nat) = true ∧ (State.aged m0).fitsOn (47 : Nat) ((State.aged m0).footprint h0) = true := by
  constructorm* _ ∧ _ <;> first | exact (quiet_of (by decide +kernel)).2 | decide +kernel

theorem witness_ContextCommands_1 :
    headCommand (told pinning 1 (cmd1 0x20000 128)) 1 (cmd1 0x20000 128) (port 1 (cmd1 0x20000 128)) ([] : List (List Byte))
      ∧ (cmdTaken (told pinning 1 (cmd1 0x20000 128)) 1 (cmd1 0x20000 128) (port 1 (cmd1 0x20000 128)) ([] : List (List
      Byte))).ctx? (cmd1 0x20000 128).ctx.toNat = some trialCtx ∧ (cmdTaken (told pinning 1 (cmd1 0x20000 128)) 1 (cmd1
      0x20000 128) (port 1 (cmd1 0x20000 128)) ([] : List (List Byte))).shootNow (cmd1 0x20000 128) = none := by
  constructorm* _ ∧ _ <;> first | exact head_of (by decide +kernel) | decide +kernel

theorem witness_ContextCommands_2 :
    let c := cmd1 0x20000 128
    headCommand (told (atHome h0) 1 c) 1 c (port 1 c) [] ∧ (cmdTaken (told (atHome h0) 1 c) 1 c (port 1 c) []).ctx? 1 = some trialCtx ∧
    ∃ u k, (cmdTaken (told (atHome h0) 1 c) 1 c (port 1 c) []).shootNow c = some (u, k) ∧
      ∀ o ∈ (cmdTaken (told (atHome h0) 1 c) 1 c (port 1 c) []).eng.ops, o.pinsIn 1 0x20000 128 = false :=
  ⟨head_of (by decide +kernel), by decide +kernel, _, _, rfl, by decide +kernel⟩

theorem witness_ContextCommands_4 :
    ∃ o ∈ pinning.eng.ops, o.pinsIn (pinning.asidOf 1) 0x20000 128 = true := by decide +kernel

theorem witness_ContextCommands_5 :
    headCommand (told m0 2 (cmd1 0 0)) 2 (cmd1 0 0) (port 2 (cmd1 0 0)) ([] : List (List Byte)) ∧ (cmdTaken (told m0 2 (cmd1
      0 0)) 2 (cmd1 0 0) (port 2 (cmd1 0 0)) ([] : List (List Byte))).ctx? (cmd1 0 0).ctx.toNat = some trialCtx ∧ (∀ h ∈
      (cmdTaken (told m0 2 (cmd1 0 0)) 2 (cmd1 0 0) (port 2 (cmd1 0 0)) ([] : List (List Byte))).sheaves, h.ctx =
      trialCtx.id → h.run ≠ .waiting) := by
  constructorm* _ ∧ _ <;> first | exact head_of (by decide +kernel) | decide +kernel

theorem witness_ContextCommands_6 :
    headCommand (told m0 3 (cmd1 0 0)) 3 (cmd1 0 0) (port 3 (cmd1 0 0)) ([] : List (List Byte)) ∧ imageRecs ((cmdTaken (told
      m0 3 (cmd1 0 0)) 3 (cmd1 0 0) (port 3 (cmd1 0 0)) ([] : List (List Byte))).backRead false (cmd1 0 0).a.toNat (cmd1
      0 0).b.toNat) = none := by
  constructorm* _ ∧ _ <;> first | exact head_of (by decide +kernel) | decide +kernel

theorem witness_ContextCommands_8 :
    headCommand (told m0 4 (cmd1 0 0)) 4 (cmd1 0 0) (port 4 (cmd1 0 0)) ([] : List (List Byte)) := head_of (by decide +kernel)

theorem witness_ContextCommands_9 :
    headCommand (told m0 5 (cmd1 0 0x200)) 5 (cmd1 0 0x200) (port 5 (cmd1 0 0x200)) ([] : List (List Byte)) ∧ (cmdTaken
      (told m0 5 (cmd1 0 0x200)) 5 (cmd1 0 0x200) (port 5 (cmd1 0 0x200)) ([] : List (List Byte))).ctx? (cmd1 0
      0x200).ctx.toNat = some trialCtx := by
  constructorm* _ ∧ _ <;> first | exact head_of (by decide +kernel) | decide +kernel

theorem witness_ContextCommands_10 :
    headCommand (told m0 6 (cmd1 0 0)) 6 (cmd1 0 0) (port 6 (cmd1 0 0)) ([] : List (List Byte)) ∧ (cmdTaken (told m0 6 (cmd1
      0 0)) 6 (cmd1 0 0) (port 6 (cmd1 0 0)) ([] : List (List Byte))).ctx? (cmd1 0 0).ctx.toNat = some trialCtx := by
  constructorm* _ ∧ _ <;> first | exact head_of (by decide +kernel) | decide +kernel

theorem witness_ContextCommands_11 :
    ((running m0 (cmdRun0 4 5 1)).sys.cmds.find? fun r => r.id == (9 : Nat)) = some (cmdRun0 4 5 1) ∧ (cmdRun0 4 5 1).status
      ≠ 0 := by decide +kernel

theorem witness_ContextCommands_16 :
    ((running m0 (cmdRun0 4 0 1)).sys.cmds.find? fun r => r.id == (9 : Nat)) = some (cmdRun0 4 0 1) ∧ (cmdRun0 4 0 1).status
      = 0 ∧ (cmdRun0 4 0 1).op = 4 ∧ ((running m0 (cmdRun0 4 0 1)).sheaf? (cmdRun0 4 0 1).until_).isSome = true := by decide +kernel

theorem witness_ContextCommands_17 :
    ((running m0 (cmdRun0 4 0 7)).sys.cmds.find? fun r => r.id == (9 : Nat)) = some (cmdRun0 4 0 7) ∧ (cmdRun0 4 0 7).status
      = 0 ∧ (cmdRun0 4 0 7).op = 4 ∧ (running m0 (cmdRun0 4 0 7)).sheaf? (cmdRun0 4 0 7).until_ = none := by decide +kernel

theorem witness_ContextCommands_18 :
    ((running m0 (cmdRun0 2 0 0)).sys.cmds.find? fun r => r.id == (9 : Nat)) = some (cmdRun0 2 0 0) ∧ (cmdRun0 2 0 0).status
      = 0 ∧ (cmdRun0 2 0 0).op = 2 ∧ (running m0 (cmdRun0 2 0 0)).atRest (cmdRun0 2 0 0).cmd.ctx.toNat = false := by decide +kernel

theorem witness_ContextCommands_19 :
    ((running (mach stopped0) (cmdRun0 2 0 0)).sys.cmds.find? fun r => r.id == (9 : Nat)) = some (cmdRun0 2 0 0) ∧ (cmdRun0
      2 0 0).status = 0 ∧ (cmdRun0 2 0 0).op = 2 ∧ (running (mach stopped0) (cmdRun0 2 0 0)).atRest (cmdRun0 2 0
      0).cmd.ctx.toNat = true ∧ (running (mach stopped0) (cmdRun0 2 0 0)).ctx? (cmdRun0 2 0 0).cmd.ctx.toNat = some
      trialCtx := by decide +kernel

theorem witness_ContextCommands_7 :
    let c := cmd1 0x40000 640
    let t := cmdTaken loading 3 c (port 3 c) []
    headCommand loading 3 c (port 3 c) [] ∧ ∃ rs, imageRecs (t.backRead false c.a.toNat c.b.toNat) = some rs ∧
      let x := ctxOf ((bodiesOf rs 1).headD []) t.ctl.time
      let new : Ctx := { x with objs := [], resolver := 0 }
      let g := State.globBytes { t with ctxs := t.ctxs ++ [new] } x.id x.sgrantVa 8192
      (t.ctxs.any fun y => y.live && (y.asid == x.asid || y.id == x.id)) = false ∧
      g.1.segsBad rs (grantsOf (g.2.getD [])) = false ∧ g.1.ctxBad x = false :=
  ⟨head_of (by decide +kernel), loads_spec (by decide +kernel)⟩

theorem witness_RepairAndPortCommands_1 :
    headCommand (told (slmed h0) 7 (cmd1 65024 0x101)) 7 (cmd1 65024 0x101) (port 7 (cmd1 65024 0x101)) ([] : List (List
      Byte)) ∧ (cmdTaken (told (slmed h0) 7 (cmd1 65024 0x101)) 7 (cmd1 65024 0x101) (port 7 (cmd1 65024 0x101)) ([] :
      List (List Byte))).slmPos (cmd1 65024 0x101).ctx.toNat (cmd1 65024 0x101).a.toNat (⟨(65024 : Nat), (((cmd1 65024
      0x101).b.extractLsb' 0 8).toNat), (if (cmd1 65024 0x101).b.extractLsb' 8 16 = 0 then 65536 else ((cmd1 65024
      0x101).b.extractLsb' 8 16).toNat), slotBytes (((cmd1 65024 0x101).b.extractLsb' 0 8).toNat), (cmd1 65024
      0x101).ctx.toNat, []⟩ : Mbx).size = some (65024 : Nat) ∧ (cmd1 65024 0x101).a.toNat % 128 = 0 ∧ ((cmdTaken (told
      (slmed h0) 7 (cmd1 65024 0x101)) 7 (cmd1 65024 0x101) (port 7 (cmd1 65024 0x101)) ([] : List (List
      Byte))).job.mbx.any fun x => meets x.head x.size (65024 : Nat) (⟨(65024 : Nat), (((cmd1 65024 0x101).b.extractLsb'
      0 8).toNat), (if (cmd1 65024 0x101).b.extractLsb' 8 16 = 0 then 65536 else ((cmd1 65024 0x101).b.extractLsb' 8
      16).toNat), slotBytes (((cmd1 65024 0x101).b.extractLsb' 0 8).toNat), (cmd1 65024 0x101).ctx.toNat, []⟩ :
      Mbx).size) = false ∧ (((cmd1 65024 0x101).b.extractLsb' 0 8).toNat) ∈ [1, 2, 3] ∧ ((((cmd1 65024
      0x101).b.extractLsb' 0 8).toNat) = 2 → (if (cmd1 65024 0x101).b.extractLsb' 8 16 = 0 then 65536 else ((cmd1 65024
      0x101).b.extractLsb' 8 16).toNat) = 64) := by
  constructorm* _ ∧ _ <;> first | exact head_of (by decide +kernel) | decide +kernel

theorem witness_RepairAndPortCommands_2 :
    headCommand (told boxed 8 (cmd1 0 0)) 8 (cmd1 0 0) (port 8 (cmd1 0 0)) ([] : List (List Byte)) ∧ (((cmdTaken (told boxed
      8 (cmd1 0 0)) 8 (cmd1 0 0) (port 8 (cmd1 0 0)) ([] : List (List Byte))).slmPos (cmd1 0 0).ctx.toNat (cmd1 0
      0).a.toNat 1).bind (cmdTaken (told boxed 8 (cmd1 0 0)) 8 (cmd1 0 0) (port 8 (cmd1 0 0)) ([] : List (List
      Byte))).mbx?) = some (⟨0, 3, 2, 256, 1, [[]]⟩ : Mbx) ∧ (⟨0, 3, 2, 256, 1, [[]]⟩ : Mbx).ctx = (cmd1 0 0).ctx.toNat := by
  constructorm* _ ∧ _ <;> first | exact head_of (by decide +kernel) | decide +kernel

theorem witness_RepairAndPortCommands_3 :
    headCommand (told m0 16 (cmd1 3 0)) 0x10 (cmd1 3 0) (port 16 (cmd1 3 0)) ([] : List (List Byte)) ∧ targetOf (cmd1 3 0).a
      = some (⟨3, 0⟩ : Part) ∧ (⟨3, 0⟩ : Part).kind = 3 := by
  constructorm* _ ∧ _ <;> first | exact head_of (by decide +kernel) | decide +kernel

theorem witness_RepairAndPortCommands_4 :
    headCommand (told (quiet0 ⟨1, 0⟩) 17 (cmd1 1 0)) 0x11 (cmd1 1 0) (port 17 (cmd1 1 0)) ([] : List (List Byte)) ∧ targetOf
      (cmd1 1 0).a = some (⟨1, 0⟩ : Part) ∧ (cmdTaken (told (quiet0 ⟨1, 0⟩) 17 (cmd1 1 0)) 0x11 (cmd1 1 0) (port 17
      (cmd1 1 0)) ([] : List (List Byte))).rep.quiesced.contains (⟨1, 0⟩ : Part) = true := by
  constructorm* _ ∧ _ <;> first | exact head_of (by decide +kernel) | decide +kernel

theorem witness_RepairAndPortCommands_5 :
    headCommand (told m0 17 (cmd1 0x10003 0)) 0x11 (cmd1 0x10003 0) (port 17 (cmd1 0x10003 0)) ([] : List (List Byte)) ∧
      targetOf (cmd1 0x10003 0).a = some (⟨3, 1⟩ : Part) ∧ (cmdTaken (told m0 17 (cmd1 0x10003 0)) 0x11 (cmd1 0x10003 0)
      (port 17 (cmd1 0x10003 0)) ([] : List (List Byte))).rep.quiesced.contains (⟨3, 1⟩ : Part) = false ∧ (⟨3, 1⟩ :
      Part).kind = 3 ∧ ((cmdTaken (told m0 17 (cmd1 0x10003 0)) 0x11 (cmd1 0x10003 0) (port 17 (cmd1 0x10003 0)) ([] :
      List (List Byte))).sliceKept (⟨3, 1⟩ : Part).num && !(cmdTaken (told m0 17 (cmd1 0x10003 0)) 0x11 (cmd1 0x10003 0)
      (port 17 (cmd1 0x10003 0)) ([] : List (List Byte))).spareFree (⟨3, 1⟩ : Part).num) = false := by
  constructorm* _ ∧ _ <;> first | exact head_of (by decide +kernel) | decide +kernel

theorem witness_RepairAndPortCommands_6 :
    headCommand (told m0 17 (cmd1 0x2F050301 0)) 0x11 (cmd1 0x2F050301 0) (port 17 (cmd1 0x2F050301 0)) ([] : List (List
      Byte)) ∧ targetOf (cmd1 0x2F050301 0).a = some (⟨1, 1151⟩ : Part) ∧ (cmdTaken (told m0 17 (cmd1 0x2F050301 0))
      0x11 (cmd1 0x2F050301 0) (port 17 (cmd1 0x2F050301 0)) ([] : List (List Byte))).rep.quiesced.contains (⟨1, 1151⟩ :
      Part) = false ∧ (⟨1, 1151⟩ : Part).kind = 1 := by
  constructorm* _ ∧ _ <;> first | exact head_of (by decide +kernel) | decide +kernel

theorem witness_RepairAndPortCommands_7 :
    headCommand (told m0 18 (cmd1 0x2F050301 0)) 0x12 (cmd1 0x2F050301 0) (port 18 (cmd1 0x2F050301 0)) ([] : List (List
      Byte)) ∧ targetOf (cmd1 0x2F050301 0).a = some (⟨1, 1151⟩ : Part) := by
  constructorm* _ ∧ _ <;> first | exact head_of (by decide +kernel) | decide +kernel

theorem witness_RepairAndPortCommands_8 :
    headCommand (told m0 19 (cmd1 0x050302 0)) 0x13 (cmd1 0x050302 0) (port 19 (cmd1 0x050302 0)) ([] : List (List Byte)) ∧
      targetOf (cmd1 0x050302 0).a = some (⟨2, 23⟩ : Part) ∧ (cmdTaken (told m0 19 (cmd1 0x050302 0)) 0x13 (cmd1
      0x050302 0) (port 19 (cmd1 0x050302 0)) ([] : List (List Byte))).rep.quiesced.contains (⟨2, 23⟩ : Part) = false := by
  constructorm* _ ∧ _ <;> first | exact head_of (by decide +kernel) | decide +kernel

theorem witness_RepairAndPortCommands_9 :
    headCommand (told (quiet0 ⟨1, 0⟩) 19 (cmd1 1 0)) 0x13 (cmd1 1 0) (port 19 (cmd1 1 0)) ([] : List (List Byte)) ∧ targetOf
      (cmd1 1 0).a = some (⟨1, 0⟩ : Part) ∧ (cmdTaken (told (quiet0 ⟨1, 0⟩) 19 (cmd1 1 0)) 0x13 (cmd1 1 0) (port 19
      (cmd1 1 0)) ([] : List (List Byte))).rep.quiesced.contains (⟨1, 0⟩ : Part) = true ∧ (cmd1 1 0).b = 0 ∧ (⟨1, 0⟩ :
      Part).kind ≠ 2 ∧ 0 < (cmdTaken (told (quiet0 ⟨1, 0⟩) 19 (cmd1 1 0)) 0x13 (cmd1 1 0) (port 19 (cmd1 1 0)) ([] :
      List (List Byte))).sparesOf ((⟨1, 0⟩ : Part).kind == 1) (if (⟨1, 0⟩ : Part).kind == 1 then (⟨1, 0⟩ : Part).num /
      48 else (⟨1, 0⟩ : Part).num / 24) := by
  constructorm* _ ∧ _ <;> first | exact head_of (by decide +kernel) | decide +kernel

theorem witness_RepairAndPortCommands_10 :
    headCommand (told m0 20 (cmd1 0x170303 0)) 0x14 (cmd1 0x170303 0) (port 20 (cmd1 0x170303 0)) ([] : List (List Byte)) ∧
      targetOf (cmd1 0x170303 0).a = some (⟨3, 95⟩ : Part) := by
  constructorm* _ ∧ _ <;> first | exact head_of (by decide +kernel) | decide +kernel

theorem witness_RepairAndPortCommands_14_10 :
    headCommand (told m0 16 (cmd1 0x30000001 0)) 16 (cmd1 0x30000001 0) (port 16 (cmd1 0x30000001 0)) [] ∧ targetOf (cmd1 0x30000001 0).a = none := by
  constructorm* _ ∧ _ <;> first | exact head_of (by decide +kernel) | decide +kernel

theorem witness_RepairAndPortCommands_14_11 :
    headCommand (told m0 17 (cmd1 0x060001 0)) 17 (cmd1 0x060001 0) (port 17 (cmd1 0x060001 0)) [] ∧ targetOf (cmd1 0x060001 0).a = none := by
  constructorm* _ ∧ _ <;> first | exact head_of (by decide +kernel) | decide +kernel

theorem witness_RepairAndPortCommands_14_12 :
    headCommand (told m0 18 (cmd1 0x060002 0)) 18 (cmd1 0x060002 0) (port 18 (cmd1 0x060002 0)) [] ∧ targetOf (cmd1 0x060002 0).a = none := by
  constructorm* _ ∧ _ <;> first | exact head_of (by decide +kernel) | decide +kernel

theorem witness_RepairAndPortCommands_14_13 :
    headCommand (told m0 19 (cmd1 0x180003 0)) 19 (cmd1 0x180003 0) (port 19 (cmd1 0x180003 0)) [] ∧ targetOf (cmd1 0x180003 0).a = none := by
  constructorm* _ ∧ _ <;> first | exact head_of (by decide +kernel) | decide +kernel

theorem witness_RepairAndPortCommands_14_14 :
    headCommand (told m0 20 (cmd1 0x100000003 0)) 20 (cmd1 0x100000003 0) (port 20 (cmd1 0x100000003 0)) [] ∧ targetOf (cmd1 0x100000003 0).a = none := by
  constructorm* _ ∧ _ <;> first | exact head_of (by decide +kernel) | decide +kernel

theorem witness_RepairAndPortCommands_15 :
    ¬ ((0 : Nat) = 0 ∧ (0x4000000 : Nat) = 0) ∧ boxed.barPos (0 : Nat) (0x4000000 : Nat) (List.replicate 64 (1 :
      Byte)).length = some ((1 : Nat), (0 : Nat)) ∧ boxed.mbx? (0 : Nat) = some (⟨0, 3, 2, 256, 1, [[]]⟩ : Mbx) ∧
      wholeMsg (⟨0, 3, 2, 256, 1, [[]]⟩ : Mbx).kind (List.replicate 64 (1 : Byte)).length = true := by decide +kernel

theorem witness_RepairAndPortCommands_16 :
    (slmed h0).barPos (0 : Nat) (0x400FFFF : Nat) 1 = some ((1 : Nat), (65535 : Nat)) ∧ (slmed h0).mbxOver (65535 : Nat) =
      none := by decide +kernel

/-! ### Witnesses: the loader, the sequencer, health, power -/

theorem witness_LoaderAndSequencer_1 :
    m0.ctx? (⟨1, [], [], false, [], [], false⟩ : LoadReq).ctx = some trialCtx ∧ fileOk (⟨1, [], [], false, [], [], false⟩ :
      LoadReq).file = false := by decide +kernel

theorem witness_LoaderAndSequencer_2 :
    m0.ctx? (request false true).ctx = some trialCtx ∧ fileOk (request false true).file = true ∧ sigBad (request false
      true).file (request false true).needSig = true := by decide +kernel

theorem witness_LoaderAndSequencer_3 :
    m0.ctx? (request true false).ctx = some trialCtx ∧ fileOk (request true false).file = true ∧ sigBad (request true
      false).file (request true false).needSig = false ∧ ((trialCtx.objs.any fun o => o.name == nameAt (request true
      false).file (natAt (request true false).file 24 4)) != (request true false).swap) = true := by decide +kernel

theorem witness_LoaderAndSequencer_4 :
    mapped.ctx? (request false false).ctx = some mappedCtx ∧ fileOk (request false false).file = true ∧ sigBad (request
      false false).file (request false false).needSig = false ∧ ((mappedCtx.objs.any fun o => o.name == nameAt (request
      false false).file (natAt (request false false).file 24 4)) != (request false false).swap) = false ∧
      mapped.allotSegs (ordinals (secsOf (request false false).file)) [] = some ([(0, 0, 1)] : List (Nat × Nat × BitVec
      8)) ∧ mapped.pagesFree mappedCtx (pagesTaken (secsOf (request false false).file) (placing (secsOf (request false
      false).file) (request false false).place) []) = true ∧ recsOf (request false false).file 7 = [] ∧ recsOf (request
      false false).file 8 = [] ∧ ((secsOf (request false false).file).findIdx? fun x => x.ty == 0xA) = none ∧
      (mapped.placeSecs mappedCtx (request false false).file (secsOf (request false false).file) (placing (secsOf (request false false).file) (request false false).place) [(0, 0, 1)]).isSome = true := by
  constructorm* _ ∧ _ <;> first | (rw [show ordinals (secsOf (request false false).file) = [0] by decide +kernel]; exact allotSegs_zero (by decide +kernel)) | decide +kernel

theorem witness_LoaderAndSequencer_10 :
    holding.ctx? (1 : Nat) = some objCtx ∧ holding.seg? (1 : Nat) = some trialSeg ∧ holding.seg? (2 : Nat) = some seg2 ∧
      (objCtx.objs.any fun x => x.segs.contains (1 : Nat) && x.segs.contains (2 : Nat)) = true ∧ trialSeg.state = .live
      ∧ seg2.state = .live ∧ trialSeg.owner = (1 : Nat) := by decide +kernel

theorem witness_LoaderAndSequencer_11 :
    holding.obj? (1 : Nat) (5 : Nat) = some (objCtx, obj0) ∧ ((holding.segsOf obj0).all fun g => (g.state == .live ||
      g.state == .retired) && holding.refc g == 0) = false := by decide +kernel

theorem witness_LoaderAndSequencer_12 :
    ({ holding with sheaves := [] } : State).obj? (1 : Nat) (5 : Nat) = some (objCtx, obj0) ∧
      ((({ holding with sheaves := [] } : State).segsOf obj0).all fun g => (g.state == .live || g.state == .retired) &&
      ({ holding with sheaves := [] } : State).refc g == 0) = true := by decide +kernel

theorem witness_LoaderAndSequencer_15 :
    holding.obj? (1 : Nat) (5 : Nat) = some (objCtx, obj0) ∧ (trialSeg.state = .live ∨ trialSeg.state = .retired) ∧
      trialSeg ∈ obj0.segs.filterMap holding.seg? ∧ objCtx.objs = [obj0, obj1] ∧ obj1.id ≠ 5 := by decide +kernel

theorem witness_LoaderAndSequencer_18 :
    (1151 : Nat) < nCores ∧ (0 : Word).getLsbD 31 = (m0.seqOf (1151 : Nat)).en := by decide +kernel

theorem witness_LoaderAndSequencer_19 :
    (1151 : Nat) < nCores ∧ (0x80000000 : Word).getLsbD 31 = true ∧ (m0.seqOf (1151 : Nat)).en = false ∧ (∀ h ∈ m0.residents
      (1151 : Nat), h.seqr = true) := by decide +kernel

theorem witness_LoaderAndSequencer_20 :
    (0 : Nat) < nCores ∧ (0 : Word).getLsbD 31 = false ∧ (sequenced.seqOf (0 : Nat)).en = true ∧ sequenced.sheaf?
      (sequenced.seqOf (0 : Nat)).uid = some micro := by decide +kernel

theorem witness_LoaderAndSequencer_21 :
    sequenced.seqr? (0 : Nat) = some seq0 ∧ sequenced.sheaf? seq0.uid = some micro ∧ seq0.en = true ∧ micro.fbuf = none ∧
      sequenced.canIssue micro = true ∧ sequenced.scrBad ((0 : Nat) * 524288 + 8 * (seq0.next.getD seq0.upc)) 8 = false
      ∧ (BitVec.ofNat 64 (leNat (sequenced.scrRead ((0 : Nat) * 524288 + 8 * (seq0.next.getD seq0.upc)) 8)) :
      DWord).extractLsb' 32 16 = 0 := by decide +kernel

theorem witness_HealthAndPower_1 :
    (3 : Nat) < 4 ∧ ((0x17FFFF : Word).extractLsb' 16 5).toNat < 24 := by decide +kernel

theorem witness_HealthAndPower_2 :
    ((atHome h0).mm.homes.find? fun h => h.asid == (1 : Nat) && h.line == (1024 : Nat)) = some home0 ∧ home0.owed = [] ∧
      home0.dirty = 0 := by decide +kernel

theorem witness_HealthAndPower_3 :
    (atDirty.mm.homes.find? fun h => h.asid == (1 : Nat) && h.line == (1024 : Nat)) = some dirty0 ∧ (dirty0.owed ≠ [] ∨
      dirty0.dirty ≠ 0) := by decide +kernel

theorem witness_HealthAndPower_4 :
    (atHome h0).home? (1 : Nat) (1024 : Nat) = some home0 ∧ home0.lemax = 0 ∧ home0.writes = [] ∧ home0.hm = false := by decide +kernel

theorem witness_HealthAndPower_5 :
    (127 : Nat) < 128 := by decide +kernel

theorem witness_HealthAndPower_6_7_8 :
    (atHome h0).home? 1 1024 = some home0 ∧ (Config.scrubFinds 1 1024 (atHome h0).ctl.time = 0 ∨
      Config.scrubFinds 1 1024 (atHome h0).ctl.time = 1 ∨ ∃ n, Config.scrubFinds 1 1024 (atHome h0).ctl.time = n + 2) := by
  refine ⟨by decide +kernel, ?_⟩
  rcases Config.scrubFinds 1 1024 (atHome h0).ctl.time with _ | _ | n
  · exact .inl rfl
  · exact .inr (.inl rfl)
  · exact .inr (.inr ⟨n, rfl⟩)

theorem witness_HealthAndPower_10 :
    (3 : Nat) < 4 ∧ (3 : Nat) < m0.rep.clock.length ∧ 1 < m0.rep.clock.getD (3 : Nat) 3300 := by decide +kernel

theorem witness_HealthAndPower_11 :
    (3 : Nat) < 4 ∧ m0.rep.shutdown = none := by decide +kernel

theorem witness_HealthAndPower_12 :
    (repd fun r => { r with shutdown := some 0 }).rep.shutdown.isSome = true := by decide +kernel

theorem witness_HealthAndPower_13 :
    (repd fun r => { r with shutdown := some 0 }).rep.shutdown = some (0 : Nat) ∧ (0 : Nat) ≤ (repd fun r =>
      { r with shutdown := some 0 }).ctl.time := by decide +kernel

theorem witness_HealthAndPower_14 :
    State.reset.rep.booted = false ∧ State.reset.bootable State.reset.rep.imgA = true ∧ State.reset.rep.imgB = none := by decide +kernel

theorem witness_HealthAndPower_15 :
    m0.rep.restarting = false := by decide +kernel

theorem witness_HealthAndPower_16 :
    (if (repd fun r => { r with imgB := some ⟨2, 2, []⟩ }).rep.runB then (repd fun r =>
      { r with imgB := some ⟨2, 2, []⟩ }).rep.imgA else (repd fun r => { r with imgB := some ⟨2, 2, []⟩ }).rep.imgB) =
      some (⟨2, 2, []⟩ : FwImage) ∧ (repd fun r => { r with imgB := some ⟨2, 2, []⟩ }).rep.restarting = false := by decide +kernel

theorem witness_HealthAndPower_17 :
    (repd fun r => { r with restarting := true }).rep.restarting = true := by decide +kernel

theorem witness_HealthAndPower_18 :
    (3 : Nat) < 4 ∧ 0 < (3300 : Nat) ∧ (3300 : Nat) ≤ 3300 ∧ m0.rep.hot.contains (3 : Nat) = false := by decide +kernel

/-! ### Witnesses: pool, fabric, management, reset, decoding, the step -/

theorem witness_PoolAndFabric_1 :
    (2 ^ 28) % 2 ^ 28 = 0 ∧ (2 ^ 46 - 2 ^ 28) % 2 ^ 28 = 0 ∧ 0 < (2 ^ 46 - 2 ^ 28) ∧ (23 : Nat) < 24 ∧ (fabd fun f =>
      { f with extents := [⟨0, 2 ^ 28, 0, 0⟩] }).fab.extents.length < 4096 ∧ ((fabd fun f =>
      { f with extents := [⟨0, 2 ^ 28, 0, 0⟩] }).fab.extents.map fun e => e.len).sum + (2 ^ 46 - 2 ^ 28) ≤ 2 ^ 46 ∧ (∀ e
      ∈ (fabd fun f => { f with extents := [⟨0, 2 ^ 28, 0, 0⟩] }).fab.extents, meets e.base e.len (2 ^ 28) (2 ^ 46 - 2 ^
      28) = false) := by decide +kernel

theorem witness_PoolAndFabric_2 :
    ((fabd fun f => { f with extents := [⟨0, 2 ^ 28, 0, 0⟩] }).fab.extents.find? fun e => e.base == (0 : Nat)) = some (⟨0, 2
      ^ 28, 0, 0⟩ : Extent) ∧ (fabd fun f => { f with extents := [⟨0, 2 ^ 28, 0, 0⟩] }).fab.releasing.contains (0 : Nat)
      = false := by decide +kernel

theorem witness_PoolAndFabric_3 :
    (({ atHome h0 with fab := { m0.fab with extents := [⟨0, 2 ^ 28, 0, 0⟩], releasing := [0] } } : State).fab.extents.find?
      fun e => e.base == (0 : Nat)) = some (⟨0, 2 ^ 28, 0, 0⟩ : Extent) ∧
      ({ atHome h0 with fab := { m0.fab with extents := [⟨0, 2 ^ 28, 0, 0⟩], releasing := [0] } } :
      State).fab.releasing.contains (0 : Nat) = true ∧
      ({ atHome h0 with fab := { m0.fab with extents := [⟨0, 2 ^ 28, 0, 0⟩], releasing := [0] } } : State).extentUsed
      (⟨0, 2 ^ 28, 0, 0⟩ : Extent).base (⟨0, 2 ^ 28, 0, 0⟩ : Extent).len = true := by decide +kernel

theorem witness_PoolAndFabric_4 :
    ((fabd fun f => { f with extents := [⟨0, 2 ^ 28, 0, 0⟩], releasing := [0] }).fab.extents.find? fun e => e.base == (0 :
      Nat)) = some (⟨0, 2 ^ 28, 0, 0⟩ : Extent) ∧ (fabd fun f =>
      { f with extents := [⟨0, 2 ^ 28, 0, 0⟩], releasing := [0] }).fab.releasing.contains (0 : Nat) = true ∧ (fabd fun f
      => { f with extents := [⟨0, 2 ^ 28, 0, 0⟩], releasing := [0] }).extentUsed (⟨0, 2 ^ 28, 0, 0⟩ : Extent).base (⟨0,
      2 ^ 28, 0, 0⟩ : Extent).len = false := by decide +kernel

theorem witness_PoolAndFabric_5 :
    0 < (⟨1, 4096, 0, 0, 2, 0, 1, 1, 0⟩ : GroupRec).ncont ∧ (⟨1, 4096, 0, 0, 2, 0, 1, 1, 0⟩ : GroupRec).ncont ≤ 4096 ∧ (⟨1,
      4096, 0, 0, 2, 0, 1, 1, 0⟩ : GroupRec).op.toNat ≤ 2 := by decide +kernel

theorem witness_PoolAndFabric_6 :
    (11 : Nat) < 12 ∧ (m0.link (11 : Nat)).up = true ∧ (List.replicate 256 0).length = 256 ∧ natAt (List.replicate 256 0)
      248 8 = (crc64 ((List.replicate 256 0).take 248)).toNat ∧ natAt (List.replicate 256 0) 2 2 = (m0.link (11 :
      Nat)).next ∧ natAt (List.replicate 256 0) 0 1 = (0 : Nat) ∧ natAt (List.replicate 256 0) 1 1 ≤ 3 := by
  refine ⟨by decide, by decide +kernel, by decide +kernel, ?_, by decide +kernel, by decide +kernel, by decide +kernel⟩
  rw [crc64_of_zeros (by decide +kernel)]
  decide +kernel

theorem witness_PoolAndFabric_7 :
    (11 : Nat) < 12 ∧ (m0.link (11 : Nat)).up = true ∧ (List.replicate 255 0 ++ [1]).length = 256 ∧ natAt (List.replicate
      255 0 ++ [1]) 248 8 ≠ (crc64 ((List.replicate 255 0 ++ [1]).take 248)).toNat ∧ natAt (List.replicate 255 0 ++ [1])
      2 2 = (m0.link (11 : Nat)).next := by
  refine ⟨by decide, by decide +kernel, by decide +kernel, ?_, by decide +kernel⟩
  rw [crc64_of_zeros (by decide +kernel)]
  decide +kernel

theorem witness_PoolAndFabric_9 :
    (0x2007C : Nat) % 128 + ([1, 2, 3, 4] : List Byte).length ≤ 128 ∧ (atHome h0).homeOf (1 : Nat) (0x2007C : Nat) .write =
      ((atHome h0), .ok home0) := by decide +kernel

theorem witness_PoolAndFabric_10 :
    (11 : Nat) < 12 ∧ m0.linkUp (11 : Nat) = true ∧ 0 ≠ (11 : Nat) := by decide +kernel

theorem witness_PoolAndFabric_13 :
    opRuns (ran farOp h0 []) (9 : Nat) farOp h0 ∧ farOp.failed = false ∧ farOp.done.contains (2046 : Nat) = false ∧ ((ran
      farOp h0 []).units farOp h0).contains (2046 : Nat) = true ∧ farOp.shape = some farShape ∧ farShape.dst.sp = 3 ∧
      farOp.sector farShape ((ran farOp h0 []).limOf h0 farShape.src) (2046 : Nat) = some (((2 ^ 256 - 1) / 255), (2 ^
      256 - 1), (0 : Flags)) := by
  unfold opRuns
  decide +kernel

theorem witness_PoolAndFabric_16 :
    (fullRound 8).group? (7 : Word) = some group0 ∧ (fullRound 8).heldCount (7 : Word) = group0.ncont ∧ group0.rootDev =
      (fullRound 8).fab.self ∧ ((fullRound 8).held (7 : Word)).findSome? (·.op) = some redOp.id ∧ (fullRound 8).op?
      redOp.id = some redOp ∧ redOp.live = true ∧ redOp.resting = false ∧ redOp.susp = false ∧ redOp.rp = 1 ∧ (contrib0
      8) ∈ (fullRound 8).held (7 : Word) ∧ (∀ x ∈ (fullRound 8).held (7 : Word), x.rows = group0.rows ∧ x.cols =
      group0.cols ∧ x.kind.toNat = group0.op.toNat ∧ x.ty = group0.ty) := by decide +kernel

theorem witness_PoolAndFabric_17 :
    (fullRound 9).group? (7 : Word) = some group0 ∧ (fullRound 9).heldCount (7 : Word) = group0.ncont ∧ group0.rootDev =
      (fullRound 9).fab.self ∧ ((fullRound 9).held (7 : Word)).findSome? (·.op) = some redOp.id ∧ (fullRound 9).op?
      redOp.id = some redOp ∧ redOp.live = true ∧ redOp.resting = false ∧ redOp.susp = false ∧ redOp.rp = 1 ∧ (contrib0
      9) ∈ (fullRound 9).held (7 : Word) ∧ (contrib0 9).rows ≠ group0.rows ∨ (contrib0 9).cols ≠ group0.cols ∨ (contrib0
      9).kind.toNat ≠ group0.op.toNat ∨ (contrib0 9).ty ≠ group0.ty := by decide +kernel

theorem witness_PoolAndFabric_18 :
    (fullRound 8).group? (7 : Word) = some group0 := by decide +kernel

theorem witness_ManagementAnswers_1 :
    (0xFE : Nat) ≠ 0xFF := by decide +kernel

theorem witness_ResetAndFirstInstruction_1 :
    (7 : Nat) < 8 := by decide +kernel

theorem witness_WorkedEncodingsDecode_1 :
    m0.cur? = some h0 ∧ m0.canIssue h0 = true := by decide +kernel

theorem witness_EncodingsDecodeBack_1 :
    isStep (Instr.saluiAddi ⟨4, 4, 0xA0⟩) = false ∧ (Instr.saluiAddi ⟨4, 4, 0xA0⟩).wf = true := by decide +kernel

theorem witness_EncodingsDecodeBack_2 :
    isStep (Instr.saluiAddi ⟨4, 4, 0xA0⟩) = false ∧ (Instr.saluiAddi ⟨4, 4, 0xA0⟩).wf = true ∧ encode (Instr.saluiAddi ⟨4,
      4, 0xA0⟩) = encode (Instr.saluiAddi ⟨4, 4, 0xA0⟩) := by decide +kernel

theorem witness_StepRunsTheFetchedWord_1 :
    (placed 0x280820A0).ctl.agenda = [] ∧ (placed 0x280820A0).ctl.svc = false ∧
      ({ (placed 0x280820A0) with ctl := { (placed 0x280820A0).ctl with svc := true } } : State).cur? = some h0 ∧
      ({ (placed 0x280820A0) with ctl := { (placed 0x280820A0).ctl with svc := true } } : State).mayIssue h0 = true ∧
      (({ (placed 0x280820A0) with ctl := { (placed 0x280820A0).ctl with svc := true } } : State).fetchFor h0).cur? =
      some (fetched 0x280820A0) ∧ (fetched 0x280820A0).fbuf = some (0x280820A0 : Word) ∧ decode (0x280820A0 : Word) =
      some (Instr.saluiAddi ⟨4, 4, 0xA0⟩) := by decide +kernel

theorem witness_StepRunsTheFetchedWord_2 :
    (placed 0xFFFFFFFF).ctl.agenda = [] ∧ (placed 0xFFFFFFFF).ctl.svc = false ∧
      ({ (placed 0xFFFFFFFF) with ctl := { (placed 0xFFFFFFFF).ctl with svc := true } } : State).cur? = some h0 ∧
      ({ (placed 0xFFFFFFFF) with ctl := { (placed 0xFFFFFFFF).ctl with svc := true } } : State).mayIssue h0 = true ∧
      (({ (placed 0xFFFFFFFF) with ctl := { (placed 0xFFFFFFFF).ctl with svc := true } } : State).fetchFor h0).cur? =
      some (fetched 0xFFFFFFFF) ∧ (fetched 0xFFFFFFFF).fbuf = some (0xFFFFFFFF : Word) ∧ decode (0xFFFFFFFF : Word) =
      none := by decide +kernel

theorem witness_StepRunsTheFetchedWord_6 :
    (coded h0).cur? = some h0 ∧ h0.fbuf = none ∧ h0.seqr = false ∧ (coded h0).canIssue h0 = true ∧ (coded h0).seg?
      h0.pc.seg.toNat = some trialSeg ∧ trialSeg.state ≠ .revoked ∧ h0.pc.off.toNat < trialSeg.len ∧ (coded h0).ic?
      h0.core (BitVec.ofNat 16 trialSeg.idx) trialSeg.gen (h0.pc.off.toNat / 64) = some (⟨0, 1, 1, 0, [3, 20, 24, 28, 0,
      0, 0, 0, 0, 0, 0, 0, 0, 0, 0, 0]⟩ : ICLine) := by decide +kernel

theorem witness_StepRunsTheFetchedWord_7 :
    (∀ g ∈ m0.segs, g.state ≠ .retired ∧ g.state ≠ .revoked) ∧ (∀ c ∈ m0.mm.l1, m0.strayCopy c = false) := by decide +kernel

theorem witness_EveryStepAnswers_1 :
    m0.cur?.isSome = true := by decide +kernel

theorem witness_EveryStepAnswers_2 :
    isStep .boot = true ∧ ∀ w, Instr.boot ≠ .illegalInstruction w := ⟨rfl, nofun⟩

theorem witness_MemoriesStayCanonical_1 :
    MemOk (placed 0x280820A0) ∧ goes (step (placed 0x280820A0)) = true := by decide +kernel

/-! ### Witnesses: what the second round of statements added -/

theorem witness_TablesAndLiterals_1 :
    Ready (coded (regS h0 [(1, 2)])) (regS h0 [(1, 2)]) (.jtab (⟨1, 0⟩ : FBR)) ∧ (coded (regS h0 [(1, 2)])).curSeg (regS h0
      [(1, 2)]) = some trialSeg ∧ ((regS h0 [(1, 2)]).pc.off.toNat : Int) + 4 * (⟨1, 0⟩ : FBR).off.toInt = (0 : Nat) ∧
      CodeLine (coded (regS h0 [(1, 2)])) (regS h0 [(1, 2)]) trialSeg (0 : Nat) (⟨0, 1, 1, 0, [3, 20, 24, 28, 0, 0, 0,
      0, 0, 0, 0, 0, 0, 0, 0, 0]⟩ : ICLine) ∧ (regS h0 [(1, 2)]).getS (⟨1, 0⟩ : FBR).sel.toNat < wordOf (⟨0, 1, 1, 0,
      [3, 20, 24, 28, 0, 0, 0, 0, 0, 0, 0, 0, 0, 0, 0, 0]⟩ : ICLine) (0 : Nat) ∧ CodeLine (coded (regS h0 [(1, 2)]))
      (regS h0 [(1, 2)]) trialSeg ((0 : Nat) + 4 + 4 * ((regS h0 [(1, 2)]).getS (⟨1, 0⟩ : FBR).sel.toNat).toNat) (⟨0, 1,
      1, 0, [3, 20, 24, 28, 0, 0, 0, 0, 0, 0, 0, 0, 0, 0, 0, 0]⟩ : ICLine) ∧ ((0 : Nat) : Int) + 4 * (wordOf (⟨0, 1, 1,
      0, [3, 20, 24, 28, 0, 0, 0, 0, 0, 0, 0, 0, 0, 0, 0, 0]⟩ : ICLine) ((0 : Nat) + 4 + 4 * ((regS h0 [(1, 2)]).getS
      (⟨1, 0⟩ : FBR).sel.toNat).toNat)).toInt = (112 : Nat) ∧ (112 : Nat) < 2 ^ 32 := by
  unfold CodeLine
  decide +kernel

theorem witness_TablesAndLiterals_2 :
    Ready (coded (regS h0 [(1, 3)])) (regS h0 [(1, 3)]) (.jtab (⟨1, 0⟩ : FBR)) ∧ (coded (regS h0 [(1, 3)])).curSeg (regS h0
      [(1, 3)]) = some trialSeg ∧ ((regS h0 [(1, 3)]).pc.off.toNat : Int) + 4 * (⟨1, 0⟩ : FBR).off.toInt = (0 : Nat) ∧
      CodeLine (coded (regS h0 [(1, 3)])) (regS h0 [(1, 3)]) trialSeg (0 : Nat) (⟨0, 1, 1, 0, [3, 20, 24, 28, 0, 0, 0,
      0, 0, 0, 0, 0, 0, 0, 0, 0]⟩ : ICLine) ∧ wordOf (⟨0, 1, 1, 0, [3, 20, 24, 28, 0, 0, 0, 0, 0, 0, 0, 0, 0, 0, 0, 0]⟩
      : ICLine) (0 : Nat) ≤ (regS h0 [(1, 3)]).getS (⟨1, 0⟩ : FBR).sel.toNat := by
  unfold CodeLine
  decide +kernel

theorem witness_TablesAndLiterals_3 :
    (coded h0).curSeg h0 = some trialSeg ∧ (h0.pc.off.toNat : Int) + 4 * (⟨0, 63, 3⟩ : FRI).imm.toInt = (12 : Nat) ∧
      CodeLine (coded h0) h0 trialSeg (12 : Nat) (⟨0, 1, 1, 0, [3, 20, 24, 28, 0, 0, 0, 0, 0, 0, 0, 0, 0, 0, 0, 0]⟩ :
      ICLine) ∧ Ready (coded h0) h0 (.ldls (⟨0, 63, 3⟩ : FRI)) := by
  unfold CodeLine
  decide +kernel

theorem witness_TablesAndLiterals_4 :
    (coded h0).curSeg h0 = some trialSeg ∧ (h0.pc.off.toNat : Int) + 4 * (⟨0, 127, 3⟩ : FRI).imm.toInt = (12 : Nat) ∧
      CodeLine (coded h0) h0 trialSeg (12 : Nat) (⟨0, 1, 1, 0, [3, 20, 24, 28, 0, 0, 0, 0, 0, 0, 0, 0, 0, 0, 0, 0]⟩ :
      ICLine) ∧ Ready (coded h0) h0 (.ldlv (⟨0, 127, 3⟩ : FRI)) := by
  unfold CodeLine
  decide +kernel

theorem witness_TablesAndLiterals_5 :
    (coded h0).curSeg h0 = some trialSeg ∧ (h0.pc.off.toNat : Int) + 4 * (⟨0, 62, 2⟩ : FRI).imm.toInt = (8 : Nat) ∧ CodeLine
      (coded h0) h0 trialSeg (8 : Nat) (⟨0, 1, 1, 0, [3, 20, 24, 28, 0, 0, 0, 0, 0, 0, 0, 0, 0, 0, 0, 0]⟩ : ICLine) ∧
      Ready (coded h0) h0 (.ldl64 (⟨0, 62, 2⟩ : FRI)) ∧ (8 : Nat) % 8 = 0 ∧ (8 : Nat) + 4 < trialSeg.len := by
  unfold CodeLine
  decide +kernel

theorem witness_SysForms_12 :
    Ready (mach ({ asking with stop := some ⟨5, false⟩ } : Sheaf)) ({ asking with stop := some ⟨5, false⟩ } : Sheaf) (.safe
      (0 : BitVec 21)) ∧ ({ asking with stop := some ⟨5, false⟩ } : Sheaf).stop = some (⟨5, false⟩ : StopReq) ∧ (((mach
      ({ asking with stop := some ⟨5, false⟩ } : Sheaf)).curSeg ({ asking with stop := some ⟨5, false⟩ } : Sheaf)).bind
      fun g => g.spt[(0 : BitVec 21).toNat]?) = some (⟨0, 0, 0, 0⟩ : SafeRec) ∧ (mach
      ({ asking with stop := some ⟨5, false⟩ } : Sheaf)).quietToStop ({ asking with stop := some ⟨5, false⟩ } : Sheaf) =
      false := by decide +kernel

theorem witness_ScratchFormsAccessAtIssue_5 :
    ({ m0 with mm := { m0.mm with badScr := [65528] } } : State).unseen h0 = [] ∧ (⟨.lds .b64 ⟨0, 4, 8, 2, 0⟩, ⟨0, 4, 8, 2,
      0⟩, 8, 2, .load, false, false⟩ : MemReq).kind = .load ∧ ({ m0 with mm := { m0.mm with badScr := [65528] } } :
      State).scrBad (h0.scrAbs (65528 : Nat)) (⟨.lds .b64 ⟨0, 4, 8, 2, 0⟩, ⟨0, 4, 8, 2, 0⟩, 8, 2, .load, false, false⟩ :
      MemReq).size = true := by decide +kernel

theorem witness_ScratchFormsAccessAtIssue_4 :
    m0.waitedWords = [] := by decide +kernel

theorem witness_PeerFormsUseChannels_2 :
    m0.unseen h0 = [] := by decide +kernel

theorem witness_PeerFormsUseChannels_7 :
    ({ duo duoA with mm := { m0.mm with backs := [⟨reqOf .load (some ⟨true, 5, false⟩), 7, false⟩] } } :
      State).mm.backs.find? (fun b => b.req.src == (0 : Nat) && b.req.dst == (1 : Nat)) = some (⟨reqOf .load (some
      ⟨true, 5, false⟩), 7, false⟩ : ChanResp) ∧ (⟨reqOf .load (some ⟨true, 5, false⟩), 7, false⟩ : ChanResp).req.kind =
      .acc .load ∧
      ({ ({ duo duoA with mm := { m0.mm with backs := [⟨reqOf .load (some ⟨true, 5, false⟩), 7, false⟩] } } : State) with mm := { ({ duo duoA with mm := { m0.mm with backs := [⟨reqOf .load (some ⟨true, 5, false⟩), 7, false⟩] } } : State).mm with backs := ({ duo duoA with mm := { m0.mm with backs := [⟨reqOf .load (some ⟨true, 5, false⟩), 7, false⟩] } } : State).mm.backs.eraseP fun x => x.req.src == (0 : Nat) && x.req.dst == (1 : Nat) } }
      : State).requests.any (⟨reqOf .load (some ⟨true, 5, false⟩), 7, false⟩ : ChanResp).req.twin = false ∧ (⟨reqOf
      .load (some ⟨true, 5, false⟩), 7, false⟩ : ChanResp).req.half = none ∧ (⟨reqOf .load (some ⟨true, 5, false⟩), 7,
      false⟩ : ChanResp).req.undef = false := by decide +kernel

theorem witness_AccessesPerformAtHome_4 :
    (mach
      ({ h0 with mq := [.acc { store0 with id := ⟨0, 0, 0⟩, size := 8 }, .acc { load0 with id := ⟨1, 0, 0⟩ }], nseq := 2 }
      : Sheaf)).sheaf? (1 : Nat) = some
      ({ h0 with mq := [.acc { store0 with id := ⟨0, 0, 0⟩, size := 8 }, .acc { load0 with id := ⟨1, 0, 0⟩ }], nseq := 2 }
      : Sheaf) ∧
      ({ h0 with mq := [.acc { store0 with id := ⟨0, 0, 0⟩, size := 8 }, .acc { load0 with id := ⟨1, 0, 0⟩ }], nseq := 2 }
      : Sheaf).acc? (⟨1, 0, 0⟩ : AccId) = some ({ load0 with id := ⟨1, 0, 0⟩ }) ∧ ({ load0 with id := ⟨1, 0, 0⟩ }).space
      = .glob ∧
      ({ h0 with mq := [.acc { store0 with id := ⟨0, 0, 0⟩, size := 8 }, .acc { load0 with id := ⟨1, 0, 0⟩ }], nseq := 2 }
      : Sheaf).loadReady ({ load0 with id := ⟨1, 0, 0⟩ }) = true ∧
      (({ h0 with mq := [.acc { store0 with id := ⟨0, 0, 0⟩, size := 8 }, .acc { load0 with id := ⟨1, 0, 0⟩ }], nseq := 2 }
      : Sheaf).forwards ({ load0 with id := ⟨1, 0, 0⟩ })).all (·.isSome) = true := by decide +kernel

theorem witness_AccessesPerformAtHome_6 :
    load3.ch = 3 := by decide +kernel

theorem witness_AccessesPerformAtHome_7 :
    load0.ch ≠ 3 := by decide +kernel

theorem witness_FormsThatStoreNothing_2 :
    m0.cur? = some h0 ∧ m0.unseen h0 = [] ∧ h0.stop = none ∧ goes (exec (.safe (0 : BitVec 21)) m0) = true := by decide +kernel

theorem witness_BarrierFormsArriveAndWait_1_bara :
    (Ready (State.aged (object tail16 0x0000000200010003)) tail16 (((Instr.bara, keepRecord) : (FSY → Instr) × (FSY →
      BarHandle → Sheaf → State → State)).1 (⟨1, 0, 1, 0, 31⟩ : FSY))) ∧ tail16.bar = none ∧ canArrive (State.aged
      (object tail16 0x0000000200010003)) tail16 (⟨1, 0, 1, 0, 31⟩ : FSY) (⟨0, 65536, 1, 0, none, false⟩ : ScrTarget) ∧
      (⟨0, 65536, 1, 0, none, false⟩ : ScrTarget).member = none ∧ (arriving (State.aged (object tail16
      0x0000000200010003)) tail16 (⟨1, 0, 1, 0, 31⟩ : FSY) (⟨0, 65536, 1, 0, none, false⟩ : ScrTarget)).scrBad (barAt
      tail16 (⟨1, 0, 1, 0, 31⟩ : FSY) (⟨0, 65536, 1, 0, none, false⟩ : ScrTarget)) 8 = false ∧ barBad (BitVec.ofNat 64
      (leNat ((arriving (State.aged (object tail16 0x0000000200010003)) tail16 (⟨1, 0, 1, 0, 31⟩ : FSY) (⟨0, 65536, 1,
      0, none, false⟩ : ScrTarget)).scrRead (barAt tail16 (⟨1, 0, 1, 0, 31⟩ : FSY) (⟨0, 65536, 1, 0, none, false⟩ :
      ScrTarget)) 8))) = false ∧ (State.aged (object tail16 0x0000000200010003)).clouded tail16 1 (barAt tail16 (⟨1, 0,
      1, 0, 31⟩ : FSY) (⟨0, 65536, 1, 0, none, false⟩ : ScrTarget)) 8 = false ∧ 0 < barArr (BitVec.ofNat 64 (leNat
      ((arriving (State.aged (object tail16 0x0000000200010003)) tail16 (⟨1, 0, 1, 0, 31⟩ : FSY) (⟨0, 65536, 1, 0, none,
      false⟩ : ScrTarget)).scrRead (barAt tail16 (⟨1, 0, 1, 0, 31⟩ : FSY) (⟨0, 65536, 1, 0, none, false⟩ : ScrTarget))
      8))) := by
  unfold canArrive
  constructorm* _ ∧ _ <;> first | exact released_quiet (by decide +kernel) | decide +kernel

theorem witness_BarrierFormsArriveAndWait_3_bara :
    (Ready (State.aged (object tail16 3)) tail16 (((Instr.bara, keepRecord) : (FSY → Instr) × (FSY → BarHandle → Sheaf →
      State → State)).1 (⟨1, 0, 1, 0, 31⟩ : FSY))) ∧ tail16.bar = none ∧ canArrive (State.aged (object tail16 3)) tail16
      (⟨1, 0, 1, 0, 31⟩ : FSY) (⟨0, 65536, 1, 0, none, false⟩ : ScrTarget) ∧ (⟨0, 65536, 1, 0, none, false⟩ :
      ScrTarget).member = none ∧ (arriving (State.aged (object tail16 3)) tail16 (⟨1, 0, 1, 0, 31⟩ : FSY) (⟨0, 65536, 1,
      0, none, false⟩ : ScrTarget)).scrBad (barAt tail16 (⟨1, 0, 1, 0, 31⟩ : FSY) (⟨0, 65536, 1, 0, none, false⟩ :
      ScrTarget)) 8 = false ∧ barBad (BitVec.ofNat 64 (leNat ((arriving (State.aged (object tail16 3)) tail16 (⟨1, 0, 1,
      0, 31⟩ : FSY) (⟨0, 65536, 1, 0, none, false⟩ : ScrTarget)).scrRead (barAt tail16 (⟨1, 0, 1, 0, 31⟩ : FSY) (⟨0,
      65536, 1, 0, none, false⟩ : ScrTarget)) 8))) = false ∧ (State.aged (object tail16 3)).clouded tail16 1 (barAt
      tail16 (⟨1, 0, 1, 0, 31⟩ : FSY) (⟨0, 65536, 1, 0, none, false⟩ : ScrTarget)) 8 = false ∧ barArr (BitVec.ofNat 64
      (leNat ((arriving (State.aged (object tail16 3)) tail16 (⟨1, 0, 1, 0, 31⟩ : FSY) (⟨0, 65536, 1, 0, none, false⟩ :
      ScrTarget)).scrRead (barAt tail16 (⟨1, 0, 1, 0, 31⟩ : FSY) (⟨0, 65536, 1, 0, none, false⟩ : ScrTarget)) 8))) = 0 := by
  unfold canArrive
  constructorm* _ ∧ _ <;> first | exact released_quiet (by decide +kernel) | decide +kernel

theorem witness_BarrierFormsArriveAndWait_6_bara :
    (Ready (mach ({ h0 with arr := some .sent } : Sheaf)) ({ h0 with arr := some .sent } : Sheaf) (((Instr.bara, keepRecord)
      : (FSY → Instr) × (FSY → BarHandle → Sheaf → State → State)).1 (⟨1, 0, 1, 0, 31⟩ : FSY))) ∧
      ({ h0 with arr := some .sent } : Sheaf).bar = none ∧ ({ h0 with arr := some .sent } : Sheaf).arr = some .sent := by decide +kernel

theorem witness_BarrierFormsArriveAndWait_8_bara :
    (Ready (mach ({ h0 with arr := some (.refused 14 true) } : Sheaf)) ({ h0 with arr := some (.refused 14 true) } : Sheaf)
      (((Instr.bara, keepRecord) : (FSY → Instr) × (FSY → BarHandle → Sheaf → State → State)).1 (⟨1, 0, 1, 0, 31⟩ :
      FSY))) ∧ ({ h0 with arr := some (.refused 14 true) } : Sheaf).bar = none ∧
      ({ h0 with arr := some (.refused 14 true) } : Sheaf).arr = some (.refused 0x0E true) := by decide +kernel

theorem witness_BarrierFormsArriveAndWait_7_bara :
    (Ready (mach ({ h0 with arr := some (.made (bar0 0) true) } : Sheaf)) ({ h0 with arr := some (.made (bar0 0) true) } :
      Sheaf) (((Instr.bara, keepRecord) : (FSY → Instr) × (FSY → BarHandle → Sheaf → State → State)).1 (⟨1, 0, 1, 0, 31⟩
      : FSY))) ∧ ({ h0 with arr := some (.made (bar0 0) true) } : Sheaf).bar = none ∧
      ({ h0 with arr := some (.made (bar0 0) true) } : Sheaf).arr = some (.made (bar0 0) true) := by decide +kernel

theorem witness_BarrierFormsArriveAndWait_1_bar :
    (Ready (State.aged (object tail16 0x0000000200010003)) tail16 (((Instr.bar, fun _ => awaitRecord) : (FSY → Instr) × (FSY
      → BarHandle → Sheaf → State → State)).1 (⟨1, 0, 1, 0, 0⟩ : FSY))) ∧ tail16.bar = none ∧ canArrive (State.aged
      (object tail16 0x0000000200010003)) tail16 (⟨1, 0, 1, 0, 0⟩ : FSY) (⟨0, 65536, 1, 0, none, false⟩ : ScrTarget) ∧
      (⟨0, 65536, 1, 0, none, false⟩ : ScrTarget).member = none ∧ (arriving (State.aged (object tail16
      0x0000000200010003)) tail16 (⟨1, 0, 1, 0, 0⟩ : FSY) (⟨0, 65536, 1, 0, none, false⟩ : ScrTarget)).scrBad (barAt
      tail16 (⟨1, 0, 1, 0, 0⟩ : FSY) (⟨0, 65536, 1, 0, none, false⟩ : ScrTarget)) 8 = false ∧ barBad (BitVec.ofNat 64
      (leNat ((arriving (State.aged (object tail16 0x0000000200010003)) tail16 (⟨1, 0, 1, 0, 0⟩ : FSY) (⟨0, 65536, 1, 0,
      none, false⟩ : ScrTarget)).scrRead (barAt tail16 (⟨1, 0, 1, 0, 0⟩ : FSY) (⟨0, 65536, 1, 0, none, false⟩ :
      ScrTarget)) 8))) = false ∧ (State.aged (object tail16 0x0000000200010003)).clouded tail16 1 (barAt tail16 (⟨1, 0,
      1, 0, 0⟩ : FSY) (⟨0, 65536, 1, 0, none, false⟩ : ScrTarget)) 8 = false ∧ 0 < barArr (BitVec.ofNat 64 (leNat
      ((arriving (State.aged (object tail16 0x0000000200010003)) tail16 (⟨1, 0, 1, 0, 0⟩ : FSY) (⟨0, 65536, 1, 0, none,
      false⟩ : ScrTarget)).scrRead (barAt tail16 (⟨1, 0, 1, 0, 0⟩ : FSY) (⟨0, 65536, 1, 0, none, false⟩ : ScrTarget))
      8))) := by
  unfold canArrive
  constructorm* _ ∧ _ <;> first | exact released_quiet (by decide +kernel) | decide +kernel

theorem witness_BarrierFormsArriveAndWait_3_bar :
    (Ready (State.aged (object tail16 3)) tail16 (((Instr.bar, fun _ => awaitRecord) : (FSY → Instr) × (FSY → BarHandle →
      Sheaf → State → State)).1 (⟨1, 0, 1, 0, 0⟩ : FSY))) ∧ tail16.bar = none ∧ canArrive (State.aged (object tail16 3))
      tail16 (⟨1, 0, 1, 0, 0⟩ : FSY) (⟨0, 65536, 1, 0, none, false⟩ : ScrTarget) ∧ (⟨0, 65536, 1, 0, none, false⟩ :
      ScrTarget).member = none ∧ (arriving (State.aged (object tail16 3)) tail16 (⟨1, 0, 1, 0, 0⟩ : FSY) (⟨0, 65536, 1,
      0, none, false⟩ : ScrTarget)).scrBad (barAt tail16 (⟨1, 0, 1, 0, 0⟩ : FSY) (⟨0, 65536, 1, 0, none, false⟩ :
      ScrTarget)) 8 = false ∧ barBad (BitVec.ofNat 64 (leNat ((arriving (State.aged (object tail16 3)) tail16 (⟨1, 0, 1,
      0, 0⟩ : FSY) (⟨0, 65536, 1, 0, none, false⟩ : ScrTarget)).scrRead (barAt tail16 (⟨1, 0, 1, 0, 0⟩ : FSY) (⟨0,
      65536, 1, 0, none, false⟩ : ScrTarget)) 8))) = false ∧ (State.aged (object tail16 3)).clouded tail16 1 (barAt
      tail16 (⟨1, 0, 1, 0, 0⟩ : FSY) (⟨0, 65536, 1, 0, none, false⟩ : ScrTarget)) 8 = false ∧ barArr (BitVec.ofNat 64
      (leNat ((arriving (State.aged (object tail16 3)) tail16 (⟨1, 0, 1, 0, 0⟩ : FSY) (⟨0, 65536, 1, 0, none, false⟩ :
      ScrTarget)).scrRead (barAt tail16 (⟨1, 0, 1, 0, 0⟩ : FSY) (⟨0, 65536, 1, 0, none, false⟩ : ScrTarget)) 8))) = 0 := by
  unfold canArrive
  constructorm* _ ∧ _ <;> first | exact released_quiet (by decide +kernel) | decide +kernel

theorem witness_BarrierFormsArriveAndWait_6_bar :
    (Ready (mach ({ h0 with arr := some .sent } : Sheaf)) ({ h0 with arr := some .sent } : Sheaf) (((Instr.bar, fun _ =>
      awaitRecord) : (FSY → Instr) × (FSY → BarHandle → Sheaf → State → State)).1 (⟨1, 0, 1, 0, 0⟩ : FSY))) ∧
      ({ h0 with arr := some .sent } : Sheaf).bar = none ∧ ({ h0 with arr := some .sent } : Sheaf).arr = some .sent := by decide +kernel

theorem witness_BarrierFormsArriveAndWait_8_bar :
    (Ready (mach ({ h0 with arr := some (.refused 14 true) } : Sheaf)) ({ h0 with arr := some (.refused 14 true) } : Sheaf)
      (((Instr.bar, fun _ => awaitRecord) : (FSY → Instr) × (FSY → BarHandle → Sheaf → State → State)).1 (⟨1, 0, 1, 0,
      0⟩ : FSY))) ∧ ({ h0 with arr := some (.refused 14 true) } : Sheaf).bar = none ∧
      ({ h0 with arr := some (.refused 14 true) } : Sheaf).arr = some (.refused 0x0E true) := by decide +kernel

theorem witness_BarrierFormsArriveAndWait_7_bar :
    (Ready (mach ({ h0 with arr := some (.made (bar0 0) true) } : Sheaf)) ({ h0 with arr := some (.made (bar0 0) true) } :
      Sheaf) (((Instr.bar, fun _ => awaitRecord) : (FSY → Instr) × (FSY → BarHandle → Sheaf → State → State)).1 (⟨1, 0,
      1, 0, 0⟩ : FSY))) ∧ ({ h0 with arr := some (.made (bar0 0) true) } : Sheaf).bar = none ∧
      ({ h0 with arr := some (.made (bar0 0) true) } : Sheaf).arr = some (.made (bar0 0) true) := by decide +kernel

theorem witness_BarrierFormsArriveAndWait_10 :
    
      ({ duo duoA with mm := { m0.mm with chans := [({ reqOf .load none with kind := .arrive, size := 8, addr := 524288 + 65520 } : ChanReq)], scr := Mem.write [] (524288 + 65520) (natLe 8 0x0000000200010003) } }
      : State).mm.chans.find? (fun r => r.src == (0 : Nat) && r.dst == (1 : Nat)) = some
      ({ reqOf .load none with kind := .arrive, size := 8, addr := 524288 + 65520 } : ChanReq) ∧
      ({ reqOf .load none with kind := .arrive, size := 8, addr := 524288 + 65520 } : ChanReq).kind = .arrive ∧
      ({ reqOf .load none with kind := .arrive, size := 8, addr := 524288 + 65520 } : ChanReq).undef = false ∧
      ({ duo duoA with mm := { m0.mm with chans := [({ reqOf .load none with kind := .arrive, size := 8, addr := 524288 + 65520 } : ChanReq)], scr := Mem.write [] (524288 + 65520) (natLe 8 0x0000000200010003) } }
      : State).scrBad ({ reqOf .load none with kind := .arrive, size := 8, addr := 524288 + 65520 } : ChanReq).addr 8 =
      false ∧ barBad (BitVec.ofNat 64 (leNat
      (({ duo duoA with mm := { m0.mm with chans := [({ reqOf .load none with kind := .arrive, size := 8, addr := 524288 + 65520 } : ChanReq)], scr := Mem.write [] (524288 + 65520) (natLe 8 0x0000000200010003) } }
      : State).scrRead ({ reqOf .load none with kind := .arrive, size := 8, addr := 524288 + 65520 } : ChanReq).addr
      8))) = false ∧ 0 < barArr (BitVec.ofNat 64 (leNat
      (({ duo duoA with mm := { m0.mm with chans := [({ reqOf .load none with kind := .arrive, size := 8, addr := 524288 + 65520 } : ChanReq)], scr := Mem.write [] (524288 + 65520) (natLe 8 0x0000000200010003) } }
      : State).scrRead ({ reqOf .load none with kind := .arrive, size := 8, addr := 524288 + 65520 } : ChanReq).addr
      8))) := by decide +kernel

theorem witness_BarrierFormsArriveAndWait_11 :
    Ready (mach (barred 0)) (barred 0) (.bar (⟨1, 0, 0, 0, 0⟩ : FSY)) ∧ (barred 0).bar = some (bar0 0) ∧ ((mach (barred
      0)).barCode (bar0 0)).2 = 0 := by decide +kernel

theorem witness_BarrierFormsArriveAndWait_12 :
    Ready (mach (barred 1)) (barred 1) (.bar (⟨1, 0, 0, 0, 0⟩ : FSY)) ∧ (barred 1).bar = some (bar0 1) ∧ ((mach (barred
      1)).barCode (bar0 1)).2 = 1 := by decide +kernel

theorem witness_BarrierFormsArriveAndWait_13 :
    Ready (mach (barred 4)) (barred 4) (.bar (⟨1, 0, 0, 0, 0⟩ : FSY)) ∧ (barred 4).bar = some (bar0 4) ∧ ((mach (barred
      4)).barCode (bar0 4)).2 ≠ 0 ∧ ((mach (barred 4)).barCode (bar0 4)).2 ≠ 1 := by decide +kernel

theorem witness_BarrierFormsArriveAndWait_14 :
    Ready (mach (barred 1)) (barred 1) (.barw (⟨1, 0, 0, 0, 31⟩ : FSY)) ∧ (barred 1).getH (⟨1, 0, 0, 0, 31⟩ : FSY).h.toNat =
      .bar (bar0 1) ∧ ((mach (barred 1)).barCode (bar0 1)).2 = 1 := by decide +kernel

theorem witness_BarrierFormsArriveAndWait_15 :
    Ready (mach (barred 4)) (barred 4) (.barw (⟨1, 0, 0, 0, 31⟩ : FSY)) ∧ (barred 4).getH (⟨1, 0, 0, 0, 31⟩ : FSY).h.toNat =
      .bar (bar0 4) ∧ ((mach (barred 4)).barCode (bar0 4)).2 = 4 := by decide +kernel

theorem witness_BarrierFormsArriveAndWait_16 :
    Ready (mach (barred 0)) (barred 0) (.barw (⟨1, 0, 0, 0, 31⟩ : FSY)) ∧ (barred 0).getH (⟨1, 0, 0, 0, 31⟩ : FSY).h.toNat =
      .bar (bar0 0) ∧ ((mach (barred 0)).barCode (bar0 0)).2 ≠ 1 ∧ ((mach (barred 0)).barCode (bar0 0)).2 ≠ 4 := by decide +kernel

theorem witness_BarrierFormsArriveAndWait_17 :
    Ready (mach (barred 4)) (barred 4) (.bart (⟨1, 0, 0, 0, 31⟩ : FSY)) ∧ (barred 4).getH (⟨1, 0, 0, 0, 31⟩ : FSY).h.toNat =
      .bar (bar0 4) ∧ ((mach (barred 4)).barCode (bar0 4)).2 = 4 := by decide +kernel

theorem witness_BarrierFormsArriveAndWait_18 :
    Ready (mach (barred 0)) (barred 0) (.bart (⟨1, 0, 0, 0, 31⟩ : FSY)) ∧ (barred 0).getH (⟨1, 0, 0, 0, 31⟩ : FSY).h.toNat =
      .bar (bar0 0) ∧ ((mach (barred 0)).barCode (bar0 0)).2 ≠ 4 := by decide +kernel

theorem witness_TransactionBarrierForms_3 :
    Ready (mach ({ tail16 with mq := [.acc load0], nseq := 1 } : Sheaf)) ({ tail16 with mq := [.acc load0], nseq := 1 } :
      Sheaf) (.txba (⟨1, 0, 1, 2, 0⟩ : FSY)) ∧ txbReady (mach ({ tail16 with mq := [.acc load0], nseq := 1 } : Sheaf))
      ({ tail16 with mq := [.acc load0], nseq := 1 } : Sheaf) (⟨1, 0, 1, 2, 0⟩ : FSY) ∧ ((mach
      ({ tail16 with mq := [.acc load0], nseq := 1 } : Sheaf)).touch ({ tail16 with mq := [.acc load0], nseq := 1 } :
      Sheaf) 1 (({ tail16 with mq := [.acc load0], nseq := 1 } : Sheaf).scrAbs
      (({ tail16 with mq := [.acc load0], nseq := 1 } : Sheaf).getS (⟨1, 0, 1, 2, 0⟩ : FSY).sa.toNat).toNat) 16
      true).released (({ tail16 with mq := [.acc load0], nseq := 1 } : Sheaf).retile ((mach
      ({ tail16 with mq := [.acc load0], nseq := 1 } : Sheaf)).touch ({ tail16 with mq := [.acc load0], nseq := 1 } :
      Sheaf) 1 (({ tail16 with mq := [.acc load0], nseq := 1 } : Sheaf).scrAbs
      (({ tail16 with mq := [.acc load0], nseq := 1 } : Sheaf).getS (⟨1, 0, 1, 2, 0⟩ : FSY).sa.toNat).toNat) 16 true))
      (⟨1, 0, 1, 2, 0⟩ : FSY).scp = false := by
  unfold txbReady
  decide +kernel

theorem witness_TransactionBarrierForms_8 :
    m0.unseen h0 = [] := by decide +kernel

theorem witness_HandleForms_9 :
    ({ mach owner with eng := { m0.eng with ops := [{ op0 (some 0) with seenBy := [1] }] } } : State).op? (9 : Nat) = some
      ({ op0 (some 0) with seenBy := [1] }) ∧ ({ op0 (some 0) with seenBy := [1] }).status = some (0 : DWord) ∧
      owner.uid ∈ ({ op0 (some 0) with seenBy := [1] }).seenBy := by decide +kernel

theorem witness_BarrierFormsArriveAndWait_4 :
    (Ready (State.aged (duo (regS duoA [(1, 65520), (2, 1)]))) (regS duoA [(1, 65520), (2, 1)]) (((Instr.bara, keepRecord) :
      (FSY → Instr) × (FSY → BarHandle → Sheaf → State → State)).1 (⟨1, 0, 1, 2, 31⟩ : FSY))) ∧ (regS duoA [(1, 65520),
      (2, 1)]).bar = none ∧ canArrive (State.aged (duo (regS duoA [(1, 65520), (2, 1)]))) (regS duoA [(1, 65520), (2,
      1)]) (⟨1, 0, 1, 2, 31⟩ : FSY) (⟨duoB.scrAbs 0, 65536, 2, 1, some 1, false⟩ : ScrTarget) ∧ (⟨duoB.scrAbs 0, 65536,
      2, 1, some 1, false⟩ : ScrTarget).member.isSome = true := by
  unfold canArrive
  constructorm* _ ∧ _ <;> first | exact released_quiet (by decide +kernel) | decide +kernel

theorem witness_EngineStepsMoveData_2 :
    opRuns
      ({ duo duoA with eng := { m0.eng with ops := [({ copyOp with ents := [{ ent 0 64 1 32 3 0 with spc := 2, pmem := 1 }, ent 65472 64 1 32 3 0] } : Op)] } }
      : State) (9 : Nat)
      ({ copyOp with ents := [{ ent 0 64 1 32 3 0 with spc := 2, pmem := 1 }, ent 65472 64 1 32 3 0] } : Op) duoA ∧
      ({ copyOp with ents := [{ ent 0 64 1 32 3 0 with spc := 2, pmem := 1 }, ent 65472 64 1 32 3 0] } : Op).pathOpen =
      false ∧ ({ copyOp with ents := [{ ent 0 64 1 32 3 0 with spc := 2, pmem := 1 }, ent 65472 64 1 32 3 0] } :
      Op).failed = false ∧
      (({ copyOp with ents := [{ ent 0 64 1 32 3 0 with spc := 2, pmem := 1 }, ent 65472 64 1 32 3 0] } :
      Op).kind.isWinnow = true →
      ({ duo duoA with eng := { m0.eng with ops := [({ copyOp with ents := [{ ent 0 64 1 32 3 0 with spc := 2, pmem := 1 }, ent 65472 64 1 32 3 0] } : Op)] } }
      : State).slotTurn ({ copyOp with ents := [{ ent 0 64 1 32 3 0 with spc := 2, pmem := 1 }, ent 65472 64 1 32 3 0] }
      : Op) = true) ∧
      (({ duo duoA with eng := { m0.eng with ops := [({ copyOp with ents := [{ ent 0 64 1 32 3 0 with spc := 2, pmem := 1 }, ent 65472 64 1 32 3 0] } : Op)] } }
      : State).needs ({ copyOp with ents := [{ ent 0 64 1 32 3 0 with spc := 2, pmem := 1 }, ent 65472 64 1 32 3 0] } :
      Op))[(0 : Nat)]? = some (⟨2, peerStep, 32⟩ : Rng) ∧
      ({ copyOp with ents := [{ ent 0 64 1 32 3 0 with spc := 2, pmem := 1 }, ent 65472 64 1 32 3 0] } : Op).got (⟨2,
      peerStep, 32⟩ : Rng) = false ∧
      (({ duo duoA with eng := { m0.eng with ops := [({ copyOp with ents := [{ ent 0 64 1 32 3 0 with spc := 2, pmem := 1 }, ent 65472 64 1 32 3 0] } : Op)] } }
      : State).requests.any fun c => c.kind == .opRead
      ({ copyOp with ents := [{ ent 0 64 1 32 3 0 with spc := 2, pmem := 1 }, ent 65472 64 1 32 3 0] } : Op).id (⟨2,
      peerStep, 32⟩ : Rng).key) = false ∧ (⟨2, peerStep, 32⟩ : Rng).sp = 2 ∧
      ({ duo duoA with eng := { m0.eng with ops := [({ copyOp with ents := [{ ent 0 64 1 32 3 0 with spc := 2, pmem := 1 }, ent 65472 64 1 32 3 0] } : Op)] } }
      : State).peerOf duoA ((⟨2, peerStep, 32⟩ : Rng).a / peerStep) = some (duoB, false) ∧ min (⟨2, peerStep, 32⟩ :
      Rng).n (duoB.scrBytes - (⟨2, peerStep, 32⟩ : Rng).a % peerStep) ≠ 0 := by
  unfold opRuns
  decide +kernel

theorem witness_EngineStepsMoveData_6 :
    opRuns (ran fedOp h0 []) (9 : Nat) fedOp h0 ∧ fedOp.failed = false ∧ fedOp.kind ∈ .lg2s :: sectorKinds ∧ xSpc fedOp.xmem
      ≠ 3 ∧ fedOp.done.contains (2046 : Nat) = false ∧ ((ran fedOp h0 []).units fedOp h0).contains (2046 : Nat) = true ∧
      (ran fedOp h0 []).badLine fedOp = none ∧ (ran fedOp h0 []).unitTarget fedOp h0 (2046 : Nat) = .own ∧ (ran fedOp h0
      []).unitRuns fedOp h0 (2046 : Nat) .own = some ((((((ran fedOp h0 [])).unitRuns fedOp h0 2046 .own).getD ([],
      0)).1), (0 : Flags)) ∧ noneSent (ran fedOp h0 []) (9 : Nat) (2046 : Nat) := by
  unfold opRuns noneSent
  decide +kernel

theorem witness_EngineStepsMoveData_7 :
    opRuns (ran toOp h0 []) (9 : Nat) toOp h0 ∧ toOp.failed = false ∧ toOp.susp = false ∧ toOp.kind ∈ sectorKinds ∧
      toOp.done.contains (4096 : Nat) = false ∧ ((ran toOp h0 []).units toOp h0).contains (4096 : Nat) = true ∧ (ran
      toOp h0 []).badLine toOp = none ∧ (ran toOp h0 []).unitTarget toOp h0 (4096 : Nat) = .home ∧ (ran toOp h0
      []).lineHeld toOp.ctx (32 * (4096 : Nat)) = false ∧ (ran toOp h0 []).homeOf toOp.ctx (32 * (4096 : Nat)) .write =
      ((ran toOp h0 []), .ok home0) ∧ (ran toOp h0 []).unitRuns toOp h0 (4096 : Nat) .home = some ((((((ran toOp h0
      [])).unitRuns toOp h0 4096 .home).getD ([], 0)).1), (0 : Flags)) ∧ (ran toOp h0 []).op? (9 : Nat) = some toOp ∧
      noneSent (ran toOp h0 []) (9 : Nat) (4096 : Nat) := by
  unfold opRuns noneSent
  decide +kernel

theorem witness_EngineStepsMoveData_8 :
    fedOp.kind ∈ sectorKinds ∧ (2046 : Nat) < 2 ^ 60 ∧ fedOp.shape = some copyShape ∧ fedOp.sector copyShape ((ran fedOp h0
      []).limOf h0 copyShape.src) (2046 : Nat) = some (((2 ^ 256 - 1) / 255), (2 ^ 256 - 1), (0 : Flags)) ∧
      copyShape.dst.sp = 1 := by decide +kernel

theorem witness_EngineStepsMoveData_9 :
    toOp.kind ∈ sectorKinds ∧ (4096 : Nat) < 2 ^ 60 ∧ toOp.shape = some toShape ∧ toOp.sector toShape ((ran toOp h0
      []).limOf h0 toShape.src) (4096 : Nat) = some (((2 ^ 256 - 1) / 255), (2 ^ 256 - 1), (0 : Flags)) ∧ toShape.dst.sp
      = 0 ∧ ((ran toOp h0 [])).homeOf toOp.ctx (32 * 4096) .any = ((ran toOp h0 []), .ok home0) := by decide +kernel

theorem witness_EngineStepsMoveData_10 :
    laneOp.kind = .lg2s ∧ laneOp.lanes[(0 : Nat)]? = some (⟨0, 0x20000, 65520, false⟩ : LaneCopy) ∧ xSpc laneOp.xmem ≠ 3 ∧
      laneOp.bytes ⟨0, (⟨0, 0x20000, 65520, false⟩ : LaneCopy).g, laneOp.laneBytes⟩ = some (List.replicate 16 0) := by decide +kernel

theorem witness_OperationsCompleteInOrder_2 :
    opRuns (ran ({ doneOp with stage := 1 } : Op) h0 []) (9 : Nat) ({ doneOp with stage := 1 } : Op) h0 ∧
      ({ doneOp with stage := 1 } : Op).kind = .bulk ∧ ({ doneOp with stage := 1 } : Op).shape = some copyShape ∧
      copyShape.dst.sp = 1 ∧ ({ doneOp with stage := 1 } : Op).code = 0 ∧ ({ doneOp with stage := 1 } : Op).susp = false
      ∧ ({ doneOp with stage := 1 } : Op).xfers = [] ∧ (ran ({ doneOp with stage := 1 } : Op) h0 []).badLine
      ({ doneOp with stage := 1 } : Op) = none ∧ (ran ({ doneOp with stage := 1 } : Op) h0 []).finished
      ({ doneOp with stage := 1 } : Op) h0 = true ∧ ((ran ({ doneOp with stage := 1 } : Op) h0 []).modOp (9 : Nat) fun x
      => { x with xfers := [] }).truncation ({ doneOp with stage := 1 } : Op) h0 = none ∧ (({ doneOp with stage := 1 } :
      Op).fl = true → (par ({ doneOp with stage := 1 } : Op).blk 4).getLsbD 25 = false) ∧ (({ doneOp with stage := 1 } :
      Op).stage = 0 → ({ doneOp with stage := 1 } : Op).tx = false) ∧ ({ doneOp with stage := 1 } : Op).stage < 2 ∧
      ({ doneOp with stage := 1 } : Op).fl = true := by
  unfold opRuns
  decide +kernel

theorem witness_OperationsCompleteInOrder_3 :
    opRuns (ran ({ doneOp with stage := 2 } : Op) h0 []) (9 : Nat) ({ doneOp with stage := 2 } : Op) h0 ∧
      ({ doneOp with stage := 2 } : Op).kind = .bulk ∧ ({ doneOp with stage := 2 } : Op).shape = some copyShape ∧
      copyShape.dst.sp = 1 ∧ ({ doneOp with stage := 2 } : Op).code = 0 ∧ ({ doneOp with stage := 2 } : Op).susp = false
      ∧ ({ doneOp with stage := 2 } : Op).xfers = [] ∧ (ran ({ doneOp with stage := 2 } : Op) h0 []).badLine
      ({ doneOp with stage := 2 } : Op) = none ∧ (ran ({ doneOp with stage := 2 } : Op) h0 []).finished
      ({ doneOp with stage := 2 } : Op) h0 = true ∧ ((ran ({ doneOp with stage := 2 } : Op) h0 []).modOp (9 : Nat) fun x
      => { x with xfers := [] }).truncation ({ doneOp with stage := 2 } : Op) h0 = none ∧ (({ doneOp with stage := 2 } :
      Op).fl = true → (par ({ doneOp with stage := 2 } : Op).blk 4).getLsbD 25 = false) ∧ (({ doneOp with stage := 2 } :
      Op).stage = 0 → ({ doneOp with stage := 2 } : Op).tx = false) ∧ (({ doneOp with stage := 2 } : Op).stage < 2 →
      ({ doneOp with stage := 2 } : Op).fl = false) := by
  unfold opRuns
  decide +kernel

theorem witness_OperationsCompleteInOrder_4 :
    h0.resident = true ∧ (65520 : Nat) + 16 ≤ h0.scrBytes ∧ (1 : Nat) ≠ 0 ∧ m0.scrBad (h0.scrAbs (65520 : Nat)) 16 = false := by decide +kernel

theorem witness_MatrixRowsAndPower_4 :
    opRuns (ran
      ({ op0 none with kind := .mmsp, insn := encode (.mmsp ⟨31, 15, 60, 0, 0⟩), blk := [0x100, 0, 32768, 0], ents := [ent 0 64 64 64 3 0, ent 4096 64 64 64 3 1] }
      : Op) h0 []) (9 : Nat)
      ({ op0 none with kind := .mmsp, insn := encode (.mmsp ⟨31, 15, 60, 0, 0⟩), blk := [0x100, 0, 32768, 0], ents := [ent 0 64 64 64 3 0, ent 4096 64 64 64 3 1] }
      : Op) h0 ∧
      ({ op0 none with kind := .mmsp, insn := encode (.mmsp ⟨31, 15, 60, 0, 0⟩), blk := [0x100, 0, 32768, 0], ents := [ent 0 64 64 64 3 0, ent 4096 64 64 64 3 1] }
      : Op).pathOpen = true := by
  unfold opRuns
  decide +kernel

theorem witness_MatrixRowsAndPower_6 :
    (∀ o ∈ (ran (loadOp 5) h0 []).matrixRunning (0 : Nat), o.idle < stallTime) := by decide +kernel

theorem witness_TaskForms_4 :
    m0.unseen h0 = [] := by decide +kernel

theorem witness_NestStepsOfALane_5 :
    h0.llmTab[(0 : Nat)]? = none := by decide +kernel

theorem witness_NestAgentsMeet_3 :
    h0.sheavesOf (0 : Nat) = 1 := by decide +kernel

theorem witness_LaunchesAreCheckedAndAdmitted_2 :
    (1 : Nat) ≤ 2 ∨ (1 : Nat) = 4 := by decide +kernel

theorem witness_LaunchesAreCheckedAndAdmitted_3 :
    2 < (7 : Nat) ∧ (7 : Nat) ≠ 4 ∧ 6 ≠ 4 ∧ (m0.mapPacket (1 : Nat) (packet 0x10002 (128 + 100000 * 2 ^ 160) 0)).2 = .error
      6 := by
  refine ⟨by decide, by decide, by decide, ?_⟩
  decide +kernel

theorem witness_LaunchesAreCheckedAndAdmitted_4 :
    (m0.mapPacket (1 : Nat) (packet 2 128 0)).2 = .ok (mapFlat (packet 2 128 0)) := by decide +kernel

theorem witness_LaunchesAreCheckedAndAdmitted_9 :
    (0 : Nat) < 24 ∧ (({ tasked with job := { tasked.job with tasks := List.replicate 32 (0, task0) } } : State).groups (0 :
      Nat))[(0 : Nat)]? = some ((1 : Nat), cap0) ∧
      ({ tasked with job := { tasked.job with tasks := List.replicate 32 (0, task0) } } : State).groupTasks (0 : Nat)
      ((1 : Nat), cap0) = task0 :: (List.replicate 31 task0) ∧
      ({ tasked with job := { tasked.job with tasks := List.replicate 32 (0, task0) } } : State).seg? (capSeg
      cap0).toNat = some trialSeg ∧ trialSeg.elist[(capEnt cap0).toNat]? = some (⟨0, 128, 16, 64, 4096, true, true⟩ :
      EntryRec) ∧ ({ tasked with job := { tasked.job with tasks := List.replicate 32 (0, task0) } } : State).ctxStopped
      (1 : Nat) = false ∧ ({ tasked with job := { tasked.job with tasks := List.replicate 32 (0, task0) } } :
      State).ctl.time ≤ task0.at_ + 2000 ∧ (List.replicate 31 task0).length = 31 := by decide +kernel

theorem witness_StopsAndResumes_6 :
    m0.sheaf? (1 : Nat) = some h0 ∧ (∀ o ∈ m0.eng.ops, o.sheaf = (1 : Nat) → o.live = false) := by decide +kernel

theorem witness_PoolAndFabric_19 :
    (∀ c ∈ ([contrib0 8] : List Contrib), 0 < c.n) ∧ (([contrib0 8] : List Contrib).map fun c => c.n).sum ≤ (1 : Nat) := by decide +kernel

theorem witness_PoolAndFabric_20 :
    fmtOf (8 : Nat) = none := by decide +kernel

theorem witness_StepRunsTheFetchedWord_3 :
    ({ placed 0x280820A0 with sheaves := [h0, { h0 with uid := 2, prio := 200 }] } : State).ctl.agenda = [] ∧
      ({ placed 0x280820A0 with sheaves := [h0, { h0 with uid := 2, prio := 200 }] } : State).ctl.svc = false ∧
      ({ ({ placed 0x280820A0 with sheaves := [h0, { h0 with uid := 2, prio := 200 }] } : State) with ctl := { ({ placed 0x280820A0 with sheaves := [h0, { h0 with uid := 2, prio := 200 }] } : State).ctl with svc := true } }
      : State).cur? = some h0 ∧
      ({ ({ placed 0x280820A0 with sheaves := [h0, { h0 with uid := 2, prio := 200 }] } : State) with ctl := { ({ placed 0x280820A0 with sheaves := [h0, { h0 with uid := 2, prio := 200 }] } : State).ctl with svc := true } }
      : State).mayIssue h0 = false := by decide +kernel

theorem witness_StepRunsTheFetchedWord_4 :
    (∀ g ∈ m0.sheaves, g.uid ≠ h0.uid → g.core ≠ h0.core) := by decide +kernel

theorem witness_StepRunsTheFetchedWord_5 :
    ({ h0 with uid := 2, prio := 200 } : Sheaf) ∈
      ({ placed 0x280820A0 with sheaves := [h0, { h0 with uid := 2, prio := 200 }] } : State).sheaves ∧
      ({ h0 with uid := 2, prio := 200 } : Sheaf).uid ≠ h0.uid ∧ ({ h0 with uid := 2, prio := 200 } : Sheaf).core =
      h0.core ∧ h0.prio < ({ h0 with uid := 2, prio := 200 } : Sheaf).prio ∧
      ({ placed 0x280820A0 with sheaves := [h0, { h0 with uid := 2, prio := 200 }] } : State).readyFor h0 = some
      (Instr.saluiAddi ⟨4, 4, 0xA0⟩) ∧ ({ placed 0x280820A0 with sheaves := [h0, { h0 with uid := 2, prio := 200 }] } :
      State).readyFor ({ h0 with uid := 2, prio := 200 } : Sheaf) = some (Instr.saluiAddi ⟨4, 4, 0xA0⟩) ∧
      ({ h0 with uid := 2, prio := 200 } : Sheaf).vectorPipe (Instr.saluiAddi ⟨4, 4, 0xA0⟩) = h0.vectorPipe
      (Instr.saluiAddi ⟨4, 4, 0xA0⟩) ∧ h0.seqr = false ∧ h0.rdy < 512000 := by decide +kernel

theorem witness_LoaderAndSequencer_5 :
    mapped.ctx? ({ request false false with place := [0x10000, 0, 0, 0, 0] } : LoadReq).ctx = some mappedCtx ∧ badFile
      ({ request false false with place := [0x10000, 0, 0, 0, 0] } : LoadReq) mappedCtx = none ∧ mapped.loadFile
      ({ request false false with place := [0x10000, 0, 0, 0, 0] } : LoadReq) mappedCtx [] [] (State.resolverFor
      ({ request false false with place := [0x10000, 0, 0, 0, 0] } : LoadReq)
      ({ request false false with place := [0x10000, 0, 0, 0, 0] } : LoadReq).ctx) = .error "NOMEM" := by
  refine ⟨by decide +kernel, by decide +kernel, ?_⟩
  refine loadFile_noMem (segs := [(0, 0, 1)]) ?_ (by decide +kernel)
  rw [show ordinals (secsOf ({ request false false with place := [0x10000, 0, 0, 0, 0] } : LoadReq).file) = [0] by decide +kernel]
  exact allotSegs_zero (by decide +kernel)

theorem witness_LoaderAndSequencer_6 :
    mapped.ctx? 1 = some mappedCtx ∧ badFile (request false false) mappedCtx = none ∧
      ∃ t segs, mapped.loadFile (request false false) mappedCtx [] [] (State.resolverFor (request false false) 1) = .ok (t, segs) := by
  refine ⟨by decide +kernel, by decide +kernel, loadFile_ok (segs := [(0, 0, 1)]) ?_ (by decide +kernel) (by decide +kernel)
    (by decide +kernel) (by decide +kernel) (by decide +kernel)⟩
  rw [show ordinals (secsOf (request false false).file) = [0] by decide +kernel]
  exact allotSegs_zero (by decide +kernel)

theorem witness_LoaderAndSequencer_7 :
    crowded.ctx? (request false false).ctx = some trialCtx ∧ badFile (request false false) trialCtx = none ∧
      crowded.allotSegs (ordinals (secsOf (request false false).file)) [] = none := by
  refine ⟨by decide +kernel, by decide +kernel, ?_⟩
  rw [show ordinals (secsOf (request false false).file) = [0] by decide +kernel]
  exact allotSegs_crowded 0

/-! ### Witnesses: what the third round of statements added -/

theorem witness_ScalarFrame_4 :
    ∀ c ∈ saluiTable.map (·.1), ∃ x ∈ saluiOps, Ready (mach (withX h0 x.2)) (withX h0 x.2) (c x.1) ∧ goes (exec (c x.1)
      (mach (withX h0 x.2))) = true := by decide +kernel

theorem witness_VectorFrame_1 :
    ∀ c ∈ vecTable.map (·.1), ∃ x ∈ vecOps, Ready (mach (withX h0 x.2)) (withX h0 x.2) (c x.1) ∧ goes (exec (c x.1) (mach
      (withX h0 x.2))) = true := by decide +kernel

theorem witness_VectorFrame_2 :
    ∀ c ∈ vecImmTable.map (·.1), ∃ x ∈ ([⟨1, 127, 126, 31⟩] : List FVI), Ready m0 h0 (c x) ∧ goes (exec (c x) m0) = true := by decide +kernel

theorem witness_VectorFrame_3 :
    ∀ c ∈ vriTable.map (·.1), Ready m0 h0 (c (⟨1, 127, 0xFFFF⟩ : FRI)) ∧ goes (exec (c (⟨1, 127, 0xFFFF⟩ : FRI)) m0) = true := by decide +kernel

theorem witness_VectorFrame_4 :
    ∀ c ∈ [Instr.addc, .subb], Ready m0 h0 (c (⟨0, 1, 1, 1⟩ : FV3)) ∧ goes (exec (c (⟨0, 1, 1, 1⟩ : FV3)) m0) = true := by decide +kernel

theorem witness_VectorFrame_6 :
    Ready (mach (withX h0 [(3, 0x048600)])) (withX h0 [(3, 0x048600)]) (.cvti (⟨1, 2, 4, 0⟩ : FV3)) ∧ goes (exec (.cvti (⟨1,
      2, 4, 0⟩ : FV3)) (mach (withX h0 [(3, 0x048600)]))) = true := by decide +kernel

theorem witness_VectorFrame_7 :
    ∀ c ∈ costedTable.map (·.2.1), ∃ x ∈ vecOps, Ready (mach (withX h0 x.2)) (withX h0 x.2) (c x.1) ∧ goes (exec (c x.1)
      (mach (withX h0 x.2))) = true := by decide +kernel

theorem witness_SysForms_5 :
    h0.path = some p0 ∧ h0.stack.any (·.sameLink p0.link) = false := by decide +kernel

theorem witness_DecodeTrapIsLowestCause_2 :
    (encode (.saluAdd ⟨1, 2, 3, 1⟩)).extractLsb' 27 5 ≠ 0x1F ∧ m0.cur? = some h0 ∧ m0.canIssue h0 = true ∧ (2 : Nat) ∈
      m0.decodeCauses h0 (.saluAdd ⟨1, 2, 3, 1⟩) ∧ (∀ d ∈ m0.decodeCauses h0 (.saluAdd ⟨1, 2, 3, 1⟩), (2 : Nat) ≤ d) := by decide +kernel

theorem witness_GlobalFormsQueueAccesses_4 :
    m0.gathering (0 : Nat) + (List.replicate 512 load0).length ≤ 512 := by decide +kernel

theorem witness_GlobalFormsQueueAccesses_5 :
    512 ≤ (mach ({ asking with mq := List.replicate 512 (.acc { load0 with gath := 5 }) } : Sheaf)).gathering (0 : Nat) := by decide +kernel

theorem witness_GlobalFormsQueueAccesses_6 :
    (⟨.ld .b32 ⟨1, 4, 8, 2, 0⟩, ⟨1, 4, 8, 2, 0⟩, 4, 1, .load, false, false⟩ : MemReq).uniform = false ∧ xSpc (h0.xmem (⟨.ld
      .b32 ⟨1, 4, 8, 2, 0⟩, ⟨1, 4, 8, 2, 0⟩, 4, 1, .load, false, false⟩ : MemReq).i) = 0 ∧
      ({ m0 with flt := { m0.flt with log := List.replicate 1024 (logged0 1) } } : State).logFull h0.core = true := by decide +kernel

theorem witness_GlobalFormsQueueAccesses_7 :
    ∃ f ∈ globForms, Ready ({ m0 with flt := { m0.flt with log := List.replicate 1024 (logged0 1) } } : State) h0 (f (⟨1, 4,
      8, 2, 0⟩ : FM)).i ∧ ({ m0 with flt := { m0.flt with log := List.replicate 1024 (logged0 1) } } : State).memHeld h0
      (f (⟨1, 4, 8, 2, 0⟩ : FM)) = true := by decide +kernel

theorem witness_MisalignedLaneRaisesCause_1 :
    ∃ f ∈ globForms, Ready (mach (withX h0 [(4, 0x680000)])) (withX h0 [(4, 0x680000)]) (f (⟨0, 4, 0, 2, 0⟩ : FM)).i ∧ (mach
      (withX h0 [(4, 0x680000)])).memHeld (withX h0 [(4, 0x680000)]) (f (⟨0, 4, 0, 2, 0⟩ : FM)) = false ∧ faults (f (⟨0,
      4, 0, 2, 0⟩ : FM)) (mach (withX h0 [(4, 0x680000)])) (withX h0 [(4, 0x680000)]) ≠ [] ∧ (f (⟨0, 4, 0, 2, 0⟩ :
      FM)).uniform = true := by decide +kernel

theorem witness_MisalignedLaneRaisesCause_2 :
    ∃ f ∈ globForms, Ready (mach (withX h0 [(4, 0x680000)])) (withX h0 [(4, 0x680000)]) (f (⟨0, 4, 8, 2, 0⟩ : FM)).i ∧ (mach
      (withX h0 [(4, 0x680000)])).memHeld (withX h0 [(4, 0x680000)]) (f (⟨0, 4, 8, 2, 0⟩ : FM)) = false ∧ faults (f (⟨0,
      4, 8, 2, 0⟩ : FM)) (mach (withX h0 [(4, 0x680000)])) (withX h0 [(4, 0x680000)]) ≠ [] ∧ (f (⟨0, 4, 8, 2, 0⟩ :
      FM)).uniform = false ∧ asked (f (⟨0, 4, 8, 2, 0⟩ : FM)) (mach (withX h0 [(4, 0x680000)])) (withX h0 [(4,
      0x680000)]) = [] := by decide +kernel

/-- Two lanes, of which the second has an address below zero. -/
def twoNeg : Sheaf := { two with lanes := two.lanes.map fun l => if l.lid = 1 then l.setV 8 0xFFFFFFF0 else l }

theorem witness_MisalignedLaneRaisesCause_3 :
    ∃ f ∈ globForms, Ready (mach twoNeg) twoNeg (f (⟨0, 4, 8, 2, 0⟩ : FM)).i ∧ (mach twoNeg).memHeld twoNeg (f (⟨0, 4, 8, 2,
      0⟩ : FM)) = false ∧ faults (f (⟨0, 4, 8, 2, 0⟩ : FM)) (mach twoNeg) twoNeg ≠ [] ∧ (f (⟨0, 4, 8, 2, 0⟩ :
      FM)).uniform = false ∧ asked (f (⟨0, 4, 8, 2, 0⟩ : FM)) (mach twoNeg) twoNeg ≠ [] := by decide +kernel

theorem witness_AccessesPerformAtHome_12 :
    (∀ r ∈ m0.sys.cmds, r.op ≠ 0x11) := by decide +kernel

theorem witness_AccessesPerformAtHome_13 :
    512 ≤ (mach ({ asking with mq := List.replicate 512 (.acc { load0 with gath := 5 }) } : Sheaf)).gathering (0 : Nat) := by decide +kernel

theorem witness_AccessesPerformAtHome_14 :
    m0.gathering (0 : Nat) < 512 := by decide +kernel

/-- The machine with the line of the segment's code in a slice that is being quiesced. -/
def holdingBack : State :=
  { m0 with mm := { m0.mm with homes := [{ home0 with line := trialSeg.base / 128 }] }
            sys := { m0.sys with cmds := [⟨9, 0x11, ⟨0, 3, 0, 0⟩, 0, 0, 0⟩] } }

theorem witness_TablesAndLiterals_12 :
    holdingBack.curSeg h0 = some trialSeg ∧ holdingBack.codeHeld h0.core h0.ctx trialSeg (h0.literal (⟨0, 63, 3⟩ :
      FRI).imm).toNat = true ∧ Ready holdingBack h0 (.ldls (⟨0, 63, 3⟩ : FRI)) := by decide +kernel

theorem witness_TablesAndLiterals_13 :
    holdingBack.curSeg h0 = some trialSeg ∧ holdingBack.codeHeld h0.core h0.ctx trialSeg (h0.literal (⟨0, 127, 3⟩ :
      FRI).imm).toNat = true ∧ Ready holdingBack h0 (.ldlv (⟨0, 127, 3⟩ : FRI)) := by decide +kernel

theorem witness_TablesAndLiterals_14 :
    CodeLine (coded h0) h0 trialSeg (12 : Nat) (⟨0, 1, 1, 0, [3, 20, 24, 28, 0, 0, 0, 0, 0, 0, 0, 0, 0, 0, 0, 0]⟩ : ICLine) := by
  unfold CodeLine
  decide +kernel

theorem witness_SysForms_6 :
    let h : Sheaf := { h0 with stack := [.pending p0] }
    h.path = some p0 ∧ h.stack = [] ++ .pending p0 :: [] ∧ StackEntry.sameLink (.pending p0) p0.link = true ∧
      ([] : List StackEntry).any (·.sameLink p0.link) = false ∧
      ([] : List StackEntry) ++ .pending p0 :: .pending { p0 with pc := ⟨1, 1, 4⟩ } :: [] =
        [] ++ .pending p0 :: [.pending { p0 with pc := ⟨1, 1, 4⟩ }] ∧
      ∀ x ∈ ([] : List StackEntry), ∃ i r m fr, x = .record i r m fr :=
  ⟨by decide +kernel, by decide +kernel, by decide +kernel, by decide +kernel, by decide +kernel, fun _ e => absurd e List.not_mem_nil⟩

theorem witness_OperandLogAndPages_1 :
    (mach (queued load0)).sheaf? (1 : Nat) = some (queued load0) ∧ (queued load0).acc? (⟨0, 0, 0⟩ : AccId) = some load0 ∧
      (mach (queued load0)).logFull (queued load0).core = false ∧ (mach (queued load0)).logBehind (queued load0) load0 =
      none ∧ (mach (queued load0)).atHome (queued load0) load0 = true ∧ (((mach (queued load0)).copyFor (queued load0)
      load0).isNone ∨ load0.kind ≠ .load) ∧ (mach (queued load0)).homeFor (queued load0) load0 = ((mach (queued load0)),
      .error .permission) := by
  constructorm* _ ∧ _ <;> first | exact homeFor_error (by decide +kernel) | decide +kernel

/-- A sheaf whose drained store stands behind an earlier one to its line that is logged. -/
def store2 : Access := { store1 with id := ⟨1, 0, 0⟩ }
def storeL : Access := { store0 with stage := .logged (some 5) }
def behind0 : Sheaf := { h0 with mq := [.acc storeL, .acc store2], nseq := 2 }

theorem witness_OperandLogAndPages_2 :
    (mach behind0).sheaf? (1 : Nat) = some behind0 ∧ behind0.acc? (⟨1, 0, 0⟩ : AccId) = some store2 ∧ (mach behind0).logFull
      behind0.core = false ∧ (mach behind0).logBehind behind0 store2 = some (some storeL) := by decide +kernel

theorem witness_OperandLogAndPages_3 :
    behind0.stop = none ∧ (mach behind0).logBehind behind0 store2 = some (some storeL) := by decide +kernel

theorem witness_OperandLogAndPages_4 :
    ({ faulted 1 with eng := { m0.eng with ops := [({ laneOp with susp := true, fva := 0x20000 } : Op)] } } :
      State).flt.reqs.contains (⟨.core 0, 1, 2⟩ : PageReq) = true ∧
      ({ faulted 1 with eng := { m0.eng with ops := [({ laneOp with susp := true, fva := 0x20000 } : Op)] } } :
      State).eng.ops.filter (fun o => o.waitsFor (⟨.core 0, 1, 2⟩ : PageReq)) =
      [({ laneOp with susp := true, fva := 0x20000 } : Op)] := by decide +kernel

theorem witness_OperandLogAndPages_9 :
    ({ m0 with flt := { m0.flt with log := [({ logged0 3 with accs := [] } : LogEntry)] } } : State).sheaf? (1 : Nat) = some
      h0 ∧ ({ logged0 3 with accs := [] } : LogEntry) ∈ oldestUnit
      (({ m0 with flt := { m0.flt with log := [({ logged0 3 with accs := [] } : LogEntry)] } } : State).lateEntries h0)
      ∧ (∀ x ∈ oldestUnit (({ m0 with flt := { m0.flt with log := [({ logged0 3 with accs := [] } : LogEntry)] } } :
      State).lateEntries h0), ({ logged0 3 with accs := [] } : LogEntry).cause ≤ x.cause) ∧ h0.run = .running ∧
      h0.path.isSome = true ∧ h0.chain.pc0 = none ∧ h0.arr = none ∧ goes (exec (.lateTrap (1 : Nat))
      ({ m0 with flt := { m0.flt with log := [({ logged0 3 with accs := [] } : LogEntry)] } } : State)) = true := by decide +kernel

theorem witness_OperandLogAndPages_10 :
    m0.sheaf? (1 : Nat) = some h0 ∧ m0.lateEntries h0 = [] := by decide +kernel

theorem witness_BarrierFormsArriveAndWait_2_bara :
    (Ready
      ({ State.aged (object tail16 3) with eng := { m0.eng with ops := [({ laneOp with dstR := [(1, 65520, 16)], id := 9 } : Op)] } }
      : State) tail16 (((Instr.bara, keepRecord) : (FSY → Instr) × (FSY → BarHandle → Sheaf → State → State)).1 (⟨1, 0,
      1, 0, 31⟩ : FSY))) ∧ tail16.bar = none ∧ canArrive
      ({ State.aged (object tail16 3) with eng := { m0.eng with ops := [({ laneOp with dstR := [(1, 65520, 16)], id := 9 } : Op)] } }
      : State) tail16 (⟨1, 0, 1, 0, 31⟩ : FSY) (⟨0, 65536, 1, 0, none, false⟩ : ScrTarget) ∧ (⟨0, 65536, 1, 0, none,
      false⟩ : ScrTarget).member = none ∧ (arriving
      ({ State.aged (object tail16 3) with eng := { m0.eng with ops := [({ laneOp with dstR := [(1, 65520, 16)], id := 9 } : Op)] } }
      : State) tail16 (⟨1, 0, 1, 0, 31⟩ : FSY) (⟨0, 65536, 1, 0, none, false⟩ : ScrTarget)).scrBad (barAt tail16 (⟨1, 0,
      1, 0, 31⟩ : FSY) (⟨0, 65536, 1, 0, none, false⟩ : ScrTarget)) 8 = false ∧
      ({ State.aged (object tail16 3) with eng := { m0.eng with ops := [({ laneOp with dstR := [(1, 65520, 16)], id := 9 } : Op)] } }
      : State).clouded tail16 1 (barAt tail16 (⟨1, 0, 1, 0, 31⟩ : FSY) (⟨0, 65536, 1, 0, none, false⟩ : ScrTarget)) 8 =
      true ∧ (⟨0, 65536, 1, 0, none, false⟩ : ScrTarget).holder = tail16.uid := by
  unfold canArrive
  constructorm* _ ∧ _ <;> first | exact released_quiet (by decide +kernel) | decide +kernel

theorem witness_BarrierFormsArriveAndWait_5_bara :
    (Ready m0 h0 (((Instr.bara, keepRecord) : (FSY → Instr) × (FSY → BarHandle → Sheaf → State → State)).1 (⟨1, 0, 1, 2, 31⟩
      : FSY))) ∧ h0.bar = none ∧ h0.arr = none ∧ m0.barTarget h0 (⟨1, 0, 1, 2, 31⟩ : FSY) = (none, (7, 0) :: []) := by decide +kernel

theorem witness_BarrierFormsArriveAndWait_2_bar :
    (Ready
      ({ State.aged (object tail16 3) with eng := { m0.eng with ops := [({ laneOp with dstR := [(1, 65520, 16)], id := 9 } : Op)] } }
      : State) tail16 (((Instr.bar, fun _ => awaitRecord) : (FSY → Instr) × (FSY → BarHandle → Sheaf → State → State)).1
      (⟨1, 0, 1, 0, 0⟩ : FSY))) ∧ tail16.bar = none ∧ canArrive
      ({ State.aged (object tail16 3) with eng := { m0.eng with ops := [({ laneOp with dstR := [(1, 65520, 16)], id := 9 } : Op)] } }
      : State) tail16 (⟨1, 0, 1, 0, 0⟩ : FSY) (⟨0, 65536, 1, 0, none, false⟩ : ScrTarget) ∧ (⟨0, 65536, 1, 0, none,
      false⟩ : ScrTarget).member = none ∧ (arriving
      ({ State.aged (object tail16 3) with eng := { m0.eng with ops := [({ laneOp with dstR := [(1, 65520, 16)], id := 9 } : Op)] } }
      : State) tail16 (⟨1, 0, 1, 0, 0⟩ : FSY) (⟨0, 65536, 1, 0, none, false⟩ : ScrTarget)).scrBad (barAt tail16 (⟨1, 0,
      1, 0, 0⟩ : FSY) (⟨0, 65536, 1, 0, none, false⟩ : ScrTarget)) 8 = false ∧
      ({ State.aged (object tail16 3) with eng := { m0.eng with ops := [({ laneOp with dstR := [(1, 65520, 16)], id := 9 } : Op)] } }
      : State).clouded tail16 1 (barAt tail16 (⟨1, 0, 1, 0, 0⟩ : FSY) (⟨0, 65536, 1, 0, none, false⟩ : ScrTarget)) 8 =
      true ∧ (⟨0, 65536, 1, 0, none, false⟩ : ScrTarget).holder = tail16.uid := by
  unfold canArrive
  constructorm* _ ∧ _ <;> first | exact released_quiet (by decide +kernel) | decide +kernel

theorem witness_BarrierFormsArriveAndWait_5_bar :
    (Ready m0 h0 (((Instr.bar, fun _ => awaitRecord) : (FSY → Instr) × (FSY → BarHandle → Sheaf → State → State)).1 (⟨1, 0,
      1, 2, 0⟩ : FSY))) ∧ h0.bar = none ∧ h0.arr = none ∧ m0.barTarget h0 (⟨1, 0, 1, 2, 0⟩ : FSY) = (none, (7, 0) :: []) := by decide +kernel

theorem witness_BarrierFormsArriveAndWait_9 :
    (⟨1, 0, 1, 2, 0⟩ : FSY).sb ≠ 0 ∧ m0.member? (regS h0 [(1, 4), (2, 1)]) ((regS h0 [(1, 4), (2, 1)]).getS (⟨1, 0, 1, 2, 0⟩
      : FSY).sb.toNat).toNat = none := by decide +kernel

theorem witness_EngineStepsMoveData_3 :
    (ran laneOp h0 []).op? (9 : Nat) = some laneOp ∧ (laneOp.kind ≠ .dec ∨ laneOp.header = none) := by decide +kernel

theorem witness_EngineStepsMoveData_4 :
    (ran
      ({ op0 none with kind := .dec, ents := [ent 0 64 1 32 3 2, ent 4096 64 1 32 3 1], cap := [(Rng.key ⟨1, 0, 16⟩, List.replicate 16 0)] }
      : Op) h0 []).op? (9 : Nat) = some
      ({ op0 none with kind := .dec, ents := [ent 0 64 1 32 3 2, ent 4096 64 1 32 3 1], cap := [(Rng.key ⟨1, 0, 16⟩, List.replicate 16 0)] }
      : Op) ∧
      ({ op0 none with kind := .dec, ents := [ent 0 64 1 32 3 2, ent 4096 64 1 32 3 1], cap := [(Rng.key ⟨1, 0, 16⟩, List.replicate 16 0)] }
      : Op).kind = .dec ∧
      ({ op0 none with kind := .dec, ents := [ent 0 64 1 32 3 2, ent 4096 64 1 32 3 1], cap := [(Rng.key ⟨1, 0, 16⟩, List.replicate 16 0)] }
      : Op).header = some (List.replicate 16 0) ∧ (ran
      ({ op0 none with kind := .dec, ents := [ent 0 64 1 32 3 2, ent 4096 64 1 32 3 1], cap := [(Rng.key ⟨1, 0, 16⟩, List.replicate 16 0)] }
      : Op) h0 []).sheaf?
      ({ op0 none with kind := .dec, ents := [ent 0 64 1 32 3 2, ent 4096 64 1 32 3 1], cap := [(Rng.key ⟨1, 0, 16⟩, List.replicate 16 0)] }
      : Op).sheaf = some h0 := by decide +kernel

theorem witness_EngineStepsMoveData_5 :
    opRuns
      ({ atHome h0 with eng := { m0.eng with ops := [({ op0 none with id := 8, kind := .wnw, blk := [0, 0, 0, 0, 0, 65504] } : Op), ({ op0 none with kind := .wnw, blk := [0, 0, 0, 0, 0, 65504] } : Op)] } }
      : State) (9 : Nat) ({ op0 none with kind := .wnw, blk := [0, 0, 0, 0, 0, 65504] } : Op) h0 ∧
      ({ op0 none with kind := .wnw, blk := [0, 0, 0, 0, 0, 65504] } : Op).pathOpen = false ∧
      ({ op0 none with kind := .wnw, blk := [0, 0, 0, 0, 0, 65504] } : Op).kind.isWinnow = true ∧
      ({ atHome h0 with eng := { m0.eng with ops := [({ op0 none with id := 8, kind := .wnw, blk := [0, 0, 0, 0, 0, 65504] } : Op), ({ op0 none with kind := .wnw, blk := [0, 0, 0, 0, 0, 65504] } : Op)] } }
      : State).slotTurn ({ op0 none with kind := .wnw, blk := [0, 0, 0, 0, 0, 65504] } : Op) = false := by
  unfold opRuns
  decide +kernel

theorem witness_EngineStepsMoveData_12 :
    opRuns ({ ran fromOp h0 [] with mm := m0.mm, fab := m0.fab } : State) (9 : Nat) fromOp h0 ∧
      ({ ran fromOp h0 [] with mm := m0.mm, fab := m0.fab } : State).wantsLine fromOp (1024 : Nat) = true ∧ fromOp.susp
      = false ∧ ({ ran fromOp h0 [] with mm := m0.mm, fab := m0.fab } : State).lineHeld fromOp.ctx ((1024 : Nat) * 128)
      = false ∧ ({ ran fromOp h0 [] with mm := m0.mm, fab := m0.fab } : State).homeOf fromOp.ctx ((1024 : Nat) * 128)
      .read = (({ ran fromOp h0 [] with mm := m0.mm, fab := m0.fab } : State), .denied) := by
  unfold opRuns
  decide +kernel

theorem witness_EngineStepsMoveData_13 :
    opRuns ({ ran fromOp h0 [] with mm := m0.mm } : State) (9 : Nat) fromOp h0 ∧ ({ ran fromOp h0 [] with mm := m0.mm } :
      State).wantsLine fromOp (1024 : Nat) = true ∧ fromOp.susp = false ∧ ({ ran fromOp h0 [] with mm := m0.mm } :
      State).lineHeld fromOp.ctx ((1024 : Nat) * 128) = false ∧ ({ ran fromOp h0 [] with mm := m0.mm } : State).homeOf
      fromOp.ctx ((1024 : Nat) * 128) .read = (({ ran fromOp h0 [] with mm := m0.mm } : State), .absent) := by
  unfold opRuns
  decide +kernel

theorem witness_OperationsCompleteInOrder_5 :
    h0.resident = true ∧ (65520 : Nat) + 16 ≤ h0.scrBytes ∧
      ({ ran doneOp h0 [] with mm := { m0.mm with badScr := [65520] } } : State).scrBad (h0.scrAbs (65520 : Nat)) 16 =
      true := by decide +kernel

theorem witness_OperationsCompleteInOrder_6 :
    opRuns (ran ({ fromOp with lines := [(1024, 0, 0xFFFFFFFF)] } : Op) h0 []) (9 : Nat)
      ({ fromOp with lines := [(1024, 0, 0xFFFFFFFF)] } : Op) h0 ∧ ({ fromOp with lines := [(1024, 0, 0xFFFFFFFF)] } :
      Op).kind ≠ .red ∧ ({ fromOp with lines := [(1024, 0, 0xFFFFFFFF)] } : Op).failed = false ∧ (ran
      ({ fromOp with lines := [(1024, 0, 0xFFFFFFFF)] } : Op) h0 []).badLine
      ({ fromOp with lines := [(1024, 0, 0xFFFFFFFF)] } : Op) = some (0x20000 : Nat) := by
  unfold opRuns
  decide +kernel

theorem witness_MatrixRowsAndPower_7 :
    (({ compilingM with mm := { m0.mm with badScr := [65024] } } : State).eng.pats.find? fun p => p.id == (4 : Nat) &&
      p.core == (0 : Nat) && p.state == .compiling) = some pat0 ∧
      (({ compilingM with mm := { m0.mm with badScr := [65024] } } : State).sheaves.find? fun h => h.alloc.id ==
      pat0.alloc && h.core == pat0.core) = some h0 ∧ ({ compilingM with mm := { m0.mm with badScr := [65024] } } :
      State).scrBad (h0.scrAbs pat0.off) 512 = true := by decide +kernel

theorem witness_StookMembership_8 :
    (((duo { duoB with uid := 1, h := h0.h.set 31 (.bar { bar0 1 with holder := 2, passed := 1 }) }).leaveStook 2).sheaves.any fun h => h.h.any fun x => match x with
      | .bar b => b.holder == 2
      | _ => false) = true := by decide +kernel

theorem witness_NestStepsOfALane_2 :
    h0.ext (0 : Nat) = 0 := by decide +kernel

theorem witness_LaunchesAreCheckedAndAdmitted_11 :
    (({ tasked with ctxs := [{ trialCtx with stopped := true }] } : State).groups (0 : Nat))[(0 : Nat)]? = some ((1 : Nat),
      cap0) ∧ ({ tasked with ctxs := [{ trialCtx with stopped := true }] } : State).ctxStopped (1 : Nat) = true := by decide +kernel

theorem witness_LaunchesAreCheckedAndAdmitted_15 :
    ({ launching trialCtx (launch0 true 1 0x2007C) with mm := { m0.mm with homes := [] } } : State).launch? (3 : Nat) = some
      (launch0 true 1 0x2007C) ∧ ({ launching trialCtx (launch0 true 1 0x2007C) with mm := { m0.mm with homes := [] } }
      : State).launchOver (launch0 true 1 0x2007C) = true ∧
      ({ launching trialCtx (launch0 true 1 0x2007C) with mm := { m0.mm with homes := [] } } : State).ctxStopped
      (launch0 true 1 0x2007C).ctx = false ∧ (natAt (launch0 true 1 0x2007C).packet 56 8) ≠ 0 ∧
      ({ launching trialCtx (launch0 true 1 0x2007C) with mm := { m0.mm with homes := [] } } : State).lineHeld (launch0
      true 1 0x2007C).ctx (natAt (launch0 true 1 0x2007C).packet 56 8) = false ∧
      ({ launching trialCtx (launch0 true 1 0x2007C) with mm := { m0.mm with homes := [] } } : State).homeOf (launch0
      true 1 0x2007C).ctx (natAt (launch0 true 1 0x2007C).packet 56 8) .both =
      (({ launching trialCtx (launch0 true 1 0x2007C) with mm := { m0.mm with homes := [] } } : State), .denied) ∨
      ({ launching trialCtx (launch0 true 1 0x2007C) with mm := { m0.mm with homes := [] } } : State).homeOf (launch0
      true 1 0x2007C).ctx (natAt (launch0 true 1 0x2007C).packet 56 8) .both =
      (({ launching trialCtx (launch0 true 1 0x2007C) with mm := { m0.mm with homes := [] } } : State), .absent) := by decide +kernel

theorem witness_StopsAndResumes_9 :
    
      ({ m0 with sheaves := [({ stopped0 with shid := 1, queued := true } : Sheaf), ({ stopped0 with uid := 2, queued := true } : Sheaf)] }
      : State).sheaf? (1 : Nat) = some ({ stopped0 with shid := 1, queued := true } : Sheaf) ∧
      ({ m0 with sheaves := [({ stopped0 with shid := 1, queued := true } : Sheaf), ({ stopped0 with uid := 2, queued := true } : Sheaf)] }
      : State).groupOf [(1 : Nat)] = [(1 : Nat)] ∧ ({ stopped0 with shid := 1, queued := true } : Sheaf).queued = true ∧
      ({ stopped0 with uid := 2, queued := true } : Sheaf) ∈
      ({ m0 with sheaves := [({ stopped0 with shid := 1, queued := true } : Sheaf), ({ stopped0 with uid := 2, queued := true } : Sheaf)] }
      : State).sheaves ∧ ({ stopped0 with uid := 2, queued := true } : Sheaf).queued = true ∧
      ({ stopped0 with uid := 2, queued := true } : Sheaf).ctx = ({ stopped0 with shid := 1, queued := true } :
      Sheaf).ctx ∧ ({ stopped0 with uid := 2, queued := true } : Sheaf).launch =
      ({ stopped0 with shid := 1, queued := true } : Sheaf).launch ∧ ({ stopped0 with uid := 2, queued := true } :
      Sheaf).shid < ({ stopped0 with shid := 1, queued := true } : Sheaf).shid ∧
      ({ stopped0 with uid := 2, queued := true } : Sheaf).uid ≠ (1 : Nat) := by decide +kernel

theorem witness_StopsAndResumes_10 :
    m0.sheaf? (1 : Nat) = some h0 ∧ h0.path = some p0 := by decide +kernel

theorem witness_ContextCommands_12 :
    ((running m0 (⟨9, 1, cmd1 0x20000 128, 0, 0, 0⟩ : CmdRun)).sys.cmds.find? fun r => r.id == (9 : Nat)) = some (⟨9, 1,
      cmd1 0x20000 128, 0, 0, 0⟩ : CmdRun) ∧ (⟨9, 1, cmd1 0x20000 128, 0, 0, 0⟩ : CmdRun).status = 0 ∧ (⟨9, 1, cmd1
      0x20000 128, 0, 0, 0⟩ : CmdRun).op = 1 ∧ (⟨9, 1, cmd1 0x20000 128, 0, 0, 0⟩ : CmdRun).until_ = 0 := by decide +kernel

theorem witness_ContextCommands_13 :
    ((running m0 (⟨9, 1, cmd1 0x20000 128, 0, 0, 7⟩ : CmdRun)).sys.cmds.find? fun r => r.id == (9 : Nat)) = some (⟨9, 1,
      cmd1 0x20000 128, 0, 0, 7⟩ : CmdRun) ∧ (⟨9, 1, cmd1 0x20000 128, 0, 0, 7⟩ : CmdRun).status = 0 ∧ (⟨9, 1, cmd1
      0x20000 128, 0, 0, 7⟩ : CmdRun).op = 1 ∧ (⟨9, 1, cmd1 0x20000 128, 0, 0, 7⟩ : CmdRun).until_ ≠ 0 := by decide +kernel

theorem witness_ContextCommands_14 :
    ((running m0 (⟨9, 6, cmd1 0x20000 0, 0, 0, 0⟩ : CmdRun)).sys.cmds.find? fun r => r.id == (9 : Nat)) = some (⟨9, 6, cmd1
      0x20000 0, 0, 0, 0⟩ : CmdRun) ∧ (⟨9, 6, cmd1 0x20000 0, 0, 0, 0⟩ : CmdRun).status = 0 ∧ (⟨9, 6, cmd1 0x20000 0, 0,
      0, 0⟩ : CmdRun).op = 6 ∧ ((⟨9, 6, cmd1 0x20000 0, 0, 0, 0⟩ : CmdRun).cmd.b.extractLsb' 0 32).toNat ≤ (⟨9, 6, cmd1
      0x20000 0, 0, 0, 0⟩ : CmdRun).until_ := by decide +kernel

theorem witness_ContextCommands_15 :
    
      (({ m0 with sys := { m0.sys with cmds := [(⟨9, 6, cmd1 0x20000 5, 0, 0, 0⟩ : CmdRun)], logs := [⟨trialCtx.vf, 0x10000, 8⟩] } }
      : State).sys.cmds.find? fun r => r.id == (9 : Nat)) = some (⟨9, 6, cmd1 0x20000 5, 0, 0, 0⟩ : CmdRun) ∧ (⟨9, 6,
      cmd1 0x20000 5, 0, 0, 0⟩ : CmdRun).status = 0 ∧ (⟨9, 6, cmd1 0x20000 5, 0, 0, 0⟩ : CmdRun).op = 6 ∧ (⟨9, 6, cmd1
      0x20000 5, 0, 0, 0⟩ : CmdRun).until_ < ((⟨9, 6, cmd1 0x20000 5, 0, 0, 0⟩ : CmdRun).cmd.b.extractLsb' 0 32).toNat ∧
      ({ m0 with sys := { m0.sys with cmds := [(⟨9, 6, cmd1 0x20000 5, 0, 0, 0⟩ : CmdRun)], logs := [⟨trialCtx.vf, 0x10000, 8⟩] } }
      : State).ctx? (⟨9, 6, cmd1 0x20000 5, 0, 0, 0⟩ : CmdRun).cmd.ctx.toNat = some trialCtx ∧
      (({ m0 with sys := { m0.sys with cmds := [(⟨9, 6, cmd1 0x20000 5, 0, 0, 0⟩ : CmdRun)], logs := [⟨trialCtx.vf, 0x10000, 8⟩] } }
      : State).sys.logs.find? fun l => l.vf == trialCtx.vf) = some (⟨trialCtx.vf, 0x10000, 8⟩) := by decide +kernel

theorem witness_ContextCommands_20 :
    ∃ h ∈ ((atHome h0).clearPage ⟨0, 0x10000, 8⟩ 0x18000 2 0).mm.homes, (atHome h0).mm.pool.wf = true ∧ pagePa ((atHome
      h0).extentsOf (⟨0, 0x10000, 8⟩ : DirtyLog).vf) (2 : Nat) = some (0x20000 : Nat) ∧ (fun (h : Home) => !h.hm &&
      decide ((0x20000 : Nat) ≤ h.pa) && decide (h.pa < (0x20000 : Nat) + 65536)) h = true := by decide +kernel

theorem witness_ContextCommands_21 :
    (atHome h0).mm.pool.wf = true ∧ pagePa ((atHome h0).extentsOf (⟨0, 0x10000, 8⟩ : DirtyLog).vf) (2 : Nat) = some (0x20000
      : Nat) ∧ (2 : Nat) < (⟨0, 0x10000, 8⟩ : DirtyLog).len ∧ (0x18000 : Nat) + (0 : Nat) / 8 ≠ (⟨0, 0x10000, 8⟩ :
      DirtyLog).bitmap + (2 : Nat) / 8 ∧ (((atHome h0).mm.homes.filter (fun (h : Home) => !h.hm && decide ((0x20000 :
      Nat) ≤ h.pa) && decide (h.pa < (0x20000 : Nat) + 65536))).foldl (fun (t : State) (h : Home) => t.writeBack h)
      (atHome h0)).assigned false ((0x18000 : Nat) + (0 : Nat) / 8) = true ∧ (((atHome h0).mm.homes.filter (fun (h :
      Home) => !h.hm && decide ((0x20000 : Nat) ≤ h.pa) && decide (h.pa < (0x20000 : Nat) + 65536))).foldl (fun (t :
      State) (h : Home) => t.writeBack h) (atHome h0)).assigned false ((⟨0, 0x10000, 8⟩ : DirtyLog).bitmap + (2 : Nat) /
      8) = true := by decide +kernel

theorem witness_ContextCommands_22 :
    (atHome h0).mm.pool.wf = true ∧ pagePa ((atHome h0).extentsOf (⟨0, 0x10000, 8⟩ : DirtyLog).vf) (2 : Nat) = some (0x20000
      : Nat) ∧ 0 ≠ (0x18000 : Nat) + (0 : Nat) / 8 ∧ 0 ≠ (⟨0, 0x10000, 8⟩ : DirtyLog).bitmap + (2 : Nat) / 8 := by decide +kernel

theorem witness_RepairAndPortCommands_11 :
    ((running m0 (⟨9, 16, cmd1 3 0, 0, 0, 0⟩ : CmdRun)).sys.cmds.find? fun r => r.id == (9 : Nat)) = some (⟨9, 16, cmd1 3 0,
      0, 0, 0⟩ : CmdRun) ∧ (⟨9, 16, cmd1 3 0, 0, 0, 0⟩ : CmdRun).status = 0 ∧ targetOf (⟨9, 16, cmd1 3 0, 0, 0, 0⟩ :
      CmdRun).cmd.a = some (⟨3, 0⟩ : Part) ∧ (⟨9, 16, cmd1 3 0, 0, 0, 0⟩ : CmdRun).op = 0x10 := by decide +kernel

theorem witness_RepairAndPortCommands_12 :
    ((running m0 (⟨9, 17, cmd1 3 0, 0, 0, 0⟩ : CmdRun)).sys.cmds.find? fun r => r.id == (9 : Nat)) = some (⟨9, 17, cmd1 3 0,
      0, 0, 0⟩ : CmdRun) ∧ (⟨9, 17, cmd1 3 0, 0, 0, 0⟩ : CmdRun).status = 0 ∧ targetOf (⟨9, 17, cmd1 3 0, 0, 0, 0⟩ :
      CmdRun).cmd.a = some (⟨3, 0⟩ : Part) ∧ (⟨9, 17, cmd1 3 0, 0, 0, 0⟩ : CmdRun).op = 0x11 := by decide +kernel

theorem witness_RepairAndPortCommands_13 :
    ((running m0 (⟨9, 18, cmd1 3 0, 0, 0, 0⟩ : CmdRun)).sys.cmds.find? fun r => r.id == (9 : Nat)) = some (⟨9, 18, cmd1 3 0,
      0, 0, 0⟩ : CmdRun) ∧ (⟨9, 18, cmd1 3 0, 0, 0, 0⟩ : CmdRun).status = 0 ∧ targetOf (⟨9, 18, cmd1 3 0, 0, 0, 0⟩ :
      CmdRun).cmd.a = some (⟨3, 0⟩ : Part) ∧ (⟨9, 18, cmd1 3 0, 0, 0, 0⟩ : CmdRun).op = 0x12 := by decide +kernel

theorem witness_LoaderAndSequencer_8 :
    ({ m0 with ctxs := [({ trialCtx with resolver := cap0 } : Ctx)] } : State).ctx? (request false false).ctx = some
      ({ trialCtx with resolver := cap0 } : Ctx) ∧ (({ m0 with ctxs := [({ trialCtx with resolver := cap0 } : Ctx)] } :
      State).checkEntry (request false false).ctx ({ trialCtx with resolver := cap0 } : Ctx).resolver [.live]).isSome =
      true := by decide +kernel

theorem witness_LoaderAndSequencer_9 :
    mapped.ctx? ({ request false false with rslv := hof, rslvPlace := [0x40000, 0, 0, 0, 0] } : LoadReq).ctx = some
      mappedCtx ∧ (mapped.checkEntry ({ request false false with rslv := hof, rslvPlace := [0x40000, 0, 0, 0, 0] } :
      LoadReq).ctx mappedCtx.resolver [.live]).isSome = false ∧ badFile
      { ({ request false false with rslv := hof, rslvPlace := [0x40000, 0, 0, 0, 0] } : LoadReq) with file := ({ request false false with rslv := hof, rslvPlace := [0x40000, 0, 0, 0, 0] } : LoadReq).rslv, place := ({ request false false with rslv := hof, rslvPlace := [0x40000, 0, 0, 0, 0] } : LoadReq).rslvPlace, swap := false }
      mappedCtx = none ∧ resolverOk ({ request false false with rslv := hof, rslvPlace := [0x40000, 0, 0, 0, 0] } :
      LoadReq).rslv = false := by decide +kernel

theorem witness_LoaderAndSequencer_13 : holding.obj? 1 5 = some (objCtx, obj0) := by decide +kernel

theorem witness_LoaderAndSequencer_16 :
    holding.ctx? (1 : Nat) = some objCtx := by decide +kernel

theorem witness_LoaderAndSequencer_17 :
    (atHome h0).homeOf (1 : Nat) (0x20078 : Nat) .write = ((atHome h0), .ok home0) := by decide +kernel

theorem witness_HealthAndPower_9 :
    home0 ∈ (atHome h0).mm.homes ∧ (atHome h0).ctl.time ≤ home0.seen + 86400000000000 := by decide +kernel

theorem witness_PoolAndFabric_8 :
    (11 : Nat) < 12 ∧ (m0.link (11 : Nat)).up = true ∧ (List.replicate 256 1).length = 256 ∧ natAt (List.replicate 256 1) 2
      2 ≠ (m0.link (11 : Nat)).next := by decide +kernel

theorem witness_PoolAndFabric_11 :
    (11 : Nat) < 12 ∧ m0.linkUp (11 : Nat) = true ∧ (∀ g ∈ m0.fab.groups, Config.onTree g.gid (11 : Nat) = false) ∧ (∀ o ∈
      m0.eng.ops, o.remote = true → ∀ dev base, o.farEnd = some (dev, base) → ((m0.putLink
      { m0.link (11 : Nat) with up := false }).event 0xA (some ((11 : Nat) / 3)) none none (some (BitVec.ofNat 64 (11 :
      Nat)))).linkTo dev = true) := ⟨by decide, by decide +kernel, by decide +kernel, fun _ e => absurd e List.not_mem_nil⟩

theorem witness_PoolAndFabric_12 :
    (11 : Nat) < 12 ∧
      ({ ran farOp h0 [] with fab := { m0.fab with links := (List.range 11).map fun n => ⟨n, false, 0, 0⟩ } } :
      State).linkUp (11 : Nat) = true ∧ (∀ g ∈
      ({ ran farOp h0 [] with fab := { m0.fab with links := (List.range 11).map fun n => ⟨n, false, 0, 0⟩ } } :
      State).fab.groups, Config.onTree g.gid (11 : Nat) = false) ∧
      ({ ran farOp h0 [] with fab := { m0.fab with links := (List.range 11).map fun n => ⟨n, false, 0, 0⟩ } } :
      State).eng.ops.filter Op.remote = [farOp] ∧ farOp.farEnd = some (0, 65472) ∧
      ((({ ran farOp h0 [] with fab := { m0.fab with links := (List.range 11).map fun n => ⟨n, false, 0, 0⟩ } } :
      State).putLink
      { ({ ran farOp h0 [] with fab := { m0.fab with links := (List.range 11).map fun n => ⟨n, false, 0, 0⟩ } } : State).link (11 : Nat) with up := false }).event
      0xA (some ((11 : Nat) / 3)) none none (some (BitVec.ofNat 64 (11 : Nat)))).linkTo 0 = false := by decide +kernel

theorem witness_PoolAndFabric_14 :
    (fabd fun f => { f with groups := [group0] }).group? (7 : Word) = some group0 ∧ (fabd fun f =>
      { f with groups := [group0] }).heldCount (7 : Word) ≠ group0.ncont := by decide +kernel

theorem witness_PoolAndFabric_15 :
    (fabd fun f => { f with groups := [({ group0 with rootDev := 1 } : GroupRec)], contribs := [contrib0 8] }).group? (7 :
      Word) = some ({ group0 with rootDev := 1 } : GroupRec) ∧ (fabd fun f =>
      { f with groups := [({ group0 with rootDev := 1 } : GroupRec)], contribs := [contrib0 8] }).heldCount (7 : Word) =
      ({ group0 with rootDev := 1 } : GroupRec).ncont ∧ ({ group0 with rootDev := 1 } : GroupRec).rootDev ≠ (fabd fun f
      => { f with groups := [({ group0 with rootDev := 1 } : GroupRec)], contribs := [contrib0 8] }).fab.self := by decide +kernel

theorem witness_PoolAndFabric_21 :
    (3 : Nat) < 4 := by decide +kernel

theorem witness_PoolAndFabric_22 :
    (1 : Nat) ≠ 0 ∧ (0x1003 : Nat) < 0x1004 := by decide +kernel

theorem witness_PoolAndFabric_23 :
    0x1004 ≤ (0x1004 : Nat) ∧ m0.barPos (0 : Nat) (0x1004 : Nat) 1 = none := by decide +kernel

theorem witness_PoolAndFabric_24 :
    0x1004 ≤ (0x400FFFF : Nat) ∧ (slmed h0).barPos (0 : Nat) (0x400FFFF : Nat) 1 = some (1, 65535) ∧ (slmed h0).mbxOver
      65535 = none ∧ (slmed h0).slmBad 65535 1 = false := by decide +kernel

end Sys2Proof.Tests
end

section
/-! SUPPORT. The bytes of a line and of a memory after a write: a line's data and dirty mask bit by bit, a memory by
recursion on its list, and that a memory in canonical form is determined by what it reads. -/

namespace Sys2Proof.Machine

/-- A bit of a byte of a line. -/
theorem getLsbD_byteOf {n : Nat} (x : BitVec n) (k i : Nat) (hi : i < 8) :
    (byteOf x k).getLsbD i = x.getLsbD (8 * k + i) := by
  simp [byteOf, hi]

/-- A bit of the byte mask. -/
theorem getLsbD_mask8 (j : Nat) : (0xFF : BitVec 1024).getLsbD j = decide (j < 8) := by
  have h := Nat.testBit_two_pow_sub_one 8 j
  norm_num at h
  simp only [BitVec.ofNat_eq_ofNat, BitVec.getLsbD_ofNat, h]
  by_cases hj : j < 8
  · simp [hj]; omega
  · simp [hj]

/-- A bit of a line after one byte of it is replaced. -/
theorem getLsbD_replaceByte (d : BitVec 1024) (b : Byte) (off k i : Nat) (hk : k < 128) (hi : i < 8) :
    ((d &&& ~~~((0xFF : BitVec 1024) <<< (8 * off))) ||| ((b.setWidth 1024) <<< (8 * off))).getLsbD (8 * k + i) =
      if k = off then b.getLsbD i else d.getLsbD (8 * k + i) := by
  have hlt : 8 * k + i < 1024 := by omega
  simp only [BitVec.getLsbD_or, BitVec.getLsbD_and, BitVec.getLsbD_not, BitVec.getLsbD_shiftLeft, getLsbD_mask8,
    BitVec.getLsbD_setWidth, hlt, decide_true, Bool.true_and]
  rcases Nat.lt_trichotomy k off with h | h | h
  · have h1 : 8 * k + i < 8 * off := by omega
    have h2 : k ≠ off := by omega
    simp [h1, h2]
  · subst h
    have h1 : ¬ 8 * k + i < 8 * k := by omega
    have h2 : 8 * k + i - 8 * k = i := by omega
    have h3 : i < 1024 := by omega
    simp [h2, h3, hi]
  · have h1 : ¬ 8 * k + i < 8 * off := by omega
    have h2 : ¬ 8 * k + i - 8 * off < 8 := by omega
    have h3 : k ≠ off := by omega
    have h4 : b.getLsbD (8 * k + i - 8 * off) = false := BitVec.getLsbD_of_ge _ _ (by omega)
    simp only [h1, h2, h3, h4]
    simp

/-- A bit of a line after bytes are put into it. -/
theorem getLsbD_putLine (bs : List Byte) : ∀ (d : BitVec 1024) (off k i : Nat), k < 128 → i < 8 →
    (putLine d off bs).getLsbD (8 * k + i) =
      if off ≤ k ∧ k < off + bs.length then (bs.getD (k - off) 0).getLsbD i else d.getLsbD (8 * k + i) := by
  induction bs with
  | nil =>
    intro d off k i _ _
    have h : ¬ (off ≤ k ∧ k < off) := by omega
    simp [putLine, h]
  | cons b bs ih =>
    intro d off k i hk hi
    rw [putLine, ih _ (off + 1) k i hk hi, getLsbD_replaceByte d b off k i hk hi, List.length_cons]
    rcases Nat.lt_trichotomy k off with h | h | h
    · have h1 : ¬ off + 1 ≤ k := by omega
      have h2 : ¬ off ≤ k := by omega
      have h3 : k ≠ off := by omega
      simp [h1, h2, h3]
    · subst h; simp
    · have e : k - off = k - (off + 1) + 1 := by omega
      have h1 : (off + 1 ≤ k ∧ k < off + 1 + bs.length) ↔ off ≤ k ∧ k < off + (bs.length + 1) := by omega
      have h3 : k ≠ off := by omega
      simp only [h1, h3, e, List.getD_cons_succ, if_false]

/-- A byte of a line after bytes are put into it. -/
theorem byteOf_putLine (d : BitVec 1024) (off : Nat) (bs : List Byte) (k : Nat) (hk : k < 128) :
    byteOf (putLine d off bs) k = if off ≤ k ∧ k < off + bs.length then bs.getD (k - off) 0 else byteOf d k := by
  apply BitVec.eq_of_getLsbD_eq
  intro i hi
  rw [getLsbD_byteOf _ _ _ hi, getLsbD_putLine bs d off k i hk hi]
  split
  · rfl
  · rw [getLsbD_byteOf _ _ _ hi]

/-- A bit of a range mask. -/
theorem getLsbD_rangeMask (w off n k : Nat) (hk : k < w) :
    (rangeMask w off n).getLsbD k = (decide (off ≤ k) && decide (k < off + n)) := by
  rw [rangeMask, BitVec.getLsbD_shiftLeft, BitVec.getLsbD_ofNat, Nat.testBit_two_pow_sub_one]
  by_cases h : k < off
  · have h2 : ¬ off ≤ k := by omega
    simp [h, h2]
  · have h1 : off ≤ k := by omega
    have h2 : k - off < w := by omega
    have h3 : k - off < n ↔ k < off + n := by omega
    simp [hk, h, h1, h2, h3]

/-- A grant answers the reading at the line's slice plus LL, changes no byte of a line and ends no lease earlier. -/
theorem State.grant_homes (s : State) (x y : Home) (h : y ∈ (s.grant x).1.mm.homes) :
    ∃ z ∈ s.mm.homes, y.data = z.data ∧ z.lemax ≤ y.lemax := by
  obtain ⟨z, hz, e⟩ := List.mem_map.1 h
  refine ⟨z, hz, ?_⟩
  subst e
  split
  · exact ⟨rfl, Nat.le_max_left ..⟩
  · exact ⟨rfl, Nat.le_refl _⟩

/-- A byte of a memory after a write: the written one in the range written, the old one elsewhere. -/
theorem Mem.get_write_eq (m : Mem) (a c : Nat) (bs : List Byte) (h : m.wf = true) :
    (m.write a bs).get c = if a ≤ c ∧ c < a + bs.length then bs.getD (c - a) 0 else m.get c := by
  split
  · next hc =>
    have hi : c - a < bs.length := by omega
    have e : a + (c - a) = c := by omega
    have hg := Mem.get_write bs m a (c - a) h hi
    rw [e] at hg
    simp [hg, hi]
  · next hc => exact Mem.get_write_other bs m a c h (by omega)

/-- A number written little-endian reads back. -/
theorem Mem.readNat_write (m : Mem) (a n x : Nat) (h : m.wf = true) : (m.write a (natLe n x)).readNat a n = x % 256 ^ n := by
  have e := Mem.read_write m a (natLe n x) h
  rw [natLe_length] at e
  rw [Mem.readNat, e, leNat_natLe]

/-- A byte of a memory after a range is cleared. -/
theorem Mem.get_clearFrom (m : Mem) (a n c : Nat) : ∀ lo, Mem.wfFrom lo m = true →
    (m.clear a n).get c = if a ≤ c ∧ c < a + n then 0 else m.get c := by
  induction m with
  | nil => intro lo _; simp [Mem.clear, Mem.get]
  | cons d m ih =>
    obtain ⟨k, x⟩ := d
    intro lo hw
    obtain ⟨_, h3⟩ := (Mem.wfFrom_cons lo k x m).1 hw
    have ih := ih (k + 1) h3
    unfold Mem.clear at ih ⊢
    rw [List.filter_cons]
    split
    · next hkeep =>
      simp only [Bool.or_eq_true, decide_eq_true_eq] at hkeep
      simp only [Mem.get, ih]
      by_cases hkc : k = c
      · have hout : ¬ (a ≤ c ∧ c < a + n) := by omega
        simp [hkc, hout]
      · by_cases hlt : c < k <;> simp [hkc, hlt]
    · next hdrop =>
      simp only [Bool.or_eq_true, decide_eq_true_eq] at hdrop
      rw [ih]
      split
      · rfl
      · next hout =>
        have hkc : k ≠ c := by omega
        by_cases hlt : c < k
        · simp [Mem.get, hkc, hlt, Mem.get_below m h3 c (by omega)]
        · simp [Mem.get, hkc, hlt]

/-- The first address a canonical memory lists is at or above that of every canonical memory that reads the same. -/
theorem Mem.head_le_of_get_eq {lo lo' k k' : Nat} {b b' : Byte} {m m' : Mem} (hw : Mem.wfFrom lo ((k, b) :: m) = true)
    (hw' : Mem.wfFrom lo' ((k', b') :: m') = true) (h : Mem.get ((k, b) :: m) k = Mem.get ((k', b') :: m') k) : k' ≤ k := by
  obtain ⟨⟨_, hb⟩, _⟩ := (Mem.wfFrom_cons ..).1 hw
  obtain ⟨⟨_, hb'⟩, hm'⟩ := (Mem.wfFrom_cons ..).1 hw'
  by_contra hlt
  have h0 : Mem.get ((k', b') :: m') k = 0 :=
    Mem.get_below _ ((Mem.wfFrom_cons k' k' b' m').2 ⟨⟨Nat.le_refl _, hb'⟩, hm'⟩) k (by omega)
  exact hb (by simpa [Mem.get] using h.trans h0)

/-- Two canonical memories that read the same everywhere are equal. -/
theorem Mem.ext_of_get (m : Mem) : ∀ (m' : Mem) (lo : Nat), Mem.wfFrom lo m = true → Mem.wfFrom lo m' = true →
    (∀ a, m.get a = m'.get a) → m = m' := by
  induction m with
  | nil =>
    intro m' lo _ hw' h
    cases m' with
    | nil => rfl
    | cons d m' =>
      obtain ⟨⟨_, hb⟩, _⟩ := (Mem.wfFrom_cons ..).1 hw'
      exact absurd (by simpa [Mem.get] using (h d.1).symm) hb
  | cons c m ih =>
    obtain ⟨k, b⟩ := c
    intro m' lo hw hw' h
    obtain ⟨⟨_, hb⟩, hm⟩ := (Mem.wfFrom_cons ..).1 hw
    cases m' with
    | nil => exact absurd (by simpa [Mem.get] using h k) hb
    | cons d m' =>
      obtain ⟨k', b'⟩ := d
      obtain rfl : k = k' := Nat.le_antisymm (Mem.head_le_of_get_eq hw' hw (h k').symm) (Mem.head_le_of_get_eq hw hw' (h k))
      obtain rfl : b = b' := by simpa [Mem.get] using h k
      obtain ⟨_, hm'⟩ := (Mem.wfFrom_cons ..).1 hw'
      rw [ih m' (k + 1) hm hm' fun a => ?_]
      by_cases hak : a ≤ k
      · rw [Mem.get_below m hm a (by omega), Mem.get_below m' hm' a (by omega)]
      · have hne : k ≠ a := by omega
        have hlt : ¬ a < k := by omega
        simpa [Mem.get, hne, hlt] using h a

end Sys2Proof.Machine
end

section
open Sys2Proof Sys2Proof.Machine

/-- Settles O25: a line's bytes and dirty bits bit by bit, a memory's bytes by recursion on its list. -/
theorem writesChangeExactlyTheirBytes : Obligations.WritesChangeExactlyTheirBytes :=
  ⟨fun x off bs k _ hk => byteOf_putLine x.data off bs k hk,
    fun x off bs k _ hk => by rw [Home.put, BitVec.getLsbD_or, getLsbD_rangeMask 128 off bs.length k hk],
    fun s x => ⟨rfl, State.grant_homes s x⟩,
    fun _ _ _ _ _ _ _ => ⟨Nat.le_max_right .., Nat.le_max_left ..⟩,
    fun m a bs h => Mem.write_wf bs m a h,
    fun m a c bs h => Mem.get_write_eq m a c bs h,
    fun m a n x h => Mem.readNat_write m a n x h,
    fun m a n c h => Mem.get_clearFrom m a n c 0 h,
    fun m m' h h' he => Mem.ext_of_get m m' 0 h h' he⟩
end

section
/-! SUPPORT. The canonical form of the memories through one step. Each function of the model that answers a state has one
lemma `…_canon`: a function that touches no memory answers a state in canonical form exactly if it got one (`↔`), a function
that may write keeps the form. The lemma of a function cites those of the functions it calls; `exec_canon` and
`State.advance_canon` put them together. -/

namespace Sys2Proof.Machine

/-! ### Canonical form of a state and of an outcome -/

/-- The four memories of a state are in canonical form: `MemOk` as a predicate that `simp` does not unfold. -/
def State.Canon (s : State) : Prop := MemOk s

/-- The four memories of a memory system are in canonical form. -/
def MemSys.Canon (m : MemSys) : Prop := m.pool.wf = true ∧ m.host.wf = true ∧ m.slm.wf = true ∧ m.scr.wf = true

/-- An outcome that answers a state answers one in canonical form. -/
def Out.Canon : Out → Prop
  | .next t => t.Canon
  | _ => True

theorem State.canon_congr {s t : State} (h : t.bytes = s.bytes) : t.Canon ↔ s.Canon :=
  ⟨memOk_of_bytes h.symm, memOk_of_bytes h⟩

/-- Only the memory system matters: a state is written with its memory system changed, or with any other part changed. -/
@[simp] theorem State.canon_mk (ctl sheaves ctxs segs mm stk eng flt job sys rep fab seqs) :
    (State.mk ctl sheaves ctxs segs mm stk eng flt job sys rep fab seqs).Canon ↔ mm.Canon := by rfl

@[simp] theorem State.mm_canon (s : State) : s.mm.Canon ↔ s.Canon := by rfl

@[simp] theorem MemSys.canon_mk (p h sl sc a b c d e f g i j k) :
    (MemSys.mk p h sl sc a b c d e f g i j k).Canon ↔ p.wf = true ∧ h.wf = true ∧ sl.wf = true ∧ sc.wf = true := by rfl

/-- The four memories taken from one memory system are that system's form again. -/
@[simp] theorem MemSys.canon_fold (m : MemSys) :
    (m.pool.wf = true ∧ m.host.wf = true ∧ m.slm.wf = true ∧ m.scr.wf = true) ↔ m.Canon := by rfl

@[simp] theorem State.Canon.pool {s : State} (h : s.Canon) : s.mm.pool.wf = true := h.1
@[simp] theorem State.Canon.host {s : State} (h : s.Canon) : s.mm.host.wf = true := h.2.1
@[simp] theorem State.Canon.slm {s : State} (h : s.Canon) : s.mm.slm.wf = true := h.2.2.1
@[simp] theorem State.Canon.scr {s : State} (h : s.Canon) : s.mm.scr.wf = true := h.2.2.2

/-! The rules of the memories as conditional rewrite rules, for `simp`. -/

@[simp] theorem Mem.wf_put {m : Mem} {a : Nat} {b : Byte} (h : m.wf = true) : (m.put a b).wf = true := Mem.put_wf m a b h
@[simp] theorem Mem.wf_write {m : Mem} {a : Nat} {bs : List Byte} (h : m.wf = true) : (m.write a bs).wf = true :=
  Mem.write_wf bs m a h
@[simp] theorem Mem.wf_clear {m : Mem} {a n : Nat} (h : m.wf = true) : (m.clear a n).wf = true := Mem.clear_wf m a n h

@[simp] theorem Out.canon_next (t : State) : Out.Canon (.next t) ↔ t.Canon := by rfl
@[simp] theorem Out.canon_fault (e) : Out.Canon (.fault e) := trivial
@[simp] theorem Out.canon_refused (e) : Out.Canon (.refused e) := trivial

/-! A choice of states is in canonical form as the chosen state is. -/

@[simp] theorem State.canon_ite (c : Prop) [Decidable c] (a b : State) :
    (if c then a else b).Canon ↔ if c then a.Canon else b.Canon := by
  split <;> rfl

@[simp] theorem Out.canon_ite (c : Prop) [Decidable c] (a b : Out) :
    Out.Canon (if c then a else b) ↔ if c then Out.Canon a else Out.Canon b := by
  split <;> rfl

@[simp] theorem fst_ite {α β : Type} (c : Prop) [Decidable c] (a b : α × β) :
    (if c then a else b).1 = if c then a.1 else b.1 :=
  apply_ite Prod.fst c a b

theorem State.getD_canon {s : State} {o : Option State} (hs : s.Canon) (ho : ∀ t ∈ o, t.Canon) : (o.getD s).Canon := by
  cases o with
  | none => exact hs
  | some t => exact ho t rfl

theorem State.Canon.of_fst {α : Type} {p : State × α} {t : State} {x : α} (h : p.1.Canon) (e : p = (t, x)) : t.Canon := by
  simpa [e] using h

/-! A run over a list keeps the form as its body does: of a state, of a state with a value beside it, of a state that may
run out of room. -/

@[simp] theorem foldl_canon_iff {α : Type} {f : State → α → State} {l : List α} {s : State}
    (hf : ∀ t x, (f t x).Canon ↔ t.Canon) : (l.foldl f s).Canon ↔ s.Canon := by
  induction l generalizing s with
  | nil => rfl
  | cons x l ih => exact ih.trans (hf s x)

@[simp] theorem foldl_fst_canon_iff {α β : Type} {f : State × β → α → State × β} {l : List α} {q : State × β}
    (hf : ∀ t b x, (f (t, b) x).1.Canon ↔ t.Canon) : (l.foldl f q).1.Canon ↔ q.1.Canon := by
  induction l generalizing q with
  | nil => rfl
  | cons x l ih => exact ih.trans (hf q.1 q.2 x)

@[simp] theorem foldl_canon {α : Type} {f : State → α → State} {l : List α} {s : State} (h : s.Canon)
    (hf : ∀ t x, t.Canon → (f t x).Canon) : (l.foldl f s).Canon := by
  induction l generalizing s with
  | nil => exact h
  | cons x l ih => exact ih (hf s x h)

@[simp] theorem foldl_fst_canon {α β : Type} {f : State × β → α → State × β} {l : List α} {q : State × β}
    (h : q.1.Canon) (hf : ∀ t b x, t.Canon → (f (t, b) x).1.Canon) : (l.foldl f q).1.Canon := by
  induction l generalizing q with
  | nil => exact h
  | cons x l ih => exact ih (hf q.1 q.2 x h)

theorem foldl_some_canon {α : Type} {f : State → α → Option State} {l : List α} {s : State} (hs : s.Canon)
    (hf : ∀ t x, t.Canon → ∀ u ∈ f t x, u.Canon) :
    ∀ u ∈ l.foldl (fun (q : Option State) x => q.bind fun t => f t x) (some s), u.Canon := by
  suffices h : ∀ q : Option State, (∀ t ∈ q, t.Canon) →
      ∀ u ∈ l.foldl (fun (q : Option State) x => q.bind fun t => f t x) q, u.Canon from h (some s) (by simpa using hs)
  induction l with
  | nil => exact fun q hq => hq
  | cons x l ih =>
    refine fun q hq => ih _ fun u hu => ?_
    obtain ⟨t, ht, hu⟩ := Option.bind_eq_some_iff.1 hu
    exact hf t x (hq t ht) u hu

variable {s : State}

/-! ### Faults, events and traps -/

@[simp] theorem State.draw_canon (k) : (s.draw k).Canon ↔ s.Canon := State.canon_congr (by simp)

@[simp] theorem State.fresh_canon (k) : (s.fresh k).Canon ↔ s.Canon := State.canon_congr (by simp)

@[simp] theorem State.putSheaf_canon (h) : (s.putSheaf h).Canon ↔ s.Canon := State.canon_congr (by simp)

@[simp] theorem State.modSheaf_canon (uid f) : (s.modSheaf uid f).Canon ↔ s.Canon := State.canon_congr (by simp)

@[simp] theorem State.modCtx_canon (id f) : (s.modCtx id f).Canon ↔ s.Canon := State.canon_congr (by simp)

@[simp] theorem State.modMbx_canon (head f) : (s.modMbx head f).Canon ↔ s.Canon := State.canon_congr (by simp)

@[simp] theorem State.slmWrite_canon (hs : s.Canon) (a bs) : (s.slmWrite a bs).Canon := by simp [State.slmWrite, hs]

@[simp] theorem State.postFault_canon (ctx rec) : (s.postFault ctx rec).Canon ↔ s.Canon := State.canon_congr (by simp)

@[simp] theorem State.violate_canon (core ctx shid cause addr) : (s.violate core ctx shid cause addr).Canon ↔ s.Canon := by
  simp [State.violate]

@[simp] theorem State.violateAll_canon (h cs) : (s.violateAll h cs).Canon ↔ s.Canon := State.canon_congr (by simp)

@[simp] theorem State.postHalt_canon (h cause addr insn late nested pc) :
    (s.postHalt h cause addr insn late nested pc).Canon ↔ s.Canon := by
  simp [State.postHalt]

@[simp] theorem State.haltSheaf_canon (h cause addr insn late pc) :
    (s.haltSheaf h cause addr insn late pc).Canon ↔ s.Canon := State.canon_congr (by simp)

@[simp] theorem State.modSeqr_canon (core f) : (s.modSeqr core f).Canon ↔ s.Canon := State.canon_congr (by simp)

@[simp] theorem State.endSeq_canon (h f) : (s.endSeq h f).Canon ↔ s.Canon := State.canon_congr (by simp)

@[simp] theorem State.takeTrap_canon (h cause addr insn late pc ret) :
    (s.takeTrap h cause addr insn late pc ret).Canon ↔ s.Canon := State.canon_congr (by simp)

@[simp] theorem State.raise_canon (h insn cs) : (s.raise h insn cs).Canon ↔ s.Canon := State.canon_congr (by simp)

@[simp] theorem State.modOp_canon (id f) : (s.modOp id f).Canon ↔ s.Canon := State.canon_congr (by simp)

@[simp] theorem State.forwardByte_canon (a b cause) : (s.forwardByte a b cause).Canon ↔ s.Canon := by
  unfold State.forwardByte; split <;> simp

@[simp] theorem State.forwardBytes_canon (a cause bs) : (s.forwardBytes a cause bs).Canon ↔ s.Canon := by
  induction bs generalizing s a with
  | nil => rfl
  | cons b bs ih => simp [State.forwardBytes, ih]

@[simp] theorem State.scrWrite_canon (hs : s.Canon) (a bs0 cause) : (s.scrWrite a bs0 cause).Canon := by
  simp [State.scrWrite, hs]

@[simp] theorem State.allotWrite_canon (hs : s.Canon) (x off bs cause) : (s.allotWrite x off bs cause).Canon := by
  simp [State.allotWrite, hs]

/-! ### Operands and issue -/

@[simp] theorem State.spoilRanges_canon (hs : s.Canon) (h rs) : (s.spoilRanges h rs).Canon := by
  induction rs generalizing s with
  | nil => exact hs
  | cons r rs ih =>
    unfold State.spoilRanges
    extract_lets
    split <;> exact ih (by simp [hs])

@[simp] theorem State.spoil_canon (hs : s.Canon) (o) : (s.spoil o).Canon := by
  unfold State.spoil; split <;> simp [hs]

@[simp] theorem State.cloud_canon (hs : s.Canon) (os) : (s.cloud os).Canon := by simp +contextual [State.cloud, hs]

@[simp] theorem State.touch_canon (hs : s.Canon) (h sp a n wr) : (s.touch h sp a n wr).Canon := by simp [State.touch, hs]

@[simp] theorem State.done_canon (h) : (s.done h).Canon ↔ s.Canon := State.canon_congr (by simp)

@[simp] theorem State.goTo_canon (h pc) : (s.goTo h pc).Canon ↔ s.Canon := State.canon_congr (by simp)

@[simp] theorem State.finish_canon (h i cs) : (s.finish h i cs).Canon ↔ s.Canon := State.canon_congr (by simp)

@[simp] theorem State.finishLater_canon (h i unit cs) : (s.finishLater h i unit cs).Canon ↔ s.Canon := by
  simp [State.finishLater]

@[simp] theorem State.trapNow_canon (h i cause addr) : (s.trapNow h i cause addr).Canon ↔ s.Canon :=
  State.canon_congr (by simp)

@[simp] theorem State.decodeTrap_canon (h insn cause) : (s.decodeTrap h insn cause).Canon ↔ s.Canon :=
  State.canon_congr (by simp)

theorem State.issueBy_canon {body : Sheaf → State → State} (hs : s.Canon)
    (hb : ∀ h t, t.Canon → (body h t).Canon) (h i) : (s.issueBy h i body).Canon := by
  unfold State.issueBy
  repeat' split
  all_goals simp [hs, hb]

/-- A form that issues keeps the form if its body does. -/
@[simp] theorem issue_canon {body : Sheaf → State → State} (hs : s.Canon) (hb : ∀ h t, t.Canon → (body h t).Canon) (i) :
    (issue i s body).Canon := by
  unfold issue
  split
  · simp
  · exact (Out.canon_next _).2 (State.issueBy_canon hs hb _ i)

@[simp] theorem State.spend_canon (h cost) : (s.spend h cost).Canon ↔ s.Canon := State.canon_congr (by simp)

@[simp] theorem swept_canon (hs : s.Canon) (i f) : Out.Canon (swept i s f) := by simp [swept, hs]

@[simp] theorem sweptAt_canon (hs : s.Canon) (cls i f) : Out.Canon (sweptAt cls i s f) := by simp [sweptAt, hs]

@[simp] theorem scalar_canon (hs : s.Canon) (i n f) : Out.Canon (scalar i s n f) := by simp [scalar, hs]

@[simp] theorem scalarPair_canon (hs : s.Canon) (i n f) : Out.Canon (scalarPair i s n f) := by simp [scalarPair, hs]

/-! ### Translation, homes, L1 copies and the backing store -/

@[simp] theorem State.cacheTlb_canon (place t) : (s.cacheTlb place t).Canon ↔ s.Canon := by simp [State.cacheTlb]

@[simp] theorem State.orPte_canon (hs : s.Canon) (pte bits) : (s.orPte pte bits).Canon := by simp [State.orPte, hs]

@[simp] theorem State.translate_canon (hs : s.Canon) (ctx va) : (s.translate ctx va).1.Canon := by
  unfold State.translate
  repeat' split
  all_goals simp [hs]

@[simp] theorem State.engTranslate_canon (hs : s.Canon) (core ctx va) : (s.engTranslate core ctx va).1.Canon := by
  have h1 := State.translate_canon hs ctx va
  unfold State.engTranslate
  repeat' split
  all_goals simp_all

@[simp] theorem State.backWrite_canon (hs : s.Canon) (hm pa bs) : (s.backWrite hm pa bs).Canon := by
  simp [State.backWrite, hs]

@[simp] theorem State.modHome_canon (asid line f) : (s.modHome asid line f).Canon ↔ s.Canon := by simp [State.modHome]

@[simp] theorem State.countPool_canon (asid n) : (s.countPool asid n).Canon ↔ s.Canon := by simp [State.countPool]

@[simp] theorem State.writeBack_canon (hs : s.Canon) (h) : (s.writeBack h).Canon := by simp +contextual [State.writeBack, hs]

@[simp] theorem State.dropHome_canon (asid line) : (s.dropHome asid line).Canon ↔ s.Canon := by simp [State.dropHome]

@[simp] theorem State.dropCopies_canon (p) : (s.dropCopies p).Canon ↔ s.Canon := State.canon_congr (by simp)

@[simp] theorem State.evict_canon (hs : s.Canon) (h) : (s.evict h).Canon := by simp [State.evict, hs]

@[simp] theorem State.makeRoom_canon (hs : s.Canon) (slice n) : (s.makeRoom slice n).Canon := by
  simp +contextual [State.makeRoom, hs]

@[simp] theorem State.enterHome_canon (h) : (s.enterHome h).Canon ↔ s.Canon := by simp [State.enterHome]

@[simp] theorem State.homeOf_canon (hs : s.Canon) (ctx va need) : (s.homeOf ctx va need).1.Canon := by
  have h1 := State.translate_canon hs ctx va
  unfold State.homeOf
  repeat' split
  all_goals simp_all

@[simp] theorem State.logWrite_canon (hs : s.Canon) (ctx h) : (s.logWrite ctx h).Canon := by
  unfold State.logWrite
  split
  · exact hs
  split
  · exact hs
  extract_lets s1 pte s2 m
  have h1 : s1.Canon := by simp only [s1]; split <;> simp [hs]
  have h2 : s2.Canon := by simp only [s2]; clear_value pte; split <;> simp [h1]
  simpa [m] using h2

@[simp] theorem State.wroteThrough_canon (core ctx) : (s.wroteThrough core ctx).Canon ↔ s.Canon := by
  unfold State.wroteThrough; split <;> simp

@[simp] theorem State.spoilStacks_canon (ctx va n) : (s.spoilStacks ctx va n).Canon ↔ s.Canon := by simp [State.spoilStacks]

@[simp] theorem State.homeWrite_canon (hs : s.Canon) (ctx core uid h off bs) :
    (s.homeWrite ctx core uid h off bs).1.Canon := by
  simp [State.homeWrite, hs]

@[simp] theorem State.grant_canon (h) : (s.grant h).1.Canon ↔ s.Canon := by simp [State.grant]

@[simp] theorem State.putCopy_canon (l1 h le) : (s.putCopy l1 h le).Canon ↔ s.Canon := by simp [State.putCopy]

@[simp] theorem State.writeCopy_canon (l1 asid line off bs) : (s.writeCopy l1 asid line off bs).Canon ↔ s.Canon := by
  simp [State.writeCopy]

@[simp] theorem State.codeWord_canon (hs : s.Canon) (core ctx g off) : (s.codeWord core ctx g off).1.Canon := by
  have h1 := State.homeOf_canon hs ctx (g.base + off) .fetch
  unfold State.codeWord
  dsimp only
  repeat' split
  all_goals simp_all

@[simp] theorem State.park_canon (h va command) : (s.park h va command).Canon ↔ s.Canon := by simp [State.park]

@[simp] theorem State.fetchTrap_canon (h cause addr) : (s.fetchTrap h cause addr).Canon ↔ s.Canon := by
  simp [State.fetchTrap]

@[simp] theorem State.fetchFor_canon (hs : s.Canon) (h) : (s.fetchFor h).Canon := by
  unfold State.fetchFor
  split
  · exact hs
  split
  · simp [hs]
  next g _ =>
    have h1 := State.codeWord_canon hs h.core h.ctx g h.pc.off.toNat
    dsimp only
    repeat' split
    all_goals simp_all

/-! ### Branches, calls and system instructions -/

@[simp] theorem State.pushTo_canon (h h' i pc) : (s.pushTo h h' i pc).Canon ↔ s.Canon := State.canon_congr (by simp)

@[simp] theorem execNop_canon (hs : s.Canon) : Out.Canon (execNop s) := by simp [execNop, hs]

@[simp] theorem execExit_canon (hs : s.Canon) : Out.Canon (execExit s) := by simp [execExit, hs]

@[simp] theorem State.softTrap_canon (h i cause code) : (s.softTrap h i cause code).Canon ↔ s.Canon :=
  State.canon_congr (by simp)

@[simp] theorem execTrap_canon (hs : s.Canon) (imm) : Out.Canon (execTrap imm s) := by simp [execTrap, hs]

@[simp] theorem execBrk_canon (hs : s.Canon) (imm) : Out.Canon (execBrk imm s) := by simp [execBrk, hs]

@[simp] theorem execYld_canon (hs : s.Canon) : Out.Canon (execYld s) := by simp [execYld, hs]

@[simp] theorem execSleep_canon (hs : s.Canon) (imm) : Out.Canon (execSleep imm s) := by simp [execSleep, hs]

@[simp] theorem execEret_canon (hs : s.Canon) : Out.Canon (execEret s) := by
  refine issue_canon hs (fun h t ht => ?_) _
  repeat' split
  all_goals simp [ht]

@[simp] theorem execIfence_canon (hs : s.Canon) : Out.Canon (execIfence s) := by simp [execIfence, hs]

@[simp] theorem execBru_canon (hs : s.Canon) (c o) : Out.Canon (execBru c o s) := by simp [execBru, hs]

@[simp] theorem execBrd_canon (hs : s.Canon) (o) : Out.Canon (execBrd o s) := by
  refine issue_canon hs (fun h t ht => ?_) _
  dsimp only
  repeat' split
  all_goals simp [ht]

@[simp] theorem execRcv_canon (hs : s.Canon) (o) : Out.Canon (execRcv o s) := by
  refine issue_canon hs (fun h t ht => ?_) _
  dsimp only
  repeat' split
  all_goals simp [ht]

@[simp] theorem execCall_canon (hs : s.Canon) (o) : Out.Canon (execCall o s) := by
  refine issue_canon hs (fun h t ht => ?_) _
  repeat' split
  all_goals simp [ht]

@[simp] theorem execCallx_canon (hs : s.Canon) (o) : Out.Canon (execCallx o s) := by
  refine issue_canon hs (fun h t ht => ?_) _
  dsimp only
  repeat' split
  all_goals simp [ht]

@[simp] theorem execRet_canon (hs : s.Canon) (o) : Out.Canon (execRet o s) := by
  refine issue_canon hs (fun h t ht => ?_) _
  repeat' split
  all_goals simp [ht]

@[simp] theorem State.pool_canon (hs : s.Canon) (h g offs) : (s.pool h g offs).1.Canon := by
  induction offs generalizing s with
  | nil => exact hs
  | cons off offs ih =>
    have h1 := State.codeWord_canon hs h.core h.ctx g off.toNat
    unfold State.pool
    dsimp only
    split
    · exact hs
    split
    case h_1 s1 w e =>
      have h2 := ih (s := s1) (by simpa [e] using h1)
      split <;> simp_all
    all_goals simp_all

@[simp] theorem State.withPool_canon {k : State → List Word → State} (hs : s.Canon) (hk : ∀ t l, t.Canon → (k t l).Canon)
    (h i offs) : (s.withPool h i offs k).Canon := by
  unfold State.withPool
  split
  · exact hs
  next g _ =>
    have h1 := State.pool_canon hs h g offs
    repeat' split
    all_goals simp_all

@[simp] theorem execJtab_canon (hs : s.Canon) (o) : Out.Canon (execJtab o s) := by
  refine issue_canon hs (fun h t ht => State.withPool_canon ht (fun u l hu => ?_) ..) _
  split
  · simp [hu]
  · refine State.withPool_canon hu (fun v l hv => ?_) ..
    dsimp only
    split <;> simp [hv]

@[simp] theorem execLdls_canon (hs : s.Canon) (o) : Out.Canon (execLdls o s) :=
  issue_canon hs (fun _ _ ht => by simp [ht]) _

@[simp] theorem execLdlv_canon (hs : s.Canon) (o) : Out.Canon (execLdlv o s) :=
  issue_canon hs (fun _ _ ht => by simp [ht]) _

@[simp] theorem execLdl64_canon (hs : s.Canon) (o) : Out.Canon (execLdl64 o s) :=
  issue_canon hs (fun _ _ ht => by simp [ht]) _

/-! ### Scalar forms -/

@[simp] theorem compare_canon (hs : s.Canon) (i n f) : Out.Canon (compare i s n f) := by simp [compare, hs]

/-! ### Vector forms -/

@[simp] theorem vec2_canon (hs : s.Canon) (i o f) : Out.Canon (vec2 i o s f) := by simp [vec2, hs]

@[simp] theorem vecImm_canon (hs : s.Canon) (i o f) : Out.Canon (vecImm i o s f) := by simp [vecImm, hs]

@[simp] theorem fvec2_canon (hs : s.Canon) (i o f) : Out.Canon (fvec2 i o s f) := by simp [fvec2, hs]

@[simp] theorem fvec1_canon (hs : s.Canon) (i o f) : Out.Canon (fvec1 i o s f) := by simp [fvec1, hs]

@[simp] theorem fvec3_canon (hs : s.Canon) (i o na nd) : Out.Canon (fvec3 i o s na nd) := by simp [fvec3, hs]

@[simp] theorem fmaHalves_canon (hs : s.Canon) (i f o) : Out.Canon (fmaHalves i f o s) := by simp [fmaHalves, hs]

@[simp] theorem dotForm_canon (hs : s.Canon) (i f n o) : Out.Canon (dotForm i f n o s) := by simp [dotForm, hs]

@[simp] theorem fcmp_canon (hs : s.Canon) (i o f signalling) : Out.Canon (fcmp i o s f signalling) := by simp [fcmp, hs]

@[simp] theorem icmp_canon (hs : s.Canon) (i o f) : Out.Canon (icmp i o s f) := by simp [icmp, hs]

@[simp] theorem kform_canon (hs : s.Canon) (i o f) : Out.Canon (kform i o s f) := by simp [kform, hs]

@[simp] theorem kcount_canon (hs : s.Canon) (i o f) : Out.Canon (kcount i o s f) := by simp [kcount, hs]

@[simp] theorem shuffle_canon (hs : s.Canon) (i o src) : Out.Canon (shuffle i o s src) := by simp [shuffle, hs]

/-! ### Special functions -/

@[simp] theorem sfuForm_canon (hs : s.Canon) (i o f) : Out.Canon (sfuForm i o s f) := by simp [sfuForm, hs]

/-! ### Extension words -/

@[simp] theorem extension_canon (hs : s.Canon) (kind p) : Out.Canon (extension kind p s) := by
  unfold extension; split <;> simp [hs]

@[simp] theorem execIllegalInstruction_canon (hs : s.Canon) (w) : Out.Canon (execIllegalInstruction w s) := by
  unfold execIllegalInstruction
  repeat' split
  all_goals simp [hs]

/-! ### Memory instructions -/

@[simp] theorem State.sendBatches_canon (uid) : (s.sendBatches uid).Canon ↔ s.Canon := State.canon_congr (by simp)

@[simp] theorem State.hold_canon (h stop) : (s.hold h stop).Canon ↔ s.Canon := State.canon_congr (by simp)

@[simp] theorem State.afterRelease_canon {k : Sheaf → State → State} (hs : s.Canon) (hk : ∀ h t, t.Canon → (k h t).Canon)
    (h scp stop) : (s.afterRelease h scp stop k).Canon := by
  unfold State.afterRelease
  split <;> simp [hs, hk]

@[simp] theorem State.touchAll_canon (hs : s.Canon) (h as) : (s.touchAll h as).Canon := by
  simp +contextual [State.touchAll, hs]

@[simp] theorem State.globForm_canon (hs : s.Canon) (h r) : (s.globForm h r).Canon := by simp [State.globForm, hs]

@[simp] theorem State.plainWrite_canon (hs : s.Canon) (a bs uid) : (s.plainWrite a bs uid).Canon := by
  simp +contextual [State.plainWrite, hs]

@[simp] theorem State.stsWrite_canon (hs : s.Canon) (a bs uid) : (s.stsWrite a bs uid).Canon := by
  simp +contextual [State.stsWrite, hs]

@[simp] theorem State.scrAccess_canon (hs : s.Canon) (uid kind a size data) :
    (s.scrAccess uid kind a size data).1.Canon := by
  unfold State.scrAccess; split <;> simp [hs]

@[simp] theorem State.ownAccess_canon (hs : s.Canon) (h r l off) : (s.ownAccess h r l off).1.Canon := by
  simp +contextual [State.ownAccess, hs]

@[simp] theorem State.scrForm_canon (hs : s.Canon) (h0 r) : (s.scrForm h0 r).Canon := by
  unfold State.scrForm
  extract_lets x h peer ls off
  clear_value peer
  split
  · simp [hs]
  split
  · simp [hs]
  split
  · simp [hs]
  split
  · simp [hs]
  split
  · simp [hs]
  cases peer with
  | none =>
    dsimp only
    rw [State.finish_canon]
    exact foldl_fst_canon hs fun t b l ht => by simp [ht]
  | some p =>
    dsimp only
    have h1 : ∀ rs : List ChanReq,
        (rs.foldl (fun (u : State) (c : ChanReq) => u.touch h 1 c.addr c.size (r.kind != .load)) s).Canon :=
      fun rs => foldl_canon hs fun t c ht => State.touch_canon ht ..
    split <;> simp [h1]

@[simp] theorem execLd_canon (hs : s.Canon) (sz o) : Out.Canon (execLd sz o s) :=
  issue_canon hs (fun _ _ ht => by simp [ht]) _

@[simp] theorem execSt_canon (hs : s.Canon) (sz o) : Out.Canon (execSt sz o s) :=
  issue_canon hs (fun _ _ ht => by simp [ht]) _

@[simp] theorem execLdu_canon (hs : s.Canon) (sz o) : Out.Canon (execLdu sz o s) :=
  issue_canon hs (fun _ _ ht => by simp [ht]) _

@[simp] theorem execStu_canon (hs : s.Canon) (sz o) : Out.Canon (execStu sz o s) :=
  issue_canon hs (fun _ _ ht => by simp [ht]) _

@[simp] theorem execLds_canon (hs : s.Canon) (sz o) : Out.Canon (execLds sz o s) :=
  issue_canon hs (fun _ _ ht => by simp [ht]) _

@[simp] theorem execSts_canon (hs : s.Canon) (sz o) : Out.Canon (execSts sz o s) :=
  issue_canon hs (fun _ _ ht => by simp [ht]) _

@[simp] theorem atomicForm_canon (hs : s.Canon) (i o op regs) : Out.Canon (atomicForm i o op regs s) :=
  issue_canon hs (fun _ _ ht => by simp [ht]) _

/-! ### Accesses as they perform -/

@[simp] theorem State.overStacks_canon (ctx va bs) : (s.overStacks ctx va bs).1.Canon ↔ s.Canon := by simp [State.overStacks]

@[simp] theorem State.loadDone_canon (h x bytes) : (s.loadDone h x bytes).Canon ↔ s.Canon := by simp [State.loadDone]

@[simp] theorem State.homeFor_canon (hs : s.Canon) (h a) : (s.homeFor h a).1.Canon := by
  have h1 := State.homeOf_canon hs h.ctx a.addr a.need
  unfold State.homeFor
  repeat' split
  all_goals simp_all

@[simp] theorem State.foldGw_canon (uid g) : (s.foldGw uid g).Canon ↔ s.Canon := by simp [State.foldGw]

@[simp] theorem State.storeAt_canon (hs : s.Canon) (h a x) : (s.storeAt h a x).Canon := by simp [State.storeAt, hs]

@[simp] theorem State.atomicAt_canon (hs : s.Canon) (h a op x) : (s.atomicAt h a op x).Canon := by simp [State.atomicAt, hs]

@[simp] theorem State.loadAt_canon (h a x) : (s.loadAt h a x).Canon ↔ s.Canon := by simp [State.loadAt]

@[simp] theorem State.withAcc_canon {k : Sheaf → Access → State} (hs : s.Canon) (hk : ∀ h x, (k h x).Canon) (uid a) :
    (s.withAcc uid a k).Canon := by
  unfold State.withAcc
  repeat' split
  all_goals simp [hs, hk]

@[simp] theorem execFetch_canon (hs : s.Canon) (uid) : Out.Canon (execFetch uid s) := by
  unfold execFetch; split <;> simp [hs]

@[simp] theorem execSleepWake_canon (hs : s.Canon) (uid) : Out.Canon (execSleepWake uid s) := by simp [execSleepWake, hs]

@[simp] theorem execGatherFlush_canon (hs : s.Canon) (core) : Out.Canon (execGatherFlush core s) := by
  simp [execGatherFlush, hs]

@[simp] theorem execStoreDrain_canon (hs : s.Canon) (uid a) : Out.Canon (execStoreDrain uid a s) := by
  simp [execStoreDrain, hs]

@[simp] theorem State.performStore_canon (hs : s.Canon) (uid a) : (s.performStore uid a).Canon := by
  refine State.withAcc_canon hs (fun h x => ?_) ..
  have h1 := State.homeFor_canon hs h x
  repeat' split
  all_goals simp_all

@[simp] theorem execLoadPerform_canon (hs : s.Canon) (uid a) : Out.Canon (execLoadPerform uid a s) := by
  refine State.withAcc_canon hs (fun h x => ?_) ..
  have h1 := State.homeFor_canon hs h x
  repeat' split
  all_goals simp_all

@[simp] theorem execAtomicPerform_canon (hs : s.Canon) (uid a) : Out.Canon (execAtomicPerform uid a s) := by
  refine State.withAcc_canon hs (fun h x => ?_) ..
  have h1 := State.homeFor_canon hs h x
  repeat' split
  all_goals simp_all

@[simp] theorem State.sliceAt_canon (hs : s.Canon) (h x p) : (s.sliceAt h x p).Canon := by
  unfold State.sliceAt; split <;> simp [hs]

@[simp] theorem execSliceAccessPerform_canon (hs : s.Canon) (uid a) : Out.Canon (execSliceAccessPerform uid a s) := by
  refine State.withAcc_canon hs (fun h x => ?_) ..
  repeat' split
  all_goals simp [hs]

@[simp] theorem State.fillFor_canon (hs : s.Canon) (uid a) : (s.fillFor uid a).Canon := by
  refine State.withAcc_canon hs (fun h x => ?_) ..
  have h1 := State.homeFor_canon hs h x
  repeat' split
  all_goals simp_all

@[simp] theorem execExpire_canon (hs : s.Canon) (l1 asid line) : Out.Canon (execExpire l1 asid line s) := by
  simp [execExpire, hs]

@[simp] theorem State.askPage_canon (r) : (s.askPage r).Canon ↔ s.Canon := by simp [State.askPage]

@[simp] theorem State.logAccess_canon (h x state cause) : (s.logAccess h x state cause).Canon ↔ s.Canon := by
  simp [State.logAccess]

@[simp] theorem State.logRefused_canon (h x r) : (s.logRefused h x r).Canon ↔ s.Canon := by
  unfold State.logRefused; split <;> simp

@[simp] theorem execOperandLogEntry_canon (hs : s.Canon) (uid a) : Out.Canon (execOperandLogEntry uid a s) := by
  refine State.withAcc_canon hs (fun h x => ?_) ..
  have h1 := State.homeFor_canon hs h x
  repeat' split
  all_goals simp_all

@[simp] theorem State.unlog_canon (uid seq x) : (s.unlog uid seq x).Canon ↔ s.Canon := by simp [State.unlog]

@[simp] theorem State.replayAcc_canon (hs : s.Canon) (uid seq a) : (s.replayAcc uid seq a).Canon := by
  refine State.withAcc_canon hs (fun h x => ?_) ..
  have h1 := State.homeFor_canon hs h x
  repeat' split
  all_goals simp_all

@[simp] theorem State.trimLog_canon : (s.trimLog).Canon ↔ s.Canon := by simp [State.trimLog]

@[simp] theorem execOperandLogReplay_canon (hs : s.Canon) (uid seq) : Out.Canon (execOperandLogReplay uid seq s) := by
  unfold execOperandLogReplay
  repeat' split
  all_goals simp +contextual [hs]

@[simp] theorem execLateTrap_canon (hs : s.Canon) (uid) : Out.Canon (execLateTrap uid s) := by
  unfold execLateTrap
  split
  · simpa using hs
  next h _ =>
    extract_lets es
    split
    · simpa using hs
    · simp [hs]

@[simp] theorem State.phaseDone_canon (holder off) : (s.phaseDone holder off).Canon ↔ s.Canon := by simp [State.phaseDone]

@[simp] theorem State.arriveWord_canon (hs : s.Canon) (a uid b) : (s.arriveWord a uid b).1.Canon := by
  simp [State.arriveWord, hs]

@[simp] theorem State.lateChan_canon (r) : (s.lateChan r).Canon ↔ s.Canon := by simp [State.lateChan]

@[simp] theorem State.deliverReq_canon (hs : s.Canon) (r) : (s.deliverReq r).1.Canon := by
  unfold State.deliverReq; split <;> simp [hs]

@[simp] theorem execDeliver_canon (hs : s.Canon) (src dst) : Out.Canon (execDeliver src dst s) := by
  unfold execDeliver; split <;> simp [hs]

@[simp] theorem State.accAnswer_canon (b) : (s.accAnswer b).Canon ↔ s.Canon := by
  unfold State.accAnswer
  dsimp only
  split
  · simp
  split
  · simp
  split <;> simp

@[simp] theorem State.resultArrives_canon (uid) : (s.resultArrives uid).Canon ↔ s.Canon := by simp [State.resultArrives]

@[simp] theorem execWait_canon (hs : s.Canon) (uid seq) : Out.Canon (execWait uid seq s) := by
  unfold execWait
  repeat' split
  all_goals simp [hs]

/-! ### Fences, barriers, transaction barriers and handles -/

@[simp] theorem State.fenceAt_canon (h rel acq scp) : (s.fenceAt h rel acq scp).Canon ↔ s.Canon := by simp [State.fenceAt]

@[simp] theorem execFence_canon (hs : s.Canon) (o) : Out.Canon (execFence o s) := by simp [execFence, hs]

@[simp] theorem execFencesc_canon (hs : s.Canon) (o) : Out.Canon (execFencesc o s) :=
  issue_canon hs (fun _ _ ht => by simp [ht]) _

@[simp] theorem execOfence_canon (hs : s.Canon) (o) : Out.Canon (execOfence o s) := by simp [execOfence, hs]

@[simp] theorem State.arrived_canon {k : BarHandle → Sheaf → State → State} (hs : s.Canon)
    (hk : ∀ b h t, t.Canon → (k b h t).Canon) (h i trapa r) : (s.arrived h i trapa r k).Canon := by
  unfold State.arrived
  repeat' split
  all_goals simp [hs, hk]

@[simp] theorem State.arriveAt_canon {k : BarHandle → Sheaf → State → State} (hs : s.Canon)
    (hk : ∀ b h t, t.Canon → (k b h t).Canon) (h i o) : (s.arriveAt h i o k).Canon := by
  unfold State.arriveAt
  split
  · simp [hs]
  · simp [hs]
  · simp [hs]
  · exact State.arrived_canon hs hk ..
  · exact hk _ _ _ hs
  split
  next t _ =>
    split
    · simp [hs]
    split
    · simp [hs]
    refine State.afterRelease_canon hs (fun h u hu => ?_) ..
    dsimp only
    split
    · simp [hu]
    · exact State.arrived_canon (by simp [hu]) hk ..
  · simp [hs]

@[simp] theorem State.barCode_canon (b) : (s.barCode b).1.Canon ↔ s.Canon := by simp [State.barCode]

@[simp] theorem execBar_canon (hs : s.Canon) (o) : Out.Canon (execBar o s) := by
  refine issue_canon hs (fun h t ht => ?_) _
  split
  · dsimp only
    repeat' split
    all_goals simp [ht]
  · refine State.arriveAt_canon ht (fun b h t ht => ?_) ..
    split <;> simp [ht]

@[simp] theorem State.collect_canon (ctx) : (s.collect ctx).Canon ↔ s.Canon := by simp [State.collect]

@[simp] theorem execBara_canon (hs : s.Canon) (o) : Out.Canon (execBara o s) :=
  issue_canon hs (fun _ _ ht => by simp [ht]) _

@[simp] theorem execBarw_canon (hs : s.Canon) (o) : Out.Canon (execBarw o s) := by
  refine issue_canon hs (fun h t ht => ?_) _
  dsimp only
  repeat' split
  all_goals simp [ht]

@[simp] theorem execBart_canon (hs : s.Canon) (o) : Out.Canon (execBart o s) := by
  refine issue_canon hs (fun h t ht => ?_) _
  dsimp only
  repeat' split
  all_goals simp [ht]

@[simp] theorem State.putTxb_canon (hs : s.Canon) (a t uid) : (s.putTxb a t uid).Canon := by simp [State.putTxb, hs]

@[simp] theorem State.putOwnTxb_canon (hs : s.Canon) (cloud a t uid) : (s.putOwnTxb cloud a t uid).Canon := by
  simp [State.putOwnTxb, hs]

@[simp] theorem State.cloudAt_canon (hs : s.Canon) (h a n wr) : (s.cloudAt h a n wr).1.Canon := by simp [State.cloudAt, hs]

@[simp] theorem State.onTxb_canon {k : Nat → Bool → Sheaf → State → State} (hs : s.Canon)
    (hk : ∀ a b h t, t.Canon → (k a b h t).Canon) (h i o wr) : (s.onTxb h i o wr k).Canon := by
  unfold State.onTxb
  dsimp only
  split
  · repeat' split
    all_goals simp [hs, hk]
  · simp [hs]

@[simp] theorem execTxbi_canon (hs : s.Canon) (o) : Out.Canon (execTxbi o s) := by
  refine issue_canon hs (fun h t ht => State.onTxb_canon ht (fun a cloud h u hu => ?_) ..) _
  dsimp only
  rw [State.done_canon]
  split
  · exact State.scrWrite_canon (by simp [hu]) ..
  · exact State.putOwnTxb_canon hu ..

@[simp] theorem execTxbe_canon (hs : s.Canon) (o) : Out.Canon (execTxbe o s) := by
  refine issue_canon hs (fun h t ht => State.onTxb_canon ht (fun a cloud h u hu => ?_) ..) _
  simp [hu]

@[simp] theorem execTxba_canon (hs : s.Canon) (o) : Out.Canon (execTxba o s) := by
  refine issue_canon hs (fun h t ht => State.onTxb_canon ht (fun a cloud h u hu => ?_) ..) _
  refine State.afterRelease_canon hu (fun h v hv => ?_) ..
  split <;> simp [hv]

@[simp] theorem execTxbw_canon (hs : s.Canon) (o) : Out.Canon (execTxbw o s) :=
  issue_canon hs (fun _ _ ht => by simp [ht]) _

@[simp] theorem execTxbt_canon (hs : s.Canon) (o) : Out.Canon (execTxbt o s) :=
  issue_canon hs (fun _ _ ht => by simp [ht]) _

@[simp] theorem execWaita_canon (hs : s.Canon) (o) : Out.Canon (execWaita o s) := by
  refine issue_canon hs (fun h t ht => ?_) _
  dsimp only
  repeat' split
  all_goals simp [ht]

@[simp] theorem State.statusRead_canon (x) : (s.statusRead x).Canon ↔ s.Canon := by
  unfold State.statusRead; split <;> simp

@[simp] theorem State.observe_canon (h x) : (s.observe h x).1.Canon ↔ s.Canon := by
  unfold State.observe
  repeat' split
  all_goals simp

@[simp] theorem execHwait_canon (hs : s.Canon) (o) : Out.Canon (execHwait o s) := by simp [execHwait, hs]

@[simp] theorem execHtest_canon (hs : s.Canon) (o) : Out.Canon (execHtest o s) := by simp [execHtest, hs]

@[simp] theorem execHexp_canon (hs : s.Canon) (o) : Out.Canon (execHexp o s) := by
  refine issue_canon hs (fun h t ht => ?_) _
  dsimp only
  repeat' split
  all_goals simp [ht]

@[simp] theorem execHimp_canon (hs : s.Canon) (o) : Out.Canon (execHimp o s) := by
  refine issue_canon hs (fun h t ht => ?_) _
  dsimp only
  repeat' split
  all_goals simp [ht]

/-! ### What the engine commands share -/

@[simp] theorem State.refuse_canon (h i cs) : (s.refuse h i cs).Canon ↔ s.Canon := State.canon_congr (by simp)

@[simp] theorem State.readAs_canon (hs : s.Canon) (h va n) : (s.readAs h va n).1.Canon := by
  have h1 := State.homeOf_canon hs h.ctx va .read
  unfold State.readAs
  extract_lets
  repeat' split
  all_goals simp_all

@[simp] theorem State.entryIs_canon {k : Entry → State → State} (hs : s.Canon) (hk
    : ∀ e t, t.Canon → (k e t).Canon) (h i x) :
    (s.entryIs h i x k).Canon := by
  unfold State.entryIs
  repeat' split
  all_goals simp [hs, hk]

@[simp] theorem State.withEntry_canon {k : Entry → State → State} (hs : s.Canon) (hk
    : ∀ e t, t.Canon → (k e t).Canon) (h i n) :
    (s.withEntry h i n k).Canon := by
  unfold State.withEntry
  split
  · split
    · simp [hs]
    · exact State.entryIs_canon hs hk ..
  extract_lets va
  have h1 := State.readAs_canon hs h va 32
  split
  · exact hs
  clear_value va
  split
  case h_1 e => exact State.entryIs_canon (by simpa [e] using h1) hk ..
  all_goals simp_all

@[simp] theorem State.pinPage_canon (hs : s.Canon) (h va write q) : (s.pinPage h va write q).1.Canon := by
  have h1 := State.engTranslate_canon hs h.core h.ctx va
  unfold State.pinPage
  repeat' split
  all_goals simp_all

@[simp] theorem State.pinAll_canon (hs : s.Canon) (h rs) : (s.pinAll h rs).1.Canon := by simp +contextual [State.pinAll, hs]

/-- An engine command keeps the form if its body does. -/
@[simp] theorem engine_canon {body : Sheaf → State → State} (hs : s.Canon) (hb : ∀ h t, t.Canon → (body h t).Canon) (i k) :
    (engine i k s body).Canon := by
  refine issue_canon hs (fun h t ht => ?_) _
  repeat' split
  all_goals simp [ht, hb]

@[simp] theorem State.submit_canon (hs : s.Canon) (h i o src dst skip) : (s.submit h i o src dst skip).Canon := by
  have hp := State.pinAll_canon hs h ((src.map fun r => (r, false)) ++ dst.map fun r => (r, true))
  unfold State.submit
  dsimp only
  split
  · simp [hp]
  · simp [hp]
  · split <;> simp [hp]

/-! ### Engine commands -/

@[simp] theorem State.lanePage_canon (hs : s.Canon) (h slm write lid a o q) :
    (s.lanePage h slm write lid a o q).1.Canon := by
  have h1 := State.engTranslate_canon hs h.core h.ctx a
  unfold State.lanePage
  extract_lets
  repeat' split
  all_goals simp_all

@[simp] theorem laneCopy_canon (hs : s.Canon) (i k o) : Out.Canon (laneCopy i k o s) := by
  refine engine_canon hs (fun h0 t ht => ?_) ..
  extract_lets ord scp h n tx blk slm cs ls walk
  have hw : walk.1.Canon := foldl_fst_canon ht fun u q l hu => State.lanePage_canon hu ..
  clear_value walk cs
  split
  · simp [ht]
  split
  · simp [ht]
  split
  · simp [hw]
  · split <;> simp +zetaDelta [hw]

@[simp] theorem execBulk_canon (hs : s.Canon) (o) : Out.Canon (execBulk o s) := by
  refine engine_canon hs (fun h t ht => State.withEntry_canon ht (fun a u hu => ?_) ..) ..
  refine State.withEntry_canon hu (fun b v hv => ?_) ..
  extract_lets
  split
  · simp [hv]
  · exact State.submit_canon hv ..

@[simp] theorem execMcast_canon (hs : s.Canon) (o) : Out.Canon (execMcast o s) := by
  refine engine_canon hs (fun h t ht => State.withEntry_canon ht (fun a u hu => ?_) ..) ..
  refine State.withEntry_canon hu (fun b v hv => ?_) ..
  extract_lets
  split
  · simp [hv]
  · exact State.submit_canon hv ..

@[simp] theorem execPeer_canon (hs : s.Canon) (o) : Out.Canon (execPeer o s) := by
  refine engine_canon hs (fun h t ht => ?_) ..
  extract_lets
  split
  · simp [ht]
  · exact State.submit_canon ht ..

@[simp] theorem execDec_canon (hs : s.Canon) (o) : Out.Canon (execDec o s) := by
  refine engine_canon hs (fun h t ht => State.withEntry_canon ht (fun a u hu => ?_) ..) ..
  refine State.withEntry_canon hu (fun b v hv => ?_) ..
  extract_lets
  split
  · simp [hv]
  · exact State.submit_canon hv ..

@[simp] theorem execDscd_canon (hs : s.Canon) (o) : Out.Canon (execDscd o s) := by
  refine engine_canon hs (fun h t ht => ?_) ..
  dsimp only
  repeat' split
  all_goals simp +contextual [ht]

@[simp] theorem execPref_canon (hs : s.Canon) (o) : Out.Canon (execPref o s) := by
  refine engine_canon hs (fun h t ht => ?_) ..
  dsimp only
  repeat' split
  all_goals simp +contextual [ht]

@[simp] theorem execRed_canon (hs : s.Canon) (o) : Out.Canon (execRed o s) := by
  refine engine_canon hs (fun h t ht => State.withEntry_canon ht (fun a u hu => ?_) ..) ..
  dsimp only
  split
  · refine State.withEntry_canon hu (fun b v hv => ?_) ..
    split <;> simp [hv]
  · split <;> simp [hu]

@[simp] theorem mmaForm_canon (hs : s.Canon) (i k o) : Out.Canon (mmaForm i k o s) := by
  refine engine_canon hs (fun h t ht => State.withEntry_canon ht (fun a u hu => ?_) ..) ..
  refine State.withEntry_canon hu (fun b v hv => ?_) ..
  dsimp only
  split
  · simp [hv]
  split
  · exact hv
  · split <;> simp [hv]

@[simp] theorem tileMove_canon (hs : s.Canon) (i k o) : Out.Canon (tileMove i k o s) := by
  refine engine_canon hs (fun h t ht => ?_) ..
  extract_lets
  split
  · simp [ht]
  · exact State.submit_canon ht ..

@[simp] theorem execMmcl_canon (hs : s.Canon) (o) : Out.Canon (execMmcl o s) := by
  refine engine_canon hs (fun h t ht => ?_) ..
  dsimp only
  simp +contextual [ht]

@[simp] theorem execMmcv_canon (hs : s.Canon) (o) : Out.Canon (execMmcv o s) := by
  refine engine_canon hs (fun h t ht => ?_) ..
  dsimp only
  repeat' split
  all_goals simp +contextual [ht]

@[simp] theorem State.dropPatterns_canon (f) : (s.dropPatterns f).Canon ↔ s.Canon := by simp [State.dropPatterns]

@[simp] theorem State.patternSpace_canon (core n) : (State.patternSpace core n s).Canon ↔ s.Canon := by
  induction n generalizing s with
  | zero => rfl
  | succ n ih =>
    unfold State.patternSpace
    repeat' split
    all_goals simp [ih]

@[simp] theorem State.startCompile_canon (h off fmt) : (s.startCompile h off fmt).Canon ↔ s.Canon := by
  simp [State.startCompile]

@[simp] theorem State.choosePath_canon (h o) : (s.choosePath h o).Canon ↔ s.Canon := by
  unfold State.choosePath
  dsimp only
  rw [State.modOp_canon]
  split <;> simp

@[simp] theorem execMmsp_canon (hs : s.Canon) (o) : Out.Canon (execMmsp o s) := by
  refine engine_canon hs (fun h t ht => State.withEntry_canon ht (fun a u hu => ?_) ..) ..
  refine State.withEntry_canon hu (fun b v hv => ?_) ..
  extract_lets bs vals aR src cs
  clear_value cs
  split
  · simp [hv]
  split
  · exact hv
  · split <;> simp +zetaDelta [hv]

@[simp] theorem execSpcmp_canon (hs : s.Canon) (o) : Out.Canon (execSpcmp o s) := by
  refine engine_canon hs (fun h t ht => ?_) ..
  dsimp only
  repeat' split
  all_goals simp +contextual [ht]

@[simp] theorem execPcomp_canon (hs : s.Canon) (o) : Out.Canon (execPcomp o s) := by
  refine engine_canon hs (fun h t ht => ?_) ..
  dsimp only
  repeat' split
  all_goals simp +contextual [ht]

@[simp] theorem execPinv_canon (hs : s.Canon) (o) : Out.Canon (execPinv o s) := by simp [execPinv, hs]

@[simp] theorem execNnz_canon (hs : s.Canon) (o) : Out.Canon (execNnz o s) := by
  refine engine_canon hs (fun h t ht => ?_) ..
  dsimp only
  simp +contextual [ht]

@[simp] theorem execWnw_canon (hs : s.Canon) (o) : Out.Canon (execWnw o s) := by
  refine engine_canon hs (fun h t ht => ?_) ..
  dsimp only
  simp +contextual [ht]

@[simp] theorem execWnf_canon (hs : s.Canon) (o) : Out.Canon (execWnf o s) := by
  refine engine_canon hs (fun h t ht => ?_) ..
  dsimp only
  repeat' split
  all_goals simp +contextual [ht]

@[simp] theorem execWnx_canon (hs : s.Canon) (o) : Out.Canon (execWnx o s) := by
  refine engine_canon hs (fun h t ht => ?_) ..
  dsimp only
  repeat' split
  all_goals simp +contextual [ht]

/-! ### Engine units, completion and cancellation -/

@[simp] theorem State.mgmt_canon (code die sub core detail) : (s.mgmt code die sub core detail).Canon ↔ s.Canon := by
  simp [State.mgmt]

@[simp] theorem State.event_canon (code die sub core detail) : (s.event code die sub core detail).Canon ↔ s.Canon := by
  simp [State.event]

@[simp] theorem State.coreEvent_canon (code core detail) : (s.coreEvent code core detail).Canon ↔ s.Canon := by
  simp [State.coreEvent]

@[simp] theorem State.failOp_canon (id code cause addr) : (s.failOp id code cause addr).Canon ↔ s.Canon := by
  simp [State.failOp]

@[simp] theorem State.withOp_canon {k : Op → Sheaf → State} (hs : s.Canon) (hk : ∀ o h, (k o h).Canon) (id) :
    (s.withOp id k).Canon := by
  unfold State.withOp
  repeat' split
  all_goals simp [hs, hk]

@[simp] theorem State.staleRead_canon (o a n) : (s.staleRead o a n).1.Canon ↔ s.Canon := by simp [State.staleRead]

@[simp] theorem State.refit_canon (id) : (s.refit id).Canon ↔ s.Canon := by
  unfold State.refit
  repeat' split
  all_goals simp

@[simp] theorem State.readDone_canon (id key bs) : (s.readDone id key bs).Canon ↔ s.Canon := by simp [State.readDone]

@[simp] theorem State.capture_canon (o r a n) : (s.capture o r a n).Canon ↔ s.Canon := by simp [State.capture]

@[simp] theorem State.send_canon (r) : (s.send r).Canon ↔ s.Canon := by simp [State.send]

@[simp] theorem State.noSource_canon (o r) : (s.noSource o r).Canon ↔ s.Canon := by simp [State.noSource]

@[simp] theorem State.readRange_canon (o h r) : (s.readRange o h r).Canon ↔ s.Canon := by
  unfold State.readRange
  repeat' split
  all_goals simp

@[simp] theorem State.engRead_canon (o h n k) : (s.engRead o h n k).Canon ↔ s.Canon := by
  unfold State.engRead
  repeat' split
  all_goals simp

@[simp] theorem State.readAnswer_canon (op key b) : (s.readAnswer op key b).Canon ↔ s.Canon := by simp [State.readAnswer]

@[simp] theorem State.suspend_canon (o va) : (s.suspend o va).Canon ↔ s.Canon := by simp [State.suspend]

@[simp] theorem State.fillOp_canon (hs : s.Canon) (id line) : (s.fillOp id line).Canon := by
  refine State.withOp_canon hs (fun o _ => ?_) ..
  have h1 := State.homeOf_canon hs o.ctx (line * 128) .read
  dsimp only
  repeat' split
  all_goals simp_all

@[simp] theorem execFill_canon (hs : s.Canon) (f) : Out.Canon (execFill f s) := by
  unfold execFill; split <;> simp [hs]

@[simp] theorem State.unitGone_canon (o n) : (s.unitGone o n).Canon ↔ s.Canon := by simp [State.unitGone]

@[simp] theorem State.unitDone_canon (id n f empty) : (s.unitDone id n f empty).Canon ↔ s.Canon := by simp [State.unitDone]

@[simp] theorem State.opWrite_canon (hs : s.Canon) (o va bs) : (s.opWrite o va bs).Canon := by
  have h1 := State.homeOf_canon hs o.ctx va .write
  unfold State.opWrite
  split <;> simp_all

@[simp] theorem State.putRun_canon (hs : s.Canon) (o n t r) : (s.putRun o n t r).Canon := by
  unfold State.putRun; split <;> simp [hs]

@[simp] theorem State.putRuns_canon (hs : s.Canon) (o n t rs k) : (s.putRuns o n t rs k).Canon := by
  simp +contextual [State.putRuns, hs]

@[simp] theorem State.countTxb_canon (hs : s.Canon) (o x off n trn err) : (s.countTxb o x off n trn err).Canon := by
  simp [State.countTxb, hs]

@[simp] theorem State.taintRivals_canon (o) : (s.taintRivals o).Canon ↔ s.Canon := by
  unfold State.taintRivals; split <;> simp

@[simp] theorem State.appended_canon (hs : s.Canon) (o h w bytes n) : (s.appended o h w bytes n).Canon := by
  simp [State.appended, hs]

@[simp] theorem State.rowRuns_canon {k : State → State} (hs : s.Canon) (hk : ∀ t, t.Canon → (k t).Canon) (o n rs part) :
    (s.rowRuns o n rs part k).Canon := by
  unfold State.rowRuns
  extract_lets s1
  have h1 : s1.Canon := State.putRuns_canon hs ..
  split <;> simp [h1, hk]

@[simp] theorem State.winnowRow_canon (hs : s.Canon) (o h part) : (s.winnowRow o h part).Canon := by
  unfold State.winnowRow
  dsimp only
  split
  · exact hs
  repeat' split
  all_goals simp +contextual [hs]

@[simp] theorem State.winnowFlush_canon (hs : s.Canon) (o h part) : (s.winnowFlush o h part).Canon := by
  unfold State.winnowFlush
  repeat' split
  all_goals simp +contextual [hs]

@[simp] theorem State.putUnit_canon (hs : s.Canon) (o h n t k) : (s.putUnit o h n t k).Canon := by
  unfold State.putUnit; split <;> simp [hs]

@[simp] theorem State.writeUnit_canon (hs : s.Canon) (o h n k home) : (s.writeUnit o h n k home).Canon := by
  have h1 := State.homeOf_canon hs o.ctx (o.unitVa n) .write
  unfold State.writeUnit
  repeat' split
  all_goals simp_all

@[simp] theorem State.writeAnswer_canon (hs : s.Canon) (op n holder) : (s.writeAnswer op n holder).Canon := by
  refine State.withOp_canon hs (fun o h => ?_) ..
  repeat' split
  all_goals simp [hs]

@[simp] theorem execEngineScratchAccess_canon (hs : s.Canon) (op act) : Out.Canon (execEngineScratchAccess op act s) := by
  unfold execEngineScratchAccess
  extract_lets write
  have hw : ∀ o h n k, (write o h n k).Canon := by
    intro o h n k
    simp only [write]
    repeat' split
    all_goals simp [hs]
  clear_value write
  refine State.withOp_canon hs (fun o h => ?_) ..
  split <;> simp [hs, hw]

@[simp] theorem execHomeWritePerform_canon (hs : s.Canon) (w) : Out.Canon (execHomeWritePerform w s) := by
  unfold execHomeWritePerform; split <;> simp [hs]

@[simp] theorem State.respond_canon (hs : s.Canon) (src dst) : (s.respond src dst).Canon := by
  unfold State.respond
  repeat' split
  all_goals simp [hs]

@[simp] theorem execMcastTransferStart_canon (hs : s.Canon) (op member)
    : Out.Canon (execMcastTransferStart op member s) := by
  refine State.withOp_canon hs (fun o h => ?_) ..
  dsimp only
  repeat' split
  all_goals simp [hs]

@[simp] theorem State.worked_canon (ctx die) : (s.worked ctx die).Canon ↔ s.Canon := by simp [State.worked]

@[simp] theorem State.commitRow_canon (o h) : (s.commitRow o h).Canon ↔ s.Canon := by simp [State.commitRow]

@[simp] theorem execRowCommit_canon (hs : s.Canon) (op) : Out.Canon (execRowCommit op s) := by simp [execRowCommit, hs]

@[simp] theorem State.spoilGlob_canon (hs : s.Canon) (ctx va n) : (s.spoilGlob ctx va n).Canon := by
  unfold State.spoilGlob
  extract_lets s1
  suffices s1.Canon by simpa
  refine foldl_canon hs fun t k ht => ?_
  have h1 := State.homeOf_canon ht ctx (va + k) .any
  split <;> simp_all

@[simp] theorem State.spoilPeers_canon (hs : s.Canon) (o h) : (s.spoilPeers o h).Canon := by
  unfold State.spoilPeers
  split
  · exact hs
  · refine foldl_canon hs fun t x ht => foldl_canon ht fun u p hu => ?_
    extract_lets
    split <;> simp [hu]

@[simp] theorem State.spoilAll_canon (hs : s.Canon) (o h) : (s.spoilAll o h).Canon := by
  refine foldl_canon (State.spoilPeers_canon (State.spoil_canon hs o) o h) fun t r ht => ?_
  repeat' split
  all_goals simp [ht]

@[simp] theorem State.spoilRows_canon (uid tile r) : (s.spoilRows uid tile r).Canon ↔ s.Canon := by simp [State.spoilRows]

@[simp] theorem State.countOp_canon (hs : s.Canon) (o h trn err) : (s.countOp o h trn err).Canon := by
  unfold State.countOp
  split
  · exact hs
  extract_lets off src s1
  suffices s1.Canon by simpa
  simp only [s1]
  split
  · refine foldl_canon hs fun t x ht => ?_
    split <;> simp [ht]
  · split <;> simp [hs]

@[simp] theorem State.flagStore_canon (hs : s.Canon) (o h) : (s.flagStore o h).1.Canon := by
  unfold State.flagStore
  extract_lets
  repeat' split
  all_goals try simp [hs]
  refine foldl_canon hs fun t x ht => ?_
  split <;> simp [ht]

@[simp] theorem State.discard_canon (hs : s.Canon) (o va n) : (s.discard o va n).Canon := by
  unfold State.discard
  simp only [State.canon_mk, MemSys.canon_mk, MemSys.canon_fold, State.mm_canon, State.draw_canon]
  refine foldl_canon hs fun t p ht => ?_
  have h2 := State.translate_canon ht o.ctx (max va (p * 65536))
  split <;> simp_all

@[simp] theorem State.prefetch_canon (hs : s.Canon) (o va n) : (s.prefetch o va n).Canon := by
  unfold State.prefetch
  split
  · exact hs
  refine foldl_canon hs fun t k ht => ?_
  have h1 := State.homeOf_canon ht o.ctx ((va / 128 + k) * 128) .read
  split <;> simp_all

@[simp] theorem State.keepTable_canon (o) : (s.keepTable o).Canon ↔ s.Canon := by
  unfold State.keepTable; split <;> simp

@[simp] theorem State.dropRequests_canon (op) : (s.dropRequests op).Canon ↔ s.Canon := by simp [State.dropRequests]

@[simp] theorem State.endOp_canon (hs : s.Canon) (o h code detail vs) : (s.endOp o h code detail vs).Canon := by
  simp [State.endOp, hs]

@[simp] theorem State.logSupp_canon (o h) : (s.logSupp o h).Canon ↔ s.Canon := by simp [State.logSupp]

@[simp] theorem State.modGroup_canon (gid f) : (s.modGroup gid f).Canon ↔ s.Canon := by simp [State.modGroup]

@[simp] theorem State.passRound_canon (gid) : (s.passRound gid).Canon ↔ s.Canon := by simp [State.passRound]

@[simp] theorem State.endRound_canon (gid) : (s.endRound gid).Canon ↔ s.Canon := by simp [State.endRound]

@[simp] theorem State.closeOp_canon (hs : s.Canon) (o h) : (s.closeOp o h).Canon := by
  unfold State.closeOp; split <;> simp [hs]

@[simp] theorem State.completeOp_canon (hs : s.Canon) (o h) : (s.completeOp o h).Canon := by
  unfold State.completeOp
  extract_lets o1 s0 c fl
  have h0 : s0.Canon := by simp [s0, hs]
  have hf : fl.1.Canon := State.flagStore_canon h0 o1 h
  repeat' split
  all_goals simp [h0, hf]

@[simp] theorem State.contribute_canon (hs : s.Canon) (o h) : (s.contribute o h).Canon := by
  unfold State.contribute; split <;> simp [hs]

@[simp] theorem execComplete_canon (hs : s.Canon) (op) : Out.Canon (execComplete op s) := by simp [execComplete, hs]

@[simp] theorem State.finishStarted_canon (hs : s.Canon) (o h) : (s.finishStarted o h).Canon := by
  refine foldl_canon hs fun t n ht => ?_
  cases t.op? o.id <;> simp [ht]

@[simp] theorem State.cancelLanes_canon (hs : s.Canon) (o h) : (s.cancelLanes o h).Canon := by
  unfold State.cancelLanes
  extract_lets s1
  have h1 : s1.Canon := State.finishStarted_canon hs o h
  split
  · exact h1
  · split <;> simp [h1]

/-- One case per kind of operation: the ones that may have written leave undefined bytes. -/
@[simp] theorem State.cancelOp_canon (hs : s.Canon) (o h) : (s.cancelOp o h).Canon := by
  unfold State.cancelOp
  extract_lets now ended gone t
  have he : ∀ u, u.Canon → (ended u).Canon := fun u hu => State.endOp_canon hu ..
  have hg : ∀ u, u.Canon → (gone u).Canon := fun u hu => State.endOp_canon hu ..
  have ht : t.Canon := State.finishStarted_canon hs o h
  clear_value ended gone t
  split
  iterate 5 exact hg _ (State.spoilAll_canon (State.countOp_canon ht ..) ..)
  iterate 2 exact State.cancelLanes_canon hs o h
  · exact hg _ (State.discard_canon hs ..)
  · split
    · exact he _ hs
    · exact hs
  iterate 7 exact hg _ (State.spoilAll_canon hs o h)
  · refine he _ ?_
    split <;> simp [hs]
  · refine he _ ?_
    split <;> simp [hs]
  iterate 2 exact he _ hs
  iterate 2 exact hs

@[simp] theorem execHcan_canon (hs : s.Canon) (o) : Out.Canon (execHcan o s) := by
  refine issue_canon hs (fun h t ht => ?_) _
  dsimp only
  repeat' split
  all_goals simp [ht]

@[simp] theorem State.engineFail_canon (hs : s.Canon) (o) : (s.engineFail o).Canon := by
  unfold State.engineFail; split <;> simp [hs]

@[simp] theorem State.fenceEngine_canon (hs : s.Canon) (core) : (s.fenceEngine core).Canon := by
  unfold State.fenceEngine
  dsimp only
  split
  · simp only [State.coreEvent_canon]
    refine foldl_canon (by simpa using hs) fun t o ht => ?_
    split <;> simp [ht]
  · exact hs

@[simp] theorem execMmStallReset_canon (hs : s.Canon) (core) : Out.Canon (execMmStallReset core s) := by
  unfold execMmStallReset; split <;> simp [hs]

@[simp] theorem State.compileFails_canon (h p) : (s.compileFails h p).Canon ↔ s.Canon := by simp [State.compileFails]

@[simp] theorem execPatternCompileDone_canon (hs : s.Canon) (core entry)
    : Out.Canon (execPatternCompileDone core entry s) := by
  unfold execPatternCompileDone
  repeat' split
  all_goals simp [hs]

@[simp] theorem execEnergyWindow_canon (hs : s.Canon) (die) : Out.Canon (execEnergyWindow die s) := by
  simp [execEnergyWindow, hs]

/-! ### Stooks, batches and subscriptions -/

@[simp] theorem State.joinAs_canon (h name idx) : (s.joinAs h name idx).Canon ↔ s.Canon := State.canon_congr (by simp)

@[simp] theorem execSjoin_canon (hs : s.Canon) (o) : Out.Canon (execSjoin o s) :=
  issue_canon hs (fun _ _ ht => by simp [ht]) _

@[simp] theorem State.leaveStook_canon (uid) : (s.leaveStook uid).Canon ↔ s.Canon := State.canon_congr (by simp)

@[simp] theorem execSleave_canon (hs : s.Canon) (o) : Out.Canon (execSleave o s) := by
  refine issue_canon hs (fun h t ht => State.afterRelease_canon ht (fun h u hu => ?_) ..) _
  dsimp only
  repeat' split
  all_goals simp [hu]

@[simp] theorem execSinfo_canon (hs : s.Canon) (o) : Out.Canon (execSinfo o s) := by simp [execSinfo, hs]

@[simp] theorem execSsub_canon (hs : s.Canon) (o) : Out.Canon (execSsub o s) := by
  refine issue_canon hs (fun h t ht => ?_) _
  dsimp only
  repeat' split
  all_goals simp [ht]

@[simp] theorem execSunsub_canon (hs : s.Canon) (o) : Out.Canon (execSunsub o s) := by simp [execSunsub, hs]

@[simp] theorem execSsync_canon (hs : s.Canon) (o) : Out.Canon (execSsync o s) := by simp [execSsync, hs]

@[simp] theorem State.modSub_canon (uid f) : (s.modSub uid f).Canon ↔ s.Canon := by simp [State.modSub]

@[simp] theorem execBatchSend_canon (hs : s.Canon) (sub batch) : Out.Canon (execBatchSend sub batch s) := by
  simp [execBatchSend, hs]

@[simp] theorem State.applyBytes_canon (hs : s.Canon) (base bs) : (s.applyBytes base bs).Canon := by
  simp +contextual [State.applyBytes, hs]

@[simp] theorem execForward_canon (hs : s.Canon) (sub batch) : Out.Canon (execForward sub batch s) := by
  unfold execForward
  repeat' split
  all_goals simp [hs]

@[simp] theorem execSubscriptionResyncFetch_canon (hs : s.Canon) (sub sector)
    : Out.Canon (execSubscriptionResyncFetch sub sector s) := by
  unfold execSubscriptionResyncFetch
  repeat' split
  all_goals simp [hs]

/-! ### Nests -/

@[simp] theorem State.putNest_canon (n) : (s.putNest n).Canon ↔ s.Canon := State.canon_congr (by simp)

@[simp] theorem State.nestWait_canon (h as) : (s.nestWait h as).Canon ↔ s.Canon := by simp [State.nestWait]

@[simp] theorem State.scramble_canon (hs : s.Canon) (x off n) : (s.scramble x off n).Canon := by simp [State.scramble, hs]

@[simp] theorem State.beginIters_canon (hs : s.Canon) (h h1 i lv) : (s.beginIters h h1 i lv).Canon := by
  refine foldl_canon hs fun t off ht => ?_
  split <;> simp [ht]

@[simp] theorem nestSwept_canon (hs : s.Canon) (i lv f) : Out.Canon (nestSwept i lv s f) :=
  issue_canon hs (fun _ _ ht => by simp [ht]) _

@[simp] theorem execNllm_canon (hs : s.Canon) (o) : Out.Canon (execNllm o s) := by simp [execNllm, hs]

@[simp] theorem State.nbarArrive_canon (h lv as) : (s.nbarArrive h lv as).Canon ↔ s.Canon := by simp [State.nbarArrive]

@[simp] theorem execNbar_canon (hs : s.Canon) (o) : Out.Canon (execNbar o s) := by simp [execNbar, hs]

@[simp] theorem State.redLane_canon (h lv d ty op rm l key) : (s.redLane h lv d ty op rm l key).1.Canon ↔ s.Canon := by
  unfold State.redLane
  dsimp only
  split <;> simp

@[simp] theorem State.redAdd_canon (h i lv a ty op) : (s.redAdd h i lv a ty op).Canon ↔ s.Canon := by
  refine foldl_canon_iff fun t l => ?_
  split <;> simp

@[simp] theorem execNred_canon (hs : s.Canon) (o) : Out.Canon (execNred o s) := by simp [execNred, hs]

@[simp] theorem State.bcLane_canon (h lv d l key) : (s.bcLane h lv d l key).1.Canon ↔ s.Canon := by
  unfold State.bcLane
  dsimp only
  split <;> simp

@[simp] theorem execNbc_canon (hs : s.Canon) (o) : Out.Canon (execNbc o s) := by simp [execNbc, hs]

/-! ### Tasks, CSRs and mailbox instructions -/

@[simp] theorem execSpawn_canon (hs : s.Canon) (o) : Out.Canon (execSpawn o s) :=
  issue_canon hs (fun _ _ ht => by simp [ht]) _

@[simp] theorem State.postMsg_canon (head bs) : (s.postMsg head bs).Canon ↔ s.Canon := State.canon_congr (by simp)

@[simp] theorem State.seenBytes_canon (hs : s.Canon) (h a n) : (s.seenBytes h a n).1.Canon := by simp [State.seenBytes, hs]

@[simp] theorem execLaunch_canon (hs : s.Canon) (o) : Out.Canon (execLaunch o s) := by
  refine issue_canon hs (fun h t ht => ?_) _
  dsimp only
  repeat' split
  all_goals simp +contextual [ht]

@[simp] theorem execTdone_canon (hs : s.Canon) (o) : Out.Canon (execTdone o s) := by simp [execTdone, hs]

@[simp] theorem execCsrr_canon (hs : s.Canon) (o) : Out.Canon (execCsrr o s) := by simp [execCsrr, hs]

@[simp] theorem execCsrw_canon (hs : s.Canon) (o) : Out.Canon (execCsrw o s) := by simp [execCsrw, hs]

@[simp] theorem execCsrs_canon (hs : s.Canon) (o) : Out.Canon (execCsrs o s) := by simp [execCsrs, hs]

@[simp] theorem execCsrc_canon (hs : s.Canon) (o) : Out.Canon (execCsrc o s) := by simp [execCsrc, hs]

@[simp] theorem execMpost_canon (hs : s.Canon) (o) : Out.Canon (execMpost o s) := by
  refine issue_canon hs (fun h t ht => ?_) _
  dsimp only
  repeat' split
  all_goals simp +contextual [ht]

@[simp] theorem execMtake_canon (hs : s.Canon) (o) : Out.Canon (execMtake o s) := by
  refine issue_canon hs (fun h t ht => ?_) _
  dsimp only
  repeat' split
  all_goals simp [ht]

@[simp] theorem execMpeek_canon (hs : s.Canon) (o) : Out.Canon (execMpeek o s) := by
  refine issue_canon hs (fun h t ht => ?_) _
  repeat' split
  all_goals simp [ht]

/-! ### Launches, admission and placement -/

@[simp] theorem State.hold1K_canon (core base kib ctx) : (s.hold1K core base kib ctx).Canon ↔ s.Canon := by
  simp [State.hold1K]

@[simp] theorem State.moveAlloc_canon (hs : s.Canon) (h base) : (s.moveAlloc h base).Canon := by simp [State.moveAlloc, hs]

@[simp] theorem State.compactCore_canon (hs : s.Canon) (core) : (s.compactCore core).Canon := by
  simp +contextual [State.compactCore, hs]

@[simp] theorem State.prepare_canon (hs : s.Canon) (core base kib ctx) : (s.prepare core base kib ctx).Canon := by
  unfold State.prepare
  extract_lets zero
  suffices ∀ t u, t.Canon → (zero t u).Canon by simp [foldl_canon hs this]
  intro t u ht
  simp [zero, ht]

@[simp] theorem State.placeOn_canon (hs : s.Canon) (h core) : (s.placeOn h core).Canon := by simp [State.placeOn, hs]

@[simp] theorem State.globBytes_canon (hs : s.Canon) (ctx va n) : (s.globBytes ctx va n).1.Canon := by
  induction n with
  | zero => exact hs
  | succ n ih =>
    unfold State.globBytes
    split
    · simp_all
    next s1 bs e =>
      have h1 := State.homeOf_canon (s := s1) (by simpa [e] using ih) ctx (va + n) .read
      split <;> simp_all

@[simp] theorem State.forget_canon (die ctx vas) : (s.forget die ctx vas).Canon ↔ s.Canon := by simp [State.forget]

@[simp] theorem State.arbAccess_canon (hs : s.Canon) (ctx die va write) : (s.arbAccess ctx die va write).1.Canon := by
  have h1 := State.translate_canon hs ctx va
  unfold State.arbAccess
  repeat' split
  all_goals simp_all

@[simp] theorem State.mapPacket_canon (hs : s.Canon) (ctx p) : (s.mapPacket ctx p).1.Canon := by
  have h1 := State.globBytes_canon hs ctx (natAt p 16 8) 80
  unfold State.mapPacket
  extract_lets go
  have hg : ∀ t m, (go t m).1 = t := fun t m => by simp only [go]; split <;> rfl
  repeat' split
  all_goals simp_all

@[simp] theorem State.mapLaunch_canon (hs : s.Canon) (l) : (s.mapLaunch l).1.Canon := by simp [State.mapLaunch, hs]

@[simp] theorem State.postReject_canon (ctx port reason) : (s.postReject ctx port reason).Canon ↔ s.Canon := by
  simp [State.postReject]

@[simp] theorem State.rejectLaunch_canon (l reason) : (s.rejectLaunch l reason).Canon ↔ s.Canon := by
  simp [State.rejectLaunch]

@[simp] theorem State.modLaunch_canon (id f) : (s.modLaunch id f).Canon ↔ s.Canon := by simp [State.modLaunch]

@[simp] theorem State.number_canon (id) : (s.number id).Canon ↔ s.Canon := by
  unfold State.number; split <;> simp

@[simp] theorem State.ready_canon (hs : s.Canon) (id) : (s.ready id).Canon := by
  unfold State.ready
  split
  · exact hs
  next l _ =>
    have h1 := State.mapLaunch_canon hs l
    repeat' split
    all_goals simp_all

@[simp] theorem execLaunchPacketCheck_canon (hs : s.Canon) (port) : Out.Canon (execLaunchPacketCheck port s) := by
  unfold execLaunchPacketCheck
  rw [Out.canon_next]
  split
  · exact hs
  split
  swap
  · exact hs
  split
  · exact hs
  extract_lets die pop ent found desc descBad reasons
  have hf : found.1.Canon := foldl_fst_canon hs fun t b x ht => by simp [ht]
  have hd : desc.1.Canon := by simp [desc, hf]
  have hp : (pop desc.1).Canon := by simp [pop, hd]
  clear_value reasons ent desc pop
  split
  · simp [hp]
  · split
    · refine foldl_canon hd fun t x ht => ?_
      split <;> simp [ht]
    · exact (State.number_canon ..).2 (State.ready_canon (by simpa +zetaDelta using hp) _)
  · exact hs

@[simp] theorem execDependenceRead_canon (hs : s.Canon) (launch dep) : Out.Canon (execDependenceRead launch dep s) := by
  unfold execDependenceRead
  rw [Out.canon_next]
  split
  · exact hs
  next l _ =>
    split
    · exact hs
    extract_lets a
    have h1 := State.arbAccess_canon hs l.ctx l.die a false
    split
    · simp_all
    · simp_all
    next s1 e =>
      have h2 := State.globBytes_canon (s := s1) (by simpa [e] using h1) l.ctx a 4
      repeat' split
      all_goals simp_all

@[simp] theorem State.addSheaf_canon (l k cluster stook) : (s.addSheaf l k cluster stook).Canon ↔ s.Canon := by
  simp [State.addSheaf]

theorem State.placeFirst_canon (hs : s.Canon) (uid cluster) : ∀ t ∈ s.placeFirst uid cluster, t.Canon := by
  intro t ht
  obtain ⟨h, _, ht⟩ := Option.bind_eq_some_iff.1 ht
  obtain ⟨c, _, rfl⟩ := Option.map_eq_some_iff.1 ht
  exact State.placeOn_canon hs h c

theorem State.admitUnit_canon (hs : s.Canon) (l k n cluster stook together) :
    ∀ t ∈ s.admitUnit l k n cluster stook together, t.Canon := by
  unfold State.admitUnit
  split
  · simp
  split
  · simp
  dsimp only
  split
  · refine foldl_some_canon ?_ fun t j ht => State.placeFirst_canon ht _ _
    simp [hs]
  · simp [hs]

theorem State.admitAll_canon (hs : s.Canon) (l u cs n fuel) : ∀ t ∈ s.admitAll l u cs n fuel, t.Canon := by
  induction fuel generalizing s cs n with
  | zero => cases cs <;> cases n <;> simp [State.admitAll, hs]
  | succ fuel ih =>
    cases cs <;> cases n
    case cons.succ c cs n =>
      unfold State.admitAll
      dsimp only
      split
      next t e => exact ih (State.admitUnit_canon hs _ _ _ _ _ _ t e) _ _
      · exact ih hs _ _
    all_goals simp [State.admitAll, hs]

theorem State.tryAdmit_canon (hs : s.Canon) (l cluster) : ∀ t ∈ s.tryAdmit l cluster, t.Canon := by
  unfold State.tryAdmit
  split
  · simp
  dsimp only
  split
  · simp
  split
  · split
    · exact State.admitAll_canon hs _ _ _ _ _
    · simp
  split
  · exact fun t ht => State.admitUnit_canon hs _ _ _ _ _ _ t (Option.filter_eq_some_iff.1 ht).1
  · simp

@[simp] theorem execSheafAdmit_canon (hs : s.Canon) (launch cluster) : Out.Canon (execSheafAdmit launch cluster s) := by
  unfold execSheafAdmit
  rw [Out.canon_next]
  split
  · exact hs
  next l _ =>
    dsimp only
    split
    · exact hs
    · exact State.getD_canon hs (State.tryAdmit_canon hs l cluster)

@[simp] theorem execSheafPlace_canon (hs : s.Canon) (uid core) : Out.Canon (execSheafPlace uid core s) := by
  unfold execSheafPlace
  repeat' split
  all_goals simp [hs]

@[simp] theorem execGroupClose_canon (hs : s.Canon) (cluster group) : Out.Canon (execGroupClose cluster group s) := by
  unfold execGroupClose
  rw [Out.canon_next]
  split
  · exact hs
  split
  · exact hs
  dsimp only
  repeat' split
  all_goals simp [hs]

@[simp] theorem State.freeSheaf_canon (h) : (s.freeSheaf h).Canon ↔ s.Canon := by simp [State.freeSheaf]

@[simp] theorem execDrainEnd_canon (hs : s.Canon) (uid) : Out.Canon (execDrainEnd uid s) := by
  unfold execDrainEnd; split <;> simp [hs]

@[simp] theorem State.endLaunch_canon (l) : (s.endLaunch l).Canon ↔ s.Canon := by simp [State.endLaunch]

@[simp] theorem State.lostCompletion_canon (l) : (s.lostCompletion l).Canon ↔ s.Canon := by simp [State.lostCompletion]

@[simp] theorem execLaunchComplete_canon (hs : s.Canon) (launch) : Out.Canon (execLaunchComplete launch s) := by
  unfold execLaunchComplete
  rw [Out.canon_next]
  split
  · exact hs
  next l _ =>
    have h1 := State.homeOf_canon hs l.ctx (l.pkt 56 8) .both
    dsimp only
    repeat' split
    all_goals simp_all

@[simp] theorem State.hostMsg_canon (m bs) : (s.hostMsg m bs).Canon ↔ s.Canon := by simp [State.hostMsg]

@[simp] theorem State.unknownCmd_canon (bs) : (s.unknownCmd bs).Canon ↔ s.Canon := by simp [State.unknownCmd]

@[simp] theorem execHostPost_canon (hs : s.Canon) (fn off bytes) : Out.Canon (execHostPost fn off bytes s) := by
  unfold execHostPost
  repeat' split
  all_goals simp [hs]

/-! ### Stops, context save and resume -/

@[simp] theorem State.cutBack_canon (hs : s.Canon) (h) : (s.cutBack h).Canon := by simp [State.cutBack, hs]

@[simp] theorem State.countAll_canon (hs : s.Canon) (h) : (s.countAll h).Canon := by simp +contextual [State.countAll, hs]

@[simp] theorem State.stopNow_canon (hs : s.Canon) (h code safe live) : (s.stopNow h code safe live).Canon := by
  simp [State.stopNow, hs]

@[simp] theorem State.areaWrite_canon (hs : s.Canon) (ctx core uid n va bs) : (s.areaWrite ctx core uid n va bs).Canon := by
  induction n generalizing s va bs with
  | zero => exact hs
  | succ n ih =>
    have h1 := State.homeOf_canon hs ctx va .write
    unfold State.areaWrite
    split
    · exact hs
    split
    · refine ih ?_ ..
      simp_all
    · simp_all

@[simp] theorem State.saveArea_canon (hs : s.Canon) (h) : (s.saveArea h).Canon := by
  unfold State.saveArea; split <;> simp [hs]

@[simp] theorem State.stopSaved_canon (hs : s.Canon) (h code safe live) : (s.stopSaved h code safe live).Canon := by
  simp [State.stopSaved, hs]

@[simp] theorem State.tryStop_canon (hs : s.Canon) (uid code safe live) : (s.tryStop uid code safe live).Canon := by
  unfold State.tryStop; split <;> simp [hs]

@[simp] theorem State.advanceStop_canon (hs : s.Canon) (uid) : (s.advanceStop uid).Canon := by
  unfold State.advanceStop
  repeat' split
  all_goals simp [hs]

@[simp] theorem State.request_canon (hs : s.Canon) (uids) : (s.request uids).Canon := by
  refine foldl_canon (by simpa using hs) fun t x ht => ?_
  split <;> simp [ht]

@[simp] theorem execPreemptRequest_canon (hs : s.Canon) (uids) : Out.Canon (execPreemptRequest uids s) := by
  simp [execPreemptRequest, hs]

@[simp] theorem execPretoExpiry_canon (hs : s.Canon) (uid) : Out.Canon (execPretoExpiry uid s) := by
  simp [execPretoExpiry, hs]

@[simp] theorem execSafe_canon (hs : s.Canon) (imm) : Out.Canon (execSafe imm s) := by
  refine issue_canon hs (fun h t ht => ?_) _
  repeat' split
  all_goals simp [ht]

/-- Unfolded by `delta`, with the 32-byte read generalised first: the equation lemma would evaluate the read. -/
@[simp] theorem State.readEntries_canon (hs : s.Canon) (c l) : (s.readEntries c l).1.Canon := by
  delta State.readEntries
  induction l generalizing s with
  | nil => exact hs
  | cons n ns ih =>
    have h1 := State.globBytes_canon hs c.id (c.tdbase + 32 * n) 32
    dsimp only [List.brecOn, List.brecOn.go, State.readEntries._f] at ih ⊢
    generalize s.globBytes c.id (c.tdbase + 32 * n) 32 = p at h1
    obtain ⟨s1, _ | bs⟩ := p
    · exact h1
    · have h2 := ih h1
      dsimp only at h2 ⊢
      split
      next s2 es e2 => rw [e2] at h2; exact h2
      next s2 e2 => rw [e2] at h2; exact h2

@[simp] theorem State.rebuildOp_canon (hs : s.Canon) (o h) : (s.rebuildOp o h).1.Canon := by
  unfold State.rebuildOp
  split
  · exact hs
  next c _ =>
    have h1 := State.readEntries_canon hs c (o.kind.indices o.blk)
    split <;> simp_all

@[simp] theorem State.repin_canon (hs : s.Canon) (o h) : (s.repin o h).Canon := by
  unfold State.repin
  extract_lets p bad gone full s1
  have h1 : s1.Canon := by simp [s1, p, hs]
  clear_value bad gone full s1
  split <;> simp [h1]

@[simp] theorem State.reenter_canon (hs : s.Canon) (h a o) : (s.reenter h a o).Canon := by simp [State.reenter, hs]

@[simp] theorem State.resumeCheck_canon (uid code) : (s.resumeCheck uid code).Canon ↔ s.Canon := by
  unfold State.resumeCheck; split <;> simp

@[simp] theorem State.afterPlace_canon (hs : s.Canon) (uid code a) : (s.afterPlace uid code a).Canon := by
  unfold State.afterPlace
  repeat' split
  all_goals simp +contextual [hs]

theorem State.resumeOn_canon (hs : s.Canon) (uid core) : ∀ t ∈ s.resumeOn uid core, t.Canon := by
  unfold State.resumeOn
  split
  · simp
  split
  swap
  · simp
  extract_lets fixed full
  split
  · simp
  · simp only [Option.mem_some_iff, forall_eq']
    exact State.afterPlace_canon (State.placeOn_canon hs ..) ..

theorem State.resumeAll_canon (hs : s.Canon) (cores us) : ∀ t ∈ s.resumeAll cores us, t.Canon := by
  induction us generalizing s with
  | nil => simpa [State.resumeAll] using hs
  | cons u us ih =>
    unfold State.resumeAll
    split
    next t e =>
      obtain ⟨c, _, hc⟩ := List.exists_of_findSome?_eq_some e
      exact ih (State.resumeOn_canon hs u c t hc)
    · simp

@[simp] theorem execSheafResume_canon (hs : s.Canon) (uid core) : Out.Canon (execSheafResume uid core s) := by
  unfold execSheafResume
  rw [Out.canon_next]
  split
  · exact hs
  dsimp only
  split
  · exact hs
  split
  · exact hs
  refine State.getD_canon hs fun u hu => ?_
  obtain ⟨t, ht, hu⟩ := Option.bind_eq_some_iff.1 hu
  exact State.resumeAll_canon (State.resumeOn_canon hs uid core t ht) _ _ u hu

@[simp] theorem execSheafMigrate_canon (hs : s.Canon) (uid core) : Out.Canon (execSheafMigrate uid core s) := by
  unfold execSheafMigrate
  rw [Out.canon_next]
  split
  · exact hs
  dsimp only
  split
  · split
    · exact hs
    · simp only [State.modSheaf_canon]
      exact State.afterPlace_canon (State.placeOn_canon (by simp [hs]) ..) ..
  · exact hs

@[simp] theorem State.answer_canon (r state) : (s.answer r state).Canon ↔ s.Canon := by simp [State.answer]

@[simp] theorem State.answerOps_canon (r f) : (s.answerOps r f).Canon ↔ s.Canon := by simp [State.answerOps]

@[simp] theorem State.resumeOp_canon (hs : s.Canon) (o) : (s.resumeOp o).Canon := by
  unfold State.resumeOp; split <;> simp [hs]

@[simp] theorem execPageResponseSuccess_canon (hs : s.Canon) (r) : Out.Canon (execPageResponseSuccess r s) := by
  simp +contextual [execPageResponseSuccess, hs]

@[simp] theorem State.refusePark_canon (h va command) : (s.refusePark h va command).Canon ↔ s.Canon := by
  unfold State.refusePark; split <;> simp

@[simp] theorem execPageResponseInvalidRequest_canon (hs : s.Canon) (r)
    : Out.Canon (execPageResponseInvalidRequest r s) := by
  unfold execPageResponseInvalidRequest
  rw [Out.canon_next]
  split
  · dsimp only
    refine foldl_canon ?_ fun t h ht => ?_
    · split <;> simp [hs]
    · split <;> simp [ht]
  · exact hs

/-! ### The command port -/

/-- A command of the port keeps the form if its body does. -/
@[simp] theorem State.takeCmd_canon {k : CmdRun → State → State} (hs : s.Canon) (hk
    : ∀ r t, t.Canon → (k r t).Canon) (op c) :
    (s.takeCmd op c k).Canon := by
  unfold State.takeCmd
  split
  · exact hs
  split
  · exact hs
  dsimp only
  split
  · exact hk _ _ (by simpa using hs)
  · exact hs

@[simp] theorem State.modCmd_canon (id f) : (s.modCmd id f).Canon ↔ s.Canon := by simp [State.modCmd]

@[simp] theorem State.cmdStatus_canon (r code) : (s.cmdStatus r code).Canon ↔ s.Canon := by simp [State.cmdStatus]

@[simp] theorem State.noCtx_canon (r) : (s.noCtx r).Canon ↔ s.Canon := by simp [State.noCtx]

@[simp] theorem State.spoilSectors_canon (hs : s.Canon) (h) : (s.spoilSectors h).Canon := by
  simp +contextual [State.spoilSectors, hs]

@[simp] theorem State.flushLines_canon (hs : s.Canon) (f) : (s.flushLines f).1.Canon := by
  unfold State.flushLines
  simp only [State.canon_mk, MemSys.canon_mk, MemSys.canon_fold, State.mm_canon]
  exact foldl_canon hs fun t h ht => State.spoilSectors_canon (State.writeBack_canon ht h) h

theorem State.shootNow_canon (hs : s.Canon) (c) : ∀ q ∈ s.shootNow c, q.1.Canon := by
  unfold State.shootNow
  dsimp only
  split
  · simp
  simp only [Option.mem_some_iff, forall_eq']
  refine foldl_canon (State.flushLines_canon (by simpa using hs) _) fun t o ht => ?_
  split
  · split <;> simp [ht]
  · exact ht

@[simp] theorem State.shootStep_canon (hs : s.Canon) (r) : (s.shootStep r).Canon := by
  unfold State.shootStep
  split
  · exact hs
  split
  · exact hs
  next t u e => simpa using State.shootNow_canon hs r.cmd (t, u) e

@[simp] theorem execShoot_canon (hs : s.Canon) (c) : Out.Canon (execShoot c s) := by
  refine State.takeCmd_canon hs (fun r t ht => ?_) ..
  simp [ht]

@[simp] theorem execCtxsave_canon (hs : s.Canon) (c) : Out.Canon (execCtxsave c s) := by
  refine State.takeCmd_canon hs (fun r t ht => ?_) ..
  dsimp only
  repeat' split
  all_goals simp [ht]

@[simp] theorem State.saveImage_canon (hs : s.Canon) (r c) : (s.saveImage r c).Canon := by simp [State.saveImage, hs]

@[simp] theorem execShend_canon (hs : s.Canon) (c) : Out.Canon (execShend c s) := by
  refine State.takeCmd_canon hs (fun r t ht => ?_) ..
  repeat' split
  all_goals simp [ht]

@[simp] theorem execDirtset_canon (hs : s.Canon) (c) : Out.Canon (execDirtset c s) := by
  refine State.takeCmd_canon hs (fun r t ht => ?_) ..
  dsimp only
  repeat' split
  all_goals simp [ht]

@[simp] theorem State.clearPage_canon (hs : s.Canon) (l result i k) : (s.clearPage l result i k).Canon := by
  unfold State.clearPage
  split
  · exact hs
  dsimp only
  have h1 : ∀ hs', (List.foldl (fun (t : State) (h : Home) => t.writeBack h) s hs').Canon :=
    fun _ => foldl_canon hs fun t h ht => State.writeBack_canon ht h
  split
  · exact State.backWrite_canon (State.backWrite_canon (by simp [h1]) ..) ..
  · exact State.backWrite_canon (by simp [h1]) ..

@[simp] theorem execDirtclr_canon (hs : s.Canon) (c) : Out.Canon (execDirtclr c s) := by simp [execDirtclr, hs]

@[simp] theorem State.dirtStep_canon (hs : s.Canon) (r) : (s.dirtStep r).Canon := by
  unfold State.dirtStep; split <;> simp [hs]

@[simp] theorem execMbxmake_canon (hs : s.Canon) (c) : Out.Canon (execMbxmake c s) := by
  refine State.takeCmd_canon hs (fun r t ht => ?_) ..
  dsimp only
  repeat' split
  all_goals simp [ht]

@[simp] theorem execMbxfree_canon (hs : s.Canon) (c) : Out.Canon (execMbxfree c s) := by
  refine State.takeCmd_canon hs (fun r t ht => ?_) ..
  dsimp only
  repeat' split
  all_goals simp [ht]

/-! ### Context restore -/

@[simp] theorem State.restoreSeg_canon (hs : s.Canon) (ctx idx b) : (s.restoreSeg ctx idx b).Canon := by
  simp [State.restoreSeg, hs]

@[simp] theorem State.restoreLaunch_canon (hs : s.Canon) (ctx ln rs b) : (s.restoreLaunch ctx ln rs b).Canon := by
  unfold State.restoreLaunch
  extract_lets p id cap off l m
  have hm : m.1.Canon := by
    have h1 := State.mapLaunch_canon hs l
    simp only [m]
    clear_value l
    repeat' split
    all_goals simp_all
  simpa using hm

@[simp] theorem State.restoreDone_canon (ctx rs ln) : (s.restoreDone ctx rs ln).Canon ↔ s.Canon := by
  simp [State.restoreDone]

@[simp] theorem State.restoreNests_canon (launch uid ns) : (s.restoreNests launch uid ns).Canon ↔ s.Canon := by
  simp [State.restoreNests]

@[simp] theorem State.restoreSheaf_canon (ctx b) : (s.restoreSheaf ctx b).Canon ↔ s.Canon := by simp [State.restoreSheaf]

@[simp] theorem State.restoreOps_canon (h reg l) : (s.restoreOps h reg l).1.Canon ↔ s.Canon := by
  refine foldl_fst_canon_iff fun t x b => ?_
  dsimp only
  split <;> simp

@[simp] theorem State.ended_canon (h kept reg st) : (s.ended h kept reg st).1.Canon ↔ s.Canon := by simp [State.ended]

@[simp] theorem State.restoreHandle_canon (uid b l ids xs reg) : (s.restoreHandle uid b l ids xs reg).Canon ↔ s.Canon := by
  unfold State.restoreHandle
  dsimp only
  repeat' split
  all_goals simp

@[simp] theorem State.bindHandle_canon (c uid b reg) : (s.bindHandle c uid b reg).Canon ↔ s.Canon := by
  unfold State.bindHandle
  dsimp only
  repeat' split
  all_goals simp

@[simp] theorem State.restoreLog_canon (uid b) : (s.restoreLog uid b).Canon ↔ s.Canon := by
  unfold State.restoreLog; split <;> simp

@[simp] theorem State.restoreSync_canon (uid b) : (s.restoreSync uid b).Canon ↔ s.Canon := by
  unfold State.restoreSync; split <;> simp

@[simp] theorem State.restoreArea_canon (b k) : (s.restoreArea b k).Canon ↔ s.Canon := by
  unfold State.restoreArea
  dsimp only
  repeat' split
  all_goals simp

@[simp] theorem State.restoreStook_canon (ctx first b) : (s.restoreStook ctx first b).Canon ↔ s.Canon := by
  simp [State.restoreStook]

@[simp] theorem State.restoreSub_canon (ctx shid first b) : (s.restoreSub ctx shid first b).Canon ↔ s.Canon := by
  unfold State.restoreSub
  dsimp only
  repeat' split
  all_goals simp

@[simp] theorem State.restoreTask_canon (ctx b) : (s.restoreTask ctx b).Canon ↔ s.Canon := by simp [State.restoreTask]

@[simp] theorem State.restoreSlm_canon (hs : s.Canon) (c num b) : (s.restoreSlm c num b).Canon := by
  unfold State.restoreSlm
  dsimp only
  refine foldl_canon ?_ fun t x ht => by simp [ht]
  split <;> simp [hs]

@[simp] theorem State.restoreExport_canon (ctx first x) : (s.restoreExport ctx first x).Canon ↔ s.Canon := by
  simp [State.restoreExport]

@[simp] theorem State.restoreGroup_canon (ctx xs g) : (s.restoreGroup ctx xs g).Canon ↔ s.Canon := by
  unfold State.restoreGroup
  split
  · rfl
  dsimp only
  split <;> simp

@[simp] theorem State.fillSheaves_canon (uids scr acc) : (s.fillSheaves uids scr acc).Canon ↔ s.Canon := by
  refine foldl_fst_canon_iff fun t x b => ?_
  dsimp only
  split <;> simp

@[simp] theorem State.dropCtx_canon (ctx) : (s.dropCtx ctx).Canon ↔ s.Canon := by simp [State.dropCtx]

/-- The records of an image are put back kind by kind, each kind by a run over its records. -/
@[simp] theorem State.restore_canon (hs : s.Canon) (rs c) : (s.restore rs c).Canon := by
  unfold State.restore
  extract_lets first of s1 s2x s2 xs gs s3 uids s4 s5 s6 s7 s7x s8 tk slots slotOf s9
  have h1 : s1.Canon := foldl_canon hs fun t r ht => by simp [ht]
  have h2x : s2x.Canon := foldl_canon h1 fun t r ht => by simp [ht]
  have h6 : s6.Canon := by simp [s6, s5, s4, s3, s2, h2x]
  have h7 : s7.Canon := foldl_canon h6 fun t r ht => by simp [ht]
  have h8 : s8.Canon := by simp [s8, s7x, h7]
  simpa [s9] using h8

@[simp] theorem execCtxload_canon (hs : s.Canon) (c) : Out.Canon (execCtxload c s) := by
  refine State.takeCmd_canon hs (fun r t ht => ?_) ..
  split
  · simp [ht]
  dsimp only
  split
  · split <;> simp [ht]
  generalize 8192 = n
  split
  · simp [ht]
  split
  · simp [ht]
  · simp [ht]

/-! ### The loader -/

@[simp] theorem State.flushPage_canon (hs : s.Canon) (asid va) : (s.flushPage asid va).Canon := by simp [State.flushPage, hs]

theorem State.setPerm_canon (hs : s.Canon) (c va r w x) : ∀ t ∈ s.setPerm c va r w x, t.Canon := by
  unfold State.setPerm
  split
  · simp only [Option.mem_some_iff, forall_eq']
    exact State.flushPage_canon (by simp [hs]) ..
  · simp

@[simp] theorem State.sealText_canon (hs : s.Canon) (c va bs) : (s.sealText c va bs).Canon := by
  refine foldl_canon (foldl_canon hs fun t p ht => State.getD_canon ht (State.setPerm_canon ht c p _ _ _)) fun u b hu => ?_
  split <;> simp [hu]

theorem State.placeBytes_canon (hs : s.Canon) (c va bs r w x) : ∀ t ∈ s.placeBytes c va bs r w x, t.Canon := by
  intro u hu
  obtain ⟨t, ht, rfl⟩ := Option.map_eq_some_iff.1 hu
  refine foldl_canon (foldl_some_canon hs (fun t p ht => State.setPerm_canon ht c p r w x) t ht) fun u b hu => ?_
  split <;> simp [hu]

@[simp] theorem State.loaderStore_canon (hs : s.Canon) (ctx va x) : (s.loaderStore ctx va x).Canon := by
  have h1 := State.homeOf_canon hs ctx va .write
  unfold State.loaderStore
  split <;> simp_all

@[simp] theorem State.loadAnswer_canon (status bytes) : (s.loadAnswer status bytes).Canon ↔ s.Canon := by
  simp [State.loadAnswer]

theorem State.placeSecs_canon (hs : s.Canon) (c f ss place segs) : ∀ t ∈ s.placeSecs c f ss place segs, t.Canon := by
  refine foldl_some_canon hs fun t k ht => ?_
  split
  · simpa using ht
  dsimp only
  split
  · split
    · simp
    split
    · simp [ht]
    repeat' split
    all_goals exact State.placeBytes_canon ht _ _ _ _ _ _
  · simp [ht]

@[simp] theorem State.bindCells_canon (hs : s.Canon) (ctx objs name exps) : (s.bindCells ctx objs name exps).Canon :=
  foldl_canon hs fun t e ht => foldl_canon ht fun u x hu => by simp [hu]

theorem State.linkFile_canon (hs : s.Canon) (r c place segs cells tix res) :
    ∀ q, s.linkFile r c place segs cells tix res = .ok q → q.1.Canon := by
  unfold State.linkFile
  extract_lets f ss name links slotVa cellVa newCell
  split
  · simp
  next s2 e =>
    have h2 : s2.Canon := by
      refine foldl_some_canon hs (fun t x ht => ?_) s2 e
      split
      · exact State.placeBytes_canon ht _ _ _ _ _ _
      · simpa using ht
    rintro q ⟨rfl⟩
    refine State.bindCells_canon ?_ ..
    simp only [State.fresh_canon, State.modCtx_canon, State.canon_mk, State.mm_canon]
    exact foldl_canon h2 fun t b ht => State.loaderStore_canon (State.loaderStore_canon ht ..) ..

theorem State.loadFile_canon {res : State → List Nat → List (Nat × Nat) → Except String (State × DWord)} (hs : s.Canon)
    (hr : ∀ t u k, t.Canon → ∀ q, res t u k = .ok q → q.1.Canon) (r c used taken) :
    ∀ q, s.loadFile r c used taken res = .ok q → q.1.Canon := by
  unfold State.loadFile
  extract_lets f ss place
  split
  · simp
  next segs _ =>
    dsimp only
    split
    · simp
    split
    · simp
    next s1 e =>
      have h1 := State.placeSecs_canon hs _ _ _ _ _ s1 e
      split
      · simp
      split
      · simp
      split
      · simp
      next s3 cap e3 =>
        refine State.linkFile_canon ?_ _ _ _ _ _ _ _
        have h2 : ∀ ts : List (List Byte), (ts.foldl (fun (t : State) (b : List Byte) =>
            (List.range 4).foldl (fun (u : State) (k : Nat) =>
              u.loaderStore c.id (c.tdbase + 32 * natAt b 0 1 + 8 * k) (BitVec.ofNat 64 (natAt b (8 + 8 * k) 8))) t) s1).Canon :=
          fun ts => foldl_canon h1 fun t b ht => foldl_canon ht fun u k hu => State.loaderStore_canon hu ..
        split at e3
        · exact hr _ _ _ (h2 _) _ e3
        · cases e3; exact h2 _

theorem State.resolverFor_canon (hs : s.Canon) (r ctx used taken) :
    ∀ q, State.resolverFor r ctx s used taken = .ok q → q.1.Canon := by
  unfold State.resolverFor
  split
  · simp
  split
  · rintro q ⟨rfl⟩; exact hs
  dsimp only
  split
  · simp
  split
  · simp
  split
  · simp
  next t segs e =>
    have ht := State.loadFile_canon hs (by simp) _ _ _ _ _ e
    rintro q ⟨rfl⟩
    simpa using ht

theorem State.loadObject_canon (hs : s.Canon) (r c) : ∀ q, s.loadObject r c = .ok q → q.1.Canon := by
  unfold State.loadObject
  split
  · simp
  · exact State.loadFile_canon hs (fun t u k ht => State.resolverFor_canon ht r r.ctx u k) r c [] []

@[simp] theorem execSegmentLoad_canon (hs : s.Canon) (r) : Out.Canon (execSegmentLoad r s) := by
  unfold execSegmentLoad
  rw [Out.canon_next]
  split
  · exact hs
  next c _ =>
    split
    · simp [hs]
    next t segs e => simpa using State.loadObject_canon hs r c (t, segs) e

@[simp] theorem State.unmapPage_canon (hs : s.Canon) (c va) : (s.unmapPage c va).Canon := by
  unfold State.unmapPage
  split
  · exact State.flushPage_canon (by simp [hs]) ..
  · exact hs

@[simp] theorem State.unmapSeg_canon (hs : s.Canon) (g) : (s.unmapSeg g).Canon := by
  unfold State.unmapSeg
  repeat' split
  all_goals simp +contextual [hs]

@[simp] theorem State.setSeg_canon (idx st) : (s.setSeg idx st).Canon ↔ s.Canon := by simp [State.setSeg]

@[simp] theorem State.freeIdx_canon (idx) : (s.freeIdx idx).Canon ↔ s.Canon := by simp [State.freeIdx]

@[simp] theorem State.freeSegment_canon (hs : s.Canon) (g) : (s.freeSegment g).Canon := by simp [State.freeSegment, hs]

@[simp] theorem State.sweepSegs_canon (hs : s.Canon) : (s.sweepSegs).Canon := by simp +contextual [State.sweepSegs, hs]

@[simp] theorem execSegmentRetire_canon (hs : s.Canon) (ctx old new) : Out.Canon (execSegmentRetire ctx old new s) := by
  unfold execSegmentRetire
  rw [Out.canon_next]
  repeat' split
  any_goals exact hs
  refine State.sweepSegs_canon ?_
  simp only [State.modCtx_canon, State.setSeg_canon]
  exact foldl_canon (foldl_canon hs fun t x ht => by simp [ht]) fun t x ht => by simp [ht]

@[simp] theorem State.dropObj_canon (ctx obj) : (s.dropObj ctx obj).Canon ↔ s.Canon := by simp [State.dropObj]

@[simp] theorem State.unbind_canon (hs : s.Canon) (ctx gs) : (s.unbind ctx gs).Canon := by
  simp +contextual [State.unbind, hs]

@[simp] theorem execUnload_canon (hs : s.Canon) (ctx obj) : Out.Canon (execUnload ctx obj s) := by
  unfold execUnload
  repeat' split
  all_goals simp +contextual [hs]

@[simp] theorem execForcedUnload_canon (hs : s.Canon) (ctx obj) : Out.Canon (execForcedUnload ctx obj s) := by
  unfold execForcedUnload
  rw [Out.canon_next]
  split
  · exact hs
  simp only [State.loadAnswer_canon]
  refine State.sweepSegs_canon ?_
  simp only [State.dropObj_canon]
  exact foldl_canon (foldl_canon (by simp [hs]) fun t g ht => by simp [ht]) fun t va ht => by simp [ht]

/-! ### Sequencers -/

@[simp] theorem State.putSeqr_canon (q) : (s.putSeqr q).Canon ↔ s.Canon := by simp [State.putSeqr]

@[simp] theorem State.startSeq_canon (q) : (s.startSeq q).Canon ↔ s.Canon := by simp [State.startSeq]

@[simp] theorem execSeqmWrite_canon (hs : s.Canon) (core v) : Out.Canon (execSeqmWrite core v s) := by
  unfold execSeqmWrite
  rw [Out.canon_next]
  dsimp only
  repeat' split
  all_goals simp [hs]

@[simp] theorem execMicroword_canon (hs : s.Canon) (core) : Out.Canon (execMicroword core s) := by
  unfold execMicroword
  repeat' split
  all_goals simp [hs]

/-! ### Errors, repair, power and measurements -/

@[simp] theorem State.corrected_canon (array) : (s.corrected array).Canon ↔ s.Canon := by simp [State.corrected]

@[simp] theorem State.spoilOwn_canon (hs : s.Canon) (c) : (s.spoilOwn c).Canon := by
  refine foldl_canon (foldl_canon hs fun t h ht => ?_) fun t w ht => ?_
  all_goals simp [ht]

@[simp] theorem State.fatalError_canon (hs : s.Canon) (array) : (s.fatalError array).Canon := by
  refine foldl_canon (foldl_canon (by simpa using hs) fun t c ht => by simp [ht])
    fun t c ht => foldl_canon ht fun u line hu => ?_
  have h1 := State.homeOf_canon hu c.id (line * 128) .any
  split <;> simp_all

@[simp] theorem State.haltForError_canon (uid addr) : (s.haltForError uid addr).Canon ↔ s.Canon := by
  unfold State.haltForError; split <;> simp

@[simp] theorem State.upset_canon (hs : s.Canon) (u) : (s.upset u).Canon := by
  unfold State.upset
  repeat' split
  all_goals simp [hs]

@[simp] theorem execPatrolScrub_canon (hs : s.Canon) (asid line) : Out.Canon (execPatrolScrub asid line s) := by
  unfold execPatrolScrub
  rw [Out.canon_next]
  split
  · exact hs
  dsimp only
  split <;> simp [hs]

@[simp] theorem State.repair_canon {k : CmdRun → Part → State → State} (hs : s.Canon) (hk
    : ∀ r p t, t.Canon → (k r p t).Canon)
    (op c) : (s.repair op c k).Canon := by
  refine State.takeCmd_canon hs (fun r t ht => ?_) ..
  split
  · simp [ht]
  · exact hk _ _ _ ht

@[simp] theorem State.putWays_canon (x) : (s.putWays x).Canon ↔ s.Canon := by simp [State.putWays]

@[simp] theorem execWaymkWrite_canon (hs : s.Canon) (die v) : Out.Canon (execWaymkWrite die v s) := by
  simp [execWaymkWrite, hs]

@[simp] theorem State.writeBackSlice_canon (hs : s.Canon) (slice) : (s.writeBackSlice slice).Canon := by
  simp +contextual [State.writeBackSlice, hs]

@[simp] theorem execSlflush_canon (hs : s.Canon) (c) : Out.Canon (execSlflush c s) := by
  refine State.repair_canon hs (fun r p t ht => ?_) ..
  simp [ht]

@[simp] theorem State.endFlush_canon (hs : s.Canon) (r slice) : (s.endFlush r slice).Canon := by
  unfold State.endFlush
  extract_lets new w gone lapsed s1 s2
  have h1 : s1.Canon := by
    simp only [s1]
    split
    · exact hs
    · exact foldl_canon hs fun t h ht => by simp [ht]
  have h2 : s2.Canon := foldl_canon h1 fun t k ht => by simp [ht]
  exact State.makeRoom_canon (by simpa using h2) ..

@[simp] theorem execQuiesce_canon (hs : s.Canon) (c) : Out.Canon (execQuiesce c s) := by
  refine State.repair_canon hs (fun r p t ht => ?_) ..
  simp [ht]

@[simp] theorem State.endQuiesce_canon (hs : s.Canon) (p) : (s.endQuiesce p).Canon := by
  simp +contextual [State.endQuiesce, hs]

@[simp] theorem State.startTest_canon (hs : s.Canon) (core) : (s.startTest core).Canon := by
  unfold State.startTest
  simp only [State.startSeq_canon]
  have hc := Mem.clear_wf s.mm.scr (core * scratchSize) microStore hs.scr
  simp [hs, hc]

@[simp] theorem execTest_canon (hs : s.Canon) (c) : Out.Canon (execTest c s) := by
  refine State.repair_canon hs (fun r p t ht => ?_) ..
  split
  · simp [ht]
  split
  · exact foldl_canon ht fun u core hu => State.startTest_canon hu core
  · split <;> simp [ht]

@[simp] theorem State.endTest_canon (r p) : (s.endTest r p).Canon ↔ s.Canon := by
  unfold State.endTest
  dsimp only
  split <;> simp

@[simp] theorem State.mapSpare_canon (p) : (s.mapSpare p).Canon ↔ s.Canon := by simp [State.mapSpare]

@[simp] theorem execRemap_canon (hs : s.Canon) (c) : Out.Canon (execRemap c s) := by simp [execRemap, hs]

@[simp] theorem execResume_canon (hs : s.Canon) (c) : Out.Canon (execResume c s) := by simp [execResume, hs]

@[simp] theorem execBoot_canon (hs : s.Canon) : Out.Canon (execBoot s) := by simp [execBoot, hs]

@[simp] theorem execFirmwareUpdate_canon (hs : s.Canon) (img) : Out.Canon (execFirmwareUpdate img s) := by
  simp [execFirmwareUpdate, hs]

@[simp] theorem execFirmwareActivate_canon (hs : s.Canon) : Out.Canon (execFirmwareActivate s) := by
  unfold execFirmwareActivate; split <;> simp [hs]

@[simp] theorem execNewImageTakeover_canon (hs : s.Canon) (rates) : Out.Canon (execNewImageTakeover rates s) := by
  simp [execNewImageTakeover, hs]

@[simp] theorem State.answerTo_canon (kind bytes) : (s.answerTo kind bytes).Canon ↔ s.Canon := by simp [State.answerTo]

@[simp] theorem execGetVersion_canon (hs : s.Canon) : Out.Canon (execGetVersion s) := by simp [execGetVersion, hs]

@[simp] theorem execGetCapabilities_canon (hs : s.Canon) : Out.Canon (execGetCapabilities s) := by
  simp [execGetCapabilities, hs]

@[simp] theorem execNegotiateAlgorithms_canon (hs : s.Canon) : Out.Canon (execNegotiateAlgorithms s) := by
  simp [execNegotiateAlgorithms, hs]

@[simp] theorem execGetDigests_canon (hs : s.Canon) : Out.Canon (execGetDigests s) := by simp [execGetDigests, hs]

@[simp] theorem execGetCertificate_canon (hs : s.Canon) : Out.Canon (execGetCertificate s) := by
  simp [execGetCertificate, hs]

@[simp] theorem execChallenge_canon (hs : s.Canon) (nonce) : Out.Canon (execChallenge nonce s) := by simp [execChallenge, hs]

@[simp] theorem execGetMeasurements_canon (hs : s.Canon) (index) : Out.Canon (execGetMeasurements index s) := by
  simp [execGetMeasurements, hs]

@[simp] theorem execTelemetryReport_canon (hs : s.Canon) : Out.Canon (execTelemetryReport s) := by
  simp [execTelemetryReport, hs]

@[simp] theorem execThermalThrottle_canon (hs : s.Canon) (die) : Out.Canon (execThermalThrottle die s) := by
  simp [execThermalThrottle, hs]

@[simp] theorem execThermalShutdown_canon (hs : s.Canon) (die) : Out.Canon (execThermalShutdown die s) := by
  simp [execThermalShutdown, hs]

@[simp] theorem execPowerRemoval_canon (hs : s.Canon) : Out.Canon (execPowerRemoval s) := by
  unfold execPowerRemoval
  rw [Out.canon_next]
  split
  · exact hs
  split
  · exact hs
  · exact ⟨hs.pool, hs.host, rfl, rfl⟩

@[simp] theorem execArithmeticClockChange_canon (hs : s.Canon) (die mhz)
    : Out.Canon (execArithmeticClockChange die mhz s) := by
  simp [execArithmeticClockChange, hs]

/-! ### Links, remote operations and BAR 0 -/

@[simp] theorem execPoolWriteCompletion_canon (hs : s.Canon) (asid line)
    : Out.Canon (execPoolWriteCompletion asid line s) := by
  unfold execPoolWriteCompletion; split <;> simp [hs]

@[simp] theorem execPoisonResponse_canon (hs : s.Canon) (asid line sectors)
    : Out.Canon (execPoisonResponse asid line sectors s) := by
  unfold execPoisonResponse
  rw [Out.canon_next]
  split
  · split <;> simp [hs]
  split
  · exact hs
  next c _ =>
    have h1 := State.homeOf_canon hs c.id (line * 128) .any
    split
    · split <;> simp_all
    · exact hs

@[simp] theorem execExtentAdd_canon (hs : s.Canon) (base len port) : Out.Canon (execExtentAdd base len port s) := by
  simp [execExtentAdd, hs]

@[simp] theorem execExtentReleaseRequest_canon (hs : s.Canon) (base) : Out.Canon (execExtentReleaseRequest base s) := by
  unfold execExtentReleaseRequest; split <;> simp [hs]

@[simp] theorem execFabricBindingInstall_canon (hs : s.Canon) (ctx rdev rctx)
    : Out.Canon (execFabricBindingInstall ctx rdev rctx s) := by
  simp [execFabricBindingInstall, hs]

@[simp] theorem execReductionGroupInstall_canon (hs : s.Canon) (g) : Out.Canon (execReductionGroupInstall g s) := by
  simp [execReductionGroupInstall, hs]

@[simp] theorem State.abortGroup_canon (gid) : (s.abortGroup gid).Canon ↔ s.Canon := by
  unfold State.abortGroup
  repeat' split
  all_goals simp

@[simp] theorem execGroupAbort_canon (hs : s.Canon) (gid) : Out.Canon (execGroupAbort gid s) := by simp [execGroupAbort, hs]

@[simp] theorem State.captureRound_canon (o g) : (s.captureRound o g).Canon ↔ s.Canon := by simp [State.captureRound]

@[simp] theorem execReductionRoundClose_canon (hs : s.Canon) (gid) : Out.Canon (execReductionRoundClose gid s) := by
  unfold execReductionRoundClose
  repeat' split
  all_goals simp [hs]

@[simp] theorem State.putLink_canon (l) : (s.putLink l).Canon ↔ s.Canon := by simp [State.putLink]

@[simp] theorem State.linkDown_canon (n) : (s.linkDown n).Canon ↔ s.Canon := by
  unfold State.linkDown
  split
  · rfl
  dsimp only
  rw [foldl_canon_iff fun t g => by simp, foldl_canon_iff]
  · simp
  · intro t o
    split
    · split <;> simp
    · rfl

@[simp] theorem execLinkDeclaredDown_canon (hs : s.Canon) (link) : Out.Canon (execLinkDeclaredDown link s) := by
  simp [execLinkDeclaredDown, hs]

@[simp] theorem State.flit_canon {k : State → State} (hs : s.Canon) (hk : ∀ t, t.Canon → (k t).Canon) (link ty f) :
    (s.flit link ty f k).Canon := by
  unfold State.flit
  dsimp only
  repeat' split
  all_goals simp [hs, hk]

@[simp] theorem State.farAccess_canon (hs : s.Canon) (c) : (s.farAccess c).Canon := by
  unfold State.farAccess
  split
  case h_1 ctx va bytes =>
    have h1 := State.homeOf_canon hs ctx va .write
    repeat' split
    all_goals simp_all
  case h_2 ctx va n =>
    have h1 := State.homeOf_canon hs ctx va .read
    repeat' split
    all_goals simp_all
  · exact hs

@[simp] theorem State.farAnswer_canon (hs : s.Canon) (c) : (s.farAnswer c).Canon := by
  unfold State.farAnswer
  split
  · refine State.withOp_canon hs (fun o _ => ?_) ..
    split
    · split <;> simp [hs]
    · exact hs
  · refine State.withOp_canon hs (fun o _ => ?_) ..
    split <;> simp [hs]
  · exact hs

@[simp] theorem State.addPartial_canon (c) : (s.addPartial c).Canon ↔ s.Canon := by
  unfold State.addPartial
  split
  · dsimp only
    repeat' split
    all_goals simp
  · rfl

@[simp] theorem execTieFlitIdle_canon (hs : s.Canon) (link flit) : Out.Canon (execTieFlitIdle link flit s) := by
  simp [execTieFlitIdle, hs]

@[simp] theorem execTieFlitRequest_canon (hs : s.Canon) (link flit carry)
    : Out.Canon (execTieFlitRequest link flit carry s) := by
  simp +contextual [execTieFlitRequest, hs]

@[simp] theorem execTieFlitData_canon (hs : s.Canon) (link flit carry) : Out.Canon (execTieFlitData link flit carry s) :=
  State.flit_canon hs (fun _ ht => State.farAnswer_canon (State.farAccess_canon ht carry) carry) ..

@[simp] theorem execTieFlitAckCredit_canon (hs : s.Canon) (link flit) : Out.Canon (execTieFlitAckCredit link flit s) := by
  simp [execTieFlitAckCredit, hs]

@[simp] theorem execTieFlitReductionPartial_canon (hs : s.Canon) (link flit carry)
    : Out.Canon (execTieFlitReductionPartial link flit carry s) := by
  simp [execTieFlitReductionPartial, hs]

@[simp] theorem execRemoteWriteAck_canon (hs : s.Canon) (op n) : Out.Canon (execRemoteWriteAck op n s) := by
  refine State.withOp_canon hs (fun o h => ?_) ..
  repeat' split
  all_goals simp [hs]

@[simp] theorem execHomeMigration_canon (hs : s.Canon) (asid line slice)
    : Out.Canon (execHomeMigration asid line slice s) := by
  simp [execHomeMigration, hs]

@[simp] theorem execL2LineEviction_canon (hs : s.Canon) (asid line) : Out.Canon (execL2LineEviction asid line s) := by
  unfold execL2LineEviction; split <;> simp [hs]

@[simp] theorem execHostBar0Write_canon (hs : s.Canon) (fn off bytes) : Out.Canon (execHostBar0Write fn off bytes s) := by
  unfold execHostBar0Write
  extract_lets one
  have h1 : ((bytes.zipIdx).foldl one s).Canon := by
    refine foldl_canon hs fun t x ht => ?_
    simp only [one]
    split
    · split <;> simp [ht]
    · exact ht
  clear_value one
  rw [Out.canon_next]
  split
  · split
    · exact hs
    · split
      · simp +zetaDelta [h1]
      · exact h1
  · exact h1

@[simp] theorem State.readBar_canon (fn off n) : (s.readBar fn off n).Canon ↔ s.Canon := by simp [State.readBar]

@[simp] theorem State.touchPage_canon (hs : s.Canon) (pa) : (s.touchPage pa).Canon := by simp [State.touchPage, hs]

@[simp] theorem State.outside_canon (hs : s.Canon) (o) : (s.outside o).Canon := by
  unfold State.outside; split <;> simp [hs]

/-! ### Commands at work and their ends -/

@[simp] theorem State.storeStatus_canon (r) : (s.storeStatus r).Canon ↔ s.Canon := by simp [State.storeStatus]

@[simp] theorem State.endCmd_canon (id) : (s.endCmd id).Canon ↔ s.Canon := by
  unfold State.endCmd; split <;> simp

@[simp] theorem State.cmdWork_canon (hs : s.Canon) (r) : (s.cmdWork r).Canon := by
  unfold State.cmdWork; split <;> simp [hs]

@[simp] theorem State.cmdEnd_canon (hs : s.Canon) (r) : (s.cmdEnd r).Canon := by
  unfold State.cmdEnd
  repeat' split
  all_goals simp [hs]

@[simp] theorem execCommandCompletion_canon (hs : s.Canon) (id) : Out.Canon (execCommandCompletion id s) := by
  unfold execCommandCompletion; split <;> simp [hs]

/-! ### Every instruction and every step -/

/-- The forms of one shape go through the lemma of that shape, every other instruction through its own. -/
theorem exec_canon (hs : s.Canon) (i) : Out.Canon (exec i s) := by
  cases i with
  | saluAdd _ | saluSub _ | saluMul _ | saluMulh _ | saluMulhn _ | saluAnd _ | saluOr _ | saluXor _ | andn _
  | saluShl _ | saluShr _ | saluSar _ | rotl _ | saluMin _ | saluMax _ | minn _ | maxn _ | saluSel _ | clz _ | popc _
  | brev _ | saluiAddi _ | saluiAndi _ | saluiOri _ | saluiXori _ | saluiShli _ | saluiShri _ | saluiSari _
  | saluiMovi _ | saluiMovhi _ | rdfl _ | rdln _ =>
    unfold exec; exact scalar_canon hs ..
  | slt _ | sltn _ | seq _ | slti _ =>
    unfold exec; exact compare_canon hs ..
  | add64 _ | sub64 _ | shl64 _ | shr64 _ | nmap _ =>
    unfold exec; exact scalarPair_canon hs ..
  | vintAdd _ | vintSub _ | vintMul _ | vintMulh _ | vintMulhn _ | mad _ | vintAnd _ | vintOr _ | vintXor _
  | vintShl _ | vintShr _ | vintSar _ | vintMin _ | vintMax _ | fcps _ | fabs _ | fneg _ | mov _ | vmovSel _ =>
    unfold exec; exact vec2_canon hs ..
  | addc _ | subb _ | vriMovi _ | vriMovhi _ | addi16 _ | fscl _ | cvtf _ | cvti _ | cvtp _ | expn _ | lutx _
  | mxsc _ | fcls _ | kset _ | bcst _ | lid _ | lpos _ | nidx _ =>
    unfold exec; exact swept_canon hs ..
  | vintiAddi _ | vintiAndi _ | vintiOri _ | vintiXori _ | vintiShli _ | vintiShri _ | vintiSari _ | muli _ =>
    unfold exec; exact vecImm_canon hs ..
  | fadd _ | fsub _ | fmul _ | fmin _ | fmax _ | fminm _ | fmaxm _ =>
    unfold exec; exact fvec2_canon hs ..
  | fflr _ | fceil _ | frne _ | ftrn _ | fsat _ =>
    unfold exec; exact fvec1_canon hs ..
  | fma _ | fms _ | fnma _ | fnms _ =>
    unfold exec; exact fvec3_canon hs ..
  | hfma2 _ | bfma2 _ =>
    unfold exec; exact fmaHalves_canon hs ..
  | dot4e4 _ | dot4e5 _ | dot2h _ =>
    unfold exec; exact dotForm_canon hs ..
  | dot4i _ =>
    unfold exec; exact sweptAt_canon hs ..
  | feq _ | fne _ | flt _ | fle _ =>
    unfold exec; exact fcmp_canon hs ..
  | ieq _ | ine _ | ilt _ | ile _ | iltn _ | ilen _ =>
    unfold exec; exact icmp_canon hs ..
  | kand _ | kor _ | kxor _ | kandn _ | knot _ | kmov _ =>
    unfold exec; exact kform_canon hs ..
  | kcnt _ | kfirst _ | kall _ | kany _ =>
    unfold exec; exact kcount_canon hs ..
  | shfl _ | shflx _ | shflup _ | shfldn _ =>
    unfold exec; exact shuffle_canon hs ..
  | exp2 _ | log2 _ | rcp _ | rsq _ | sqrt _ | sin2pi _ | cos2pi _ | tanh _ =>
    unfold exec; exact sfuForm_canon hs ..
  | aadd _ | amin _ | amax _ | aminn _ | amaxn _ | aand _ | aor _ | axor _ | axchg _ | acas _ | afadd _ | abfadd2 _ =>
    unfold exec; exact atomicForm_canon hs ..
  | lg2s _ | ls2g _ =>
    unfold exec; exact laneCopy_canon hs ..
  | mma _ | mmaz _ =>
    unfold exec; exact mmaForm_canon hs ..
  | mmld _ | mmst _ =>
    unfold exec; exact tileMove_canon hs ..
  | nbeg _ | nxt _ =>
    unfold exec; exact nestSwept_canon hs ..
  | ximm _ | xreg _ | xprd _ | xmod _ | xmem _ | xsch _ | xoff _ =>
    unfold exec; exact extension_canon hs ..
  | trap imm => exact execTrap_canon hs imm
  | brk imm => exact execBrk_canon hs imm
  | safe imm => exact execSafe_canon hs imm
  | sleep imm => exact execSleep_canon hs imm
  | bru cond o => exact execBru_canon hs cond o
  | brd o => exact execBrd_canon hs o
  | rcv o => exact execRcv_canon hs o
  | call o => exact execCall_canon hs o
  | callx o => exact execCallx_canon hs o
  | ret o => exact execRet_canon hs o
  | jtab o => exact execJtab_canon hs o
  | ld sz o => exact execLd_canon hs sz o
  | ldu sz o => exact execLdu_canon hs sz o
  | st sz o => exact execSt_canon hs sz o
  | stu sz o => exact execStu_canon hs sz o
  | lds sz o => exact execLds_canon hs sz o
  | sts sz o => exact execSts_canon hs sz o
  | ldls o => exact execLdls_canon hs o
  | ldlv o => exact execLdlv_canon hs o
  | ldl64 o => exact execLdl64_canon hs o
  | bulk o => exact execBulk_canon hs o
  | mcast o => exact execMcast_canon hs o
  | dec o => exact execDec_canon hs o
  | peer o => exact execPeer_canon hs o
  | dscd o => exact execDscd_canon hs o
  | pref o => exact execPref_canon hs o
  | red o => exact execRed_canon hs o
  | mmcl o => exact execMmcl_canon hs o
  | mmcv o => exact execMmcv_canon hs o
  | mmsp o => exact execMmsp_canon hs o
  | spcmp o => exact execSpcmp_canon hs o
  | pcomp o => exact execPcomp_canon hs o
  | pinv o => exact execPinv_canon hs o
  | nnz o => exact execNnz_canon hs o
  | wnw o => exact execWnw_canon hs o
  | wnf o => exact execWnf_canon hs o
  | wnx o => exact execWnx_canon hs o
  | fence o => exact execFence_canon hs o
  | fencesc o => exact execFencesc_canon hs o
  | ofence o => exact execOfence_canon hs o
  | bar o => exact execBar_canon hs o
  | bara o => exact execBara_canon hs o
  | barw o => exact execBarw_canon hs o
  | bart o => exact execBart_canon hs o
  | txbi o => exact execTxbi_canon hs o
  | txbe o => exact execTxbe_canon hs o
  | txba o => exact execTxba_canon hs o
  | txbw o => exact execTxbw_canon hs o
  | txbt o => exact execTxbt_canon hs o
  | waita o => exact execWaita_canon hs o
  | hwait o => exact execHwait_canon hs o
  | htest o => exact execHtest_canon hs o
  | hcan o => exact execHcan_canon hs o
  | hexp o => exact execHexp_canon hs o
  | himp o => exact execHimp_canon hs o
  | sjoin o => exact execSjoin_canon hs o
  | sleave o => exact execSleave_canon hs o
  | sinfo o => exact execSinfo_canon hs o
  | ssub o => exact execSsub_canon hs o
  | sunsub o => exact execSunsub_canon hs o
  | ssync o => exact execSsync_canon hs o
  | nbar o => exact execNbar_canon hs o
  | nred o => exact execNred_canon hs o
  | nbc o => exact execNbc_canon hs o
  | nllm o => exact execNllm_canon hs o
  | spawn o => exact execSpawn_canon hs o
  | launch o => exact execLaunch_canon hs o
  | tdone o => exact execTdone_canon hs o
  | csrr o => exact execCsrr_canon hs o
  | csrw o => exact execCsrw_canon hs o
  | csrs o => exact execCsrs_canon hs o
  | csrc o => exact execCsrc_canon hs o
  | mpost o => exact execMpost_canon hs o
  | mtake o => exact execMtake_canon hs o
  | mpeek o => exact execMpeek_canon hs o
  | nop => exact execNop_canon hs
  | exit => exact execExit_canon hs
  | yld => exact execYld_canon hs
  | eret => exact execEret_canon hs
  | ifence => exact execIfence_canon hs
  | fetch uid => exact execFetch_canon hs uid
  | pageResponseSuccess r => exact execPageResponseSuccess_canon hs r
  | pageResponseInvalidRequest r => exact execPageResponseInvalidRequest_canon hs r
  | gatherFlush core => exact execGatherFlush_canon hs core
  | operandLogEntry uid a => exact execOperandLogEntry_canon hs uid a
  | operandLogReplay uid seq => exact execOperandLogReplay_canon hs uid seq
  | lateTrap uid => exact execLateTrap_canon hs uid
  | storeDrain uid a => exact execStoreDrain_canon hs uid a
  | homeWritePerform w => exact execHomeWritePerform_canon hs w
  | loadPerform uid a => exact execLoadPerform_canon hs uid a
  | atomicPerform uid a => exact execAtomicPerform_canon hs uid a
  | sliceAccessPerform uid a => exact execSliceAccessPerform_canon hs uid a
  | fill f => exact execFill_canon hs f
  | expire l1 asid line => exact execExpire_canon hs l1 asid line
  | deliver src dst => exact execDeliver_canon hs src dst
  | batchSend sub batch => exact execBatchSend_canon hs sub batch
  | forward sub batch => exact execForward_canon hs sub batch
  | wait uid seq => exact execWait_canon hs uid seq
  | complete op => exact execComplete_canon hs op
  | mcastTransferStart op member => exact execMcastTransferStart_canon hs op member
  | rowCommit op => exact execRowCommit_canon hs op
  | mmStallReset core => exact execMmStallReset_canon hs core
  | patternCompileDone core entry => exact execPatternCompileDone_canon hs core entry
  | energyWindow die => exact execEnergyWindow_canon hs die
  | sleepWake uid => exact execSleepWake_canon hs uid
  | preemptRequest uids => exact execPreemptRequest_canon hs uids
  | pretoExpiry uid => exact execPretoExpiry_canon hs uid
  | sheafResume uid core => exact execSheafResume_canon hs uid core
  | sheafMigrate uid core => exact execSheafMigrate_canon hs uid core
  | subscriptionResyncFetch sub sector => exact execSubscriptionResyncFetch_canon hs sub sector
  | hostPost fn off bytes => exact execHostPost_canon hs fn off bytes
  | launchPacketCheck port => exact execLaunchPacketCheck_canon hs port
  | dependenceRead launch dep => exact execDependenceRead_canon hs launch dep
  | sheafAdmit launch cluster => exact execSheafAdmit_canon hs launch cluster
  | sheafPlace uid core => exact execSheafPlace_canon hs uid core
  | groupClose cluster group => exact execGroupClose_canon hs cluster group
  | drainEnd uid => exact execDrainEnd_canon hs uid
  | launchComplete launch => exact execLaunchComplete_canon hs launch
  | shoot c => exact execShoot_canon hs c
  | ctxsave c => exact execCtxsave_canon hs c
  | ctxload c => exact execCtxload_canon hs c
  | shend c => exact execShend_canon hs c
  | dirtset c => exact execDirtset_canon hs c
  | dirtclr c => exact execDirtclr_canon hs c
  | mbxmake c => exact execMbxmake_canon hs c
  | mbxfree c => exact execMbxfree_canon hs c
  | slflush c => exact execSlflush_canon hs c
  | quiesce c => exact execQuiesce_canon hs c
  | test c => exact execTest_canon hs c
  | remap c => exact execRemap_canon hs c
  | resume c => exact execResume_canon hs c
  | segmentLoad r => exact execSegmentLoad_canon hs r
  | segmentRetire ctx old new => exact execSegmentRetire_canon hs ctx old new
  | unload ctx obj => exact execUnload_canon hs ctx obj
  | forcedUnload ctx obj => exact execForcedUnload_canon hs ctx obj
  | seqmWrite core v => exact execSeqmWrite_canon hs core v
  | microword core => exact execMicroword_canon hs core
  | waymkWrite die v => exact execWaymkWrite_canon hs die v
  | poolWriteCompletion asid line => exact execPoolWriteCompletion_canon hs asid line
  | poisonResponse asid line sectors => exact execPoisonResponse_canon hs asid line sectors
  | extentAdd base len port => exact execExtentAdd_canon hs base len port
  | extentReleaseRequest base => exact execExtentReleaseRequest_canon hs base
  | fabricBindingInstall ctx rdev rctx => exact execFabricBindingInstall_canon hs ctx rdev rctx
  | reductionGroupInstall g => exact execReductionGroupInstall_canon hs g
  | tieFlitIdle link flit => exact execTieFlitIdle_canon hs link flit
  | tieFlitRequest link flit carry => exact execTieFlitRequest_canon hs link flit carry
  | tieFlitData link flit carry => exact execTieFlitData_canon hs link flit carry
  | tieFlitAckCredit link flit => exact execTieFlitAckCredit_canon hs link flit
  | tieFlitReductionPartial link flit carry => exact execTieFlitReductionPartial_canon hs link flit carry
  | linkDeclaredDown link => exact execLinkDeclaredDown_canon hs link
  | remoteWriteAck op n => exact execRemoteWriteAck_canon hs op n
  | reductionRoundClose gid => exact execReductionRoundClose_canon hs gid
  | groupAbort gid => exact execGroupAbort_canon hs gid
  | getVersion => exact execGetVersion_canon hs
  | getCapabilities => exact execGetCapabilities_canon hs
  | negotiateAlgorithms => exact execNegotiateAlgorithms_canon hs
  | getDigests => exact execGetDigests_canon hs
  | getCertificate => exact execGetCertificate_canon hs
  | challenge nonce => exact execChallenge_canon hs nonce
  | getMeasurements index => exact execGetMeasurements_canon hs index
  | patrolScrub asid line => exact execPatrolScrub_canon hs asid line
  | telemetryReport => exact execTelemetryReport_canon hs
  | thermalThrottle die => exact execThermalThrottle_canon hs die
  | thermalShutdown die => exact execThermalShutdown_canon hs die
  | powerRemoval => exact execPowerRemoval_canon hs
  | boot => exact execBoot_canon hs
  | firmwareUpdate img => exact execFirmwareUpdate_canon hs img
  | firmwareActivate => exact execFirmwareActivate_canon hs
  | illegalInstruction w => exact execIllegalInstruction_canon hs w
  | commandCompletion id => exact execCommandCompletion_canon hs id
  | engineScratchAccess op act => exact execEngineScratchAccess_canon hs op act
  | homeMigration asid line slice => exact execHomeMigration_canon hs asid line slice
  | l2LineEviction asid line => exact execL2LineEviction_canon hs asid line
  | hostBar0Write fn off bytes => exact execHostBar0Write_canon hs fn off bytes
  | arithmeticClockChange die mhz => exact execArithmeticClockChange_canon hs die mhz
  | newImageTakeover rates => exact execNewImageTakeover_canon hs rates
  | _ => -- FUN, whose constructor's name is a keyword
    unfold exec; exact fcmp_canon hs ..

/-! ### The schedule -/

@[simp] theorem State.stampIssue_canon (h i) : (s.stampIssue h i).Canon ↔ s.Canon := by simp [State.stampIssue]

@[simp] theorem issueCur_canon (hs : s.Canon) : Out.Canon (issueCur s) := by
  unfold issueCur
  split
  · exact hs
  extract_lets s1
  have h1 : s1.Canon := State.fetchFor_canon hs _
  clear_value s1
  split
  · exact h1
  split
  next i _ =>
    have h2 := exec_canon h1 i
    split
    next e => simpa [e] using h2
    · exact h2
  · exact execIllegalInstruction_canon h1 _

@[simp] theorem State.issueTurn_canon (hs : s.Canon) : Out.Canon (s.issueTurn) := by
  unfold State.issueTurn; split <;> simp [hs]

@[simp] theorem State.elapse_canon (hs : s.Canon) (ns) : (s.elapse ns).Canon := by simp [State.elapse, hs]

@[simp] theorem State.nextCommand_canon (hs : s.Canon) : Out.Canon (s.nextCommand) := by
  unfold State.nextCommand
  repeat' split
  all_goals simp +contextual [hs]

@[simp] theorem Own.run_canon (hs : s.Canon) (m : Own) : Out.Canon (m.run s) := by
  cases m <;> simp [Own.run, hs]

@[simp] theorem firstChange_canon (hs : s.Canon) (ms) : (firstChange s ms).1.Canon := by
  induction ms with
  | nil => exact hs
  | cons m ms ih =>
    have h1 := Own.run_canon hs m
    unfold firstChange
    split
    · split <;> simp_all
    · exact ih

@[simp] theorem State.service_canon (hs : s.Canon) : (s.service).Canon := by simp [State.service, hs]

@[simp] theorem State.make_canon (hs : s.Canon) (m) : Out.Canon (s.make m) := by
  unfold State.make
  split
  · split
    · split
      · exact hs
      · exact exec_canon hs _
    · exact hs
  · exact State.issueTurn_canon (by simpa using hs)
  · simp [hs]
  · simp [hs]
  · simp [hs]

@[simp] theorem State.regroup_canon : (s.regroup).Canon ↔ s.Canon := by simp [State.regroup]

@[simp] theorem Out.tidy_canon {o : Out} (ho : o.Canon) : o.tidy.Canon := by
  unfold Out.tidy
  split
  next t => simp [show t.Canon by simpa using ho]
  · exact ho

/-- One step: the next move of the agenda, the service the machine does itself, or a turn to issue. -/
@[simp] theorem State.advance_canon (hs : s.Canon) : Out.Canon s.advance := by
  unfold State.advance
  split
  · exact Out.tidy_canon (State.make_canon (by simpa using hs) _)
  · split
    · exact Out.tidy_canon (by simp [hs])
    · exact Out.tidy_canon (by simp [hs])

end Sys2Proof.Machine
end

section
open Sys2Proof Sys2Proof.Machine

/-- Settles O60: each function of the model keeps the form, up to `State.advance`, which is one step. -/
theorem memoriesStayCanonical : Obligations.MemoriesStayCanonical := by
  intro s t hs h
  have hn : Out.Canon (step s) := State.advance_canon hs
  rwa [h] at hn
end

section
/-! SUPPORT. The k registers of a lane after a write. -/

namespace Sys2Proof.Machine

@[simp] theorem Lane.getK_zero (l : Lane) : l.getK 0 = true := rfl
@[simp] theorem Lane.setK_zero (l : Lane) (b : Bool) : l.setK 0 b = l := rfl

/-- A k register of the file reads what was written to it, another one what it read before. -/
theorem Lane.getK_setK (l : Lane) (n m : Nat) (b : Bool) (h0 : n ≠ 0) (hm : m < 16) :
    (l.setK n b).getK m = if m = n then b else l.getK m := by
  have bitW : ((1 : BitVec 16) <<< n).getLsbD m = decide (n = m) := by
    change (BitVec.twoPow 16 n).getLsbD m = _
    rw [BitVec.getLsbD_twoPow]
    by_cases e : n = m <;> simp [e, hm]
  have bitN : ((1 <<< n : Nat) : BitVec 16).getLsbD m = decide (n = m) := by
    rw [BitVec.natCast_eq_ofNat, BitVec.getLsbD_ofNat, Nat.one_shiftLeft, Nat.testBit_two_pow, decide_eq_true hm, Bool.true_and]
  rw [Lane.setK, if_neg h0]
  by_cases e : m = n
  · subst e
    cases b <;> simp only [Lane.getK, reduceIte, Bool.false_eq_true, BitVec.getLsbD_or, BitVec.getLsbD_and, BitVec.getLsbD_not,
      bitW, bitN] <;> simp [h0]
  · cases b <;> simp only [Lane.getK, reduceIte, Bool.false_eq_true, BitVec.getLsbD_or, BitVec.getLsbD_and, BitVec.getLsbD_not,
      bitW, bitN, hm] <;> simp [e, Ne.symm e]

/-- Another k register reads as before. -/
theorem Lane.getK_setK_other (l : Lane) (n m : Nat) (b : Bool) (hm : m < 16) (e : m ≠ n) : (l.setK n b).getK m = l.getK m := by
  by_cases h0 : n = 0
  · simp [h0]
  · rw [Lane.getK_setK l n m b h0 hm, if_neg e]

/-- A k register of the file reads what was written. -/
theorem Lane.getK_setK_same (l : Lane) (n : Nat) (b : Bool) (h0 : n ≠ 0) (hn : n < 16) : (l.setK n b).getK n = b := by
  rw [Lane.getK_setK l n n b h0 hn, if_pos rfl]

end Sys2Proof.Machine
end

section
open Sys2Proof Sys2Proof.Machine

/-- Settles O4: the laws of the s and k registers. -/
theorem hardwiredRegisters : Obligations.HardwiredRegisters :=
  ⟨Sheaf.getS_zero, Sheaf.setS_zero, Lane.getK_zero, Lane.setK_zero, Sheaf.getS_setS_same, Lane.getK_setK_same⟩
end

section
/-! SUPPORT. What a ready branch or call does, by the branches of its meaning (05/R116 to R119). -/

namespace Sys2Proof.Machine

variable {s : State} {h : Sheaf} {o : FBR} {p : Path}

/-- The lanes a BRD takes: those of its guard whose k register holds. -/
def Sheaf.brdTakes (h : Sheaf) (o : FBR) (l : Lane) : Bool := h.guard (.brd o) l && l.getK o.sel.toNat

/-- BRD, ready: it branches where its lanes agree, and splits the path where they do not. -/
theorem execBrd_ready (r : Ready s h (.brd o)) (hp : h.path = some p) : execBrd o s = .next (
    if !(h.lanes.filter h.onPath).any (h.brdTakes o) then s.done h
    else if (h.lanes.filter h.onPath).all (h.brdTakes o) then s.goTo h (h.target o.off)
    else s.pushTo h (s.split h p (h.brdTakes o) (h.target o.off)) (.brd o) h.nextPc) := by
  unfold execBrd
  rw [issue_ready r]
  simp only [hp]
  rfl

/-- A changed sheaf whose stacks fit its region completes the unit. -/
theorem State.pushTo_fits {h' : Sheaf} (f : h'.overflows = false) (i : Instr) (pc : Pc) :
    s.pushTo h h' i pc = (s.fresh 1).goTo h' pc := by
  simp [State.pushTo, f]

/-- A call within the depth limit whose frame fits the region has no cause but that of its capability. -/
theorem State.callCauses_fits (d : h.depth < 65535) (f : (h.pushFrame s.ctl.nextId).overflows = false) :
    s.callCauses h false = [] := by
  simp [State.callCauses, maxDepth, Nat.ne_of_lt d, f]

/-- RET, ready, with a frame to return through. -/
theorem execRet_ready {f : Frame} {fs : List Frame} (r : Ready s h (.ret o)) (hp : h.path = some p) (hf : p.frames = f :: fs)
    (c : s.checkReturn h.ctx f.pc = true) : execRet o s = .next
      (s.goTo { h with path := some { p with frames := fs, link := relink p.link h.stack fs.length } } f.pc) := by
  unfold execRet
  rw [issue_ready r]
  simp [hp, hf, c]

end Sys2Proof.Machine
end

section
open Sys2Proof Sys2Proof.Machine

/-- Settles O13: each form is ready, so it has its own effect; the premises choose the branch. -/
theorem divergenceAndCalls : Obligations.DivergenceAndCalls := by
  refine ⟨fun o s h p r hp => ⟨fun noneTaken => ?noneTaken, fun someTaken allTaken => ?allTaken, fun someTaken notAll fits => ?split⟩,
    fun s h p taken target => ⟨rfl, rfl⟩, fun o s h p r hp => ?rcv, fun o s h r d f => ?call, fun o s h g e r d f c => ?callx,
    fun o s h p f fs r hp hf c => execRet_ready r hp hf c, fun o s h p r hp hf => ?retOutermost⟩
  case noneTaken => exact (execBrd_ready r hp).trans (by rw [show List.any _ (h.brdTakes o) = false from noneTaken]; rfl)
  case allTaken =>
    exact (execBrd_ready r hp).trans (by
      rw [show List.any _ (h.brdTakes o) = true from someTaken, show List.all _ (h.brdTakes o) = true from allTaken]; rfl)
  case split =>
    exact (execBrd_ready r hp).trans (by
      rw [show List.any _ (h.brdTakes o) = true from someTaken, show List.all _ (h.brdTakes o) = false from notAll]
      exact congrArg _ (State.pushTo_fits fits _ _))
  case rcv =>
    intro h1 fits
    refine (issue_ready r _).trans ?_
    simp only [hp]
    exact congrArg _ (State.pushTo_fits fits _ _)
  case call =>
    refine (issue_ready r _).trans ?_
    simp only [State.callCauses_fits d f]
    rfl
  case callx =>
    refine (issue_ready r _).trans ?_
    simp only [c, Option.isNone_some, State.callCauses_fits d f]
    rfl
  case retOutermost =>
    refine (issue_ready r _).trans ?_
    simp only [hp, hf]
end

section
/-! SUPPORT. What a completed swept or uniform form leaves unchanged (02/R24, R26): one lemma for each way a form completes, from
which registers it writes in a lane. -/

namespace Sys2Proof.Machine

variable {s t : State} {h : Sheaf} {i : Instr} {f : Lane → Lane × Flags} {vs ks : List Nat} {fl : Bool}

/-- A lane after an instruction that may write, of all it holds, only the v registers `vs` and the k registers `ks`. -/
def Lane.Keeps (vs ks : List Nat) (l l' : Lane) : Prop :=
  l' = { l with v := l'.v, k := l'.k } ∧ (vs = [] → l'.v = l.v) ∧ (ks = [] → l'.k = l.k) ∧
    (∀ r, r ∉ vs → l'.getV r = l.getV r) ∧ ∀ r, r < 16 → r ∉ ks → l'.getK r = l.getK r

theorem Lane.keeps_self (vs ks : List Nat) (l : Lane) : l.Keeps vs ks l :=
  ⟨rfl, fun _ => rfl, fun _ => rfl, fun _ _ => rfl, fun _ _ _ => rfl⟩

theorem Lane.keeps_setV (l : Lane) (n : Nat) (w : Word) : l.Keeps [n] [] (l.setV n w) :=
  ⟨rfl, nofun, fun _ => rfl, fun r hr => l.getV_setV_other n r w (by simpa using hr), fun _ _ _ => rfl⟩

theorem Lane.keeps_setV2 (l : Lane) (n : Nat) (x : DWord) : l.Keeps [n, n + 1] [] (l.setV2 n x) := by
  refine ⟨rfl, nofun, fun _ => rfl, fun r hr => ?_, fun _ _ _ => rfl⟩
  obtain ⟨h0, h1⟩ : r ≠ n ∧ r ≠ n + 1 := by simpa using hr
  rw [Lane.setV2, Lane.getV_setV_other _ _ _ _ h1, Lane.getV_setV_other _ _ _ _ h0]

theorem Lane.setK_eq (l : Lane) (n : Nat) (b : Bool) : l.setK n b = { l with k := (l.setK n b).k } := by
  unfold Lane.setK
  split <;> rfl

theorem Lane.setK_v (l : Lane) (n : Nat) (b : Bool) : (l.setK n b).v = l.v := by rw [Lane.setK_eq]

theorem Lane.keeps_setK (l : Lane) (n : Nat) (b : Bool) : l.Keeps [] [n] (l.setK n b) :=
  ⟨by rw [Lane.setK_v]; exact l.setK_eq n b, fun _ => l.setK_v n b, nofun,
    fun r _ => by rw [Lane.getV, Lane.getV, Lane.setK_v],
    fun r h16 hr => l.getK_setK_other n r b h16 (by simpa using hr)⟩

/-- A v register and the carry in k15 (05/R125). -/
theorem Lane.keeps_setV_setK (l : Lane) (n m : Nat) (w : Word) (b : Bool) : l.Keeps [n] [m] ((l.setV n w).setK m b) := by
  obtain ⟨-, -, -, hv, -⟩ := l.keeps_setV n w
  obtain ⟨hl, -, -, -, hk⟩ := (l.setV n w).keeps_setK m b
  refine ⟨hl, nofun, nofun, fun r hr => ?_, hk⟩
  rw [Lane.getV, Lane.setK_v, ← Lane.getV, hv r hr]

/-- Flags are only ever added. -/
theorem foldl_or_absorbs (ls : List Lane) (F : Lane → Flags) (g : Flags) :
    ls.foldl (fun (x : Flags) (l : Lane) => x ||| F l) g ||| g = ls.foldl (fun (x : Flags) (l : Lane) => x ||| F l) g := by
  induction ls generalizing g with
  | nil => exact BitVec.or_self
  | cons l ls ih =>
    rw [List.foldl_cons, ← ih (g ||| F l), BitVec.or_assoc, BitVec.or_comm (g ||| F l) g, ← BitVec.or_assoc g g, BitVec.or_self]

/-- No flag is added where no lane raises one. -/
theorem foldl_or_zero (ls : List Lane) (F : Lane → Flags) (z : ∀ l, F l = 0) (g : Flags) :
    ls.foldl (fun (x : Flags) (l : Lane) => x ||| F l) g = g := by
  induction ls generalizing g with
  | nil => rfl
  | cons l ls ih => rw [List.foldl_cons, ih, z, BitVec.ofNat_eq_ofNat, BitVec.or_zero]

/-- The pending results grow only by those of an SFU form or a conversion (02/R31). -/
theorem Sheaf.lateAfter_fast (h : Sheaf) (e : i.slow = false) : h.lateAfter i = h.late := by
  simp [Sheaf.lateAfter, e]

/-- The current sheaf is the one the schedule names. -/
theorem State.cur_uid (c : s.cur? = some h) : s.ctl.cur = h.uid := by
  have e : h.uid = s.ctl.cur := by simpa using List.find?_some c
  exact e.symm

/-- The current sheaf after the end of its unit. -/
theorem State.done_cur? {h' : Sheaf} (c : s.cur? = some h) (e : h'.uid = h.uid) :
    (s.done h').cur? = some (h'.retire h'.nextPc) :=
  (congrArg _ (State.cur_uid c)).trans (State.done_sheaf c e)

/-- The end of a swept unit, on a state that still has the sheaf `h`. -/
theorem State.done_sweep_leaves (c : s.cur? = some h) (keeps : ∀ l : Lane, l.Keeps vs ks (f l).1)
    (noFlag : fl = false → ∀ l, (f l).2 = 0) : LanesLeave (s.done (h.sweep i f)) h i vs ks fl := by
  refine ⟨_, State.done_cur? c rfl, ?_, fun slow => ?_, fun e => ?_, ?_, fun l => if h.eff i l then (f l).1 else l, ?_,
    fun l e => ?_, fun l => ?_⟩
  · rw [Sheaf.retire_apart, Sheaf.retire_lanes, Sheaf.retire_fflg, Sheaf.retire_late]
    rfl
  · rw [Sheaf.retire_late]
    exact h.lateAfter_fast slow
  · rw [Sheaf.retire_fflg]
    exact foldl_or_zero _ _ (noFlag e) _
  · rw [Sheaf.retire_fflg]
    exact foldl_or_absorbs _ _ _
  · rw [Sheaf.retire_lanes]
    rfl
  · simp [e]
  · show l.Keeps vs ks (if h.eff i l then (f l).1 else l)
    split
    · exact keeps l
    · exact l.keeps_self vs ks

/-- A ready swept form leaves what its lanes' writes leave, and changes its sheaf only. -/
theorem swept_leaves {f : Sheaf → Lane → Lane × Flags} (r : Ready s h i) (e : exec i s = swept i s f)
    (keeps : ∀ l : Lane, l.Keeps vs ks (f h l).1) (noFlag : fl = false → ∀ l, (f h l).2 = 0) (n : exec i s = .next t) :
    LanesLeave t h i vs ks fl ∧ OnlySheaf s t h.uid := by
  obtain rfl : s.done (h.sweep i (f h)) = t := by simpa [e, swept_ready r] using n
  exact ⟨State.done_sweep_leaves r.1 keeps noFlag, State.done_only s (h.sweep i (f h))⟩

/-- A debit changes no sheaf. -/
@[simp] theorem State.spend_cur? (s : State) (h : Sheaf) (n : Nat) : (s.spend h n).cur? = s.cur? := by
  unfold State.spend
  split <;> rfl

/-- A debit changes the energy of contexts only. -/
theorem State.spend_eq (s : State) (h : Sheaf) (n : Nat) : s.spend h n = { s with ctxs := (s.spend h n).ctxs } := by
  unfold State.spend
  split <;> rfl

theorem State.spend_ctxs_energy (s : State) (h : Sheaf) (n : Nat) :
    ((s.spend h n).ctxs.map fun c => { c with energy := [] }) = s.ctxs.map fun c => { c with energy := [] } := by
  unfold State.spend
  split
  · rfl
  · simp only [State.modCtx, List.map_map]
    refine List.map_congr_left fun c _ => ?_
    simp only [Function.comp]
    split <;> rfl

/-- A ready form of a declared class does not issue, or leaves what its lanes' writes leave and debits energy. -/
theorem sweptAt_leaves {f : Sheaf → Lane → Lane × Flags} {cls : Nat} (r : Ready s h i) (e : exec i s = sweptAt cls i s f)
    (keeps : ∀ l : Lane, l.Keeps vs ks (f h l).1) (n : exec i s = .next t) :
    t = s ∨ (LanesLeave t h i vs ks true ∧ OnlySheaf s { t with ctxs := s.ctxs } h.uid ∧
      (t.ctxs.map fun c => { c with energy := [] }) = s.ctxs.map fun c => { c with energy := [] }) := by
  cases b : s.canSpend h (energyCost cls) with
  | false =>
    left
    simpa [e, sweptAt, issue_ready r, b] using n.symm
  | true =>
    right
    obtain rfl : (s.spend h (energyCost cls)).done (h.sweep i (f h)) = t := by simpa [e, sweptAt_ready r _ _ b] using n
    refine ⟨State.done_sweep_leaves ((State.spend_cur? ..).trans r.1) keeps nofun, ?_, State.spend_ctxs_energy ..⟩
    rw [State.spend_eq]
    exact State.done_only s (h.sweep i (f h))

/-- Writing an s register shows in the s registers only. -/
theorem Sheaf.setS_eq (h : Sheaf) (n : Nat) (w : Word) : h.setS n w = { h with s := (h.setS n w).s } := by
  unfold Sheaf.setS
  split <;> rfl

/-- A ready uniform form that writes an s register leaves the others, and changes its sheaf only. -/
theorem scalar_leaves {n : Nat} {f : Sheaf → Word} (r : Ready s h i) (e : exec i s = scalar i s n f) (x : exec i s = .next t) :
    ScalarLeaves t h [n] ∧ OnlySheaf s t h.uid := by
  obtain rfl : s.done (h.setS n (f h)) = t := by simpa [e, scalar_ready r] using x
  have uid : (h.setS n (f h)).uid = h.uid := Sheaf.setS_uid ..
  refine ⟨⟨_, State.done_cur? r.1 uid, ?_, fun m hm => ?_⟩, uid ▸ State.done_only s (h.setS n (f h))⟩
  · rw [Sheaf.retire_apart, Sheaf.retire_s, Sheaf.setS_eq]
    rfl
  · rw [Sheaf.getS_congr _ _ (Sheaf.retire_s ..), Sheaf.getS_setS_other _ _ _ _ (by simpa using hm)]

/-- CVTP writes v[D], whichever width its TY has (05/R133). -/
theorem cvtp_leaves {o : FV3} {s t : State} {h : Sheaf} (r : Ready s h (.cvtp o)) (e : exec (.cvtp o) s = .next t) :
    LanesLeave t h (.cvtp o) [o.d.toNat] [] true ∧ OnlySheaf s t h.uid := by
  refine swept_leaves r rfl (fun l => ?_) nofun e
  dsimp only
  split <;> exact Lane.keeps_setV ..

/-- CVTI writes v[D], or the pair at D for a 64-bit result (05/R132). -/
theorem cvti_leaves {o : FV3} {s t : State} {h : Sheaf} (r : Ready s h (.cvti o)) (e : exec (.cvti o) s = .next t) :
    LanesLeave t h (.cvti o) (if wideTy (xTy h.xmod) then [o.d.toNat, o.d.toNat + 1] else [o.d.toNat]) [] true ∧
      OnlySheaf s t h.uid := by
  refine swept_leaves r rfl (fun l => ?_) nofun e
  dsimp only
  split
  · exact Lane.keeps_setV2 ..
  · exact Lane.keeps_setV ..

end Sys2Proof.Machine
end

section
open Sys2Proof Sys2Proof.Machine

/-- Settles O9: each table form by form, from the register that the form writes in a lane. -/
theorem vectorFrame : Obligations.VectorFrame := by
  refine ⟨?vec, ?imm, ?ri, ?carry, ?fp, fun _ _ _ _ => cvti_leaves, ?costed, ?cmp, ?reads⟩
  all_goals
    simp only [vecTable, vecImmTable, vriTable, fpTable, costedTable, cmpTable, laneReads, List.map_cons, List.map_nil,
      List.forall_mem_cons, List.not_mem_nil, false_implies, implies_true, and_true]
  case vec | imm | ri =>
    and_intros
    all_goals exact fun o s t h r e => swept_leaves r rfl (fun l => l.keeps_setV ..) (fun _ _ => rfl) e
  case carry =>
    and_intros
    all_goals exact fun o s t h r e => swept_leaves r rfl (fun l => l.keeps_setV_setK ..) (fun _ _ => rfl) e
  case fp =>
    and_intros
    on_goal 21 => exact fun o s t h => cvtp_leaves
    all_goals exact fun o s t h r e => swept_leaves r rfl (fun l => l.keeps_setV ..) nofun e
  case costed =>
    and_intros
    all_goals exact fun o s t h r e => sweptAt_leaves r rfl (fun l => l.keeps_setV ..) e
  case cmp =>
    and_intros
    all_goals exact fun o s t h r e => swept_leaves r rfl (fun l => l.keeps_setK ..) nofun e
  case reads =>
    and_intros
    all_goals exact fun o s t h r e => scalar_leaves r rfl e
end

section
/-! SUPPORT. An instruction given to a machine with a current sheaf answers a state; what the turn of the sheaves does, by the
branches of `issueCur` and of the selector (14/R342); a fetch from the instruction cache (16/R364). -/

namespace Sys2Proof.Machine

variable {s : State} {h : Sheaf}

/-- An illegal word answers a state: the trap of its cause, or nothing while the sheaf may not issue (04/R78). -/
theorem execIllegalInstruction_next (c : s.cur? = some h) (w : Word) : ∃ t, execIllegalInstruction w s = .next t := by
  simp only [execIllegalInstruction, c]
  split <;> exact ⟨_, rfl⟩

/-- So does an extension word. -/
theorem extension_next (c : s.cur? = some h) (kind : Nat) (p : BitVec 24) : ∃ t, extension kind p s = .next t := by
  simp only [extension, c]
  split <;> exact ⟨_, rfl⟩

/-- So does every instruction: a word through `issue`, a step of the device by its definition. -/
theorem exec_next (c : s.cur? = some h) (i : Instr) : ∃ t, exec i s = .next t := by
  cases i
  case illegalInstruction w => exact execIllegalInstruction_next c w
  case ximm p | xreg p | xprd p | xmod p | xmem p | xsch p | xoff p => exact extension_next c _ p
  all_goals first
    | exact issue_next c _ _
    | exact ⟨_, rfl⟩

/-- The machine as it issues in the turn of the sheaves: the next turn is the device's. -/
def State.turnTaken (s : State) : State := { s with ctl := { s.ctl with svc := true } }

/-- With an empty agenda and the turn with the sheaves, a step is an issue (log entry 1). -/
theorem step_issues (a : s.ctl.agenda = []) (v : s.ctl.svc = false) : step s = Out.tidy s.turnTaken.issueTurn := by
  simp [step, State.advance, State.turnTaken, a, v]

/-- A sheaf the selector may choose issues; another one waits. -/
theorem State.issueTurn_eq (c : s.cur? = some h) : s.issueTurn = if s.mayIssue h then issueCur s else .next s := by
  simp only [State.issueTurn, c]

/-- An issue executes what the fetched word decodes to. -/
theorem issueCur_word {g : Sheaf} {w : Word} {i : Instr} (c : s.cur? = some h) (cg : (s.fetchFor h).cur? = some g)
    (f : g.fbuf = some w) (d : decode w = some i) :
    ∃ t, exec i (s.fetchFor h) = .next t ∧ issueCur s = .next (t.stampIssue h i) := by
  obtain ⟨t, e⟩ := exec_next cg i
  exact ⟨t, e, by simp [issueCur, c, cg, f, d, e]⟩

/-- A fetched word that decodes to nothing is an illegal instruction. -/
theorem issueCur_illegal {g : Sheaf} {w : Word} (c : s.cur? = some h) (cg : (s.fetchFor h).cur? = some g)
    (f : g.fbuf = some w) (d : decode w = none) : issueCur s = execIllegalInstruction w (s.fetchFor h) := by
  simp [issueCur, c, cg, f, d]

/-- A sheaf alone on its core may issue. -/
theorem State.mayIssue_alone (alone : ∀ g ∈ s.sheaves, g.uid ≠ h.uid → g.core ≠ h.core) : s.mayIssue h = true := by
  have others : (s.sheaves.filter fun g => g.uid != h.uid && g.core == h.core) = [] := by
    simpa [List.filter_eq_nil_iff] using alone
  simp [State.mayIssue, others]

/-- A ready sheaf of a higher class goes before another of its core on the pipe of its instruction. -/
theorem State.goesBefore_of_prio {g : Sheaf} {j : Instr} {v : Bool} (other : g.uid ≠ h.uid) (core : g.core = h.core)
    (prio : h.prio < g.prio) (ready : s.readyFor g = some j) (pipe : g.vectorPipe j = v) : s.goesBefore g h v = true := by
  simp [State.goesBefore, other, core, prio, ready, pipe]

/-- Unless the bound of its wait has run out, a ready sheaf that another goes before may not issue (14/R342). -/
theorem State.mayIssue_after {g : Sheaf} {i : Instr} (hg : g ∈ s.sheaves) (other : g.uid ≠ h.uid) (core : g.core = h.core)
    (ready : s.readyFor h = some i) (before : s.goesBefore g h (h.vectorPipe i) = true) (q : h.seqr = false)
    (due : h.overdue = false) : s.mayIssue h = false := by
  have mem : g ∈ s.sheaves.filter fun g => g.uid != h.uid && g.core == h.core := by simp [hg, other, core]
  have any := List.any_eq_true (p := fun g => s.goesBefore g h (h.vectorPipe i)).mpr ⟨g, mem, before⟩
  simp [State.mayIssue, List.ne_nil_of_mem mem, ready, q, due, any]

/-- Marking an issue changes four fields of a sheaf, which only the selector reads. -/
theorem State.stampIssue_eq (t : State) (h : Sheaf) (i : Instr) :
    ∃ f : Sheaf → Sheaf, t.stampIssue h i = { t with sheaves := t.sheaves.map f } ∧
      ∀ x, f x = { x with lastU := (f x).lastU, lastV := (f x).lastV, rdy := (f x).rdy, hinted := (f x).hinted } := by
  refine ⟨_, rfl, fun x => ?_⟩
  dsimp only
  split
  · split <;> rfl
  · rfl

/-- A word of an instruction-cache line is read there. -/
theorem State.codeWord_cached {core ctx off : Nat} {g : Seg} {c : ICLine}
    (hit : s.ic? core (BitVec.ofNat 16 g.idx) g.gen (off / 64) = some c) :
    s.codeWord core ctx g off = (s, .word (c.words.getD (off % 64 / 4) 0)) ∧ s.codeHeld core ctx g off = false := by
  simp [State.codeWord, State.codeHeld, hit]

/-- A fetch from the instruction cache fills the buffer of the sheaf and changes nothing else (16/R364). -/
theorem State.fetchFor_cached {g : Seg} {c : ICLine} (f : h.fbuf = none) (q : h.seqr = false) (can : s.canIssue h = true)
    (seg : s.seg? h.pc.seg.toNat = some g) (live : g.state ≠ .revoked) (len : h.pc.off.toNat < g.len)
    (hit : s.ic? h.core (BitVec.ofNat 16 g.idx) g.gen (h.pc.off.toNat / 64) = some c) :
    s.fetchFor h = s.putSheaf { h with fbuf := some (c.words.getD (h.pc.off.toNat % 64 / 4) 0) } := by
  obtain ⟨word, held⟩ := State.codeWord_cached (ctx := h.ctx) hit
  simp [State.fetchFor, f, q, can, seg, live, Nat.not_le.mpr len, held, word]

/-- The current sheaf after it has been put back. -/
theorem State.cur?_putSheaf {h' : Sheaf} (c : s.cur? = some h) (e : h'.uid = h.uid) : (s.putSheaf h').cur? = some h' := by
  show (s.putSheaf h').sheaf? s.ctl.cur = some h'
  rw [State.sheaf?_putSheaf, State.cur_uid c, if_pos e.symm, State.cur_sheaf c]
  rfl

/-- Where no segment is to be freed and no copy stands in an L1 of the wrong shape, the end of a step changes nothing. -/
theorem Out.tidy_next_self {t : State} (segs : ∀ g ∈ t.segs, g.state ≠ .retired ∧ g.state ≠ .revoked)
    (l1 : ∀ c ∈ t.mm.l1, t.strayCopy c = false) : Out.tidy (.next t) = .next t := by
  have noSeg : (t.segs.any fun g => g.state == .retired || g.state == .revoked) = false := by simpa using segs
  have noCopy : t.mm.l1.any t.strayCopy = false := by simpa using l1
  simp [Out.tidy, noSeg, State.regroup, noCopy]

end Sys2Proof.Machine
end

section
open Sys2Proof Sys2Proof.Machine

/-- Settles O58: the step is an issue of the sheaves' turn, whose branches the premises choose. -/
theorem stepRunsTheFetchedWord : Obligations.StepRunsTheFetchedWord := by
  refine ⟨fun s h g w i a v c may cg f d => ?word, fun s h g w a v c may cg f d => ?illegal, fun s h a v c wait => ?waits,
    fun s h => State.mayIssue_alone, fun s h g i j hg other core prio ready ready' pipe q due => ?after, State.stampIssue_eq,
    fun s h g c cur f q can seg live len hit => ?cached, fun t => Out.tidy_next_self⟩
  case word =>
    obtain ⟨t, e, run⟩ := issueCur_word c cg f d
    refine ⟨t, e, ?_⟩
    rw [step_issues a v, State.turnTaken, State.issueTurn_eq c, if_pos may, run]
  case illegal =>
    rw [step_issues a v, State.turnTaken, State.issueTurn_eq c, if_pos may, issueCur_illegal c cg f d]
    rfl
  case waits =>
    rw [step_issues a v, State.turnTaken, State.issueTurn_eq c, wait]
    rfl
  case after =>
    exact State.mayIssue_after hg other core ready (State.goesBefore_of_prio other core prio ready' pipe) q
      (decide_eq_false (Nat.not_le.mpr due))
  case cached =>
    have fetched := State.fetchFor_cached f q can seg live len hit
    exact ⟨fetched, fetched ▸ State.cur?_putSheaf cur rfl⟩
end

section
/-! SUPPORT. What a sheaf holds before its first instruction (02/R29), and a launch's sheaf its arguments (14/R322); SEQM after reset. -/

namespace Sys2Proof.Machine

/-- A list of equal values, read with that value as its default. -/
theorem getD_replicate_self {α : Type} (k n : Nat) (a : α) : (List.replicate k a).getD n a = a := by
  rw [List.getD_eq_getElem?_getD, List.getElem?_replicate]
  split <;> rfl

section
variable (uid : Nat) (shid : Word) (x : Footprint) (ctx : Nat) (pc : Pc) (seed : Nat)

theorem Sheaf.start_getS (n : Nat) : (Sheaf.start uid shid x ctx pc seed).getS n = 0 := by
  simp only [Sheaf.start, Sheaf.getS, getD_replicate_self, ite_self]

theorem Sheaf.start_getH (n : Nat) : (Sheaf.start uid shid x ctx pc seed).getH n = .empty := getD_replicate_self 32 n _

theorem Sheaf.start_lanes_length : (Sheaf.start uid shid x ctx pc seed).lanes.length = x.shln := by simp [Sheaf.start]

theorem Sheaf.start_tiles_length : (Sheaf.start uid shid x ctx pc seed).tiles.length = x.mt := by simp [Sheaf.start]

/-- Each lane starts with v registers of 0, k0 true and the other k registers false, at the position of its number. -/
theorem Sheaf.start_lane {l : Lane} (hl : l ∈ (Sheaf.start uid shid x ctx pc seed).lanes) :
    (∀ n, l.getV n = 0) ∧ (∀ n, l.getK n = (n == 0)) ∧ l.v.length = x.vn ∧ l.lid = l.lpos ∧ l.left = false := by
  obtain ⟨k, -, rfl⟩ := List.mem_map.mp hl
  refine ⟨fun n => getD_replicate_self x.vn n 0, fun n => ?_, List.length_replicate, rfl, rfl⟩
  show (n == 0 || (1 : BitVec 16).getLsbD n) = (n == 0)
  cases n <;> simp [BitVec.getLsbD_one]
end

/-- SEQM of every core reads 0 after reset (04/R105). -/
theorem Seqr.word_reset (core : Nat) : (State.reset.seqOf core).word = 0 := by
  have fresh : State.reset.seqOf core = ⟨core, false, false, 0, 0, none, 0, none⟩ := rfl
  simp [fresh, Seqr.word, bitNat]

/-- s56 to s63 of a launch's sheaf are the arguments of its packet. -/
theorem Launch.sheaf_getS_argument (l : Launch) (uid k cluster seed time : Nat) {n : Nat} (hn : n < 8) :
    (l.sheaf uid k cluster seed time).getS (56 + n) = BitVec.ofNat 32 (l.pkt (64 + 4 * n) 4) := by
  have lt : 56 + n < 64 := by omega
  simp [Launch.sheaf, Sheaf.getS, List.getD_eq_getElem?_getD, lt]

end Sys2Proof.Machine
end

section
open Sys2Proof Sys2Proof.Machine

/-- Settles O55: reset by computation, a new sheaf register file by register file. -/
theorem resetAndFirstInstruction : Obligations.ResetAndFirstInstruction := by
  refine ⟨⟨rfl, rfl, rfl, rfl, ?health, ?waymk, Seqr.word_reset, fun _ => rfl, ?memories, rfl, rfl⟩, fun _ => rfl, ?start,
    fun l uid k cluster seed time n hn => l.sheaf_getS_argument uid k cluster seed time hn⟩
  case health => decide
  case waymk => decide
  case memories => decide
  case start =>
    intro uid shid x ctx pc seed
    exact ⟨Sheaf.start_getS _ _ _ _ _ _, Sheaf.start_getH _ _ _ _ _ _, rfl, rfl, rfl, rfl, rfl, Sheaf.start_lanes_length _ _ _ _ _ _,
      Sheaf.start_tiles_length _ _ _ _ _ _, rfl, fun _ => Sheaf.start_lane _ _ _ _ _ _⟩
end

section
/-! SUPPORT. The operand log and the answers to Page Requests (02/R42; 17/R381 to R384): an access goes into the log refused or
behind another, traps leave the log alone, and what a late trap leaves in its sheaf. -/

namespace Sys2Proof.Machine

variable {s : State} {h : Sheaf} {uid : Nat}

/-- A step of an access that is there. -/
theorem State.withAcc_eq {a : AccId} {x : Access} (hs : s.sheaf? uid = some h) (hx : h.acc? a = some x)
    (k : Sheaf → Access → State) : s.withAcc uid a k = k h x := by
  simp only [State.withAcc, hs, hx]

/-- An access that its home refuses enters the log as the refusal says (17/R382). -/
theorem execOperandLogEntry_refused {a : AccId} {x : Access} {s1 : State} {r : Refused} (hs : s.sheaf? uid = some h)
    (hx : h.acc? a = some x) (room : s.logFull h.core = false) (alone : s.logBehind h x = none) (home : s.atHome h x = true)
    (noCopy : (s.copyFor h x).isNone ∨ x.kind ≠ .load) (hr : s.homeFor h x = (s1, .error r)) :
    execOperandLogEntry uid a s = .next (s1.logRefused h x r) := by
  have glob : x.space = .glob := by
    simp only [State.atHome, Bool.and_eq_true, beq_iff_eq] at home
    exact home.1.1
  have slm : ¬ (x.space == .slm) = true := by simp [glob]
  have copy : ¬ ((s.copyFor h x).isSome && x.kind == .load) = true := by
    rcases noCopy with n | n
    · simp [Option.isNone_iff_eq_none.mp n]
    · simp [n]
  rw [execOperandLogEntry, State.withAcc_eq hs hx]
  simp only [room, alone, slm, home, copy, hr, Bool.false_eq_true, if_false, if_true]

/-- An access behind a logged one goes into the log behind it, waiting for the same page where that one does (17/R384). -/
theorem execOperandLogEntry_behind {a : AccId} {x y : Access} (hs : s.sheaf? uid = some h)
    (hx : h.acc? a = some x) (room : s.logFull h.core = false) (behind : s.logBehind h x = some (some y)) :
    execOperandLogEntry uid a s = .next (s.logAccess h x
      (if y.addr / 65536 = x.addr / 65536 ∧ (s.flt.log.any fun e => e.uid == uid && e.state == 1 && e.accs.contains y.id) = true
        then 1 else 2) 6) := by
  rw [execOperandLogEntry, State.withAcc_eq hs hx]
  simp only [room, behind, Bool.false_eq_true, if_false, Option.any_some, Bool.and_eq_true, beq_iff_eq]

/-- Outside a stop, the access another goes into the log behind is an earlier logged one to its line (17/R384). -/
theorem State.logBehind_eq_some {x y : Access} (run : h.stop = none) (behind : s.logBehind h x = some (some y)) :
    MqEntry.acc y ∈ h.before x.id ∧ y.stage.logged? = true ∧ y.sameLine x = true ∧ x.stage.logged? = false := by
  unfold State.logBehind at behind
  split at behind
  · cases behind
  next fresh =>
    simp only [run, Option.isSome_none, Bool.false_and, Bool.or_false] at behind
    split at behind
    next z last =>
      obtain rfl : z = y := by simpa using behind
      obtain ⟨m, hm, hz⟩ := List.mem_filterMap.mp (List.mem_of_getLast? last)
      split at hz
      next z' =>
        split at hz
        next cond =>
          obtain rfl : z' = z := by simpa using hz
          obtain ⟨logged, line⟩ : z'.stage.logged? = true ∧ z'.sameLine x = true := by simpa using cond
          exact ⟨hm, logged, line, by simpa using fresh⟩
        · cases hz
      · cases hz
    · simp at behind

/-! Traps leave the operand log alone. -/

@[simp] theorem State.postFault_flt (s : State) (c : Nat) (b : List Byte) : (s.postFault c b).flt = s.flt := by
  unfold State.postFault
  repeat' split
  all_goals rfl

@[simp] theorem State.postFault_sheaves (s : State) (c : Nat) (b : List Byte) : (s.postFault c b).sheaves = s.sheaves := by
  unfold State.postFault
  repeat' split
  all_goals rfl

@[simp] theorem State.haltSheaf_flt (s : State) (h : Sheaf) (c : Nat) (a : DWord) (w : Word) (l : Bool) (pc : Pc) :
    (s.haltSheaf h c a w l pc).flt = s.flt := by
  simp [State.haltSheaf, State.postHalt]

@[simp] theorem State.takeTrap_flt (s : State) (h : Sheaf) (c : Nat) (a : DWord) (w : Word) (l : Bool) (pc ret : Pc) :
    (s.takeTrap h c a w l pc ret).flt = s.flt := by
  unfold State.takeTrap
  repeat' split
  · rfl
  all_goals simp

@[simp] theorem State.violateAll_log (s : State) (h : Sheaf) (cs : List (Nat × DWord)) :
    (s.violateAll h cs).flt.log = s.flt.log := by
  induction cs generalizing s with
  | nil => rfl
  | cons c cs ih =>
    rw [State.violateAll, ih]
    split <;> rfl

@[simp] theorem State.violateAll_sheaves (s : State) (h : Sheaf) (cs : List (Nat × DWord)) :
    (s.violateAll h cs).sheaves = s.sheaves := by
  induction cs generalizing s with
  | nil => rfl
  | cons c cs ih =>
    rw [State.violateAll, ih]
    split <;> rfl

@[simp] theorem State.raise_log (s : State) (h : Sheaf) (w : Word) (cs : List (Nat × DWord)) :
    (s.raise h w cs).flt.log = s.flt.log := by
  unfold State.raise
  split <;> simp

@[simp] theorem State.refusePark_log (s : State) (h : Sheaf) (va : Nat) (w : Option Word) :
    (s.refusePark h va w).flt.log = s.flt.log := by
  cases w <;> simp [State.refusePark, State.fetchTrap]

/-- Nor does refusing the parks of any number of sheaves. -/
theorem foldl_refusePark_log (r : PageReq) (hs : List Sheaf) (s : State) :
    (hs.foldl (fun (t : State) (h : Sheaf) => match h.parkedOn r with
      | some (va, w) => t.refusePark h va w
      | none => t) s).flt.log = s.flt.log := by
  refine List.foldlRecOn (motive := fun (t : State) => t.flt.log = s.flt.log) _ _ rfl fun t ht h _ => ?_
  split
  · exact (State.refusePark_log ..).trans ht
  · exact ht

/-! Answers to Page Requests. -/

/-- A sheaf that has been let go on is not parked. -/
theorem Sheaf.parkedOn_running (h : Sheaf) (r : PageReq) : ({ h with run := .running } : Sheaf).parkedOn r = none := rfl

/-- The end of a page response: no sheaf is parked on the page any more (17/R381). -/
theorem parkedOn_resumed {r : PageReq} (hs : List Sheaf) :
    ∀ h ∈ hs.map fun h => if (h.parkedOn r).isSome then { h with run := .running } else h, h.parkedOn r = none := by
  intro h hh
  obtain ⟨g, -, rfl⟩ := List.mem_map.mp hh
  split
  next => exact g.parkedOn_running r
  next n => simpa using n

/-- An answer removes its request. -/
theorem State.not_mem_answer_reqs (s : State) (r : PageReq) (n : Nat) : r ∉ (s.answer r n).flt.reqs := by
  simp [State.answer]

theorem State.answer_log_length (s : State) (r : PageReq) (n : Nat) : (s.answer r n).flt.log.length = s.flt.log.length := by
  simp [State.answer]

/-- The entries that wait for the page take the state of the answer. -/
theorem State.mem_answer_log {r : PageReq} {e : LogEntry} (n : Nat) (he : e ∈ s.flt.log) (w : s.waitsFor e r = true) :
    { e with state := n } ∈ (s.answer r n).flt.log :=
  List.mem_map.mpr ⟨e, he, by rw [if_pos w]⟩

/-- A successful response, by the operations that wait for the page: each translates its pages again (10/R289). -/
theorem execPageResponseSuccess_requested {r : PageReq} (asked : s.flt.reqs.contains r = true) :
    execPageResponseSuccess r s = .next
      (let u := (s.eng.ops.filter fun o => o.waitsFor r).foldl (fun (t : State) (o : Op) => t.resumeOp o) (s.answer r 2)
       { u with sheaves := u.sheaves.map fun h => if (h.parkedOn r).isSome then { h with run := .running } else h }) := by
  rw [execPageResponseSuccess, if_pos asked]
  rfl

/-- A refused response leaves in the log what the answer puts there. -/
theorem execPageResponseInvalidRequest_log {r : PageReq} (asked : s.flt.reqs.contains r = true) :
    ∃ t, execPageResponseInvalidRequest r s = .next t ∧ t.flt.log = (s.answer r 3).flt.log := by
  refine ⟨_, by rw [execPageResponseInvalidRequest, if_pos asked], ?_⟩
  refine (foldl_refusePark_log r _ _).trans ?_
  split <;> rfl

/-! Late traps. -/

/-- A trap writes its cause and address to the trap CSRs of its sheaf, whether it halts, enters the handler or ends a sequencer
sheaf (17/R385). -/
theorem State.takeTrap_csrs {h1 : Sheaf} (hs : s.sheaf? uid = some h) (e : h1.uid = uid) (c : Nat) (a : DWord) (w : Word) (l : Bool)
    (pc ret : Pc) : ∃ h', (s.takeTrap h1 c a w l pc ret).sheaf? uid = some h' ∧ h'.trap.c = trapcWord c l ∧ h'.trap.a = a := by
  have put {t : State} {g : Sheaf} (ts : t.sheaves = s.sheaves) (ge : g.uid = uid) : (t.putSheaf g).sheaf? uid = some g := by
    have ht : t.sheaf? uid = some h := by rw [State.sheaf?, ts]; exact hs
    rw [State.sheaf?_putSheaf, if_pos ge.symm, ht]
    rfl
  have halt (g : Sheaf) (ge : g.uid = uid) : ((s.fresh 1).haltSheaf g c a w l pc).sheaf? uid =
      some { g with run := .halted, chain := ⟨none, []⟩, fbuf := none, waiting := false } := by
    rw [State.sheaf?, State.haltSheaf, State.postHalt, State.postFault_sheaves]
    exact put rfl ge
  unfold State.takeTrap
  split
  · exact ⟨_, put rfl e, rfl, rfl⟩
  · dsimp only
    split
    · exact ⟨_, halt _ e, rfl, rfl⟩
    · split
      · exact ⟨_, halt _ e, rfl, rfl⟩
      · exact ⟨_, put rfl (by simpa [Sheaf.trapCsrs] using e), by simp [Sheaf.trapCsrs], by simp [Sheaf.trapCsrs]⟩

/-- At the boundary of a running sheaf its oldest refused instruction traps, with an entry of its lowest cause. -/
theorem execLateTrap_boundary {e : LogEntry} (hs : s.sheaf? uid = some h)
    (found : ((oldestUnit (s.lateEntries h)).find? fun e => (oldestUnit (s.lateEntries h)).all fun f => e.cause ≤ f.cause) = some e)
    (run : h.run = .running) (path : h.path.isSome = true) (chain : h.chain.pc0 = none) (arr : h.arr = none) :
    ∃ (s1 : State) (h1 : Sheaf), s1.sheaves = s.sheaves ∧ h1.uid = h.uid ∧ execLateTrap uid s = .next (s1.takeTrap h1 e.cause
      (lowestLane ((oldestUnit (s.lateEntries h)).filter fun x => x.cause == e.cause)) e.insn
      ((oldestUnit (s.lateEntries h)).any fun x => x.cause == e.cause && s.flt.log.contains x) e.pc e.pc) := by
  simp only [execLateTrap, hs, found, run, path, chain, arr]
  refine ⟨_, _, ?_, ?_, rfl⟩
  · simp [State.trimLog]
  · rfl

theorem oldestUnit_singleton (e : LogEntry) : oldestUnit [e] = [e] := by simp [oldestUnit]

end Sys2Proof.Machine
end

section
open Sys2Proof Sys2Proof.Machine

/-- Settles O28: each step by the branch that its premises choose. -/
theorem operandLogAndPages : Obligations.OperandLogAndPages := by
  refine ⟨fun uid a s s1 h x r hs hx room alone home noCopy hr => ?refused, fun uid a s h x y hs hx room behind => ?behind,
    fun s h x y run behind => State.logBehind_eq_some run behind, fun r s o asked one => ?oneWaits, fun r s asked none_ => ?noneWaits,
    fun r s asked => ?invalid, fun uid seq s h e hs oldest hseq state awake => ?replay,
    fun uid s h e hs late run path chain arr => ?single, fun uid s t h e hs he least run path chain arr next => ?csrs,
    fun uid s h hs late => ?noLate, fun uid s h hs => ?fetch, fun uid s => rfl⟩
  case refused =>
    refine (execOperandLogEntry_refused hs hx room alone home noCopy hr).trans ?_
    cases r <;> rfl
  case behind => exact execOperandLogEntry_behind hs hx room behind
  case oneWaits =>
    refine (execPageResponseSuccess_requested asked).trans ?_
    rw [one]
    rfl
  case noneWaits =>
    have noOp : (s.eng.ops.filter fun o => o.waitsFor r) = [] := List.filter_eq_nil_iff.mpr fun o ho => by simp [none_ o ho]
    refine ⟨_, execPageResponseSuccess_requested asked, ?_⟩
    rw [noOp]
    exact ⟨s.not_mem_answer_reqs r 2, parkedOn_resumed _, s.answer_log_length r 2⟩
  case invalid =>
    obtain ⟨t, run, log⟩ := execPageResponseInvalidRequest_log asked
    exact ⟨t, run, fun e he w => log ▸ State.mem_answer_log 3 he w⟩
  case replay =>
    show execOperandLogReplay uid seq s = _
    simp [execOperandLogReplay, hs, oldest, hseq, state, awake]
  case single =>
    show execLateTrap uid s = _
    simp only [execLateTrap, hs, late, oldestUnit_singleton, run, path, chain, arr]
    simp
  case csrs =>
    obtain ⟨e', found⟩ : ∃ e', ((oldestUnit (s.lateEntries h)).find? fun e =>
        (oldestUnit (s.lateEntries h)).all fun f => e.cause ≤ f.cause) = some e' := by
      rw [← Option.isSome_iff_exists, List.find?_isSome]
      exact ⟨e, he, by simpa using least⟩
    have least' : ∀ x ∈ oldestUnit (s.lateEntries h), e'.cause ≤ x.cause := by simpa using List.find?_some found
    have cause : e'.cause = e.cause := le_antisymm (least' e he) (least e' (List.mem_of_find?_eq_some found))
    obtain ⟨s1, h1, sheaves, uid1, trap⟩ := execLateTrap_boundary hs found run path chain arr
    obtain rfl := (Host.Outcome.next.inj (trap.symm.trans next))
    rw [← cause]
    exact State.takeTrap_csrs (h := h) (by rw [State.sheaf?, sheaves]; exact hs)
      (uid1.trans (by simpa using List.find?_some hs)) ..
  case noLate =>
    show execLateTrap uid s = _
    simp [execLateTrap, hs, late, oldestUnit]
  case fetch =>
    show execFetch uid s = _
    rw [execFetch, hs]
end

section
/-! SUPPORT. Launch packets (14/R323, R324): the reason of a rejection, what the arbiter finds at words that are at hand, and the
two outcomes of the check. -/

namespace Sys2Proof.Machine

variable {s : State}

/-- The reasons below the mapper's stand as they are. -/
theorem State.lowestReason_of_fixed {ctx r : Nat} {p : List Byte} (hr : r ≤ 2 ∨ r = 4) : s.lowestReason ctx p r = r := by
  have e : (decide (r ≤ 2) || r == 4) = true := by simpa using hr
  rw [State.lowestReason, if_pos e]

/-- The mapper's own reason counts where it is lower. -/
theorem State.lowestReason_of_error {ctx r m : Nat} {p : List Byte} (h2 : 2 < r) (h4 : r ≠ 4) (hm : m ≠ 4)
    (e : (s.mapPacket ctx p).2 = .error m) : s.lowestReason ctx p r = min r m := by
  have later : ¬ (decide (r ≤ 2) || r == 4) = true := by simp [h4, h2]
  rw [State.lowestReason, if_neg later, e]
  split
  next h => exact absurd (by simpa using h) hm
  next h => cases h
  next h => obtain rfl : m = _ := by simpa using h
            rfl

/-- A packet that maps has no reason of the mapper's. -/
theorem State.lowestReason_of_ok {ctx r : Nat} {p : List Byte} {q : Mapped} (e : (s.mapPacket ctx p).2 = .ok q) :
    s.lowestReason ctx p r = r := by
  rw [State.lowestReason, e]
  exact ite_self r

/-- The reason given is never above the one found. -/
theorem State.lowestReason_le (s : State) (ctx r : Nat) (p : List Byte) : s.lowestReason ctx p r ≤ r := by
  unfold State.lowestReason
  split
  · exact le_rfl
  · split
    · exact le_rfl
    · exact le_rfl
    · exact Nat.min_le_left ..

/-- The arbiter passes over words that are at hand without a change. -/
theorem foldl_arbAccess_ok {ctx die : Nat} (ws : List (Nat × Bool)) (rs : List ArbRes)
    (ok : ∀ w ∈ ws, s.arbAccess ctx die w.1 w.2 = (s, .ok)) :
    ws.foldl (fun (q : State × List ArbRes) (w : Nat × Bool) =>
      let r := q.1.arbAccess ctx die w.1 w.2
      (r.1, q.2 ++ [r.2])) (s, rs) = (s, rs ++ List.replicate ws.length .ok) := by
  induction ws generalizing rs with
  | nil => simp
  | cons w ws ih =>
    obtain ⟨hw, hws⟩ := List.forall_mem_cons.mp ok
    rw [List.foldl_cons, hw]
    exact (ih _ hws).trans (by simp [List.replicate_succ])

/-- A head packet with bad fields that names no word of memory is rejected with reason 0x01 (14/R323). -/
theorem execLaunchPacketCheck_badFields {port : Nat} {m : Mbx} {c : Ctx} {p : List Byte} {rest : List (List Byte)}
    (hm : s.mbx? port = some m) (kind : m.kind = 2) (head : m.msgs = p :: rest) (ctx : s.ctx? m.ctx = some c)
    (runs : c.stopped = false) (noNest : natAt p 0 1 ≠ 1) (noWord : wordsOf p = []) (bad : badFields p = true) :
    execLaunchPacketCheck port s = .next
      (((s.modMbx port fun x => { x with msgs := rest }).forget (dieOfPos port) m.ctx []).postReject m.ctx port 1) := by
  simp [execLaunchPacketCheck, hm, head, ctx, kind, runs, noNest, noWord, bad, State.lowestReason_of_fixed]

/-- A head packet that passes every check, with its words and its descriptor at hand, becomes a launch (14/R323, R324). -/
theorem execLaunchPacketCheck_accepted {port : Nat} {m : Mbx} {c : Ctx} {p : List Byte} {rest : List (List Byte)} {g : Seg}
    {e : EntryRec} (hm : s.mbx? port = some m) (kind : m.kind = 2) (head : m.msgs = p :: rest) (ctx : s.ctx? m.ctx = some c)
    (runs : c.stopped = false) (fields : badFields p = false)
    (entry : s.checkEntry m.ctx (BitVec.ofNat 64 (natAt p 8 8)) [.live] = some (g, e)) (launch : e.launch = true)
    (ranges : badRanges p (some e) = false)
    (nest : natAt p 0 1 = 1 → natAt p 16 8 % 16 = 0 ∧
      ∃ d ds, s.globBytes m.ctx (natAt p 16 8) 80 = (s, some d) ∧ descOf d = some ds)
    (words : ∀ w ∈ wordsOf p, s.arbAccess m.ctx (dieOfPos port) w.1 w.2 = (s, .ok)) :
    let s1 := (s.modMbx port fun x => { x with msgs := rest }).fresh 1
    execLaunchPacketCheck port s = .next ((State.ready { s1 with job := { s1.job with launches := s1.job.launches ++
      [⟨s.ctl.nextId, m.ctx, dieOfPos port, port, p, 0xFFFFFFFF, [depCmp p 0 == 0, depCmp p 1 == 0], false, [], [], [], [], 0, 0, 0,
        g.entryPc e, 0, 0, 0, 0, false⟩] } } s.ctl.nextId).number s.ctl.nextId) := by
  simp only [execLaunchPacketCheck, hm, head, ctx, kind, runs, fields, entry, Option.map_some, Option.getD_some, launch, ranges,
    foldl_arbAccess_ok _ _ words]
  by_cases k : natAt p 0 1 = 1
  · obtain ⟨al, d, ds, read, desc⟩ := nest k
    simp [k, al, read, desc, List.mem_replicate]
  · simp [k, List.mem_replicate]

/-- The comparisons of a dependence (14/R324). -/
theorem depHolds_eq (w t : Word) :
    depHolds 1 w t = (w == t) ∧ depHolds 2 w t = (w != t) ∧ depHolds 3 w t = t.ule w ∧ depHolds 4 w t = t.sle w :=
  ⟨rfl, rfl, rfl, BitVec.sle_eq_not_slt.symm⟩

/-- A dependence whose word is at hand is compared, and with both satisfied the launch becomes ready (14/R324). -/
theorem execDependenceRead_read {s1 s2 : State} {id k : Nat} {l : Launch} {bs : List Byte} (hl : s.launch? id = some l)
    (unready : l.ready = false) (hk : k < 2) (openDep : l.deps.getD k true = false) (runs : s.ctxStopped l.ctx = false)
    (access : s.arbAccess l.ctx l.die (depAddr l.packet k) false = (s1, .ok))
    (read : s1.globBytes l.ctx (depAddr l.packet k) 4 = (s2, some bs)) :
    execDependenceRead id k s = .next (
      if depHolds (depCmp l.packet k) (BitVec.ofNat 32 (leNat bs)) (depTgt l.packet k) then
        (s2.modLaunch id fun x => { x with deps := x.deps.set k true }).ready id else s2) := by
  have waits : ¬ (l.ready || decide (k ≥ 2) || l.deps.getD k true || s.ctxStopped l.ctx) = true := by
    rw [unready, openDep, runs, decide_eq_false (Nat.not_le.mpr hk)]
    decide
  simp only [execDependenceRead, hl, if_neg waits, access, read]

end Sys2Proof.Machine
end

section
/-! SUPPORT. Admission of a sheaf and its placement (14/R338, R340). -/

namespace Sys2Proof.Machine

variable {s : State}

/-- A launch that is neither COOP nor made of units takes in its next sheaf within the budgets, where the cluster can seat it. -/
theorem State.tryAdmit_single {cluster : Nat} {l : Launch} {c : Ctx} (ctx : s.ctx? l.ctx = some c) (ready : l.ready = true)
    (left : l.started < l.n) (runs : c.stopped = false) (hc : cluster < 24) (coop : l.coop = false) (unit : l.unitN = 0)
    (budget : s.budgets c 1 = true) (free : s.clusterOpen cluster l.ctx l.fused = true) (up : s.partDown 2 cluster = false) :
    s.tryAdmit l cluster =
      (some ((s.addSheaf l l.started cluster none).modLaunch l.id fun x => { x with started := x.started + 1 })).filter
        fun t => t.seats cluster := by
  have takesIn : s.admitUnit l l.started 1 cluster false false =
      some ((s.addSheaf l l.started cluster none).modLaunch l.id fun x => { x with started := x.started + 1 }) := by
    simp [State.admitUnit, free, up, List.range_succ]
  simp [State.tryAdmit, ctx, ready, Nat.not_le.mpr left, runs, Nat.not_le.mpr hc, coop, unit, budget, takesIn]

/-- The launch considered first takes in a sheaf if the cluster can seat it, and else waits (14/R338). -/
theorem execSheafAdmit_first {id cluster : Nat} {l : Launch} {t : State} (hl : s.launch? id = some l)
    (first : (s.job.launches.any fun x => x.waits && x.before l && (List.range 24).any fun k => (s.tryAdmit x k).isSome) = false)
    (coop : s.coopFirst l = false) (takesIn : s.tryAdmit l cluster = (some t).filter fun t => t.seats cluster) :
    execSheafAdmit id cluster s = .next (if t.seats cluster then t else s) := by
  simp only [execSheafAdmit, hl, first, coop, takesIn, Bool.or_self, Bool.false_eq_true, if_false]
  cases h : t.seats cluster <;> simp [Option.filter, h]

/-- A waiting sheaf that is no task goes to a core of its cluster that it fits (14/R340). -/
theorem execSheafPlace_fits {uid core : Nat} {h : Sheaf} (hs : s.sheaf? uid = some h) (waits : h.run = .waiting)
    (here : clusterOf core = clusterOf h.core) (runs : s.ctxStopped h.ctx = false) (fits : s.fitsOn core (s.footprint h) = true)
    (free : s.clusterOpen (clusterOf core) h.ctx h.admitFused = true) (task : h.task = false) :
    execSheafPlace uid core s = .next (s.placeOn h core) := by
  rw [here] at free
  simp [execSheafPlace, hs, waits, here, runs, fits, free, task]

/-! Moving allotments and preparing one keep every sheaf there. -/

theorem State.sheaf?_congr {t : State} (e : t.sheaves = s.sheaves) (u : Nat) : t.sheaf? u = s.sheaf? u := by
  rw [State.sheaf?, State.sheaf?, e]

/-- A sheaf is found by its identifier wherever it stands in the list. -/
theorem State.sheaf?_isSome (s : State) (u : Nat) : (s.sheaf? u).isSome = true ↔ u ∈ s.sheaves.map (·.uid) := by
  simp [State.sheaf?, List.find?_isSome]

/-- A sheaf after a change that keeps its identifier. -/
theorem State.sheaf?_modSheaf (s : State) (u : Nat) (f : Sheaf → Sheaf) (keeps : ∀ x, (f x).uid = x.uid) :
    (s.modSheaf u f).sheaf? u = (s.sheaf? u).map f := by
  unfold State.sheaf? State.modSheaf
  induction s.sheaves with
  | nil => rfl
  | cons x l ih => by_cases e : x.uid = u <;> simp_all

theorem State.modSheaf_uids (s : State) (u : Nat) (f : Sheaf → Sheaf) (keeps : ∀ x, (f x).uid = x.uid) :
    (s.modSheaf u f).sheaves.map (·.uid) = s.sheaves.map (·.uid) := by
  simp only [State.modSheaf, List.map_map]
  refine List.map_congr_left fun x _ => ?_
  simp only [Function.comp]
  split
  · exact keeps x
  · rfl

@[simp] theorem State.hold1K_sheaves (s : State) (core base kib ctx : Nat) : (s.hold1K core base kib ctx).sheaves = s.sheaves := rfl

/-- `change` names the two branches: unfolding would have the kernel compare the allotments' addresses. -/
theorem State.moveAlloc_uids (s : State) (h : Sheaf) (base : Nat) :
    (s.moveAlloc h base).sheaves.map (·.uid) = s.sheaves.map (·.uid) := by
  change (if h.scrAbs 0 == h.core * scratchSize + base * 1024 then s else _).sheaves.map (·.uid) = _
  split
  · rfl
  · change (State.hold1K (State.modSheaf _ _ _) _ _ _ _).sheaves.map (·.uid) = _
    rw [State.hold1K_sheaves, State.modSheaf_uids _ _ _ (by intro; rfl)]

theorem State.compactCore_uids (s : State) (core : Nat) :
    (s.compactCore core).sheaves.map (·.uid) = s.sheaves.map (·.uid) :=
  List.foldlRecOn (motive := fun (q : State × Nat) => q.1.sheaves.map (·.uid) = s.sheaves.map (·.uid)) _ _ rfl
    fun q hq h _ => (State.moveAlloc_uids q.1 h q.2).trans hq

/-- Preparing units touches no sheaf. -/
@[simp] theorem State.prepare_sheaves (s : State) (core base kib ctx : Nat) : (s.prepare core base kib ctx).sheaves = s.sheaves := by
  refine List.foldlRecOn (motive := fun (t : State) => t.sheaves = s.sheaves) _ _ rfl fun t ht u _ => ?_
  dsimp only
  split <;> exact ht

/-- A sheaf that is placed runs on its core, with the size of its allotment and no saved image (14/R340). -/
theorem State.sheaf?_placeOn {h : Sheaf} (core : Nat) (there : (s.sheaf? h.uid).isSome = true) :
    ((s.placeOn h core).sheaf? h.uid).map (fun x => (x.run, x.core, x.alloc.kib, x.saved)) =
      some (.running, core, h.alloc.kib, []) := by
  unfold State.placeOn
  dsimp only
  rw [State.sheaf?_modSheaf _ _ _ (by intro; rfl), Option.map_map]
  have still : ((if (s.gapOn core h.alloc.kib).isSome then s else s.compactCore core).sheaf? h.uid).isSome = true := by
    split
    · exact there
    · rwa [State.sheaf?_isSome, State.compactCore_uids, ← State.sheaf?_isSome]
  obtain ⟨x, hx⟩ := Option.isSome_iff_exists.mp still
  refine (congrArg _ ((State.sheaf?_congr ?_ _).trans hx)).trans rfl
  split <;> simp

end Sys2Proof.Machine
end

section
/-! SUPPORT. Groups of tasks (14/R335), the end of a sheaf (02/R22) and of a launch (14/R325). -/

namespace Sys2Proof.Machine

variable {s : State}

/-- The least of a list and a first value is at most each member. -/
theorem foldl_min_le (l : List Nat) (b : Nat) {x : Nat} (hx : x ∈ b :: l) : l.foldl min b ≤ x := by
  induction l generalizing b x with
  | nil => simp_all
  | cons y l ih =>
    rw [List.foldl_cons]
    rcases List.mem_cons.mp hx with rfl | hx
    · exact (ih _ List.mem_cons_self).trans (Nat.min_le_left ..)
    · rcases List.mem_cons.mp hx with rfl | hx
      · exact (ih _ List.mem_cons_self).trans (Nat.min_le_right ..)
      · exact ih _ (List.mem_cons_of_mem _ hx)

/-- No more time passes at once than until a group is due. -/
theorem State.slack_le_groupDue {cluster d : Nat} {g : Nat × DWord} (hc : cluster < 24) (hg : g ∈ s.groups cluster)
    (due : s.groupDue cluster g = some d) : s.slack ≤ d := by
  refine foldl_min_le _ _ (List.mem_cons_of_mem _ ?_)
  simp only [List.mem_append, State.groupSlack, List.mem_flatMap, List.mem_filterMap, List.mem_range]
  exact .inl (.inl (.inl ⟨cluster, hc, g, hg, due⟩))

/-- Time passes by at most the slack. -/
theorem State.elapse_time (s : State) (ns : Nat) : (s.elapse ns).ctl.time = s.ctl.time + min ns s.slack := rfl

/-- A group that can close is due at 32 tasks, or 2 µs after its first one. -/
theorem State.groupDue_eq {cluster ctx : Nat} {cap : DWord} {t : Task} {ts : List Task} {g : Seg} {e : EntryRec}
    (tasks : s.groupTasks cluster (ctx, cap) = t :: ts) (seg : s.seg? (capSeg cap).toNat = some g)
    (entry : g.elist[(capEnt cap).toNat]? = some e) (runs : s.ctxStopped ctx = false) :
    s.groupDue cluster (ctx, cap) = some (if ts.length == 31 then 0 else t.at_ + 2000 - s.ctl.time) := by
  simp [State.groupDue, tasks, seg, entry, runs]

/-- No time passes over the instant at which a group must close (14/R335). -/
theorem State.elapse_le_groupDue {cluster k ctx : Nat} {cap : DWord} {t : Task} {ts : List Task} {g : Seg} {e : EntryRec} (ns : Nat)
    (hc : cluster < 24) (hg : (s.groups cluster)[k]? = some (ctx, cap)) (tasks : s.groupTasks cluster (ctx, cap) = t :: ts)
    (seg : s.seg? (capSeg cap).toNat = some g) (entry : g.elist[(capEnt cap).toNat]? = some e) (runs : s.ctxStopped ctx = false)
    (now : s.ctl.time ≤ t.at_ + 2000) :
    (s.elapse ns).ctl.time ≤ t.at_ + 2000 ∧ (ts.length = 31 → (s.elapse ns).ctl.time = s.ctl.time) := by
  have slack := State.slack_le_groupDue hc (List.mem_of_getElem? hg) (State.groupDue_eq tasks seg entry runs)
  rw [State.elapse_time]
  constructor
  · split at slack <;> omega
  · intro full
    rw [if_pos (by simpa using full)] at slack
    omega

/-- A group of a stopped context stays (14/R336). -/
theorem execGroupClose_stopped {cluster k ctx : Nat} {cap : DWord} (hg : (s.groups cluster)[k]? = some (ctx, cap))
    (stopped : s.ctxStopped ctx = true) : execGroupClose cluster k s = .next s := by
  simp [execGroupClose, hg, stopped]

/-- Each lane of a task sheaf gets the eight registers of its task. -/
theorem zip_lanes_registers {ls : List Lane} {ts : List Task} (len : ls.length = ts.length) (eight : ∀ t ∈ ts, t.regs.length = 8) :
    (((ls.zip ts).map fun p => { p.1 with v := p.2.regs ++ p.1.v.drop 8 } : List Lane).map fun l => l.v.take 8) = ts.map (·.regs) := by
  rw [List.map_map]
  refine Eq.trans (List.map_congr_left fun p hp => ?_) ((List.map_map ..).symm.trans (congrArg _ (List.map_snd_zip len.ge)))
  exact List.take_left' (eight p.2 (List.of_mem_zip hp).2)

/-- A full group, or one whose time has come, becomes one waiting task sheaf, a lane to a task (14/R335). -/
theorem execGroupClose_closes {cluster k ctx : Nat} {cap : DWord} {g : Seg} {e : EntryRec} {ts : List Task}
    (hg : (s.groups cluster)[k]? = some (ctx, cap)) (tasks : s.groupTasks cluster (ctx, cap) = ts)
    (seg : s.seg? (capSeg cap).toNat = some g)
    (entry : g.elist[(capEnt cap).toNat]? = some e) (runs : s.ctxStopped ctx = false) (nonempty : ts ≠ [])
    (due : ts.length = 32 ∨ ∀ t, ts.head? = some t → t.at_ + 2000 ≤ s.ctl.time) (eight : ∀ t ∈ ts, t.regs.length = 8) :
    let mine := fun (t : Nat × Task) => t.1 == cluster && t.2.ctx == ctx && t.2.cap == cap
    ∃ t h, execGroupClose cluster k s = .next t ∧ t.sheaves = s.sheaves ++ [h] ∧ h.task = true ∧ h.shln = ts.length ∧
      h.ctx = ctx ∧ h.run = .waiting ∧ h.path.map (·.pc) = some ⟨BitVec.ofNat 16 g.idx, capGen cap, e.off⟩ ∧
      t.job.tasks = (s.job.tasks.filter fun x => !mine x) ++ (s.job.tasks.filter mine).drop 32 ∧
      (h.lanes.map fun l => l.v.take 8) = ts.map (·.regs) := by
  intro mine
  obtain ⟨t0, tl, rfl⟩ := List.exists_cons_of_ne_nil nonempty
  have closes : ((t0 :: tl).length == 32 || decide (t0.at_ + 2000 ≤ s.ctl.time)) = true := by
    rcases due with full | late
    · simp only [full, beq_self_eq_true, Bool.true_or]
    · simp only [late t0 rfl, decide_true, Bool.or_true]
  have tasks' : ((s.job.tasks.filter mine).map (·.2)).take 32 = t0 :: tl := tasks
  simp only [execGroupClose, hg, runs, Bool.false_eq_true, if_false, mine] at tasks' ⊢
  simp only [tasks', seg, entry, closes, if_true]
  refine ⟨_, _, rfl, rfl, rfl, rfl, rfl, rfl, rfl, rfl, ?_⟩
  exact zip_lanes_registers (Sheaf.start_lanes_length ..) eight

/-- A drained sheaf is freed; another one stays (02/R22). -/
theorem execDrainEnd_draining {uid : Nat} {h : Sheaf} (hs : s.sheaf? uid = some h) (run : h.run = .draining) :
    execDrainEnd uid s = .next (if s.drained h then s.freeSheaf h else s) := by
  simp [execDrainEnd, hs, run]

/-- A freed sheaf is no sheaf of the machine. -/
theorem State.sheaf?_freeSheaf (s : State) (h : Sheaf) : (s.freeSheaf h).sheaf? h.uid = none := by
  have left : (s.freeSheaf h).sheaves = (s.leaveStook h.uid).sheaves.filter fun x => x.uid != h.uid := rfl
  simp [State.sheaf?, left]

/-! The end of a launch, by what stands at its completion word. -/

section
variable {id : Nat} {l : Launch}

theorem execLaunchComplete_waits (hl : s.launch? id = some l) (w : s.launchOver l = false ∨ s.ctxStopped l.ctx = true) :
    execLaunchComplete id s = .next s := by
  have wait : (!s.launchOver l || s.ctxStopped l.ctx) = true := by
    rcases w with w | w <;> simp [w]
  simp only [execLaunchComplete, hl, wait, if_true]

variable (hl : s.launch? id = some l) (ended : s.launchOver l = true) (runs : s.ctxStopped l.ctx = false)
include hl ended runs

theorem execLaunchComplete_noWord (a : natAt l.packet 56 8 = 0) : execLaunchComplete id s = .next (s.endLaunch l) := by
  simp [execLaunchComplete, hl, ended, runs, Launch.pkt, a]

/-- The page of the word is not there, or not allowed (14/R325). -/
theorem execLaunchComplete_lost {s1 : State} (a : natAt l.packet 56 8 ≠ 0) (free : s.lineHeld l.ctx (natAt l.packet 56 8) = false)
    (home : s.homeOf l.ctx (natAt l.packet 56 8) .both = (s1, .denied) ∨ s.homeOf l.ctx (natAt l.packet 56 8) .both = (s1, .absent)) :
    execLaunchComplete id s = .next (s1.lostCompletion l) := by
  rcases home with home | home <;> simp [execLaunchComplete, hl, ended, runs, Launch.pkt, a, free, home]

/-- The word is at hand and its bytes are good. -/
theorem execLaunchComplete_counts {s1 : State} {x : Home} (a : natAt l.packet 56 8 ≠ 0)
    (free : s.lineHeld l.ctx (natAt l.packet 56 8) = false) (home : s.homeOf l.ctx (natAt l.packet 56 8) .both = (s1, .ok x))
    (good : x.badAt (natAt l.packet 56 8 % 128) 4 = false) :
    execLaunchComplete id s = .next ((s1.homeWrite l.ctx (l.die * 288) 0 x (natAt l.packet 56 8 % 128)
      (bvLe (BitVec.ofNat 32 (leNat (lineBytes x.data (natAt l.packet 56 8 % 128) 4)) + 1) 4)).1.endLaunch l) := by
  simp [execLaunchComplete, hl, ended, runs, Launch.pkt, a, free, home, good]
end

end Sys2Proof.Machine
end

section
open Sys2Proof Sys2Proof.Machine

/-- Settles O47: each step by the branch that its premises choose. -/
theorem launchesAreCheckedAndAdmitted : Obligations.LaunchesAreCheckedAndAdmitted := by
  refine ⟨fun s port m c p rest hm kind head ctx runs noNest noWord bad =>
      execLaunchPacketCheck_badFields hm kind head ctx runs noNest noWord bad,
    fun s ctx r p q => ⟨s.lowestReason_le ctx r p, State.lowestReason_of_fixed, fun m h2 h4 => State.lowestReason_of_error h2 h4,
      State.lowestReason_of_ok⟩,
    fun s port m c p rest g e hm kind head ctx runs fields entry launch ranges nest words =>
      execLaunchPacketCheck_accepted hm kind head ctx runs fields entry launch ranges nest words,
    depHolds_eq,
    fun s s1 s2 id k l bs hl unready hk openDep runs access read => execDependenceRead_read hl unready hk openDep runs access read,
    fun s id cluster l c hl ctx first coopFirst ready left runs hc coop unit budget free up => ?takesIn,
    fun s uid core h hs waits here runs fits free task => ⟨execSheafPlace_fits hs waits here runs fits free task, ?placed⟩,
    fun s ns cluster k ctx cap t ts g e hc hg tasks seg entry runs now => State.elapse_le_groupDue ns hc hg tasks seg entry runs now,
    fun s cluster k ctx cap g e hg seg entry runs nonempty due eight =>
      execGroupClose_closes hg rfl seg entry runs nonempty due eight,
    fun s cluster k ctx cap hg stopped => execGroupClose_stopped hg stopped,
    fun s uid h hs run => ⟨execDrainEnd_draining hs run, ?freed⟩,
    fun s s1 id l x hl => ⟨execLaunchComplete_waits hl, execLaunchComplete_noWord hl,
      fun ended runs a free home => execLaunchComplete_lost hl ended runs a free home,
      fun ended runs a free home good => execLaunchComplete_counts hl ended runs a free home good⟩⟩
  case takesIn =>
    exact execSheafAdmit_first hl first coopFirst (State.tryAdmit_single ctx ready left runs hc coop unit budget free up)
  case placed =>
    obtain rfl : h.uid = uid := by simpa using List.find?_some hs
    exact State.sheaf?_placeOn core (Option.isSome_of_eq_some hs)
  case freed =>
    obtain rfl : h.uid = uid := by simpa using List.find?_some hs
    exact s.sheaf?_freeSheaf h
end

section
/-! SUPPORT. The counts of the shifts (03/R45): the model takes a count modulo 32 or 64, the rule its low bits; the bits that a
shift to the right fills. -/

namespace Sys2Proof.Machine

theorem sh5_eq (b : Word) : sh5 b = (b.extractLsb' 0 5).toNat := by simp [sh5]

theorem sh6_eq (b : Word) : sh6 b = (b.extractLsb' 0 6).toNat := by simp [sh6]

theorem immSh_eq (imm : BitVec 11) : immSh imm = (imm.extractLsb' 0 5).toNat := by simp [immSh]

/-- A bit of a shift to the right with zeros, of any width. -/
theorem getLsbD_shiftRight_zeros {w : Nat} (a : BitVec w) (n k : Nat) :
    (a >>> n).getLsbD k = (decide (k + n < w) && a.getLsbD (k + n)) := by
  rw [BitVec.getLsbD_ushiftRight, Nat.add_comm n k]
  by_cases h : k + n < w
  · simp [h]
  · simp [h, BitVec.getLsbD_of_ge a (k + n) (Nat.le_of_not_lt h)]

/-- A bit of a shift of a word to the right with copies of the sign bit. -/
theorem getLsbD_sshiftRight_sign (a : Word) (n k : Nat) (hk : k < 32) :
    (a.sshiftRight n).getLsbD k = if k + n < 32 then a.getLsbD (k + n) else a.getLsbD 31 := by
  rw [BitVec.getLsbD_sshiftRight, BitVec.msb_eq_getLsbD_last, Nat.add_comm n k]
  simp [Nat.not_le.2 hk]

end Sys2Proof.Machine
end

section
open Sys2Proof Sys2Proof.Machine

/-- Settles O10: each form is ready, so it has its own effect, with the count's low bits. -/
theorem shiftsUseLowCountBits : Obligations.ShiftsUseLowCountBits := by
  refine ⟨?scalar, ?scalarImm, ?lanes, ?lanesImm, ?left64, ?right64,
    fun w n k _ hk => ⟨getLsbD_shiftRight_zeros w n k, getLsbD_sshiftRight_sign w n k hk⟩,
    fun w n k _ _ => getLsbD_shiftRight_zeros w n k⟩
  all_goals
    simp only [shiftKinds, List.zip_cons_cons, List.zip_nil_left, List.forall_mem_cons, List.not_mem_nil, false_implies,
      implies_true, and_true, ← sh5_eq, ← sh6_eq, ← immSh_eq]
  case scalar | scalarImm =>
    and_intros
    all_goals exact fun o s h r => scalar_ready r ..
  case lanes | lanesImm =>
    and_intros
    all_goals exact fun o s h r => swept_ready r _
  case left64 | right64 => exact fun o s h r => scalarPair_ready r ..
end

section
/-! SUPPORT. Rows of tiles (10/R285): what a commit leaves, and when ROW_COMMIT commits. -/

namespace Sys2Proof.Machine

variable {s : State} {id : Nat} {o : Op} {h : Sheaf}

theorem opRuns_id (r : opRuns s id o h) : o.id = id := by
  obtain ⟨found, -, -, -⟩ := r
  simpa using List.find?_some found

/-- A step of a running operation is taken on it and its sheaf. -/
theorem State.withOp_runs (r : opRuns s id o h) (k : Op → Sheaf → State) : s.withOp id k = k o h := by
  obtain ⟨found, live, awake, sheaf⟩ := r
  simp [State.withOp, found, live, awake, sheaf]

/-- The tile of a committed row holds it, good, beside its other rows. -/
theorem Sheaf.commit_tile_same (h : Sheaf) {n : Nat} (r : Nat) (w : List Word) (hn : n < h.tiles.length) :
    (h.commit n r w).tile n = { h.tile n with
      rows := (h.tile n).rows.set r (some w), bad := (h.tile n).bad &&& ~~~((1 : BitVec 64) <<< r) } := by
  simp [Sheaf.commit, Sheaf.tile, hn]

theorem Sheaf.commit_tile_other (h : Sheaf) {n m : Nat} (r : Nat) (w : List Word) (e : m ≠ n) :
    (h.commit n r w).tile m = h.tile m := by
  simp [Sheaf.commit, Sheaf.tile, List.getElem?_set_ne e.symm]

theorem Sheaf.commit_row_same {n r : Nat} (w : List Word) (hn : n < h.tiles.length) (hr : r < (h.tile n).rows.length) :
    ((h.commit n r w).tile n).row r = w := by
  simp [Sheaf.commit_tile_same h r w hn, Tile.row, hr]

theorem Sheaf.commit_rowBad {n r : Nat} (w : List Word) (hn : n < h.tiles.length) : (h.commit n r w).rowBad n r = false := by
  simp only [Sheaf.rowBad, Sheaf.commit_tile_same h r w hn]
  by_cases hr : r < 64
  · simp [hr]
  · exact BitVec.getLsbD_of_ge _ _ (Nat.le_of_not_lt hr)

theorem Sheaf.commit_row_other {n r m k : Nat} (w : List Word) (hn : n < h.tiles.length) (e : m ≠ n ∨ k ≠ r) :
    ((h.commit n r w).tile m).row k = (h.tile m).row k := by
  by_cases hm : m = n
  · subst hm
    have hk : k ≠ r := e.resolve_left fun ne => ne rfl
    simp [Sheaf.commit_tile_same h r w hn, Tile.row, List.getElem?_set_ne hk.symm]
  · rw [Sheaf.commit_tile_other h r w hm]

/-- With its operands read and in its turn on the tile, an operation that is no MMSP commits its row. -/
theorem execRowCommit_commits (r : opRuns s id o h) (tile : o.kind.writesTile = true) (dense : o.kind ≠ .mmsp)
    (up : o.failed = false) (awake : o.susp = false) (rows : o.rp < 64) (turn : s.tileTurn o = true) (fed : s.fed o = true)
    (good : o.kind = .mma → h.rowBad o.tile o.rp = false) : execRowCommit id s = .next (s.commitRow o h) := by
  have good : ¬ (o.kind = .mma ∧ h.rowBad o.tile o.rp = true) := fun ⟨mma, bad⟩ => by simp [good mma] at bad
  simp [execRowCommit, State.withOp_runs r, tile, dense, up, awake, Nat.not_le.2 rows, turn, fed, State.patternWait, good]

/-- The engine starts an MMSP of pattern 0 by choosing its path (10/R300). -/
theorem execEngineScratchAccess_pathOpen (n : Nat) (r : opRuns s id o h) (path : o.pathOpen = true) :
    execEngineScratchAccess id (.read n) s = .next (s.choosePath h o) := by
  simp [execEngineScratchAccess, State.withOp_runs r, State.engRead, path]

end Sys2Proof.Machine
end

section
/-! SUPPORT. The s8 rows of the matrix engine (03/R46): sums of integers taken as a word are sums of words, which wrap. -/

namespace Sys2Proof.Machine

/-- The product of two s8 elements as a word. -/
def s8Product (p q : Nat) : Word := (BitVec.ofNat 8 p).signExtend 32 * (BitVec.ofNat 8 q).signExtend 32

theorem ofInt_s8_product (p q : Nat) :
    BitVec.ofInt 32 ((BitVec.ofNat 8 p).toInt * (BitVec.ofNat 8 q).toInt) = s8Product p q :=
  BitVec.ofInt_mul ..

/-- An s8 element is C plus its products, wrapping. -/
theorem mmaElemInt_eq (c : Word) (ps : List (Nat × Nat)) :
    mmaElemInt c ps = ps.foldl (fun (x : Word) (p : Nat × Nat) => x + s8Product p.1 p.2) c := by
  rw [mmaElemInt, ← List.foldl_hom (BitVec.ofInt 32) (g₂ := fun (x : Word) (p : Nat × Nat) => x + s8Product p.1 p.2),
    BitVec.ofInt_toInt]
  intro x p
  rw [BitVec.ofInt_add, ofInt_s8_product]

/-- A fold over the pairs that take part is one over all indices that skips the others. -/
theorem foldl_pairs (f : Word → Nat × Nat → Nat × Nat → Word) (a b : Nat → MatEl) (l : List Nat) (c : Word) :
    (l.filterMap fun k => match a k, b k with
      | some x, some y => some (x, y)
      | _, _ => none).foldl (fun x p => f x p.1 p.2) c =
    l.foldl (fun x k => match a k, b k with
      | some p, some q => f x p q
      | _, _ => x) c := by
  rw [List.foldl_filterMap]
  congr
  funext x k
  cases a k <;> cases b k <;> rfl

/-- An element of an s8 row, and the flags of the row. -/
theorem mmaRow_s8 (rm : Nat) (fz : Bool) (c : List Word) (a : Nat → MatEl) (b : Nat → Nat → MatEl) {n : Nat} (hn : n < 64) :
    (mmaRow 0xC 0xC 64 rm fz c a b).1[n]? = some ((List.range 64).foldl (fun (x : Word) (k : Nat) => match a k, b k n with
      | some p, some q => x + s8Product p.1 q.1
      | _, _ => x) (c.getD n 0)) ∧ (mmaRow 0xC 0xC 64 rm fz c a b).2 = 0 := by
  constructor
  · refine Eq.trans ?_ (congrArg some (foldl_pairs (fun x p q => x + s8Product p.1 q.1) a (fun k => b k n) _ _))
    simp [mmaRow, hn, mmaElemInt_eq, List.foldl_map] <;> rfl
  · simp [mmaRow, List.foldl_map]

end Sys2Proof.Machine
end

section
/-! SUPPORT. The first stall of an engine, the end of a compile and the energy window (10/R290, R293, R298). -/

namespace Sys2Proof.Machine

variable {s : State}

theorem execMmStallReset_running {core : Nat} (busy : ∀ o ∈ s.matrixRunning core, o.idle < stallTime) :
    execMmStallReset core s = .next s := by
  have noneStalled : (s.matrixRunning core).filter (fun o => stallTime ≤ o.idle) = [] := by simpa using busy
  rw [execMmStallReset, noneStalled]

/-- The first stall: the engine's operations replay, and its event goes out. -/
theorem execMmStallReset_first {core : Nat} {o : Op} {l : List Op}
    (stalled : (s.matrixRunning core).filter (fun o => stallTime ≤ o.idle) = o :: l) (first : o.stalls = 0) :
    execMmStallReset core s = .next (State.coreEvent { s with eng := { s.eng with ops := s.eng.ops.map fun p =>
      if p.live && !p.resting && p.core == core && p.kind.writesTile then
        { p.replayed with stalls := if p.id == o.id then p.stalls + 1 else p.stalls } else p } }
      3 core none) := by
  rw [execMmStallReset, stalled]
  simp only [first, beq_self_eq_true, if_true]

section
variable {core entry : Nat} {p : Pattern} {h : Sheaf}
  (hp : (s.eng.pats.find? fun p => p.id == entry && p.core == core && p.state == .compiling) = some p)
  (hh : (s.sheaves.find? fun h => h.alloc.id == p.alloc && h.core == p.core) = some h)
include hp hh

theorem execPatternCompileDone_bad (bad : s.scrBad (h.scrAbs p.off) 512 = true) :
    execPatternCompileDone core entry s = .next (s.compileFails h p) := by
  simp only [execPatternCompileDone, hp, hh, bad, if_true]

/-- A bitmap that reads well compiles, to its micro-ops or to the dense path. -/
theorem execPatternCompileDone_good {bits : List Nat} {dense : Bool} (hb : bits = bitmapBits (s.scrRead (h.scrAbs p.off) 512))
    (hd : dense = (decide (1024 < microOps bits) || decide (p.dthr < bits.length)))
    (good : s.scrBad (h.scrAbs p.off) 512 = false) :
    execPatternCompileDone core entry s = .next (({ s with eng := { s.eng with
      pats := s.eng.pats.map fun x => if x.id == p.id then { x with
        state := if dense then .dense else .compiled
        uops := if dense then 0 else microOps bits
        bits := bits } else x } } : State).worked p.ctx (dieOf core)) := by
  simp only [execPatternCompileDone, hp, hh, good, Bool.false_eq_true, if_false, ← hb, ← hd]
end

theorem execEnergyWindow_between (die : Nat) (ht : s.ctl.time % 1000 ≠ 0) : execEnergyWindow die s = .next s := by
  simp [execEnergyWindow, ht]

/-- The budget of a die in a context at the start of window `w`. -/
def Ctx.window (c : Ctx) (die w : Nat) (e : Energy) : Energy :=
  if e.win < w then e.refill (Config.measuredEnergy c.id die (w - 1)) w else e

theorem execEnergyWindow_start (die : Nat) (ht : s.ctl.time % 1000 = 0) : execEnergyWindow die s = .next
    { s with ctxs := s.ctxs.map fun c => { c with energy := c.energy.modify die (c.window die (s.ctl.time / 1000)) } } := by
  simp only [execEnergyWindow, ht, beq_self_eq_true, if_true]
  rfl

end Sys2Proof.Machine
end

section
open Sys2Proof Sys2Proof.Machine

/-- Settles O39: rows by what a commit leaves of a tile and by the sum of words that an s8 element is, the steps by the branch that
their premises choose. -/
theorem matrixRowsAndPower : Obligations.MatrixRowsAndPower := by
  refine ⟨fun s id o h r kind up awake rows turn fed good => ?commits,
    fun h n r w hn hr => ⟨Sheaf.commit_row_same w hn hr, Sheaf.commit_rowBad w hn, fun m k e => Sheaf.commit_row_other w hn e⟩,
    fun rm fz c a b n hn => mmaRow_s8 rm fz c a b hn,
    fun s id n o h r path => ?path,
    fun s core o l stalled first => execMmStallReset_first stalled first,
    fun s core busy => execMmStallReset_running busy,
    fun s core entry p h hp hh => ⟨execPatternCompileDone_bad hp hh, execPatternCompileDone_good hp hh rfl rfl⟩,
    fun s die ht => execEnergyWindow_between die ht,
    fun s die ht => ⟨_, execEnergyWindow_start die ht, rfl, List.length_map .., fun k c d hc hd e he due => ?refill⟩⟩
  case commits =>
    obtain ⟨tile, dense⟩ : o.kind.writesTile = true ∧ o.kind ≠ .mmsp := by
      simp only [List.mem_cons, List.not_mem_nil, or_false] at kind
      rcases kind with kind | kind | kind | kind <;> simp [kind, OpKind.writesTile]
    exact execRowCommit_commits r tile dense up awake rows turn fed good
  case path =>
    obtain rfl := opRuns_id r
    exact execEngineScratchAccess_pathOpen n r path
  case refill =>
    obtain rfl : _ = d := by simpa [hc] using hd
    simp [he, Ctx.window, due, Energy.refill]
end

section
/-! SUPPORT. The scalar forms (05/R122 to R124): each table entry is `scalar`, `compare` or `scalarPair` with a function of its own;
what a ready comparison does; what the end of a scalar unit leaves. -/

namespace Sys2Proof.Machine

variable {s t : State} {h : Sheaf} {i : Instr}

/-! The tables are computed entry by entry. -/

/-- Two functions of a table's entries agree on every entry where they map the table to equal lists. -/
theorem forall_mem_of_map_eq {α β γ δ : Type} {l : List α} {f g : α → β → γ → δ} (e : l.map f = l.map g) :
    ∀ p ∈ l, ∀ o s, f p o s = g p o s :=
  fun p hp o s => congrFun₂ (List.map_inj_left.mp e p hp) o s

theorem saluTable_scalar : ∀ p ∈ saluTable, ∀ (o : FS3) (s : State),
    exec (p.1 o) s = scalar (p.1 o) s o.sd.toNat fun h => p.2 (h.getS o.sa.toNat) (h.getS o.sb.toNat) :=
  forall_mem_of_map_eq rfl

theorem saluPairs_scalarPair : ∀ p ∈ saluPairs, ∀ (o : FS3) (s : State),
    exec (p.1 o) s = scalarPair (p.1 o) s o.sd.toNat fun h => p.2 h o :=
  forall_mem_of_map_eq rfl

theorem saluCompares_compare : ∀ p ∈ saluCompares, ∀ (o : FS3) (s : State),
    exec (p.1 o) s = compare (p.1 o) s o.sd.toNat fun h => p.2 (h.getS o.sa.toNat) (h.getS o.sb.toNat) :=
  forall_mem_of_map_eq rfl

theorem saluiTable_scalar : ∀ p ∈ saluiTable, ∀ (o : FSI) (s : State),
    exec (p.1 o) s = scalar (p.1 o) s o.sd.toNat fun h => p.2 h o :=
  forall_mem_of_map_eq rfl

/-! Immediates (05/R124, 04/R81). -/

theorem Sheaf.imm11_plain (h : Sheaf) (f : BitVec 11) (x : h.chain.get 0 = none) : h.imm11 f = f.signExtend 32 := by
  simp [Sheaf.imm11, x]

theorem Sheaf.imm11_ximm (h : Sheaf) (f : BitVec 11) {p : BitVec 24} (x : h.chain.get 0 = some p) :
    h.imm11 f = p ++ f.extractLsb' 0 8 := by
  simp [Sheaf.imm11, x]

/-! Comparisons and FLAG (04/R106). -/

/-- The machine with FLAG of a sequencer sheaf's core set; a comparison of any other sheaf sets no FLAG. -/
def State.flagged (s : State) (h : Sheaf) (b : Bool) : State :=
  if h.seqr then s.modSeqr h.core fun q => { q with flag := b } else s

/-- A comparison, ready. -/
theorem compare_ready (r : Ready s h i) (n : Nat) (f : Sheaf → Bool) :
    compare i s n f = .next ((s.flagged h (f h)).done (h.setS n (boolWord (f h)))) := issue_ready r _

theorem State.flagged_of_context (s : State) (b : Bool) (q : h.seqr = false) : s.flagged h b = s := by
  simp [State.flagged, q]

/-- Setting FLAG shows in the sequencer of the core only. -/
theorem State.flagged_eq (s : State) (h : Sheaf) (b : Bool) : s.flagged h b = { s with
    seqs := s.seqs.map fun q => if q.core = h.core ∧ h.seqr = true then { q with flag := b } else q } := by
  cases q : h.seqr with
  | false => simp [State.flagged, q]
  | true => simp [State.flagged, State.modSeqr, q]

theorem State.flagged_cur? (s : State) (h : Sheaf) (b : Bool) : (s.flagged h b).cur? = s.cur? := by
  rw [State.flagged_eq]
  rfl

/-! What a scalar form leaves. -/

theorem Sheaf.setPair_eq (h : Sheaf) (n : Nat) (x : DWord) : h.setPair n x = { h with s := (h.setPair n x).s } := by
  rw [Sheaf.setPair, Sheaf.setS_eq, Sheaf.setS_eq h]

theorem Sheaf.getS_setPair_other (h : Sheaf) (n m : Nat) (x : DWord) (e : m ∉ [n, n + 1]) :
    (h.setPair n x).getS m = h.getS m := by
  obtain ⟨low, high⟩ : m ≠ n ∧ m ≠ n + 1 := by simpa using e
  rw [Sheaf.setPair, Sheaf.getS_setS_other _ _ _ _ high, Sheaf.getS_setS_other _ _ _ _ low]

/-- The end of a unit that has changed s registers only. -/
theorem State.done_scalar_leaves {h' : Sheaf} {rs : List Nat} (c : s.cur? = some h) (e : h' = { h with s := h'.s })
    (keeps : ∀ r, r ∉ rs → h'.getS r = h.getS r) : ScalarLeaves (s.done h') h rs := by
  have uid : h'.uid = h.uid := by rw [e]
  refine ⟨_, State.done_cur? c uid, ?_, fun r hr => ?_⟩
  · rw [Sheaf.retire_apart, Sheaf.retire_s, e]
    rfl
  · rw [Sheaf.getS_congr _ _ (Sheaf.retire_s ..), keeps r hr]

/-- A ready form that writes an s pair leaves the other registers, and changes its sheaf only. -/
theorem scalarPair_leaves {n : Nat} {f : Sheaf → DWord} (r : Ready s h i) (e : exec i s = scalarPair i s n f)
    (x : exec i s = .next t) : ScalarLeaves t h [n, n + 1] ∧ OnlySheaf s t h.uid := by
  obtain rfl : s.done (h.setPair n (f h)) = t := by simpa [e, scalarPair_ready r] using x
  have uid : (h.setPair n (f h)).uid = h.uid := Sheaf.setPair_uid ..
  exact ⟨State.done_scalar_leaves r.1 (Sheaf.setPair_eq ..) fun m => Sheaf.getS_setPair_other h n m _,
    uid ▸ State.done_only s (h.setPair n (f h))⟩

/-- A ready comparison leaves the other registers, and changes its sheaf and FLAG of its own sequencer only. -/
theorem compare_leaves {n : Nat} {f : Sheaf → Bool} (r : Ready s h i) (e : exec i s = compare i s n f)
    (x : exec i s = .next t) : ScalarLeaves t h [n] ∧ OnlySheaf s { t with seqs := s.seqs } h.uid ∧ (h.seqr = false → t.seqs = s.seqs) ∧
      ∃ b, t.seqs = s.seqs.map fun q => if q.core = h.core ∧ h.seqr = true then { q with flag := b } else q := by
  obtain rfl : (s.flagged h (f h)).done (h.setS n (boolWord (f h))) = t := by simpa [e, compare_ready r] using x
  have uid : (h.setS n (boolWord (f h))).uid = h.uid := Sheaf.setS_uid ..
  refine ⟨State.done_scalar_leaves ((State.flagged_cur? ..).trans r.1) (Sheaf.setS_eq ..) fun m hm =>
    Sheaf.getS_setS_other h n m _ (by simpa using hm), ?_, fun q => ?_, f h, ?_⟩
  · rw [State.flagged_eq]
    exact uid ▸ State.done_only s (h.setS n (boolWord (f h)))
  · rw [State.flagged_of_context s _ q]
    rfl
  · rw [State.flagged_eq]
    rfl

end Sys2Proof.Machine
end

section
open Sys2Proof Sys2Proof.Machine

/-- Settles O1: each form is a shared operation, which a ready sheaf completes. -/
theorem saluResults : Obligations.SaluResults :=
  ⟨fun p hp o s _ r => (saluTable_scalar p hp o s).trans (scalar_ready r ..),
    fun _ _ _ r => scalar_ready r ..,
    fun p hp o s _ r => (saluPairs_scalarPair p hp o s).trans (scalarPair_ready r ..),
    fun o s _ p hp r => (saluCompares_compare p hp o s).trans (compare_ready r ..)⟩

/-- Settles O2: likewise, and the immediate by whether the unit has an XIMM word. -/
theorem saluiResults : Obligations.SaluiResults :=
  ⟨fun p hp o s _ r => (saluiTable_scalar p hp o s).trans (scalar_ready r ..),
    fun _ _ _ r => compare_ready r ..,
    fun h f x => h.imm11_plain f x,
    fun h f _ x => h.imm11_ximm f x⟩

/-- Settles O3: from what the shared operation of each form leaves. -/
theorem scalarFrame : Obligations.ScalarFrame := by
  refine ⟨fun c hc o s t h r x => ?salu, fun c hc o s t h r x => ?compares, fun c hc o s t h r x => ?pairs,
    fun c hc o s t h r x => ?salui, fun o s t h r x => compare_leaves r rfl x⟩
  case salu =>
    rcases List.mem_append.mp hc with hc | hc
    · obtain ⟨p, hp, rfl⟩ := List.mem_map.mp hc
      exact scalar_leaves r (saluTable_scalar p hp o s) x
    · obtain rfl := List.mem_singleton.mp hc
      exact scalar_leaves r rfl x
  case compares =>
    obtain ⟨p, hp, rfl⟩ := List.mem_map.mp hc
    exact compare_leaves r (saluCompares_compare p hp o s) x
  case pairs =>
    obtain ⟨p, hp, rfl⟩ := List.mem_map.mp hc
    exact scalarPair_leaves r (saluPairs_scalarPair p hp o s) x
  case salui =>
    obtain ⟨p, hp, rfl⟩ := List.mem_map.mp hc
    exact scalar_leaves r (saluiTable_scalar p hp o s) x
end

section
/-! SUPPORT. The vector forms (05/R125 to R142): each table entry is `swept`, `sweptAt` or `scalar` with a function of its own. -/

namespace Sys2Proof.Machine

theorem vecTable_swept : ∀ p ∈ vecTable, ∀ (o : FV3) (s : State),
    exec (p.1 o) s = swept (p.1 o) s fun h l => (l.setV o.d.toNat (p.2 h o l), 0) :=
  forall_mem_of_map_eq rfl

theorem vecImmTable_swept : ∀ p ∈ vecImmTable, ∀ (o : FVI) (s : State),
    exec (p.1 o) s = swept (p.1 o) s fun h l => (l.setV o.d.toNat (p.2 (l.getV o.a.toNat) (h.imm7 o.imm)), 0) :=
  forall_mem_of_map_eq rfl

theorem vriTable_swept : ∀ p ∈ vriTable, ∀ (o : FRI) (s : State),
    exec (p.1 o) s = swept (p.1 o) s fun h l => (l.setV o.d.toNat (p.2 h o l), 0) :=
  forall_mem_of_map_eq rfl

theorem fpTable_swept : ∀ p ∈ fpTable, ∀ (o : FV3) (s : State),
    exec (p.1 o) s = swept (p.1 o) s fun h l => (l.setV o.d.toNat (p.2 h o l).1, (p.2 h o l).2) := by
  simp only [fpTable, List.forall_mem_cons, List.not_mem_nil, false_implies, implies_true, and_true]
  and_intros
  on_goal 21 =>
    -- CVTP: the model chooses between two writes, the table between two words, by the same TY.
    refine fun o s => congrArg (swept (.cvtp o) s) (funext₂ fun h l => ?_)
    dsimp only
    split <;> rfl
  all_goals exact fun _ _ => rfl

theorem costedTable_sweptAt : ∀ p ∈ costedTable, ∀ (o : FV3) (s : State),
    exec (p.2.1 o) s = sweptAt p.1 (p.2.1 o) s fun h l => (l.setV o.d.toNat (p.2.2 h o l).1, (p.2.2 h o l).2) :=
  forall_mem_of_map_eq rfl

theorem cmpTable_swept : ∀ p ∈ cmpTable, ∀ (o : FV3) (s : State),
    exec (p.1 o) s = swept (p.1 o) s fun h l => (l.setK o.d.toNat (p.2 h o l).1, (p.2 h o l).2) :=
  forall_mem_of_map_eq rfl

theorem laneReads_scalar : ∀ p ∈ laneReads, ∀ (o : FV3) (s : State),
    exec (p.1 o) s = scalar (p.1 o) s o.d.toNat fun h => p.2 h o (byPos (h.effLanes (p.1 o))) :=
  forall_mem_of_map_eq rfl

/-- A swept instruction of a declared class, ready but beyond its budget, does not issue (10/R292). -/
theorem sweptAt_beyond {s : State} {h : Sheaf} {i : Instr} (r : Ready s h i) (c : Nat) (f : Sheaf → Lane → Lane × Flags)
    (b : s.canSpend h (energyCost c) = false) : sweptAt c i s f = .next s := by
  simp [sweptAt, issue_ready r, b]

end Sys2Proof.Machine
end

section
open Sys2Proof Sys2Proof.Machine

/-- Settles O5: each form is a swept instruction, which a ready sheaf completes. -/
theorem vectorResults : Obligations.VectorResults :=
  ⟨fun p hp o s _ r => (vecTable_swept p hp o s).trans (swept_ready r _),
    fun p hp o s _ r => (vecImmTable_swept p hp o s).trans (swept_ready r _),
    fun p hp o s _ r => (vriTable_swept p hp o s).trans (swept_ready r _),
    fun _ _ _ r => swept_ready r _,
    fun _ _ _ r => swept_ready r _⟩

/-- Settles O6: likewise; CVTI writes the pair at D where its TY is wide. -/
theorem floatResults : Obligations.FloatResults :=
  ⟨fun p hp o s _ r => (fpTable_swept p hp o s).trans (swept_ready r _), fun _ _ _ r => swept_ready r _⟩

/-- Settles O7: each form is a swept instruction of a declared class, by whether the budget covers the cost. -/
theorem declaredClassResults : Obligations.DeclaredClassResults :=
  ⟨fun p hp o s _ r within => (costedTable_sweptAt p hp o s).trans (sweptAt_ready r p.1 _ within),
    fun p hp o s _ r beyond => (costedTable_sweptAt p hp o s).trans (sweptAt_beyond r p.1 _ beyond)⟩

/-- Settles O8: comparisons and predicates are swept, the forms that read lanes write an s register. -/
theorem predicateResults : Obligations.PredicateResults :=
  ⟨fun p hp o s _ r => (cmpTable_swept p hp o s).trans (swept_ready r _),
    fun p hp o s _ r => (laneReads_scalar p hp o s).trans (scalar_ready r ..)⟩
end

section
/-! SUPPORT. What a ready BRU does (05/R115), and what the end of a unit leaves wherever its path goes on. -/

namespace Sys2Proof.Machine

variable {s : State} {h h' : Sheaf}

/-- Putting a sheaf back changes nothing but it. -/
theorem State.putSheaf_only (s : State) (e : h'.uid = h.uid) : OnlySheaf s (s.putSheaf h') h.uid := by
  refine ⟨rfl, fun v hv => ?_⟩
  rw [State.sheaf?_putSheaf, if_neg (e ▸ hv)]

/-- The end of a unit at any PC: of the sheaf only the paths change, of the machine only the sheaf. -/
theorem State.goTo_leaves (c : s.cur? = some h) (e : h'.uid = h.uid) (pc : Pc) :
    ∃ g, (s.goTo h' pc).cur? = some g ∧ g.apart = h'.apart ∧ OnlySheaf s (s.goTo h' pc) h.uid := by
  have uid : (h'.retire pc).uid = h.uid := (Sheaf.retire_uid ..).trans e
  exact ⟨_, State.cur?_putSheaf c uid, Sheaf.retire_apart .., State.putSheaf_only s uid⟩

theorem encode_bru_maj (c : Cond) (o : FBR) : (encode (.bru c o)).extractLsb' 27 5 = 0x01 := Laws.FBR_maj o 1 c.code

/-- The model's choice is the condition of 05/R115. -/
theorem Sheaf.takes_eq (h : Sheaf) (c : Cond) (o : FBR) : h.takes (.bru c o) c o.sel = bruTaken h c o := by
  cases c <;> rfl

/-- BRU, ready: the whole path goes to the target or to the next word. -/
theorem execBru_ready {c : Cond} {o : FBR} (r : Ready s h (.bru c o)) :
    exec (.bru c o) s = .next (s.goTo h (if bruTaken h c o then h.target o.off else h.nextPc)) := by
  refine (issue_ready r _).trans ?_
  rw [Sheaf.takes_eq]
  split <;> rfl

end Sys2Proof.Machine
end

section
open Sys2Proof Sys2Proof.Machine

/-- Settles O12: a ready BRU ends its unit at one of two points, and no end of a unit changes more than the paths of its sheaf. -/
theorem bruMovesWholePath : Obligations.BruMovesWholePath := by
  refine ⟨encode_bru_maj, fun c o s h r taken => ?taken, fun c o s h r notTaken => ?notTaken, fun c o s t h r x => ?frame⟩
  case taken =>
    rw [execBru_ready r, taken]
    rfl
  case notTaken =>
    rw [execBru_ready r, notTaken]
    rfl
  case frame =>
    obtain rfl := Host.Outcome.next.inj ((execBru_ready r).symm.trans x)
    exact State.goTo_leaves r.1 rfl _
end

section
/-! SUPPORT. Yields (02/R33): where a path is put, which one is taken, and the sheaf after. -/

namespace Sys2Proof.Machine

theorem StackEntry.sameLink_iff (e : StackEntry) (link : Option Nat) :
    e.sameLink link = true ↔ ∃ p, e = .pending p ∧ p.link = link := by
  cases e <;> simp [StackEntry.sameLink]

/-- A path goes just below the lowest pending path of its record. -/
theorem insertBelow_lowest {p : Path} {e : StackEntry} (a : List StackEntry) {b : List StackEntry}
    (shares : e.sameLink p.link = true) (lowest : b.any (·.sameLink p.link) = false) :
    insertBelow p (a ++ e :: b) = a ++ e :: .pending p :: b := by
  induction a with
  | nil => simp [insertBelow, shares, lowest]
  | cons x a ih =>
    have below : (a ++ e :: b).any (·.sameLink p.link) = true := by simp [shares]
    simp [insertBelow, below, ih]

/-- The topmost pending path is the first below records only. -/
theorem takePending_topmost {q : Path} {c : List StackEntry} (d : List StackEntry)
    (records : ∀ x ∈ c, ∃ i r m fr, x = .record i r m fr) : takePending (c ++ .pending q :: d) = some (q, c ++ d) := by
  induction c with
  | nil => rfl
  | cons x c ih =>
    obtain ⟨⟨i, r, m, fr, rfl⟩, rest⟩ := List.forall_mem_cons.mp records
    simp [takePending, ih rest]

/-- A yield changes the paths only. -/
theorem Sheaf.yield_eq (h : Sheaf) (pc : Pc) :
    h.yield pc = { h with path := (h.yield pc).path, stack := (h.yield pc).stack } := by
  unfold Sheaf.yield
  repeat' split
  all_goals rfl

/-- With no other path of its record pending, a path that yields goes on. -/
theorem Sheaf.yield_alone {h : Sheaf} {p : Path} (pc : Pc) (hp : h.path = some p)
    (alone : h.stack.any (·.sameLink p.link) = false) : h.yield pc = { h with path := some { p with pc := pc } } := by
  simp [Sheaf.yield, hp, alone]

/-- A path that yields to the others of its record goes below the lowest of them, and the topmost pending path is current. -/
theorem Sheaf.yield_shared {h : Sheaf} {p q : Path} (pc : Pc) {a b c d : List StackEntry} {e : StackEntry} (hp : h.path = some p)
    (stack : h.stack = a ++ e :: b) (shares : e.sameLink p.link = true) (lowest : b.any (·.sameLink p.link) = false)
    (after : a ++ e :: .pending { p with pc := pc } :: b = c ++ .pending q :: d)
    (records : ∀ x ∈ c, ∃ i r m fr, x = .record i r m fr) : h.yield pc = { h with path := some q, stack := c ++ d } := by
  have sharing : h.stack.any (·.sameLink p.link) = true := by simp [stack, shares]
  have put : insertBelow { p with pc := pc } h.stack = c ++ .pending q :: d := by
    rw [stack, ← after]
    exact insertBelow_lowest a shares lowest
  simp only [Sheaf.yield, hp, sharing, if_true, put, takePending_topmost d records]

end Sys2Proof.Machine
end

section
/-! SUPPORT. What the ready SYS forms do (05/R108 to R114), by the branches of their meanings. -/

namespace Sys2Proof.Machine

variable {s : State} {h : Sheaf}

theorem Sheaf.leave_lanes (h : Sheaf) (m : Mask) : (h.leave m).lanes =
    h.lanes.map fun l => if m.getLsbD l.lpos && !l.left then { l with left := true } else l := by
  unfold Sheaf.leave
  dsimp only
  split <;> split <;> rfl

/-- Every lane of the mask has left. -/
theorem Sheaf.leave_left {l : Lane} {m : Mask} (hl : l ∈ (h.leave m).lanes) (hm : m.getLsbD l.lpos = true) : l.left = true := by
  rw [Sheaf.leave_lanes] at hl
  obtain ⟨x, -, rfl⟩ := List.mem_map.mp hl
  split
  next => rfl
  next stays =>
    rw [if_neg stays] at hm
    simpa [hm] using stays

/-- The end of a sequencer sheaf (04/R106; 09/R264). -/
theorem State.endSeq_ends (s : State) (h : Sheaf) (f : Seqr → Seqr) : SeqEnds s (s.endSeq h f) h f :=
  ⟨rfl, rfl, rfl, rfl, rfl, rfl⟩

theorem execExit_context (r : Ready s h .exit) (q : h.seqr = false) :
    exec .exit s = .next (s.putSheaf (h.leave h.mask).close) := by
  refine (issue_ready r _).trans ?_
  simp [q]

theorem execExit_sequencer (r : Ready s h .exit) (q : h.seqr = true) : exec .exit s = .next (s.endSeq h id) := by
  refine (issue_ready r _).trans ?_
  simp [q]

theorem execYld_fits (r : Ready s h .yld) (fits : (h.yield h.nextPc).overflows = false) :
    exec .yld s = .next (s.putSheaf (h.yield h.nextPc).close) := by
  refine (issue_ready r _).trans ?_
  simp [fits]

theorem execSleep_ready {k : BitVec 21} (r : Ready s h (.sleep k)) :
    exec (.sleep k) s = .next (s.done { h with sleep := if k = 0 then 0 else s.reading h.core + k.toNat }) := by
  refine (issue_ready r _).trans ?_
  simp

theorem execIfence_quiet (r : Ready s h .ifence) (quiet : s.memQuiet h = true) : exec .ifence s = .next
    (({ s with mm := { s.mm with ic := s.mm.ic.filter fun c =>
      !(c.core == h.core && ((s.seg? c.seg.toNat).map fun g => s.granted h.ctx g).getD true) } } : State).done h) := by
  refine (issue_ready r _).trans ?_
  simp only [quiet, if_true]

theorem execIfence_waits (r : Ready s h .ifence) (busy : s.memQuiet h = false) : exec .ifence s = .next s := by
  refine (issue_ready r _).trans ?_
  simp [busy]

theorem execSafe_passes {k : BitVec 21} (r : Ready s h (.safe k)) (free : h.stop = none) :
    exec (.safe k) s = .next (s.done h) := by
  refine (issue_ready r _).trans ?_
  simp only [free]

/-- SAFE with a stop pending, at a safe point of its segment: the stop once the sheaf is quiet. -/
theorem execSafe_pending {k : BitVec 21} {q : StopReq} {p : SafeRec} (r : Ready s h (.safe k)) (pending : h.stop = some q)
    (point : ((s.curSeg h).bind fun g => g.spt[k.toNat]?) = some p) : exec (.safe k) s = .next
      (if s.quietToStop h then
        (s.draw (4096 + 128 * 1024)).stopSaved ((h.retire h.nextPc).killDead s p) 1 (some k.toNat) p.vlive
      else s.hold h false) := by
  refine (issue_ready r _).trans ?_
  simp only [pending, point]

end Sys2Proof.Machine
end

section
open Sys2Proof Sys2Proof.Machine

/-- Settles O15: each form is ready, so it has its own effect; a yield by where it puts the path and which one it takes. -/
theorem sysForms : Obligations.SysForms := by
  refine ⟨fun s h r => issue_ready r _, fun s h r q => execExit_context r q,
    fun s h r q => ⟨_, execExit_sequencer r q, State.endSeq_ends s h id⟩, fun s h r fits => execYld_fits r fits, Sheaf.yield_eq,
    fun h p pc hp alone => Sheaf.yield_alone pc hp alone,
    fun h p q pc a b c d e hp stack shares lowest after records => Sheaf.yield_shared pc hp stack shares lowest after records,
    StackEntry.sameLink_iff, fun k s h r => execSleep_ready r, fun s h r quiet => execIfence_quiet r quiet,
    fun s h r busy => execIfence_waits r busy, fun k s h r free => execSafe_passes r free,
    fun k s h q p r pending point quiet => ?stops, fun k s h q p r pending point busy => ?waits,
    fun h l hl hm => Sheaf.leave_left hl hm⟩
  case stops => rw [execSafe_pending r pending point, if_pos quiet]
  case waits =>
    rw [execSafe_pending r pending point, busy]
    rfl
end

section
/-! SUPPORT. Taking a soft trap (05/R110; 17/R385, R386; 04/R106) and returning from a handler (05/R113). -/

namespace Sys2Proof.Machine

variable {s : State} {h : Sheaf}

theorem softTraps_softTrap : ∀ p ∈ softTraps, ∀ (k : BitVec 21) (s : State),
    exec (p.2 k) s = issue (p.2 k) s fun h s => s.softTrap h (p.2 k) p.1 k :=
  forall_mem_of_map_eq rfl

/-- A trap outside a handler, with a TRAPV that passes the check, enters the handler. -/
theorem State.takeTrap_enters {g : Seg} {e : EntryRec} (q : h.seqr = false) (out : h.trap.inH = false) (v : h.trap.v ≠ 0)
    (entry : s.checkEntry h.ctx h.trap.v [.live, .retired] = some (g, e)) (c : Nat) (a : DWord) (w : Word) (l : Bool) (pc ret : Pc) :
    s.takeTrap h c a w l pc ret = (s.fresh 1).putSheaf (({ h with
      trap := { v := h.trap.v, e := returnCap ret s.ctl.nextId, a := a, c := trapcWord c l, i := w, inH := true, ret := some ret,
                seq := h.nseq }
      chain := ⟨none, []⟩, fbuf := none, waiting := false } : Sheaf).setPc (g.entryPc e)).settled := by
  have runs : ¬ (h.trap.inH || h.trap.v == 0) = true := by simpa [out] using v
  unfold State.takeTrap
  rw [if_neg (by simp [q])]
  dsimp only
  rw [if_neg runs, entry]
  rfl

/-- A trap in a sequencer sheaf ends it, with SEQM at the trapped unit. -/
theorem State.takeTrap_sequencer (q : h.seqr = true) (c : Nat) (a : DWord) (w : Word) (l : Bool) (pc ret : Pc) :
    s.takeTrap h c a w l pc ret = s.endSeq { h with trap := { h.trap with c := trapcWord c l, a := a, i := w } }
      fun q => { q with upc := q.chain0.getD q.upc } := by
  simp [State.takeTrap, q]

theorem execEret_outside (r : Ready s h .eret) (out : h.trap.inH = false) :
    exec .eret s = .next (s.decodeTrap h (encode .eret) 1) := by
  refine (issue_ready r _).trans ?_
  simp [out]

/-- In a handler, ERET returns through a point that passes the check; with no such point it traps. -/
theorem execEret_returns {pc : Pc} (r : Ready s h .eret) (inside : h.trap.inH = true) (point : h.trap.ret = some pc)
    (valid : s.checkReturn h.ctx pc = true) :
    exec .eret s = .next (s.goTo { h with trap := { h.trap with inH := false, ret := none } } pc) := by
  refine (issue_ready r _).trans ?_
  simp only [inside, point, valid, Bool.not_true, Bool.false_eq_true, if_false, if_true]
  rfl

theorem execEret_fails (r : Ready s h .eret) (inside : h.trap.inH = true)
    (invalid : ∀ pc, h.trap.ret = some pc → s.checkReturn h.ctx pc = false) :
    exec .eret s = .next (s.decodeTrap h (encode .eret) 0x0B) := by
  refine (issue_ready r _).trans ?_
  cases point : h.trap.ret with
  | none => simp [inside]
  | some pc => simp [inside, invalid pc point]

end Sys2Proof.Machine
end

section
open Sys2Proof Sys2Proof.Machine

/-- Settles O16: each form takes a trap, by whether its sheaf is a sequencer's. -/
theorem softTrapsEnterHandler : Obligations.SoftTrapsEnterHandler := by
  refine ⟨fun p hp k s h g e r q out v entry => ?enters, fun p hp k s h r q => ⟨_, ?ends, State.endSeq_ends ..⟩⟩
  case enters =>
    rw [softTraps_softTrap p hp, issue_ready r, State.softTrap, State.takeTrap_enters q out v entry]
    rfl
  case ends =>
    rw [softTraps_softTrap p hp, issue_ready r, State.softTrap, State.takeTrap_sequencer q]
    rfl

/-- Settles O18: by the branches of ERET; a return is the end of a unit at the point of TRAPE. -/
theorem eretReturns : Obligations.EretReturns := by
  refine ⟨fun s h pc r inside point valid => execEret_returns r inside point valid, fun s h r out => execEret_outside r out,
    fun s h r inside invalid => execEret_fails r inside invalid, fun s t h pc r inside point valid x => ?frame⟩
  case frame =>
    obtain rfl := Host.Outcome.next.inj ((execEret_returns r inside point valid).symm.trans x)
    exact State.goTo_leaves (h' := { h with trap := { h.trap with inH := false, ret := none } }) r.1 rfl pc
end

section
/-! SUPPORT. The markers of the fences (06/R164 to R168). -/

namespace Sys2Proof.Machine

variable {o : FSY} {s : State} {h : Sheaf}

theorem execFence_ready (r : Ready s h (.fence o)) :
    exec (.fence o) s = .next (s.fenceAt h (o.ord.getLsbD 1) (o.ord.getLsbD 0) o.scp) := issue_ready r _

/-- At sheaf and core scope FENCESC is a FENCE acqrel. -/
theorem execFencesc_near (r : Ready s h (.fencesc o)) (near : o.scp ≤ 1) :
    exec (.fencesc o) s = .next (s.fenceAt h true true o.scp) := by
  refine (issue_ready r _).trans ?_
  rw [if_pos near]

/-- Beyond them it waits as a release, then drops copies. -/
theorem execFencesc_far (r : Ready s h (.fencesc o)) (far : 1 < o.scp) :
    exec (.fencesc o) s = .next (s.afterRelease h o.scp false fun h s =>
      (s.dropCopies fun c => c.l1 == s.l1Of h.core && (c.asid == 0 || c.asid == s.asidOf h.ctx)).done h) := by
  refine (issue_ready r _).trans ?_
  rw [if_neg (BitVec.not_le.mpr far)]

theorem State.afterRelease_released {scp : BitVec 3} (rel : s.released h scp = true) (stop : Bool) (k : Sheaf → State → State) :
    s.afterRelease h scp stop k = k h s := if_pos rel

theorem State.afterRelease_waits {scp : BitVec 3} (rel : s.released h scp = false) (stop : Bool) (k : Sheaf → State → State) :
    s.afterRelease h scp stop k = s.hold h stop := by simp [State.afterRelease, rel]

theorem State.hold_false (s : State) (h : Sheaf) : s.hold h false = (s.sendBatches h.uid).putSheaf h.ungather := by
  simp only [State.hold, Bool.or_false]
  rfl

end Sys2Proof.Machine
end

section
open Sys2Proof Sys2Proof.Machine

/-- Settles O29: each form is ready and puts its markers; FENCESC beyond the core goes by its release. -/
theorem fencesPutMarkers : Obligations.FencesPutMarkers := by
  refine ⟨fun o s h r => execFence_ready r, fun o s h r near => execFencesc_near r near, fun o s h r far rel => ?passes,
    fun o s h r far rel => ?waits, fun o s h r => issue_ready r _⟩
  case passes => rw [execFencesc_far r far, State.afterRelease_released rel]
  case waits => rw [execFencesc_far r far, State.afterRelease_waits rel, State.hold_false]
end

section
/-! SUPPORT. The fields of a barrier word and of a transaction barrier after an update (06/R170 to R176). -/

namespace Sys2Proof.Machine

/-- A barrier word by its fields, the highest first: reserved bits, ARI, ARR, reserved bits, PH (06/R170). -/
def barBits (hi ari arr : BitVec 16) (lo : BitVec 12) (ph : BitVec 4) : BitVec (16 + 16 + 16 + 12 + 4) :=
  hi ++ ari ++ arr ++ lo ++ ph

variable (hi ari arr : BitVec 16) (lo : BitVec 12) (ph : BitVec 4)

theorem barBits_hi : (barBits hi ari arr lo ph).extractLsb' 48 16 = hi := by
  simp only [barBits, BitVec.extractLsb'_append_eq_of_le (by decide : 4 ≤ 48), BitVec.extractLsb'_append_eq_of_le (by decide : 12 ≤ 48 - 4),
    BitVec.extractLsb'_append_eq_of_le (by decide : 16 ≤ 48 - 4 - 12)]
  exact BitVec.extractLsb'_append_eq_left

theorem barBits_ari : (barBits hi ari arr lo ph).extractLsb' 32 16 = ari := by
  simp only [barBits, BitVec.extractLsb'_append_eq_of_le (by decide : 4 ≤ 32), BitVec.extractLsb'_append_eq_of_le (by decide : 12 ≤ 32 - 4),
    BitVec.extractLsb'_append_eq_of_le (by decide : 16 ≤ 32 - 4 - 12)]
  exact BitVec.extractLsb'_append_eq_right

theorem barBits_arr : (barBits hi ari arr lo ph).extractLsb' 16 16 = arr := by
  simp only [barBits, BitVec.extractLsb'_append_eq_of_le (by decide : 4 ≤ 16), BitVec.extractLsb'_append_eq_of_le (by decide : 12 ≤ 16 - 4)]
  exact BitVec.extractLsb'_append_eq_right

theorem barBits_lo : (barBits hi ari arr lo ph).extractLsb' 4 12 = lo := by
  simp only [barBits, BitVec.extractLsb'_append_eq_of_le (by decide : 4 ≤ 4)]
  exact BitVec.extractLsb'_append_eq_right

theorem barBits_ph : (barBits hi ari arr lo ph).extractLsb' 0 4 = ph := BitVec.extractLsb'_append_eq_right

/-- The arrival that completes a phase reloads ARR and advances PH. -/
theorem barArrive_last {w : DWord} (last : barArr w = 1) : barArrive w =
    (barBits (w.extractLsb' 48 16) (barAri w) (barAri w) (w.extractLsb' 4 12) (w.extractLsb' 0 4 + 1), true) := by
  simp [barArrive, last, barBits]

/-- Every other arrival takes one from ARR. -/
theorem barArrive_more {w : DWord} (more : barArr w ≠ 1) : barArrive w =
    (barBits (w.extractLsb' 48 16) (barAri w) (w.extractLsb' 16 16 - 1) (w.extractLsb' 4 12) (w.extractLsb' 0 4), false) := by
  have low : w.extractLsb' 0 16 = w.extractLsb' 4 12 ++ w.extractLsb' 0 4 :=
    (BitVec.extractLsb'_append_extractLsb'_eq_extractLsb' (len₁ := 4) (len₂ := 12) rfl).symm
  simp only [barArrive, beq_iff_eq, more, if_false, low, barBits, BitVec.append_assoc]
  rfl

theorem barArrive_completes {w : DWord} (last : barArr w = 1) : (barArrive w).2 = true ∧
    barArr (barArrive w).1 = (barAri w).toNat ∧ barPh (barArrive w).1 = (barPh w + 1) % 16 ∧ barAri (barArrive w).1 = barAri w := by
  rw [barArrive_last last]
  refine ⟨rfl, congrArg BitVec.toNat (barBits_arr ..), (congrArg BitVec.toNat (barBits_ph ..)).trans ?_, barBits_ari ..⟩
  exact BitVec.toNat_add _ _

theorem barArrive_counts {w : DWord} (more : 1 < barArr w) : (barArrive w).2 = false ∧
    barArr (barArrive w).1 = barArr w - 1 ∧ barPh (barArrive w).1 = barPh w ∧ barAri (barArrive w).1 = barAri w := by
  rw [barArrive_more (Nat.ne_of_gt more)]
  refine ⟨rfl, (congrArg BitVec.toNat (barBits_arr ..)).trans ?_, congrArg BitVec.toNat (barBits_ph ..), barBits_ari ..⟩
  exact BitVec.toNat_sub_of_le (Nat.le_of_lt more)

/-- An arrival keeps the reserved bits. -/
theorem barArrive_reserved (w : DWord) : (barArrive w).1.extractLsb' 4 12 = w.extractLsb' 4 12 ∧
    (barArrive w).1.extractLsb' 48 16 = w.extractLsb' 48 16 := by
  by_cases last : barArr w = 1
  · rw [barArrive_last last]
    exact ⟨barBits_lo .., barBits_hi ..⟩
  · rw [barArrive_more last]
    exact ⟨barBits_lo .., barBits_hi ..⟩

theorem Txb.update_eq (t : Txb) (arrive : Bool) (n : Int) : t.update arrive n =
    let a := if arrive then t.arr - 1 else t.arr
    let c := BitVec.ofInt 40 (t.sec.toInt + n)
    let e := t.err || decide (t.sec.toInt + n < -2 ^ 39 ∨ 2 ^ 39 ≤ t.sec.toInt + n)
    if a = 0 ∧ c = 0 then ⟨t.ph + 1, e, t.trn, t.ari, c, t.ari⟩ else ⟨t.ph, e, t.trn, a, c, t.ari⟩ := by
  simp only [Txb.update, Bool.and_eq_true, beq_iff_eq, Bool.decide_or, Bool.or_assoc]

/-- The bits of a transaction barrier as one concatenation (06/R174). -/
def Txb.fields (t : Txb) : BitVec (32 + 24 + 40 + 24 + 2 + 1 + 1 + 4) :=
  (0 : BitVec 32) ++ t.ari ++ t.sec ++ t.arr ++ (0 : BitVec 2) ++ BitVec.ofBool t.trn ++ BitVec.ofBool t.err ++ t.ph

theorem Txb.fields_ph (t : Txb) : t.fields.extractLsb' 0 4 = t.ph := BitVec.extractLsb'_append_eq_right

theorem Txb.fields_err (t : Txb) : t.fields.getLsbD 4 = t.err := by
  simp only [Txb.fields, BitVec.getLsbD_append]
  exact BitVec.getLsbD_ofBool ..

theorem Txb.fields_trn (t : Txb) : t.fields.getLsbD 5 = t.trn := by
  simp only [Txb.fields, BitVec.getLsbD_append]
  exact BitVec.getLsbD_ofBool ..

/-- The fields above the four lowest ones. -/
theorem Txb.fields_high (t : Txb) (k n : Nat) : t.fields.extractLsb' (8 + k) n =
    ((0 : BitVec 32) ++ t.ari ++ t.sec ++ t.arr).extractLsb' k n := by
  simp only [Txb.fields, BitVec.extractLsb'_append_eq_of_le (by omega : 4 ≤ 8 + k),
    BitVec.extractLsb'_append_eq_of_le (by omega : 1 ≤ 8 + k - 4), BitVec.extractLsb'_append_eq_of_le (by omega : 1 ≤ 8 + k - 4 - 1),
    BitVec.extractLsb'_append_eq_of_le (by omega : 2 ≤ 8 + k - 4 - 1 - 1)]
  rw [show 8 + k - 4 - 1 - 1 - 2 = k by omega]

theorem Txb.fields_arr (t : Txb) : t.fields.extractLsb' 8 24 = t.arr :=
  (t.fields_high 0 24).trans BitVec.extractLsb'_append_eq_right

theorem Txb.fields_sec (t : Txb) : t.fields.extractLsb' 32 40 = t.sec := by
  refine (t.fields_high 24 40).trans ?_
  rw [BitVec.extractLsb'_append_eq_of_le (by decide)]
  exact BitVec.extractLsb'_append_eq_right

theorem Txb.fields_ari (t : Txb) : t.fields.extractLsb' 72 24 = t.ari := by
  refine (t.fields_high 64 24).trans ?_
  rw [BitVec.extractLsb'_append_eq_of_le (by decide), BitVec.extractLsb'_append_eq_of_le (by decide)]
  exact BitVec.extractLsb'_append_eq_right

theorem Txb.ofBits_bits (t : Txb) : Txb.ofBits t.bits = t := by
  show Txb.mk (t.fields.extractLsb' 0 4) (t.fields.getLsbD 4) (t.fields.getLsbD 5) (t.fields.extractLsb' 8 24)
    (t.fields.extractLsb' 32 40) (t.fields.extractLsb' 72 24) = t
  rw [t.fields_ph, t.fields_err, t.fields_trn, t.fields_arr, t.fields_sec, t.fields_ari]

end Sys2Proof.Machine
end

section
open Sys2Proof Sys2Proof.Machine

/-- Settles O30: an arrival by whether it completes the phase; a transaction barrier by its fields. -/
theorem barrierObjectsUpdate : Obligations.BarrierObjectsUpdate :=
  ⟨fun _ last => barArrive_completes last, fun _ more => barArrive_counts more, barArrive_reserved, Txb.ofBits_bits, Txb.update_eq⟩
end

section
/-! SUPPORT. The forms of global and slice memory (06/R143 to R153): what a ready one does, by its causes and its accesses. -/

namespace Sys2Proof.Machine

variable {s : State} {h : Sheaf} {r : MemReq} {f : FM → MemReq} {o : FM}

theorem globForms_o : ∀ f ∈ globForms ++ atomForms, ∀ o, (f o).o = o := fun f hf o =>
  congrFun (List.map_inj_left (f := fun (f : FM → MemReq) (o : FM) => (f o).o) (g := fun _ o => o).mp rfl f hf) o

theorem globForms_issue : ∀ f ∈ globForms, ∀ (o : FM) (s : State),
    exec (f o).i s = issue (f o).i s fun h s => s.globForm h (f o) :=
  forall_mem_of_map_eq rfl

theorem atomForms_issue : ∀ f ∈ atomForms, ∀ (o : FM) (s : State), exec (f o).i s = issue (f o).i s fun h s =>
    if xSpc (h.xmem (f o).i) == 1 || xSpc (h.xmem (f o).i) == 2 then s.scrForm h (f o) else s.globForm h (f o) :=
  forall_mem_of_map_eq rfl

/-- A ready load or store of global or slice memory. -/
theorem exec_globForm (hf : f ∈ globForms) (rd : Ready s h (f o).i) : exec (f o).i s = .next (s.globForm h (f o)) :=
  (globForms_issue f hf o s).trans (issue_ready rd _)

/-- A ready atomic of a space that is no scratch. -/
theorem exec_globAtom (hf : f ∈ atomForms) (rd : Ready s h (f o).i)
    (spc : xSpc (h.xmem (f o).i) = 0 ∨ xSpc (h.xmem (f o).i) = 3) : exec (f o).i s = .next (s.globForm h (f o)) := by
  rw [atomForms_issue f hf, issue_ready rd]
  obtain spc | spc := spc <;> simp [spc]

/-- The branches of a form, with its causes, its accesses and the state that has them. -/
theorem State.globForm_eq (s : State) (h : Sheaf) (r : MemReq) : s.globForm h r =
    if s.memHeld h r then s
    else if r.uniform && !((faults r s h).map (·.2)).isEmpty then s.finish h r.i ((faults r s h).map (·.2))
    else if (asked r s h).isEmpty then (asking r s h).1.finish (asking r s h).2 r.i ((faults r s h).map (·.2))
    else (asking r s h).1.finishLater (asking r s h).2 r.i h.nseq (faults r s h) := rfl

theorem State.finish_nil (s : State) (h : Sheaf) (i : Instr) : s.finish h i [] = s.done h := rfl

theorem State.finishLater_nil (s : State) (h : Sheaf) (i : Instr) (u : Nat) : s.finishLater h i u [] = s.done h := by
  simp [State.finishLater]

theorem State.globForm_held (held : s.memHeld h r = true) : s.globForm h r = s := by
  rw [State.globForm_eq, if_pos held]

/-- With no cause the unit completes with its accesses in the queue. -/
theorem State.globForm_good (room : s.memHeld h r = false) (good : faults r s h = []) : s.globForm h r = afterAsk r s h := by
  rw [State.globForm_eq, if_neg (by simp [room]), good, if_neg (by simp), List.map_nil, State.finish_nil, State.finishLater_nil, ite_self]
  rfl

/-- A uniform form with a cause has no access. -/
theorem State.globForm_uniform (room : s.memHeld h r = false) (bad : faults r s h ≠ []) (u : r.uniform = true) :
    s.globForm h r = s.finish h r.i ((faults r s h).map (·.2)) := by
  rw [State.globForm_eq, if_neg (by simp [room]), if_pos (by simpa [u] using bad)]

/-- A swept form traps at once where no lane accesses, and at the boundary where one does. -/
theorem State.globForm_swept (room : s.memHeld h r = false) (u : r.uniform = false) : s.globForm h r =
    if asked r s h = [] then (asking r s h).1.finish (asking r s h).2 r.i ((faults r s h).map (·.2))
    else (asking r s h).1.finishLater (asking r s h).2 r.i h.nseq (faults r s h) := by
  rw [State.globForm_eq, if_neg (by simp [room]), if_neg (by simp [u])]
  simp only [List.isEmpty_iff]

/-- An access of at most 8 bytes has one part. -/
theorem parts_small {n : Nat} (small : n ≤ 8) : parts n = [(0, n)] := by
  have : n ≠ 16 := by omega
  simp [parts, this]

/-- A form of at most 8 bytes makes one access. -/
theorem MemReq.accs_single (h : Sheaf) (lid a : Nat) (d : BitVec 128) (u : Bool) (small : r.size ≤ 8) : r.accs h lid a d u =
    [{ id := ⟨h.nseq, lid, 0⟩, kind := r.kind, space := if xSpc (h.xmem r.i) == 3 then .slm else .glob, addr := a, size := r.size
       data := d, dest := if r.kind == .store then none else some ⟨!r.uniform, r.o.d.toNat, r.signed⟩, scp := xScp (h.xmem r.i)
       ord := xOrd (h.xmem r.i), ch := xCh (h.xmem r.i), insn := encode r.i, xmem := (h.chain.get 4).getD 0, pc := h.unitPc
       gath := if !r.uniform && xOrd (h.xmem r.i) == 0 then gatherTime + 1 else 0, undef := u, stage := .queued, held := none }] := by
  simp [MemReq.accs, parts_small small]

/-- While the gather collector has room for all of them, requests enter it. -/
theorem State.intoGather_fits {core : Nat} {as : List Access} (fits : s.gathering core + as.length ≤ 512) :
    s.intoGather core as = as := by
  have stays (p : Access × Nat) (hp : p ∈ as.zipIdx) :
      (if gatherRoom ≤ s.gathering core + p.2 then { p.1 with gath := 0 } else p.1) = p.1 := by
    have : p.2 < as.length := by simpa using (List.mem_zipIdx hp).2.1
    exact if_neg (by simp only [gatherRoom]; omega)
  exact (List.map_congr_left stays).trans (List.zipIdx_map_fst 0 as)

/-- A full one lets all of them go on. -/
theorem State.intoGather_full {core : Nat} (full : 512 ≤ s.gathering core) (as : List Access) :
    s.intoGather core as = as.map fun a => { a with gath := 0 } := by
  conv_rhs => rw [← List.zipIdx_map_fst 0 as, List.map_map]
  exact List.map_congr_left fun p _ => if_pos (by simp only [gatherRoom]; omega)

theorem State.memHeld_of_logFull (swept : r.uniform = false) (glob : xSpc (h.xmem r.i) = 0) (full : s.logFull h.core = true) :
    s.memHeld h r = true := by
  simp [State.memHeld, swept, glob, full]

theorem Sheaf.enqueue_mq (h : Sheaf) (as : List Access) (scp : BitVec 3) : (h.enqueue as 0 scp).mq = h.mq ++ as.map .acc ∧
    (h.enqueue as 1 scp).mq = h.ungather.mq ++ as.map .acc ++ [.acqOf (h.nseq + 1) scp] ∧
    (h.enqueue as 2 scp).mq = h.ungather.mq ++ [.release h.nseq scp] ++ as.map .acc ∧
    (h.enqueue as 3 scp).mq = h.ungather.mq ++ [.release h.nseq scp] ++ as.map .acc ++ [.acqOf (h.nseq + 1) scp] := by
  simp [Sheaf.enqueue]

/-- Putting accesses into the queue changes no register, lane or path. -/
theorem Sheaf.enqueue_eq (h : Sheaf) (as : List Access) (ord : BitVec 2) (scp : BitVec 3) :
    h.enqueue as ord scp = { h with mq := (h.enqueue as ord scp).mq, nseq := (h.enqueue as ord scp).nseq } := by
  simp only [Sheaf.enqueue]
  split <;> rfl

/-! The causes of an address in global memory (06/R144). -/

theorem State.globCauses_misaligned {a : Int} {n : Nat} (odd : a % n ≠ 0) (rd : Bool) :
    (4, BitVec.ofInt 64 a) ∈ s.globCauses h 0 a n rd := by
  simp [State.globCauses, accCauses, odd]

theorem State.globCauses_outside {a : Int} (out : a < 0 ∨ 2 ^ 57 ≤ a) (n : Nat) (rd : Bool) :
    (6, BitVec.ofInt 64 a) ∈ s.globCauses h 0 a n rd := by
  have above : 0 ≤ a → 2 ^ 57 ≤ a := fun lo => out.resolve_left (Int.not_lt.mpr lo)
  simpa [State.globCauses, accCauses] using above

theorem State.globCauses_good {a : Int} {n : Nat} (lo : 0 ≤ a) (hi : a < 2 ^ 57) (even : a % n = 0) (rd : Bool) :
    s.globCauses h 0 a n rd = [] := by
  simpa [State.globCauses, accCauses, even, lo] using hi

theorem State.finish_raises {i : Instr} {c : Nat} {a : DWord} {cs : List (Nat × DWord)} (found : cs ≠ [])
    (least : lowestCause (firstPer cs) = some (c, a)) :
    s.finish h i cs = (s.violateAll h (firstPer cs)).takeTrap h c a (encode i) false h.unitPc h.unitPc := by
  simp [State.finish, found, State.raise, least]

end Sys2Proof.Machine
end

section
open Sys2Proof Sys2Proof.Machine

/-- Settles O20: a ready form without a cause asks; its access by the fields of the form. -/
theorem globalFormsQueueAccesses : Obligations.GlobalFormsQueueAccesses := by
  refine ⟨fun f hf o s h rd room good => ?loads, fun f hf o s h rd spc room good => ?atomics,
    fun f hf o h lid a d u small => ?access, fun s core as fits => State.intoGather_fits fits,
    fun s core as full => State.intoGather_full full as, fun s h r swept glob full => State.memHeld_of_logFull swept glob full,
    fun f hf o s h rd held => ?held, Sheaf.enqueue_mq⟩
  case loads => rw [exec_globForm hf rd, State.globForm_good room good]
  case atomics => rw [exec_globAtom hf rd spc, State.globForm_good room good]
  case access => rw [MemReq.accs_single h lid a d u small, globForms_o f hf]
  case held => rw [exec_globForm hf rd, State.globForm_held held]

/-- Settles O21: the causes of a form by whether it is uniform and whether a lane accesses; those of an address by R144. -/
theorem misalignedLaneRaisesCause : Obligations.MisalignedLaneRaisesCause := by
  refine ⟨fun f hf o s h rd room bad => ⟨fun u => ?uniform, fun u idle => ?trap, fun u busy => ?later⟩, fun f hf o s h => ?frame,
    fun s h i u cs => rfl, fun s h a n rd odd => State.globCauses_misaligned odd rd,
    fun s h a n rd out => State.globCauses_outside out n rd, fun s h a n rd lo hi even => State.globCauses_good lo hi even rd,
    fun s h i cs good => good ▸ rfl, fun s h i c a cs found least => State.finish_raises found least⟩
  case uniform => rw [exec_globForm hf rd, State.globForm_uniform room bad u]
  case trap => rw [exec_globForm hf rd, State.globForm_swept room u, if_pos idle]
  case later => rw [exec_globForm hf rd, State.globForm_swept room u, if_neg busy]
  case frame =>
    dsimp only [asking]
    rw [Sheaf.enqueue_eq]
    exact ⟨rfl, rfl, rfl, rfl⟩
end

section
/-! SUPPORT. A sheaf that has observed all its operations meets no region of one (06/R169). -/

namespace Sys2Proof.Machine

variable {s : State} {h : Sheaf}

@[simp] theorem State.met_of_unseen (u : s.unseen h = []) (sp a n : Nat) (w : Bool) : s.met h sp a n w = [] := by
  rw [State.met, u, List.filter_nil]

@[simp] theorem State.touch_of_unseen (u : s.unseen h = []) (sp a n : Nat) (w : Bool) : s.touch h sp a n w = s := by
  rw [State.touch, State.met_of_unseen u]
  rfl

@[simp] theorem State.clouded_of_unseen (u : s.unseen h = []) (sp a n : Nat) : s.clouded h sp a n = false := by
  rw [State.clouded, u, List.any_nil]

end Sys2Proof.Machine
end

section
/-! SUPPORT. The forms on transaction barriers and WAITA, past the checks of their offset (06/R175 to R178). -/

namespace Sys2Proof.Machine

variable {o : FSY} {s : State} {h : Sheaf}

/-- An offset that is aligned and inside the allotment has no cause. -/
theorem accCauses_nil {a n : Nat} {c : Nat} {t : DWord} {inside : Bool} (even : a % n = 0) (within : inside = true) :
    accCauses a n inside c t = [] := by
  have : (a : Int) % (n : Int) = 0 := by exact_mod_cast even
  simp [accCauses, this, within]

/-- A form on a transaction barrier that is ready for it goes on at its place, after what its access touches. -/
theorem State.onTxb_ready (t : txbReady s h o) (i : Instr) (wr : Bool) (k : Nat → Bool → Sheaf → State → State) :
    s.onTxb h i o wr k =
      let a := h.scrAbs (h.getS o.sa.toNat).toNat
      let s0 := s.touch h 1 a 16 wr
      k a (s.clouded h 1 a 16) (h.retile s0) s0 := by
  obtain ⟨even, within, markers, own, good⟩ := t
  simp only [State.onTxb, accCauses_nil even (decide_eq_true within), markers, own, good]
  rfl

/-- So does WAITA on a word that is there and no acquire is before. -/
theorem execWaita_ready (r : Ready s h (.waita o)) (even : (h.getS o.sa.toNat).toNat % 4 = 0)
    (within : (h.getS o.sa.toNat).toNat + 4 ≤ h.scrBytes) (acquires : (h.mq.any fun e => e.isAcquire) = false)
    (own : s.ownBehind h = false) (good : s.scrBad (h.scrAbs (h.getS o.sa.toNat).toNat) 4 = false) :
    let a := h.scrAbs (h.getS o.sa.toNat).toNat
    let s0 := s.touch h 1 a 4 false
    let cl := s.clouded h 1 a 4
    let w : Word := if cl then freeWord s0.ctl.free else BitVec.ofNat 32 (leNat (s.scrRead a 4))
    let s1 := if cl then s0.draw 1 else s0
    exec (.waita o) s = .next (if waitCond o.h w (h.getS o.sb.toNat) then s1.done (h.retile s0).ungather
      else s1.hold (h.retile s0) true) := by
  refine (issue_ready r _).trans ?_
  simp only [accCauses_nil even (decide_eq_true within), acquires, own, good]
  rfl

end Sys2Proof.Machine
end

section
open Sys2Proof Sys2Proof.Machine

/-- Settles O32: each form is ready, its offset good, so it acts on the object at its place; TXBA by its release. -/
theorem transactionBarrierForms : Obligations.TransactionBarrierForms := by
  refine ⟨fun o s h r t => (issue_ready r _).trans (congrArg _ (State.onTxb_ready t ..)),
    fun o s h r t => (issue_ready r _).trans (congrArg _ (State.onTxb_ready t ..)),
    fun o s h r t => ⟨fun rel => (issue_ready r _).trans (congrArg _ ((State.onTxb_ready t ..).trans (State.afterRelease_waits rel ..))),
      fun rel => ?arrives⟩,
    fun s a uid t => ⟨rfl, rfl⟩, fun o s h r t => (issue_ready r _).trans (congrArg _ (State.onTxb_ready t ..)),
    fun o s h r t => (issue_ready r _).trans (congrArg _ (State.onTxb_ready t ..)),
    fun o s h r even within acquires own => execWaita_ready r even within acquires own,
    fun s h sp a n w u => ⟨State.touch_of_unseen u .., State.clouded_of_unseen u ..⟩⟩
  case arrives =>
    refine (issue_ready r _).trans (congrArg _ ((State.onTxb_ready t ..).trans ((State.afterRelease_released rel ..).trans ?_)))
    simp only [Bool.and_eq_true, beq_iff_eq, Bool.not_eq_true']
    rfl
end

section
/-! SUPPORT. The handle forms by what their handle holds (06/R180 to R184). -/

namespace Sys2Proof.Machine

variable {o : FSY} {s : State} {h : Sheaf}

theorem execHwait_ready (r : Ready s h (.hwait o)) (held : h.getH o.h.toNat ≠ .empty) :
    let x := h.getH o.h.toNat
    let y := s.observe h.ungather x
    exec (.hwait o) s = .next (if s.hPending x then s.hold h true
      else (y.1.statusRead x).done (y.2.setStatus o.sa (s.statusOf x))) := by
  refine (issue_ready r _).trans ?_
  simp only [beq_iff_eq, held, if_false]

theorem execHtest_ready (r : Ready s h (.htest o)) (held : h.getH o.h.toNat ≠ .empty) :
    let x := h.getH o.h.toNat
    let y := s.observe h x
    exec (.htest o) s = .next ((y.1.statusRead x).done (y.2.setStatus o.sa (s.statusOf x))) := by
  refine (issue_ready r _).trans ?_
  simp only [beq_iff_eq, held, if_false]

/-- On an empty handle each form raises 0x09 (06/R180). -/
theorem emptyHandle_traps : ∀ p ∈ ([Instr.hwait, Instr.htest, Instr.hcan, Instr.hexp] : List (FSY → Instr)),
    ∀ (o : FSY) (s : State) (h : Sheaf), Ready s h (p o) → h.getH o.h.toNat = .empty →
      exec (p o) s = .next (s.decodeTrap h (encode (p o)) 9) := by
  simp only [List.forall_mem_cons, List.not_mem_nil, false_implies, implies_true, and_true]
  and_intros
  all_goals
    refine fun o s h r empty => (issue_ready r _).trans ?_
    simp [empty]

theorem execHcan_bar {b : BarHandle} (r : Ready s h (.hcan o)) (held : h.getH o.h.toNat = .bar b) (pending : b.code = 1) :
    exec (.hcan o) s = .next (s.done (h.setH o.h.toNat (.bar { b with code := 2 }))) := by
  refine (issue_ready r _).trans ?_
  simp only [held, pending]
  rfl

theorem execHcan_op {id : Nat} {p : Op} {hp : Sheaf} (r : Ready s h (.hcan o)) (held : h.getH o.h.toNat = .op id)
    (op : s.op? id = some p) (live : p.live = true) (stage : p.stage < 2) (sheaf : s.sheaf? p.sheaf = some hp) :
    exec (.hcan o) s = .next ((s.cancelOp p hp).done (((s.cancelOp p hp).sheaf? h.uid).getD h)) := by
  refine (issue_ready r _).trans ?_
  simp only [held, op, live, stage, sheaf, decide_true, Bool.and_self, if_true]

/-- HEXP with a slot to take writes its token. -/
theorem execHexp_slot {c : Ctx} {id k : Nat} (r : Ready s h (.hexp o)) (held : h.getH o.h.toNat = .op id)
    (ctx : s.ctx? h.ctx = some c) (room : (c.exports.filter fun e => e.op.isSome).length < 1024) (slot : c.exportSlot id = some k) :
    exec (.hexp o) s = .next ((s.modCtx h.ctx fun c => c.exportPut k id).done (h.setStatus o.sa (c.exportGen k ++ BitVec.ofNat 32 k))) := by
  refine (issue_ready r _).trans ?_
  simp only [held, ctx, slot, if_neg (Nat.not_le.mpr room)]

/-- HIMP of a token that matches a slot in use. -/
theorem execHimp_slot {c : Ctx} {e : Export} {id : Nat} (r : Ready s h (.himp o)) (ctx : s.ctx? h.ctx = some c)
    (found : c.exports.find? (fun e => e.slot == ((h.getPair o.sa.toNat).extractLsb' 0 10).toNat &&
      e.gen == (h.getPair o.sa.toNat).extractLsb' 32 32 && (h.getPair o.sa.toNat).extractLsb' 10 22 == 0) = some e)
    (op : e.op = some id) : exec (.himp o) s = .next ((s.done (h.setH o.h.toNat (.op id))).collect h.ctx) := by
  refine (issue_ready r _).trans ?_
  simp only [ctx, Option.bind_some, found, op]

/-- A finished operation, as the sheaf sees it again and for the first time (06/R182). -/
theorem State.observe_seen {id : Nat} {p : Op} (op : s.op? id = some p) (seen : h.uid ∈ p.seenBy) : s.observe h (.op id) = (s, h) := by
  cases st : p.status <;> simp [State.observe, op, st, seen]

theorem State.observe_first {id : Nat} {p : Op} {st : DWord} (op : s.op? id = some p) (done : p.status = some st)
    (first : h.uid ∉ p.seenBy) : s.observe h (.op id) = (s.modOp id fun o => { o with seenBy := o.seenBy ++ [h.uid] },
      if st.extractLsb' 0 3 = 0 then { h with fflg := h.fflg ||| p.facc, gw := max h.gw p.opgw } else h) := by
  simp only [State.observe, op, Option.bind_some, done, Option.map_some, List.contains_iff_mem, first, if_false, beq_iff_eq]
  rfl

end Sys2Proof.Machine
end

section
open Sys2Proof Sys2Proof.Machine

/-- Settles O33: each form is ready, so it does what its handle, or its token, asks. -/
theorem handleForms : Obligations.HandleForms := by
  refine ⟨fun o s h r held idle => ?waited, fun o s h r held pending => ?waits, fun o s h r held => execHtest_ready r held,
    emptyHandle_traps, fun o s h b r held pending => execHcan_bar r held pending,
    fun o s h hp id p r held op live stage sheaf => execHcan_op r held op live stage sheaf,
    fun o s h c id k r held ctx room slot => execHexp_slot r held ctx room slot,
    fun o s h c e id r ctx _ found op => execHimp_slot r ctx found op,
    fun s h id p st op done => ⟨fun seen => State.observe_seen op seen, fun first => ?observes⟩⟩
  case waited => rw [execHwait_ready r held, if_neg (by simp [idle])]
  case waits => rw [execHwait_ready r held, if_pos pending]
  case observes =>
    rw [State.observe_first op done first]
    exact ⟨rfl, rfl⟩
end

section
/-! SUPPORT. The forms of own and peer scratch (06/R156 to R160): what a ready one does, by its order, its target and its causes. -/

namespace Sys2Proof.Machine

variable {s : State} {h h0 : Sheaf} {r : MemReq} {f : FM → MemReq} {o : FM}

theorem scrForms_o : ∀ f ∈ scrForms ++ atomForms, ∀ o, (f o).o = o := fun f hf o =>
  congrFun (List.map_inj_left (f := fun (f : FM → MemReq) (o : FM) => (f o).o) (g := fun _ o => o).mp rfl f hf) o

theorem scrForms_issue : ∀ f ∈ scrForms, ∀ (o : FM) (s : State),
    exec (f o).i s = issue (f o).i s fun h s => s.scrForm h (f o) :=
  forall_mem_of_map_eq rfl

/-- A ready form of own or peer scratch, an atomic among them. -/
theorem exec_scrForm (hf : f ∈ scrForms ++ atomForms) (rd : Ready s h (f o).i)
    (spc : xSpc (h.xmem (f o).i) = 1 ∨ xSpc (h.xmem (f o).i) = 2) : exec (f o).i s = .next (s.scrForm h (f o)) := by
  obtain hf | hf := List.mem_append.mp hf
  · exact (scrForms_issue f hf o s).trans (issue_ready rd _)
  · rw [atomForms_issue f hf, issue_ready rd]
    obtain spc | spc := spc <;> simp [spc]

/-- A lane's offset in its target. -/
def MemReq.off (r : MemReq) (h : Sheaf) (l : Lane) : Int := h.ea r.o r.size false (some l)

/-- The causes of the lanes at a target, each with its LID (06/R144, R146). -/
def MemReq.scrFaults (r : MemReq) (h : Sheaf) (t : ScrTarget) : List (Nat × Nat × DWord) :=
  (h.effLanes r.i).flatMap fun l => (t.causes (r.off h l) r.size).map fun c => (l.lid, c)

/-- The lanes that access a target: those without a cause, the stores of earlier lanes to one offset left out (06/R148). -/
def MemReq.scrAskers (r : MemReq) (h : Sheaf) (t : ScrTarget) : List Lane :=
  let good := (h.effLanes r.i).filter fun l => (t.causes (r.off h l) r.size).isEmpty
  if r.kind == .store then keepLast (fun l => (r.off h l).toNat) good else good

/-- Own scratch as a target. -/
def Sheaf.ownScr (h : Sheaf) : ScrTarget := ⟨h.scrAbs 0, h.scrBytes, h.uid, h.core, none, false⟩

/-- The accesses of some lanes to own scratch, one after the other, with the causes met beside `cs` (06/R158). -/
def State.ownRun (s : State) (h : Sheaf) (r : MemReq) (cs : List (Nat × DWord)) (ls : List Lane) : State × Sheaf × List (Nat × DWord) :=
  ls.foldl (fun (q : State × Sheaf × List (Nat × DWord)) (l : Lane) =>
    let y := q.1.ownAccess q.2.1 r l (r.off h l).toNat
    (y.1, y.2.1, q.2.2 ++ y.2.2)) (s, h, cs)

/-- The results on their way from own scratch (02/R31). -/
def MemReq.lateRes (r : MemReq) (ls : List Lane) : List LateRes :=
  if r.kind == .store || ls.isEmpty then [] else [⟨r.o.d.toNat, if r.kind == .load then r.regs else 1, ls.map (·.lid), false⟩]

/-- The state and the sheaf once the requests of some lanes are in their channels (08/R251). -/
def State.chanRun (s : State) (h : Sheaf) (x : BitVec 24) (r : MemReq) (t : ScrTarget) (ls : List Lane) : State × Sheaf :=
  let rs := ls.flatMap fun l => r.chan s h t l (r.off h l).toNat
  let s1 := rs.foldl (fun (u : State) (c : ChanReq) => u.touch h 1 c.addr c.size (r.kind != .load)) s
  ({ s1 with mm := { s1.mm with chans := s1.mm.chans ++ rs } }, { h.retile s1 with
    nseq := h.nseq + 2
    mq := h.mq ++ (if (xOrd x).getLsbD 0 then [MqEntry.acqOf (h.nseq + 1) (xScp x)] else []) })

theorem asOrdered_eq (r : MemReq) (h : Sheaf) : asOrdered r h = { h with mq := (asOrdered r h).mq } := by
  unfold asOrdered
  split <;> rfl

theorem asOrdered_xmem (r : MemReq) (h : Sheaf) (i : Instr) : (asOrdered r h).xmem i = h.xmem i := by
  rw [asOrdered_eq]
  rfl

/-- Behind an unsatisfied marker, or before its own release may pass, a scratch form waits. -/
theorem State.scrForm_blocked (blocked : ¬ orderFree r s (asOrdered r h0)) : s.scrForm h0 r = s.hold (asOrdered r h0) false := by
  rw [orderFree, asOrdered_xmem] at blocked
  by_cases markers : ((asOrdered r h0).mq.any fun e => e.isAcquire || (r.kind != .load && e.isRelease)) = true
  · exact if_pos markers
  · have waits : ((xOrd (h0.xmem r.i)).getLsbD 1 && !s.released (asOrdered r h0) (xScp (h0.xmem r.i))) = true := by
      rw [Bool.not_eq_true] at markers
      simpa [markers] using blocked
    exact (if_neg markers).trans (if_pos waits)

/-- Otherwise it goes to its target. -/
theorem State.scrForm_free (free : orderFree r s (asOrdered r h0)) : s.scrForm h0 r =
    let h := asOrdered r h0
    let x := h0.xmem r.i
    let peer := if xSpc x == 2 then some (h.memIndex x) else none
    match s.target h peer with
    | none => s.finish h r.i ((h.effLanes r.i).flatMap fun l => accCauses (r.off h l) r.size false 7 (scrTrapa peer (r.off h l)))
    | some t =>
      if t.held then s.hold h true
      else if peer.isNone && s.ownBehind h then s.hold h false
      else
        let cs := r.scrFaults h t
        let ls := r.scrAskers h t
        match peer with
        | none =>
          let q := s.ownRun h r (cs.map (·.2)) ls
          q.1.finish { q.2.1 with late := q.2.1.late ++ r.lateRes ls } r.i q.2.2
        | some _ =>
          let q := s.chanRun h x r t ls
          if (ls.flatMap fun l => r.chan s h t l (r.off h l).toNat).isEmpty then q.1.finish q.2 r.i (cs.map (·.2))
          else q.1.finishLater q.2 r.i h.nseq cs := by
  obtain ⟨markers, rel⟩ := free
  have passes : ((xOrd (h0.xmem r.i)).getLsbD 1 && !s.released (asOrdered r h0) (xScp (h0.xmem r.i))) = false := by
    rw [asOrdered_xmem] at rel
    simpa using rel
  exact (if_neg (ne_true_of_eq_false markers)).trans (if_neg (ne_true_of_eq_false passes))

/-- A form of own scratch acts lane by lane, unless a request of the sheaf to itself is before it. -/
theorem State.scrForm_own (spc : xSpc (h0.xmem r.i) = 1) (free : orderFree r s (asOrdered r h0)) : s.scrForm h0 r =
    let h := asOrdered r h0
    let ls := r.scrAskers h h.ownScr
    let q := s.ownRun h r ((r.scrFaults h h.ownScr).map (·.2)) ls
    if s.ownBehind h then s.hold h false
    else q.1.finish { q.2.1 with late := q.2.1.late ++ r.lateRes ls } r.i q.2.2 := by
  rw [State.scrForm_free free]
  dsimp only
  rw [if_neg (by simp [spc])]
  rfl

/-- A form of peer scratch whose index names a member that is not held puts its requests into the channels. -/
theorem State.scrForm_peer {t : ScrTarget} (spc : xSpc (h0.xmem r.i) = 2) (free : orderFree r s (asOrdered r h0))
    (target : s.target (asOrdered r h0) (some ((asOrdered r h0).memIndex (h0.xmem r.i))) = some t) (here : t.held = false) :
    s.scrForm h0 r =
    let h := asOrdered r h0
    let ls := r.scrAskers h t
    let q := s.chanRun h (h0.xmem r.i) r t ls
    if (ls.flatMap fun l => r.chan s h t l (r.off h l).toNat).isEmpty then q.1.finish q.2 r.i ((r.scrFaults h t).map (·.2))
    else q.1.finishLater q.2 r.i h.nseq (r.scrFaults h t) := by
  rw [State.scrForm_free free]
  dsimp only
  rw [if_pos (by simp [spc]), target]
  dsimp only
  rw [if_neg (by simp [here]), if_neg (by simp)]

/-- With no such member every lane has a cause (06/R146). -/
theorem State.scrForm_noMember (spc : xSpc (h0.xmem r.i) = 2) (free : orderFree r s (asOrdered r h0))
    (target : s.target (asOrdered r h0) (some ((asOrdered r h0).memIndex (h0.xmem r.i))) = none) : s.scrForm h0 r =
    let h := asOrdered r h0
    let peer := some (h.memIndex (h0.xmem r.i))
    s.finish h r.i ((h.effLanes r.i).flatMap fun l => accCauses (r.off h l) r.size false 7 (scrTrapa peer (r.off h l))) := by
  rw [State.scrForm_free free]
  dsimp only
  rw [if_pos (by simp [spc]), target]

/-- With every lane good there is no cause, and every lane accesses but the stores that a later one overwrites. -/
theorem MemReq.scrFaults_nil {t : ScrTarget} (good : ∀ l ∈ h.effLanes r.i, t.causes (r.off h l) r.size = []) : r.scrFaults h t = [] :=
  List.flatMap_eq_nil_iff.mpr fun l hl => by rw [good l hl, List.map_nil]

theorem MemReq.scrAskers_all {t : ScrTarget} (good : ∀ l ∈ h.effLanes r.i, t.causes (r.off h l) r.size = []) : r.scrAskers h t =
    if r.kind == .store then keepLast (fun l => (r.off h l).toNat) (h.effLanes r.i) else h.effLanes r.i := by
  have all : ((h.effLanes r.i).filter fun l => (t.causes (r.off h l) r.size).isEmpty) = h.effLanes r.i :=
    List.filter_eq_self.mpr fun l hl => by rw [good l hl, List.isEmpty_nil]
  simp only [MemReq.scrAskers, all]

/-- An offset in own scratch that is aligned and inside the allotment has no cause. -/
theorem Sheaf.ownScr_causes {a : Int} {n : Nat} (lo : 0 ≤ a) (hi : a + n ≤ h.scrBytes) (even : a % n = 0) :
    h.ownScr.causes a n = [] := by
  simp [ScrTarget.causes, accCauses, Sheaf.ownScr, lo, hi, even]

end Sys2Proof.Machine
end

section
/-! SUPPORT. A lane's access at the scratchpad (06/R157 to R162). -/

namespace Sys2Proof.Machine

variable {s : State} {h : Sheaf} {r : MemReq}

theorem State.plainWrite_of_noTxb (none : s.liveTxbs = []) (a : Nat) (bs : List Byte) (uid : Nat) :
    s.plainWrite a bs uid = s.scrWrite a bs uid := by
  simp [State.plainWrite, none]

theorem State.stsWrite_of_noWaits (none : s.waitedWords = []) (a : Nat) (bs : List Byte) (uid : Nat) :
    s.stsWrite a bs uid = s.plainWrite a bs uid := by
  simp [State.stsWrite, none]

theorem State.scrAccess_atomic {a : Nat} (good : s.scrBad a 4 = false) (uid op n : Nat) (d : BitVec 128) :
    s.scrAccess uid (.atomic op) a n d = (s.plainWrite a (bvLe (atomicNew op (BitVec.ofNat 32 (leNat (s.scrRead a 4)))
      (d.truncate 32) ((d >>> 32).truncate 32)) 4) uid, (BitVec.ofNat 32 (leNat (s.scrRead a 4))).toNat, false) := by
  simp [State.scrAccess, good]

/-- A load of a bad word is removed whole. -/
theorem State.ownAccess_loadBad {off : Nat} (u : s.unseen h = []) (load : r.kind = .load)
    (bad : s.scrBad (h.scrAbs off) r.size = true) (l : Lane) :
    s.ownAccess h r l off = (s, h, [(0x12, BitVec.ofNat 64 off)]) := by
  simp [State.ownAccess, u, load, bad]

/-- A load of at most 8 good bytes puts them into the lane's registers. -/
theorem State.ownAccess_load {off : Nat} (u : s.unseen h = []) (load : r.kind = .load) (small : r.size ≤ 8)
    (good : s.scrBad (h.scrAbs off) r.size = false) (l : Lane) : s.ownAccess h r l off = (s,
      h.receive l.lid ⟨true, r.o.d.toNat, r.signed⟩ r.size (leNat (s.scrRead (h.scrAbs off) r.size)), []) := by
  simp [State.ownAccess, u, load, good, parts_small small, State.scrAccess]

end Sys2Proof.Machine
end

section
open Sys2Proof Sys2Proof.Machine

/-- Settles O22: with no cause and nothing in its way the form is performed lane by lane. -/
theorem scratchFormsAccessAtIssue : Obligations.ScratchFormsAccessAtIssue := by
  refine ⟨fun f hf o s h0 rd spc free own inside => ?performs, fun s uid a n d => rfl, fun s uid a n d => rfl,
    fun s uid a op n d good => State.scrAccess_atomic good uid op n d, fun s a uid bs none => State.plainWrite_of_noTxb none a bs uid,
    fun s a uid bs none => State.stsWrite_of_noWaits none a bs uid,
    fun s h r l off u load => ⟨fun bad => State.ownAccess_loadBad u load bad l, fun small good => State.ownAccess_load u load small good l⟩⟩
  case performs =>
    have ho := scrForms_o f hf o
    have good (l) (hl : l ∈ (asOrdered (f o) h0).effLanes (f o).i) :
        (asOrdered (f o) h0).ownScr.causes ((f o).off (asOrdered (f o) h0) l) (f o).size = [] := by
      obtain ⟨lo, hi, even⟩ := inside l hl
      simp only [MemReq.off, ho]
      exact Sheaf.ownScr_causes lo hi even
    rw [exec_scrForm hf rd (.inl spc), State.scrForm_own spc free]
    dsimp only
    rw [own, MemReq.scrFaults_nil good, MemReq.scrAskers_all good]
    simp only [MemReq.off, ho, MemReq.lateRes, State.ownRun]
    rfl
end

section
/-! SUPPORT. Requests to peer scratch and their responses (08/R251, 09/R270). -/

namespace Sys2Proof.Machine

variable {s : State} {h : Sheaf} {r : ChanReq} {b : ChanResp}

/-- An index that no member has resolves to nothing. -/
theorem State.member?_none {m : Nat} (no : ∀ k, s.stookOf h = some k → ∀ x ∈ k.members, x.idx ≠ m) : s.member? h m = none := by
  cases st : s.stookOf h with
  | none => simp [State.member?, st]
  | some k =>
    have : k.members.find? (fun x => x.idx == m) = none := by simpa [List.find?_eq_none] using no k st
    simp [State.member?, st, this]

/-- The lane causes of an index without member, as one list (06/R144, R146). -/
theorem accCauses_outside (a : Int) (n c : Nat) (t : DWord) :
    accCauses a n false c t = (if a % (n : Int) ≠ 0 then [(4, t)] else []) ++ [(c, t)] := by
  simp [accCauses]

/-- The machine without the request at the head of a channel. -/
def State.popChan (s : State) (src dst : Nat) : State :=
  { s with mm := { s.mm with chans := s.mm.chans.eraseP fun x => x.src == src && x.dst == dst } }

/-- DELIVER performs the request at the head of its channel. -/
theorem execDeliver_head {src dst : Nat} (head : s.mm.chans.find? (fun r => r.src == src && r.dst == dst) = some r) :
    exec (.deliver src dst) s = .next (let y := (s.popChan src dst).deliverReq r
      { y.1 with mm := { y.1.mm with backs := y.1.mm.backs ++ [y.2] } }) := by
  show execDeliver src dst s = _
  simp only [execDeliver, head]
  rfl

theorem State.deliverReq_load (load : r.kind = .acc .load) :
    s.deliverReq r = (s, ⟨r, leNat (s.scrRead r.addr r.size), s.scrBad r.addr r.size⟩) := by
  simp only [State.deliverReq, load]
  rfl

theorem State.deliverReq_store (store : r.kind = .acc .store) :
    s.deliverReq r = (s.stsWrite r.addr (bvLe r.data r.size) r.uid, ⟨r, 0, false⟩) := by
  simp only [State.deliverReq, store]
  rfl

/-- The machine without the response at the head of a return channel. -/
def State.popBack (s : State) (src dst : Nat) : State :=
  { s with mm := { s.mm with backs := s.mm.backs.eraseP fun x => x.req.src == src && x.req.dst == dst } }

theorem State.respond_acc {src dst : Nat} {k : AccKind}
    (head : s.mm.backs.find? (fun b => b.req.src == src && b.req.dst == dst) = some b) (acc : b.req.kind = .acc k) :
    s.respond src dst = (s.popBack src dst).accAnswer b := by
  simp only [State.respond, head, acc]
  rfl

/-- The only response of a lane writes its register, or leaves the cause of a bad word. -/
theorem State.accAnswer_whole (alone : s.requests.any b.req.twin = false) (first : b.req.half = none) (clear : b.req.undef = false) :
    s.accAnswer b = if b.bad then s.lateChan b.req else match b.req.dest with
      | none => s
      | some d => s.modSheaf b.req.uid fun h => h.receive b.req.id.lid d b.req.size b.val := by
  have no : (none == some (none : Option DWord)) = false := rfl
  simp only [State.accAnswer, clear, alone, first, no, Bool.false_eq_true, if_false, Bool.or_false] <;> rfl

end Sys2Proof.Machine
end

section
open Sys2Proof Sys2Proof.Machine

/-- Settles O23: the form by its target, DELIVER and the response by what stands at the head of their channels. -/
theorem peerFormsUseChannels : Obligations.PeerFormsUseChannels := by
  refine ⟨fun f hf o s h0 t rd spc free target here good => ?asks, fun s h a n w u => State.touch_of_unseen u ..,
    fun f hf o s h0 rd spc free target => ?noMember, fun s h m no => ?resolves,
    fun src dst s r head => ⟨fun load => ?load, fun store => ?store⟩,
    fun src dst s b k head acc alone first clear => (State.respond_acc head acc).trans (State.accAnswer_whole alone first clear),
    fun s r => rfl⟩
  case asks =>
    have ho := scrForms_o f hf o
    rw [asOrdered_xmem] at target
    have all (l) (hl : l ∈ (asOrdered (f o) h0).effLanes (f o).i) : t.causes ((f o).off (asOrdered (f o) h0) l) (f o).size = [] := by
      rw [MemReq.off, ho]
      exact good l hl
    rw [exec_scrForm hf rd (.inr spc), State.scrForm_peer spc free target here]
    dsimp only
    rw [MemReq.scrFaults_nil all, MemReq.scrAskers_all all, List.map_nil, State.finish_nil, State.finishLater_nil, ite_self,
      asOrdered_xmem]
    simp only [MemReq.off, ho, State.chanRun]
  case noMember =>
    rw [asOrdered_xmem] at target
    rw [exec_scrForm hf rd (.inr spc), State.scrForm_noMember spc free target]
    simp only [accCauses_outside, MemReq.off, scrForms_o f hf o, asOrdered_xmem]
  case resolves => simp [State.target, State.member?_none no]
  case load =>
    rw [execDeliver_head head, State.deliverReq_load load]
    rfl
  case store =>
    rw [execDeliver_head head, State.deliverReq_store store]
    rfl
end

section
/-! SUPPORT. The completion of an operation without an error (08/R253, R254; 06/R176): which part of it a step makes. -/

namespace Sys2Proof.Machine

variable {s : State} {id : Nat} {o : Op} {h : Sheaf}

/-- COMPLETE on a running operation that is no RED. -/
theorem execComplete_runs (r : opRuns s id o h) (red : o.kind ≠ .red) : exec (.complete id) s = .next
    (if (s.badLine o).isSome && !o.failed then s.failOp id 7 0x12 (BitVec.ofNat 64 ((s.badLine o).getD 0))
     else if (o.susp && !o.failed) || !s.finished o h then s
     else if o.completionPeers.any fun m => ((s.peerOf h m).map fun r => r.2 || s.requests.any fun (c : ChanReq) =>
        c.src == o.core && c.dst == r.1.core).getD false then s
     else s.completeOp o h) := by
  show execComplete id s = _
  have : (o.kind == .red) = false := by simpa using red
  simp only [execComplete, State.withOp_runs r, this, Bool.false_and, Bool.false_eq_true, if_false]

/-- With its work done and no peer in its completion, an operation completes. -/
theorem execComplete_completes (r : opRuns s id o h) (red : o.kind ≠ .red) (whole : s.badLine o = none) (awake : o.susp = false)
    (fin : s.finished o h = true) (peers : o.completionPeers = []) : exec (.complete id) s = .next (s.completeOp o h) := by
  rw [execComplete_runs r red, whole, awake, fin, peers]
  rfl

/-- The outcome of an operation that has met no error and is not truncated. -/
theorem State.outcome_clean (code : o.code = 0) (xfers : o.xfers = []) (dec : o.kind ≠ .dec)
    (cut : (o.kind.isBulk || o.kind == .lg2s || o.kind == .ls2g) = true → s.truncation o h = none) :
    s.outcome o h = (0, [], false) := by
  have cut : (if o.kind.isBulk || o.kind == .lg2s || o.kind == .ls2g then s.truncation o h else none) = none := by
    split
    next c => exact cut c
    next => rfl
  have dec : (o.kind == .dec) = false := by simpa using dec
  simp only [State.outcome, cut, code, xfers, dec]
  rfl

/-- The status of an operation of a kind that ends in nothing else. -/
theorem State.closeOp_plain (kind : o.kind ∉ [.dec, .dscd, .pref, .red]) (xfers : o.xfers = [])
    (clean : s.outcome o h = (0, [], false)) : s.closeOp o h = s.endOp o h 0 0 [] := by
  simp only [List.mem_cons, List.not_mem_nil, or_false, not_or] at kind
  obtain ⟨dec, dscd, pref, red⟩ := kind
  have dec' : (o.kind == .dec) = false := by simpa using dec
  have supp : (o.xfers.any fun x => x.supp) = false := by rw [xfers, List.any_nil]
  simp only [State.closeOp, clean, supp, dec', Nat.reduceBEq, Bool.false_and, Bool.or_false, Bool.false_eq_true, if_false]

/-- The parts of a completion without an error, in their order: the count at the TXB, the flag store, the status. -/
theorem State.completeOp_clean (mcast : o.kind ≠ .mcast) (xfers : o.xfers = []) :
    let s0 := s.modOp o.id fun x => { x with xfers := [] }
    s0.outcome o h = (0, [], false) → s.completeOp o h =
      if o.stage == 0 && o.tx then (s0.countOp o h false false).modOp o.id fun x => { x with stage := 1 }
      else if o.stage < 2 && o.fl then
        if s0.flagReady o h then
          let fl := s0.flagStore o h
          match fl.2.2 with
          | none => fl.1.modOp o.id fun x => { x with stage := 2 }
          | some v => (fl.1.countOp o h false true).modOp o.id fun x => { x.fail fl.2.1 v.1 v.2 with stage := 2 }
        else s0.sendBatches o.sheaf
      else s0.closeOp o h := by
  intro s0 clean
  have mcast : (o.kind == .mcast) = false := by simpa using mcast
  simp only [State.completeOp, mcast, Bool.false_eq_true, if_false, xfers]
  rw [clean]
  simp only [Nat.reduceLeDiff, decide_false, BEq.rfl, Bool.true_or, Bool.and_true]
  rfl

/-- The kinds of the matrix engine and the winnow unit that count at no TXB, store no flag and touch no peer as they complete. -/
theorem Op.engine_completion (kind : o.kind ∈ ([.mma, .mmaz, .mmld, .mmst, .mmcv, .mmsp, .spcmp, .wnw, .wnf] : List OpKind)) :
    o.tx = false ∧ o.fl = false ∧ o.completionPeers = [] ∧ (o.kind.isBulk || o.kind == .lg2s || o.kind == .ls2g) = false ∧
    o.kind ≠ .mcast ∧ o.kind ∉ [.dec, .dscd, .pref, .red] := by
  simp only [List.mem_cons, List.not_mem_nil, or_false] at kind
  obtain k | k | k | k | k | k | k | k | k := kind
  all_goals simp [Op.tx, Op.fl, Op.completionPeers, k, OpKind.isBulk]

/-- An operation of theirs whose work is done reads DONE. -/
theorem State.completeOp_engine (kind : o.kind ∈ ([.mma, .mmaz, .mmld, .mmst, .mmcv, .mmsp, .spcmp, .wnw, .wnf] : List OpKind))
    (code : o.code = 0) (xfers : o.xfers = []) :
    s.completeOp o h = (s.modOp o.id fun x => { x with xfers := [] }).endOp o h 0 0 [] := by
  obtain ⟨tx, fl, -, copies, mcast, plain⟩ := o.engine_completion kind
  have clean (t : State) : t.outcome o h = (0, [], false) :=
    State.outcome_clean code xfers (fun dec => plain (by simp [dec])) (by simp [copies])
  rw [State.completeOp_clean mcast xfers (clean _), tx, fl, Bool.and_false, Bool.and_false, State.closeOp_plain plain xfers (clean _)]
  rfl

/-- A BULK copy into own scratch that stores no flag elsewhere touches no peer. -/
theorem Op.bulk_completionPeers {q : Shape} (bulk : o.kind = .bulk) (shape : o.shape = some q) (own : q.dst.sp = 1)
    (flag : o.fl = true → (par o.blk 4).getLsbD 25 = false) : o.completionPeers = [] := by
  have at4 : o.floAt = 4 := by simp [Op.floAt, bulk]
  cases fl : o.fl with
  | false => simp [Op.completionPeers, fl, bulk, shape, own]
  | true =>
    have here := flag fl
    simp only [Op.completionPeers, at4, here, bulk, shape, own, Bool.and_false]
    rfl

/-- It counts at the TXB in its own scratch. -/
theorem State.countOp_bulk {q : Shape} (bulk : o.kind = .bulk) (shape : o.shape = some q) (own : q.dst.sp = 1) (tx : o.tx = true)
    (trn err : Bool) : s.countOp o h trn err =
      (s.countTxb o h (par o.blk 3).toNat o.uncounted.length trn err).modOp o.id fun x =>
        { x with counted := x.counted ++ x.done.filter fun n => !x.counted.contains n } := by
  have holder : s.txbHolder o h = some h := by simp [State.txbHolder, bulk, shape, own]
  simp [State.countOp, tx, bulk, holder, Op.txoAt]

/-- Its flag store stays in its own scratch. -/
theorem State.flagStore_bulk (bulk : o.kind = .bulk) (own : (par o.blk 4).getLsbD 25 = false) : s.flagStore o h =
    (s.plainWrite (h.scrAbs ((par o.blk 4).extractLsb' 0 19).toNat) (bvLe (par o.blk 5) 4) o.sheaf, 0, none) := by
  have at4 : o.floAt = 4 := by simp [Op.floAt, bulk]
  have one : (o.kind == .mcast) = false := by simp [bulk]
  simp only [State.flagStore, at4, one, own, Bool.false_eq_true, if_false]

/-- The completion of a BULK copy into own scratch without an error, part by part. -/
theorem State.completeOp_bulk {q : Shape} (bulk : o.kind = .bulk) (shape : o.shape = some q) (own : q.dst.sp = 1) (code : o.code = 0)
    (xfers : o.xfers = []) (flag : o.fl = true → (par o.blk 4).getLsbD 25 = false) :
    let s0 := s.modOp o.id fun x => { x with xfers := [] }
    s0.truncation o h = none → s.completeOp o h =
      if o.stage == 0 && o.tx then
        ((s0.countTxb o h (par o.blk 3).toNat o.uncounted.length false false).modOp o.id fun x =>
          { x with counted := x.counted ++ x.done.filter fun n => !x.counted.contains n }).modOp o.id fun x => { x with stage := 1 }
      else if o.stage < 2 && o.fl then
        if s0.flagReady o h then
          (s0.plainWrite (h.scrAbs ((par o.blk 4).extractLsb' 0 19).toNat) (bvLe (par o.blk 5) 4) o.sheaf).modOp o.id fun x =>
            { x with stage := 2 }
        else s0.sendBatches o.sheaf
      else s0.endOp o h 0 0 [] := by
  intro s0 whole
  have clean : s0.outcome o h = (0, [], false) := State.outcome_clean code xfers (by simp [bulk]) fun _ => whole
  rw [State.completeOp_clean (by simp [bulk]) xfers clean, State.closeOp_plain (by simp [bulk]) xfers clean]
  refine ite_congr rfl (fun counts => ?_) fun _ => ite_congr rfl (fun stores => ?_) fun _ => rfl
  · obtain ⟨-, tx⟩ : o.stage = 0 ∧ o.tx = true := by simpa using counts
    rw [State.countOp_bulk bulk shape own tx]
  · obtain ⟨-, fl⟩ : o.stage < 2 ∧ o.fl = true := by simpa using stores
    rw [State.flagStore_bulk bulk (flag fl)]

/-- A count at a TXB in a good word of a resident sheaf. -/
theorem State.countTxb_good {x : Sheaf} {off n : Nat} (here : x.resident = true) (within : off + 16 ≤ x.scrBytes) (counts : n ≠ 0)
    (good : s.scrBad (x.scrAbs off) 16 = false) : s.countTxb o x off n false false =
      s.scrWrite (x.scrAbs off) (bvLe ((s.txb (x.scrAbs off)).update false (-(n : Int))).bits 16) o.sheaf := by
  have inside : ¬ x.scrBytes < off + 16 := Nat.not_lt.mpr within
  simp [State.countTxb, inside, State.allotBad, State.txbIn, State.allotRead, State.allotWrite, here, good, counts, State.txb]

/-- In an uncorrectable one it is an error of the operation. -/
theorem State.countTxb_bad {x : Sheaf} {off : Nat} (here : x.resident = true) (within : off + 16 ≤ x.scrBytes)
    (bad : s.scrBad (x.scrAbs off) 16 = true) (n : Nat) (trn err : Bool) :
    s.countTxb o x off n trn err = s.failOp o.id 7 0x12 (BitVec.ofNat 64 off) := by
  have inside : ¬ x.scrBytes < off + 16 := Nat.not_lt.mpr within
  simp [State.countTxb, inside, State.allotBad, here, bad]

/-- Logging violations changes the fault system only. -/
theorem foldl_violate_eq (core ctx : Nat) (shid : Word) (vs : List (Nat × DWord)) (s : State) : ∃ f,
    vs.foldl (fun (t : State) (v : Nat × DWord) => t.violate core ctx shid v.1 v.2) s = { s with flt := f } := by
  induction vs generalizing s with
  | nil => exact ⟨_, rfl⟩
  | cons v vs ih => exact ih (s.violate core ctx shid v.1 v.2)

/-- The end of an operation with DONE, nothing of it left undefined, writes its status; no sheaf, scratch or pool changes. -/
theorem State.endOp_done (s : State) (h : Sheaf) (kind : o.kind ≠ .nnz) (clean : o.taint = false) :
    (s.endOp o h 0 0 []).eng = (s.modOp o.id fun x => { x with status := some 0, susp := false }).eng ∧
    (s.endOp o h 0 0 []).mm.scr = s.mm.scr ∧ (s.endOp o h 0 0 []).mm.pool = s.mm.pool ∧
    (s.endOp o h 0 0 []).sheaves = s.sheaves := by
  have nnz : (o.kind == .nnz) = false := by simpa using kind
  obtain ⟨f, logged⟩ := foldl_violate_eq o.core o.ctx h.shid (o.viol ++ []) (s.dropRequests o.id)
  have keeps : (s.dropRequests o.id).spoils o 0 = false := by simp [State.spoils, clean]
  simp only [State.endOp, keeps, nnz, logged, Nat.reduceBEq, Bool.false_eq_true, if_false]
  exact ⟨rfl, rfl, rfl, rfl⟩

/-- An operation after a change of it that keeps its identifier. -/
theorem State.op?_modOp (found : s.op? id = some o) {f : Op → Op} (keeps : ∀ x, (f x).id = x.id) : (s.modOp id f).op? id = some (f o) := by
  have same : (fun x : Op => x.id == id) ∘ (fun x => if x.id == id then f x else x) = fun x => x.id == id := by
    funext x
    simp only [Function.comp]
    split <;> simp [*]
  have here : o.id = id := by simpa using List.find?_some found
  rw [State.op?] at found ⊢
  rw [State.modOp, List.find?_map, same, found, Option.map_some, if_pos (by simp [here])]

end Sys2Proof.Machine
end

section
open Sys2Proof Sys2Proof.Machine

/-- Settles O38: a completion by its parts; its end by what `endOp` leaves. -/
theorem operationsCompleteInOrder : Obligations.OperationsCompleteInOrder := by
  refine ⟨fun s id o h q r bulk shape own code awake xfers whole fin => ?bulk,
    fun s o x off n here within => ⟨fun some good => State.countTxb_good here within some good,
      fun bad => State.countTxb_bad here within bad n false false⟩,
    fun s id va o h r red up bad => ?badLine, fun s id o h r kind code clean awake whole xfers fin => ?engine,
    fun s o h kind clean op => ?ended, fun s id o h r red up whole busy => ?busy⟩
  case bulk =>
    obtain rfl := opRuns_id r
    intro s0 cut flag
    have completes := execComplete_completes r (by simp [bulk]) whole awake fin (Op.bulk_completionPeers bulk shape own flag)
    rw [State.completeOp_bulk bulk shape own code xfers flag cut] at completes
    refine ⟨fun stage tx => ?_, fun counted stage fl => ?_, fun counted stored => ?_⟩
    · rw [completes, if_pos (by simp [stage, tx])]
    · rw [completes, if_neg (by simpa using counted), if_pos (by simp [stage, fl])]
    · rw [completes, if_neg (by simpa using counted), if_neg (by simpa using stored)]
  case badLine =>
    rw [execComplete_runs r red, bad, up]
    rfl
  case engine =>
    obtain rfl := opRuns_id r
    obtain ⟨-, -, peers, -, -, plain⟩ := o.engine_completion kind
    rw [execComplete_completes r (fun red => plain (by simp [red])) whole awake fin peers, State.completeOp_engine kind code xfers]
  case ended =>
    obtain ⟨eng, scr, pool, sheaves⟩ := State.endOp_done s h kind clean
    have now : (s.endOp o h 0 0 []).op? o.id = some { o with status := some 0, susp := false } := by
      rw [State.op?, eng]
      exact State.op?_modOp op fun _ => rfl
    exact ⟨by rw [now, Option.map_some], scr, pool, sheaves⟩
  case busy =>
    rw [execComplete_runs r red, whole, up, busy]
    simp
end

section
/-! SUPPORT. Joining, leaving and describing a stook (07/R218 to R220; 09/R269). -/

namespace Sys2Proof.Machine

variable {s : State} {h : Sheaf} {o : FS3}

/-- A choice by a code that is not 0, where the code is chosen itself. -/
theorem ite_code {α : Type} {c : Prop} [Decidable c] {a x : Word} (fails : Word → α) (joins : α) (ha : a ≠ 0) :
    (if (if c then a else x) != 0 then fails (if c then a else x) else joins) =
      if c then fails a else if x != 0 then fails x else joins := by
  have ha : (a != 0) = true := by simpa using ha
  by_cases hc : c
  · simp only [if_pos hc, ha, if_true]
  · simp only [if_neg hc]

/-- What follows a join's checks, by the first one that fails (07/R218). -/
theorem State.joinCode_cases {α : Type} (s : State) (h : Sheaf) (name : Word) (want : Nat) (fails : Word → α) (joins : α) :
    (if s.joinCode h name want != 0 then fails (s.joinCode h name want) else joins) =
      let k := s.stookNamed h.ctx (clusterOf h.core) name
      let ms := (k.map (·.members)).getD []
      if h.stook.isSome then fails 0x80000004
      else if name.getLsbD 31 then fails 0x80000005
      else if 64 < want then fails 0x80000006
      else if k.isNone && decide (256 ≤ (s.stk.stooks.filter fun x => x.cluster == clusterOf h.core).length) then fails 0x80000003
      else if ms.length == 64 then fails 0x80000002
      else if ms.any (fun m => m.idx == want) then fails 0x80000001
      else joins := by
  unfold State.joinCode
  extract_lets k ms
  rw [ite_code fails, ite_code fails, ite_code fails, ite_code fails, ite_code fails, ite_code fails]
  · rfl
  all_goals decide

theorem execSjoin_released (r : Ready s h (.sjoin o)) (rel : s.released h 2 = true) : exec (.sjoin o) s = .next
    (let name := h.getS o.sa.toNat
     let want := (h.getS o.sb.toNat).toNat
     let idx := if want == 64 then freeIndex (((s.stookNamed h.ctx (clusterOf h.core) name).map (·.members)).getD []) else want
     if s.joinCode h name want != 0 then s.done (h.setS o.sd.toNat (s.joinCode h name want))
     else if s.strayRequests then s.hold h false
     else (s.joinAs h name idx).done ((((s.joinAs h name idx).sheaf? h.uid).getD h).setS o.sd.toNat (BitVec.ofNat 32 idx))) :=
  (issue_ready r _).trans (congrArg _ (State.afterRelease_released rel ..))

/-- The sheaf as it stands in a stook: a member more of one of its name, or the first of a new one (09/R269). -/
theorem State.joinAs_old {name : Word} {k : Stook} (named : s.stookNamed h.ctx (clusterOf h.core) name = some k) (idx : Nat) :
    s.joinAs h name idx = ({ s with stk := { s.stk with stooks := s.stk.stooks.map fun x =>
      if x.id == k.id then { x with members := x.members ++ [⟨idx, h.uid, false⟩] } else x } } : State).putSheaf
        { h with stook := some (k.id, idx) } := by
  simp only [State.joinAs, named]

theorem State.joinAs_new {name : Word} (named : s.stookNamed h.ctx (clusterOf h.core) name = none) (idx : Nat) :
    s.joinAs h name idx = (State.fresh { s with stk := { s.stk with stooks := s.stk.stooks ++
      [⟨s.ctl.nextId, name, h.ctx, clusterOf h.core, false, 0, [⟨idx, h.uid, false⟩]⟩] } } 1).putSheaf
        { h with stook := some (s.ctl.nextId, idx) } := by
  simp only [State.joinAs, named]

theorem execSleave_released (r : Ready s h (.sleave o)) (rel : s.released h 2 = true) : exec (.sleave o) s = .next
    (match s.stookOf h with
      | none => s.done (h.setS o.sd.toNat 0x80000007)
      | some k => if k.launched then s.done (h.setS o.sd.toNat 0x80000008)
        else (s.leaveStook h.uid).done ((((s.leaveStook h.uid).sheaf? h.uid).getD h).setS o.sd.toNat 0)) :=
  (issue_ready r _).trans (congrArg _ (State.afterRelease_released rel ..))

/-- Before its release each of the two waits. -/
theorem joinLeave_waits : ∀ p ∈ ([Instr.sjoin, Instr.sleave] : List (FS3 → Instr)), ∀ (o : FS3) (s : State) (h : Sheaf),
    Ready s h (p o) → s.released h 2 = false → exec (p o) s = .next (s.hold h false) := by
  simp only [List.forall_mem_cons, List.not_mem_nil, false_implies, implies_true, and_true]
  and_intros
  all_goals exact fun o s h r rel => (issue_ready r _).trans (congrArg _ (State.afterRelease_waits rel ..))

/-- A handle that a leave ends, the leaver's own or one on its word, no longer waits for a phase (06/R173, 07/R219). -/
theorem BarHandle.orphan_ends {b : BarHandle} {owner leaver : Nat} (ends : owner = leaver ∨ b.holder = leaver) :
    (b.orphan owner leaver).code ≠ 1 ∨ (b.orphan owner leaver).passed ≠ 0 := by
  have ends : (owner == leaver || b.holder == leaver) = true := by simpa using ends
  unfold BarHandle.orphan
  rw [ends, Bool.and_true]
  split
  · exact .inl (by simp)
  next stays =>
    simp only [Bool.and_eq_true, beq_iff_eq, not_and_or] at stays
    exact stays

theorem BarHandle.orphan_holder (b : BarHandle) (owner leaver : Nat) : (b.orphan owner leaver).holder = b.holder := by
  unfold BarHandle.orphan
  split <;> rfl

/-- A barrier handle of a sheaf whose handles have been changed is one of its own, changed. -/
theorem Sheaf.bar_mem_mapBars {f : BarHandle → BarHandle} {b : BarHandle} (hb : Handle.bar b ∈ (h.mapBars f).h) :
    ∃ c, Handle.bar c ∈ h.h ∧ f c = b := by
  obtain ⟨x, hx, e⟩ := List.mem_map.mp hb
  cases x with
  | bar c => exact ⟨c, hx, Handle.bar.inj e⟩
  | empty => cases e
  | op id => cases e

theorem State.leaveStook_subs {uid : Nat} {p : Sub} (hp : p ∈ (s.leaveStook uid).stk.subs) :
    p ∈ s.stk.subs ∧ p.subr ≠ uid ∧ p.pubr ≠ uid := by
  simpa [State.leaveStook] using hp

theorem State.leaveStook_stooks {uid : Nat} {k : Stook} (hk : k ∈ (s.leaveStook uid).stk.stooks) :
    k.members ≠ [] ∧ ∀ m ∈ k.members, m.uid ≠ uid := by
  obtain ⟨hk, full⟩ := List.mem_filter.mp hk
  obtain ⟨x, -, rfl⟩ := List.mem_map.mp hk
  refine ⟨by simpa using full, fun m hm => ?_⟩
  simpa using (List.mem_filter.mp hm).2

/-- A sheaf after a leave, and what it was. -/
theorem State.leaveStook_sheaf {uid : Nat} {g : Sheaf} (hg : g ∈ (s.leaveStook uid).sheaves) :
    ∃ x ∈ s.sheaves, g.uid = x.uid ∧ g.h = (x.orphan uid).h ∧ (x.uid = uid → g.stook = none) := by
  obtain ⟨x, hx, rfl⟩ := List.mem_map.mp hg
  refine ⟨x, hx, ?_⟩
  by_cases e : x.uid = uid <;> simp [e, Sheaf.orphan, Sheaf.mapBars]

/-- After a leave no handle of the leaver, and none on its word, waits for a phase. -/
theorem State.leaveStook_bars {uid : Nat} {g : Sheaf} {b : BarHandle} (hg : g ∈ (s.leaveStook uid).sheaves) (hb : Handle.bar b ∈ g.h)
    (ends : g.uid = uid ∨ b.holder = uid) : b.code ≠ 1 ∨ b.passed ≠ 0 := by
  obtain ⟨x, -, uids, hs, -⟩ := State.leaveStook_sheaf hg
  rw [hs] at hb
  obtain ⟨c, -, rfl⟩ := Sheaf.bar_mem_mapBars hb
  exact BarHandle.orphan_ends (ends.imp (uids ▸ ·) ((BarHandle.orphan_holder ..).symm.trans ·))

theorem State.stookInfo_none (no : s.stookOf h = none) (cf : Nat) (arg : Word) :
    s.stookInfo h cf arg = if cf = 0 then 0 else 0xFFFFFFFF := by
  simp [State.stookInfo, no]

/-- A bit of a mask built up over members. -/
theorem foldl_mask_getLsbD (ms : List Member) {n : Nat} (hn : n < 64) (small : ∀ m ∈ ms, m.idx < 64) (acc : BitVec 64) :
    (ms.foldl (fun (m : BitVec 64) (x : Member) => m ||| (1 <<< x.idx)) acc).getLsbD n =
      (acc.getLsbD n || ms.any fun m => m.idx == n) := by
  induction ms generalizing acc with
  | nil => simp
  | cons m ms ih =>
    have bit : (BitVec.ofNat 64 (1 <<< m.idx)).getLsbD n = (m.idx == n) := by
      rw [BitVec.getLsbD_ofNat, decide_eq_true hn, Bool.true_and, Nat.one_shiftLeft, Nat.testBit_two_pow]
      rfl
    rw [List.foldl_cons, ih fun x hx => small x (List.mem_cons_of_mem m hx), BitVec.getLsbD_or, List.any_cons, ← bit, Bool.or_assoc]
    rfl

end Sys2Proof.Machine
end

section
open Sys2Proof Sys2Proof.Machine

/-- Settles O40: a join by its first check that fails, a leave by its stook, both once their release holds. -/
theorem stookMembership : Obligations.StookMembership := by
  refine ⟨fun o s h r rel => ?join, fun s h name idx k named here => ?old, fun s h name idx named here => ?new,
    fun o s h r rel => ⟨fun no => ?alone, fun k st => ?leave⟩, joinLeave_waits, fun s uid => ⟨fun p hp => State.leaveStook_subs hp,
      fun k hk => State.leaveStook_stooks hk, fun g hg e => ⟨?stook, fun b hb => State.leaveStook_bars hg hb (.inl e)⟩,
      fun g hg b hb e => State.leaveStook_bars hg hb (.inr e), rfl⟩,
    fun o s h r no => ?noStook, fun o s h k sid own r st mine => ?info, fun k n small hn => ?mask⟩
  case join =>
    exact (execSjoin_released r rel).trans
      (congrArg _ (State.joinCode_cases s h _ _ (fun code => s.done (h.setS o.sd.toNat code)) _))
  case old =>
    rw [State.joinAs_old named, State.sheaf?_putSheaf, if_pos rfl]
    show Option.map _ (Option.map _ (s.sheaf? h.uid)) = _ ∧ _
    rw [here]
    exact ⟨rfl, rfl⟩
  case new =>
    rw [State.joinAs_new named, State.sheaf?_putSheaf, if_pos rfl]
    show Option.map _ (Option.map _ (s.sheaf? h.uid)) = _ ∧ _
    rw [here]
    exact ⟨rfl, rfl⟩
  case alone => rw [execSleave_released r rel, no]
  case leave => rw [execSleave_released r rel, st]
  case stook =>
    obtain ⟨x, -, uids, -, none⟩ := State.leaveStook_sheaf hg
    exact none (uids.symm.trans e)
  case noStook => exact (issue_ready r _).trans (by rw [State.stookInfo_none no])
  case info =>
    refine (issue_ready r _).trans ?_
    simp only [State.stookInfo, st, mine]
    rfl
  case mask => exact (foldl_mask_getLsbD _ hn small 0).trans (by simp)
end

section
/-! SUPPORT. An arrival at a barrier word (06/R170 to R173): at the word, and by the form that makes it. -/

namespace Sys2Proof.Machine

variable {s : State} {h : Sheaf} {o : FSY} {i : Instr} {t : ScrTarget} {k : BarHandle → Sheaf → State → State} {b : BarHandle} {a uid : Nat}

/-- The barrier word at a place. -/
def State.barWordAt (s : State) (a : Nat) : DWord := BitVec.ofNat 64 (leNat (s.scrRead a 8))

/-- An arrival at a place by the word there. -/
theorem State.arriveWord_eq (s : State) (a uid : Nat) (b : BarHandle) : s.arriveWord a uid b =
    let w := s.barWordAt a
    let r := if barArr w == 0 then (w, false) else barArrive w
    if s.scrBad a 8 then (s, .inl 0x12)
    else if barBad w || b.bad then
      let own := b.bad && b.holder == uid
      let s1 := (s.draw 10).scrWrite a (if own then freeBytes (s.ctl.free + 2) 8 else bvLe r.1 8) uid
      (if r.2 && !own && !barBad w then s1.phaseDone b.holder b.off else s1, .inr { b with
        ph := (freeByte s.ctl.free).toNat % 16, code := bitNat (freeBit (s.ctl.free + 1)), bad := true })
    else if barArr w == 0 then (s, .inl 0x0E)
    else
      let s1 := s.scrWrite a (bvLe r.1 8) uid
      (if r.2 then s1.phaseDone b.holder b.off else s1, .inr { b with ph := barPh w, code := if r.2 then 0 else 1 }) := rfl

/-- At a good word with ARR above 0 an arrival is counted. -/
theorem State.arriveWord_counts (good : s.scrBad a 8 = false) (clear : b.bad = false) (defined : barBad (s.barWordAt a) = false)
    (more : 0 < barArr (s.barWordAt a)) : s.arriveWord a uid b =
      let r := barArrive (s.barWordAt a)
      let s1 := s.scrWrite a (bvLe r.1 8) uid
      (if r.2 then s1.phaseDone b.holder b.off else s1, .inr { b with ph := barPh (s.barWordAt a), code := if r.2 then 0 else 1 }) := by
  have arr : (barArr (s.barWordAt a) == 0) = false := by simpa using Nat.ne_of_gt more
  simp only [State.arriveWord_eq, good, defined, clear, arr, Bool.or_self, Bool.false_eq_true, if_false]

/-- At ARR = 0 it is an error. -/
theorem State.arriveWord_refused (good : s.scrBad a 8 = false) (clear : b.bad = false) (defined : barBad (s.barWordAt a) = false)
    (zero : barArr (s.barWordAt a) = 0) : s.arriveWord a uid b = (s, .inl 0x0E) := by
  simp only [State.arriveWord_eq, good, defined, clear, zero, Bool.or_self, Bool.false_eq_true, if_false, BEq.rfl, if_true]

/-- A record of the sheaf's own that R169 leaves undefined is free, and so is the word. -/
theorem State.arriveWord_undefined (good : s.scrBad a 8 = false) (undef : b.bad = true) (own : b.holder = uid) :
    s.arriveWord a uid b = ((s.draw 10).scrWrite a (freeBytes (s.ctl.free + 2) 8) uid, .inr { b with
      ph := (freeByte s.ctl.free).toNat % 16, code := bitNat (freeBit (s.ctl.free + 1)), bad := true }) := by
  simp [State.arriveWord, good, undef, own]

/-- BARA and BAR arrive, each with what it does with the record (06/R172). -/
theorem arriveForms_arriveAt :
    ∀ p ∈ ([(Instr.bara, keepRecord), (.bar, fun _ => awaitRecord)] : List ((FSY → Instr) × (FSY → BarHandle → Sheaf → State → State))),
    ∀ (o : FSY) (s : State) (h : Sheaf), Ready s h (p.1 o) → h.bar = none →
      exec (p.1 o) s = .next (s.arriveAt h (p.1 o) o (p.2 o)) := by
  simp only [List.forall_mem_cons, List.not_mem_nil, false_implies, implies_true, and_true]
  refine ⟨fun o s h r _ => issue_ready r _, fun o s h r fresh => (issue_ready r _).trans ?_⟩
  simp only [fresh]
  rfl

/-- An arrival that may be made goes over the channel to a member, and is made at an own word. -/
theorem State.arriveAt_can (can : canArrive s h o t) : s.arriveAt h i o k =
    let s0 := s.touch h 1 (barAt h o t) 8 true
    if t.member.isSome then
      ({ s0 with mm := { s0.mm with chans := s0.mm.chans ++ [arriveReq s h i t (h.getS o.sa.toNat).toNat] } } : State).hold
        { arriver s h o t with arr := some .sent, nseq := h.nseq + 2 } false
    else
      let r := (arriving s h o t).arriveWord (barAt h o t) h.uid (arrivalOf s h o t)
      r.1.arrived ((r.1.sheaf? h.uid).getD (arriver s h o t)) i (scrTrapa none (h.getS o.sa.toNat).toNat) r.2 k := by
  obtain ⟨idle, target, here, own, rel⟩ := can
  have free : (t.member.isNone && s.ownBehind h) = false := by
    cases m : t.member with
    | none => simpa using own m
    | some m => rfl
  simp only [State.arriveAt, idle, target, here, free, Bool.false_eq_true, if_false, State.afterRelease, rel]
  rfl

/-- At an own word it is made by the word's own rule. -/
theorem State.arriveAt_own (can : canArrive s h o t) (own : t.member = none) : s.arriveAt h i o k =
    let r := (arriving s h o t).arriveWord (barAt h o t) h.uid (arrivalOf s h o t)
    r.1.arrived ((r.1.sheaf? h.uid).getD (arriver s h o t)) i (scrTrapa none (h.getS o.sa.toNat).toNat) r.2 k := by
  rw [State.arriveAt_can can]
  dsimp only
  rw [if_neg (by simp [own])]

/-- With a cause of the address it traps. -/
theorem State.arriveAt_causes {x : Option ScrTarget} {c : Nat × DWord} {cs : List (Nat × DWord)} (idle : h.arr = none)
    (target : s.barTarget h o = (x, c :: cs)) : s.arriveAt h i o k = s.raise h (encode i) (c :: cs) := by
  cases x <;> simp only [State.arriveAt, idle, target]

/-- While an arrival is under way it waits for the response, and goes on by it. -/
theorem State.arriveAt_sent (sent : h.arr = some .sent) : s.arriveAt h i o k = s.hold h false := by
  simp only [State.arriveAt, sent]

theorem State.arriveAt_made (made : h.arr = some (.made b true)) : s.arriveAt h i o k = k b { h with arr := none } s := by
  simp only [State.arriveAt, made]

theorem State.arriveAt_refused (refused : h.arr = some (.refused 0x0E true)) :
    s.arriveAt h i o k = s.decodeTrap { h with arr := none } (encode i) 0x0E := by
  simp only [State.arriveAt, refused]
  rfl

/-- The causes of a word at an index without member (06/R171). -/
theorem State.barTarget_noMember (peer : o.sb ≠ 0) (no : s.member? h (h.getS o.sb.toNat).toNat = none) :
    let a := scrTrapa (some (h.getS o.sb.toNat).toNat) (h.getS o.sa.toNat).toNat
    (s.barTarget h o).2 = (if (h.getS o.sa.toNat).toNat % 8 = 0 then [] else [(4, a)]) ++ [(7, a)] := by
  have peer : (o.sb == 0) = false := by simpa using peer
  have even : ((h.getS o.sa.toNat).toNat : Int) % (8 : Nat) = 0 ↔ (h.getS o.sa.toNat).toNat % 8 = 0 := by omega
  simp only [State.barTarget, peer, Bool.false_eq_true, if_false, State.target, no, Option.map_none, accCauses_outside, ne_eq, even, ite_not]

/-- A request of an arrival performs it at its target. -/
theorem State.deliverReq_arrive {r : ChanReq} (arrive : r.kind = .arrive) (good : s.scrBad r.addr 8 = false) (clear : r.undef = false)
    (defined : barBad (s.barWordAt r.addr) = false) (more : 0 < barArr (s.barWordAt r.addr)) : s.deliverReq r =
      let w := s.barWordAt r.addr
      let b : BarHandle := ⟨(r.trapa.extractLsb' 0 32).toNat, (r.trapa.extractLsb' 32 32).toNat, false, r.holder, barPh w,
        if (barArrive w).2 then 0 else 1, 0, false⟩
      let s2 := s.scrWrite r.addr (bvLe (barArrive w).1 8) r.uid
      ((if (barArrive w).2 then s2.phaseDone b.holder b.off else s2).modSheaf r.uid fun h => { h with arr := some (.made b false) },
        ⟨r, 0, false⟩) := by
  have counts := State.arriveWord_counts (uid := r.uid) (b := ⟨(r.trapa.extractLsb' 0 32).toNat, (r.trapa.extractLsb' 32 32).toNat,
    false, r.holder, 0, 1, 0, false⟩) good rfl defined more
  simp only [State.deliverReq, arrive, clear, counts]

theorem execBar_record (r : Ready s h (.bar o)) (waits : h.bar = some b) : exec (.bar o) s = .next
    (let c := s.barCode b
     if c.2 == 1 then c.1.hold h true
     else if c.2 == 0 then c.1.done { h.ungather with bar := none }
     else s.trapNow { h with bar := none } (.bar o) 7 b.trapa) := by
  refine (issue_ready r _).trans ?_
  simp only [waits]

theorem execBarw_handle (r : Ready s h (.barw o)) (held : h.getH o.h.toNat = .bar b) : exec (.barw o) s = .next
    (let c := s.barCode b
     if c.2 == 1 then c.1.hold h true
     else if c.2 == 4 then s.trapNow h (.barw o) 7 b.trapa
     else c.1.done h.ungather) := by
  refine (issue_ready r _).trans ?_
  simp only [held]

theorem execBart_handle (r : Ready s h (.bart o)) (held : h.getH o.h.toNat = .bar b) : exec (.bart o) s = .next
    (let c := s.barCode b
     if c.2 == 4 then s.trapNow h (.bart o) 7 b.trapa
     else c.1.done (h.ungather.setS o.sa.toNat (boolWord (c.2 == 0)))) := by
  refine (issue_ready r _).trans ?_
  simp only [held]

/-- On another handle the two waits raise 0x09. -/
theorem barWaits_trap : ∀ p ∈ ([Instr.barw, Instr.bart] : List (FSY → Instr)), ∀ (o : FSY) (s : State) (h : Sheaf), Ready s h (p o) →
    (∀ b, h.getH o.h.toNat ≠ .bar b) → exec (p o) s = .next (s.decodeTrap h (encode (p o)) 9) := by
  simp only [List.forall_mem_cons, List.not_mem_nil, false_implies, implies_true, and_true]
  and_intros
  all_goals
    refine fun o s h r other => (issue_ready r _).trans ?_
    cases held : h.getH o.h.toNat with
    | bar b => exact absurd held (other b)
    | empty | op id => rfl

end Sys2Proof.Machine
end

section
open Sys2Proof Sys2Proof.Machine

/-- Settles O31: an arrival by its target and by the word, a wait by the status of its record. -/
theorem barrierFormsArriveAndWait : Obligations.BarrierFormsArriveAndWait := by
  refine ⟨fun p hp o s h t r fresh can => ?arrives, fun p hp o s h r fresh => ?goesOn, fun o s h peer no => State.barTarget_noMember peer no,
    fun src dst s q head arrive clear => ?delivers, fun o s h b r waits => ?bar, fun o s h b r held => ?barw, fun o s h b r held => ?bart,
    fun s b => ?code, barWaits_trap⟩
  case arrives =>
    rw [arriveForms_arriveAt p hp o s h r fresh]
    intro a s1 w b s2 s3 h3
    refine ⟨fun own good defined clear more => ?_, fun own good undef holder => ?_, fun own good defined clear zero => ?_, fun peer => ?_⟩
    · rw [State.arriveAt_own can own, State.arriveWord_counts good clear defined more]
      rfl
    · rw [State.arriveAt_own can own, State.arriveWord_undefined good undef holder]
      rfl
    · rw [State.arriveAt_own can own, State.arriveWord_refused good clear defined zero]
      rfl
    · rw [State.arriveAt_can can]
      exact congrArg _ (if_pos peer)
  case goesOn =>
    rw [arriveForms_arriveAt p hp o s h r fresh]
    exact ⟨fun x c cs idle target => congrArg _ (State.arriveAt_causes idle target), fun sent => congrArg _ (State.arriveAt_sent sent),
      fun b made => congrArg _ (State.arriveAt_made made), fun refused => congrArg _ (State.arriveAt_refused refused)⟩
  case delivers =>
    intro s1 w b s2 s3 good defined more
    rw [execDeliver_head head]
    exact congrArg (fun y : State × ChanResp => Host.Outcome.next { y.1 with mm := { y.1.mm with backs := y.1.mm.backs ++ [y.2] } })
      (State.deliverReq_arrive (s := s.popChan src dst) arrive good clear defined more)
  case bar =>
    rw [execBar_record r waits]
    refine ⟨fun ended => ?_, fun pending => ?_, fun ended pending => ?_⟩
    · simp only [ended]
      rfl
    · simp only [pending]
      rfl
    · simp only [beq_iff_eq, ended, pending, if_false]
  case barw =>
    rw [execBarw_handle r held]
    refine ⟨fun pending => ?_, fun gone => ?_, fun pending gone => ?_⟩
    · simp only [pending]
      rfl
    · simp only [gone]
      rfl
    · simp only [beq_iff_eq, pending, gone, if_false]
  case bart =>
    rw [execBart_handle r held]
    refine ⟨fun gone => ?_, fun gone => ?_⟩
    · simp only [gone]
      rfl
    · simp only [beq_iff_eq, gone, if_false]
  case code => simp only [State.barCode, Bool.and_eq_true, decide_eq_true_eq]
end

section
/-! SUPPORT. What a write of a scratchpad leaves unchanged (06/R157). -/

namespace Sys2Proof.Machine

variable {s t u : State} {W : Nat → Prop}

/-- From `s` to `t` only scratch bytes of `W` have been written, with what such writes do to the engines' marks, the open batches and
the counters: no sheaf, channel or other memory changes, and no operation comes to be unobserved. -/
structure ScrWrites (W : Nat → Prop) (s t : State) : Prop where
  sheaves : t.sheaves = s.sheaves
  chans : t.mm.chans = s.mm.chans
  mems : t.mm.pool = s.mm.pool ∧ t.mm.host = s.mm.host ∧ t.mm.slm = s.mm.slm
  unseen : ∀ h, s.unseen h = [] → t.unseen h = []
  wf : s.mm.scr.wf = true → t.mm.scr.wf = true
  other : s.mm.scr.wf = true → ∀ a, ¬ W a → t.mm.scr.get a = s.mm.scr.get a

theorem ScrWrites.refl (W : Nat → Prop) (s : State) : ScrWrites W s s :=
  ⟨rfl, rfl, ⟨rfl, rfl, rfl⟩, fun _ u => u, fun w => w, fun _ _ _ => rfl⟩

theorem ScrWrites.trans (x : ScrWrites W s t) (y : ScrWrites W t u) : ScrWrites W s u where
  sheaves := y.sheaves.trans x.sheaves
  chans := y.chans.trans x.chans
  mems := ⟨y.mems.1.trans x.mems.1, y.mems.2.1.trans x.mems.2.1, y.mems.2.2.trans x.mems.2.2⟩
  unseen := fun h none => y.unseen h (x.unseen h none)
  wf := fun w => y.wf (x.wf w)
  other := fun w a out => (y.other (x.wf w) a out).trans (x.other w a out)

theorem ScrWrites.mono {W' : Nat → Prop} (x : ScrWrites W s t) (sub : ∀ a, W a → W' a) : ScrWrites W' s t :=
  { x with other := fun w a out => x.other w a fun h => out (sub a h) }

/-- The transaction barriers and the words waited for are those of the sheaves and the channels. -/
theorem ScrWrites.liveTxbs (x : ScrWrites W s t) : t.liveTxbs = s.liveTxbs := by
  rw [State.liveTxbs, x.sheaves, ← State.liveTxbs]

theorem ScrWrites.waitedWords (x : ScrWrites W s t) : t.waitedWords = s.waitedWords := by
  simp only [State.waitedWords, State.sheaf?, x.sheaves, x.chans]

theorem ScrWrites.sheaf? (x : ScrWrites W s t) (v : Nat) : t.sheaf? v = s.sheaf? v :=
  State.sheaf?_congr x.sheaves v

theorem State.unseen_congr (s : State) {g h : Sheaf} (e : g.uid = h.uid) : s.unseen g = s.unseen h := by
  rw [State.unseen, State.unseen, e]

theorem State.landing_length (s : State) (a : Nat) (bs : List Byte) : (s.landing a bs).length = bs.length := by
  unfold State.landing
  split <;> simp

/-- Forwarding bytes changes the open batches and a counter only (09/R279). -/
theorem State.forwardByte_eq (s : State) (a : Nat) (b : Byte) (cause : Nat) : s.forwardByte a b cause =
    { s with stk := (s.forwardByte a b cause).stk, ctl := (s.forwardByte a b cause).ctl } := by
  unfold State.forwardByte
  split <;> rfl

theorem State.forwardBytes_eq (s : State) (a cause : Nat) (bs : List Byte) : s.forwardBytes a cause bs =
    { s with stk := (s.forwardBytes a cause bs).stk, ctl := (s.forwardBytes a cause bs).ctl } := by
  induction bs generalizing s a with
  | nil => rfl
  | cons b bs ih =>
    rw [State.forwardBytes, ih, State.forwardByte_eq]

/-- Marks on operations leave none unobserved that was observed. -/
theorem unseen_map_nil {ops : List Op} {h : Sheaf} {f : Op → Op}
    (keeps : ∀ o, (f o).sheaf = o.sheaf ∧ (f o).kind = o.kind ∧ (f o).seenBy = o.seenBy)
    (none : (ops.filter fun o => o.sheaf == h.uid && o.kind.handled && !o.seenBy.contains h.uid) = []) :
    ((ops.map f).filter fun o => o.sheaf == h.uid && o.kind.handled && !o.seenBy.contains h.uid) = [] := by
  rw [List.filter_map, List.map_eq_nil_iff, ← none]
  refine List.filter_congr fun o _ => ?_
  obtain ⟨sheaf, kind, seen⟩ := keeps o
  simp only [Function.comp, sheaf, kind, seen]

theorem State.forwardBytes_writes (s : State) (a cause : Nat) (bs : List Byte) : ScrWrites W s (s.forwardBytes a cause bs) := by
  rw [State.forwardBytes_eq]
  exact ⟨rfl, rfl, ⟨rfl, rfl, rfl⟩, fun _ u => u, fun w => w, fun _ _ _ => rfl⟩

/-- A write changes no scratch byte outside it. -/
theorem State.scrWrite_writes (s : State) (a : Nat) (bs : List Byte) (cause : Nat) :
    ScrWrites (fun x => a ≤ x ∧ x < a + bs.length) s (s.scrWrite a bs cause) := by
  have land := s.landing_length a bs
  unfold State.scrWrite
  extract_lets n bs1 s1 pats m e s2
  obtain ⟨sheaves, mm, eng⟩ : s1.sheaves = s.sheaves ∧ s1.mm = s.mm ∧ s1.eng = s.eng := by
    unfold s1
    split <;> exact ⟨rfl, rfl, rfl⟩
  have scr : s2.mm.scr = s.mm.scr.write a bs1 := congrArg (fun m : MemSys => m.scr.write a bs1) mm
  have wrote : ScrWrites (fun x => a ≤ x ∧ x < a + bs.length) s s2 := {
    sheaves := sheaves
    chans := (congrArg MemSys.chans mm :)
    mems := ⟨(congrArg MemSys.pool mm :), (congrArg MemSys.host mm :), (congrArg MemSys.slm mm :)⟩
    unseen := fun h none => unseen_map_nil (fun o => by split <;> exact ⟨rfl, rfl, rfl⟩) (by rw [eng]; exact none)
    wf := fun w => scr ▸ Mem.write_wf bs1 _ a w
    other := fun w x out => by
      rw [scr]
      exact Mem.get_write_other bs1 _ a x w (by rw [land]; omega) }
  split
  · exact wrote
  · exact wrote.trans (State.forwardBytes_writes ..)

/-- Where no transaction barrier is live and no barrier word waited for, a lane's access writes its own bytes only (06/R170, R174). -/
theorem State.scrAccess_writes {kind : AccKind} {n : Nat} (noTxb : s.liveTxbs = []) (noWait : s.waitedWords = [])
    (word : ∀ op, kind = .atomic op → n = 4) (uid a : Nat) (d : BitVec 128) :
    ScrWrites (fun x => kind ≠ .load ∧ a ≤ x ∧ x < a + n) s (s.scrAccess uid kind a n d).1 := by
  have writes (x : BitVec 128) : ScrWrites (fun x => a ≤ x ∧ x < a + n) s (s.scrWrite a (bvLe x n) uid) := by
    have := s.scrWrite_writes a (bvLe x n) uid
    rwa [bvLe, natLe_length] at this
  cases kind with
  | load => exact ScrWrites.refl _ s
  | store =>
    have e : (s.scrAccess uid .store a n d).1 = s.scrWrite a (bvLe d n) uid :=
      (State.stsWrite_of_noWaits noWait ..).trans (State.plainWrite_of_noTxb noTxb ..)
    rw [e]
    exact (writes d).mono fun x w => ⟨nofun, w⟩
  | atomic op =>
    obtain rfl := word op rfl
    cases bad : s.scrBad a 4 with
    | true =>
      simp only [State.scrAccess, bad]
      exact ScrWrites.refl _ s
    | false =>
      rw [State.scrAccess_atomic bad, State.plainWrite_of_noTxb noTxb]
      have := s.scrWrite_writes a (bvLe (atomicNew op (BitVec.ofNat 32 (leNat (s.scrRead a 4))) (d.truncate 32)
        ((d >>> 32).truncate 32)) 4) uid
      rw [bvLe, natLe_length] at this
      exact this.mono fun x w => ⟨nofun, w⟩

end Sys2Proof.Machine
end

section
/-! SUPPORT. What a lane's access of own scratch leaves of its sheaf (06/R147, R158). -/

namespace Sys2Proof.Machine

variable {g h k : Sheaf} {lids : List Nat} {d n : Nat}

/-- A lane after a write of v registers from `d`, `n` of them. -/
def Lane.WritesV (d n : Nat) (l l' : Lane) : Prop :=
  l' = { l with v := l'.v } ∧ ∀ r, r < d ∨ d + n ≤ r → l'.getV r = l.getV r

theorem Lane.WritesV.refl (d n : Nat) (l : Lane) : l.WritesV d n l := ⟨rfl, fun _ _ => rfl⟩

theorem Lane.WritesV.trans {l m p : Lane} (x : l.WritesV d n m) (y : m.WritesV d n p) : l.WritesV d n p :=
  ⟨by rw [y.1, x.1], fun r out => (y.2 r out).trans (x.2 r out)⟩

/-- A value that arrives fills a register or a pair. -/
theorem Lane.receive_writesV (l : Lane) {e : Dest} {size : Nat} (x : Nat) (lo : d ≤ e.reg)
    (hi : e.reg + (if size == 8 then 2 else 1) ≤ d + n) : l.WritesV d n (l.receive e size x) := by
  unfold Lane.receive
  split at hi
  next pair =>
    rw [if_pos pair]
    refine ⟨rfl, fun r out => ?_⟩
    rw [Lane.setV2, Lane.getV_setV_other _ _ _ _ (by omega), Lane.getV_setV_other _ _ _ _ (by omega)]
  next single =>
    rw [if_neg single]
    exact ⟨rfl, fun r out => Lane.getV_setV_other _ _ _ _ (by omega)⟩

/-- Of a sheaf only v registers from `d` of the lanes in `lids` have changed, its queue, and what it remembers of its own-scratch
writes. -/
structure LanesWrite (lids : List Nat) (d n : Nat) (g h : Sheaf) : Prop where
  rest : h = { g with lanes := h.lanes, unfenced := h.unfenced, mq := h.mq }
  lanes : ∃ f : Lane → Lane, h.lanes = g.lanes.map f ∧ (∀ l, l.lid ∉ lids → f l = l) ∧ ∀ l : Lane, l.WritesV d n (f l)

theorem LanesWrite.refl (lids : List Nat) (d n : Nat) (h : Sheaf) : LanesWrite lids d n h h :=
  ⟨rfl, id, (List.map_id _).symm, fun _ _ => rfl, fun l => .refl d n l⟩

theorem LanesWrite.trans (x : LanesWrite lids d n g h) (y : LanesWrite lids d n h k) : LanesWrite lids d n g k := by
  obtain ⟨xr, f, xl, xo, xw⟩ := x
  obtain ⟨yr, f', yl, yo, yw⟩ := y
  refine ⟨by rw [yr, xr], f' ∘ f, by rw [yl, xl, List.map_map], fun l out => ?_, fun l => (xw l).trans (yw (f l))⟩
  rw [Function.comp, xo l out, yo l out]

/-- The value of a lane arrives in its registers. -/
theorem Sheaf.receive_lanesWrite (h : Sheaf) {lid size : Nat} {e : Dest} (x : Nat) (v : e.isV = true) (mem : lid ∈ lids) (lo : d ≤ e.reg)
    (hi : e.reg + (if size == 8 then 2 else 1) ≤ d + n) : LanesWrite lids d n h (h.receive lid e size x) := by
  rw [Sheaf.receive, if_pos v]
  refine ⟨rfl, _, rfl, fun l out => ?_, fun l => ?_⟩
  · exact if_neg fun same => out (by simp at same; exact same ▸ mem)
  · split
    · exact l.receive_writesV x lo hi
    · exact .refl d n l

theorem asOrdered_lanesWrite (r : MemReq) (h : Sheaf) (lids : List Nat) (d n : Nat) : LanesWrite lids d n h (asOrdered r h) := by
  rw [asOrdered_eq]
  exact ⟨rfl, id, (List.map_id _).symm, fun _ _ => rfl, fun l => .refl d n l⟩

theorem State.keepOld_lanesWrite (s : State) (h : Sheaf) (a size : Nat) : LanesWrite lids d n h (s.keepOld h a size) :=
  ⟨rfl, id, (List.map_id _).symm, fun _ _ => rfl, fun l => .refl d n l⟩

theorem LanesWrite.uid (x : LanesWrite lids d n g h) : h.uid = g.uid := by rw [x.rest]

theorem LanesWrite.scrAbs (x : LanesWrite lids d n g h) (off : Nat) : h.scrAbs off = g.scrAbs off := by
  rw [x.rest]
  rfl

theorem LanesWrite.tiles (x : LanesWrite lids d n g h) : h.tiles = g.tiles := by rw [x.rest]

/-- A sheaf whose tiles the state holds keeps them. -/
theorem LanesWrite.retile {s t : State} {W : Nat → Prop} (x : LanesWrite lids d n g h) (w : ScrWrites W s t) (held : g.retile s = g) :
    h.retile t = h := by
  have tiles : ((s.sheaf? g.uid).map (·.tiles)).getD g.tiles = g.tiles := congrArg Sheaf.tiles held
  have same : ((t.sheaf? h.uid).map (·.tiles)).getD h.tiles = h.tiles := by rw [w.sheaf?, x.uid, x.tiles, tiles]
  rw [Sheaf.retile, same]

end Sys2Proof.Machine
end

section
/-! SUPPORT. What the accesses of own scratch change (06/R156 to R158). -/

namespace Sys2Proof.Machine

variable {s : State} {h : Sheaf} {r : MemReq} {f : FM → MemReq}

/-- The parts of a form fit into its registers, and an atomic is of a word (06/R147, R149, R160). -/
def MemReq.shaped (r : MemReq) : Bool :=
  ((parts r.size).all fun p => decide (2 * p.1 + (if p.2 == 8 then 2 else 1) ≤ r.regs)) &&
    match r.kind with
    | .atomic _ => r.size == 4
    | _ => true

theorem scrForms_shaped : ∀ f ∈ scrForms ++ atomForms, ∀ o, (f o).shaped = true := fun f hf o =>
  congrFun (List.map_inj_left (f := fun (f : FM → MemReq) (o : FM) => (f o).shaped) (g := fun _ _ => true).mp rfl f hf) o

theorem MemReq.shaped_regs (shape : r.shaped = true) {p : Nat × Nat} (hp : p ∈ parts r.size) :
    2 * p.1 + (if p.2 == 8 then 2 else 1) ≤ r.regs := by
  rw [MemReq.shaped, Bool.and_eq_true, List.all_eq_true] at shape
  exact of_decide_eq_true (shape.1 p hp)

theorem MemReq.shaped_word (shape : r.shaped = true) {op : Nat} (atomic : r.kind = .atomic op) : r.size = 4 := by
  simp only [MemReq.shaped, atomic, Bool.and_eq_true, beq_iff_eq] at shape
  exact shape.2

/-- A part lies inside its access. -/
theorem parts_within {n : Nat} {p : Nat × Nat} (hp : p ∈ parts n) : 8 * p.1 + p.2 ≤ n := by
  unfold parts at hp
  split at hp
  next wide =>
    obtain rfl : n = 16 := by simpa using wide
    simp only [List.mem_cons, List.not_mem_nil, or_false] at hp
    obtain rfl | rfl := hp <;> decide
  next =>
    obtain rfl := List.mem_singleton.mp hp
    omega

theorem MemReq.shaped_part (shape : r.shaped = true) {p : Nat × Nat} (hp : p ∈ parts r.size) (op : Nat) (atomic : r.kind = .atomic op) :
    p.2 = 4 := by
  rw [MemReq.shaped_word shape atomic] at hp
  exact congrArg Prod.snd (List.mem_singleton.mp hp)

/-- The bytes that a form's access at an offset stores to. -/
def MemReq.stores (r : MemReq) (h : Sheaf) (off x : Nat) : Prop :=
  r.kind ≠ .load ∧ h.scrAbs off ≤ x ∧ x < h.scrAbs off + r.size

/-- One lane's access changes its own bytes and its own registers. -/
theorem State.ownAccess_frame {l : Lane} {off : Nat} {lids : List Nat} (shape : r.shaped = true) (seen : s.unseen h = [])
    (noTxb : s.liveTxbs = []) (noWait : s.waitedWords = []) (held : h.retile s = h) (asks : l.lid ∈ lids) :
    ScrWrites (r.stores h off) s (s.ownAccess h r l off).1 ∧ LanesWrite lids r.o.d.toNat r.regs h (s.ownAccess h r l off).2.1 := by
  have kept : LanesWrite lids r.o.d.toNat r.regs h (if r.kind == .load then h else s.keepOld h (h.scrAbs off) r.size) := by
    split
    · exact .refl ..
    · exact s.keepOld_lanesWrite ..
  simp only [State.ownAccess, State.touch_of_unseen seen, State.clouded_of_unseen seen, held, Bool.false_eq_true, if_false]
  split
  · exact ⟨.refl .., kept⟩
  · refine List.foldlRecOn (motive := fun (q : State × Sheaf) => ScrWrites (r.stores h off) s q.1 ∧
      LanesWrite lids r.o.d.toNat r.regs h q.2) _ _ ⟨.refl .., kept⟩ fun q ⟨mem, regs⟩ p hp => ⟨?_, ?_⟩
    · have within := parts_within hp
      refine mem.trans ((State.scrAccess_writes (mem.liveTxbs.trans noTxb) (mem.waitedWords.trans noWait)
        (r.shaped_part shape hp) ..).mono fun x ⟨kind, lo, hi⟩ => ⟨kind, by omega, by omega⟩)
    · have fits := MemReq.shaped_regs shape hp
      split
      · exact regs
      · exact regs.trans (q.2.receive_lanesWrite (e := ⟨true, r.o.d.toNat + 2 * p.1, r.signed⟩) _ rfl asks (Nat.le_add_right ..)
          (by dsimp only; omega))

/-- The bytes that some lanes of a form store to. -/
def MemReq.storesOf (r : MemReq) (h : Sheaf) (ls : List Lane) (x : Nat) : Prop := ∃ l ∈ ls, r.stores h (r.off h l).toNat x

/-- The accesses of some lanes change their own bytes and registers. -/
theorem State.ownRun_frame (shape : r.shaped = true) (seen : s.unseen h = []) (noTxb : s.liveTxbs = []) (noWait : s.waitedWords = [])
    (held : h.retile s = h) (cs : List (Nat × DWord)) (ls : List Lane) :
    ScrWrites (r.storesOf h ls) s (s.ownRun h r cs ls).1 ∧
      LanesWrite (ls.map (·.lid)) r.o.d.toNat r.regs h (s.ownRun h r cs ls).2.1 := by
  refine List.foldlRecOn (motive := fun (q : State × Sheaf × List (Nat × DWord)) => ScrWrites (r.storesOf h ls) s q.1 ∧
    LanesWrite (ls.map (·.lid)) r.o.d.toNat r.regs h q.2.1) _ _ ⟨.refl .., .refl ..⟩ fun q ⟨mem, regs⟩ l hl => ?_
  have seen' : q.1.unseen q.2.1 = [] := (q.1.unseen_congr regs.uid).trans (mem.unseen h seen)
  obtain ⟨mem', regs'⟩ := State.ownAccess_frame (off := (r.off h l).toNat) shape seen' (mem.liveTxbs.trans noTxb)
    (mem.waitedWords.trans noWait) (regs.retile mem held) (List.mem_map_of_mem (f := (·.lid)) hl)
  refine ⟨mem.trans (mem'.mono fun x st => ⟨l, hl, ?_⟩), regs.trans regs'⟩
  rwa [MemReq.stores, regs.scrAbs] at st

end Sys2Proof.Machine
end

section
/-! SUPPORT. What the end of a unit, a trap and a wait leave of the sheaves (02/R40; 17/R385 to R387). -/

namespace Sys2Proof.Machine

variable {s t : State} {h g k : Sheaf}

/-- The registers of two versions of a sheaf are the same. -/
structure SameRegs (g k : Sheaf) : Prop where
  uid : k.uid = g.uid
  s : k.s = g.s
  h : k.h = g.h
  fflg : k.fflg = g.fflg
  tiles : k.tiles = g.tiles
  gw : k.gw = g.gw
  lanes : k.lanes = g.lanes

/-- From `s` to `t` the sheaf has come to be one with the registers of `g`, the others stand. -/
structure Keeps (s t : State) (g : Sheaf) : Prop where
  others : ∀ v, v ≠ g.uid → t.sheaf? v = s.sheaf? v
  own : ∃ k, t.sheaf? g.uid = some k ∧ SameRegs g k

/-- Putting back a version of the sheaf. -/
theorem Keeps.of_put (hs : s.sheaf? g.uid = some h) (e : t.sheaves = (s.putSheaf k).sheaves) (same : SameRegs g k) : Keeps s t g where
  others v ne := by rw [State.sheaf?_congr e, State.sheaf?_putSheaf, if_neg (same.uid ▸ ne)]
  own := by
    refine ⟨k, ?_, same⟩
    rw [State.sheaf?_congr e, State.sheaf?_putSheaf, if_pos same.uid.symm, hs]
    rfl

theorem State.hold_keeps (hs : s.sheaf? g.uid = some h) (stop : Bool) : Keeps s (s.hold g stop) g :=
  .of_put hs rfl ⟨rfl, rfl, rfl, rfl, rfl, rfl, rfl⟩

theorem State.done_keeps (hs : s.sheaf? g.uid = some h) : Keeps s (s.done g) g :=
  .of_put hs rfl (by constructor <;> simp)

theorem State.takeTrap_keeps (hs : s.sheaf? g.uid = some h) (c : Nat) (a : DWord) (w : Word) (l : Bool) (pc ret : Pc) :
    Keeps s (s.takeTrap g c a w l pc ret) g := by
  have halt (k : Sheaf) (same : SameRegs g k) : Keeps s ((s.fresh 1).haltSheaf k c a w l pc) g := by
    obtain ⟨uid, s, h, fflg, tiles, gw, lanes⟩ := same
    refine .of_put hs (k := { k with run := .halted, chain := ⟨none, []⟩, fbuf := none, waiting := false }) ?_
      ⟨uid, s, h, fflg, tiles, gw, lanes⟩
    rw [State.haltSheaf, State.postHalt, State.postFault_sheaves]
    rfl
  have csrs : SameRegs g (g.trapCsrs c a w l ret s.ctl.nextId) := ⟨rfl, rfl, rfl, rfl, rfl, rfl, rfl⟩
  unfold State.takeTrap
  split
  · exact .of_put hs rfl ⟨rfl, rfl, rfl, rfl, rfl, rfl, rfl⟩
  · dsimp only
    split
    · exact halt _ csrs
    · split
      · exact halt _ csrs
      · exact .of_put hs rfl (by constructor <;> simp [Sheaf.trapCsrs])

/-- Causes have a lowest one. -/
theorem lowestCause_cons (x : Nat × DWord) (cs : List (Nat × DWord)) : ∃ c a, lowestCause (x :: cs) = some (c, a) := by
  unfold lowestCause
  split
  · exact ⟨_, _, rfl⟩
  · split <;> exact ⟨_, _, rfl⟩

theorem Keeps.congr {s' : State} (keeps : Keeps s' t g) (e : s'.sheaves = s.sheaves) : Keeps s t g :=
  ⟨fun v ne => (keeps.others v ne).trans (State.sheaf?_congr e v), keeps.own⟩

/-- Another version of the sheaf with the same registers stands for it. -/
theorem Keeps.of_same (keeps : Keeps s t k) (same : SameRegs g k) : Keeps s t g where
  others v ne := keeps.others v (same.uid ▸ ne)
  own := by
    obtain ⟨j, found, uid, s, h, fflg, tiles, gw, lanes⟩ := keeps.own
    exact ⟨j, same.uid ▸ found, uid.trans same.uid, s.trans same.s, h.trans same.h, fflg.trans same.fflg, tiles.trans same.tiles,
      gw.trans same.gw, lanes.trans same.lanes⟩

theorem State.finish_keeps (hs : s.sheaf? g.uid = some h) (i : Instr) (cs : List (Nat × DWord)) : Keeps s (s.finish g i cs) g := by
  cases cs with
  | nil => exact State.done_keeps hs
  | cons x cs =>
    obtain ⟨c, a, lowest⟩ := lowestCause_cons x ((firstPer cs).filter fun y => y.1 != x.1)
    have sheaves := s.violateAll_sheaves g (firstPer (x :: cs))
    have raised : s.finish g i (x :: cs) = (s.violateAll g (firstPer (x :: cs))).takeTrap g c a (encode i) false g.unitPc g.unitPc := by
      simp only [State.finish, State.raise, firstPer, lowest, List.isEmpty_cons, Bool.false_eq_true, if_false]
    rw [raised]
    exact (State.takeTrap_keeps ((State.sheaf?_congr sheaves _).trans hs) ..).congr sheaves

end Sys2Proof.Machine
end

section
/-! SUPPORT. A form of own scratch as a whole (06/R156 to R158). -/

namespace Sys2Proof.Machine

variable {s : State} {h : Sheaf} {r : MemReq}

theorem keepLast_subset {α : Type} (key : α → Nat) (l : List α) : keepLast key l ⊆ l := by
  induction l with
  | nil => exact List.Subset.refl _
  | cons x xs ih =>
    unfold keepLast
    split
    · exact List.subset_cons_of_subset x ih
    · exact List.cons_subset_cons x ih

/-- A target gives no cause to an access inside it only. -/
theorem ScrTarget.causes_isEmpty {c : ScrTarget} {a : Int} {n : Nat} (good : (c.causes a n).isEmpty = true) : 0 ≤ a ∧ a + n ≤ c.bytes := by
  rw [List.isEmpty_iff, ScrTarget.causes, accCauses, List.append_eq_nil_iff] at good
  obtain ⟨-, inside⟩ := good
  by_contra out
  rw [if_neg (by simpa using out)] at inside
  cases inside

/-- The lanes that access own scratch are of the form's and inside the allotment. -/
theorem MemReq.mem_scrAskers {l : Lane} (hl : l ∈ r.scrAskers h h.ownScr) :
    l ∈ h.effLanes r.i ∧ 0 ≤ r.off h l ∧ r.off h l + r.size ≤ h.scrBytes := by
  have good : l ∈ (h.effLanes r.i).filter fun l => (h.ownScr.causes (r.off h l) r.size).isEmpty := by
    unfold MemReq.scrAskers at hl
    split at hl
    · exact keepLast_subset _ _ hl
    · exact hl
  obtain ⟨eff, empty⟩ := List.mem_filter.mp good
  exact ⟨eff, ScrTarget.causes_isEmpty empty⟩

/-- The order of a form changes neither who accesses nor where. -/
theorem scrAskers_asOrdered (r : MemReq) (h : Sheaf) :
    r.scrAskers (asOrdered r h) (asOrdered r h).ownScr = r.scrAskers h h.ownScr := by
  rw [asOrdered_eq]
  rfl

theorem storesOf_asOrdered (r : MemReq) (h : Sheaf) (ls : List Lane) : r.storesOf (asOrdered r h) ls = r.storesOf h ls := by
  rw [asOrdered_eq]
  rfl

/-- What a form of own scratch leaves: the bytes and registers of its lanes written, its sheaf put back at its end or its wait. -/
theorem State.scrForm_frame (hs : s.sheaf? h.uid = some h) (shape : r.shaped = true) (spc : xSpc (h.xmem r.i) = 1) (seen : s.unseen h = [])
    (noTxb : s.liveTxbs = []) (noWait : s.waitedWords = []) :
    ∃ u g, ScrWrites (r.storesOf h (r.scrAskers h h.ownScr)) s u ∧
      LanesWrite ((r.scrAskers h h.ownScr).map (·.lid)) r.o.d.toNat r.regs h g ∧
      (s.scrForm h r).bytes = u.bytes ∧ Keeps u (s.scrForm h r) g := by
  have ordered := asOrdered_lanesWrite r h ((r.scrAskers h h.ownScr).map (·.lid)) r.o.d.toNat r.regs
  have hs' : s.sheaf? (asOrdered r h).uid = some h := by rw [ordered.uid, hs]
  by_cases free : orderFree r s (asOrdered r h)
  · rw [State.scrForm_own spc free]
    dsimp only
    rw [scrAskers_asOrdered]
    split
    · exact ⟨s, _, .refl .., ordered, State.hold_bytes .., State.hold_keeps hs' _⟩
    · have held : h.retile s = h := by rw [Sheaf.retile, hs, Option.map_some, Option.getD_some]
      have run := State.ownRun_frame shape ((s.unseen_congr ordered.uid).trans seen) noTxb noWait (ordered.retile (.refl (r.stores h 0) s) held)
        (((r.scrFaults (asOrdered r h) (asOrdered r h).ownScr)).map (·.2)) (r.scrAskers h h.ownScr)
      rw [storesOf_asOrdered] at run
      obtain ⟨mem, regs⟩ := run
      refine ⟨_, _, mem, ordered.trans regs, State.finish_bytes .., (State.finish_keeps (h := h) ?_ ..).of_same ⟨rfl, rfl, rfl, rfl, rfl, rfl, rfl⟩⟩
      exact (mem.sheaf? _).trans ((congrArg s.sheaf? regs.uid).trans hs')
  · rw [State.scrForm_blocked free]
    exact ⟨s, _, .refl .., ordered, State.hold_bytes .., State.hold_keeps hs' _⟩

end Sys2Proof.Machine
end

section
open Sys2Proof Sys2Proof.Machine

/-- Settles O27: the form writes its lanes' bytes and registers; its end, its trap or its wait puts the sheaf back and no byte more. -/
theorem scratchAccessFrame : Obligations.ScratchAccessFrame := by
  intro f hf o s t h rd spc seen noTxb noWait wf next
  have ho := scrForms_o f hf o
  rw [exec_scrForm hf rd (.inl spc)] at next
  obtain rfl := Host.Outcome.next.inj next
  obtain ⟨u, g, mem, regs, bytes, keeps⟩ := State.scrForm_frame (State.cur_sheaf rd.1) (scrForms_shaped f hf o) spc seen noTxb noWait
  simp only [State.bytes, Prod.mk.injEq] at bytes
  obtain ⟨pool, host, slm, scr⟩ := bytes
  obtain ⟨pool', host', slm'⟩ := mem.mems
  obtain ⟨k, found, same⟩ := keeps.own
  obtain ⟨lw, lanes, out, only⟩ := regs.lanes
  have rest := regs.rest
  rw [ho] at only
  refine ⟨⟨pool.trans pool', host.trans host', slm.trans slm'⟩, fun a off => ?byte, fun v ne => ?others,
    k, regs.uid ▸ found, same.s.trans ?_, same.h.trans ?_, same.fflg.trans ?_, same.tiles.trans regs.tiles, same.gw.trans ?_,
    lw, same.lanes.trans lanes, fun l away => out l ?away, only⟩
  case byte =>
    rw [scr]
    refine mem.other wf a fun ⟨l, hl, kind, lo, hi⟩ => ?_
    obtain ⟨eff, low, high⟩ := MemReq.mem_scrAskers hl
    simp only [MemReq.off, ho] at low high lo hi
    exact off l eff kind low high ⟨lo, hi⟩
  case others => exact (keeps.others v (regs.uid ▸ ne)).trans (mem.sheaf? v)
  case away =>
    intro asks
    obtain ⟨x, hx, lid⟩ := List.mem_map.mp asks
    exact away x (MemReq.mem_scrAskers hx).1 lid
  all_goals rw [rest]
end

section
/-! SUPPORT. The causes a command or a message form has none of (07/R189): aligned, inside the allotment, no reserved value. -/

namespace Sys2Proof.Machine

variable {h : Sheaf}

@[simp] theorem reserved_false : reserved false = [] := rfl

@[simp] theorem misaligned_aligned {a m : Nat} (even : a % m = 0) : misaligned a m = [] := by
  simp [misaligned, even]

@[simp] theorem Sheaf.beyond_inside {a n : Nat} (within : a + n ≤ h.scrBytes) : h.beyond a n = [] :=
  if_neg (Nat.not_lt.mpr within)

end Sys2Proof.Machine
end

section
/-! SUPPORT. The forms on mailboxes (07/R235, R236), past the checks of their operands. -/

namespace Sys2Proof.Machine

variable {o : FS3} {s : State} {h : Sheaf} {m : Mbx}

/-- The length of a message is 8 to 128 bytes, in words of 8. -/
theorem messageLength_good {n : Nat} (least : 8 ≤ n) (most : n ≤ 128) (words : n % 8 = 0) :
    reserved (decide (n < 8) || decide (128 < n) || n % 8 != 0) = [] := by
  simp [Nat.not_lt.mpr least, Nat.not_lt.mpr most, words]

/-- MPOST of a good message, its release held: by whether the mailbox has room. -/
theorem execMpost_ready (r : Ready s h (.mpost o)) (named : s.mbxArg h o = some m) :
    let w := h.getS o.sb.toNat
    let off := (w.extractLsb' 0 19).toNat
    let len := (w.extractLsb' 24 8).toNat
    8 ≤ len → len ≤ 128 → len % 8 = 0 → off % 8 = 0 → off + len ≤ h.scrBytes → s.scrBad (h.scrAbs off) len = false →
    s.released h 5 = true →
    exec (.mpost o) s = .next (if m.nslot ≤ m.msgs.length then
        (if o.cf.getLsbD 0 then s.hold h false else s.done (h.setS o.sd.toNat 1))
      else
        let q := s.seenBytes h (h.scrAbs off) len
        (q.1.postMsg m.head q.2.2).done (q.2.1.setS o.sd.toNat 0)) := by
  dsimp only
  intro least most words even within good rel
  refine (issue_ready r _).trans ?_
  simp only [named, messageLength_good least most words, misaligned_aligned even, Sheaf.beyond_inside within, good, State.afterRelease_released rel]
  rfl

/-- MTAKE with room for a message and nothing before it: by whether there is one. -/
theorem execMtake_ready (r : Ready s h (.mtake o)) (named : s.mbxArg h o = some m) :
    let off := (h.getS o.sb.toNat).toNat
    off % 8 = 0 → off + 128 ≤ h.scrBytes → (h.mq.any fun e => e.isAcquire || e.isRelease) = false → s.ownBehind h = false →
    exec (.mtake o) s = .next (match m.msgs with
      | [] => if o.cf.getLsbD 0 then s.hold h false else s.done (h.setS o.sd.toNat 0)
      | bs :: rest =>
        let a := h.scrAbs off
        let s0 := s.touch h 1 a bs.length true
        ((s0.plainWrite a bs h.uid).modMbx m.head fun x => { x with msgs := rest }).done
          ((s0.keepOld (h.retile s0) a bs.length).setS o.sd.toNat (BitVec.ofNat 32 bs.length))) := by
  dsimp only
  intro even within markers own
  refine (issue_ready r _).trans ?_
  simp only [named, misaligned_aligned even, Sheaf.beyond_inside within, markers, own]
  rfl

theorem execMpeek_ready (r : Ready s h (.mpeek o)) : exec (.mpeek o) s = .next (match s.mbxArg h o with
    | some m => s.done (h.setS o.sd.toNat (BitVec.ofNat 32 ((m.msgs.head?.map List.length).getD 0)))
    | none => s.trapNow h (.mpeek o) 6 (h.getPair o.sa.toNat)) := issue_ready r _

end Sys2Proof.Machine
end

section
open Sys2Proof Sys2Proof.Machine

/-- Settles O46: each form is ready, its operands good, so it acts on the mailbox by what that holds. -/
theorem mailboxForms : Obligations.MailboxForms := by
  refine ⟨fun o s h m r named => execMpost_ready r named, fun o s h m r named => ?take, fun o s h m r named => ?peek,
    fun o s h r no => ?noHead⟩
  case take =>
    intro off even within markers own
    have takes := execMtake_ready r named even within markers own
    exact ⟨fun empty => by rw [takes, empty], fun bs rest first => by rw [takes, first]⟩
  case peek => rw [execMpeek_ready r, named]
  case noHead => rw [execMpeek_ready r, no]
end

section
/-! SUPPORT. The task forms (07/R231 to R233), past the checks of their operands. -/

namespace Sys2Proof.Machine

variable {o : FV3} {s : State} {h : Sheaf}

theorem execSpawn_badCap (r : Ready s h (.spawn o)) (bad : s.spawnOk h (h.getPair o.b.toNat) = false) :
    exec (.spawn o) s = .next (s.decodeTrap h (encode (.spawn o)) 0x0B) := by
  refine (issue_ready r _).trans ?_
  simp only [bad]
  rfl

/-- SPAWN with a good capability and room, its release held: the task of each lane joins the queue. -/
theorem execSpawn_ready (r : Ready s h (.spawn o)) (cap : s.spawnOk h (h.getPair o.b.toNat) = true)
    (room : s.queued (clusterOf h.core) + (h.effLanes (.spawn o)).length ≤ 16384) (rel : s.released h 3 = true) :
    exec (.spawn o) s = .next (State.done { s with job := { s.job with tasks := s.job.tasks ++
      ((h.effLanes (.spawn o)).map fun l => (clusterOf h.core, s.taskOf h o.a.toNat (h.getPair o.b.toNat) l)) } } h) := by
  refine (issue_ready r _).trans ?_
  simp only [cap, Bool.not_true, Bool.false_eq_true, if_false, if_neg (Nat.not_lt.mpr room), taskQueueSize, State.afterRelease_released rel]

/-- LAUNCH of a good packet to a port, its release held: by whether the port has room. -/
theorem execLaunch_ready {m : Mbx} (r : Ready s h (.launch o)) (named : s.mbxOf h.ctx (h.getPair o.b.toNat) = some m)
    (port : m.kind = 2) :
    let off := (h.getS o.a.toNat).toNat
    off % 16 = 0 → off + 128 ≤ h.scrBytes → s.scrBad (h.scrAbs off) 128 = false → s.released h 5 = true →
    exec (.launch o) s = .next (if m.nslot ≤ m.msgs.length then s
      else
        let q := s.seenBytes h (h.scrAbs off) 128
        (q.1.postMsg m.head q.2.2).done q.2.1) := by
  dsimp only
  intro even within good rel
  refine (issue_ready r _).trans ?_
  simp only [named, Option.filter_some, port, accCauses_nil even (decide_eq_true within), good, State.afterRelease_released rel]
  rfl

/-- LAUNCH to an address that is no port. -/
theorem execLaunch_noPort (r : Ready s h (.launch o)) (no : ∀ m, s.mbxOf h.ctx (h.getPair o.b.toNat) = some m → m.kind ≠ 2) :
    let off := (h.getS o.a.toNat).toNat
    off % 16 = 0 → off + 128 ≤ h.scrBytes →
    exec (.launch o) s = .next (s.raise h (encode (.launch o)) [(6, h.getPair o.b.toNat)]) := by
  dsimp only
  intro even within
  have absent : ((s.mbxOf h.ctx (h.getPair o.b.toNat)).filter fun m => m.kind == 2) = none := by
    simpa [Option.filter_eq_none_iff] using no
  refine (issue_ready r _).trans ?_
  simp only [absent, accCauses_nil even (decide_eq_true within)]
  rfl

/-- Bytes that no unobserved operation of the sheaf writes are read as they stand. -/
theorem State.seenBytes_of_unseen (u : s.unseen h = []) (a n : Nat) : s.seenBytes h a n = (s, h.retile s, s.scrRead a n) := by
  simp [State.seenBytes, u]

theorem execTdone_ready (r : Ready s h (.tdone o)) : exec (.tdone o) s = .next
    (if !h.task then s.decodeTrap h (encode (.tdone o)) 1
     else if h.mask &&& ~~~maskOf (h.effLanes (.tdone o)) == 0 then s.putSheaf (h.leave (maskOf (h.effLanes (.tdone o)))).close
     else s.done (h.leave (maskOf (h.effLanes (.tdone o))))) := issue_ready r _

end Sys2Proof.Machine
end

section
open Sys2Proof Sys2Proof.Machine

/-- Settles O44: each form is ready; SPAWN by its capability, LAUNCH by the port its address names, TDONE by its sheaf. -/
theorem taskForms : Obligations.TaskForms := by
  refine ⟨fun o s h r bad => execSpawn_badCap r bad, fun o s h r cap room rel => execSpawn_ready r cap room rel, fun o s h m r => ?launch,
    fun s h a n u => State.seenBytes_of_unseen u a n, fun o s h r no => execLaunch_noPort r no, fun o s h r => ?done⟩
  case launch => exact fun named port => execLaunch_ready r named port
  case done => simp only [execTdone_ready r, beq_iff_eq]
end

section
/-! SUPPORT. The iteration sets of the table of R224 (07/R224; 14/R330). -/

namespace Sys2Proof.Machine

variable {h : Sheaf} {lv : Nat}

/-- Of a run of numbers those below a bound are a run. -/
theorem filter_lt_range' (n e a : Nat) : (List.range' a n).filter (fun k => decide (k < e)) = List.range' a (min n (e - a)) := by
  induction n generalizing a with
  | zero => simp
  | succ n ih =>
    rw [List.range'_succ]
    by_cases below : a < e
    · have more : min (n + 1) (e - a) = min n (e - (a + 1)) + 1 := by omega
      rw [List.filter_cons_of_pos (by simpa using below), ih, more, List.range'_succ]
    · have past : min n (e - (a + 1)) = 0 := by omega
      have nothing : min (n + 1) (e - a) = 0 := by omega
      rw [List.filter_cons_of_neg (by simpa using below), ih, past, nothing]
      rfl

theorem mapStr_eq (m : Word) : mapStr m = if m.extractLsb' 4 10 = 0 then 1024 else (m.extractLsb' 4 10).toNat := by
  simp only [mapStr, beq_iff_eq]

/-- A lane level: the lane's run of CF numbers, cut at E. -/
theorem Sheaf.iters_lane (kind : mapKind (h.map lv) = 1) (lid : Nat) :
    List.range' (h.iters lv lid).1 (h.iters lv lid).2 =
      iterationSet 1 (mapStr (h.map lv)) (mapCf (h.map lv)) (h.ext lv) lid h.shid.toNat := by
  have run (a n : Nat) : (List.range n).map (fun t => a + t) = List.range' a n := List.range'_eq_map_range.symm
  simp only [iterationSet, Sheaf.iters, Sheaf.coord, kind, run, filter_lt_range']
  rfl

/-- A sheaf level: one number. -/
theorem Sheaf.iters_sheaf (kind : mapKind (h.map lv) = 2) (some : 0 < h.ext lv) (lid : Nat) :
    List.range' (h.iters lv lid).1 (h.iters lv lid).2 =
      iterationSet 2 (mapStr (h.map lv)) (mapCf (h.map lv)) (h.ext lv) lid h.shid.toNat := by
  have some : (h.ext lv == 0) = false := by simpa using Nat.ne_of_gt some
  simp only [iterationSet, Sheaf.iters, Sheaf.coord, kind, some]
  rfl

/-- A sequential level: all of E. -/
theorem Sheaf.iters_seq (kind : mapKind (h.map lv) = 0) (lid : Nat) :
    List.range' (h.iters lv lid).1 (h.iters lv lid).2 =
      iterationSet 0 (mapStr (h.map lv)) (mapCf (h.map lv)) (h.ext lv) lid h.shid.toNat := by
  simp only [iterationSet, Sheaf.iters, kind, List.range_eq_range']
  rfl

theorem Sheaf.iters_empty (empty : h.ext lv = 0) (lid : Nat) : (h.iters lv lid).2 = 0 := by
  simp only [Sheaf.iters, empty]
  split
  · simp
  · split <;> rfl

end Sys2Proof.Machine
end

section
/-! SUPPORT. What begins with NBEG and NXT (07/R225; 14/R333): the contents of level-local regions and nothing else. -/

namespace Sys2Proof.Machine

variable {s t u : State}

/-- Nothing but scratch contents, where their sheaf is resident or in its image, and the counter of free values has changed. -/
def Scrambled (s t : State) : Prop :=
  (∃ m k, t = { s with mm := { s.mm with scr := m }, ctl := { s.ctl with free := k }, sheaves := t.sheaves }) ∧
  t.sheaves.map (fun x => { x with saved := [] }) = s.sheaves.map fun x => { x with saved := [] }

theorem Scrambled.refl (s : State) : Scrambled s s := ⟨⟨s.mm.scr, s.ctl.free, rfl⟩, rfl⟩

theorem Scrambled.trans (x : Scrambled s t) (y : Scrambled t u) : Scrambled s u := by
  obtain ⟨⟨m, k, ht⟩, hst⟩ := x
  obtain ⟨⟨m', k', hu⟩, htu⟩ := y
  refine ⟨⟨m', k', ?_⟩, htu.trans hst⟩
  rw [ht] at hu
  exact hu

theorem State.scramble_scrambled (s : State) (x : Sheaf) (off n : Nat) : Scrambled s (s.scramble x off n) := by
  unfold State.scramble
  dsimp only
  split
  · exact ⟨⟨_, _, rfl⟩, rfl⟩
  · refine ⟨⟨s.mm.scr, s.ctl.free + n, rfl⟩, ?_⟩
    simp only [State.modSheaf, State.draw_sheaves, List.map_map]
    refine List.map_congr_left fun y _ => ?_
    simp only [Function.comp]
    split <;> rfl

theorem State.beginIters_scrambled (s : State) (h h1 : Sheaf) (i : Instr) (lv : Nat) : Scrambled s (s.beginIters h h1 i lv) := by
  unfold State.beginIters
  generalize s.begun h h1 i lv = offs
  induction offs generalizing s with
  | nil => exact .refl s
  | cons off offs ih =>
    refine .trans ?_ (ih _)
    dsimp only
    split
    · exact State.scramble_scrambled ..
    · exact .refl s

/-- A level without level-local memory has no region that begins. -/
theorem State.beginIters_noRegion {h1 : Sheaf} {lv : Nat} (absent : h1.llmTab[lv]? = none) (s : State) (h : Sheaf) (i : Instr) :
    s.beginIters h h1 i lv = s := by
  have noRegion (l : Lane) : h1.llm lv l = none := by simp only [Sheaf.llm, absent]
  have nothing : s.begun h h1 i lv = [] := by
    rw [State.begun, List.filterMap_eq_nil_iff.mpr]
    · rfl
    intro l _
    rw [noRegion]
    split
    · cases l.key lv <;> rfl
    · rfl
  rw [State.beginIters, nothing]
  rfl

end Sys2Proof.Machine
end

section
open Sys2Proof Sys2Proof.Machine

/-- Settles O42: the iteration set by the kind of its level; each form is ready, and what begins with it is scrambled. -/
theorem nestStepsOfALane : Obligations.NestStepsOfALane := by
  refine ⟨fun h lv lid kind some => ?set, fun h lv lid empty => Sheaf.iters_empty empty lid, fun o s h r => issue_ready r _,
    fun o s h r => ?next, fun s h h1 i lv absent => State.beginIters_noRegion absent s h i, fun s h h1 i lv => ?begins, fun o s h r => ?index⟩
  case set =>
    rw [← mapStr_eq]
    match k : mapKind (h.map lv), kind with
    | 0, _ => exact Sheaf.iters_seq k lid
    | 1, _ => exact Sheaf.iters_lane k lid
    | 2, _ => exact Sheaf.iters_sheaf k some lid
  case next => exact issue_ready r _
  case begins =>
    obtain ⟨⟨m, k, rest⟩, same⟩ := State.beginIters_scrambled s h h1 i lv
    exact ⟨m, k, rest, same⟩
  case index =>
    refine (swept_ready r _).trans ?_
    simp only [beq_iff_eq]
    rfl
end

section
/-! SUPPORT. The agents of an iteration (07/R226 to R230), once what a form waits for is there. -/

namespace Sys2Proof.Machine

variable {o : FVI} {s : State} {h : Sheaf}

/-- The only sheaf of its iterations waits for nothing. -/
theorem State.nestReleased_alone {lv : Nat} (alone : h.sheavesOf lv = 1) : s.nestReleased h lv = true := by
  simp [State.nestReleased, Sheaf.nestScope, alone]

/-- Where agents wait for no other sheaf or the release has passed, nothing holds the form. -/
theorem notHeld_of {many : List (Lane × List Nat)} {here : Lane × List Nat → Bool} {released : Bool}
    (free : many = [] ∨ released = true) : (!many.all here && !released) = false := by
  obtain rfl | rfl := free <;> simp

theorem notAwaited_of {many : List (Lane × List Nat)} {released : Bool} (free : many = [] ∨ released = true) :
    (!many.isEmpty && !released) = false := by
  obtain rfl | rfl := free <;> simp

theorem execNbar_alone (r : Ready s h (.nbar o)) (alone : h.manyAgents (o.imm.extractLsb' 0 2).toNat = []) :
    exec (.nbar o) s = .next (s.done h) := by
  refine (issue_ready r _).trans ?_
  simp only [Instr.lv, alone]
  rfl

theorem execNbar_released (r : Ready s h (.nbar o)) :
    let lv := (o.imm.extractLsb' 0 2).toNat
    let as := h.manyAgents lv
    let s1 := s.nbarArrive h lv as
    as ≠ [] → s.nestReleased h lv = true →
    exec (.nbar o) s = .next (if h.lvFlag lv 6 = false ∧ freeBit s.ctl.free = true then (s.draw 1).done h
      else if as.all fun a => (s1.nest h.launch lv a.2).through (agentId h.uid a.1.lid) then
        (as.foldl (fun (t : State) a => t.putNest { t.nest h.launch lv a.2 with
          arr := (t.nest h.launch lv a.2).arr.filter fun x => x.1 != agentId h.uid a.1.lid }) s1).done h
      else s1.nestWait h as) := by
  dsimp only
  intro several rel
  have several : (h.manyAgents (o.imm.extractLsb' 0 2).toNat).isEmpty = false := by simpa using several
  refine (issue_ready r _).trans ?_
  simp only [Instr.lv, several, notHeld_of (.inr rel), Bool.false_eq_true, if_false, Bool.and_eq_true, Bool.not_eq_true']
  rfl

/-- An agent that has not arrived yet is the last one by its count. -/
theorem NestSync.arrive_first {n : NestSync} {agent : Nat} (new : (n.arr.any fun a => a.1 == agent) = false) (count : Nat) :
    n.arrive agent count = { n with
      arr := n.arr ++ [(agent, n.phase)]
      phase := if (n.arr.filter fun a => a.2 == n.phase).length + 1 = count then n.phase + 1 else n.phase } := by
  simp [NestSync.arrive, new, List.filter_append]

theorem execNred_adds (r : Ready s h (.nred o)) (add : o.get = false) : exec (.nred o) s = .next
    ((s.redAdd h (.nred o) (o.imm.extractLsb' 0 2).toNat o.a.toNat (xTy h.xmod) (redOp o)).done h) := by
  refine (issue_ready r _).trans ?_
  simp only [add]
  rfl

theorem execNred_gets (r : Ready s h (.nred o)) (get : o.get = true) :
    let lv := (o.imm.extractLsb' 0 2).toNat
    let as := h.pathAgents lv
    (h.manyAgents lv = [] ∨ s.nestReleased h lv = true) →
    let s1 := as.foldl (fun (t : State) a =>
      t.putNest ((t.nest h.launch lv a.2).get (agentId h.uid a.1.lid) (h.agents lv a.2))) s
    exec (.nred o) s = .next (if as.all fun a => (s1.nest h.launch lv a.2).closed (agentId h.uid a.1.lid) then
        let r := as.foldl (fun (q : State × Sheaf) a => q.1.redLane q.2 lv o.d.toNat (xTy h.xmod) (redOp o) (xRm h.xmod) a.1 a.2) (s1, h)
        r.1.done r.2
      else s1.nestWait h as) := by
  dsimp only
  intro free
  refine (issue_ready r _).trans ?_
  simp only [get, Instr.lv, notHeld_of free, Bool.not_true, Bool.false_eq_true, if_false]
  rfl

theorem execNbc_free (r : Ready s h (.nbc o)) :
    let lv := (o.imm.extractLsb' 0 2).toNat
    let as := (h.pathAgents lv).filter fun a => (a.1.nestAt (lv + 1)).rc != 0
    let many := as.filter fun a => h.agents lv a.2 != 1
    let num := fun (t : State) (a : Lane × List Nat) =>
      (t.nest h.launch lv a.2).bcount (agentId h.uid a.1.lid) (a.1.nestAt (lv + 1)).ix.toNat
    (many = [] ∨ s.nestReleased h lv = true) →
    let s1 := as.foldl (fun (t : State) a => if (a.1.nestAt (lv + 1)).ix == 0 then
      t.putNest ((t.nest h.launch lv a.2).supply (num t a) a.1.lid (a.1.getV o.a.toNat)) else t) s
    exec (.nbc o) s = .next (if many.all fun a =>
        ((s1.nest h.launch lv a.2).bval (num s1 a) (h.zeroLid (lv + 1) a.1.lid)).isSome then
        let r := as.foldl (fun (q : State × Sheaf) a => q.1.bcLane q.2 lv o.d.toNat a.1 a.2) (s1, h)
        r.1.done r.2
      else s1.nestWait h many) := by
  dsimp only
  intro free
  refine (issue_ready r _).trans ?_
  simp only [Instr.lv, notAwaited_of free, Bool.false_eq_true, if_false]
  rfl

/-- The offset of a lane's level-local region. -/
theorem Sheaf.llm_eq (h : Sheaf) (lv : Nat) (l : Lane) : h.llm lv l = match h.llmTab[lv]? with
    | some (base, n) => if n = 0 ∨ (l.nestAt lv).rc = 0 then none else some (base + l.lid / h.inner lv * n)
    | none => none := by
  simp only [Sheaf.llm, Bool.or_eq_true, beq_iff_eq] <;> rfl

theorem NestAcc.result_empty {x : NestAcc} (empty : x.n = 0) (ty op rm : Nat) : x.result ty op rm = some (emptyRed ty op, 0) := by
  simp [NestAcc.result, empty]

end Sys2Proof.Machine
end

section
open Sys2Proof Sys2Proof.Machine

/-- Settles O43: each form is ready and its release held, so it does what its agents have come to. -/
theorem nestAgentsMeet : Obligations.NestAgentsMeet := by
  refine ⟨fun o s h r alone => execNbar_alone r alone, fun o s h r => execNbar_released r, fun s h lv alone => State.nestReleased_alone alone,
    fun n agent count new => ?arrive, fun o s h r add => execNred_adds r add, fun o s h r get => execNred_gets r get,
    fun x ty op rm empty => NestAcc.result_empty empty ty op rm, fun o s h r => execNbc_free r, fun o s h r => scalarPair_ready r _ _,
    fun o s h r => ?region⟩
  case arrive =>
    rw [NestSync.arrive_first new]
    exact ⟨rfl, rfl⟩
  case region =>
    refine (issue_ready r _).trans ?_
    simp only [Instr.lv, Sheaf.llm_eq, beq_iff_eq] <;> rfl
end

section
/-! SUPPORT. SSUB, SUNSUB and SSYNC, and the steps of a subscription (07/R221, R222; 08/R252; 09/R279, R282). -/

namespace Sys2Proof.Machine

variable {o : FS3} {s : State} {h : Sheaf}

theorem elim_ite_some {α β : Type} (c : Prop) [Decidable c] (a : α) (x : Option α) (e : β) (f : α → β) :
    (if c then some a else x).elim e f = if c then f a else x.elim e f := by
  split <;> rfl

/-- The state after an SSUB that nothing stands against: the entry with the lowest free id, in resync with every sector dirty. -/
def State.subscribed (s : State) (h : Sheaf) (o : FS3) (m : Sheaf) : State :=
  let id := ((List.range 16).find? fun k => !(s.subsOf h.uid).any fun p => p.id == k).getD 0
  let len := (h.getS (o.sa.toNat + 1)).toNat / 32
  (State.fresh { s with stk := { s.stk with subs := s.stk.subs ++ [⟨s.ctl.nextId, id, h.uid, m.uid, (h.getS o.sa.toNat).toNat,
    (h.getS (o.sb.toNat + 1)).toNat, len, .resync, List.range len, []⟩] } } 1).done (h.setS o.sd.toNat (BitVec.ofNat 32 id))

/-- What stands against an SSUB of the operands of a form. -/
def State.ssubCheck (s : State) (h : Sheaf) (o : FS3) : Option (Nat × DWord) :=
  s.ssubRefusal h (h.getS o.sa.toNat).toNat (h.getS (o.sa.toNat + 1)).toNat (h.getS o.sb.toNat).toNat (h.getS (o.sb.toNat + 1)).toNat

theorem execSsub_refused {c : Nat} {a : DWord} (r : Ready s h (.ssub o)) (against : s.ssubCheck h o = some (c, a)) :
    exec (.ssub o) s = .next (s.trapNow h (.ssub o) c a) := by
  refine (issue_ready r _).trans ?_
  rw [State.ssubCheck] at against
  simp only [against]

/-- An SSUB of a member traps by what stands against it, or subscribes. -/
theorem execSsub_member {m : Member × Sheaf} (r : Ready s h (.ssub o)) (member : s.member? h (h.getS o.sb.toNat).toNat = some m) :
    exec (.ssub o) s = .next ((s.ssubCheck h o).elim (s.subscribed h o m.2) fun c => s.trapNow h (.ssub o) c.1 c.2) := by
  cases against : s.ssubCheck h o with
  | some c => exact execSsub_refused r against
  | none =>
    refine (issue_ready r _).trans ?_
    rw [State.ssubCheck] at against
    simp only [against, member]
    rfl

/-- What a subscription's length and offsets must not be (07/R221). -/
def subBad (soff len poff : Nat) : Prop := len = 0 ∨ 65536 < len ∨ len % 32 ≠ 0 ∨ soff % 32 ≠ 0 ∨ poff % 32 ≠ 0

theorem State.ssubRefusal_bad {soff len poff : Nat} (bad : subBad soff len poff) (mem : Nat) :
    s.ssubRefusal h soff len mem poff = some (0xF, 1) := by
  refine if_pos ?_
  simpa [or_assoc, subBad] using bad

theorem State.ssubRefusal_good {soff len poff : Nat} (good : ¬ subBad soff len poff) (mem : Nat) :
    s.ssubRefusal h soff len mem poff = match s.member? h mem with
      | none => some (7, peerAddr mem poff)
      | some (_, x) =>
        if x.uid == h.uid then some (0xF, 5)
        else if h.scrBytes < soff + len || x.scrBytes < poff + len then some (0xF, 2)
        else if (s.subsOf h.uid).any fun p => meets soff len p.soff (32 * p.len) then some (0xF, 6)
        else if 16 ≤ s.subEntries h.core then some (0xF, 3)
        else if 16 ≤ s.pubEntries x.core then some (0xF, 4)
        else none := by
  refine if_neg ?_
  simpa [or_assoc, subBad] using good

theorem execSunsub_ready (r : Ready s h (.sunsub o)) :
    let id := (h.getS o.sa.toNat).toNat
    exec (.sunsub o) s = .next (if (s.subsOf h.uid).any fun p => p.id == id then
        State.done { s with stk := { s.stk with subs := s.stk.subs.filter fun p => !(p.subr == h.uid && p.id == id) } } h
      else s.trapNow h (.sunsub o) 0xF 7) := issue_ready r _

/-- The subscriptions an SSYNC of `id` names. -/
def State.named (s : State) (h : Sheaf) (id : Word) : List Sub :=
  (s.subsOf h.uid).filter fun p => id == 0xFFFFFFFF || p.id == id.toNat

theorem State.mem_named {id : Word} {p : Sub} :
    p ∈ s.named h id ↔ p ∈ s.stk.subs ∧ p.subr = h.uid ∧ (id = 0xFFFFFFFF ∨ p.id = id.toNat) := by
  simp only [State.named, State.subsOf, List.mem_filter, beq_iff_eq, Bool.or_eq_true, and_assoc]

theorem execSsync_ready (r : Ready s h (.ssync o)) :
    let id := h.getS o.sa.toNat
    exec (.ssync o) s = .next (if (s.named h id).isEmpty && id != 0xFFFFFFFF then s.trapNow h (.ssync o) 0xF 7
      else if (s.named h id).all fun p => p.state == .live then s.done h
      else s.hold h true) := issue_ready r _

theorem execForward_found {sub batch : Nat} {p : Sub} {b : Batch} {x : Sheaf} (hp : s.sub? sub = some p)
    (hb : (p.batches.find? fun b => b.id == batch) = some b) (hx : s.sheaf? p.subr = some x) :
    exec (.forward sub batch) s = .next (
      if b.sent && s.flows p && !b.behind (p.batches.takeWhile fun e => e.id != batch) then
        (s.modSub sub fun q => { q with batches := q.batches.filter fun e => e.id != batch }).applyBytes (x.scrAbs 0) b.bytes
      else s) := by
  show execForward sub batch s = _
  simp only [execForward, hp, hb, hx]

theorem execSubscriptionResyncFetch_fetches {sub k : Nat} {p : Sub} {x y : Sheaf} (hp : s.sub? sub = some p)
    (hy : s.sheaf? p.pubr = some y) (hx : s.sheaf? p.subr = some x) (resync : p.state = .resync) (dirty : p.dirty.contains k = true)
    (flows : s.flows p = true) :
    let rest := p.dirty.filter fun j => j != k
    exec (.subscriptionResyncFetch sub k) s = .next ((s.modSub sub fun q => { q with
      dirty := rest
      state := if rest.isEmpty then .live else .resync
      batches := q.batches.map fun b => b.minus (p.soff + 32 * k) 32 }).scrWrite
      (x.scrAbs (p.soff + 32 * k)) (s.scrRead (y.scrAbs (p.poff + 32 * k)) 32) 0) := by
  show execSubscriptionResyncFetch sub k s = _
  simp only [execSubscriptionResyncFetch, hp, hy, hx, resync, dirty, flows]
  rfl

end Sys2Proof.Machine
end

section
open Sys2Proof Sys2Proof.Machine

/-- Settles O41: SSUB by its first check that fails, SSYNC by the subscriptions it names, each step by what it finds. -/
theorem subscriptionsForward : Obligations.SubscriptionsForward := by
  refine ⟨fun o s h r => ?sub, fun o s h r => execSunsub_ready r, fun o s h r => ?sync, fun s sub batch => rfl,
    fun s sub batch p b x hp hb hx => execForward_found hp hb hx,
    fun s sub k p x y hp hy hx resync dirty flows => execSubscriptionResyncFetch_fetches hp hy hx resync dirty flows⟩
  case sub =>
    exact ⟨fun bad => execSsub_refused r (State.ssubRefusal_bad bad _),
      fun good noMember => execSsub_refused r ((State.ssubRefusal_good good _).trans (by rw [noMember])), fun m x good member => by
        rw [execSsub_member r member, State.ssubCheck, State.ssubRefusal_good good, member]
        simp only [elim_ite_some]
        rfl⟩
  case sync =>
    rw [execSsync_ready r]
    refine ⟨fun one no => ?_, fun found live => ?_, fun ⟨p, hp, mine, busy⟩ => ?_⟩
    · have empty : s.named h (h.getS o.sa.toNat) = [] :=
        List.eq_nil_iff_forall_not_mem.mpr fun p hp => no p (State.mem_named.mp hp).1 (State.mem_named.mp hp).2
      rw [if_pos (by simpa [empty] using one)]
    · have all : (s.named h (h.getS o.sa.toNat)).all (fun p => p.state == .live) = true :=
        List.all_eq_true.mpr fun p hp => by
          obtain ⟨hp, mine⟩ := State.mem_named.mp hp
          simpa using live p hp mine
      rw [if_neg ?_, if_pos all]
      obtain one | ⟨p, hp, mine⟩ := found
      · simp [one]
      · have some : s.named h (h.getS o.sa.toNat) ≠ [] := List.ne_nil_of_mem (State.mem_named.mpr ⟨hp, mine⟩)
        simp [some]
    · have hp : p ∈ s.named h (h.getS o.sa.toNat) := State.mem_named.mpr ⟨hp, mine⟩
      rw [if_neg (by simp [List.ne_nil_of_mem hp]), if_neg fun all => busy (by simpa using List.all_eq_true.mp all p hp)]
end

section
/-! SUPPORT. What every engine command does once its engine takes it (07/R185 to R191): its entries are found, its checks find
nothing, its ranges are there, and its operation runs. -/

namespace Sys2Proof.Machine

variable {s t : State} {h : Sheaf} {i : Instr} {k : OpKind}

/-- The engine takes the command. -/
theorem engine_runs (r : runsEngine s h i k) (body : Sheaf → State → State) : engine i k s body = .next (body (served h) s) := by
  obtain ⟨ready, free, room, up⟩ := r
  refine (issue_ready ready _).trans ?_
  simp only [free, room, up]
  rfl

theorem State.entryIs_good {x : BitVec 256} (good : entryBad x = false) (own : h.seqr = true → (Entry.ofBits x).spc = 1)
    (k : Entry → State → State) : s.entryIs h i x k = k (Entry.ofBits x) s := by
  have own : (h.seqr && (Entry.ofBits x).spc != 1) = false := by
    cases q : h.seqr with
    | false => rfl
    | true => simp [own q]
  simp only [State.entryIs, good, own, Bool.false_eq_true, if_false]

/-- A command goes on with the entry its sheaf finds. -/
theorem State.withEntry_found {n : Nat} {e : Entry} (found : entryFound s h n e t) (k : Entry → State → State) :
    s.withEntry h i n k = k e t := by
  obtain ⟨x, rfl, good, place⟩ := found
  cases q : h.seqr with
  | true =>
    rw [if_pos q] at place
    obtain ⟨whole, rfl, own, rfl⟩ := place
    simp only [State.withEntry, q, whole, if_true, Bool.false_eq_true, if_false]
    exact State.entryIs_good good (fun _ => own) k
  | false =>
    rw [if_neg (by simp [q])] at place
    obtain ⟨free, bs, read, rfl⟩ := place
    simp only [State.withEntry, q, free, read, Bool.false_eq_true, if_false]
    exact State.entryIs_good good (by simp [q]) k

/-- With its ranges there the command is submitted and done, and its operation runs. -/
theorem State.submit_runs {src dst : List Rng} {skip : Nat} (fit : rangesFit s h src dst skip) (known : skip ≤ 2) (o : Op) :
    s.submit h i o src dst skip = nowRunning s h o src dst := by
  obtain ⟨allowed, there, pins⟩ := fit
  have granted : (if skip == 2 then [] else (s.pinAll h ((src.map fun r => (r, false)) ++ dst.map fun r => (r, true))).2.denied) = [] := by
    split
    · rfl
    next no => exact (allowed (by simpa using no)).1
  have present : (if skip == 2 then [] else if skip == 1
      then (s.pinAll h ((src.map fun r => (r, false)) ++ dst.map fun r => (r, true))).2.host
      else (s.pinAll h ((src.map fun r => (r, false)) ++ dst.map fun r => (r, true))).2.missing ++
        (s.pinAll h ((src.map fun r => (r, false)) ++ dst.map fun r => (r, true))).2.host) = [] := by
    split
    · rfl
    next two =>
      have host := (allowed (by simpa using two)).2
      split
      · exact host
      next one =>
        simp only [beq_iff_eq] at one two
        rw [there (by omega), host, List.append_nil]
  simp only [State.submit, granted, present, pins]
  rfl

/-- Checks that find nothing refuse nothing. -/
theorem notRefused {α : Type} {cs : List Refusal1} (none : cs = []) (a b : α) : (if !cs.isEmpty then a else b) = b := by
  rw [none]
  rfl

/-- Checks that a bit of the command asks for. -/
theorem asked_nil {c : Bool} {cs : List Refusal1} (good : c = true → cs = []) : (if c then cs else []) = [] := by
  cases c with
  | false => rfl
  | true => exact good rfl

end Sys2Proof.Machine
end

section
/-! SUPPORT. What the checks of the copy commands compare (07/R197, R204). -/

namespace Sys2Proof.Machine

/-- Formats that a copy takes, converted or as they are. -/
theorem copyFormats_good {cv : Bool} {x y : Nat} (good : if cv then cvtfPermits x y = true else x = y) :
    (if cv then !cvtfPermits x y else x != y) = false := by
  cases cv with
  | false => simpa using good
  | true => simpa using good

/-- The FLO word of MCAST: an offset in each member (07/R199). -/
theorem mcastFlag_good {w : Word} (good : (w.extractLsb' 0 19).toNat % 4 = 0 ∧ w.extractLsb' 19 13 = 0) :
    misaligned (w.extractLsb' 0 19).toNat 4 ++ reserved (w.extractLsb' 19 13 != 0) = [] := by
  obtain ⟨even, zero⟩ := good
  rw [misaligned_aligned even, zero]
  rfl

@[simp] theorem Sheaf.ownTxb_off (h : Sheaf) (w : Word) : h.ownTxb false w = [] := rfl

theorem code_of_group (known : Bool) : (if !known then 5 else 0) = if known then 0 else 5 := by
  cases known <;> rfl

end Sys2Proof.Machine
end

section
open Sys2Proof Sys2Proof.Machine

/-- Settles O34: each engine takes its command, the entries are found, the checks find nothing, so the command is submitted. -/
theorem copyCommandsStartOperations : Obligations.CopyCommandsStartOperations := by
  refine ⟨fun o s s1 s2 h a b r => ?bulk, fun o s s1 s2 h a b r => ?mcast, fun o s h r => ?peer, fun o s s1 s2 h a b r => ?dec,
    fun o s h r => ?dscd, fun o s h r => ?pref, fun o s s1 h a r => ?red, fun o s s1 s2 h a b r => ?redRoot, fun o s s1 h e r => ?wnx⟩
  all_goals dsimp only
  case bulk =>
    intro ea eb idx rows cols la lb fmts txo flo fit
    show execBulk o s = _
    simp only [execBulk, engine_runs r, State.withEntry_found ea, State.withEntry_found eb]
    rw [notRefused (by simp only [idx, rows, cols, la, lb, copyFormats_good fmts, asked_nil txo, asked_nil flo, bne_self_eq_false,
      Bool.or_false, reserved_false, List.append_nil]), State.submit_runs fit (by decide)]
  case mcast =>
    intro ea eb idx mask rows cols la lb fmts own txo flo fit
    have txo : o.f.getLsbD 0 = true → misaligned _ 16 = [] := fun asked => misaligned_aligned (txo asked)
    have flo : o.f.getLsbD 1 = true → _ := fun asked => mcastFlag_good (flo asked)
    show execMcast o s = _
    simp only [execMcast, engine_runs r, State.withEntry_found ea, State.withEntry_found eb]
    rw [notRefused (by simp only [idx, mask, rows, cols, la, lb, fmts, own, asked_nil txo, asked_nil flo, bne_self_eq_false,
      Bool.or_false, reserved_false, List.append_nil])]
    exact congrArg _ (State.submit_runs fit (by decide) _)
  case peer =>
    intro src dst len most txo flo fit
    have txo : o.f.getLsbD 0 = true → misaligned _ 16 = [] := fun asked => misaligned_aligned (txo asked)
    show execPeer o s = _
    simp only [execPeer, engine_runs r]
    rw [notRefused (by simp only [misaligned_aligned src, misaligned_aligned dst, misaligned_aligned len, asked_nil txo, asked_nil flo,
      decide_eq_false (Nat.not_lt.mpr most), reserved_false, List.append_nil]), State.submit_runs fit (by decide)]
  case dec =>
    intro ea eb idx la lb own even txo flo fit
    show execDec o s = _
    simp only [execDec, engine_runs r, State.withEntry_found ea, State.withEntry_found eb]
    rw [notRefused (by simp only [idx, la, lb, own, misaligned_aligned even, asked_nil txo, asked_nil flo, bne_self_eq_false,
      Bool.or_false, reserved_false, List.append_nil]), State.submit_runs fit (by decide)]
  case dscd =>
    intro va len fit
    show execDscd o s = _
    simp only [execDscd, engine_runs r]
    rw [notRefused (by simp only [misaligned_aligned va, misaligned_aligned len, List.append_nil]), State.submit_runs fit (by decide)]
  case pref =>
    intro most fit
    show execPref o s = _
    simp only [execPref, engine_runs r]
    rw [if_neg (Nat.not_lt.mpr most), State.submit_runs fit (by decide)]
  case red =>
    intro leaf ea idx la types tile fit
    show execRed o s = _
    have leaf : (((par ((served h).block o.sa 5) 0).extractLsb' 8 8) != 0xFF) = false := by simpa using leaf
    simp only [execRed, engine_runs r, State.withEntry_found ea, leaf, Bool.false_eq_true, if_false]
    rw [notRefused (by simp only [idx, la, types, tile, bne_self_eq_false, Bool.or_false, Bool.and_false, Bool.not_true, reserved_false]),
      State.submit_runs fit (by decide), code_of_group, Bool.and_false, Sheaf.ownTxb_off]
  case redRoot =>
    intro root ea eb idx la types lb fmt rows cols txo fit
    have root : (((par ((served h).block o.sa 5) 0).extractLsb' 8 8) != 0xFF) = true := by simpa using root
    show execRed o s = _
    simp only [execRed, engine_runs r, State.withEntry_found ea, State.withEntry_found eb, root, if_true]
    rw [notRefused (by simp only [idx, la, types, lb, fmt, rows, cols, asked_nil txo, bne_self_eq_false, Bool.or_false, Bool.not_true,
      Bool.false_and, reserved_false, List.append_nil]), State.submit_runs fit (by decide), code_of_group, Bool.and_true]
  case wnx =>
    intro ea idx la even within txo fit
    show execWnx o s = _
    simp only [execWnx, engine_runs r, State.withEntry_found ea]
    rw [notRefused (by simp only [idx, la, misaligned_aligned even, Sheaf.beyond_inside within, asked_nil txo, bne_self_eq_false,
      Bool.or_false, reserved_false, List.append_nil]), State.submit_runs fit (by decide)]
end

section
/-! SUPPORT. What the checks of the sparse commands compare (07/R211, R212). -/

namespace Sys2Proof.Machine

variable {h : Sheaf} {blk : List Word} {pat : Nat}

/-- A group size and a count of kept entries that SPCMP takes. -/
theorem prune_good {one : Bool} {n k : Nat} (size : n ∈ [2, 4, 8, 16, 32, 64]) (some : 0 < k) (most : k ≤ n)
    (meta1 : one = true → n = 4 ∧ k ≤ 3) :
    (!(n == 2 || n == 4 || n == 8 || n == 16 || n == 32 || n == 64)) = false ∧ (k == 0) = false ∧ decide (n < k) = false ∧
    (one && (n != 4 || decide (3 < k))) = false := by
  refine ⟨by simpa [or_assoc, imp_iff_not_or] using size, by simpa using Nat.ne_of_gt some, decide_eq_false (Nat.not_lt.mpr most), ?_⟩
  cases one with
  | false => rfl
  | true =>
    obtain ⟨rfl, three⟩ := meta1 rfl
    simpa using three

theorem fmtBits_bytes (fmt : Nat) : fmtBits fmt / 8 = streamBytes fmt := rfl

/-- The checks of PCOMP and PINV of another pattern than 0. -/
theorem Sheaf.patChecks_format (zero : (par blk 1).extractLsb' 5 27 = 0) (fmt : sparseFmt ((par blk 1).extractLsb' 0 5).toNat = true)
    (other : pat ≠ 0) : h.patChecks blk pat = [] := by
  have other : (pat == 0) = false := by simpa using other
  simp only [Sheaf.patChecks, zero, fmt, other, bne_self_eq_false, Bool.not_true, Bool.or_false, reserved_false]
  rfl

/-- Of pattern 0 they look at the place of the bitmap too. -/
theorem Sheaf.patChecks_bitmap (zero : (par blk 1).extractLsb' 5 27 = 0) (fmt : sparseFmt ((par blk 1).extractLsb' 0 5).toNat = true)
    (even : (par blk 0).toNat % 32 = 0) (within : (par blk 0).toNat + 512 ≤ h.scrBytes) : h.patChecks blk pat = [] := by
  simp only [Sheaf.patChecks, zero, fmt, misaligned_aligned even, Sheaf.beyond_inside within, bne_self_eq_false, Bool.not_true,
    Bool.or_false, reserved_false, List.append_nil, ite_self]

end Sys2Proof.Machine
end

section
open Sys2Proof Sys2Proof.Machine

/-- Settles O36: each engine takes its command, the entry is found, the checks find nothing, so the command does its work. -/
theorem sparseCommandsStart : Obligations.SparseCommandsStart := by
  refine ⟨fun o s s1 h a r => ?spcmp, fun o s h r => ?pcomp, fun o s h r => ?pinv, fun o s s1 h a r => ?nnz, fun o s s1 h a r => ?wnw,
    fun o s h r => ?wnf⟩
  all_goals dsimp only
  case spcmp =>
    intro ea idx zero own la fmt size some most meta1 even within inside fit
    obtain ⟨size, some, most, meta1⟩ := prune_good size some most meta1
    show execSpcmp o s = _
    simp only [execSpcmp, engine_runs r, State.withEntry_found ea]
    rw [notRefused (by simp only [idx, zero, own, la, fmt, size, some, most, meta1, misaligned_aligned even, Sheaf.beyond_inside within,
      inside, bne_self_eq_false, Bool.not_true, Bool.or_false, reserved_false, List.append_nil]), State.submit_runs fit (by decide)]
  case pcomp =>
    intro zero fmt fit
    show (_ → execPcomp o s = _) ∧ (_ → _ → _ → execPcomp o s = _)
    simp only [execPcomp, engine_runs r]
    refine ⟨fun other => ?_, fun bitmap even within => ?_⟩
    · have other : (o.f.extractLsb' 0 2).toNat ≠ 0 := fun z => other (BitVec.eq_of_toNat_eq z)
      rw [notRefused (Sheaf.patChecks_format zero fmt other), if_pos (by simpa using other), State.submit_runs fit (by decide)]
    · rw [notRefused (Sheaf.patChecks_bitmap zero fmt even within), if_neg (by simp [bitmap]), State.submit_runs fit (by decide)]
  case pinv =>
    intro zero fmt
    show (_ → execPinv o s = _) ∧ (_ → _ → _ → execPinv o s = _)
    simp only [execPinv, engine_runs r]
    refine ⟨fun other => ?_, fun bitmap even within => ?_⟩
    · have other : (o.f.extractLsb' 0 2).toNat ≠ 0 := fun z => other (BitVec.eq_of_toNat_eq z)
      rw [notRefused (Sheaf.patChecks_format zero fmt other), if_pos (by simpa using other)]
    · rw [notRefused (Sheaf.patChecks_bitmap zero fmt even within), if_neg (by simp [bitmap])]
  case nnz =>
    simp only [fmtBits_bytes]
    intro ea idx inside fit
    show execNnz o s = _
    simp only [execNnz, engine_runs r, State.withEntry_found ea]
    rw [notRefused (by simp only [idx, inside, bne_self_eq_false, reserved_false, List.append_nil]), State.submit_runs fit (by decide)]
  case wnw =>
    intro ea idx own la rows width desc inside fit
    show execWnw o s = _
    simp only [execWnw, engine_runs r, State.withEntry_found ea]
    rw [notRefused (by simp only [idx, own, la, decide_eq_false (Nat.not_lt.mpr rows), width, desc, inside, bne_self_eq_false,
      Bool.or_false, reserved_false, List.append_nil]), State.submit_runs fit (by decide)]
  case wnf =>
    intro desc fit
    show execWnf o s = _
    simp only [execWnf, engine_runs r]
    rw [notRefused desc, State.submit_runs fit (by decide)]
end

section
/-! SUPPORT. The lanes of a per-lane copy (07/R196), and the debit of a matrix command (07/R193). -/

namespace Sys2Proof.Machine

variable {s : State} {h : Sheaf} {o : Op}

/-- A lane of a per-lane copy with its global address, its offset and its causes. -/
abbrev CopyLane := Nat × Int × Nat × List (Nat × DWord)

/-- The pins of a lane whose translation is at hand. -/
def State.pinLane (s : State) (h : Sheaf) (ps : List Pin) (l : CopyLane) : List Pin :=
  match (s.engTranslate h.core h.ctx l.2.1.toNat).2 with
  | .page t => (t.pinOf l.2.1.toNat).into ps
  | _ => ps

/-- A lane's copy may go: slice memory, or a page at hand that permits it. -/
def State.laneGoes (s : State) (h : Sheaf) (slm write : Bool) (l : CopyLane) : Prop :=
  slm = true ∨ ∃ t, s.engTranslate h.core h.ctx l.2.1.toNat = (s, .page t) ∧ (if write then t.w else t.r) = true

/-- The walk of lanes that may go finds each of them without a cause and pins their pages. -/
theorem State.lanePage_walk {slm write : Bool} (ls : List CopyLane) (good : ∀ l ∈ ls, s.laneGoes h slm write l) (q : LaneWalk) :
    ls.foldl (fun (q : State × LaneWalk) (l : CopyLane) => q.1.lanePage h slm write l.1 l.2.1.toNat l.2.2.1 q.2) (s, q) =
      (s, ⟨q.lanes ++ ls.map fun l => (l.1, l.2.1.toNat, l.2.2.1, []), q.missing,
        if slm then q.pins else ls.foldl (s.pinLane h) q.pins⟩) := by
  induction ls generalizing q with
  | nil => simp
  | cons l ls ih =>
    have rest := ih fun x hx => good x (List.mem_cons_of_mem l hx)
    cases slm with
    | true =>
      rw [List.foldl_cons]
      refine (rest _).trans ?_
      simp
    | false =>
      obtain found | ⟨t, page, may⟩ := good l List.mem_cons_self
      · cases found
      · have one : s.lanePage h false write l.1 l.2.1.toNat l.2.2.1 q =
            (s, ⟨q.lanes ++ [(l.1, l.2.1.toNat, l.2.2.1, [])], q.missing, s.pinLane h q.pins l⟩) := by
          simp [State.lanePage, State.pinLane, page, may]
        rw [List.foldl_cons]
        dsimp only
        rw [one, rest]
        simp

@[simp] theorem Op.bindTo_id (o : Op) (s : State) (h : Sheaf) (es : List Entry) : (o.bindTo s h es).id = o.id := by
  unfold Op.bindTo
  split <;> rfl

/-- A word that only pattern 1 uses. -/
theorem unused_false {n : Nat} {w : Word} (zero : n ≠ 1 → w = 0) : (n != 1 && w != 0) = false := by
  by_cases one : n = 1
  · simp [one]
  · simp [zero one]

/-- An operation that has started is found. -/
theorem nowRunning_op? {id : Nat} (e : o.id = id) (s : State) (h : Sheaf) (src dst : List Rng) :
    ((nowRunning s h o src dst).op? id).isSome = true :=
  List.find?_isSome.mpr ⟨_, List.mem_append_right _ List.mem_cons_self, by simpa using e⟩

end Sys2Proof.Machine
end

section
/-! SUPPORT. Two lane copies, two dense multiplications and two tile moves, each pair one shared form (07/R196, R206, R208). -/

namespace Sys2Proof.Machine

variable {s s1 s2 : State} {h : Sheaf} {i : Instr} {k : OpKind} {o : FE} {a b : Entry}

theorem laneCopy_runs (r : runsEngine s h i k) :
    let ord := xOrd (h.xmem i)
    let scp := xScp (h.xmem i)
    let g := if ord == 0 then served h else (served h).ungather
    let n := 4 * 2 ^ (o.f.extractLsb' 0 2).toNat
    let blk := g.block o.sa 4
    let slm := xSpc (g.xmem i) == 3
    let ls := (g.effLanes i).map fun l => (l.lid, s.laneOf g i blk n l)
    (o.f.getLsbD 2 = true → g.txoChecks true (par blk 3) = []) → (ord.getLsbD 1 = true → s.released g scp = true) →
    (∀ l ∈ ls, l.2.2.2 = [] ∧ s.laneGoes g slm (k == .ls2g) l) →
    let cps : List LaneCopy := ls.map fun l => ⟨l.1, l.2.1.toNat, l.2.2.1, decide (g.scrBytes < l.2.2.1 + n)⟩
    let run := cps.filter fun c => !c.skip
    let gR := run.map fun c => if slm then (2, (s.slmPos g.ctx c.g n).getD 0, n) else (0, c.g, n)
    let oR := run.map fun c => (1, g.scrAbs c.o, n)
    let op : Op := { Op.new s g i k o.h.toNat blk with
      lanes := cps, txbs := g.ownTxb (o.f.getLsbD 2) (par blk 3), trunc := cps.any (·.skip)
      code := if cps.any (·.skip) then 3 else 0, viol := ((cps.find? (·.skip)).map fun c => (8, BitVec.ofNat 64 c.o)).toList
      srcR := if k == .lg2s then gR else oR
      dstR := if k == .lg2s then oR else gR
      regs := [xC g.xreg, xE g.xreg]
      pins := if slm then [] else (ls.foldl (s.pinLane g) []).filter fun q => run.any fun c => c.g / 65536 == q.page }
    s.canPin (dieOf g.core) op.pins = true →
    laneCopy i k o s = .next (((State.fresh { s with eng := { s.eng with ops := s.eng.ops ++ [op] } } 1).done
      { (g.laneOrder ord scp).setH o.h.toNat (.op op.id) with nseq := g.nseq + 2 }).collect g.ctx) := by
  intro ord scp g n blk slm ls txo rel good cps run gR oR op pins
  have walks := State.lanePage_walk ls (fun l hl => (good l hl).2) ⟨[], [], []⟩
  have whole : (ls.filter fun l => l.2.2.2.isEmpty) = ls := List.filter_eq_self.mpr fun l hl => by simp [(good l hl).1]
  have held : (ord.getLsbD 1 && !s.released g scp) = false := by
    cases acq : ord.getLsbD 1 with
    | false => rfl
    | true => simp [rel acq]
  rw [laneCopy, engine_runs r, show (served h).xmem i = h.xmem i from rfl]
  extract_lets tx cs walk lanes causes cps' run' new gR' oR' skipped op'
  have walked : walk = (s, ⟨ls.map fun l => (l.1, l.2.1.toNat, l.2.2.1, []), [], if slm then [] else ls.foldl (s.pinLane g) []⟩) := by
    simp only [walk, whole, walks, List.nil_append]
  clear_value walk
  subst walked
  have copies : cps' = cps := by
    have clean : lanes = ls.map fun l => (l.1, l.2.1.toNat, l.2.2.1, []) :=
      List.filter_eq_self.mpr fun l hl => by
        obtain ⟨x, -, rfl⟩ := List.mem_map.mp hl
        rfl
    simp only [cps', clean, List.map_map]
    rfl
  clear_value cps'
  subst copies
  have any : skipped.isSome = cps.any (·.skip) := List.isSome_find?
  have same : op' = op := by
    simp only [op', op, any, apply_ite (List.filter _), List.filter_nil]
    rfl
  clear_value op'
  subst same
  have causeless : causes = [] := List.flatMap_eq_nil_iff.mpr fun l hl => by
    rw [if_pos (by simp [(good l hl).1])]
    refine List.flatMap_eq_nil_iff.mpr fun m hm => ?_
    obtain ⟨x, -, rfl⟩ := List.mem_map.mp (List.mem_filter.mp hm).1
    rfl
  rw [notRefused (asked_nil txo), if_neg (ne_true_of_eq_false held), causeless]
  exact congrArg _ (if_neg (ne_true_of_eq_false (congrArg not pins)))

theorem mmaForm_runs (r : runsEngine s h i k) :
    let g := served h
    let blk := g.block o.sa 3
    let kk := kOf a.fmt
    let src := blockRngs a (sideA a (par blk 1) kk) 64 kk ++ blockRngs b (sideB b (par blk 2) kk) kk 64
    entryFound s g ((par blk 0).extractLsb' 0 8).toNat a s1 → entryFound s1 g ((par blk 0).extractLsb' 8 8).toNat b s2 →
    (par blk 0).extractLsb' 16 16 = 0 → a.lay = 0 → b.lay = 0 → (mmaPair a.fmt b.fmt || (a.fmt == 5 && b.fmt == 5)) = true →
    g.beyondAll src = [] → s2.canSpend g (energyCost o.ec.toNat) = true → rangesFit s2 g src [] 0 →
    mmaForm i k o s = .next ((nowRunning s2 g (Op.bindTo { Op.new s2 g i k o.h.toNat blk with
      ents := [a, b], tile := o.mt.toNat } s2 g [a, b]) src []).spend g (energyCost o.ec.toNat)) := by
  dsimp only
  intro ea eb idx la lb fmts inside budget fit
  simp only [mmaForm, engine_runs r, State.withEntry_found ea, State.withEntry_found eb]
  rw [notRefused (by simp only [idx, la, lb, fmts, inside, bne_self_eq_false, Bool.not_true, Bool.or_false, reserved_false,
    List.append_nil]), if_neg (by simp [budget]), State.submit_runs fit (by decide), if_pos (nowRunning_op? (Op.bindTo_id ..) ..)]

theorem tileMove_runs (r : runsEngine s h i k) :
    let g := served h
    let blk := g.block o.sa 2
    let es := fmtBits (if k == .mmld then xTys g.xmod else xTy g.xmod) / 8
    let rows := tileRngs (par blk 0).toNat (par blk 1).toNat (64 * es)
    (par blk 0).toNat % es = 0 → (par blk 1).toNat % es = 0 → (par blk 0).toNat + (63 * (par blk 1).toNat + 64 * es) ≤ g.scrBytes →
    rangesFit s g (if k == .mmld then rows else []) (if k == .mmld then [] else rows) 0 →
    tileMove i k o s = .next (nowRunning s g { Op.new s g i k o.h.toNat blk with tile := o.mt.toNat }
      (if k == .mmld then rows else []) (if k == .mmld then [] else rows)) := by
  dsimp only
  intro off stride within fit
  simp only [tileMove, engine_runs r]
  rw [notRefused (by simp only [misaligned_aligned off, misaligned_aligned stride, Sheaf.beyond_inside within, List.append_nil]),
    State.submit_runs fit (by decide)]

end Sys2Proof.Machine
end

section
open Sys2Proof Sys2Proof.Machine

/-- Settles O35: each engine takes its command, what it names is there and its checks find nothing, so the command is submitted. -/
theorem laneCopiesAndMatrixStart : Obligations.LaneCopiesAndMatrixStart := by
  refine ⟨?lanes, ?dense, ?move, fun o s h r fit => ?clear, fun o s h r => ?convert, fun o s s1 s2 h a b r => ?sparse⟩
  case lanes =>
    simp only [List.forall_mem_cons, List.not_mem_nil, false_implies, implies_true, and_true]
    exact ⟨fun o s h r => laneCopy_runs r, fun o s h r => laneCopy_runs r⟩
  case dense =>
    simp only [List.forall_mem_cons, List.not_mem_nil, false_implies, implies_true, and_true]
    exact ⟨fun o s s1 s2 h a b r => mmaForm_runs r, fun o s s1 s2 h a b r => mmaForm_runs r⟩
  case move =>
    simp only [List.forall_mem_cons, List.not_mem_nil, false_implies, implies_true, and_true]
    exact ⟨fun o s h r => tileMove_runs r, fun o s h r => tileMove_runs r⟩
  case clear =>
    show execMmcl o s = _
    simp only [execMmcl, engine_runs r]
    rw [State.submit_runs fit (by decide)]
  case convert =>
    dsimp only
    intro inside fit
    show execMmcv o s = _
    simp only [execMmcv, engine_runs r]
    rw [notRefused inside, State.submit_runs fit (by decide)]
  case sparse =>
    dsimp only
    intro ea eb idx three la lb fmt pair even within insideA insideB budget fit
    have three : ((o.f.extractLsb' 0 2).toNat != 1 && par ((served h).block o.sa 4) 3 != 0) = false := unused_false three
    show execMmsp o s = _
    simp only [execMmsp, engine_runs r, State.withEntry_found ea, State.withEntry_found eb]
    rw [notRefused (by simp only [idx, three, la, lb, fmt, pair, misaligned_aligned even, Sheaf.beyond_inside within, insideA,
      asked_nil fun one => insideB (eq_of_beq one), bne_self_eq_false, Bool.not_true, Bool.or_false, reserved_false, List.append_nil]),
      if_neg (by simp only [energyCost, budget, Bool.not_true, Bool.false_eq_true, not_false_eq_true]), State.submit_runs fit (by decide),
      if_pos (nowRunning_op? (Op.bindTo_id ..) ..)]
    rfl
end

section
/-! SUPPORT. What the writes of an engine leave of its record of runs, so that a unit is whole once its runs are written (08/R243,
R253). -/

namespace Sys2Proof.Machine

variable {s t u : State} {id n : Nat} {o : Op} {h : Sheaf}

/-- From `s` to `t` no request joins or leaves the channels, and operation `id` has written the same runs. -/
structure KeepsRuns (id : Nat) (s t : State) : Prop where
  requests : t.requests = s.requests
  parts : (t.op? id).map Op.parts = (s.op? id).map Op.parts

theorem KeepsRuns.refl (id : Nat) (s : State) : KeepsRuns id s s := ⟨rfl, rfl⟩

theorem KeepsRuns.trans (x : KeepsRuns id s t) (y : KeepsRuns id t u) : KeepsRuns id s u :=
  ⟨y.requests.trans x.requests, y.parts.trans x.parts⟩

/-- A step that leaves engines and channels. -/
theorem KeepsRuns.of_eq (eng : t.eng = s.eng) (chans : t.mm.chans = s.mm.chans) (backs : t.mm.backs = s.mm.backs) :
    KeepsRuns id s t :=
  ⟨by rw [State.requests, chans, backs, State.requests], by rw [State.op?, eng, State.op?]⟩

theorem KeepsRuns.ite {c : Prop} [Decidable c] {a b : State} (x : KeepsRuns id s a) (y : KeepsRuns id s b) :
    KeepsRuns id s (if c then a else b) := by
  split <;> assumption

theorem KeepsRuns.foldl {α : Type} {f : State → α → State} (step : ∀ u a, KeepsRuns id u (f u a)) (l : List α) (s : State) :
    KeepsRuns id s (l.foldl f s) := by
  induction l generalizing s with
  | nil => exact .refl id s
  | cons a l ih => exact (step s a).trans (ih _)

/-- Marks on operations that leave their identifiers and runs. -/
theorem op?_parts_map {f : Op → Op} (keeps : ∀ x, (f x).id = x.id ∧ (f x).parts = x.parts) (ops : List Op) :
    (((ops.map f).find? fun x => x.id == id).map Op.parts) = (ops.find? fun x => x.id == id).map Op.parts := by
  have same : (fun x : Op => x.id == id) ∘ f = fun x => x.id == id := funext fun x => by simp only [Function.comp, (keeps x).1]
  have parts : Op.parts ∘ f = Op.parts := funext fun x => (keeps x).2
  rw [List.find?_map, same, Option.map_map, parts]

theorem State.modOp_keepsRuns (s : State) (k : Nat) {f : Op → Op} (keeps : ∀ x, (f x).id = x.id ∧ (f x).parts = x.parts) :
    KeepsRuns id s (s.modOp k f) :=
  ⟨rfl, op?_parts_map (fun x => by split; exacts [keeps x, ⟨rfl, rfl⟩]) s.eng.ops⟩

theorem State.modSheaf_keepsRuns (s : State) (uid : Nat) (f : Sheaf → Sheaf) : KeepsRuns id s (s.modSheaf uid f) := .of_eq rfl rfl rfl

theorem State.modCtx_keepsRuns (s : State) (ctx : Nat) (f : Ctx → Ctx) : KeepsRuns id s (s.modCtx ctx f) := .of_eq rfl rfl rfl

theorem State.modHome_keepsRuns (s : State) (asid line : Nat) (f : Home → Home) : KeepsRuns id s (s.modHome asid line f) :=
  .of_eq rfl rfl rfl

theorem State.countPool_keepsRuns (s : State) (asid n : Nat) : KeepsRuns id s (s.countPool asid n) := .of_eq rfl rfl rfl

/-- Free values drawn first are of no matter. -/
theorem KeepsRuns.of_draw {k : Nat} (x : KeepsRuns id (s.draw k) t) : KeepsRuns id s t := ⟨x.requests, x.parts⟩

/-! A write of own scratch. -/

theorem State.scrWrite_keepsRuns (s : State) (a : Nat) (bs : List Byte) (cause : Nat) : KeepsRuns id s (s.scrWrite a bs cause) := by
  unfold State.scrWrite
  extract_lets n bs1 s1 pats m e s2
  obtain ⟨mm, eng⟩ : s1.mm = s.mm ∧ s1.eng = s.eng := by
    unfold s1
    split <;> exact ⟨rfl, rfl⟩
  have wrote : KeepsRuns id s s2 := {
    requests := (congrArg (fun m : MemSys => m.chans ++ m.backs.map (·.req)) mm :)
    parts := (op?_parts_map (fun x => by split <;> exact ⟨rfl, rfl⟩) s1.eng.ops).trans (by rw [eng, State.op?]) }
  refine .ite wrote (wrote.trans ?_)
  rw [State.forwardBytes_eq]
  exact .of_eq rfl rfl rfl

theorem State.plainWrite_keepsRuns (s : State) (a : Nat) (bs : List Byte) (uid : Nat) : KeepsRuns id s (s.plainWrite a bs uid) :=
  (s.scrWrite_keepsRuns a bs uid).trans <| .foldl (fun (u : State) (r : Nat × Nat × Nat) =>
    (((u.draw 16).scrWrite_keepsRuns r.2.2 (freeBytes u.ctl.free 16) uid).of_draw).trans (State.modSheaf_keepsRuns ..)) _ _

/-! A write at a home. -/

theorem State.backWrite_keepsRuns (s : State) (hm : Bool) (pa : Nat) (bs : List Byte) : KeepsRuns id s (s.backWrite hm pa bs) :=
  .ite (.of_eq rfl rfl rfl) (.ite (.of_eq rfl rfl rfl) (.refl id s))

theorem State.orPte_keepsRuns (s : State) (pte : Nat) (bits : Byte) : KeepsRuns id s (s.orPte pte bits) :=
  .ite (.of_eq rfl rfl rfl) (.refl id s)

theorem State.writeBack_keepsRuns (s : State) (x : Home) : KeepsRuns id s (s.writeBack x) := by
  unfold State.writeBack
  extract_lets s1
  have back : KeepsRuns id s s1 := .foldl (fun u k => .ite (u.backWrite_keepsRuns ..) (.refl id u)) _ _
  clear_value s1
  refine back.trans (KeepsRuns.trans ?_ (State.modHome_keepsRuns ..))
  exact .ite (.refl id s1) (s1.countPool_keepsRuns ..)

theorem State.evict_keepsRuns (s : State) (x : Home) : KeepsRuns id s (s.evict x) :=
  (s.writeBack_keepsRuns x).trans (.of_eq rfl rfl rfl)

theorem State.makeRoom_keepsRuns (s : State) (slice n : Nat) : KeepsRuns id s (s.makeRoom slice n) :=
  .ite (.refl id s) (.foldl State.evict_keepsRuns _ _)

theorem State.enterHome_keepsRuns (s : State) (x : Home) : KeepsRuns id s (s.enterHome x) :=
  .ite (.of_eq rfl rfl rfl) (.of_eq rfl rfl rfl)

theorem State.translate_keepsRuns (s : State) (ctx va : Nat) : KeepsRuns id s (s.translate ctx va).1 := by
  unfold State.translate
  split
  · exact .refl id s
  · split
    · exact .refl id s
    · split
      · exact (s.orPte_keepsRuns ..).trans (.of_eq rfl rfl rfl)
      · exact .refl id s

theorem State.homeOf_keepsRuns (s : State) (ctx va : Nat) (need : Need) : KeepsRuns id s (s.homeOf ctx va need).1 := by
  have walked := s.translate_keepsRuns (id := id) ctx va
  unfold State.homeOf
  split
  · exact .refl id s
  · split
    case h_1 s1 t e =>
      rw [e] at walked
      refine walked.trans ?_
      dsimp only
      split
      · exact .refl id s1
      · refine (s1.makeRoom_keepsRuns (s1.homeSlice t.asid (va / 128)) 1).trans (KeepsRuns.trans ?_ (State.enterHome_keepsRuns ..))
        exact .ite (.refl id _) (State.countPool_keepsRuns ..)
    all_goals next e => rw [e] at walked; exact walked

theorem State.logWrite_keepsRuns (s : State) (ctx : Nat) (x : Home) : KeepsRuns id s (s.logWrite ctx x) := by
  unfold State.logWrite
  split
  · exact .refl id s
  · refine .ite (.refl id s) ?_
    extract_lets s1 pte s2
    have bit : KeepsRuns id s s1 := by
      unfold s1
      split
      · exact .ite (s.orPte_keepsRuns ..) (.refl id s)
      · exact .refl id s
    have dirty : KeepsRuns id s1 s2 := by
      unfold s2
      clear_value pte s1
      split
      · exact s1.orPte_keepsRuns ..
      · exact .refl id s1
    exact (bit.trans dirty).trans (.of_eq rfl rfl rfl)

theorem State.wroteThrough_keepsRuns (s : State) (core ctx : Nat) : KeepsRuns id s (s.wroteThrough core ctx) := by
  unfold State.wroteThrough
  split
  · exact .refl id s
  · exact .of_eq rfl rfl rfl

theorem State.spoilStacks_keepsRuns (s : State) (ctx va n : Nat) : KeepsRuns id s (s.spoilStacks ctx va n) :=
  .ite (.of_eq rfl rfl rfl) (.refl id s)

theorem State.homeWrite_keepsRuns (s : State) (ctx core uid : Nat) (x : Home) (off : Nat) (bs : List Byte) :
    KeepsRuns id s (s.homeWrite ctx core uid x off bs).1 :=
  ((s.logWrite_keepsRuns ctx x).trans (State.wroteThrough_keepsRuns _ core ctx)).trans
    ((State.spoilStacks_keepsRuns _ ctx (x.line * 128 + off) bs.length).trans
      ((State.modCtx_keepsRuns _ ctx _).trans (State.modHome_keepsRuns _ x.asid x.line _)))

theorem State.opWrite_keepsRuns (s : State) (o : Op) (va : Nat) (bs : List Byte) : KeepsRuns id s (s.opWrite o va bs) := by
  have here := s.homeOf_keepsRuns (id := id) o.ctx va .write
  unfold State.opWrite
  split
  · next s1 x e =>
    rw [e] at here
    exact here.trans ((s1.homeWrite_keepsRuns ..).trans (State.modOp_keepsRuns _ _ fun _ => ⟨rfl, rfl⟩))
  · next s1 _ _ e =>
    rw [e] at here
    exact here

/-! All runs of a unit. -/

/-- Where a run goes to own scratch or to a home, it joins no channel. -/
theorem State.putRun_keepsRuns {t : Target} (near : t = .own ∨ t = .home) (s : State) (o : Op) (n : Nat) (r : Nat × List Byte) :
    KeepsRuns id s (s.putRun o n t r) := by
  obtain rfl | rfl := near
  · exact s.plainWrite_keepsRuns ..
  · exact s.opWrite_keepsRuns ..

/-- Writing runs at a near target records each of them, and sends no request. -/
theorem State.putRuns_records {t : Target} (near : t = .own ∨ t = .home) (o : Op) (n : Nat) (l : List ((Nat × List Byte) × Nat)) :
    ∀ (s : State) (ps : List (Nat × Nat)), (s.op? o.id).map Op.parts = some ps →
      let u := l.foldl (fun (u : State) (p : (Nat × List Byte) × Nat) =>
        (u.putRun o n t p.1).modOp o.id fun x => { x with parts := x.parts ++ [(n, p.2)] }) s
      u.requests = s.requests ∧ (u.op? o.id).map Op.parts = some (ps ++ l.map fun p => (n, p.2)) := by
  induction l with
  | nil => exact fun s ps e => ⟨rfl, by rw [List.foldl_nil, e, List.map_nil, List.append_nil]⟩
  | cons p l ih =>
    intro s ps e
    obtain ⟨requests, parts⟩ := s.putRun_keepsRuns (id := o.id) near o n p.1
    obtain ⟨x, found, rfl⟩ := Option.map_eq_some_iff.1 (parts.trans e)
    have recorded := congrArg (Option.map Op.parts)
      (State.op?_modOp found (f := fun x => { x with parts := x.parts ++ [(n, p.2)] }) fun _ => rfl)
    obtain ⟨requests', parts'⟩ := ih _ _ recorded
    exact ⟨requests'.trans requests, by rw [List.foldl_cons, parts', List.map_cons, List.append_assoc, List.singleton_append]⟩

/-- A unit all of whose runs have been written at own scratch or a home is whole. -/
theorem State.putRuns_whole {t : Target} (near : t = .own ∨ t = .home) (found : s.op? id = some o) (sent : noneSent s id n)
    (rs : List (Nat × List Byte)) : (s.putRuns o n t rs none).unitWhole id n rs.length = true := by
  obtain rfl : o.id = id := by simpa using List.find?_some found
  obtain ⟨requests, parts⟩ := State.putRuns_records near o n
    (rs.zipIdx.filter fun p => ((none : Option Nat).isNone || none == some p.2) && !o.parts.contains (n, p.2)) s o.parts
    (by rw [found, Option.map_some])
  obtain ⟨x, there, written⟩ := Option.map_eq_some_iff.1 parts
  have all : ∀ k < rs.length, (n, k) ∈ x.parts := by
    intro k lt
    rw [written, List.mem_append, List.mem_map]
    by_cases old : (n, k) ∈ o.parts
    · exact .inl old
    · refine .inr ⟨(rs[k], k), List.mem_filter.2 ⟨?_, by simp [old]⟩, rfl⟩
      exact List.mem_zipIdx_iff_getElem?.2 (List.getElem?_eq_getElem lt)
  rw [noneSent] at sent
  rw [State.putRuns, State.unitWhole]
  simp only [there, requests]
  simpa [sent] using all

end Sys2Proof.Machine
end

section
/-! SUPPORT. The runs of a unit: its cells in order, each run inside one aligned 8-byte part (07/R194). -/

namespace Sys2Proof.Machine

/-- The cells of a run. -/
def runCells (r : Nat × List Byte) : List (Nat × Byte) := r.2.zipIdx.map fun p => (r.1 + p.2, p.1)

theorem runCells_cons (a : Nat) (b : Byte) (bs : List Byte) : runCells (a, b :: bs) = (a, b) :: runCells (a + 1, bs) := by
  have next : List.zipIdx bs (0 + 1) = bs.zipIdx.map fun p => (p.1, p.2 + 1) := List.zipIdx_succ
  simp only [runCells, List.zipIdx_cons, List.map_cons, next, List.map_map, Nat.add_zero]
  exact congrArg _ (List.map_congr_left fun p _ => by simp only [Function.comp, Nat.add_assoc, Nat.add_comm p.2])

/-- A cell joins the run that begins right after it in its 8-byte part, or begins a run of its own. -/
theorem runsOf_cons (a : Nat) (b : Byte) (cs : List (Nat × Byte)) :
    (∃ bs rs, runsOf cs = (a + 1, bs) :: rs ∧ (a + 1) % 8 ≠ 0 ∧ runsOf ((a, b) :: cs) = (a, b :: bs) :: rs) ∨
    runsOf ((a, b) :: cs) = (a, [b]) :: runsOf cs := by
  rw [runsOf]
  cases e : runsOf cs with
  | nil => exact .inr rfl
  | cons r rs =>
    obtain ⟨a', bs⟩ := r
    by_cases joins : a + 1 = a' ∧ a' % 8 ≠ 0
    · obtain ⟨rfl, odd⟩ := joins
      exact .inl ⟨bs, rs, rfl, odd, by simp [odd]⟩
    · exact .inr (by simpa using fun x => not_not.1 fun y => joins ⟨x, y⟩)

theorem runsOf_cells (cs : List (Nat × Byte)) : (runsOf cs).flatMap runCells = cs := by
  induction cs with
  | nil => rfl
  | cons c cs ih =>
    obtain ⟨a, b⟩ := c
    obtain ⟨bs, rs, next, -, e⟩ | e := runsOf_cons a b cs
    · rw [next, List.flatMap_cons] at ih
      rw [e, List.flatMap_cons, runCells_cons, List.cons_append, ih]
    · rw [e, List.flatMap_cons, ih, runCells_cons]
      rfl

theorem runsOf_aligned (cs : List (Nat × Byte)) : ∀ r ∈ runsOf cs, r.2 ≠ [] ∧ r.1 / 8 = (r.1 + r.2.length - 1) / 8 := by
  induction cs with
  | nil => exact nofun
  | cons c cs ih =>
    obtain ⟨a, b⟩ := c
    obtain ⟨bs, rs, next, odd, e⟩ | e := runsOf_cons a b cs
    · rw [next, List.forall_mem_cons] at ih
      obtain ⟨⟨some, part⟩, rest⟩ := ih
      have := List.length_pos_iff.2 some
      rw [e, List.forall_mem_cons, List.length_cons]
      exact ⟨⟨nofun, by dsimp only at part ⊢; omega⟩, rest⟩
    · rw [e, List.forall_mem_cons]
      exact ⟨⟨nofun, rfl⟩, ih⟩

end Sys2Proof.Machine
end

section
/-! SUPPORT. Steps of a running operation: reads, units, fills and transfers (08/R243, R245, R253; 07/R199). -/

namespace Sys2Proof.Machine

variable {s s1 : State} {id n line : Nat} {o : Op} {h : Sheaf} {r : Rng} {t : Target} {x : Home}

/-! Reading ranges. -/

theorem execEngineScratchAccess_reads (run : opRuns s id o h) (path : o.pathOpen = false)
    (turn : o.kind.isWinnow = true → s.slotTurn o = true) (range : (s.needs o)[n]? = some r) :
    execEngineScratchAccess id (.read n) s = .next (s.readRange o h r) := by
  have turn : (o.kind.isWinnow && !s.slotTurn o) = false := by
    rw [Bool.and_eq_false_imp]
    exact fun winnow => by rw [turn winnow, Bool.not_true]
  simp only [execEngineScratchAccess, State.withOp_runs run, State.engRead, path, turn, range, Bool.false_eq_true, if_false]

/-- A winnow operation whose turn on its slot has not come reads nothing (10/R309). -/
theorem execEngineScratchAccess_waitsTurn (run : opRuns s id o h) (path : o.pathOpen = false) (winnow : o.kind.isWinnow = true)
    (turn : s.slotTurn o = false) : execEngineScratchAccess id (.read n) s = .next s := by
  simp only [execEngineScratchAccess, State.withOp_runs run, State.engRead, path, winnow, turn, Bool.not_false, Bool.and_self,
    Bool.false_eq_true, if_false, if_true]

/-- A range of own scratch not captured yet is captured now, as far as the allotment goes (08/R253). -/
theorem State.readRange_own (own : r.sp = 1) (unread : o.got r = false) (good : o.failed = false)
    (unasked : (s.requests.any fun c => c.kind == .opRead o.id r.key) = false)
    (clean : s.scrBad (h.scrAbs r.a) (min r.n (h.scrBytes - r.a)) = false) (fresh : o.stale = []) :
    s.readRange o h r = s.readDone o.id r.key (s.scrRead (h.scrAbs r.a) (min r.n (h.scrBytes - r.a))) := by
  simp only [State.readRange, unread, good, unasked, own, State.capture, clean, State.staleRead, fresh, List.find?_nil,
    List.isEmpty_nil, beq_self_eq_true, Bool.or_self, Bool.false_eq_true, if_false, if_true]
  rfl

/-- A range of a peer's scratch not captured yet nor asked for is asked for (08/R251, R253). -/
theorem State.readRange_peer {x : Sheaf} (peer : r.sp = 2) (unread : o.got r = false) (good : o.failed = false)
    (unasked : (s.requests.any fun c => c.kind == .opRead o.id r.key) = false)
    (found : s.peerOf h (r.a / peerStep) = some (x, false)) (some : min r.n (x.scrBytes - r.a % peerStep) ≠ 0) :
    s.readRange o h r =
      s.send (o.request x (.opRead o.id r.key) (r.a % peerStep) (min r.n (x.scrBytes - r.a % peerStep)) 0) := by
  simp only [State.readRange, unread, good, unasked, peer, found, some, beq_iff_eq, Nat.reduceEqDiff, Bool.or_self,
    Bool.false_eq_true, if_false, if_true]

theorem State.refit_same (found : s.op? id = some o) (same : o.kind ≠ .dec ∨ o.header = none) : s.refit id = s := by
  simp only [State.refit, found]
  split
  · next dec header _ => exact absurd same (by simp [dec, header])
  · rfl

theorem State.refit_dec {hd : List Byte} (found : s.op? id = some o) (dec : o.kind = .dec) (header : o.header = some hd)
    (sheaf : s.sheaf? o.sheaf = some h) :
    s.refit id = s.modOp id fun x => { x with dstR := s.regionOf h ⟨1, (o.ent 1).base, streamOut hd⟩ } := by
  simp only [State.refit, found, dec, header, sheaf]

/-! Writing units. -/

theorem mem_sectorKinds {k : OpKind} : k ∈ sectorKinds ↔ k = .bulk ∨ k = .peer ∨ k = .wnx := by
  simp only [sectorKinds, List.mem_cons, List.not_mem_nil, or_false]

theorem notWinnow_of_copy (kind : o.kind ∈ .lg2s :: sectorKinds) : o.kind.isWinnow = false := by
  rcases List.mem_cons.1 kind with e | e
  · simp only [e, OpKind.isWinnow]
  · rcases mem_sectorKinds.1 e with e | e | e <;> simp only [e, OpKind.isWinnow]

theorem State.putUnit_near {rs : List (Nat × List Byte)} {f : Flags} (near : t = .own ∨ t = .home) (found : s.op? id = some o)
    (runs : s.unitRuns o h n t = some (rs, f)) (sent : noneSent s id n) :
    s.putUnit o h n t none = (s.putRuns o n t rs none).unitDone id n f rs.isEmpty := by
  obtain rfl : o.id = id := by simpa using List.find?_some found
  simp only [State.putUnit, runs, State.putRuns_whole near found sent, if_true]

/-- A copy of lanes or sectors leaves nothing to slice memory, and reads no tile. -/
theorem State.writeUnit_own (good : o.failed = false) (kind : o.kind ∈ .lg2s :: sectorKinds) (space : xSpc o.xmem ≠ 3)
    (new : o.done.contains n = false) (unit : (s.units o h).contains n = true) (lines : s.badLine o = none)
    (target : s.unitTarget o h n = .own) : s.writeUnit o h n none false = s.putUnit o h n .own none := by
  have space : (xSpc o.xmem == 3) = false := by simpa using space
  have tiles : (o.kind == .mmst || o.kind == .mmcv) = false := by
    rcases List.mem_cons.1 kind with e | e
    · rw [e]
      rfl
    · rcases mem_sectorKinds.1 e with e | e | e <;> rw [e] <;> rfl
  simp only [State.writeUnit, good, new, unit, lines, target, State.laneHeld, State.laneBad, space, tiles, Option.isSome_none,
    Bool.not_true, Bool.or_self, Bool.and_false, Bool.false_and, Bool.false_eq_true, if_false]

theorem State.writeUnit_home (good : o.failed = false) (awake : o.susp = false) (new : o.done.contains n = false)
    (unit : (s.units o h).contains n = true) (lines : s.badLine o = none) (target : s.unitTarget o h n = .home)
    (free : s.lineHeld o.ctx (o.unitVa n) = false) (home : s.homeOf o.ctx (o.unitVa n) .write = (s1, .ok x)) :
    s.writeUnit o h n none true = s1.putUnit o h n .home none := by
  simp only [State.writeUnit, good, awake, new, unit, lines, target, free, home, Option.isSome_none, Bool.not_true, Bool.or_self,
    Bool.false_eq_true, if_false]

theorem execEngineScratchAccess_writes (run : opRuns s id o h) (good : o.failed = false) (kind : o.kind.isWinnow = false) :
    execEngineScratchAccess id (.write n) s = .next (s.writeUnit o h n none false) := by
  simp only [execEngineScratchAccess, State.withOp_runs run, good, Bool.false_eq_true, if_false]
  split
  · next e => rw [e] at kind; exact nomatch kind
  · next e => rw [e] at kind; exact nomatch kind
  · rfl

theorem execHomeWritePerform_unit (run : opRuns s id o h) :
    execHomeWritePerform (.unit id n) s = .next (s.writeUnit o h n none true) := by
  simp only [execHomeWritePerform, State.withOp_runs run]

/-! Where a unit of a copy goes, and its runs. -/

theorem Op.unitVa_sector (kind : o.kind ∈ sectorKinds) : o.unitVa n = 32 * n := by
  rcases mem_sectorKinds.1 kind with e | e | e <;> rw [Op.unitVa, e] <;> rfl

theorem State.unitTarget_sector {q : Shape} (kind : o.kind ∈ sectorKinds) (shape : o.shape = some q) : s.unitTarget o h n =
    if q.dst.sp == 0 then .home else if q.dst.sp == 1 then .own else if q.dst.sp == 2 then s.peerTarget h q.dst.mem none else .far := by
  rcases mem_sectorKinds.1 kind with e | e | e <;> simp only [State.unitTarget, e, shape]

theorem State.unitRuns_own (kind : o.kind ∈ sectorKinds) (small : n < 2 ^ 60) :
    s.unitRuns o h n .own = s.sectorRuns o h n (h.scrAbs (32 * n)) (s.scrRead (h.scrAbs (32 * n)) 32) := by
  rcases mem_sectorKinds.1 kind with e | e | e <;> simp only [State.unitRuns, e, Nat.mod_eq_of_lt small]

theorem State.unitRuns_home (kind : o.kind ∈ sectorKinds) (small : n < 2 ^ 60) (home : s.homeOf o.ctx (32 * n) .any = (s1, .ok x)) :
    s.unitRuns o h n .home = s.sectorRuns o h n (32 * n) (lineBytes x.data (32 * n % 128) 32) := by
  rcases mem_sectorKinds.1 kind with e | e | e <;> simp only [State.unitRuns, e, Nat.mod_eq_of_lt small, home]

theorem State.sectorRuns_read {q : Shape} {v m base : Nat} {f : Flags} {old : List Byte} (shape : o.shape = some q)
    (sector : o.sector q (s.limOf h q.src) n = some (v, m, f)) : s.sectorRuns o h n base old =
      some (runsOf ((sectorBytes v m old).map fun p => (base + p.1, p.2)), f) := by
  simp only [State.sectorRuns, shape, Option.bind_some, sector, Option.map_some]

theorem State.unitRuns_lane {c : LaneCopy} {bs : List Byte} (kind : o.kind = .lg2s) (lane : o.lanes[n]? = some c)
    (space : xSpc o.xmem ≠ 3) (read : o.bytes ⟨0, c.g, o.laneBytes⟩ = some bs) :
    s.unitRuns o h n t = some (runsAt (h.scrAbs c.o) bs, 0) := by
  have space : (xSpc o.xmem == 3) = false := by simpa using space
  simp only [State.unitRuns, kind, State.laneRuns, lane, space, Option.bind_some, beq_self_eq_true, if_true, Bool.false_eq_true,
    if_false, read, Option.map_some]

/-! Lines and transfers. -/

theorem exec_fill_op (id line : Nat) (s : State) : exec (.fill (.op id line)) s = .next (s.fillOp id line) := rfl

theorem badIn_zero (off n : Nat) : badIn 0#128 off n = false := by simp [badIn]

theorem State.fillOp_denied (run : opRuns s id o h) (wants : s.wantsLine o line = true) (awake : o.susp = false)
    (free : s.lineHeld o.ctx (line * 128) = false) (home : s.homeOf o.ctx (line * 128) .read = (s1, .denied)) :
    s.fillOp id line = s1.failOp id 5 6 (BitVec.ofNat 64 (line * 128)) := by
  simp only [State.fillOp, State.withOp_runs run, wants, awake, free, home, Bool.not_false, Bool.and_self, if_true]

theorem State.fillOp_absent (run : opRuns s id o h) (wants : s.wantsLine o line = true) (awake : o.susp = false)
    (free : s.lineHeld o.ctx (line * 128) = false) (home : s.homeOf o.ctx (line * 128) .read = (s1, .absent)) :
    s.fillOp id line = s1.suspend o (line * 128) := by
  simp only [State.fillOp, State.withOp_runs run, wants, awake, free, home, Bool.not_false, Bool.and_self, if_true]

/-- Bytes outside the stack regions are read as they stand (05/R120). -/
theorem State.overStacks_outside {ctx va : Nat} {bs : List Byte} (out : s.inStacks ctx va bs.length = false) :
    s.overStacks ctx va bs = (s, bs) := by
  rw [State.overStacks, if_neg (ne_true_of_eq_false out)]

/-- A line without a bad sector, with no write to it on its way and outside the stack regions, is taken as its home holds it. -/
theorem State.fillOp_granted (run : opRuns s id o h) (wants : s.wantsLine o line = true) (awake : o.susp = false)
    (free : s.lineHeld o.ctx (line * 128) = false) (home : s.homeOf o.ctx (line * 128) .read = (s1, .ok x)) (good : x.bad = 0)
    (still : s1.inFlight (s1.l1Of o.core) x.asid line = false) (out : s1.inStacks o.ctx (line * 128) 128 = false) :
    s.fillOp id line = ((s1.grant x).1.modOp id fun y => { y with lines := y.lines ++ [(line, x.data, x.bad)] }).refit id := by
  have len : (lineBytes x.data 0 128).length = 128 := by simp [lineBytes]
  have plain : (s1.grant x).1.overStacks o.ctx (line * 128) (lineBytes x.data 0 128) = ((s1.grant x).1, lineBytes x.data 0 128) :=
    State.overStacks_outside (by rw [len]; exact out)
  have clean : ((s1.needs o).any fun r => r.sp == 0 && meets r.a r.n (line * 128) 128 &&
      x.badAt (max r.a (line * 128) % 128) (min (r.a + r.n) (line * 128 + 128) - max r.a (line * 128))) = false := by
    simp [Home.badAt, good, badIn_zero]
  simp only [State.fillOp, State.withOp_runs run, wants, awake, free, home, clean, still, plain, out, Bool.not_false, Bool.and_self,
    Bool.false_eq_true, if_false, if_true]

/-- A transfer not started yet to an index without a member is suppressed (07/R199). -/
theorem execMcastTransferStart_gone {k : Nat} {z : Xfer} (run : opRuns s id o h)
    (waits : (o.xfers.find? fun x => x.idx == k && x.tgt.isNone && !x.supp) = some z) (gone : s.member? h k = none) :
    execMcastTransferStart id k s = .next (s.modOp id fun y =>
      { y with xfers := y.xfers.map fun z => if z.idx == k then { z with supp := true } else z }) := by
  simp only [execMcastTransferStart, State.withOp_runs run, waits, gone]

/-- A transfer not started yet goes to the sheaf that is the member now; a held member makes it wait (07/R199). -/
theorem execMcastTransferStart_member {k : Nat} {z : Xfer} {m : Member} {g : Sheaf} (run : opRuns s id o h)
    (waits : (o.xfers.find? fun x => x.idx == k && x.tgt.isNone && !x.supp) = some z) (there : s.member? h k = some (m, g)) :
    execMcastTransferStart id k s = .next (if m.hld then s else s.modOp id fun y =>
      { y with xfers := y.xfers.map fun z => if z.idx == k then { z with tgt := some g.uid } else z }) := by
  simp only [execMcastTransferStart, State.withOp_runs run, waits, there]

end Sys2Proof.Machine
end

section
open Sys2Proof Sys2Proof.Machine

/-- Settles O37: the steps of an engine that reads and of one that writes, the laws of runs, and the grant of a line. -/
theorem engineStepsMoveData : Obligations.EngineStepsMoveData := by
  refine ⟨fun s id n o h r run path good turn range unread unasked => ?read,
    fun s id o found same => State.refit_same found same,
    fun s id o h hd found dec header sheaf => State.refit_dec found dec header sheaf,
    fun s id n o h run path winnow turn => execEngineScratchAccess_waitsTurn run path winnow turn,
    fun s id n o h rs f run good kind space new unit lines target runs sent => ?own,
    fun s s1 id n o h rs f x run good awake kind new unit lines target free home runs found sent => ?home,
    fun s n o h q v m f kind small shape sector => ⟨fun own => ⟨?ownTarget, ?ownRuns⟩, fun glob => ⟨?homeTarget, ?homeRuns⟩⟩,
    fun s n o h c bs kind lane space read => ⟨?laneTarget, State.unitRuns_lane kind lane space read⟩,
    fun s o n x a bs => ⟨rfl, rfl, rfl⟩,
    fun a bs => ⟨runsOf_cells _, runsOf_aligned _⟩,
    fun s s1 id line o h x run wants awake free home good still out => ?granted,
    fun s s1 id line o h run wants awake free => ⟨fun denied => ?denied, fun absent => ?absent⟩,
    fun s id k o h g z m run waits => ⟨execMcastTransferStart_gone run waits, execMcastTransferStart_member run waits⟩⟩
  case read =>
    rw [show exec (.engineScratchAccess id (.read n)) s = .next (s.readRange o h r) from
      execEngineScratchAccess_reads run path turn range]
    refine ⟨fun own clean fresh => ?_, fun x peer found some => ?_⟩
    · rw [State.readRange_own own unread good unasked clean fresh, State.readDone]
    · rw [State.readRange_peer peer unread good unasked found some]
  case own =>
    refine (execEngineScratchAccess_writes run good (notWinnow_of_copy kind)).trans ?_
    rw [State.writeUnit_own good kind space new unit lines target, State.putUnit_near (.inl rfl) run.1 runs sent]
  case home =>
    refine (execHomeWritePerform_unit run).trans ?_
    rw [← Op.unitVa_sector kind] at free home
    rw [State.writeUnit_home good awake new unit lines target free home, State.putUnit_near (.inr rfl) found runs sent]
  case ownTarget => simp only [State.unitTarget_sector kind shape, own, Nat.reduceBEq, Bool.false_eq_true, if_false, if_true]
  case ownRuns => rw [State.unitRuns_own kind small, State.sectorRuns_read shape sector]
  case homeTarget => simp only [State.unitTarget_sector kind shape, glob, Nat.reduceBEq, if_true]
  case homeRuns =>
    intro s1 x home
    rw [State.unitRuns_home kind small home, State.sectorRuns_read shape sector]
  case laneTarget => rw [State.unitTarget, kind]
  case granted => rw [exec_fill_op, State.fillOp_granted run wants awake free home good still out]
  case denied => rw [exec_fill_op, State.fillOp_denied run wants awake free denied]
  case absent =>
    rw [exec_fill_op, State.fillOp_absent run wants awake free absent]
    rfl
end

section
/-! SUPPORT. The steps of a sheaf's access (08/R242 to R250, R255) by the case its state is in: one lemma per case. -/

namespace Sys2Proof.Machine

variable {s s1 : State} {h : Sheaf} {uid : Nat} {a : AccId} {x : Access} {m : Home}

/-- The access found under an identifier has it. -/
theorem Sheaf.acc?_id (hx : h.acc? a = some x) : x.id = a := by
  obtain ⟨e, -, he⟩ := List.exists_of_findSome?_eq_some hx
  cases e with
  | acc y =>
    obtain ⟨id, rfl⟩ : y.id = a ∧ y = x := by simpa using he
    exact id
  | release | acqOf | acqFence => cases he

theorem execStoreDrain_ready (hs : s.sheaf? uid = some h) (hx : h.acc? a = some x) (ready : h.drainReady x = true) :
    execStoreDrain uid a s = .next (((if x.kind == .store && x.space == .glob then
        s.writeCopy (s.l1Of h.core) (s.asidOf h.ctx) (x.addr / 128) (x.addr % 128) x.bytes else s).fresh 1).putSheaf
      (h.modAcc a fun y => { y with stage := .drained s.ctl.nextId })) := by
  rw [execStoreDrain, State.withAcc_eq hs hx, if_pos ready]

/-- A store before its home is performed there (08/R243). -/
theorem State.performStore_atHome (hs : s.sheaf? uid = some h) (hx : h.acc? a = some x) (store : x.kind = .store)
    (glob : x.space = .glob) (ready : s.performReady h x = true) (served : s.served h x = true)
    (home : s.homeFor h x = (s1, .ok m)) : s.performStore uid a = s1.storeAt h x m := by
  simp [State.performStore, State.withAcc_eq hs hx, store, glob, ready, served, home]

/-- An atomic before its home is performed there (08/R247). -/
theorem execAtomicPerform_atHome {op : Nat} (hs : s.sheaf? uid = some h) (hx : h.acc? a = some x) (atomic : x.kind = .atomic op)
    (glob : x.space = .glob) (ready : s.performReady h x = true) (served : s.served h x = true)
    (home : s.homeFor h x = (s1, .ok m)) : execAtomicPerform uid a s = .next (s1.atomicAt h x op m) := by
  simp [execAtomicPerform, State.withAcc_eq hs hx, atomic, glob, ready, served, home]

/-! A load by where its bytes are (08/R244). -/

section
variable (hs : s.sheaf? uid = some h) (hx : h.acc? a = some x) (glob : x.space = .glob) (ready : h.loadReady x = true)
include hs hx glob ready

theorem execLoadPerform_forwarded (own : (h.forwards x).all (·.isSome) = true) :
    execLoadPerform uid a s = .next (s.loadDone h x (List.replicate x.size 0)) := by
  rw [execLoadPerform, State.withAcc_eq hs hx]
  simp only [glob, ready, own, beq_self_eq_true, Bool.and_self, if_true]

theorem execLoadPerform_copy {c : Copy} (own : (h.forwards x).all (·.isSome) = false) (copy : s.copyFor h x = some c)
    (good : badIn c.bad (x.addr % 128) x.size = false) :
    execLoadPerform uid a s = .next (s.loadDone h x (lineBytes c.data (x.addr % 128) x.size)) := by
  rw [execLoadPerform, State.withAcc_eq hs hx]
  simp only [glob, ready, own, copy, good, beq_self_eq_true, Bool.and_self, if_true, Bool.false_eq_true, if_false]

theorem execLoadPerform_atHome (own : (h.forwards x).all (·.isSome) = false) (copy : s.copyFor h x = none)
    (hint : x.ch = 3 ∨ x.ch = 1) (served : s.served h x = true) (home : s.homeFor h x = (s1, .ok m))
    (still : s1.inFlight (s1.l1Of h.core) m.asid m.line = false) : execLoadPerform uid a s = .next (s1.loadAt h x m) := by
  have forced : (x.ch == 3 || x.ch == 1) = true := by simpa using hint
  rw [execLoadPerform, State.withAcc_eq hs hx]
  simp only [glob, ready, own, copy, forced, served, home, still, beq_self_eq_true, Bool.and_self, if_true, Bool.false_eq_true, if_false]

/-- A load without a copy, whose hint allows one, gets it under a lease (08/R245). -/
theorem State.fillFor_grants (own : (h.forwards x).all (·.isSome) = false) (notByp : x.ch ≠ 3) (notStrm : x.ch ≠ 1)
    (copy : s.copyFor h x = none) (served : s.served h x = true) (home : s.homeFor h x = (s1, .ok m))
    (still : s1.inFlight (s1.l1Of h.core) m.asid m.line = false) :
    s.fillFor uid a = (s1.grant m).1.putCopy (s1.l1Of h.core) m (s1.grant m).2 := by
  have wants : (x.space == .glob && h.loadReady x && x.ch != 3 && x.ch != 1 && !(h.forwards x).all (·.isSome) &&
      (s.copyFor h x).isNone && s.served h x) = true := by
    simp only [glob, ready, bne_iff_ne.mpr notByp, bne_iff_ne.mpr notStrm, own, copy, served, beq_self_eq_true, Bool.and_self,
      Bool.not_false, Option.isNone_none]
  simp only [State.fillFor, State.withAcc_eq hs hx, wants, home, still, if_true, Bool.false_eq_true, if_false]
end

/-! An access of slice memory (08/R250). -/

theorem execSliceAccessPerform_performs {p : Nat} (hs : s.sheaf? uid = some h) (hx : h.acc? a = some x) (slm : x.space = .slm)
    (pos : s.slmPos h.ctx x.addr x.size = some p) (good : s.slmRefuses x p = false) (served : s.served h x = true)
    (ready : (if x.kind == .load then h.loadReady x else s.performReady h x) = true) :
    execSliceAccessPerform uid a s = .next (s.sliceAt h x p) := by
  rw [execSliceAccessPerform, State.withAcc_eq hs hx]
  simp only [slm, pos, ready, served, good, Bool.not_false, Bool.and_self, if_true]

/-- Where no QUIESCE is under way every slice serves (20/R429). -/
theorem State.served_of_noQuiesce (none_ : ∀ r ∈ s.sys.cmds, r.op ≠ 0x11) (h : Sheaf) (x : Access) : s.served h x = true := by
  have free : ∀ k, s.sliceHeld k = false := fun k => by
    simpa [State.sliceHeld] using fun r hr op => absurd op (none_ r hr)
  have noneHeld : ∀ {α : Type} (o : Option α), (o.map fun _ => false).getD false = false := fun o => by cases o <;> rfl
  unfold State.served
  split <;> simp only [State.lineHeld, free, noneHeld, Bool.not_false]

/-- A marker whose condition holds leaves the queue (08/R255). -/
theorem execWait_satisfied {seq : Nat} {e : MqEntry} (hs : s.sheaf? uid = some h) (he : h.mq.find? (·.marks seq) = some e)
    (ok : s.markerOk h e (h.mq.takeWhile fun y => !y.marks seq) = true) :
    execWait uid seq s = .next (s.putSheaf { h with mq := h.mq.filter fun y => !y.marks seq }) := by
  simp [execWait, hs, he, ok]

/-! The collector of a core (06/R151): full, all requests go; otherwise those whose time is over. -/

theorem execGatherFlush_full {core : Nat} (full : 512 ≤ s.gathering core) : execGatherFlush core s = .next
    { s with sheaves := s.sheaves.map fun h => if h.core == core then h.ungather else h } := by
  have all : s.gatherFull core = true := decide_eq_true full
  simp only [execGatherFlush, all, Bool.true_or, if_true]
  rfl

theorem execGatherFlush_due {core : Nat} (room : s.gathering core < 512) : execGatherFlush core s = .next
    { s with sheaves := s.sheaves.map fun h => if h.core == core then { h with mq := h.mq.map fun e => match e with
      | .acc a => .acc { a with gath := if a.gath = 1 then 0 else a.gath }
      | e => e } else h } := by
  have notAll : s.gatherFull core = false := decide_eq_false (Nat.not_le.mpr room)
  simp only [execGatherFlush, notAll, Bool.false_or, beq_iff_eq] <;> rfl

end Sys2Proof.Machine
end

section
open Sys2Proof Sys2Proof.Machine

/-- Settles O24: each step by the case that its premises choose; the access found under an identifier has that identifier. -/
theorem accessesPerformAtHome : Obligations.AccessesPerformAtHome := by
  refine ⟨fun uid a s h x hs hx ready => execStoreDrain_ready hs hx ready,
    fun uid a s s1 h x m hs hx store glob ready served home => ?stored,
    fun uid a s s1 h x m op hs hx atomic glob ready served home => execAtomicPerform_atHome hs hx atomic glob ready served home,
    fun uid a s h x c hs hx glob ready => ⟨execLoadPerform_forwarded hs hx glob ready, execLoadPerform_copy hs hx glob ready⟩,
    fun s h x => ⟨fun byp => by simp [State.copyFor, byp], fun notByp => if_neg (by simpa using notByp)⟩,
    fun uid a s s1 h x m hs hx glob ready => execLoadPerform_atHome hs hx glob ready,
    fun uid a s s1 h x m hs hx glob ready own notByp notStrm copy served home still => ?filled,
    fun l1 asid line s => rfl,
    fun uid a s h x p hs hx slm pos good served => ⟨fun load ready => ?sliceLoad, fun store ready => ?sliceStore⟩,
    fun s h x none_ => State.served_of_noQuiesce none_ h x,
    fun core s => execGatherFlush_full, fun core s => execGatherFlush_due,
    fun uid seq s h e hs he ok => execWait_satisfied hs he ok⟩
  case stored =>
    show Host.Outcome.next (s.performStore uid a) = _
    rw [State.performStore_atHome hs hx store glob ready served home, State.storeAt, Sheaf.acc?_id hx]
  case filled =>
    show Host.Outcome.next (s.fillFor uid a) = _
    rw [State.fillFor_grants hs hx glob ready own notByp notStrm copy served home still]
  case sliceLoad =>
    refine (execSliceAccessPerform_performs hs hx slm pos good served (by simpa [load] using ready)).trans ?_
    rw [State.sliceAt, load]
  case sliceStore =>
    refine (execSliceAccessPerform_performs hs hx slm pos good served (by simpa [store] using ready)).trans ?_
    rw [State.sliceAt, store, Sheaf.acc?_id hx]
end

section
/-! SUPPORT. The instruction words that leave the bytes of the four memories as they were, while their sheaf has observed all its
operations: each shared operation keeps `State.bytes`, each word by those it is made of. -/

namespace Sys2Proof.Machine

variable {s : State} {h : Sheaf} {i : Instr}

/-! A state written with another part than its memories changed has their bytes. -/

@[simp] theorem State.bytes_mk (ctl sheaves ctxs segs mm stk eng flt job sys rep fab seqs) :
    (State.mk ctl sheaves ctxs segs mm stk eng flt job sys rep fab seqs).bytes = (mm.pool, mm.host, mm.slm, mm.scr) := rfl

@[simp] theorem State.bytes_fold (s : State) : (s.mm.pool, s.mm.host, s.mm.slm, s.mm.scr) = s.bytes := rfl

/-- A state that an outcome answers has the bytes of `s`. -/
def Out.KeepsBytes (s : State) (o : Out) : Prop := ∀ t, o = .next t → t.bytes = s.bytes

theorem Out.keepsBytes_next {t : State} (e : t.bytes = s.bytes) : Out.KeepsBytes s (.next t) := by
  rintro _ ⟨⟩
  exact e

/-- A word keeps the bytes if its own effect does: a wait and a trap of decode keep them (06/R169). -/
theorem issue_keepsBytes (c : s.cur? = some h) (u : s.unseen h = []) {body : Sheaf → State → State}
    (e : (body h s).bytes = s.bytes) : Out.KeepsBytes s (issue i s body) := by
  simp only [issue, c]
  refine Out.keepsBytes_next ?_
  simp only [State.issueBy, State.clobbered_of_unseen u]
  repeat' split
  all_goals simp [e]

theorem extension_keepsBytes (c : s.cur? = some h) {kind : Nat} {p : BitVec 24} : Out.KeepsBytes s (extension kind p s) := by
  simp only [extension, c]
  split
  · exact Out.keepsBytes_next (by simp)
  · exact Out.keepsBytes_next rfl

/-! ### Runs over a list -/

theorem foldl_bytes {α : Type} {f : State → α → State} (step : ∀ t x, (f t x).bytes = t.bytes) (l : List α) (s : State) :
    (l.foldl f s).bytes = s.bytes := by
  induction l generalizing s with
  | nil => rfl
  | cons x l ih => exact (ih _).trans (step s x)

theorem foldl_fst_bytes {α β : Type} {f : State × β → α → State × β} (step : ∀ q x, (f q x).1.bytes = q.1.bytes) (l : List α)
    (q : State × β) : (l.foldl f q).1.bytes = q.1.bytes := by
  induction l generalizing q with
  | nil => rfl
  | cons x l ih => exact (ih _).trans (step q x)

/-! ### Waits, barriers and handles -/

/-- A wait on a release keeps the bytes if what follows it does. -/
theorem State.afterRelease_keeps {scp : BitVec 3} {b : Bool} {k : Sheaf → State → State} (e : (k h s).bytes = s.bytes) :
    (s.afterRelease h scp b k).bytes = s.bytes := by
  unfold State.afterRelease
  split
  · exact e
  · exact State.hold_bytes ..

@[simp] theorem State.fenceAt_bytes (s : State) (h : Sheaf) (rel acq : Bool) (scp : BitVec 3) :
    (s.fenceAt h rel acq scp).bytes = s.bytes := by
  unfold State.fenceAt
  split <;> rfl

@[simp] theorem State.barCode_bytes (s : State) (b : BarHandle) : (s.barCode b).1.bytes = s.bytes := by
  unfold State.barCode
  split <;> rfl

@[simp] theorem State.collect_bytes (s : State) (ctx : Nat) : (s.collect ctx).bytes = s.bytes := rfl

@[simp] theorem State.statusRead_bytes (s : State) (x : Handle) : (s.statusRead x).bytes = s.bytes := by
  unfold State.statusRead
  repeat' split
  all_goals rfl

@[simp] theorem State.observe_bytes (s : State) (h : Sheaf) (x : Handle) : (s.observe h x).1.bytes = s.bytes := by
  unfold State.observe
  repeat' split
  all_goals rfl

/-- A form on a transaction barrier keeps the bytes if it does so past the checks of its offset. -/
theorem State.onTxb_keeps (u : s.unseen h = []) {o : FSY} {wr : Bool} {k : Nat → Bool → Sheaf → State → State}
    (e : ∀ a b g, (k a b g s).bytes = s.bytes) : (s.onTxb h i o wr k).bytes = s.bytes := by
  unfold State.onTxb State.cloudAt
  dsimp only
  repeat' split
  all_goals simp [u, e]

/-! ### Nests -/

@[simp] theorem State.nestWait_bytes (s : State) (h : Sheaf) (as : List (Lane × List Nat)) : (s.nestWait h as).bytes = s.bytes := by
  unfold State.nestWait
  dsimp only
  split <;> rfl

@[simp] theorem State.nbarArrive_bytes (s : State) (h : Sheaf) (lv : Nat) (as : List (Lane × List Nat)) :
    (s.nbarArrive h lv as).bytes = s.bytes := foldl_bytes (fun _ _ => State.putNest_bytes ..) as s

@[simp] theorem State.redAdd_bytes (s : State) (h : Sheaf) (i : Instr) (lv a ty op : Nat) :
    (s.redAdd h i lv a ty op).bytes = s.bytes :=
  foldl_bytes (fun _ _ => by dsimp only; split <;> rfl) _ s

@[simp] theorem State.redLane_bytes (s : State) (h : Sheaf) (lv d ty op rm : Nat) (l : Lane) (key : List Nat) :
    (s.redLane h lv d ty op rm l key).1.bytes = s.bytes := by
  unfold State.redLane
  dsimp only
  split <;> rfl

@[simp] theorem State.bcLane_bytes (s : State) (h : Sheaf) (lv d : Nat) (l : Lane) (key : List Nat) :
    (s.bcLane h lv d l key).1.bytes = s.bytes := by
  unfold State.bcLane
  dsimp only
  split <;> rfl

end Sys2Proof.Machine
end

section
/-! SUPPORT. The words of `storesNothing`, one by one where the word has cases of its own. -/

namespace Sys2Proof.Machine

/-- The words of the arithmetic groups (05/R122 to R142). -/
def isArithmetic (i : Instr) : Bool :=
  match i.grp with
  | .salu | .salui | .vint | .vinti | .vri | .vf32 | .vfma | .vcvt | .vcmp | .kops | .vmov | .vsfu => true
  | _ => false

/-- FUN (05/R136). Its constructor bears a keyword's name, which cannot head an arm of `cases`, so a test tells it from the rest. -/
def isFun : Instr → Bool
  | .fun _ => true
  | _ => false

variable {s : State} {h : Sheaf} (c : s.cur? = some h) (u : s.unseen h = [])
include c u

theorem sweptAt_keepsBytes {cls : Nat} {i : Instr} {f : Sheaf → Lane → Lane × Flags} : Out.KeepsBytes s (sweptAt cls i s f) :=
  issue_keepsBytes c u (by split <;> simp)

theorem compare_keepsBytes {i : Instr} {n : Nat} {f : Sheaf → Bool} : Out.KeepsBytes s (compare i s n f) :=
  issue_keepsBytes c u (by dsimp only; split <;> rfl)

/-! The words that wait for a release, and those that meet regions of operations or agents of a nest. -/

theorem execFencesc_keepsBytes (o : FSY) : Out.KeepsBytes s (execFencesc o s) := by
  refine issue_keepsBytes c u ?_
  split
  · simp
  · exact State.afterRelease_keeps rfl

theorem execWaita_keepsBytes (o : FSY) : Out.KeepsBytes s (execWaita o s) := by
  refine issue_keepsBytes c u ?_
  simp only [State.cloudAt, State.touch_of_unseen u]
  repeat' split
  all_goals simp

theorem execNbar_keepsBytes (o : FVI) : Out.KeepsBytes s (execNbar o s) := by
  refine issue_keepsBytes c u ?_
  dsimp only
  split
  · rfl
  split
  · rfl
  split
  · rfl
  split
  · rw [State.done_bytes, foldl_bytes fun _ _ => State.putNest_bytes .., State.nbarArrive_bytes]
  · rw [State.nestWait_bytes, State.nbarArrive_bytes]

theorem execNred_keepsBytes (o : FVI) : Out.KeepsBytes s (execNred o s) := by
  refine issue_keepsBytes c u ?_
  dsimp only
  split
  · rw [State.done_bytes, State.redAdd_bytes]
  split
  · rfl
  split
  · rw [State.done_bytes, foldl_fst_bytes fun _ _ => State.redLane_bytes .., foldl_bytes fun _ _ => State.putNest_bytes ..]
  · rw [State.nestWait_bytes, foldl_bytes fun _ _ => State.putNest_bytes ..]

theorem execNbc_keepsBytes (o : FVI) : Out.KeepsBytes s (execNbc o s) := by
  refine issue_keepsBytes c u ?_
  dsimp only
  split
  · rfl
  split
  · rw [State.done_bytes, foldl_fst_bytes fun _ _ => State.bcLane_bytes .., foldl_bytes fun t a => by split <;> rfl]
  · rw [State.nestWait_bytes, foldl_bytes fun t a => by split <;> rfl]

theorem execSpawn_keepsBytes (o : FV3) : Out.KeepsBytes s (execSpawn o s) := by
  refine issue_keepsBytes c u ?_
  dsimp only
  split
  · simp
  split
  · rfl
  · exact State.afterRelease_keeps rfl

theorem execLaunch_keepsBytes (o : FV3) : Out.KeepsBytes s (execLaunch o s) := by
  refine issue_keepsBytes c u ?_
  dsimp only
  split
  · split
    · simp
    · refine State.afterRelease_keeps ?_
      rw [State.seenBytes_of_unseen u]
      split <;> rfl
  · simp

theorem execMpost_keepsBytes (o : FS3) : Out.KeepsBytes s (execMpost o s) := by
  refine issue_keepsBytes c u ?_
  dsimp only
  split
  · split
    · simp
    · refine State.afterRelease_keeps ?_
      rw [State.seenBytes_of_unseen u]
      repeat' split
      all_goals rfl
  · simp

/-- Outside a stop, SAFE does nothing (05/R111). -/
theorem execSafe_keepsBytes (run : h.stop = none) (imm : BitVec 21) : Out.KeepsBytes s (execSafe imm s) :=
  issue_keepsBytes c u (by rw [run]; rfl)

theorem fun_keepsBytes {i : Instr} (f : isFun i = true) : Out.KeepsBytes s (exec i s) :=
  match i, f with
  | .fun _, _ => by unfold exec; exact issue_keepsBytes c u rfl

/-- Every word of an arithmetic group but FUN ends in its sheaf with nothing but registers and flags changed, or waits for its budget. -/
theorem arithmetic_keepsBytes {i : Instr} (a : (isArithmetic i && !isFun i) = true) : Out.KeepsBytes s (exec i s) := by
  cases i with
  | saluAdd _ | saluSub _ | saluMul _ | saluMulh _ | saluMulhn _ | saluAnd _ | saluOr _ | saluXor _ | andn _
  | saluShl _ | saluShr _ | saluSar _ | rotl _ | saluMin _ | saluMax _ | minn _ | maxn _ | saluSel _ | clz _ | popc _
  | brev _ | add64 _ | sub64 _ | shl64 _ | shr64 _
  | saluiAddi _ | saluiAndi _ | saluiOri _ | saluiXori _ | saluiShli _ | saluiShri _ | saluiSari _ | saluiMovi _
  | saluiMovhi _ =>
    unfold exec; exact issue_keepsBytes c u rfl
  | vintAdd _ | vintSub _ | addc _ | subb _ | vintMul _ | vintMulh _ | vintMulhn _ | mad _ | vintAnd _ | vintOr _
  | vintXor _ | vintShl _ | vintShr _ | vintSar _ | vintMin _ | vintMax _ | vintiAddi _ | vintiAndi _ | vintiOri _
  | vintiXori _ | vintiShli _ | vintiShri _ | vintiSari _ | muli _ | vriMovi _ | vriMovhi _ | addi16 _ =>
    unfold exec; exact issue_keepsBytes c u rfl
  | fadd _ | fsub _ | fmul _ | fmin _ | fmax _ | fminm _ | fmaxm _ | fcps _ | fflr _ | fceil _ | frne _ | ftrn _ | fabs _
  | fneg _ | fsat _ | fscl _ | fma _ | fms _ | fnma _ | fnms _ | hfma2 _ | bfma2 _ | cvtf _ | cvti _ | cvtp _
  | expn _ | lutx _ | mxsc _ | feq _ | fne _ | flt _ | fle _ | fcls _ | ieq _ | ine _ | ilt _ | ile _ | iltn _ | ilen _ =>
    unfold exec; exact issue_keepsBytes c u rfl
  | kand _ | kor _ | kxor _ | kandn _ | knot _ | kmov _ | kset _ | kcnt _ | kfirst _ | kall _ | kany _
  | mov _ | vmovSel _ | shfl _ | shflx _ | shflup _ | shfldn _ | rdfl _ | rdln _ | bcst _ | lid _ | lpos _ =>
    unfold exec; exact issue_keepsBytes c u rfl
  | slt _ | sltn _ | seq _ | slti _ =>
    unfold exec; exact compare_keepsBytes c u
  | dot4e4 _ | dot4e5 _ | dot4i _ | dot2h _
  | exp2 _ | log2 _ | rcp _ | rsq _ | sqrt _ | sin2pi _ | cos2pi _ | tanh _ =>
    unfold exec; exact sweptAt_keepsBytes c u
  | _ => exact Bool.noConfusion a

/-- The other words that store nothing, by what they are made of. -/
theorem otherWords_keepsBytes {i : Instr} (n : (storesNothing i && !isArithmetic i) = true) : Out.KeepsBytes s (exec i s) := by
  cases i with
  | nop | trap _ | brk _ | sleep _ =>
    unfold exec; exact issue_keepsBytes c u (by simp)
  | ximm _ | xreg _ | xprd _ | xmod _ | xmem _ | xsch _ | xoff _ =>
    unfold exec; exact extension_keepsBytes c
  | ofence _ | sinfo _ | nidx _ | nmap _ | nllm _ | csrr _ | csrw _ | csrs _ | csrc _ =>
    unfold exec; exact issue_keepsBytes c u rfl
  | fence _ | exit | bru _ _ | rcv _ | call _ | eret | ifence | ret _ | hexp _ | mpeek _ =>
    unfold exec
    refine issue_keepsBytes c u ?_
    repeat' split
    all_goals simp
  | yld | tdone _ | brd _ | callx _ | barw _ | bart _ | hwait _ | htest _ | himp _ | ssub _ | sunsub _ | ssync _ =>
    unfold exec
    refine issue_keepsBytes c u ?_
    dsimp only
    repeat' split
    all_goals simp
  | txbw _ | txbt _ =>
    unfold exec
    refine issue_keepsBytes c u (State.onTxb_keeps u fun a b g => ?_)
    dsimp only
    repeat' split
    all_goals simp
  | sjoin _ | sleave _ =>
    unfold exec
    refine issue_keepsBytes c u (State.afterRelease_keeps ?_)
    dsimp only
    repeat' split
    all_goals simp
  | fencesc o => exact execFencesc_keepsBytes c u o
  | waita o => exact execWaita_keepsBytes c u o
  | nbar o => exact execNbar_keepsBytes c u o
  | nred o => exact execNred_keepsBytes c u o
  | nbc o => exact execNbc_keepsBytes c u o
  | spawn o => exact execSpawn_keepsBytes c u o
  | launch o => exact execLaunch_keepsBytes c u o
  | mpost o => exact execMpost_keepsBytes c u o
  | _ => exact Bool.noConfusion n

/-- Every word that stores nothing keeps the bytes. -/
theorem exec_keepsBytes {i : Instr} (n : storesNothing i = true) : Out.KeepsBytes s (exec i s) := by
  cases a : isArithmetic i with
  | true =>
    cases f : isFun i with
    | true => exact fun_keepsBytes c u f
    | false => exact arithmetic_keepsBytes c u (by rw [a, f]; rfl)
  | false => exact otherWords_keepsBytes c u (by rw [n, a]; rfl)

end Sys2Proof.Machine
end

section
/-! SUPPORT. A form of global, slice or peer memory asks for its accesses and writes no byte (08/R240, R251). -/

namespace Sys2Proof.Machine

variable {s : State} {h : Sheaf} {r : MemReq}

/-- Requests of a sheaf that has observed all its operations touch nothing. -/
theorem foldl_touch_of_unseen {α : Type} (u : s.unseen h = []) (sp a n : α → Nat) (w : α → Bool) (l : List α) :
    l.foldl (fun (t : State) x => t.touch h (sp x) (a x) (n x) (w x)) s = s := by
  induction l with
  | nil => rfl
  | cons x l ih => rw [List.foldl_cons, State.touch_of_unseen u, ih]

theorem asking_bytes (u : s.unseen h = []) : (asking r s h).1.bytes = s.bytes := by
  unfold asking State.touchAll State.place?
  dsimp only
  split
  · rw [foldl_touch_of_unseen (s := s.sendBatches h.uid) u]
    rfl
  · rw [foldl_touch_of_unseen u]

theorem State.globForm_bytes (u : s.unseen h = []) : (s.globForm h r).bytes = s.bytes := by
  rw [State.globForm_eq]
  repeat' split
  · rfl
  · exact State.finish_bytes ..
  · exact (State.finish_bytes ..).trans (asking_bytes u)
  · exact asking_bytes u

theorem State.chanRun_bytes (u : s.unseen h = []) (x : BitVec 24) (t : ScrTarget) (ls : List Lane) :
    (s.chanRun h x r t ls).1.bytes = s.bytes := by
  unfold State.chanRun
  dsimp only
  rw [foldl_touch_of_unseen u]
  rfl

theorem State.scrForm_peer_bytes (u : s.unseen h = []) (spc : xSpc (h.xmem r.i) = 2) : (s.scrForm h r).bytes = s.bytes := by
  by_cases free : orderFree r s (asOrdered r h)
  · have u' : s.unseen (asOrdered r h) = [] := (s.unseen_congr (by rw [asOrdered_eq])).trans u
    cases target : s.target (asOrdered r h) (some ((asOrdered r h).memIndex (h.xmem r.i))) with
    | none =>
      rw [State.scrForm_noMember spc free target]
      exact State.finish_bytes ..
    | some t =>
      cases held : t.held with
      | false =>
        rw [State.scrForm_peer spc free target held]
        dsimp only
        split
        · exact (State.finish_bytes ..).trans (State.chanRun_bytes u' ..)
        · exact State.chanRun_bytes u' (h.xmem r.i) _ _
      | true =>
        rw [State.scrForm_free free]
        dsimp only
        rw [if_pos (by simp [spc]), target]
        simp [held]
  · rw [State.scrForm_blocked free]
    exact State.hold_bytes ..

variable {f : FM → MemReq} {o : FM}

theorem globForms_keepsBytes (hf : f ∈ globForms ++ atomForms) (c : s.cur? = some h) (u : s.unseen h = [])
    (spc : xSpc (h.xmem (f o).i) = 0 ∨ xSpc (h.xmem (f o).i) = 3) : Out.KeepsBytes s (exec (f o).i s) := by
  obtain hf | hf := List.mem_append.mp hf
  · rw [globForms_issue f hf]
    exact issue_keepsBytes c u (State.globForm_bytes u)
  · rw [atomForms_issue f hf]
    refine issue_keepsBytes c u ?_
    rw [if_neg (by obtain spc | spc := spc <;> simp [spc])]
    exact State.globForm_bytes u

theorem peerForms_keepsBytes (hf : f ∈ scrForms ++ atomForms) (c : s.cur? = some h) (u : s.unseen h = [])
    (spc : xSpc (h.xmem (f o).i) = 2) : Out.KeepsBytes s (exec (f o).i s) := by
  obtain hf | hf := List.mem_append.mp hf
  · rw [scrForms_issue f hf]
    exact issue_keepsBytes c u (State.scrForm_peer_bytes u spc)
  · rw [atomForms_issue f hf]
    refine issue_keepsBytes c u ?_
    rw [if_pos (by simp [spc])]
    exact State.scrForm_peer_bytes u spc

end Sys2Proof.Machine
end

section
open Sys2Proof Sys2Proof.Machine

/-- Settles O26: a word's effect, its wait and its traps keep the four memories, and equal memories read alike. -/
theorem formsThatStoreNothing : Obligations.FormsThatStoreNothing :=
  ⟨fun _ _ t _ c u n next => sameBytes_of_bytes (exec_keepsBytes c u n t next),
    fun imm _ t _ c u run next => sameBytes_of_bytes (execSafe_keepsBytes c u run imm t next),
    fun _ hf _ _ t _ c spc u next => sameBytes_of_bytes (globForms_keepsBytes hf c u spc t next),
    fun _ hf _ _ t _ c spc u next => sameBytes_of_bytes (peerForms_keepsBytes hf c u spc t next)⟩
end

section
/-! SUPPORT. Lines that leave or go bad (08/R248, 19/R414, 20/R422, R423). -/

namespace Sys2Proof.Machine

variable {s : State} {asid line : Nat} {h : Home}

/-! A line of a tag: nothing owed, its writes complete; or it leaves. -/

theorem execPoolWriteCompletion_clean (found : (s.mm.homes.find? fun h => h.asid == asid && h.line == line) = some h)
    (owed : h.owed = []) (dirty : h.dirty = 0) : execPoolWriteCompletion asid line s = .next s := by
  simp [execPoolWriteCompletion, found, owed, dirty]

theorem execPoolWriteCompletion_writes (found : (s.mm.homes.find? fun h => h.asid == asid && h.line == line) = some h)
    (some : h.owed ≠ [] ∨ h.dirty ≠ 0) : execPoolWriteCompletion asid line s = .next (s.writeBack h) := by
  have clean : (h.owed.isEmpty && h.dirty == 0) = false := by
    rw [Bool.and_eq_false_iff]
    exact some.imp (by simp) (by simp)
  simp only [execPoolWriteCompletion, found, clean, Bool.false_eq_true, if_false]

theorem execL2LineEviction_found (found : (s.mm.homes.find? fun h => h.asid == asid && h.line == line) = some h) :
    execL2LineEviction asid line s = .next (if h.bad == 0 && decide (h.lemax + 4 ≤ s.reading (slicePlace h.slice)) then
      (s.writeBack h).dropHome asid line else s.writeBack h) := by
  simp only [execL2LineEviction, found]

/-- Poison is taken in by a line as the pool returned it: neither leased nor written. -/
theorem execPoisonResponse_fresh {x : BitVec 4} (found : s.home? asid line = some h) (unleased : h.lemax = 0) (unwritten : h.writes = [])
    (pool : h.hm = false) :
    execPoisonResponse asid line x s = .next (s.modHome h.asid h.line fun y => y.poison x) := by
  simp [execPoisonResponse, found, unleased, unwritten, pool]

/-- A bit of a mask to which whole sectors of 32 are added. -/
theorem getLsbD_foldl_sectors (x : BitVec 4) (k : Nat) (hk : k < 128) (js : List Nat) (b : BitVec 128) :
    (js.foldl (fun (b : BitVec 128) (j : Nat) => if x.getLsbD j then b ||| rangeMask 128 (32 * j) 32 else b) b).getLsbD k =
      (b.getLsbD k || js.any fun j => x.getLsbD j && j == k / 32) := by
  induction js generalizing b with
  | nil => simp
  | cons j js ih =>
    have inside : (decide (32 * j ≤ k) && decide (k < 32 * j + 32)) = (j == k / 32) := by
      rw [Bool.eq_iff_iff]
      simp only [Bool.and_eq_true, decide_eq_true_eq, beq_iff_eq]
      omega
    rw [List.foldl_cons, ih, List.any_cons]
    cases x.getLsbD j with
    | false => simp
    | true => simp [getLsbD_rangeMask 128 (32 * j) 32 k hk, inside, Bool.or_assoc]

theorem Home.poison_bad (h : Home) (x : BitVec 4) {k : Nat} (hk : k < 128) :
    (h.poison x).bad.getLsbD k = (h.bad.getLsbD k || x.getLsbD (k / 32)) := by
  refine (getLsbD_foldl_sectors x k hk (List.range 4) h.bad).trans (congrArg (h.bad.getLsbD k || ·) ?_)
  have sector : k / 32 < 4 := by omega
  rw [Bool.eq_iff_iff, List.any_eq_true]
  simp [sector]

/-! A visit of patrol scrubbing, by what it finds. -/

section
variable (found : s.home? asid line = some h)
include found

theorem execPatrolScrub_good (finds : Config.scrubFinds asid line s.ctl.time = 0) :
    execPatrolScrub asid line s = .next (s.modHome h.asid h.line fun x => { x with seen := s.ctl.time }) := by
  simp only [execPatrolScrub, found, State.modHome_ctl, finds]

theorem execPatrolScrub_corrects (finds : Config.scrubFinds asid line s.ctl.time = 1) :
    let s1 := s.modHome h.asid h.line fun x => { x with seen := s.ctl.time }
    execPatrolScrub asid line s = .next (s1.corrected (s1.sliceArray h.slice)) := by
  simp only [execPatrolScrub, found, State.modHome_ctl, finds]

/-- An uncorrectable sector is marked bad, with an event (20/R423, R426). -/
theorem execPatrolScrub_marks {n : Nat} (finds : Config.scrubFinds asid line s.ctl.time = n + 2) :
    let s1 := s.modHome h.asid h.line fun x => { x with seen := s.ctl.time }
    execPatrolScrub asid line s = .next ((s1.upset (.l2 h.asid line n)).event 2 (some (h.slice / 24)) (some (h.slice % 24)) none
      (some (BitVec.ofNat 64 (line * 128 + 32 * (n % 4))))) := by
  simp only [execPatrolScrub, found, State.modHome_ctl, finds]
end

/-- No line goes unvisited for more than a day: time stops until it is visited (20/R422). -/
theorem State.elapse_le_scrub (ns : Nat) (hh : h ∈ s.mm.homes) (now : s.ctl.time ≤ h.seen + dayNs) :
    (s.elapse ns).ctl.time ≤ h.seen + dayNs := by
  have slack : s.slack ≤ h.seen + dayNs - s.ctl.time := by
    refine foldl_min_le _ _ (List.mem_cons_of_mem _ (List.mem_append_right _ ?_))
    exact List.mem_map_of_mem hh
  rw [State.elapse_time]
  omega

end Sys2Proof.Machine
end

section
/-! SUPPORT. Slice ways and the start of the firmware (20/R431 to R434). -/

namespace Sys2Proof.Machine

variable {s : State}

theorem State.waysOf_slice (s : State) (slice : Nat) : (s.waysOf slice).slice = slice := by
  unfold State.waysOf
  cases e : s.rep.ways.find? fun w => w.slice == slice with
  | none => rfl
  | some w => simpa using List.find?_some e

/-- The mask kept for a slice is the one put last. -/
theorem State.waysOf_putWays (s : State) (x : Ways) : (s.putWays x).waysOf x.slice = x := by
  simp [State.waysOf, State.putWays]

/-- WAYMK selects a slice of its die and leaves the new mask pending (20/R431). -/
theorem execWaymkWrite_selects {die : Nat} {v : Word} (hd : die < 4) (hsel : (v.extractLsb' 16 5).toNat < 24) :
    let sel := (v.extractLsb' 16 5).toNat
    let x := { s.waysOf (die * 24 + sel) with pend := some (v.extractLsb' 0 16) }
    ∃ t, execWaymkWrite die v s = .next t ∧ t.waysOf (die * 24 + sel) = x ∧
      t.waymk die = BitVec.ofNat 32 (2 ^ 31 + sel * 2 ^ 16 + x.mask.toNat) := by
  intro sel x
  have valid : (decide (4 ≤ die) || decide (24 ≤ sel)) = false := by
    rw [decide_eq_false (Nat.not_le.mpr hd), decide_eq_false (Nat.not_le.mpr hsel), Bool.or_self]
  have kept : (s.putWays x).waysOf (die * 24 + sel) = x := by
    have slice : x.slice = die * 24 + sel := s.waysOf_slice _
    rw [← slice, State.waysOf_putWays]
  refine ⟨_, congrArg Host.Outcome.next (if_neg (ne_true_of_eq_false valid)), kept, ?_⟩
  have waymk (t : State) (first : t.rep.waySel.head? = some (die, sel)) (ways : t.waysOf (die * 24 + sel) = x) :
      t.waymk die = BitVec.ofNat 32 (2 ^ 31 + sel * 2 ^ 16 + x.mask.toNat) := by
    obtain ⟨rest, cons⟩ := List.head?_eq_some_iff.mp first
    simp [State.waymk, cons, ways, x, bitNat]
  exact waymk _ rfl kept

/-- The ways that hold the device's own memory, out of the cache (20/R433). -/
def ownWays : List Ways := ((List.range 12).map fun k => k * 8).map fun k => ⟨k, 0x7FFF, none⟩

theorem ownWays_find? : ∀ k ∈ List.range 12, ownWays.find? (fun w => w.slice == 8 * k) = some ⟨8 * k, 0x7FFF, none⟩ := by decide

/-- The boxes of the device lie apart, in its own ways. -/
theorem deviceBoxes_find? : ∀ k < 24, (portBox :: (List.range 24).map queueBox).find? (fun m => m.head == (queueBox k).head) =
    some (queueBox k) := by decide

/-- With one image that may run, the boot starts it, takes the ways and makes the boxes. -/
theorem execBoot_imageA (off : s.rep.booted = false) (a : s.bootable s.rep.imgA = true) (b : s.rep.imgB = none) :
    execBoot s = .next { s with
      rep := { s.rep with
        booted := true, on := true, restarting := false, runB := false
        ways := ownWays ++ s.rep.ways.filter fun w => !((List.range 12).map fun k => k * 8).contains w.slice }
      job := { s.job with mbx := portBox :: (List.range 24).map queueBox ++ s.job.mbx } } := by
  have noB : s.bootable s.rep.imgB = false := by rw [b]; rfl
  simp only [execBoot, off, a, noB, Bool.not_true, Bool.false_and, Bool.or_self, Bool.false_eq_true, if_false]
  rfl

theorem execFirmwareActivate_image {i : FwImage} (image : (if s.rep.runB then s.rep.imgA else s.rep.imgB) = some i)
    (idle : s.rep.restarting = false) : execFirmwareActivate s = .next (if i.svn < s.rep.fuse then s else { s with rep := { s.rep with
      runB := !s.rep.runB
      restarting := true
      fuse := max s.rep.fuse i.svn } }) := by
  simp [execFirmwareActivate, image, idle]

/-- The new image's rate of a context on a die, where it gives one (20/R434). -/
theorem execNewImageTakeover_rates {rates : List Nat} (taken : s.rep.restarting = true) :
    ∃ t, execNewImageTakeover rates s = .next t ∧ t.rep.restarting = false ∧
      ∀ (c : Ctx) (k d r : Nat) (e : Energy), s.ctxs[k]? = some c → c.energy[d]? = some e → rates[4 * k + d]? = some r →
        ((t.ctxs[k]?).bind fun x => x.energy[d]?) = some { e with rate := r % 2 ^ 24 } := by
  refine ⟨_, congrArg Host.Outcome.next (if_pos taken), rfl, fun c k d r e hc he hr => ?_⟩
  simp [hc, he, hr]

end Sys2Proof.Machine
end

section
/-! SUPPORT. Heat, power and the clock of a die (20/R437, 01/R16). -/

namespace Sys2Proof.Machine

variable {s : State} {die : Nat}

/-! An event is a message, and nothing else of the device (20/R426). -/

@[simp] theorem State.event_sheaves (s : State) (n : Nat) (a b c : Option Nat) (d : Option DWord) :
    (s.event n a b c d).sheaves = s.sheaves := rfl
@[simp] theorem State.event_mm (s : State) (n : Nat) (a b c : Option Nat) (d : Option DWord) : (s.event n a b c d).mm = s.mm := rfl
@[simp] theorem State.event_clock (s : State) (n : Nat) (a b c : Option Nat) (d : Option DWord) :
    (s.event n a b c d).rep.clock = s.rep.clock := rfl
@[simp] theorem State.event_hot (s : State) (n : Nat) (a b c : Option Nat) (d : Option DWord) :
    (s.event n a b c d).rep.hot = s.rep.hot := rfl

/-- A clock above 1 MHz falls, and stays above 0. -/
theorem execThermalThrottle_slows (hd : die < 4) (known : die < s.rep.clock.length) (fast : 1 < s.rep.clock.getD die 3300) :
    ∃ t, execThermalThrottle die s = .next t ∧ t.rep.clock.getD die 3300 < s.rep.clock.getD die 3300 ∧
      0 < t.rep.clock.getD die 3300 ∧ t.rep.hot.contains die = true ∧ t.sheaves = s.sheaves ∧ t.mm = s.mm := by
  have low : (freeWord s.ctl.free).toNat % (s.rep.clock.getD die 3300 - 1) < s.rep.clock.getD die 3300 - 1 := Nat.mod_lt _ (by omega)
  have set (n : Nat) : (s.rep.clock.set die n).getD die 3300 = n := by simp [known]
  simp only [execThermalThrottle, Nat.not_le.mpr hd, Nat.not_le.mpr fast, if_false]
  refine ⟨_, rfl, ?_⟩
  cases hot : s.rep.hot.contains die with
  | true =>
    simp only [if_true, set, hot, State.draw_sheaves, State.draw_mm, and_self, and_true]
    omega
  | false =>
    simp only [Bool.false_eq_true, if_false, set, State.event_sheaves, State.event_mm, State.event_clock, State.event_hot,
      State.draw_sheaves, State.draw_mm, List.contains_cons, beq_self_eq_true, Bool.true_or, and_self, and_true]
    omega

theorem execThermalShutdown_first (hd : die < 4) (first : s.rep.shutdown = none) : execThermalShutdown die s =
    .next (State.event { s with rep := { s.rep with
      fatal := true
      shutdown := some (s.ctl.time + 1000000000) } } 0xB (some die) none none none) := by
  simp only [execThermalShutdown, Nat.not_le.mpr hd, first, decide_false, Option.isSome_none, Bool.or_self, Bool.false_eq_true, if_false]

/-- No sheaf issues once a shutdown has begun (20/R437). -/
theorem State.canIssue_shutdown (shut : s.rep.shutdown.isSome = true) (h : Sheaf) : s.canIssue h = false := by
  have notNone : s.rep.shutdown.isNone = false := by rw [← Option.not_isSome, shut]; rfl
  simp only [State.canIssue, notNone, Bool.and_false, Bool.false_and]

/-- A second later the power goes: memory beyond the device stays, and what the management controller keeps (20/R437). -/
theorem execPowerRemoval_due {t0 : Nat} (shut : s.rep.shutdown = some t0) (due : t0 ≤ s.ctl.time) :
    ∃ t, execPowerRemoval s = .next t ∧ t.mm.pool = s.mm.pool ∧ t.mm.host = s.mm.host ∧ t.mm.scr = [] ∧ t.sheaves = [] ∧
      t.ctxs = [] ∧ t.sys.statuses = s.sys.statuses ∧ t.rep.fuse = s.rep.fuse ∧ t.rep.out = s.rep.out ∧ t.rep.booted = false := by
  simp only [execPowerRemoval, shut, Nat.not_lt.mpr due, if_false]
  exact ⟨_, rfl, rfl, rfl, rfl, rfl, rfl, rfl, rfl, rfl, rfl⟩

/-- The clock of a die that is not throttled is set (01/R16). -/
theorem execArithmeticClockChange_cool {mhz : Nat} (hd : die < 4) (pos : 0 < mhz) (most : mhz ≤ 3300)
    (cool : s.rep.hot.contains die = false) :
    ∃ t, execArithmeticClockChange die mhz s = .next t ∧ t = { s with rep := t.rep } ∧ t.rep.clock = s.rep.clock.set die mhz := by
  have valid : (decide (4 ≤ die) || mhz == 0 || decide (3300 < mhz)) = false := by
    simp [hd, most, Nat.pos_iff_ne_zero.mp pos]
  simp only [execArithmeticClockChange, valid, cool, Bool.and_false, Bool.false_eq_true, if_false]
  exact ⟨_, rfl, rfl, rfl⟩

end Sys2Proof.Machine
end

section
open Sys2Proof Sys2Proof.Machine

/-- Settles O52: each step by the case its premises choose; scrubbing by the bound of the time that passes at once. -/
theorem healthAndPower : Obligations.HealthAndPower := by
  refine ⟨fun s die v hd hsel => execWaymkWrite_selects hd hsel,
    fun s asid line h found =>
      ⟨execPoolWriteCompletion_clean found, execPoolWriteCompletion_writes found, execL2LineEviction_found found⟩,
    fun s asid line x h found unleased unwritten pool => execPoisonResponse_fresh found unleased unwritten pool,
    fun h x k hk => h.poison_bad x hk, fun s asid line slice => rfl,
    fun s asid line h found => ⟨execPatrolScrub_good found, execPatrolScrub_corrects found, fun n => execPatrolScrub_marks found⟩,
    fun s ns h hh now => State.elapse_le_scrub ns hh now, fun s => ?telemetry,
    fun s die hd known fast => execThermalThrottle_slows hd known fast, fun s die hd first => execThermalShutdown_first hd first,
    fun s h shut => State.canIssue_shutdown shut h, fun s t0 shut due => execPowerRemoval_due shut due,
    fun s off a b => ⟨_, execBoot_imageA off a b, rfl, rfl, rfl, fun k hk => ?ways, fun k hk => ?boxes⟩,
    fun s i idle => ?update, fun s i image idle => execFirmwareActivate_image image idle,
    fun s rates taken => execNewImageTakeover_rates taken,
    fun s die mhz hd pos most cool => execArithmeticClockChange_cool hd pos most cool⟩
  case telemetry =>
    show execTelemetryReport s = _
    simp only [execTelemetryReport, beq_iff_eq]
  case ways =>
    rw [State.waysOf, List.find?_append, ownWays_find? k hk]
    rfl
  case boxes =>
    rw [State.mbx?, List.find?_append, deviceBoxes_find? k hk]
    rfl
  case update =>
    show execFirmwareUpdate i s = _
    simp only [execFirmwareUpdate, idle, Bool.false_eq_true, if_false]
end

section
/-! SUPPORT. A command at the head of the command port, and the repair command on its target (17/R379, 20/R428). -/

namespace Sys2Proof.Machine

variable {s : State} {op : Nat} {c : Cmd} {m : Mbx} {rest : List (List Byte)}

theorem State.takeCmd_head (head : headCommand s op c m rest) (k : CmdRun → State → State) :
    s.takeCmd op c k = k (runOf s op c) (cmdTaken s op c m rest) := by
  obtain ⟨port, bs, msgs, code, fields⟩ := head
  have same : (natAt bs 0 1 == op && cmdOf bs == c) = true := by simp [code, fields]
  simp only [State.takeCmd, port, msgs, same, if_true]
  rfl

theorem State.repair_target {p : Part} (head : headCommand s op c m rest) (target : targetOf c.a = some p)
    (k : CmdRun → Part → State → State) : s.repair op c k = k (runOf s op c) p (cmdTaken s op c m rest) := by
  simp only [State.repair, State.takeCmd_head head, target]

/-- Status 0x05: a malformed target. -/
theorem State.repair_malformed (head : headCommand s op c m rest) (target : targetOf c.a = none) (k : CmdRun → Part → State → State) :
    s.repair op c k = (cmdTaken s op c m rest).cmdStatus (runOf s op c) 5 := by
  simp only [State.repair, State.takeCmd_head head, target]

end Sys2Proof.Machine
end

section
/-! SUPPORT. The mailbox and repair commands as they are taken (17/R380, 20/R428 to R432). -/

namespace Sys2Proof.Machine

variable {s : State} {c : Cmd} {m : Mbx} {rest : List (List Byte)}

/-- A mailbox is made in a free, aligned range, of a kind that can be made and with the slots of that kind. -/
theorem execMbxmake_free {pos : Nat} (head : headCommand s 7 c m rest) :
    let t := cmdTaken s 7 c m rest
    let kind := (c.b.extractLsb' 0 8).toNat
    let n := if c.b.extractLsb' 8 16 = 0 then 65536 else (c.b.extractLsb' 8 16).toNat
    let box : Mbx := ⟨pos, kind, n, slotBytes kind, c.ctx.toNat, []⟩
    t.slmPos c.ctx.toNat c.a.toNat box.size = some pos → c.a.toNat % 128 = 0 →
    (t.job.mbx.any fun x => meets x.head x.size pos box.size) = false → kind ∈ [1, 2, 3] → (kind = 2 → n = 64) →
    execMbxmake c s = .next { t with job := { t.job with mbx := t.job.mbx ++ [box] } } := by
  intro t kind n box place aligned apart known launch
  have slots : (if (c.b.extractLsb' 8 16).toNat == 0 then 65536 else (c.b.extractLsb' 8 16).toNat) = n :=
    ite_congr (by simp [BitVec.toNat_eq]) (fun _ => rfl) (fun _ => rfl)
  have made : (kind == 0 || decide (3 < kind) || (kind == 2 && n != 64)) = false := by
    simp only [List.mem_cons, List.not_mem_nil, or_false] at known
    obtain one | two | three := known
    · simp [one]
    · simp [two, launch two]
    · simp [three]
  have free : (c.a.toNat % 128 != 0 || t.job.mbx.any fun x => meets x.head x.size pos box.size) = false := by
    rw [aligned, apart]
    rfl
  have found : t.slmPos (ctxIdOf c) c.a.toNat (⟨0, kind, n, slotBytes kind, ctxIdOf c, []⟩ : Mbx).size = some pos := place
  refine congrArg Host.Outcome.next ((State.takeCmd_head head _).trans ?_)
  dsimp only
  rw [slots, found]
  exact (if_neg (ne_true_of_eq_false free)).trans (if_neg (ne_true_of_eq_false made))

/-- A mailbox of the command's context is removed. -/
theorem execMbxfree_found {b : Mbx} (head : headCommand s 8 c m rest) :
    let t := cmdTaken s 8 c m rest
    ((t.slmPos c.ctx.toNat c.a.toNat 1).bind t.mbx?) = some b → b.ctx = c.ctx.toNat →
    execMbxfree c s = .next { t.draw b.size with
      job := { t.job with mbx := t.job.mbx.filter fun x => x.head != b.head }
      mm := { t.mm with slm := t.mm.slm.write b.head (freeBytes t.ctl.free b.size) } } := by
  intro t found own
  refine congrArg Host.Outcome.next ((State.takeCmd_head head _).trans ?_)
  simp only [ctxIdOf, found, t, own, beq_self_eq_true, if_true]

section
variable {p : Part} (target : targetOf c.a = some p)
include target

/-- A flush of a slice, by the checks of its new mask (20/R432). -/
theorem execSlflush_slice (head : headCommand s 0x10 c m rest) (slice : p.kind = 3) :
    let t := cmdTaken s 0x10 c m rest
    let w := t.waysOf p.num
    let new := if c.b.getLsbD 16 then c.b.extractLsb' 0 16 else w.pend.getD w.mask
    execSlflush c s = .next (
      if wayCount new < 4 then t.cmdStatus (runOf s 0x10 c) 2
      else if ((List.range 16).filter fun k => new.getLsbD k && !w.mask.getLsbD k).any (fun k => t.wayKept p.num k) then
        t.cmdStatus (runOf s 0x10 c) 3
      else ((if c.b.getLsbD 16 then t else t.putWays { w with pend := none }).writeBackSlice p.num).modCmd s.ctl.nextId fun x => { x with
        cmd := { c with b := (c.b &&& ~~~0xFFFF) ||| new.setWidth 64 }, until_ := t.sliceLemax p.num + 4 }) := by
  have kind : (p.kind != 3) = false := by simp [slice]
  exact congrArg Host.Outcome.next ((State.repair_target head target _).trans (if_neg (ne_true_of_eq_false kind)))

section
variable (head : headCommand s 0x11 c m rest)
include head

theorem execQuiesce_again (again : (cmdTaken s 0x11 c m rest).rep.quiesced.contains p = true) :
    execQuiesce c s = .next ((cmdTaken s 0x11 c m rest).cmdStatus (runOf s 0x11 c) 1) :=
  congrArg Host.Outcome.next ((State.repair_target head target _).trans (if_pos again))

variable (first : (cmdTaken s 0x11 c m rest).rep.quiesced.contains p = false)
include first

/-- A slice is taken out where its kept ways have a spare to go to (20/R429). -/
theorem execQuiesce_slice (slice : p.kind = 3)
    (room : ((cmdTaken s 0x11 c m rest).sliceKept p.num && !(cmdTaken s 0x11 c m rest).spareFree p.num) = false) :
    let t := cmdTaken s 0x11 c m rest
    execQuiesce c s = .next (State.writeBackSlice { t with rep := { t.rep with quiesced := t.rep.quiesced ++ [p] } } p.num) := by
  have kept : (p.kind == 3 && (cmdTaken s 0x11 c m rest).sliceKept p.num && !(cmdTaken s 0x11 c m rest).spareFree p.num) = false := by
    rw [Bool.and_assoc, room, Bool.and_false]
  have kind : (p.kind == 3) = true := by simp [slice]
  exact congrArg Host.Outcome.next ((State.repair_target head target _).trans ((if_neg (ne_true_of_eq_false first)).trans
    ((if_neg (ne_true_of_eq_false kept)).trans (if_pos kind))))

/-- A core is taken out: its sheaves are asked to stop, and none is held as a cluster's waiting sheaves are. -/
theorem execQuiesce_core (core : p.kind = 1) :
    let t := cmdTaken s 0x11 c m rest
    let t1 : State := { t with rep := { t.rep with quiesced := t.rep.quiesced ++ [p] } }
    execQuiesce c s = .next (t1.request (t1.groupOf ((t1.sheaves.filter fun h => h.onPart p && h.resident).map (·.uid)))) := by
  intro t t1
  refine congrArg Host.Outcome.next ((State.repair_target head target _).trans ((if_neg (ne_true_of_eq_false first)).trans ?_))
  have noSlice : (p.kind == 3) = false := by simp [core]
  have noCluster : (p.kind == 2) = false := by simp [core]
  simp only [noSlice, noCluster, Bool.false_and, Bool.false_eq_true, if_false, List.filter_false, List.any_nil,
    List.foldl_nil, List.map_id']
  rfl
end

/-- A test of a quiesced part: its cores run the microcode, a slice's array tester gives its verdict (20/R430). -/
theorem execTest_target (head : headCommand s 0x12 c m rest) :
    let t := cmdTaken s 0x12 c m rest
    execTest c s = .next (if !t.rep.quiesced.contains p then t.cmdStatus (runOf s 0x12 c) 1
      else if p.kind ≠ 3 then p.cores.foldl State.startTest t
      else match Config.selfTest (p.kind * 65536 + p.num) t.ctl.time with
        | none => t
        | some (upc, cause) => t.modCmd s.ctl.nextId fun x => { x with
            status := 6, detail := BitVec.ofNat 64 (upc % 16384 + cause % 256 * 65536) }) := by
  refine congrArg Host.Outcome.next ((State.repair_target head target _).trans (ite_congr rfl (fun _ => rfl) fun _ => ?_))
  exact ite_congr (propext bne_iff_ne) (fun _ => rfl) fun _ => rfl

section
variable (head : headCommand s 0x13 c m rest)
include head

theorem execRemap_inService (up : (cmdTaken s 0x13 c m rest).rep.quiesced.contains p = false) :
    execRemap c s = .next ((cmdTaken s 0x13 c m rest).cmdStatus (runOf s 0x13 c) 1) := by
  refine congrArg Host.Outcome.next ((State.repair_target head target _).trans (if_pos ?_))
  rw [up]
  rfl

/-- A quiesced core or slice is bound to a spare of its group (20/R425). -/
theorem execRemap_spare (down : (cmdTaken s 0x13 c m rest).rep.quiesced.contains p = true) (map : c.b = 0) (single : p.kind ≠ 2)
    (spare : 0 < (cmdTaken s 0x13 c m rest).sparesOf (p.kind == 1) (if p.kind == 1 then p.num / 48 else p.num / 24)) :
    execRemap c s = .next (((cmdTaken s 0x13 c m rest).mapSpare p).event 5 (some p.place.1) (some p.place.2.1) p.place.2.2 none) := by
  have bindable : (p.kind == 2 ||
      (cmdTaken s 0x13 c m rest).sparesOf (p.kind == 1) (if p.kind == 1 then p.num / 48 else p.num / 24) == 0) = false := by
    rw [beq_false_of_ne single, beq_false_of_ne spare.ne', Bool.or_self]
  have zero : (c.b == 0) = true := by simp [map]
  refine congrArg Host.Outcome.next ((State.repair_target head target _).trans ((if_neg ?_).trans
    ((if_pos zero).trans (if_neg (ne_true_of_eq_false bindable)))))
  rw [down]
  decide
end

theorem execResume_target (head : headCommand s 0x14 c m rest) :
    let t := cmdTaken s 0x14 c m rest
    execResume c s = .next { t with rep := { t.rep with quiesced := t.rep.quiesced.filter fun q => q != p } } :=
  congrArg Host.Outcome.next (State.repair_target head target _)
end

/-- Each repair command gives a malformed target its status. -/
theorem repairCommands_malformed {f : Nat × (Cmd → Instr)}
    (hf : f ∈ ([(0x10, .slflush), (0x11, .quiesce), (0x12, .test), (0x13, .remap), (0x14, .resume)] : List (Nat × (Cmd → Instr))))
    (head : headCommand s f.1 c m rest) (target : targetOf c.a = none) :
    exec (f.2 c) s = .next ((cmdTaken s f.1 c m rest).cmdStatus (runOf s f.1 c) 5) := by
  simp only [List.mem_cons, List.not_mem_nil, or_false] at hf
  obtain rfl | rfl | rfl | rfl | rfl := hf <;> exact congrArg Host.Outcome.next (State.repair_malformed head target _)

end Sys2Proof.Machine
end

section
/-! SUPPORT. The completion of the repair commands that wait (20/R429, R430, R432). -/

namespace Sys2Proof.Machine

variable {s : State} {id : Nat} {r : CmdRun} {p : Part}

theorem CmdRun.part_of_target (target : targetOf r.cmd.a = some p) : r.part = p := by simp only [CmdRun.part, target, Option.getD_some]

section
variable (found : (s.sys.cmds.find? fun r => r.id == id) = some r) (status : r.status = 0) (target : targetOf r.cmd.a = some p)
include found status

theorem execCommandCompletion_running :
    execCommandCompletion id s = .next (if s.cmdReady r then (s.cmdEnd r).endCmd id else s.cmdWork r) := by
  simp only [execCommandCompletion, found, status, bne_self_eq_false, Bool.false_eq_true, if_false]

include target

theorem execCommandCompletion_flush (op : r.op = 0x10) : execCommandCompletion id s =
    .next (if r.until_ ≤ s.reading (slicePlace p.num) then (s.endFlush r p.num).endCmd id else s) := by
  rw [execCommandCompletion_running found status]
  simp only [State.cmdReady, State.cmdEnd, State.cmdWork, op, CmdRun.part_of_target target, decide_eq_true_eq]

theorem execCommandCompletion_quiesce (op : r.op = 0x11) : execCommandCompletion id s =
    .next (if s.partIdle p then (s.endQuiesce p).endCmd id else s) := by
  rw [execCommandCompletion_running found status]
  simp only [State.cmdReady, State.cmdEnd, State.cmdWork, op, CmdRun.part_of_target target]

theorem execCommandCompletion_test (op : r.op = 0x12) : execCommandCompletion id s =
    .next (if s.testOver p then (s.endTest r p).endCmd id else s) := by
  rw [execCommandCompletion_running found status]
  simp only [State.cmdReady, State.cmdEnd, State.cmdWork, op, CmdRun.part_of_target target]
end

end Sys2Proof.Machine
end

section
/-! SUPPORT. What the host writes to BAR0 (14/R319, R320; 19/R406). -/

namespace Sys2Proof.Machine

variable {s : State} {fn off ctx pos : Nat}

/-- A whole message to a window's mailbox is posted; a full launch port leaves a fault record. -/
theorem execHostPost_whole {bytes : List Byte} {m : Mbx} (window : ¬ (fn = 0 ∧ off = 0))
    (place : s.barPos fn off bytes.length = some (ctx, pos)) (box : s.mbx? pos = some m) (whole : wholeMsg m.kind bytes.length = true) :
    execHostPost fn off bytes s = .next (if m.msgs.length < m.nslot then
        s.modMbx m.head fun x => { x with msgs := x.msgs ++ [bytes] }
      else if m.kind == 2 then s.postReject m.ctx m.head 9 else s) := by
  have notPort : (fn == 0 && off == 0) = false := by simpa using window
  simp only [execHostPost, notPort, Bool.false_eq_true, if_false, place, Option.bind_some, box, whole, if_true,
    State.hostMsg, State.postMsg]

/-- A byte off every mailbox lands in slice memory. -/
theorem execHostBar0Write_byte {b : Byte} (place : s.barPos fn off 1 = some (ctx, pos)) (apart : s.mbxOver pos = none) :
    execHostBar0Write fn off [b] s = .next (s.slmWrite pos [b]) := by
  simp [execHostBar0Write, place, apart]

end Sys2Proof.Machine
end

section
open Sys2Proof Sys2Proof.Machine

/-- Settles O50: each command by what its operation code does with the head of the command port, each host write by where it lands. -/
theorem repairAndPortCommands : Obligations.RepairAndPortCommands :=
  ⟨fun _ _ _ _ _ head place aligned apart known launch => execMbxmake_free head place aligned apart known launch,
    fun _ _ _ _ _ head found own => execMbxfree_found head found own,
    fun _ _ _ _ _ head target slice => execSlflush_slice target head slice,
    fun _ _ _ _ _ head target => ⟨execQuiesce_again target head, execQuiesce_slice target head, execQuiesce_core target head⟩,
    fun _ _ _ _ _ head target => execTest_target target head,
    fun _ _ _ _ _ head target => ⟨execRemap_inService target head, execRemap_spare target head⟩,
    fun _ _ _ _ _ head target => execResume_target target head,
    fun _ _ _ _ found status target => ⟨execCommandCompletion_flush found status target,
      execCommandCompletion_quiesce found status target, execCommandCompletion_test found status target⟩,
    fun _ hp _ _ _ _ head target => repairCommands_malformed hp head target,
    fun _ _ _ _ _ _ _ window place box whole => execHostPost_whole window place box whole,
    fun _ _ _ _ _ _ place apart => execHostBar0Write_byte place apart⟩
end

section
/-! SUPPORT. A sheaf that traps and can enter no handler halts and has its fault record posted (17/R387, R388). -/

namespace Sys2Proof.Machine

variable {s : State} {h : Sheaf}

/-- A trap inside a handler, or with no TRAPV that passes the check, halts the sheaf. -/
theorem State.takeTrap_halts (context : h.seqr = false)
    (barred : h.trap.inH = true ∨ h.trap.v = 0 ∨ s.checkEntry h.ctx h.trap.v [.live, .retired] = none)
    (c : Nat) (a : DWord) (w : Word) (l : Bool) (pc ret : Pc) :
    s.takeTrap h c a w l pc ret = (s.fresh 1).haltSheaf (h.trapCsrs c a w l ret s.ctl.nextId) c a w l pc := by
  unfold State.takeTrap
  rw [if_neg (by simp [context])]
  dsimp only
  split
  · rfl
  · next enters =>
    have unchecked : s.checkEntry h.ctx h.trap.v [.live, .retired] = none := by
      obtain inside | zero | unchecked := barred
      · simp [inside] at enters
      · simp [zero] at enters
      · exact unchecked
    rw [unchecked]

/-- A halt leaves the paths and the registers of its sheaf. -/
theorem State.sheaf?_haltSheaf (there : s.sheaf? h.uid ≠ none) (c : Nat) (a : DWord) (w : Word) (l : Bool) (pc : Pc) :
    (s.haltSheaf h c a w l pc).sheaf? h.uid = some { h with run := .halted, chain := ⟨none, []⟩, fbuf := none, waiting := false } := by
  obtain ⟨x, found⟩ := Option.ne_none_iff_exists'.mp there
  rw [State.haltSheaf, State.postHalt, State.sheaf?_congr (State.postFault_sheaves ..), State.sheaf?_putSheaf, if_pos rfl, found]
  rfl

section
variable {ctx : Nat} {c : Ctx} (rec : List Byte) (known : s.ctx? ctx = some c)
include known

/-- A fault mailbox with room takes the record after those it holds. -/
theorem State.postFault_room {m : Mbx} (box : (s.slmPos ctx c.fmbx 128).bind s.mbx? = some m) (kind : m.kind = 3)
    (room : m.msgs.length < m.nslot) :
    s.postFault ctx rec = s.modMbx m.head fun x => { x with msgs := x.msgs ++ [rec] } := by
  simp [State.postFault, known, box, kind, room]

/-- Where no fault mailbox has room, the record is counted in FLOST. -/
theorem State.postFault_lost
    (full : ∀ m, (s.slmPos ctx c.fmbx 128).bind s.mbx? = some m → m.kind ≠ 3 ∨ m.nslot ≤ m.msgs.length) :
    s.postFault ctx rec = s.modCtx ctx fun x => { x with flost := x.flost + 1 } := by
  simp only [State.postFault, known]
  cases box : (s.slmPos ctx c.fmbx 128).bind s.mbx? with
  | none => rfl
  | some m =>
    have noRoom : ¬ (m.kind == 3 && decide (m.msgs.length < m.nslot)) = true := by
      have := full m box
      simp only [Bool.and_eq_true, beq_iff_eq, decide_eq_true_eq]
      omega
    exact if_neg noRoom
end

end Sys2Proof.Machine
end

section
open Sys2Proof Sys2Proof.Machine

/-- Settles O17: the trap by the branch that halts, the record by whether its mailbox has room. -/
theorem trapWithoutHandlerHalts : Obligations.TrapWithoutHandlerHalts :=
  ⟨fun _ _ c a w late pc ret context barred => State.takeTrap_halts context barred c a w late pc ret,
    fun _ _ c a w late pc there => ⟨_, State.sheaf?_haltSheaf there c a w late pc, rfl, rfl, rfl, rfl⟩,
    fun _ _ _ _ rec known box kind room => State.postFault_room rec known box kind room,
    fun _ _ _ rec known full => State.postFault_lost rec known full⟩
end

section
/-! SUPPORT. Writing lines back to the pool: which parts of the machine it leaves, and the bytes it leaves in the pool. -/

namespace Sys2Proof.Machine

variable {s t u : State}

/-- The tag of a line in L2. -/
def Home.tag (h : Home) : Nat × Nat := (h.asid, h.line)

/-- From `s` to `t` lines were written back: those in L2, translations, copies and extents are the same, and the pool stays in
canonical form. -/
structure WroteBack (s t : State) : Prop where
  tags : t.mm.homes.map Home.tag = s.mm.homes.map Home.tag
  tlb : t.mm.tlb = s.mm.tlb
  l1 : t.mm.l1 = s.mm.l1
  fab : t.fab = s.fab
  pool : s.mm.pool.wf = true → t.mm.pool.wf = true

theorem WroteBack.refl (s : State) : WroteBack s s := ⟨rfl, rfl, rfl, rfl, id⟩

theorem WroteBack.trans (x : WroteBack s t) (y : WroteBack t u) : WroteBack s u :=
  ⟨y.tags.trans x.tags, y.tlb.trans x.tlb, y.l1.trans x.l1, y.fab.trans x.fab, y.pool ∘ x.pool⟩

theorem WroteBack.ite {c : Prop} [Decidable c] {a b : State} (x : WroteBack s a) (y : WroteBack s b) :
    WroteBack s (if c then a else b) := by
  split <;> assumption

theorem WroteBack.foldl {α : Type} {f : State → α → State} (step : ∀ u a, WroteBack u (f u a)) (l : List α) (s : State) :
    WroteBack s (l.foldl f s) :=
  List.foldlRecOn (motive := WroteBack s) _ _ (.refl s) fun u x a _ => x.trans (step u a)

theorem State.modHome_wroteBack (s : State) (asid line : Nat) {f : Home → Home} (keeps : ∀ x, (f x).tag = x.tag) :
    WroteBack s (s.modHome asid line f) where
  tags := by
    rw [State.modHome, List.map_map]
    exact List.map_congr_left fun x _ => by dsimp only [Function.comp]; split <;> simp [keeps]
  tlb := rfl
  l1 := rfl
  fab := rfl
  pool := id

theorem State.backWrite_wroteBack (s : State) (hm : Bool) (pa : Nat) (bs : List Byte) : WroteBack s (s.backWrite hm pa bs) :=
  .ite ⟨rfl, rfl, rfl, rfl, id⟩ (.ite ⟨rfl, rfl, rfl, rfl, Mem.write_wf bs _ pa⟩ (.refl s))

theorem State.countPool_wroteBack (s : State) (asid n : Nat) : WroteBack s (s.countPool asid n) := ⟨rfl, rfl, rfl, rfl, id⟩

theorem State.writeBack_wroteBack (s : State) (x : Home) : WroteBack s (s.writeBack x) := by
  unfold State.writeBack
  extract_lets s1
  have bytes : WroteBack s s1 := .foldl (fun u k => .ite (u.backWrite_wroteBack ..) (.refl u)) _ _
  exact (bytes.trans (.ite (.refl s1) (s1.countPool_wroteBack ..))).trans (State.modHome_wroteBack _ _ _ fun _ => rfl)

theorem State.spoilSectors_wroteBack (s : State) (x : Home) : WroteBack s (s.spoilSectors x) :=
  .foldl (fun u _ => .ite (WroteBack.trans (t := u.draw 32) ⟨rfl, rfl, rfl, rfl, id⟩ (State.backWrite_wroteBack ..)) (.refl u)) _ _

/-- Writing lines back and giving up their bad sectors, as a flush does with each line it drops. -/
theorem foldl_flush_wroteBack (hs : List Home) (s : State) :
    WroteBack s (hs.foldl (fun (t : State) (h : Home) => (t.writeBack h).spoilSectors h) s) :=
  .foldl (fun u h => (u.writeBack_wroteBack h).trans (State.spoilSectors_wroteBack _ h)) hs s

/-- A byte written to the pool lands there if its address lies in an extent, and no other byte changes. -/
theorem State.backWrite_byte_get (wf : s.mm.pool.wf = true) (a c : Nat) (b : Byte) :
    (s.backWrite false a [b]).mm.pool.get c = if c = a ∧ s.assigned false a = true then b else s.mm.pool.get c := by
  unfold State.backWrite
  by_cases there : s.assigned false a = true
  · simp only [there, Bool.false_eq_true, if_false, if_true, and_true, Mem.write, Mem.get_put _ a b c wf]
  · simp [there]

end Sys2Proof.Machine
end

section
/-! SUPPORT. SHOOT (17/R379): what a shootdown removes, and when it waits. -/

namespace Sys2Proof.Machine

variable {s : State} {c : Cmd}

/-- After a flush by tag no line in L2 has a tag that was selected. -/
theorem State.flushLines_homes (s : State) (sel : Nat → Nat → Bool) :
    ∀ e ∈ (s.flushLines fun h => sel h.asid h.line).1.mm.homes, sel e.asid e.line = false := by
  intro e kept
  obtain ⟨flushed, stays⟩ := List.mem_filter.mp kept
  have back := foldl_flush_wroteBack (s.mm.homes.filter fun h => sel h.asid h.line) s
  obtain ⟨x, there, same⟩ := List.mem_map.mp (back.tags ▸ List.mem_map_of_mem (f := Home.tag) flushed)
  obtain ⟨asid, line⟩ : x.asid = e.asid ∧ x.line = e.line := by simpa [Home.tag] using same
  simp only [Bool.not_eq_true', List.any_eq_false, List.mem_filter, Bool.and_eq_true, beq_iff_eq, not_and] at stays
  by_contra hit
  exact stays x ⟨there, by simpa [asid, line] using hit⟩ asid line

/-- A flush leaves the translations, and adds no copy. -/
theorem State.flushLines_copies (s : State) (f : Home → Bool) :
    (s.flushLines f).1.mm.tlb = s.mm.tlb ∧ ∀ e ∈ (s.flushLines f).1.mm.l1, e ∈ s.mm.l1 := by
  have back := foldl_flush_wroteBack (s.mm.homes.filter f) s
  exact ⟨back.tlb, fun e kept => back.l1 ▸ List.mem_of_mem_filter kept⟩

/-- The state in which the pins, translations and copies of a range are gone, and its lines not yet. -/
def State.unmapRange (s : State) (asid va len : Nat) : State :=
  { s with
    eng := { s.eng with ops := s.eng.ops.map fun o => o.forceOff asid va len }
    mm := { s.mm with
      tlb := s.mm.tlb.filter fun e => !(e.asid == asid && inShoot va len (e.page * 65536) (e.n * 65536))
      l1 := s.mm.l1.filter fun e => !(e.asid == asid && inShoot va len (e.line * 128) 128) } }

/-- Where no operation pins a page of the range, a shootdown unmaps the range and flushes its lines. -/
theorem State.shootNow_unpinned
    (unpinned : ∀ o ∈ s.eng.ops, o.pinsIn (s.asidOf c.ctx.toNat) c.a.toNat (c.b.extractLsb' 0 63).toNat = false) :
    let asid := s.asidOf c.ctx.toNat
    let len := (c.b.extractLsb' 0 63).toNat
    let f := (s.unmapRange asid c.a.toNat len).flushLines fun h => h.asid == asid && inShoot c.a.toNat len (h.line * 128) 128
    s.shootNow c = some (f.1, f.2 + 4) := by
  have pinned : (s.eng.ops.filter fun o => o.pinsIn (s.asidOf c.ctx.toNat) c.a.toNat (c.b.extractLsb' 0 63).toNat) = [] :=
    List.filter_eq_nil_iff.mpr fun o mem => ne_true_of_eq_false (unpinned o mem)
  simp only [State.shootNow, ctxIdOf, shootRange, pinned]
  rfl

/-- What a filter keeps is of another address space or outside the range. -/
theorem outside_of_kept {asid own : Nat} {inside : Bool} (kept : (!(asid == own && inside)) = true) :
    ¬ (asid = own ∧ inside = true) := by
  simpa [Decidable.imp_iff_not_or] using kept

/-- A shootdown that meets no pin leaves no translation, copy or line of its range. -/
theorem State.shootNow_removes {t : State} {k : Nat} (shot : s.shootNow c = some (t, k))
    (unpinned : ∀ o ∈ s.eng.ops, o.pinsIn (s.asidOf c.ctx.toNat) c.a.toNat (c.b.extractLsb' 0 63).toNat = false) :
    let asid := s.asidOf c.ctx.toNat
    let hit := fun (a n : Nat) => inShoot c.a.toNat (c.b.extractLsb' 0 63).toNat a n
    (∀ e ∈ t.mm.tlb, ¬ (e.asid = asid ∧ hit (e.page * 65536) (e.n * 65536) = true)) ∧
    (∀ e ∈ t.mm.l1, ¬ (e.asid = asid ∧ hit (e.line * 128) 128 = true)) ∧
    (∀ e ∈ t.mm.homes, ¬ (e.asid = asid ∧ hit (e.line * 128) 128 = true)) := by
  intro asid hit
  obtain ⟨rfl, -⟩ : _ = t ∧ _ = k := by simpa using (State.shootNow_unpinned unpinned).symm.trans shot
  let u := s.unmapRange asid c.a.toNat (c.b.extractLsb' 0 63).toNat
  obtain ⟨tlb, l1⟩ := u.flushLines_copies fun h => h.asid == asid && hit (h.line * 128) 128
  have lines := u.flushLines_homes fun a line => a == asid && hit (line * 128) 128
  refine ⟨fun e mem => ?_, fun e mem => ?_, fun e mem => ?_⟩
  · have kept : e ∈ u.mm.tlb := tlb ▸ mem
    exact outside_of_kept (List.mem_filter.mp kept).2
  · exact outside_of_kept (List.mem_filter.mp (l1 e mem)).2
  · simpa using lines e mem

/-- An ordinary shootdown of a range with a pinned page waits. -/
theorem State.shootNow_pinned
    (pinned : ∃ o ∈ s.eng.ops, o.pinsIn (s.asidOf c.ctx.toNat) c.a.toNat (c.b.extractLsb' 0 63).toNat = true)
    (ordinary : c.b.getLsbD 63 = false) : s.shootNow c = none := by
  obtain ⟨o, mem, pins⟩ := pinned
  have holds : (s.eng.ops.filter fun o => o.pinsIn (s.asidOf (ctxIdOf c)) (shootRange c).1 (shootRange c).2).isEmpty = false :=
    List.isEmpty_eq_false_iff_exists_mem.mpr ⟨o, List.mem_filter.mpr ⟨mem, pins⟩⟩
  exact if_pos (by rw [holds, ordinary]; rfl)

end Sys2Proof.Machine
end

section
/-! SUPPORT. One page of DIRTCLR (17/R400). -/

namespace Sys2Proof.Machine

variable {s : State} {l : DirtyLog} {result i k pa : Nat}

/-- Bit `n` of a byte set to `b`. -/
def setBit (x : Byte) (n : Nat) (b : Bool) : Byte := if b then x ||| ((1 : Byte) <<< n) else x &&& ~~~((1 : Byte) <<< n)

theorem getLsbD_setBit (x : Byte) (b : Bool) {n : Nat} (hn : n < 8) : (setBit x n b).getLsbD n = b := by
  cases b <;> simp [setBit, hn]

/-- Whether the bytes of a line lie in the pool's page at a PA. -/
def Home.inPage (pa : Nat) (h : Home) : Bool := !h.hm && decide (pa ≤ h.pa) && decide (h.pa < pa + 65536)

/-- The state in which a page's lines have been written back. -/
def State.pageBack (s : State) (pa : Nat) : State :=
  (s.mm.homes.filter (Home.inPage pa)).foldl (fun (t : State) (h : Home) => t.writeBack h) s

theorem State.pageBack_wroteBack (s : State) (pa : Nat) : WroteBack s (s.pageBack pa) := .foldl State.writeBack_wroteBack _ _

/-- The lines of a page are logged no more. -/
def State.unlogPage (s : State) (pa : Nat) : State :=
  { s with mm := { s.mm with homes := s.mm.homes.map fun h => if h.inPage pa then { h with logged := false } else h } }

/-- The bit of page `i` in the log goes to bit `k` of the result, and is cleared in the log; a page past the log has no bit. -/
def State.moveBit (t : State) (l : DirtyLog) (result i k : Nat) : State :=
  let dirty := if i < l.len then (t.mm.pool.get (l.bitmap + i / 8)).getLsbD (i % 8) else false
  let t1 := t.backWrite false (result + k / 8) [setBit (t.mm.pool.get (result + k / 8)) (k % 8) dirty]
  if i < l.len then t1.backWrite false (l.bitmap + i / 8) [setBit (t1.mm.pool.get (l.bitmap + i / 8)) (i % 8) false] else t1

/-- Clearing a page of the capacity: its lines are written back and logged no more, then its bit moves to the result. -/
theorem State.clearPage_found (page : pagePa (s.extentsOf l.vf) i = some pa) :
    s.clearPage l result i k = ((s.pageBack pa).unlogPage pa).moveBit l result i k := by
  simp only [State.clearPage, page]
  rfl

@[simp] theorem State.backWrite_homes (s : State) (hm : Bool) (a : Nat) (bs : List Byte) :
    (s.backWrite hm a bs).mm.homes = s.mm.homes := by
  unfold State.backWrite
  repeat' split
  all_goals rfl

@[simp] theorem State.backWrite_assigned (s : State) (hm x : Bool) (a p : Nat) (bs : List Byte) :
    (s.backWrite hm a bs).assigned x p = s.assigned x p := by
  rw [State.assigned, (s.backWrite_wroteBack hm a bs).fab, State.assigned]

@[simp] theorem State.moveBit_homes (s : State) (l : DirtyLog) (result i k : Nat) : (s.moveBit l result i k).mm.homes = s.mm.homes := by
  unfold State.moveBit
  split <;> simp

/-- No line of a cleared page is logged. -/
theorem State.clearPage_unlogged (page : pagePa (s.extentsOf l.vf) i = some pa) :
    ∀ h ∈ (s.clearPage l result i k).mm.homes, h.inPage pa = true → h.logged = false := by
  intro h mem here
  rw [State.clearPage_found page, State.moveBit_homes] at mem
  obtain ⟨x, -, rfl⟩ := List.mem_map.mp mem
  by_cases inside : x.inPage pa = true
  · rw [if_pos inside]
  · rw [if_neg inside] at here
    exact absurd here inside

section
variable (wf : s.mm.pool.wf = true)
include wf

/-- Where both bytes lie in extents, the log's bit is in the result and cleared in the log. -/
theorem State.moveBit_bits (inside : i < l.len) (apart : result + k / 8 ≠ l.bitmap + i / 8)
    (resultThere : s.assigned false (result + k / 8) = true) (logThere : s.assigned false (l.bitmap + i / 8) = true) :
    let u := s.moveBit l result i k
    (u.mm.pool.get (result + k / 8)).getLsbD (k % 8) = (s.mm.pool.get (l.bitmap + i / 8)).getLsbD (i % 8) ∧
      (u.mm.pool.get (l.bitmap + i / 8)).getLsbD (i % 8) = false := by
  have wf1 (b : Byte) := (s.backWrite_wroteBack false (result + k / 8) [b]).pool wf
  simp only [State.moveBit, inside, if_true, State.backWrite_byte_get (wf1 _), State.backWrite_byte_get wf, State.backWrite_assigned,
    resultThere, logThere, apart, and_true, and_self, if_false]
  exact ⟨getLsbD_setBit _ _ (Nat.mod_lt _ (by omega)), getLsbD_setBit _ _ (Nat.mod_lt _ (by omega))⟩

/-- Every byte but the two is as it was. -/
theorem State.moveBit_other {a : Nat} (result' : a ≠ result + k / 8) (log : a ≠ l.bitmap + i / 8) :
    (s.moveBit l result i k).mm.pool.get a = s.mm.pool.get a := by
  have wf1 (b : Byte) := (s.backWrite_wroteBack false (result + k / 8) [b]).pool wf
  unfold State.moveBit
  split <;> simp only [State.backWrite_byte_get (wf1 _), State.backWrite_byte_get wf, result', log, false_and, if_false]
end

end Sys2Proof.Machine
end

section
/-! SUPPORT. The context commands as they are taken from the port (17/R379, R387, R392, R398 to R400). -/

namespace Sys2Proof.Machine

variable {s : State} {c : Cmd} {m : Mbx} {rest : List (List Byte)}

section
variable (head : headCommand s 1 c m rest) (known : ((cmdTaken s 1 c m rest).ctx? c.ctx.toNat).isNone = false)
include head known

theorem execShoot_taken : execShoot c s = .next ((cmdTaken s 1 c m rest).shootStep (runOf s 1 c)) :=
  congrArg Host.Outcome.next ((State.takeCmd_head head _).trans (if_neg (ne_true_of_eq_false known)))

theorem execShoot_waits (waits : (cmdTaken s 1 c m rest).shootNow c = none) : execShoot c s = .next (cmdTaken s 1 c m rest) := by
  rw [execShoot_taken head known]
  simp [State.shootStep, runOf, waits]

theorem execShoot_shot {u : State} {k : Nat} (shot : (cmdTaken s 1 c m rest).shootNow c = some (u, k)) :
    execShoot c s = .next (u.modCmd s.ctl.nextId fun r => { r with until_ := k }) := by
  rw [execShoot_taken head known]
  simp [State.shootStep, runOf, shot]
end

/-- A sheaf that is placed, or of another context, is not stopped where it waits. -/
theorem Sheaf.stopWaiting_placed {h : Sheaf} {ctx : Nat} (placed : h.ctx = ctx → h.run ≠ .waiting) : h.stopWaiting ctx = h :=
  if_neg (by simpa using placed)

/-- With no sheaf of the context waiting to be placed, CTXSAVE stops the context and asks its sheaves. -/
theorem execCtxsave_placed {x : Ctx} (head : headCommand s 2 c m rest) :
    let t := cmdTaken s 2 c m rest
    t.ctx? c.ctx.toNat = some x → (∀ h ∈ t.sheaves, h.ctx = x.id → h.run ≠ .waiting) →
    let t1 := t.modCtx x.id fun y => { y with stopped := true }
    execCtxsave c s = .next (t1.request ((t1.sheavesIn x.id).map (·.uid))) := by
  intro t known placed t1
  have waiting : (t.sheavesIn x.id).filter (fun h => h.run == .waiting) = [] := by
    simp only [State.sheavesIn, List.filter_eq_nil_iff, List.mem_filter, Bool.and_eq_true, beq_iff_eq]
    exact fun h mem => placed h mem.1 mem.2.1
  have sheaves : t1.sheaves.map (fun h => h.stopWaiting x.id) = t1.sheaves :=
    (List.map_congr_left fun h mem => Sheaf.stopWaiting_placed (placed h mem)).trans (List.map_id _)
  refine congrArg Host.Outcome.next ((State.takeCmd_head head _).trans ?_)
  simp only [ctxIdOf, t, known] at waiting ⊢
  rw [waiting]
  simp only [List.foldl_nil, List.map_id']
  rw [sheaves]

/-- A command for an image that is not valid has status 0x03. -/
theorem execCtxload_invalid (head : headCommand s 3 c m rest) :
    let t := cmdTaken s 3 c m rest
    imageRecs (t.backRead false c.a.toNat c.b.toNat) = none → execCtxload c s = .next (t.cmdStatus (runOf s 3 c) 3) := by
  intro t invalid
  refine congrArg Host.Outcome.next ((State.takeCmd_head head _).trans ?_)
  dsimp only
  rw [invalid]

/-- A valid image of a new context whose segments and addresses pass the checks is restored. What is read of the grant bitmap is
generalized: comparing it would have the kernel unfold the read of 8192 bytes. -/
theorem execCtxload_valid {rs : List Rec} (head : headCommand s 3 c m rest) :
    let t := cmdTaken s 3 c m rest
    imageRecs (t.backRead false c.a.toNat c.b.toNat) = some rs →
    let x := ctxOf ((bodiesOf rs 1).headD []) t.ctl.time
    (t.ctxs.any fun y => y.live && (y.asid == x.asid || y.id == x.id)) = false →
    let new : Ctx := { x with objs := [], resolver := 0 }
    let g := State.globBytes { t with ctxs := t.ctxs ++ [new] } x.id x.sgrantVa 8192
    g.1.segsBad rs (grantsOf (g.2.getD [])) = false → g.1.ctxBad x = false →
    execCtxload c s = .next ((g.1.modCtx x.id fun y => { y with sgrant := grantsOf (g.2.getD []) }).restore rs x) := by
  intro t valid x fresh new
  have other : ∀ y ∈ t.ctxs, (y.live && y.id == x.id) = false := by
    intro y mem
    have apart := List.any_eq_false.mp fresh y mem
    cases live : y.live <;> simp_all
  have same : (t.ctxs.any fun y => y.live && y.id == x.id && y.stopped) = false :=
    List.any_eq_false.mpr fun y mem => by rw [other y mem]; simp
  have old : (t.ctxs.find? fun y => y.live && y.id == x.id) = none :=
    List.find?_eq_none.mpr fun y mem => ne_true_of_eq_false (other y mem)
  rw [execCtxload, State.takeCmd_head head, valid]
  dsimp only
  rw [same, old]
  simp only [new, x, t, Bool.false_eq_true, if_false, Option.map_none, Option.getD_none] at fresh ⊢
  generalize State.globBytes _ _ _ _ = g
  intro segs reach
  simp only [fresh, segs, reach, Bool.false_eq_true, if_false]

theorem execShend_taken (head : headCommand s 4 c m rest) :
    let t := cmdTaken s 4 c m rest
    execShend c s = .next (match t.sheaves.find? fun h => h.ctx == c.ctx.toNat && h.shid == c.a.extractLsb' 0 32 && h.isHalted with
      | none => t.cmdStatus (runOf s 4 c) 1
      | some h => (t.putSheaf h.drainHalted).modCmd s.ctl.nextId fun r => { r with until_ := h.uid }) := by
  refine congrArg Host.Outcome.next ((State.takeCmd_head head _).trans ?_)
  rfl

/-- DIRTSET replaces the log of the context's function and touches no byte of the pool. -/
theorem execDirtset_logs {x : Ctx} (head : headCommand s 5 c m rest) :
    let t := cmdTaken s 5 c m rest
    t.ctx? c.ctx.toNat = some x →
    ∃ u, execDirtset c s = .next u ∧ u.sys.logs = (t.sys.logs.filter fun l => l.vf != x.vf) ++
      (if c.b = 0 then [] else [⟨x.vf, c.a.toNat, c.b.toNat⟩]) ∧ u.mm.pool = t.mm.pool ∧ u.mm.homes.length = t.mm.homes.length := by
  intro t known
  refine ⟨_, congrArg Host.Outcome.next (State.takeCmd_head head _), ?_⟩
  simp only [ctxIdOf, t, known, beq_iff_eq, List.length_map, and_true]
  split <;> simp

theorem execDirtclr_taken {x : Ctx} (head : headCommand s 6 c m rest) (known : (cmdTaken s 6 c m rest).ctx? c.ctx.toNat = some x) :
    execDirtclr c s = .next (cmdTaken s 6 c m rest) := by
  refine congrArg Host.Outcome.next ((State.takeCmd_head head _).trans ?_)
  simp [ctxIdOf, known]

end Sys2Proof.Machine
end

section
/-! SUPPORT. The completion of the context commands (17/R379, R387, R392, R400). -/

namespace Sys2Proof.Machine

variable {s : State} {id : Nat} {r : CmdRun} (found : (s.sys.cmds.find? fun r => r.id == id) = some r)
include found

theorem State.endCmd_found : s.endCmd id = s.storeStatus r := by simp only [State.endCmd, found]

/-- A command that has its status ends with it. -/
theorem execCommandCompletion_status (status : r.status ≠ 0) : execCommandCompletion id s = .next (s.storeStatus r) := by
  have set : (r.status != 0) = true := by simpa using status
  simp only [execCommandCompletion, found, set, if_true]

variable (status : r.status = 0)
include status

/-- A SHOOT that waits for a pin is tried again. -/
theorem execCommandCompletion_shoot (op : r.op = 1) (waits : r.until_ = 0) :
    execCommandCompletion id s = .next (match s.shootNow r.cmd with
      | none => s
      | some (t, k) => t.modCmd r.id fun x => { x with until_ := k }) := by
  have unready : s.cmdReady r = false := by simp [State.cmdReady, op, waits]
  have work : s.cmdWork r = s.shootStep r := by simp only [State.cmdWork, op]
  rw [execCommandCompletion_running found status, unready, work, State.shootStep, waits]
  rfl

/-- A SHOOT that was performed ends once no lease of its range is left. -/
theorem execCommandCompletion_shot (op : r.op = 1) (shot : r.until_ ≠ 0) :
    execCommandCompletion id s = .next (if r.until_ ≤ s.ctl.time then s.storeStatus r else s) := by
  rw [execCommandCompletion_running found status]
  simp [State.cmdReady, State.cmdEnd, State.cmdWork, State.shootStep, State.endCmd_found found, op, shot]

theorem execCommandCompletion_dirtclrOver (op : r.op = 6) (last : (r.cmd.b.extractLsb' 0 32).toNat ≤ r.until_) :
    execCommandCompletion id s = .next (s.storeStatus r) := by
  rw [execCommandCompletion_running found status]
  simp only [State.cmdReady, State.cmdEnd, State.endCmd_found found, op, decide_eq_true last, if_true]

/-- DIRTCLR clears its next page. -/
theorem execCommandCompletion_dirtclrPage {x : Ctx} {l : DirtyLog} (op : r.op = 6)
    (more : r.until_ < (r.cmd.b.extractLsb' 0 32).toNat) (known : s.ctx? r.cmd.ctx.toNat = some x)
    (log : (s.sys.logs.find? fun l => l.vf == x.vf) = some l) :
    execCommandCompletion id s = .next
      ((s.clearPage l (r.cmd.b.extractLsb' 32 32).toNat (r.cmd.a.toNat / 65536 + r.until_) r.until_).modCmd r.id
        fun y => { y with until_ := r.until_ + 1 }) := by
  rw [execCommandCompletion_running found status]
  simp only [State.cmdReady, State.cmdWork, op, decide_eq_false (Nat.not_le.mpr more), Bool.false_eq_true, if_false, State.dirtStep,
    ctxIdOf, known, Option.bind_some, log]

theorem execCommandCompletion_shend (op : r.op = 4) :
    execCommandCompletion id s = .next (if (s.sheaf? r.until_).isNone then s.storeStatus r else s) := by
  rw [execCommandCompletion_running found status]
  simp only [State.cmdReady, State.cmdEnd, State.cmdWork, State.endCmd_found found, op]

theorem execCommandCompletion_moving (op : r.op = 2) (moving : s.atRest r.cmd.ctx.toNat = false) :
    execCommandCompletion id s = .next s := by
  rw [execCommandCompletion_running found status]
  simp only [State.cmdReady, State.cmdWork, op, ctxIdOf, moving, Bool.false_eq_true, if_false]

/-- With all of the context at rest its image is written. -/
theorem execCommandCompletion_image {c : Ctx} (op : r.op = 2) (rest : s.atRest r.cmd.ctx.toNat = true)
    (known : s.ctx? r.cmd.ctx.toNat = some c) : execCommandCompletion id s = .next ((s.saveImage r c).endCmd id) := by
  rw [execCommandCompletion_running found status]
  simp only [State.cmdReady, State.cmdEnd, op, ctxIdOf, rest, known, if_true]

end Sys2Proof.Machine
end

section
open Sys2Proof Sys2Proof.Machine

/-- Settles O49: each command by what it does with the head of the port and at its completion; a shootdown by the tags of the lines
that a flush leaves, a cleared page by its lines and the two bytes written. -/
theorem contextCommands : Obligations.ContextCommands := by
  refine ⟨fun s c m rest x head known => ?shoot, fun s t c k shot unpinned => State.shootNow_removes shot unpinned,
    fun s c pinned ordinary => State.shootNow_pinned pinned ordinary,
    fun s c m rest x head known placed => execCtxsave_placed head known placed,
    fun s c m rest head => ⟨execCtxload_invalid head, fun rs => execCtxload_valid head⟩,
    fun s c m rest head => execShend_taken head, fun s c m rest x head => execDirtset_logs head,
    fun s c m rest x head known => execDirtclr_taken head known, fun s id r found => ?completion,
    fun s l result i k pa wf page => ?page⟩
  case shoot =>
    have there : ((cmdTaken s 1 c m rest).ctx? c.ctx.toNat).isNone = false := by rw [known]; rfl
    exact ⟨execShoot_waits head there, fun u k => execShoot_shot head there⟩
  case completion =>
    exact ⟨execCommandCompletion_status found, execCommandCompletion_shoot found, execCommandCompletion_shot found,
      execCommandCompletion_dirtclrOver found, fun x l status => execCommandCompletion_dirtclrPage found status,
      fun status op there => (execCommandCompletion_shend found status op).trans (by rw [Option.isNone_eq_false_iff.mpr there]; rfl),
      fun status op gone => (execCommandCompletion_shend found status op).trans (by rw [gone]; rfl),
      execCommandCompletion_moving found, fun c status => execCommandCompletion_image found status⟩
  case page =>
    have back := (s.pageBack_wroteBack pa).pool wf
    refine ⟨State.clearPage_unlogged page, ?_⟩
    rw [State.clearPage_found page]
    exact ⟨State.moveBit_bits (s := (s.pageBack pa).unlogPage pa) back,
      fun a => State.moveBit_other (s := (s.pageBack pa).unlogPage pa) back⟩
end

section
/-! SUPPORT. The extents of the pool (19/R412, R413): one that is added, and one that is asked back. -/

namespace Sys2Proof.Machine

variable {s : State} {base len port : Nat}

/-- An extent of whole grains, within the limits and apart from the others, is function 0's, and the host driver is told. -/
theorem execExtentAdd_apart (aligned : base % 2 ^ 28 = 0) (whole : len % 2 ^ 28 = 0) (some : 0 < len) (reached : port < 24)
    (room : s.fab.extents.length < 4096) (total : (s.fab.extents.map fun e => e.len).sum + len ≤ 2 ^ 46)
    (apart : ∀ e ∈ s.fab.extents, meets e.base e.len base len = false) :
    execExtentAdd base len port s = .next ((State.event { s with fab := { s.fab with
        extents := s.fab.extents ++ [⟨base, len, port, 0⟩] } } 8 none none none (BitVec.ofNat 64 base)).answerTo
      "EXTENT" (natLe 8 base ++ natLe 8 len ++ natLe 1 port)) := by
  have overlaps : (s.fab.extents.any fun e => meets e.base e.len base len) = false := by simpa using apart
  have grain : base % extentGrain = 0 ∧ len % extentGrain = 0 := ⟨aligned, whole⟩
  have nonzero : len ≠ 0 := some.ne'
  simp [-Nat.reducePow, execExtentAdd, overlaps, grain, nonzero, Nat.not_le.mpr reached, Nat.not_le.mpr room, Nat.not_lt.mpr total]

/-- The answer to the fabric manager: whether the extent is released. -/
def State.answerExtent (s : State) (base : Nat) (released : Bool) : State :=
  { s with rep := { s.rep with msgs := s.rep.msgs ++ [.extentAnswer base released] } }

section
variable {e : Extent} (found : (s.fab.extents.find? fun e => e.base == base) = some e)
include found

/-- The first request for an extent goes to the host driver. -/
theorem execExtentReleaseRequest_first (untold : s.fab.releasing.contains base = false) :
    execExtentReleaseRequest base s = .next ((State.answerTo { s with fab := { s.fab with releasing := s.fab.releasing ++ [base] } }
      "EXTENT_RELEASE" (natLe 8 e.base ++ natLe 8 e.len)).answerExtent base false) := by
  simp only [execExtentReleaseRequest, found, untold, Bool.false_and, Bool.false_eq_true, if_false]
  rfl

theorem execExtentReleaseRequest_used (told : s.fab.releasing.contains base = true) (used : s.extentUsed e.base e.len = true) :
    execExtentReleaseRequest base s = .next (s.answerExtent base false) := by
  simp only [execExtentReleaseRequest, found, told, used, Bool.not_true, Bool.and_false, Bool.false_eq_true, if_false, if_true]
  rfl

/-- With no mapping left, the extent goes. -/
theorem execExtentReleaseRequest_unused (told : s.fab.releasing.contains base = true) (unused : s.extentUsed e.base e.len = false) :
    execExtentReleaseRequest base s = .next (State.answerExtent { s with fab := { s.fab with
      extents := s.fab.extents.filter fun x => x.base != base
      releasing := s.fab.releasing.filter fun x => x != base } } base true) := by
  simp only [execExtentReleaseRequest, found, told, unused, Bool.not_false, Bool.and_true, if_true]
  rfl

end

end Sys2Proof.Machine
end

section
/-! SUPPORT. Flits that arrive on a tie link that is up (19/R415). -/

namespace Sys2Proof.Machine

variable {s : State} {n ty : Nat} {f : List Byte} {k : State → State}
  (known : n < 12) (up : (s.link n).up = true) (whole : f.length = 256)
include up whole

/-- Another flit than the expected one is discarded. -/
theorem State.flit_other (other : natAt f 2 2 ≠ (s.link n).next) : s.flit n ty f k = s := by
  simp [State.flit, up, whole, other]

include known

/-- The expected flit, with a good CRC, is taken. -/
theorem State.flit_expected (intact : natAt f 248 8 = (crc64 (f.take 248)).toNat) (expected : natAt f 2 2 = (s.link n).next)
    (type : natAt f 0 1 = ty) (channel : natAt f 1 1 ≤ 3) :
    s.flit n ty f k = k (s.putLink { s.link n with next := ((s.link n).next + 1) % 65536, fails := 0 }) := by
  simp [State.flit, Nat.not_le.mpr known, up, whole, intact, expected, type, Nat.not_lt.mpr channel]

/-- A failure of the expected flit counts, and the ninth in a row takes the link down. -/
theorem State.flit_fails (broken : natAt f 248 8 ≠ (crc64 (f.take 248)).toNat) (expected : natAt f 2 2 = (s.link n).next) :
    s.flit n ty f k = if (s.link n).fails < 8 then s.putLink { s.link n with fails := (s.link n).fails + 1 }
      else (s.putLink { s.link n with fails := (s.link n).fails + 1 }).linkDown n := by
  have ninth : 9 ≤ (s.link n).fails + 1 ↔ ¬ (s.link n).fails < 8 := by omega
  simp only [State.flit, Nat.not_le.mpr known, up, whole, expected, ninth, bne_iff_ne.mpr broken, ite_not, decide_false,
    Bool.not_true, bne_self_eq_false, Bool.or_self, Bool.false_eq_true, if_false, if_true]

end Sys2Proof.Machine
end

section
/-! SUPPORT. Rounds of a reduction group (19/R419, R420): what a round takes, how it ends or is discarded, and its value. -/

namespace Sys2Proof.Machine

/-- A round takes no more than it has room for. -/
theorem takeRound_sum_le (n : Nat) (cs : List Contrib) : (((takeRound n cs).1.map fun c => c.n).sum) ≤ n := by
  induction cs generalizing n with
  | nil => simp [takeRound]
  | cons c cs ih =>
    unfold takeRound
    split
    case isTrue fits =>
      have rest := ih (n - c.n)
      simp only [List.map_cons, List.sum_cons]
      omega
    case isFalse => exact ih n

/-- A round with room for all takes all. -/
theorem takeRound_all (n : Nat) (cs : List Contrib) (room : (cs.map fun c => c.n).sum ≤ n) : takeRound n cs = (cs, []) := by
  induction cs generalizing n with
  | nil => rfl
  | cons c cs ih =>
    rw [List.map_cons, List.sum_cons] at room
    have fits : c.n ≤ n := by omega
    simp [takeRound, fits, ih (n - c.n) (by omega)]

/-- A contribution is taken or waits. -/
theorem takeRound_length (n : Nat) (cs : List Contrib) : (takeRound n cs).1.length + (takeRound n cs).2.length = cs.length := by
  induction cs generalizing n with
  | nil => rfl
  | cons c cs ih =>
    unfold takeRound
    split
    case isTrue =>
      have rest := ih (n - c.n)
      simp only [List.length_cons]
      omega
    case isFalse =>
      have rest := ih n
      simp only [List.length_cons]
      omega

/-- An integer sum wraps, in whatever order it is formed (03/R70). -/
theorem roundElem_intSum (cs : List Contrib) {ty : Nat} (rm j : Nat) (int : fmtOf ty = none) :
    roundElem cs 0 ty rm j = (((cs.filterMap fun c => (c.elem j).map leNat).sum) % 2 ^ 32, 0) := by
  simp [roundElem, int, List.map_filterMap, Function.comp_def]

variable {s : State} {gid : Word} {g : GroupRec}

/-- A group record within the limits of 19/R418 replaces the one of its number. -/
theorem execReductionGroupInstall_valid (some : 0 < g.ncont) (most : g.ncont ≤ 4096) (op : g.op.toNat ≤ 2) :
    execReductionGroupInstall g s = .next { s with fab := { s.fab with
      groups := g :: s.fab.groups.filter fun x => x.gid != g.gid } } := by
  simp [execReductionGroupInstall, some.ne', Nat.not_lt.mpr most, Nat.not_lt.mpr op]

theorem State.round_congr {t : State} (fab : t.fab = s.fab) (gid : Word) : t.round gid = s.round gid := by
  simp only [State.round, State.group?, fab]

/-- What waited for the next round stays. -/
theorem State.endRound_contribs (s : State) (gid : Word) :
    (s.endRound gid).fab.contribs = (s.fab.contribs.filter fun c => c.gid != gid) ++ (s.round gid).2 := rfl

/-- The end of a round advances the group's EPOCH. -/
theorem State.endRound_group (found : s.group? gid = some g) :
    (s.endRound gid).group? gid = some { g with epoch := g.epoch + 1 } := by
  have isGroup : g.gid = gid := by simpa using List.find?_some found
  have sameGroups : ((fun x : GroupRec => x.gid == gid) ∘ fun x => if x.gid == gid then { x with epoch := x.epoch + 1 } else x) =
      fun x => x.gid == gid := by
    funext x
    simp only [Function.comp_apply]
    split <;> rfl
  change (s.fab.groups.map _).find? _ = _
  rw [List.find?_map, sameGroups, show s.fab.groups.find? _ = some g from found]
  simp [isGroup]

/-- A discarded round ends after its root operation, where it has one, is made to fail. -/
theorem State.abortGroup_endRound (found : s.group? gid = some g) :
    ∃ t : State, s.abortGroup gid = t.endRound gid ∧ t.fab = s.fab ∧ t.mm = s.mm ∧ t.sheaves = s.sheaves := by
  simp only [State.abortGroup, found]
  refine ⟨_, rfl, ?_⟩
  split <;> exact ⟨rfl, rfl, rfl⟩

section
variable (found : s.group? gid = some g)
include found

theorem execReductionRoundClose_open (unfilled : s.heldCount gid ≠ g.ncont) : execReductionRoundClose gid s = .next s := by
  simp [execReductionRoundClose, found, unfilled]

variable (full : s.heldCount gid = g.ncont)
include full

/-- A full round of another device's group is sent on. -/
theorem execReductionRoundClose_sentOn (elsewhere : g.rootDev ≠ s.fab.self) :
    execReductionRoundClose gid s = .next (s.passRound gid) := by
  simp [execReductionRoundClose, found, full, elsewhere]

/-- Whether a contribution's shape, operator or format differs from the group's record (19/R420). -/
def Contrib.differs (g : GroupRec) (c : Contrib) : Bool :=
  c.rows != g.rows || c.cols != g.cols || c.kind.toNat != g.op.toNat || c.ty != g.ty

variable {o : Op} (root : g.rootDev = s.fab.self) (isOp : (s.held gid).findSome? (·.op) = some o.id) (there : s.op? o.id = some o)
  (live : o.live = true) (awake : o.resting = false) (going : o.susp = false) (waits : o.rp = 1)
include root isOp there live awake going waits

/-- A full round at its root: the root fails over a contribution that differs, or takes the round. -/
theorem execReductionRoundClose_root : execReductionRoundClose gid s = .next (if (s.held gid).any (Contrib.differs g) then
    (s.modOp o.id fun x => { x.fail 7 0x12 0 with trunc := true }).endRound gid else s.captureRound o g) := by
  simp [execReductionRoundClose, found, full, root, isOp, there, live, awake, going, waits, Contrib.differs]

theorem execReductionRoundClose_alike
    (alike : ∀ x ∈ s.held gid, x.rows = g.rows ∧ x.cols = g.cols ∧ x.kind.toNat = g.op.toNat ∧ x.ty = g.ty) :
    execReductionRoundClose gid s = .next (s.captureRound o g) := by
  have same : ¬ (s.held gid).any (Contrib.differs g) = true := by
    rw [Bool.not_eq_true, List.any_eq_false]
    intro x isHeld
    obtain ⟨rows, cols, kind, ty⟩ := alike x isHeld
    simp [Contrib.differs, rows, cols, kind, ty]
  rw [execReductionRoundClose_root found full root isOp there live awake going waits, if_neg same]

theorem execReductionRoundClose_differing {c : Contrib} (isHeld : c ∈ s.held gid)
    (differs : c.rows ≠ g.rows ∨ c.cols ≠ g.cols ∨ c.kind.toNat ≠ g.op.toNat ∨ c.ty ≠ g.ty) :
    execReductionRoundClose gid s = .next ((s.modOp o.id fun x => { x.fail 7 0x12 0 with trunc := true }).endRound gid) := by
  have other : (s.held gid).any (Contrib.differs g) = true :=
    List.any_eq_true.mpr ⟨c, isHeld, by simpa [Contrib.differs, or_assoc] using differs⟩
  rw [execReductionRoundClose_root found full root isOp there live awake going waits, if_pos other]

end

end Sys2Proof.Machine
end

section
/-! SUPPORT. A tie link that goes down (19/R415, R420). -/

namespace Sys2Proof.Machine

variable {s : State} {n : Nat}

theorem State.link_num (s : State) (n : Nat) : (s.link n).num = n := by
  unfold State.link
  cases found : s.fab.links.find? fun l => l.num == n with
  | none => rfl
  | some l => simpa using List.find?_some found

theorem State.linkUp_putLink_same (s : State) (l : Link) : (s.putLink l).linkUp l.num = l.up := by
  simp [State.linkUp, State.putLink]

theorem State.linkUp_putLink_other (s : State) {l : Link} {m : Nat} (other : m ≠ l.num) : (s.putLink l).linkUp m = s.linkUp m := by
  have kept : ((s.fab.links.filter fun x => x.num != l.num).find? fun x => x.num == m) = s.fab.links.find? fun x => x.num == m := by
    rw [List.find?_filter]
    congr 1
    funext x
    by_cases same : x.num = m
    · simp [same, other]
    · simp [same]
  simp only [State.linkUp, State.putLink, List.find?_cons, beq_false_of_ne other.symm, kept]

/-- A link is marked as down, and LINKDOWN is sent. -/
def State.linkLost (s : State) (n : Nat) : State :=
  (s.putLink { s.link n with up := false }).event 0xA (some (n / 3)) none none (some (BitVec.ofNat 64 n))

theorem State.linkUp_linkLost_same (s : State) (n : Nat) : (s.linkLost n).linkUp n = false := by
  have put := s.linkUp_putLink_same { s.link n with up := false }
  rwa [s.link_num n] at put

theorem State.linkUp_linkLost_other (s : State) {n m : Nat} (other : m ≠ n) : (s.linkLost n).linkUp m = s.linkUp m :=
  s.linkUp_putLink_other (l := { s.link n with up := false }) (by rwa [s.link_num n])

/-- A remote operation fails where no link leads to its device. -/
def State.failCut (s : State) (o : Op) : State :=
  match o.farEnd with
  | some (dev, base) => if s.linkTo dev then s else s.failOp o.id 5 6 (BitVec.ofNat 64 base)
  | none => s

theorem State.failCut_linked {o : Op} (linked : ∀ dev base, o.farEnd = some (dev, base) → s.linkTo dev = true) : s.failCut o = s := by
  unfold State.failCut
  split
  · next target => rw [if_pos (linked _ _ target)]
  · rfl

theorem State.failCut_cut {o : Op} {dev base : Nat} (target : o.farEnd = some (dev, base)) (cut : s.linkTo dev = false) :
    s.failCut o = s.failOp o.id 5 6 (BitVec.ofNat 64 base) := by
  simp [State.failCut, target, cut]

theorem State.failCut_fab (s : State) (o : Op) : (s.failCut o).fab = s.fab := by
  unfold State.failCut
  split
  · split <;> rfl
  · rfl

/-- What steps keep, their fold keeps. -/
theorem foldl_keeps {α β : Type} {keep : State → β} {f : State → α → State} (step : ∀ t x, keep (f t x) = keep t) (l : List α)
    (s : State) : keep (l.foldl f s) = keep s := by
  induction l generalizing s with
  | nil => rfl
  | cons x l ih => exact (ih (f s x)).trans (step s x)

/-- The link is lost, and the remote operations that it cuts off have failed. -/
def State.cutOff (s : State) (n : Nat) : State := (s.eng.ops.filter Op.remote).foldl State.failCut (s.linkLost n)

theorem State.cutOff_fab (s : State) (n : Nat) : (s.cutOff n).fab = (s.linkLost n).fab :=
  foldl_keeps (keep := State.fab) State.failCut_fab _ _

/-- After the operations, the open rounds fail that have the link on their tree. -/
theorem State.linkDown_up (known : n < 12) (up : s.linkUp n = true) :
    s.linkDown n = (s.fab.groups.filter fun g => Config.onTree g.gid n).foldl (fun t g => t.abortGroup g.gid) (s.cutOff n) := by
  have groups : (s.cutOff n).fab.groups = (s.linkLost n).fab.groups := congrArg FabSys.groups (s.cutOff_fab n)
  change _ = ((s.linkLost n).fab.groups.filter _).foldl _ _
  rw [← groups]
  simp only [State.linkDown, Nat.not_le.mpr known, up, decide_false, Bool.not_true, Bool.or_self, Bool.false_eq_true, if_false]
  rfl

/-- What the failures after the loss of a link leave as it is: the links, the memories and the sheaves. -/
def State.spared (s : State) : List Link × MemSys × List Sheaf := (s.fab.links, s.mm, s.sheaves)

theorem State.failCut_spared (s : State) (o : Op) : (s.failCut o).spared = s.spared := by
  unfold State.failCut
  split
  · split <;> rfl
  · rfl

theorem State.abortGroup_spared (s : State) (gid : Word) : (s.abortGroup gid).spared = s.spared := by
  cases found : s.group? gid with
  | none => simp only [State.abortGroup, found]
  | some g =>
    obtain ⟨t, ended, fab, mm, sheaves⟩ := State.abortGroup_endRound found
    rw [ended]
    change (t.fab.links, t.mm, t.sheaves) = _
    rw [fab, mm, sheaves]
    rfl

theorem State.linkDown_spared (known : n < 12) (up : s.linkUp n = true) : (s.linkDown n).spared = (s.linkLost n).spared := by
  rw [State.linkDown_up known up]
  exact (foldl_keeps (fun t (g : GroupRec) => t.abortGroup_spared g.gid) _ _).trans (foldl_keeps State.failCut_spared _ _)

section
variable (known : n < 12) (up : s.linkUp n = true) (untreed : ∀ g ∈ s.fab.groups, Config.onTree g.gid n = false)
include known up untreed

/-- A link on no group's tree ends no round. -/
theorem State.linkDown_untreed : s.linkDown n = s.cutOff n := by
  have none : s.fab.groups.filter (fun g => Config.onTree g.gid n) = [] := by simpa using untreed
  rw [State.linkDown_up known up, none, List.foldl_nil]

/-- With a link left to the device of every remote operation, none fails. -/
theorem State.linkDown_linked (linked : ∀ o ∈ s.eng.ops, o.remote = true → ∀ dev base, o.farEnd = some (dev, base) →
    (s.linkLost n).linkTo dev = true) : s.linkDown n = s.linkLost n := by
  rw [State.linkDown_untreed known up untreed, State.cutOff]
  refine List.foldlRecOn (motive := (· = s.linkLost n)) _ _ rfl ?_
  rintro _ rfl o running
  obtain ⟨isOp, remote⟩ := List.mem_filter.mp running
  exact State.failCut_linked (linked o isOp remote)

/-- The one remote operation fails where the last link to its device goes down. -/
theorem State.linkDown_cut {o : Op} {dev base : Nat} (only : s.eng.ops.filter Op.remote = [o])
    (target : o.farEnd = some (dev, base)) (cut : (s.linkLost n).linkTo dev = false) :
    s.linkDown n = (s.linkLost n).failOp o.id 5 6 (BitVec.ofNat 64 base) := by
  rw [State.linkDown_untreed known up untreed, State.cutOff, only]
  exact State.failCut_cut target cut

end

end Sys2Proof.Machine
end

section
/-! SUPPORT. Remote accesses (19/R417), and the bytes of BAR0 as a host reads them (19/R405, R406; 20/R425). -/

namespace Sys2Proof.Machine

variable {s : State}

/-- A write of another device is performed at its home, and no core's copy is meant by it. -/
theorem State.farAccess_write {s1 : State} {ctx va : Nat} {bs : List Byte} {h : Home} (inLine : va % 128 + bs.length ≤ 128)
    (home : s.homeOf ctx va .write = (s1, .ok h)) :
    s.farAccess (.remoteWrite ctx va bs) = (s1.homeWrite ctx nCores 0 h (va % 128) bs).1 := by
  simp only [State.farAccess, inLine, if_true, home]
  rfl

/-- An acknowledged unit of a copy to another device is written. -/
theorem execRemoteWriteAck_unit {id n v m : Nat} {o : Op} {h : Sheaf} {q : Shape} {f : Flags} (runs : opRuns s id o h)
    (fine : o.failed = false) (new : o.done.contains n = false) (unit : (s.units o h).contains n = true) (shape : o.shape = some q)
    (far : q.dst.sp = 3) (sector : o.sector q (s.limOf h q.src) n = some (v, m, f)) :
    execRemoteWriteAck id n s = .next (s.unitDone id n f (m == 0)) := by
  rw [execRemoteWriteAck, State.withOp_runs runs]
  simp only [fine, new, unit, shape, far, sector, Bool.not_true, Bool.or_self, Bool.false_eq_true, if_false, beq_self_eq_true, if_true]

variable {fn off : Nat} {b : Byte}

theorem State.barByte_health {k : Nat} (byte : k < 4) : s.barByte 0 (0x1000 + k) b = byteOf s.health k := by
  have below : 0x1000 + k < 0x1004 := by omega
  simp [State.barByte, below]

/-- The command port and the health register are the physical function's alone. -/
theorem State.barByte_virtual (virtual : fn ≠ 0) (low : off < 0x1004) : s.barByte fn off b = 0 := by
  simp [State.barByte, virtual, low]

section
variable (high : 0x1004 ≤ off)
include high

theorem State.barByte_outside (outside : s.barPos fn off 1 = none) : s.barByte fn off b = 0 := by
  have above : ¬ off < 0x1000 ∧ ¬ off < 0x1004 := by omega
  simp [State.barByte, above, outside]

/-- A byte of a window, off every mailbox, is slice memory's. -/
theorem State.barByte_window {c p : Nat} (window : s.barPos fn off 1 = some (c, p)) (apart : s.mbxOver p = none)
    (good : s.slmBad p 1 = false) : s.barByte fn off b = s.mm.slm.get p := by
  have above : ¬ off < 0x1000 ∧ ¬ off < 0x1004 := by omega
  simp [State.barByte, above, window, apart, good]

end

end Sys2Proof.Machine
end

section
open Sys2Proof Sys2Proof.Machine

/-- Settles O53: an extent by whether it was asked back before, a flit by its CRC and its sequence number, a lost link by what it
leads to, a round by what has arrived for its group. -/
theorem poolAndFabric : Obligations.PoolAndFabric := by
  refine ⟨fun s base len port aligned whole some reached room total apart =>
      ⟨_, execExtentAdd_apart aligned whole some reached room total apart, rfl, rfl, rfl⟩,
    fun s base e found => ?release, fun s ctx rdev rctx => rfl, fun s g some most op => execReductionGroupInstall_valid some most op,
    fun s n ty f k known up whole => ⟨State.flit_expected known up whole, State.flit_fails known up whole, State.flit_other up whole⟩,
    fun s n f c => ⟨rfl, rfl, rfl, rfl, rfl⟩, fun s s1 ctx va bs h inLine home => State.farAccess_write inLine home,
    fun s n known up => ?lost,
    fun s id n o h q v m f runs fine new unit shape far sector => execRemoteWriteAck_unit runs fine new unit shape far sector,
    fun s gid g found => ⟨execReductionRoundClose_open found, execReductionRoundClose_sentOn found⟩,
    fun s gid g o c found full root isOp there live awake going waits isHeld =>
      ⟨execReductionRoundClose_alike found full root isOp there live awake going waits,
        execReductionRoundClose_differing found full root isOp there live awake going waits isHeld⟩,
    fun s gid g found => ?aborted,
    fun n cs _ => ⟨takeRound_sum_le n cs, takeRound_all n cs, takeRound_length n cs⟩,
    fun cs ty rm j int => roundElem_intSum cs rm j int,
    fun s k fn off b => ⟨State.barByte_health, State.barByte_virtual, State.barByte_outside,
      fun c p high window apart good => State.barByte_window high window apart good⟩, ?crc⟩
  case release =>
    cases told : s.fab.releasing.contains base with
    | false => exact ⟨_, execExtentReleaseRequest_first found told, fun _ => ⟨rfl, rfl, rfl⟩, nofun, nofun, rfl⟩
    | true =>
      cases used : s.extentUsed e.base e.len with
      | false => exact ⟨_, execExtentReleaseRequest_unused found told used, nofun, nofun, fun _ _ => rfl, rfl⟩
      | true => exact ⟨_, execExtentReleaseRequest_used found told used, nofun, fun _ _ => rfl, nofun, rfl⟩
  case lost =>
    have spared := State.linkDown_spared known up
    simp only [State.spared, Prod.mk.injEq] at spared
    obtain ⟨links, mm, sheaves⟩ := spared
    exact ⟨s.linkUp_linkLost_same n, fun m other => s.linkUp_linkLost_other other, _, rfl, links, mm, sheaves, fun untreed =>
      ⟨State.linkDown_linked known up untreed, fun o dev base only target cut => State.linkDown_cut known up untreed only target cut⟩⟩
  case aborted =>
    obtain ⟨t, ended, fab, mm, sheaves⟩ := State.abortGroup_endRound found
    have same : t.group? gid = some g := by rw [State.group?, fab]; exact found
    refine ⟨t.endRound gid, congrArg Host.Outcome.next ended, ?_, ?_, mm, sheaves⟩
    · rw [State.endRound_contribs, State.round_congr fab, fab]
    · rw [State.endRound_group same, Option.map_some]
  case crc => decide +kernel
end

section
/-! SUPPORT. Identity and attestation (20/R435, R436): the request for a single measurement block. -/

namespace Sys2Proof.Machine

/-- R436. Index 0xFF asks for all the blocks; every other index asks for its own block, signed alone. -/
theorem execGetMeasurements_block {k : Nat} (s : State) (single : k ≠ 0xFF) :
    execGetMeasurements k s =
      .next (s.answerTo "MEASUREMENTS" (s.measurement k ++ identitySign (sha512 (s.measurement k)))) := by
  have notAll : (k == 0xFF) = false := beq_false_of_ne single
  simp only [execGetMeasurements, notAll, Bool.false_eq_true, if_false]

end Sys2Proof.Machine
end

section
open Sys2Proof Sys2Proof.Machine

/-- Settles O54, request by request: an identity request is its answer by definition, and a request for measurements turns on
whether it asks for a single block. -/
theorem managementAnswers : Obligations.ManagementAnswers := by
  refine ⟨?requests, ?challenge, fun s k single => ?measurements, ?blocks, ?appended⟩
  case requests => exact fun s => ⟨rfl, rfl, rfl, rfl, rfl⟩
  case challenge => exact fun s nonce => rfl
  case measurements => exact execGetMeasurements_block s single
  case blocks => exact fun s => ⟨rfl, rfl, rfl, rfl, rfl⟩
  case appended => exact fun s kind bytes => rfl
end

section
/-! SUPPORT. Decoding what is encoded, for every instruction: its own lemma for a word; a step of the device has none. -/

namespace Sys2Proof.Laws

/-- FUN, whose name is a keyword of Lean and so names no case of a split, or a step of the device. -/
def funOrStep : Instr → Bool
  | .fun _ => true
  | i => Machine.isStep i

theorem roundTrip_funOrStep {i : Instr} (is : funOrStep i = true) : RoundTrip.Statement i := by
  unfold funOrStep at is
  split at is
  · exact RoundTrip.fun _
  · exact fun word => absurd (word.symm.trans is) Bool.false_ne_true

/-- Every word is read back. -/
theorem roundTrip (i : Instr) : RoundTrip.Statement i := by
  cases i with
  | nop => exact RoundTrip.nop | exit => exact RoundTrip.exit | trap _ => exact RoundTrip.trap _
  | brk _ => exact RoundTrip.brk _ | safe _ => exact RoundTrip.safe _ | yld => exact RoundTrip.yld
  | sleep _ => exact RoundTrip.sleep _ | eret => exact RoundTrip.eret | ifence => exact RoundTrip.ifence
  | bru _ _ => exact RoundTrip.bru _ _ | brd _ => exact RoundTrip.brd _ | rcv _ => exact RoundTrip.rcv _
  | call _ => exact RoundTrip.call _ | callx _ => exact RoundTrip.callx _ | ret _ => exact RoundTrip.ret _
  | jtab _ => exact RoundTrip.jtab _ | saluAdd _ => exact RoundTrip.saluAdd _ | saluSub _ => exact RoundTrip.saluSub _
  | saluMul _ => exact RoundTrip.saluMul _ | saluMulh _ => exact RoundTrip.saluMulh _
  | saluMulhn _ => exact RoundTrip.saluMulhn _ | saluAnd _ => exact RoundTrip.saluAnd _
  | saluOr _ => exact RoundTrip.saluOr _ | saluXor _ => exact RoundTrip.saluXor _ | andn _ => exact RoundTrip.andn _
  | saluShl _ => exact RoundTrip.saluShl _ | saluShr _ => exact RoundTrip.saluShr _ | saluSar _ => exact RoundTrip.saluSar _
  | rotl _ => exact RoundTrip.rotl _ | saluMin _ => exact RoundTrip.saluMin _ | saluMax _ => exact RoundTrip.saluMax _
  | minn _ => exact RoundTrip.minn _ | maxn _ => exact RoundTrip.maxn _ | slt _ => exact RoundTrip.slt _
  | sltn _ => exact RoundTrip.sltn _ | seq _ => exact RoundTrip.seq _ | saluSel _ => exact RoundTrip.saluSel _
  | clz _ => exact RoundTrip.clz _ | popc _ => exact RoundTrip.popc _ | brev _ => exact RoundTrip.brev _
  | add64 _ => exact RoundTrip.add64 _ | sub64 _ => exact RoundTrip.sub64 _ | shl64 _ => exact RoundTrip.shl64 _
  | shr64 _ => exact RoundTrip.shr64 _ | saluiAddi _ => exact RoundTrip.saluiAddi _
  | saluiAndi _ => exact RoundTrip.saluiAndi _ | saluiOri _ => exact RoundTrip.saluiOri _
  | saluiXori _ => exact RoundTrip.saluiXori _ | saluiShli _ => exact RoundTrip.saluiShli _
  | saluiShri _ => exact RoundTrip.saluiShri _ | saluiSari _ => exact RoundTrip.saluiSari _
  | saluiMovi _ => exact RoundTrip.saluiMovi _ | saluiMovhi _ => exact RoundTrip.saluiMovhi _
  | slti _ => exact RoundTrip.slti _ | vintAdd _ => exact RoundTrip.vintAdd _ | vintSub _ => exact RoundTrip.vintSub _
  | addc _ => exact RoundTrip.addc _ | subb _ => exact RoundTrip.subb _ | vintMul _ => exact RoundTrip.vintMul _
  | vintMulh _ => exact RoundTrip.vintMulh _ | vintMulhn _ => exact RoundTrip.vintMulhn _ | mad _ => exact RoundTrip.mad _
  | vintAnd _ => exact RoundTrip.vintAnd _ | vintOr _ => exact RoundTrip.vintOr _ | vintXor _ => exact RoundTrip.vintXor _
  | vintShl _ => exact RoundTrip.vintShl _ | vintShr _ => exact RoundTrip.vintShr _ | vintSar _ => exact RoundTrip.vintSar _
  | vintMin _ => exact RoundTrip.vintMin _ | vintMax _ => exact RoundTrip.vintMax _
  | vintiAddi _ => exact RoundTrip.vintiAddi _ | vintiAndi _ => exact RoundTrip.vintiAndi _
  | vintiOri _ => exact RoundTrip.vintiOri _ | vintiXori _ => exact RoundTrip.vintiXori _
  | vintiShli _ => exact RoundTrip.vintiShli _ | vintiShri _ => exact RoundTrip.vintiShri _
  | vintiSari _ => exact RoundTrip.vintiSari _ | muli _ => exact RoundTrip.muli _ | fadd _ => exact RoundTrip.fadd _
  | fsub _ => exact RoundTrip.fsub _ | fmul _ => exact RoundTrip.fmul _ | fmin _ => exact RoundTrip.fmin _
  | fmax _ => exact RoundTrip.fmax _ | fminm _ => exact RoundTrip.fminm _ | fmaxm _ => exact RoundTrip.fmaxm _
  | fcps _ => exact RoundTrip.fcps _ | fflr _ => exact RoundTrip.fflr _ | fceil _ => exact RoundTrip.fceil _
  | frne _ => exact RoundTrip.frne _ | ftrn _ => exact RoundTrip.ftrn _ | fabs _ => exact RoundTrip.fabs _
  | fneg _ => exact RoundTrip.fneg _ | fsat _ => exact RoundTrip.fsat _ | fscl _ => exact RoundTrip.fscl _
  | fma _ => exact RoundTrip.fma _ | fms _ => exact RoundTrip.fms _ | fnma _ => exact RoundTrip.fnma _
  | fnms _ => exact RoundTrip.fnms _ | hfma2 _ => exact RoundTrip.hfma2 _ | bfma2 _ => exact RoundTrip.bfma2 _
  | dot4e4 _ => exact RoundTrip.dot4e4 _ | dot4e5 _ => exact RoundTrip.dot4e5 _ | dot4i _ => exact RoundTrip.dot4i _
  | dot2h _ => exact RoundTrip.dot2h _ | cvtf _ => exact RoundTrip.cvtf _ | cvti _ => exact RoundTrip.cvti _
  | cvtp _ => exact RoundTrip.cvtp _ | expn _ => exact RoundTrip.expn _ | lutx _ => exact RoundTrip.lutx _
  | mxsc _ => exact RoundTrip.mxsc _ | feq _ => exact RoundTrip.feq _ | fne _ => exact RoundTrip.fne _
  | flt _ => exact RoundTrip.flt _ | fle _ => exact RoundTrip.fle _
  | fcls _ => exact RoundTrip.fcls _ | ieq _ => exact RoundTrip.ieq _ | ine _ => exact RoundTrip.ine _
  | ilt _ => exact RoundTrip.ilt _ | ile _ => exact RoundTrip.ile _ | iltn _ => exact RoundTrip.iltn _
  | ilen _ => exact RoundTrip.ilen _ | kand _ => exact RoundTrip.kand _ | kor _ => exact RoundTrip.kor _
  | kxor _ => exact RoundTrip.kxor _ | kandn _ => exact RoundTrip.kandn _ | knot _ => exact RoundTrip.knot _
  | kmov _ => exact RoundTrip.kmov _ | kset _ => exact RoundTrip.kset _ | kcnt _ => exact RoundTrip.kcnt _
  | kfirst _ => exact RoundTrip.kfirst _ | kall _ => exact RoundTrip.kall _ | kany _ => exact RoundTrip.kany _
  | mov _ => exact RoundTrip.mov _ | vmovSel _ => exact RoundTrip.vmovSel _ | shfl _ => exact RoundTrip.shfl _
  | shflx _ => exact RoundTrip.shflx _ | shflup _ => exact RoundTrip.shflup _ | shfldn _ => exact RoundTrip.shfldn _
  | rdfl _ => exact RoundTrip.rdfl _ | rdln _ => exact RoundTrip.rdln _ | bcst _ => exact RoundTrip.bcst _
  | lid _ => exact RoundTrip.lid _ | lpos _ => exact RoundTrip.lpos _ | exp2 _ => exact RoundTrip.exp2 _
  | log2 _ => exact RoundTrip.log2 _ | rcp _ => exact RoundTrip.rcp _ | rsq _ => exact RoundTrip.rsq _
  | sqrt _ => exact RoundTrip.sqrt _ | sin2pi _ => exact RoundTrip.sin2pi _ | cos2pi _ => exact RoundTrip.cos2pi _
  | tanh _ => exact RoundTrip.tanh _ | vriMovi _ => exact RoundTrip.vriMovi _ | vriMovhi _ => exact RoundTrip.vriMovhi _
  | addi16 _ => exact RoundTrip.addi16 _ | aadd _ => exact RoundTrip.aadd _ | amin _ => exact RoundTrip.amin _
  | amax _ => exact RoundTrip.amax _ | aminn _ => exact RoundTrip.aminn _ | amaxn _ => exact RoundTrip.amaxn _
  | aand _ => exact RoundTrip.aand _ | aor _ => exact RoundTrip.aor _ | axor _ => exact RoundTrip.axor _
  | axchg _ => exact RoundTrip.axchg _ | acas _ => exact RoundTrip.acas _ | afadd _ => exact RoundTrip.afadd _
  | abfadd2 _ => exact RoundTrip.abfadd2 _ | ldls _ => exact RoundTrip.ldls _ | ldlv _ => exact RoundTrip.ldlv _
  | ldl64 _ => exact RoundTrip.ldl64 _ | lg2s _ => exact RoundTrip.lg2s _ | ls2g _ => exact RoundTrip.ls2g _
  | bulk _ => exact RoundTrip.bulk _ | mcast _ => exact RoundTrip.mcast _ | dec _ => exact RoundTrip.dec _
  | peer _ => exact RoundTrip.peer _ | dscd _ => exact RoundTrip.dscd _ | pref _ => exact RoundTrip.pref _
  | red _ => exact RoundTrip.red _ | mma _ => exact RoundTrip.mma _ | mmaz _ => exact RoundTrip.mmaz _
  | mmld _ => exact RoundTrip.mmld _ | mmst _ => exact RoundTrip.mmst _ | mmcl _ => exact RoundTrip.mmcl _
  | mmcv _ => exact RoundTrip.mmcv _ | mmsp _ => exact RoundTrip.mmsp _ | spcmp _ => exact RoundTrip.spcmp _
  | pcomp _ => exact RoundTrip.pcomp _ | pinv _ => exact RoundTrip.pinv _ | nnz _ => exact RoundTrip.nnz _
  | wnw _ => exact RoundTrip.wnw _ | wnf _ => exact RoundTrip.wnf _ | wnx _ => exact RoundTrip.wnx _
  | fence _ => exact RoundTrip.fence _ | fencesc _ => exact RoundTrip.fencesc _ | ofence _ => exact RoundTrip.ofence _
  | bar _ => exact RoundTrip.bar _ | bara _ => exact RoundTrip.bara _ | barw _ => exact RoundTrip.barw _
  | bart _ => exact RoundTrip.bart _ | txbi _ => exact RoundTrip.txbi _ | txbe _ => exact RoundTrip.txbe _
  | txba _ => exact RoundTrip.txba _ | txbw _ => exact RoundTrip.txbw _ | txbt _ => exact RoundTrip.txbt _
  | waita _ => exact RoundTrip.waita _ | hwait _ => exact RoundTrip.hwait _ | htest _ => exact RoundTrip.htest _
  | hcan _ => exact RoundTrip.hcan _ | hexp _ => exact RoundTrip.hexp _ | himp _ => exact RoundTrip.himp _
  | sjoin _ => exact RoundTrip.sjoin _ | sleave _ => exact RoundTrip.sleave _ | sinfo _ => exact RoundTrip.sinfo _
  | ssub _ => exact RoundTrip.ssub _ | sunsub _ => exact RoundTrip.sunsub _ | ssync _ => exact RoundTrip.ssync _
  | nbeg _ => exact RoundTrip.nbeg _ | nxt _ => exact RoundTrip.nxt _ | nidx _ => exact RoundTrip.nidx _
  | nbar _ => exact RoundTrip.nbar _ | nred _ => exact RoundTrip.nred _ | nbc _ => exact RoundTrip.nbc _
  | nmap _ => exact RoundTrip.nmap _ | nllm _ => exact RoundTrip.nllm _ | spawn _ => exact RoundTrip.spawn _
  | launch _ => exact RoundTrip.launch _ | tdone _ => exact RoundTrip.tdone _ | csrr _ => exact RoundTrip.csrr _
  | csrw _ => exact RoundTrip.csrw _ | csrs _ => exact RoundTrip.csrs _ | csrc _ => exact RoundTrip.csrc _
  | mpost _ => exact RoundTrip.mpost _ | mtake _ => exact RoundTrip.mtake _ | mpeek _ => exact RoundTrip.mpeek _
  | ld _ _ => exact RoundTrip.ld _ _ | ldu _ _ => exact RoundTrip.ldu _ _ | st _ _ => exact RoundTrip.st _ _
  | stu _ _ => exact RoundTrip.stu _ _ | lds _ _ => exact RoundTrip.lds _ _ | sts _ _ => exact RoundTrip.sts _ _
  | ximm _ => exact RoundTrip.ximm _ | xreg _ => exact RoundTrip.xreg _ | xprd _ => exact RoundTrip.xprd _
  | xmod _ => exact RoundTrip.xmod _ | xmem _ => exact RoundTrip.xmem _ | xsch _ => exact RoundTrip.xsch _
  | xoff _ => exact RoundTrip.xoff _
  | _ => exact roundTrip_funOrStep rfl

end Sys2Proof.Laws
end

section
open Sys2Proof Sys2Proof.Machine

/-- Settles O57: every word is read back, so a word that two instructions share is read back as both. -/
theorem encodingsDecodeBack : Obligations.EncodingsDecodeBack := by
  refine ⟨Laws.roundTrip, fun i j wi wj fi fj same => ?injective⟩
  case injective =>
    have back : some i = some j := by
      calc some i = decode (encode i) := (Laws.roundTrip i wi fi).symm
        _ = decode (encode j) := by rw [same]
        _ = some j := Laws.roundTrip j wj fj
    exact Option.some.inj back
end

section
/-! SUPPORT. What an instruction is, read off its word: an instruction word goes through `issue`, an extension word through
`extension`, and a step of the device, which has no word, answers a state by its definition (04/R75, R78, R79). -/

namespace Sys2Proof.Machine

/-- A word of another major opcode than that of the extension words. -/
theorem maj_ne_1F {w : Word} {maj : BitVec 5} (is : w.extractLsb' 27 5 = maj) (ne : maj ≠ 0x1F) : w.extractLsb' 27 5 ≠ 0x1F := is ▸ ne

/-- The three kinds of instruction, with what `exec` does for each. The words are listed by their format (04/R76); the goal has
a name so that the case of FUN, a keyword of Lean, has one. -/
theorem exec_kinds (i : Instr) (s : State) :
    ((encode i).extractLsb' 27 5 ≠ 0x1F ∧ ∃ body, exec i s = issue i s body) ∨
    (∃ (k : BitVec 3) (p : BitVec 24), encode i = xwWord k p ∧ k ≠ 7 ∧ exec i s = extension k.toNat p s) ∨
    (isStep i = true ∧ ((∃ w, i = .illegalInstruction w) ∨ ∃ t, exec i s = .next t)) := by
  refine ?kinds
  cases i
  case nop | exit | trap _ | brk _ | safe _ | yld | sleep _ | eret | ifence =>
    exact .inl ⟨maj_ne_1F (Laws.sys_maj _ _) (by decide), _, rfl⟩
  case bru _ o | brd o | rcv o | call o | callx o | ret o | jtab o =>
    exact .inl ⟨maj_ne_1F (Laws.FBR_maj o _ _) (by decide), _, rfl⟩
  case saluAdd o | saluSub o | saluMul o | saluMulh o | saluMulhn o | saluAnd o | saluOr o | saluXor o | andn o | saluShl o
    | saluShr o | saluSar o | rotl o | saluMin o | saluMax o | minn o | maxn o | slt o | sltn o | seq o | saluSel o | clz o
    | popc o | brev o | add64 o | sub64 o | shl64 o | shr64 o | sjoin o | sleave o | sinfo o | ssub o | sunsub o | ssync o
    | mpost o | mtake o | mpeek o =>
    exact .inl ⟨maj_ne_1F (Laws.FS3_maj o _ _) (by decide), _, rfl⟩
  case saluiAddi o | saluiAndi o | saluiOri o | saluiXori o | saluiShli o | saluiShri o | saluiSari o | saluiMovi o
    | saluiMovhi o | slti o =>
    exact .inl ⟨maj_ne_1F (Laws.FSI_maj o _ _) (by decide), _, rfl⟩
  case vintAdd o | vintSub o | addc o | subb o | vintMul o | vintMulh o | vintMulhn o | mad o | vintAnd o | vintOr o | vintXor o
    | vintShl o | vintShr o | vintSar o | vintMin o | vintMax o | fadd o | fsub o | fmul o | fmin o | fmax o | fminm o
    | fmaxm o | fcps o | fflr o | fceil o | frne o | ftrn o | fabs o | fneg o | fsat o | fscl o | fma o | fms o | fnma o
    | fnms o | hfma2 o | bfma2 o | dot4e4 o | dot4e5 o | dot4i o | dot2h o | cvtf o | cvti o | cvtp o | expn o | lutx o
    | mxsc o | feq o | fne o | flt o | fle o | kinds.fun o | fcls o | ieq o | ine o | ilt o | ile o | iltn o | ilen o | kand o
    | kor o | kxor o | kandn o | knot o | kmov o | kset o | kcnt o | kfirst o | kall o | kany o | mov o | vmovSel o | shfl o
    | shflx o | shflup o | shfldn o | rdfl o | rdln o | bcst o | lid o | lpos o | exp2 o | log2 o | rcp o | rsq o | sqrt o
    | sin2pi o | cos2pi o | tanh o | spawn o | launch o | tdone o =>
    exact .inl ⟨maj_ne_1F (Laws.FV3_maj o _ _) (by decide), _, rfl⟩
  case vintiAddi o | vintiAndi o | vintiOri o | vintiXori o | vintiShli o | vintiShri o | vintiSari o | muli o | nbeg o | nxt o
    | nidx o | nbar o | nred o | nbc o | nmap o | nllm o =>
    exact .inl ⟨maj_ne_1F (Laws.FVI_maj o _ _) (by decide), _, rfl⟩
  case vriMovi o | vriMovhi o | addi16 o | ldls o | ldlv o | ldl64 o =>
    exact .inl ⟨maj_ne_1F (Laws.FRI_maj o _ _) (by decide), _, rfl⟩
  case aadd o | amin o | amax o | aminn o | amaxn o | aand o | aor o | axor o | axchg o | acas o | afadd o | abfadd2 o | ld _ o
    | ldu _ o | st _ o | stu _ o | lds _ o | sts _ o =>
    exact .inl ⟨maj_ne_1F (Laws.FM_maj o _ _) (by decide), _, rfl⟩
  case lg2s o | ls2g o | bulk o | mcast o | dec o | peer o | dscd o | pref o | red o | mma o | mmaz o | mmld o | mmst o | mmcl o
    | mmcv o | mmsp o | spcmp o | pcomp o | pinv o | nnz o | wnw o | wnf o | wnx o =>
    exact .inl ⟨maj_ne_1F (Laws.FE_maj o _ _) (by decide), _, rfl⟩
  case fence o | fencesc o | ofence o | bar o | bara o | barw o | bart o | txbi o | txbe o | txba o | txbw o | txbt o | waita o
    | hwait o | htest o | hcan o | hexp o | himp o =>
    exact .inl ⟨maj_ne_1F (Laws.FSY_maj o _ _) (by decide), _, rfl⟩
  case csrr o | csrw o | csrs o | csrc o =>
    exact .inl ⟨maj_ne_1F (Laws.FCSR_maj o _ _) (by decide), _, rfl⟩
  case ximm p | xreg p | xprd p | xmod p | xmem p | xsch p | xoff p =>
    exact .inr (.inl ⟨_, p, rfl, by decide, rfl⟩)
  case illegalInstruction w => exact .inr (.inr ⟨rfl, .inl ⟨w, rfl⟩⟩)
  all_goals exact .inr (.inr ⟨rfl, .inr ⟨_, rfl⟩⟩)

/-- A word of another major opcode than that of the extension words goes through `issue`. -/
theorem exec_issues {i : Instr} (word : (encode i).extractLsb' 27 5 ≠ 0x1F) (s : State) : ∃ body, exec i s = issue i s body := by
  rcases exec_kinds i s with ⟨-, issues⟩ | ⟨k, p, ext, -, -⟩ | ⟨step, -⟩
  · exact issues
  · exact absurd (ext ▸ Laws.xw_maj k p) word
  · have ones : encode i = 0xFFFFFFFF := by simpa [isStep] using step
    exact absurd (by rw [ones]; decide) word

/-- A step of the device answers a state, whatever sheaf is the current one. -/
theorem exec_step {i : Instr} (step : isStep i = true) (legal : ∀ w, i ≠ .illegalInstruction w) (s : State) :
    ∃ t, exec i s = .next t := by
  have ones : encode i = 0xFFFFFFFF := by simpa [isStep] using step
  rcases exec_kinds i s with ⟨word, -⟩ | ⟨k, p, ext, known, -⟩ | ⟨-, ⟨w, illegal⟩ | answers⟩
  · exact absurd (by rw [ones]; decide) word
  · have kind := Laws.xw_kind k p
    rw [← ext, ones] at kind
    exact absurd (kind ▸ by decide) known
  · exact absurd illegal (legal w)
  · exact answers

end Sys2Proof.Machine
end

section
/-! SUPPORT. An extension word joins the chain (04/R79); the least of the causes that decode finds, and two of them (04/R78, R92). -/

namespace Sys2Proof.Machine

variable {s : State} {h : Sheaf}

/-- A sequencer that is left as it is. -/
theorem State.modSeqr_self (s : State) (core : Nat) : (s.modSeqr core fun q => q) = s := by
  simp [State.modSeqr]

/-- Outside sequencer mode an extension word changes its sheaf only. -/
theorem extension_joins (c : s.cur? = some h) (can : s.canIssue h = true) (plain : h.seqr = false) (k : Nat) (p : BitVec 24) :
    extension k p s = .next (s.putSheaf (h.extend k p)) := by
  simp only [extension, c, can, plain, if_true, Bool.false_eq_true, if_false, State.modSeqr_self]

/-- In sequencer mode the sequencer keeps the address of the chain's first microword (04/R106). -/
theorem extension_joins_micro (c : s.cur? = some h) (can : s.canIssue h = true) (micro : h.seqr = true) (k : Nat) (p : BitVec 24) :
    extension k p s = .next ((s.putSheaf (h.extend k p)).modSeqr h.core fun q => { q with chain0 := some (q.chain0.getD q.upc) }) := by
  simp only [extension, c, can, micro, if_true]

/-- Each extension word of the table is `extension` of its kind. -/
theorem exec_extTable {p : Nat × (BitVec 24 → Instr)} (row : p ∈ extTable) (x : BitVec 24) (s : State) :
    exec (p.2 x) s = extension p.1 x s := by
  simp only [extTable, List.mem_cons, List.not_mem_nil, or_false] at row
  rcases row with rfl | rfl | rfl | rfl | rfl | rfl | rfl <;> rfl

/-- The cause reported is one of the causes. -/
theorem leastCause_mem {cs : List Nat} {e : Nat} (found : leastCause cs = some e) : e ∈ cs := by
  induction cs generalizing e with
  | nil => exact nomatch found
  | cons d ds ih =>
    unfold leastCause at found
    cases rest : leastCause ds with
    | none => simp_all
    | some f =>
      have least : min d f = e := by simpa [rest] using found
      rcases min_choice d f with first | later
      · exact List.mem_cons.mpr (.inl (least.symm.trans first))
      · exact List.mem_cons_of_mem d (least.symm.trans later ▸ ih rest)

/-- A cause that no other is below is the one reported. -/
theorem leastCause_eq {cs : List Nat} {c : Nat} (mem : c ∈ cs) (least : ∀ d ∈ cs, c ≤ d) : leastCause cs = some c := by
  induction cs with
  | nil => exact absurd mem List.not_mem_nil
  | cons d ds ih =>
    rw [List.forall_mem_cons] at least
    obtain ⟨first, rest⟩ := least
    unfold leastCause
    by_cases later : c ∈ ds
    · simp [ih later rest, first]
    · obtain rfl : c = d := (List.mem_cons.mp mem).resolve_right later
      cases found : leastCause ds with
      | none => rfl
      | some e =>
        have bound : c ≤ e := rest e (leastCause_mem found)
        simp [bound]

/-- Every cause that decode finds is 0x01 or above: each of its checks adds its own number or nothing. -/
theorem State.decodeCauses_pos (s : State) (h : Sheaf) (i : Instr) : ∀ d ∈ s.decodeCauses h i, 1 ≤ d := by
  unfold State.decodeCauses
  extract_lets xm u xr m ops check
  have adds : ∀ (b : Bool) (n : Nat), ∀ d ∈ check b (n + 1), 1 ≤ d := by
    intro b n
    cases b <;> simp [check]
  clear_value check
  iterate 19 refine List.forall_mem_append.mpr ⟨?_, adds _ _⟩
  exact adds _ _

/-- A CSR number that is not assigned is cause 0x01 (04/R92). -/
theorem State.decodeCauses_unassigned {i : Instr} {n : Nat} (csr : i.csrn = some n) (unassigned : csrAssigned n = false) :
    1 ∈ s.decodeCauses h i := by
  unfold State.decodeCauses
  extract_lets xm u xr m ops check
  have adds : 1 ∈ check (match i.csrn with | some n => !csrAssigned n | none => false) 1 := by simp [check, csr, unassigned]
  iterate 14 refine List.mem_append_left _ ?_
  exact List.mem_append_right _ adds

/-- A system CSR number is cause 0x03 (04/R92). -/
theorem State.decodeCauses_system {i : Instr} {n : Nat} (csr : i.csrn = some n) (system : 0x800 ≤ n) : 3 ∈ s.decodeCauses h i := by
  unfold State.decodeCauses
  extract_lets xm u xr m ops check
  have adds : 3 ∈ check (match i.csrn with | some n => decide (0x800 ≤ n) | none => false) 3 := by simp [check, csr, system]
  exact List.mem_append_right _ adds

/-- The four CSR forms name the CSR of their operand. -/
theorem csrn_forms {p : FCSR → Instr} (form : p ∈ [Instr.csrr, .csrw, .csrs, .csrc]) (o : FCSR) : (p o).csrn = some o.csrn.toNat := by
  simp only [List.mem_cons, List.not_mem_nil, or_false] at form
  rcases form with rfl | rfl | rfl | rfl <;> rfl

/-- A unit in which decode finds a cause has no effect but the trap of the lowest one (04/R78, 02/R40). -/
theorem issue_traps {i : Instr} {c : Nat} (cur : s.cur? = some h) (can : s.canIssue h = true) (mem : c ∈ s.decodeCauses h i)
    (least : ∀ d ∈ s.decodeCauses h i, c ≤ d) (body : Sheaf → State → State) :
    issue i s body = .next (s.decodeTrap h (encode i) c) := by
  simp only [issue, cur, State.issueBy, can, if_true, leastCause_eq mem least]

/-- A word the decoder refuses traps with the lowest of its causes. -/
theorem execIllegalInstruction_traps {w : Word} {c : Nat} (cur : s.cur? = some h) (can : s.canIssue h = true) (refused : decode w = none)
    (mem : c ∈ s.illegalCauses h w) (least : ∀ d ∈ s.illegalCauses h w, c ≤ d) :
    execIllegalInstruction w s = .next (s.decodeTrap h w c) := by
  simp only [execIllegalInstruction, cur, can, refused, Option.isNone_none, Bool.and_self, if_true, leastCause_eq mem least]

/-- A word of no form has cause 0x01 alone. -/
theorem execIllegalInstruction_noForm {w : Word} (cur : s.cur? = some h) (can : s.canIssue h = true) (none : decodeForm w = none) :
    execIllegalInstruction w s = .next (s.decodeTrap h w 1) := by
  have only : s.illegalCauses h w = [1] := by simp only [State.illegalCauses, none]
  exact execIllegalInstruction_traps cur can (by simp only [decode, none]) (by simp [only]) (by simp [only])

/-- A word of a form whose fields the decoder refuses has cause 0x02, and no lower one where decode finds no 0x01. -/
theorem execIllegalInstruction_reserved {w : Word} {i : Instr} (cur : s.cur? = some h) (can : s.canIssue h = true)
    (form : decodeForm w = some i) (refused : decode w = none) (no1 : 1 ∉ s.decodeCauses h i) :
    execIllegalInstruction w s = .next (s.decodeTrap h w 2) := by
  have causes : s.illegalCauses h w = 2 :: s.decodeCauses h i := by simp only [State.illegalCauses, form]
  refine execIllegalInstruction_traps cur can refused (by rw [causes]; exact List.mem_cons_self) ?_
  rw [causes, List.forall_mem_cons]
  refine ⟨le_rfl, fun d mem => ?_⟩
  have above : 1 ≤ d := State.decodeCauses_pos s h i d mem
  have other : d ≠ 1 := fun is => no1 (is ▸ mem)
  omega

/-- An issue executes only what a current sheaf has fetched. -/
theorem issueCur_next (s : State) : ∃ t, issueCur s = .next t := by
  unfold issueCur
  cases cur : s.cur? with
  | none => exact ⟨_, rfl⟩
  | some h =>
    cases fetched : (s.fetchFor h).cur? with
    | none => exact ⟨s.fetchFor h, by simp [fetched]⟩
    | some g =>
      cases word : g.fbuf with
      | none => exact ⟨s.fetchFor h, by simp [fetched, word]⟩
      | some w =>
        cases is : decode w with
        | none =>
          obtain ⟨t, answer⟩ := execIllegalInstruction_next fetched w
          exact ⟨t, by simp [fetched, word, is, answer]⟩
        | some i =>
          obtain ⟨t, answer⟩ := exec_next fetched i
          exact ⟨t.stampIssue h i, by simp [fetched, word, is, answer]⟩

theorem State.issueTurn_next (s : State) : ∃ t, s.issueTurn = .next t := by
  cases cur : s.cur? with
  | none => exact ⟨s, by simp only [State.issueTurn, cur]⟩
  | some h =>
    rw [State.issueTurn_eq cur]
    split
    · exact issueCur_next s
    · exact ⟨s, rfl⟩

/-- A chosen step of the device is taken. -/
theorem State.make_step {i : Instr} (step : isStep i = true) (legal : ∀ w, i ≠ .illegalInstruction w) (s : State) :
    s.make (.event i) = exec i s := by
  simp only [State.make, step, if_true]

/-- A chosen move answers: a step of the device by itself, an issue by its fetch, and an instruction word is no move. -/
theorem State.make_next (s : State) (m : Move) : ∃ t, s.make m = .next t := by
  cases m with
  | event i =>
    cases step : isStep i with
    | false => exact ⟨s, by simp [State.make, step]⟩
    | true =>
      by_cases illegal : ∃ w, i = .illegalInstruction w
      · obtain ⟨w, rfl⟩ := illegal
        exact ⟨s, by simp [State.make, step]⟩
      · have legal : ∀ w, i ≠ .illegalInstruction w := fun w is => illegal ⟨w, is⟩
        exact State.make_step step legal s ▸ exec_step step legal s
  | issue uid => exact State.issueTurn_next _
  | elapse ns => exact ⟨_, rfl⟩
  | upset u => exact ⟨_, rfl⟩
  | outside o => exact ⟨_, rfl⟩

/-- The end of a step answers where the step does. -/
theorem Out.tidy_next {o : Out} (answers : ∃ t, o = .next t) : ∃ t, o.tidy = .next t := by
  obtain ⟨t, rfl⟩ := answers
  exact ⟨_, rfl⟩

/-- A step is a move of the agenda, an issue or a step of the device, and each answers. -/
theorem step_answers (s : State) : ∃ t, step s = .next t := by
  unfold step State.advance
  split
  · exact Out.tidy_next (State.make_next _ _)
  · split
    · exact Out.tidy_next ⟨_, rfl⟩
    · exact Out.tidy_next (State.issueTurn_next _)

end Sys2Proof.Machine
end

section
open Sys2Proof Sys2Proof.Machine

/-- Settles O11: an extension word of the table is `extension` of its kind, and what it leaves is the sheaf with a longer chain. -/
theorem extensionWordJoinsChain : Obligations.ExtensionWordJoinsChain := by
  refine ⟨fun p row x s h cur can plain => ?context, fun p row x s h cur can micro => ?sequencer⟩
  case context => exact (exec_extTable row x s).trans (extension_joins cur can plain p.1 x)
  case sequencer => exact (exec_extTable row x s).trans (extension_joins_micro cur can micro p.1 x)

/-- Settles O19: a unit with causes traps in `issue`, through which every word goes; what the decoder refuses traps by itself. -/
theorem decodeTrapIsLowestCause : Obligations.DecodeTrapIsLowestCause := by
  refine ⟨fun i s h body c cur can mem least => issue_traps cur can mem least body, fun i s h c word cur can mem least => ?word,
    fun w s h => execIllegalInstruction_noForm, fun w i s h => execIllegalInstruction_reserved,
    fun w s h => execIllegalInstruction_noForm, fun p form o s h => State.decodeCauses_system (csrn_forms form o),
    fun p form o s h => State.decodeCauses_unassigned (csrn_forms form o)⟩
  case word =>
    obtain ⟨body, issues⟩ := exec_issues word s
    exact issues.trans (issue_traps cur can mem least body)

/-- Settles O59: a current sheaf gives every instruction its answer and a step of the device needs none; an issue executes only what a
sheaf has fetched. -/
theorem everyStepAnswers : Obligations.EveryStepAnswers := by
  refine ⟨step_answers, fun i s current => ?sheaf, fun i s is legal => exec_step is legal s⟩
  case sheaf =>
    obtain ⟨h, cur⟩ := Option.isSome_iff_exists.mp current
    exact exec_next cur i
end

section
/-! SUPPORT. The CSRs (04/R92, R93; 07/R234): what CSRR leaves, the writable bits, and what a written CSR reads. -/

namespace Sys2Proof.Machine

variable {s : State} {h : Sheaf}

/-- Masking with ones below a bit keeps the bits below it. -/
theorem and_ones_eq (n : Nat) (x : DWord) (m : DWord) (ones : m.toNat = 2 ^ n - 1) (small : n ≤ 64) :
    x &&& m = (x.extractLsb' 0 n).setWidth 64 := by
  apply BitVec.eq_of_toNat_eq
  have low : x.toNat % 2 ^ n < 2 ^ 64 := (Nat.mod_lt _ (Nat.two_pow_pos n)).trans_le (Nat.pow_le_pow_right (by decide) small)
  rw [BitVec.toNat_and, ones, Nat.and_two_pow_sub_one_eq_mod, BitVec.toNat_setWidth, BitVec.extractLsb'_toNat, Nat.shiftRight_zero,
    Nat.mod_eq_of_lt low]

/-- Only FFLG, TRAPV and DTHR are writable. -/
theorem Sheaf.putCsr_other {n : Nat} (fflg : n ≠ 0x30) (trapv : n ≠ 0x50) (dthr : n ≠ 0x80) (x : DWord) : h.putCsr n x = h := by
  unfold Sheaf.putCsr
  split
  · exact absurd rfl fflg
  · exact absurd rfl trapv
  · exact absurd rfl dthr
  · rfl

theorem State.csr_fflg (s : State) (h : Sheaf) (x : DWord) : s.csr (h.putCsr 0x30 x) 0x30 = x &&& 0x1F :=
  (and_ones_eq 5 x 0x1F rfl (by decide)).symm

theorem State.csr_dthr (s : State) (h : Sheaf) (x : DWord) : s.csr (h.putCsr 0x80 x) 0x80 = x &&& 0x1FFF :=
  (and_ones_eq 13 x 0x1FFF rfl (by decide)).symm

/-- TRAPV holds no value with a bit of 23:0 set (log entry 42). -/
theorem State.csr_trapv (s : State) (h : Sheaf) (x : DWord) :
    s.csr (h.putCsr 0x50 x) 0x50 = if x &&& 0xFFFFFF = 0 then x else 0 := by
  have reads : s.csr (h.putCsr 0x50 x) 0x50 = if x.extractLsb' 0 24 == 0 then x else 0 := rfl
  have aligned : x &&& 0xFFFFFF = 0 ↔ x.extractLsb' 0 24 = 0 := by
    rw [and_ones_eq 24 x 0xFFFFFF rfl (by decide), ← BitVec.toNat_inj, ← BitVec.toNat_inj]
    have small : (x.extractLsb' 0 24).toNat < 2 ^ 24 := BitVec.isLt _
    simp only [BitVec.toNat_setWidth, BitVec.ofNat_eq_ofNat, BitVec.toNat_ofNat]
    omega
  simp only [reads, beq_iff_eq, aligned]

/-- PRETO reads the cycles it stands for (17/R390, R394). -/
theorem State.csr_preto {c : Ctx} (ctx : s.ctx? h.ctx = some c) :
    s.csr h 0x70 = BitVec.ofNat 64 (if c.preto = 0 then 165000 else c.preto) := by
  have reads : s.csr h 0x70 = BitVec.ofNat 64 (((s.ctx? h.ctx).map Ctx.pretoCycles).getD 0) := rfl
  simp [reads, ctx, Ctx.pretoCycles]

theorem lo32_eq (x : DWord) : lo32 x = x.extractLsb' 0 32 := BitVec.eq_of_toNat_eq (by simp [lo32])

/-- CSRR, ready: the register or the pair takes the value, and a read of TIMEL latches the high half (07/R234). -/
theorem execCsrr_ready {o : FCSR} (r : Ready s h (.csrr o)) :
    let n := o.csrn.toNat
    let h1 := if csrWide n then h.setPair o.srg.toNat (s.csr h n) else h.setS o.srg.toNat ((s.csr h n).extractLsb' 0 32)
    exec (.csrr o) s = .next (s.putSheaf (if n = 0x20 then
        { h1.retire h1.nextPc with timeL := some (BitVec.ofNat 32 (s.reading h.core / 2 ^ 32)) }
      else h1.retire h1.nextPc)) := by
  refine (issue_ready r _).trans ?_
  simp only [beq_iff_eq, lo32_eq]

end Sys2Proof.Machine
end

section
open Sys2Proof Sys2Proof.Machine

/-- Settles O45, form by form: the writes are `putCsr` of the operand by definition, and a read is a row of the table of R92. -/
theorem csrForms : Obligations.CsrForms := by
  refine ⟨fun o s h r => execCsrr_ready r, fun o s h => ⟨?write, ?set, ?clear⟩, fun h n x fflg trapv dthr => ?other,
    fun s h x => ⟨State.csr_fflg s h x, State.csr_dthr s h x, State.csr_trapv s h x⟩, fun s h => ?rows,
    fun s h c => State.csr_preto⟩
  case write => exact fun r => issue_ready r _
  case set => exact fun r => issue_ready r _
  case clear => exact fun r => issue_ready r _
  case other => exact Sheaf.putCsr_other fflg trapv dthr x
  case rows => exact ⟨rfl, rfl, rfl, rfl, rfl, rfl, rfl, rfl, rfl, rfl⟩
end

section
/-! SUPPORT. A word from its bytes. -/

namespace Sys2Proof.Machine

/-- A byte put below some bits. -/
theorem toNat_append_byte {n : Nat} (x : BitVec n) (b : Byte) : (x ++ b).toNat = b.toNat + 256 * x.toNat := by
  rw [BitVec.toNat_append, ← Nat.shiftLeft_add_eq_or_of_lt b.isLt, Nat.shiftLeft_eq]
  omega

/-- Four bytes make a word little-endian (04/R74). -/
theorem wordOfBytes_toNat (b0 b1 b2 b3 : Byte) : (wordOfBytes b0 b1 b2 b3).toNat = leNat [b0, b1, b2, b3] := by
  simp only [wordOfBytes, leNat, toNat_append_byte, Nat.mul_zero, Nat.add_zero]

end Sys2Proof.Machine
end

section
open Sys2Proof Sys2Proof.Machine

/-- Settles O56: the printed words decode by computation; the all-ones word is of no form. -/
theorem workedEncodingsDecode : Obligations.WorkedEncodingsDecode := by
  unfold Obligations.WorkedEncodingsDecode
  iterate 31 refine ⟨by decide +kernel, ?_⟩
  exact ⟨fun s h cur can => execIllegalInstruction_noForm cur can (by decide +kernel), wordOfBytes_toNat⟩
end

section
/-! SUPPORT. Words of the segment (04/R94, 05/R121): what the instructions that read them do once the reads have given them, and the
reads that the instruction cache serves. -/

namespace Sys2Proof.Machine

variable {s s1 s2 : State} {h : Sheaf} {g g1 : Seg}

/-- The rest of an instruction runs on the words its reads give. -/
theorem State.withPool_words {offs : List Int} {l : List Word} (seg : s.curSeg h = some g) (free : Unheld s h g offs)
    (reads : s.pool h g offs = (s1, .words l)) (i : Instr) (k : State → List Word → State) : s.withPool h i offs k = k s1 l := by
  have held : (offs.any fun off => s.codeHeld h.core h.ctx g off.toNat) = false := by simpa [Unheld] using free
  simp only [State.withPool, seg, held, Bool.false_eq_true, if_false, reads]

/-- A read whose slice is being quiesced waits (20/R429). -/
theorem State.withPool_held {off : Int} (seg : s.curSeg h = some g) (held : s.codeHeld h.core h.ctx g off.toNat = true) (i : Instr)
    (k : State → List Word → State) : s.withPool h i [off] k = s := by
  simp [State.withPool, seg, held]

/-! JTAB -/

theorem execJtab_transfers {o : FBR} {n w : Word} {e : Nat} (r : Ready s h (.jtab o)) (seg : s.curSeg h = some g)
    (free : Unheld s h g [h.tableAt o.off]) (count : s.pool h g [h.tableAt o.off] = (s1, .words [n])) (below : h.getS o.sel.toNat < n)
    (seg1 : s1.curSeg h = some g1) (free1 : Unheld s1 h g1 [h.tableAt o.off + 4 + 4 * (h.getS o.sel.toNat).toNat])
    (entry : s1.pool h g1 [h.tableAt o.off + 4 + 4 * (h.getS o.sel.toNat).toNat] = (s2, .words [w]))
    (target : h.tableAt o.off + 4 * w.toInt = e) (fits : e < 2 ^ 32) :
    exec (.jtab o) s = .next (s2.putSheaf (h.retire { h.pc with off := BitVec.ofNat 32 e })) := by
  have inside : ¬ n ≤ h.getS o.sel.toNat := BitVec.not_le.mpr below
  have held : ¬ ((e : Int) < 0 ∨ 2 ^ 32 ≤ (e : Int)) := by omega
  refine (issue_ready r _).trans (congrArg Host.Outcome.next ?_)
  dsimp only
  rw [State.withPool_words seg free count, List.getD_cons_zero, if_neg inside, State.withPool_words seg1 free1 entry,
    List.getD_cons_zero, target, if_neg held, BitVec.ofInt_natCast]
  rfl

theorem execJtab_beyond {o : FBR} {n : Word} (r : Ready s h (.jtab o)) (seg : s.curSeg h = some g)
    (free : Unheld s h g [h.tableAt o.off]) (count : s.pool h g [h.tableAt o.off] = (s1, .words [n])) (beyond : n ≤ h.getS o.sel.toNat) :
    exec (.jtab o) s = .next (s1.decodeTrap h (encode (.jtab o)) 0x0C) := by
  refine (issue_ready r _).trans (congrArg Host.Outcome.next ?_)
  dsimp only
  rw [State.withPool_words seg free count, List.getD_cons_zero, if_pos beyond]

/-! LDL -/

theorem execLdls_reads {o : FRI} {w : Word} (r : Ready s h (.ldls o)) (seg : s.curSeg h = some g)
    (free : Unheld s h g [h.literal o.imm]) (read : s.pool h g [h.literal o.imm] = (s1, .words [w])) :
    exec (.ldls o) s = .next (s1.done (h.setS o.d.toNat w)) :=
  (issue_ready r _).trans (congrArg Host.Outcome.next (State.withPool_words seg free read _ _))

theorem execLdlv_reads {o : FRI} {w : Word} (r : Ready s h (.ldlv o)) (seg : s.curSeg h = some g)
    (free : Unheld s h g [h.literal o.imm]) (read : s.pool h g [h.literal o.imm] = (s1, .words [w])) :
    exec (.ldlv o) s = .next (s1.done (h.sweep (.ldlv o) fun l => (l.setV o.d.toNat w, 0))) :=
  (issue_ready r _).trans (congrArg Host.Outcome.next (State.withPool_words seg free read _ _))

theorem execLdl64_reads {o : FRI} {w0 w1 : Word} (r : Ready s h (.ldl64 o)) (seg : s.curSeg h = some g) (aligned : h.literal o.imm % 8 = 0)
    (free : Unheld s h g [h.literal o.imm, h.literal o.imm + 4])
    (read : s.pool h g [h.literal o.imm, h.literal o.imm + 4] = (s1, .words [w0, w1])) :
    exec (.ldl64 o) s = .next (s1.done (h.setPair o.d.toNat (pairOf w0 w1))) := by
  refine (issue_ready r _).trans (congrArg Host.Outcome.next ?_)
  simp only [aligned, bne_self_eq_false, Bool.false_eq_true, if_false]
  exact State.withPool_words seg free read _ _

theorem execLdl64_unaligned {o : FRI} (r : Ready s h (.ldl64 o)) (seg : s.curSeg h = some g) (unaligned : h.literal o.imm % 8 ≠ 0) :
    exec (.ldl64 o) s = .next (s.trapNow h (.ldl64 o) 4 (BitVec.ofInt 64 (g.base + h.literal o.imm))) := by
  refine (issue_ready r _).trans (congrArg Host.Outcome.next ?_)
  simp only [bne_iff_ne.mpr unaligned, if_true, seg, Option.map_some, Option.getD_some]

/-! Reads from the instruction cache -/

/-- A line that holds the word serves its read, and nothing is held. -/
theorem codeLine_read {off : Nat} {l : ICLine} (line : CodeLine s h g off l) :
    s.codeWord h.core h.ctx g off = (s, .word (wordOf l off)) ∧ s.codeHeld h.core h.ctx g off = false :=
  State.codeWord_cached line.2

theorem codeLine_unheld {off : Nat} {l : ICLine} (line : CodeLine s h g off l) : Unheld s h g [(off : Int)] := by
  simpa [Unheld] using (codeLine_read line).2

theorem codeLine_pool_cons {off : Nat} {l : ICLine} {offs : List Int} {ws : List Word} (line : CodeLine s h g off l)
    (rest : s.pool h g offs = (s, .words ws)) : s.pool h g ((off : Int) :: offs) = (s, .words (wordOf l off :: ws)) := by
  have inside : ¬ ((off : Int) < 0 ∨ (g.len : Int) ≤ off) := by have := line.1; omega
  simp only [State.pool, if_neg inside, Int.toNat_natCast, (codeLine_read line).1, rest]

theorem codeLine_pool {off : Nat} {l : ICLine} (line : CodeLine s h g off l) : s.pool h g [(off : Int)] = (s, .words [wordOf l off]) :=
  codeLine_pool_cons line rfl

/-- The high word of an aligned literal lies in the line of the low one. -/
theorem codeLine_high {off : Nat} {l : ICLine} (line : CodeLine s h g off l) (aligned : off % 8 = 0) (inside : off + 4 < g.len) :
    CodeLine s h g (off + 4) l := by
  have block : (off + 4) / 64 = off / 64 := by omega
  exact ⟨inside, block ▸ line.2⟩

end Sys2Proof.Machine
end

section
open Sys2Proof Sys2Proof.Machine

/-- Settles O14: each form on the words its reads give; a line of the instruction cache gives them without a change of the state. -/
theorem tablesAndLiterals : Obligations.TablesAndLiterals := by
  refine ⟨fun o s h g a b t e r seg at_ count below entry target fits => ?transfers, fun o s h g a t r seg at_ count beyond => ?beyond,
    fun o s h g a t seg at_ line => ⟨fun r => ?ldls, fun r => ?ldlv, fun r aligned inside => ?ldl64⟩,
    fun o s s1 h g n => execJtab_beyond, fun o s s1 s2 h g g1 n w e => execJtab_transfers, fun o s s1 h g w => execLdls_reads,
    fun o s s1 h g w => execLdlv_reads, fun o s s1 h g w0 w1 => execLdl64_reads, fun o s h g => execLdl64_unaligned,
    fun o s h g seg held => ⟨fun r => ?heldS, fun r => ?heldV⟩, fun s h g off l line => (codeLine_read line).2⟩
  case transfers =>
    have table : h.tableAt o.off = (t : Int) := at_
    have slot : h.tableAt o.off + 4 + 4 * (h.getS o.sel.toNat).toNat = ((t + 4 + 4 * (h.getS o.sel.toNat).toNat : Nat) : Int) := by
      rw [table]; push_cast; rfl
    exact execJtab_transfers r seg (table ▸ codeLine_unheld count) (table ▸ codeLine_pool count) below seg
      (slot ▸ codeLine_unheld entry) (slot ▸ codeLine_pool entry)
      (table ▸ target) fits
  case beyond =>
    have table : h.tableAt o.off = (t : Int) := at_
    exact execJtab_beyond r seg (table ▸ codeLine_unheld count) (table ▸ codeLine_pool count) beyond
  case ldls =>
    have literal : h.literal o.imm = (t : Int) := at_
    exact execLdls_reads r seg (literal ▸ codeLine_unheld line) (literal ▸ codeLine_pool line)
  case ldlv =>
    have literal : h.literal o.imm = (t : Int) := at_
    exact execLdlv_reads r seg (literal ▸ codeLine_unheld line) (literal ▸ codeLine_pool line)
  case ldl64 =>
    have literal : h.literal o.imm = (t : Int) := at_
    have high := codeLine_high line aligned inside
    refine execLdl64_reads r seg (by rw [literal]; omega) ?_ ?_
    all_goals rw [literal]
    · exact List.forall_mem_cons.mpr ⟨(codeLine_read line).2, codeLine_unheld high⟩
    · exact codeLine_pool_cons line (codeLine_pool high)
  case heldS => exact (issue_ready r _).trans (congrArg Host.Outcome.next (State.withPool_held seg held _ _))
  case heldV => exact (issue_ready r _).trans (congrArg Host.Outcome.next (State.withPool_held seg held _ _))
end

section
/-! SUPPORT. The stop of a sheaf (17/R390 to R392), its resume (17/R398) and its move (08/R262): what a request marks, what a stop
keeps, and the answers of each by the branch its premises choose. -/

namespace Sys2Proof.Machine

variable {s : State} {h : Sheaf} {uid core code : Nat}

/-! Counting at the transaction barriers keeps every sheaf there. -/

theorem State.allotWrite_uids (s : State) (x : Sheaf) (off : Nat) (bs : List Byte) (cause : Nat) :
    (s.allotWrite x off bs cause).sheaves.map (·.uid) = s.sheaves.map (·.uid) := by
  unfold State.allotWrite
  split
  · rw [(s.scrWrite_writes _ bs cause).sheaves]
  · exact s.modSheaf_uids _ _ fun _ => rfl

theorem State.countTxb_uids (s : State) (o : Op) (x : Sheaf) (off n : Nat) (trn err : Bool) :
    (s.countTxb o x off n trn err).sheaves.map (·.uid) = s.sheaves.map (·.uid) := by
  unfold State.countTxb
  split
  · rfl
  · split
    · rfl
    · exact s.allotWrite_uids ..

theorem State.countOp_uids (s : State) (o : Op) (h : Sheaf) (trn err : Bool) :
    (s.countOp o h trn err).sheaves.map (·.uid) = s.sheaves.map (·.uid) := by
  unfold State.countOp
  split
  · rfl
  · rw [State.modOp_sheaves]
    split
    · refine List.foldlRecOn (motive := fun (t : State) => t.sheaves.map (·.uid) = s.sheaves.map (·.uid)) _ _ rfl fun t same x _ => ?_
      split
      · exact (t.countTxb_uids ..).trans same
      · exact same
    · split
      · exact s.countTxb_uids ..
      · rfl

theorem State.countAll_uids (s : State) (h : Sheaf) : (s.countAll h).sheaves.map (·.uid) = s.sheaves.map (·.uid) :=
  List.foldlRecOn (motive := fun (t : State) => t.sheaves.map (·.uid) = s.sheaves.map (·.uid)) _ _ rfl
    fun t same o _ => (t.countOp_uids o h false false).trans same

/-- A sheaf without a running operation has nothing to count. -/
theorem State.cutBack_countAll_idle (idle : ∀ o ∈ s.eng.ops, o.sheaf = h.uid → o.live = false) : (s.cutBack h).countAll h = s := by
  have uncut : s.cutBack h = s := by
    have ops : (s.eng.ops.map fun (o : Op) =>
        if o.sheaf == h.uid && o.live && o.susp then { o with parts := [], done := s.restUnits o h } else o) = s.eng.ops :=
      (List.map_congr_left fun o mem => by
        cases mine : o.sheaf == h.uid with
        | false => rfl
        | true => simp [idle o mem (by simpa using mine)]).trans (List.map_id _)
    rw [State.cutBack, ops]
  have none : (s.eng.ops.filter fun (o : Op) => o.sheaf == h.uid && o.live) = [] := by
    rw [List.filter_eq_nil_iff]
    intro o mem running
    simp only [Bool.and_eq_true, beq_iff_eq] at running
    exact absurd running.2 (by simp [idle o mem running.1])
  rw [uncut, State.countAll, none, List.foldl_nil]

/-! The stop -/

/-- A stop changes no other sheaf but what counting changes. -/
theorem State.sheaf?_stopNow_other {v : Nat} (other : v ≠ h.uid) (code : Nat) (safe : Option Nat) (live : BitVec 128) :
    (s.stopNow h code safe live).sheaf? v = ((s.cutBack h).countAll h).sheaf? v := by
  unfold State.stopNow
  rw [State.sheaf?_putSheaf]
  exact if_neg other

/-- A sheaf that stops is there still, with what it holds (17/R391). -/
theorem State.sheaf?_stopNow (there : (s.sheaf? h.uid).isSome = true) (code : Nat) (safe : Option Nat) (live : BitVec 128) :
    ∃ x, (s.stopNow h code safe live).sheaf? h.uid = some x ∧
      (x.run, x.stop, x.s, x.lanes, x.h, x.tiles, x.trap, x.stack) =
        (.stopped code safe, none, h.s, h.lanes, h.h, h.tiles, h.trap, h.stack) := by
  have still : (((s.cutBack h).countAll h).sheaf? h.uid).isSome = true := by
    rw [State.sheaf?_isSome, State.countAll_uids]
    exact (s.sheaf?_isSome h.uid).mp there
  obtain ⟨y, found⟩ := Option.isSome_iff_exists.mp still
  unfold State.stopNow
  rw [State.sheaf?_putSheaf]
  refine ⟨_, (if_pos ?_).trans (congrArg _ ((State.sheaf?_congr rfl _).trans found)), ?_⟩
  all_goals rfl

/-- A stop sets HLD of the sheaf's member entry (09/R272). -/
theorem State.stopNow_holds {k : Stook} {m : Member} (code : Nat) (safe : Option Nat) (live : BitVec 128)
    (stook : k ∈ (s.stopNow h code safe live).stk.stooks) (member : m ∈ k.members) (own : m.uid = h.uid) : m.hld = true := by
  obtain ⟨k0, -, rfl⟩ := List.mem_map.mp stook
  obtain ⟨m0, -, rfl⟩ := List.mem_map.mp member
  cases is : m0.uid == h.uid with
  | true => rfl
  | false =>
    simp only [is, Bool.false_eq_true, if_false] at own
    exact absurd (beq_iff_eq.mpr own) (by rw [is]; exact Bool.false_ne_true)

/-! The request and PRETO -/

/-- A sheaf after a change of all sheaves that keeps their identifiers. -/
theorem State.sheaf?_map {t : State} {f : Sheaf → Sheaf} (all : t.sheaves = s.sheaves.map f) (keeps : ∀ x, (f x).uid = x.uid) (u : Nat) :
    t.sheaf? u = (s.sheaf? u).map f := by
  rw [State.sheaf?, all, List.find?_map, State.sheaf?]
  simp only [Function.comp_def, keeps]

/-- A request that names no sheaf in a place to stop at once marks its sheaves (17/R390). -/
theorem State.request_marks {uids : List Nat} (going : ∀ u ∈ uids, ∀ x, s.sheaf? u = some x → x.stopAtOnce = none) :
    s.request uids = { s with sheaves := s.sheaves.map fun h => if uids.contains h.uid && h.stoppable then
      { h with stop := some ⟨((s.ctx? h.ctx).map Ctx.pretoCycles).getD 165000 * 1000, false⟩ } else h } := by
  unfold State.request
  extract_lets preto ask t
  have uid (x : Sheaf) : (ask x).uid = x.uid := by simp only [ask]; split <;> rfl
  have place (x : Sheaf) : (ask x).stopAtOnce = x.stopAtOnce := by simp only [ask]; split <;> rfl
  have still (u : Nat) (mem : u ∈ uids) : (t.sheaf? u).bind Sheaf.stopAtOnce = none := by
    rw [State.sheaf?_map (t := t) rfl uid]
    cases found : s.sheaf? u with
    | none => rfl
    | some x => exact (place x).trans (going u mem x found)
  have fold (us : List Nat) (sub : ∀ u ∈ us, u ∈ uids) : (us.foldl (fun (u : State) (x : Nat) => match (u.sheaf? x).bind Sheaf.stopAtOnce with
      | some _ => u.advanceStop x
      | none => u) t) = t := by
    induction us with
    | nil => rfl
    | cons u us ih =>
      rw [List.foldl_cons, still u (sub u List.mem_cons_self)]
      exact ih fun v mem => sub v (List.mem_cons_of_mem u mem)
  exact fold uids fun _ mem => mem

/-- A sheaf in a place to stop at once stops when its accesses are done with (17/R390). -/
theorem State.advanceStop_atOnce {r : StopReq} (found : s.sheaf? uid = some h) (asked : h.stop = some r) (place : h.stopAtOnce = some code) :
    s.advanceStop uid = if s.quietToStop h then s.stopSaved h code none (BitVec.allOnes 128)
      else (s.sendBatches uid).modSheaf uid Sheaf.ungather := by
  simp only [State.advanceStop, State.tryStop, found, asked, place]

/-- A running sheaf stops at the boundary after PRETO. -/
theorem State.advanceStop_due {r : StopReq} (found : s.sheaf? uid = some h) (asked : h.stop = some r) (place : h.stopAtOnce = none)
    (due : r.due = true) (run : h.run = .running) (boundary : h.chain.pc0 = none) (quiet : s.quietToStop h = true) :
    s.advanceStop uid = s.stopSaved h 2 none (BitVec.allOnes 128) := by
  simp [State.advanceStop, State.tryStop, found, asked, place, due, run, boundary, quiet]

/-- Before PRETO nothing happens. -/
theorem State.advanceStop_early {r : StopReq} (found : s.sheaf? uid = some h) (asked : h.stop = some r) (place : h.stopAtOnce = none)
    (early : r.due = false) : s.advanceStop uid = s := by
  simp [State.advanceStop, found, asked, place, early]

/-- PRETO runs with time, by the clock of the sheaf's die (01/R16). -/
theorem State.sheaf?_elapse_stop {r : StopReq} (found : s.sheaf? uid = some h) (asked : h.stop = some r) (ns : Nat) :
    ((s.elapse ns).sheaf? uid).map (fun x => x.stop) = some (some (r.after (min ns s.slack * s.clockAt h.core))) := by
  rw [State.sheaf?_map (s := s) (t := s.elapse ns) rfl fun _ => rfl, found]
  simp only [Option.map_some, asked]

/-! The resume and the move -/

/-- A saved sheaf that no other is stopped with, in no stook, goes to a core that it fits (17/R398). -/
theorem execSheafResume_placed {safe : Option Nat} {c : Ctx} (found : s.sheaf? uid = some h) (stopped : h.run = .stopped code safe)
    (alone : s.groupOf [uid] = [uid]) (ctx : s.ctx? h.ctx = some c) (runs : c.stopped = false) (first : h.queued = false)
    (serves : s.partDown 1 h.core = false) (budget : s.budgets c 1 = true) (inside : core < nCores) (member : s.stookOf h = none)
    (room : s.takesOps core uid = true) (fits : s.fitsOn core (s.footprint h) = true)
    (open_ : s.clusterOpen (clusterOf core) h.ctx h.admitFused = true) :
    execSheafResume uid core s = .next ((s.placeOn h core).afterPlace uid code (h.scrAbs 0)) := by
  have on : s.resumeOn uid core = some ((s.placeOn h core).afterPlace uid code (h.scrAbs 0)) := by
    simp [State.resumeOn, found, stopped, member, room, fits, open_]
  simp [execSheafResume, found, alone, stopped, ctx, runs, State.queuedBehind, first, State.resumesAt, serves, budget,
    Nat.not_le.mpr inside, on, State.resumeAll]

/-- A sheaf of a loaded image waits for those of its launch before it (17/R398). -/
theorem execSheafResume_behind {x : Sheaf} (found : s.sheaf? uid = some h) (alone : s.groupOf [uid] = [uid]) (queued : h.queued = true)
    (there : x ∈ s.sheaves) (also : x.queued = true) (ctx : x.ctx = h.ctx) (launch : x.launch = h.launch) (before : x.shid < h.shid)
    (other : x.uid ≠ uid) : execSheafResume uid core s = .next s := by
  have behind : s.queuedBehind h [uid] = true := by
    simp only [State.queuedBehind, queued, Bool.true_and, List.any_eq_true]
    exact ⟨x, there, by simp [also, ctx, launch, before, other]⟩
  simp only [execSheafResume, found, alone, behind, Bool.or_true, Bool.true_or, if_true]
  split <;> rfl

/-- The check of a resume, of a sheaf with a path (04/R98). -/
theorem State.resumeCheck_path {p : Path} (found : s.sheaf? uid = some h) (path : h.path = some p) : s.resumeCheck uid code =
    if code < 5 ∧ s.checkReturn h.ctx p.pc = false then
      (s.draw 2).raise h (freeWord s.ctl.free) [(0x0B, Config.freeValue (s.ctl.free + 1))]
    else s := by
  simp [State.resumeCheck, found, path]

/-- A sheaf moves to another core of its cluster: it stops, is placed there and goes on, with a request that it had (08/R262). -/
theorem execSheafMigrate_moves {x : Sheaf} (found : s.sheaf? uid = some h) (run : h.run = .running) (boundary : h.chain.pc0 = none)
    (plain : h.seqr = false) (other : core ≠ h.core) (cluster : clusterOf core = clusterOf h.core)
    (still : (s.stk.subs.any fun p => (p.subr == uid || p.pubr == uid) && !p.batches.isEmpty) = false) (quiet : s.quietToMove h = true)
    (room : s.takesOps core uid = true) (fits : s.fitsOn core (s.footprint h) = true)
    (stopped : (s.stopNow { h with stop := none } 2 none (BitVec.allOnes 128)).sheaf? uid = some x) :
    execSheafMigrate uid core s = .next (((State.placeOn { s.stopNow { h with stop := none } 2 none (BitVec.allOnes 128) with
      stk := { (s.stopNow { h with stop := none } 2 none (BitVec.allOnes 128)).stk with subs := s.stk.subs } } x core).afterPlace
        uid 2 (h.scrAbs 0)).modSheaf uid fun y => { y with stop := h.stop }) := by
  have may : (h.run == .running && h.chain.pc0.isNone && !h.seqr && core != h.core && clusterOf core == clusterOf h.core &&
      !(s.stk.subs.any fun p => (p.subr == uid || p.pubr == uid) && !p.batches.isEmpty) && s.quietToMove h && s.takesOps core uid &&
      s.fitsOn core (s.footprint h)) = true := by
    simp only [run, boundary, plain, bne_iff_ne.mpr other, cluster, still, quiet, room, fits, Option.isNone_none, beq_self_eq_true,
      Bool.not_false, Bool.and_true]
  simp only [execSheafMigrate, found, may, if_true, stopped]

end Sys2Proof.Machine
end

section
open Sys2Proof Sys2Proof.Machine

/-- Settles O48, place by place: a request marks, a stop changes its own sheaf behind what counting changes, and a resume or a move takes
the branch its premises choose. -/
theorem stopsAndResumes : Obligations.StopsAndResumes := by
  refine ⟨fun s uids going => ?marks, fun s uid code h r found asked place => ?atOnce,
    fun s uid h r found asked place due run boundary quiet => ?due, fun s uid ns h r found asked => ⟨fun place early => ?early, ?time⟩,
    fun s uid code h safe live found => ?stop, fun s uid core code safe h c found stopped alone ctx runs first serves budget inside member
      room fits open_ => ?resumes, fun s uid core h x found alone queued there also ctx launch before other => ?waits,
    fun s uid code h p => State.resumeCheck_path, fun s uid core h found run boundary plain other cluster still quiet room fits => ?moves⟩
  case marks => exact congrArg Host.Outcome.next (State.request_marks going)
  case atOnce => exact congrArg Host.Outcome.next (State.advanceStop_atOnce found asked place)
  case due => exact congrArg Host.Outcome.next (State.advanceStop_due found asked place due run boundary quiet)
  case early => exact congrArg Host.Outcome.next (State.advanceStop_early found asked place early)
  case time => exact State.sheaf?_elapse_stop found asked ns
  case stop =>
    obtain rfl : h.uid = uid := by simpa using List.find?_some found
    obtain ⟨x, at_, keeps⟩ := State.sheaf?_stopNow (s := s) (by rw [found]; rfl) code safe live
    exact ⟨rfl, fun v other => State.sheaf?_stopNow_other other code safe live, State.cutBack_countAll_idle,
      by rw [at_, Option.map_some, keeps], fun k stook m member own => State.stopNow_holds code safe live stook member own⟩
  case resumes => exact execSheafResume_placed found stopped alone ctx runs first serves budget inside member room fits open_
  case waits => exact execSheafResume_behind found alone queued there also ctx launch before other
  case moves =>
    obtain rfl : h.uid = uid := by simpa using List.find?_some found
    obtain ⟨x, at_, -⟩ := State.sheaf?_stopNow (s := s) (h := { h with stop := none }) (by rw [found]; rfl) 2 none (BitVec.allOnes 128)
    exact ⟨x, at_, execSheafMigrate_moves found run boundary plain other cluster still quiet room fits at_⟩
end

section
/-! SUPPORT. What the loader leaves of the segment table and of the loaded objects: its stores and the flushes of unmapped pages change
neither; STATE of a segment after it is set, freed or swept (16/R362, R366). -/

namespace Sys2Proof.Machine

variable {s t : State}

/-- The tables that a load or unload changes: segments, and contexts with their objects. -/
def State.tables (s : State) : List Seg × List Ctx := (s.segs, s.ctxs)

theorem foldl_tables {α : Type} {f : State → α → State} (step : ∀ u a, (f u a).tables = u.tables) (l : List α) (s : State) :
    (l.foldl f s).tables = s.tables :=
  List.foldlRecOn (motive := fun (t : State) => t.tables = s.tables) _ _ rfl fun u same a _ => (step u a).trans same

/-! Lines and translations -/

@[simp] theorem State.backWrite_tables (s : State) (hm : Bool) (pa : Nat) (bs : List Byte) : (s.backWrite hm pa bs).tables = s.tables := by
  unfold State.backWrite
  repeat' split
  all_goals rfl

@[simp] theorem State.orPte_tables (s : State) (pte : Nat) (bits : Byte) : (s.orPte pte bits).tables = s.tables := by
  unfold State.orPte
  split <;> rfl

@[simp] theorem State.writeBack_tables (s : State) (x : Home) : (s.writeBack x).tables = s.tables := by
  unfold State.writeBack
  extract_lets s1
  have bytes : s1.tables = s.tables := foldl_tables (fun u k => by split <;> simp) _ _
  change (if x.hm then s1 else s1.countPool _ _).tables = _
  split <;> exact bytes

@[simp] theorem State.spoilSectors_tables (s : State) (x : Home) : (s.spoilSectors x).tables = s.tables :=
  foldl_tables (fun u k => by
    split
    · exact (u.draw 32).backWrite_tables ..
    · rfl) _ _

@[simp] theorem State.flushPage_tables (s : State) (asid va : Nat) : (s.flushPage asid va).tables = s.tables :=
  foldl_tables (fun u x => by rw [State.spoilSectors_tables, State.writeBack_tables]) _ _

theorem State.evict_tables (s : State) (x : Home) : (s.evict x).tables = s.tables := s.writeBack_tables x

@[simp] theorem State.makeRoom_tables (s : State) (slice n : Nat) : (s.makeRoom slice n).tables = s.tables := by
  unfold State.makeRoom
  extract_lets here
  split
  · rfl
  · exact foldl_tables State.evict_tables _ _

@[simp] theorem State.enterHome_tables (s : State) (x : Home) : (s.enterHome x).tables = s.tables := by
  unfold State.enterHome
  split <;> rfl

@[simp] theorem State.translate_tables (s : State) (ctx va : Nat) : (s.translate ctx va).1.tables = s.tables := by
  unfold State.translate
  split
  · rfl
  · split
    · rfl
    · split
      · exact s.orPte_tables ..
      · rfl

theorem State.homeOf_tables (s : State) (ctx va : Nat) (need : Need) : (s.homeOf ctx va need).1.tables = s.tables := by
  have walked := s.translate_tables ctx va
  unfold State.homeOf
  split
  · rfl
  · split
    case h_1 s1 t e =>
      rw [e] at walked
      dsimp only
      split
      · exact walked
      · rw [State.enterHome_tables]
        split
        · exact (s1.makeRoom_tables ..).trans walked
        · exact (s1.makeRoom_tables ..).trans walked
    all_goals next e => rw [e] at walked; exact walked

/-! Stores -/

theorem State.logWrite_tables (s : State) (ctx : Nat) (x : Home) : (s.logWrite ctx x).tables = s.tables := by
  unfold State.logWrite
  split
  · rfl
  · split
    · rfl
    · extract_lets s1 pte s2
      have bit : s1.tables = s.tables := by
        unfold s1
        split
        · split
          · exact s.orPte_tables ..
          · rfl
        · rfl
      have dirty : s2.tables = s1.tables := by
        unfold s2
        clear_value pte s1
        split
        · exact s1.orPte_tables ..
        · rfl
      exact dirty.trans bit

theorem State.homeWrite_segs (s : State) (ctx core uid : Nat) (x : Home) (off : Nat) (bs : List Byte) :
    (s.homeWrite ctx core uid x off bs).1.segs = s.segs := by
  have logged : (s.logWrite ctx x).segs = s.segs := congrArg Prod.fst (s.logWrite_tables ctx x)
  have through : ((s.logWrite ctx x).wroteThrough core ctx).segs = s.segs := by
    unfold State.wroteThrough
    split <;> exact logged
  change (((s.logWrite ctx x).wroteThrough core ctx).spoilStacks ctx _ _).segs = s.segs
  unfold State.spoilStacks
  extract_lets hit k
  split <;> exact through

@[simp] theorem State.loaderStore_segs (s : State) (ctx va : Nat) (x : DWord) : (s.loaderStore ctx va x).segs = s.segs := by
  have found : (s.homeOf ctx va .write).1.segs = s.segs := congrArg Prod.fst (s.homeOf_tables ctx va .write)
  unfold State.loaderStore
  split
  · next s1 h e =>
    rw [e] at found
    exact (s1.homeWrite_segs ..).trans found
  · next s1 _ _ e =>
    rw [e] at found
    exact found

theorem foldl_segs {α : Type} {f : State → α → State} (step : ∀ u a, (f u a).segs = u.segs) (l : List α) (s : State) :
    (l.foldl f s).segs = s.segs :=
  List.foldlRecOn (motive := fun (t : State) => t.segs = s.segs) _ _ rfl fun u same a _ => (step u a).trans same

/-- A series of stores. -/
theorem foldl_loaderStore_segs {α : Type} (ctx : Nat) (va : α → Nat) (x : α → DWord) (l : List α) (s : State) :
    (l.foldl (fun (t : State) a => t.loaderStore ctx (va a) (x a)) s).segs = s.segs :=
  foldl_segs (fun u _ => u.loaderStore_segs ..) l s

theorem State.bindCells_segs (s : State) (ctx : Nat) (objs : List Obj) (name : List Byte) (exps : List (List Byte × DWord)) :
    (s.bindCells ctx objs name exps).segs = s.segs :=
  foldl_segs (fun u e => foldl_segs (fun v x => by
    split
    · exact v.loaderStore_segs ..
    · rfl) _ u) exps s

theorem State.unbind_segs (s : State) (ctx : Nat) (gs : List Seg) : (s.unbind ctx gs).segs = s.segs :=
  foldl_loaderStore_segs ctx id (fun _ => 0) _ s

/-! Unmapping -/

theorem State.unmapSeg_tables (s : State) (g : Seg) : (s.unmapSeg g).tables = s.tables := by
  unfold State.unmapSeg
  split
  · rfl
  · refine foldl_tables (fun u p => ?_) _ _
    unfold State.unmapPage
    split
    · exact State.flushPage_tables _ _ _
    · rfl

/-! STATE of a segment -/

/-- STATE of the segment at an index. -/
def State.segState (s : State) (i : Nat) : Option SegState := (s.seg? i).map (·.state)

theorem State.segState_congr (same : t.segs = s.segs) (i : Nat) : t.segState i = s.segState i := by
  rw [State.segState, State.seg?, same, State.segState, State.seg?]

theorem State.segState_setSeg (s : State) (k : Nat) (st : SegState) (i : Nat) :
    (s.setSeg k st).segState i = if i = k then (s.segState i).map fun _ => st else s.segState i := by
  have idx : ((fun g : Seg => g.idx == i) ∘ fun g : Seg => if g.idx == k then { g with state := st } else g) = fun g => g.idx == i :=
    funext fun g => by dsimp only [Function.comp]; split <;> rfl
  have found : (s.setSeg k st).seg? i = (s.seg? i).map fun g => if g.idx == k then { g with state := st } else g := by
    rw [State.seg?, State.setSeg, List.find?_map, idx, State.seg?]
  rw [State.segState, found, State.segState]
  cases at_ : s.seg? i with
  | none => simp
  | some g =>
    obtain rfl : g.idx = i := by simpa using List.find?_some at_
    by_cases here : g.idx = k <;> simp [here]

theorem State.segState_freeSegment (s : State) (g : Seg) (i : Nat) :
    (s.freeSegment g).segState i = if i = g.idx then (s.segState i).map fun _ => .free else s.segState i := by
  have unmapped : (s.unmapSeg g).segState i = s.segState i := State.segState_congr (congrArg Prod.fst (s.unmapSeg_tables g)) i
  rw [← unmapped]
  exact State.segState_setSeg _ g.idx .free i

/-- The sweep frees a segment or leaves it. -/
theorem State.segState_sweepSegs {i : Nat} {st : SegState} (is : s.segState i = some st) :
    s.sweepSegs.segState i = some st ∨ s.sweepSegs.segState i = some .free := by
  refine List.foldlRecOn (motive := fun (t : State) => t.segState i = some st ∨ t.segState i = some .free) _ _ (.inl is)
    fun t so g _ => ?_
  have step : (if g.state == .revoked then t.freeIdx g.idx else t.freeSegment g).segState i =
      if i = g.idx then (t.segState i).map fun _ => .free else t.segState i := by
    split
    · exact State.segState_setSeg _ g.idx .free i
    · exact t.segState_freeSegment g i
  rw [step]
  rcases so with so | so <;> rw [so] <;> split <;> simp

/-- Revoking some segments. -/
theorem State.segState_revoke (gs : List Seg) (i : Nat) : ∀ s : State,
    (gs.foldl (fun (t : State) (g : Seg) => (t.unmapSeg g).setSeg g.idx .revoked) s).segState i =
      if i ∈ gs.map (·.idx) then (s.segState i).map fun _ => .revoked else s.segState i := by
  induction gs with
  | nil => exact fun s => rfl
  | cons g gs ih =>
    intro s
    have unmapped : (s.unmapSeg g).segState i = s.segState i := State.segState_congr (congrArg Prod.fst (s.unmapSeg_tables g)) i
    rw [List.foldl_cons, ih, State.segState_setSeg, unmapped]
    by_cases here : i = g.idx <;> by_cases later : i ∈ gs.map (·.idx) <;> cases s.segState i <;> simp [here, later]

/-! Objects -/

/-- No context of a number holds an object of an identifier. -/
def State.lacks (s : State) (ctx obj : Nat) : Prop := ∀ d ∈ s.ctxs, d.id = ctx → ∀ x ∈ d.objs, x.id ≠ obj

theorem State.dropObj_lacks (s : State) (ctx obj : Nat) : (s.dropObj ctx obj).lacks ctx obj := by
  intro d mem own x held
  obtain ⟨c, -, rfl⟩ := List.mem_map.mp mem
  cases is : c.id == ctx with
  | true =>
    have kept : x ∈ c.objs ∧ x.id ≠ obj := by simpa [is] using held
    exact kept.2
  | false => exact absurd (by simpa [is] using own) (ne_of_beq_false is)

theorem State.freeIdx_lacks {ctx obj : Nat} (idx : Nat) (no : s.lacks ctx obj) : (s.freeIdx idx).lacks ctx obj := by
  intro d mem own x held
  obtain ⟨c, there, rfl⟩ := List.mem_map.mp mem
  obtain ⟨y, old, rfl⟩ := List.mem_map.mp held
  exact no c there own y old

theorem State.sweepSegs_lacks {ctx obj : Nat} (no : s.lacks ctx obj) : s.sweepSegs.lacks ctx obj := by
  refine List.foldlRecOn (motive := fun (t : State) => t.lacks ctx obj) _ _ no fun t so g _ => ?_
  split
  · exact State.freeIdx_lacks g.idx so
  · have unmapped : (t.unmapSeg g).ctxs = t.ctxs := congrArg Prod.snd (t.unmapSeg_tables g)
    exact State.freeIdx_lacks g.idx (by rw [State.lacks, unmapped]; exact so)

end Sys2Proof.Machine
end

section
/-! SUPPORT. The steps of a load on a file without imports, links and tensors, and what the unloads leave (16/R363, R370, R372). -/

namespace Sys2Proof.Machine

variable {s t : State} {r : LoadReq} {c : Ctx}

/-- The context of a number has it. -/
theorem State.ctx?_id {i : Nat} (is : s.ctx? i = some c) : c.id = i := by
  have found := List.find?_some is
  rw [Bool.and_eq_true, beq_iff_eq] at found
  exact found.1

theorem State.ctx?_getD_id : ((s.ctx? c.id).getD c).id = c.id := by
  cases is : s.ctx? c.id with
  | none => rfl
  | some d => exact State.ctx?_id is

theorem State.loadAnswer_last (s : State) (status : String) (bytes : List Byte) :
    (s.loadAnswer status bytes).rep.msgs.getLast? = some (.answer status bytes) :=
  List.getLast?_concat ..

theorem execSegmentLoad_at (is : s.ctx? r.ctx = some c) : exec (.segmentLoad r) s = .next (match s.loadObject r c with
    | .error e => s.loadAnswer e []
    | .ok (u, segs) => u.loadAnswer "OK" (segs.flatMap fun x => natLe 2 x.2.1 ++ bvLe x.2.2 1)) := by
  change execSegmentLoad r s = _
  unfold execSegmentLoad
  split
  · next none_ => cases is.symm.trans none_
  · next found => cases is.symm.trans found; rfl

theorem execSegmentLoad_error {e : String} (is : s.ctx? r.ctx = some c) (fails : s.loadObject r c = .error e) :
    exec (.segmentLoad r) s = .next (s.loadAnswer e []) := by
  rw [execSegmentLoad_at is, fails]

theorem execSegmentLoad_ok {segs : List (Nat × Nat × BitVec 8)} (is : s.ctx? r.ctx = some c) (loads : s.loadObject r c = .ok (t, segs)) :
    exec (.segmentLoad r) s = .next (t.loadAnswer "OK" (segs.flatMap fun x => natLe 2 x.2.1 ++ bvLe x.2.2 1)) := by
  rw [execSegmentLoad_at is, loads]

theorem State.loadObject_bad {e : String} (bad : badFile r c = some e) : s.loadObject r c = .error e := by
  unfold State.loadObject
  split
  · next wrong => cases bad.symm.trans wrong; rfl
  · next good => cases bad.symm.trans good

theorem State.loadObject_good (good : badFile r c = none) : s.loadObject r c = s.loadFile r c [] [] (State.resolverFor r r.ctx) := by
  unfold State.loadObject
  split
  · next wrong => cases good.symm.trans wrong
  · rfl

theorem State.loadFile_noSegs {used : List Nat} {taken : List (Nat × Nat)}
    {res : State → List Nat → List (Nat × Nat) → Except String (State × DWord)}
    (full : s.allotSegs (ordinals (secsOf r.file)) used = none) : s.loadFile r c used taken res = .error "NOSEG" := by
  rw [State.loadFile, full]

/-- Steps 6 to 8 without import cells and slots. -/
theorem State.linkFile_bare {place tix : List Nat} {segs : List (Nat × Nat × BitVec 8)} {res : DWord} (noLinks : recsOf r.file 8 = []) :
    ∃ t, s.linkFile r c place segs [] tix res = .ok (t, segs) ∧
      t.segs = (s.segs.filter fun g => !segs.any fun x => x.2.1 == g.idx) ++ segs.map (segFor r.file (secsOf r.file) place c.id) := by
  refine ⟨_, by rw [State.linkFile, noLinks]; rfl, ?_⟩
  rw [State.bindCells_segs]
  rfl

/-- Steps 2 to 8 on a file without imports, slots and tensors. -/
theorem State.loadFile_bare {s1 : State} {segs : List (Nat × Nat × BitVec 8)}
    {res : State → List Nat → List (Nat × Nat) → Except String (State × DWord)}
    (allotted : s.allotSegs (ordinals (secsOf r.file)) [] = some segs)
    (room : s.pagesFree c (pagesTaken (secsOf r.file) (placing (secsOf r.file) r.place) []) = true)
    (placed : s.placeSecs c r.file (secsOf r.file) (placing (secsOf r.file) r.place) segs = some s1)
    (noImports : recsOf r.file 7 = []) (noLinks : recsOf r.file 8 = []) (noTensors : ((secsOf r.file).findIdx? fun x => x.ty == 0xA) = none) :
    ∃ t, s.loadFile r c [] [] res = .ok (t, segs) ∧ t.segs = (s1.segs.filter fun g => !segs.any fun x => x.2.1 == g.idx) ++
      segs.map (segFor r.file (secsOf r.file) (placing (secsOf r.file) r.place) c.id) := by
  obtain ⟨t, links, table⟩ := State.linkFile_bare (s := s1) (r := r) (c := (s1.ctx? c.id).getD c)
    (place := placing (secsOf r.file) r.place) (tix := []) (segs := segs) (res := 0) noLinks
  rw [State.ctx?_getD_id] at table
  refine ⟨t, ?_, table⟩
  rw [← links]
  have noCells : cellsFor c.objs [] (r.place.drop (secsOf r.file).length) = [] := rfl
  simp [State.loadFile, allotted, noImports, noCells, room, placed, noTensors, noLinks, hasLazy, pieces]

theorem badFile_format (wrong : fileOk r.file = false) : badFile r c = some "BADFMT" := by
  simp only [badFile, wrong, Bool.not_false, ↓reduceIte]

theorem badFile_signature (format : fileOk r.file = true) (unsigned : sigBad r.file r.needSig = true) : badFile r c = some "BADSIG" := by
  simp only [badFile, format, unsigned, Bool.not_true, Bool.false_eq_true, ↓reduceIte]

theorem badFile_name (format : fileOk r.file = true) (signed : sigBad r.file r.needSig = false)
    (name : ((c.objs.any fun o => o.name == nameAt r.file (natAt r.file 24 4)) != r.swap) = true) : badFile r c = some "DUPNAME" := by
  simp only [badFile, format, signed, name, Bool.not_true, Bool.false_eq_true, ↓reduceIte]

theorem badFile_good (format : fileOk r.file = true) (signed : sigBad r.file r.needSig = false)
    (name : ((c.objs.any fun o => o.name == nameAt r.file (natAt r.file 24 4)) != r.swap) = false) : badFile r c = none := by
  simp only [badFile, format, signed, name, Bool.not_true, Bool.false_eq_true, ↓reduceIte]

/-! Swap -/

theorem State.segState_live {i : Nat} {g : Seg} {st : SegState} (is : s.seg? i = some g) (live : g.state = st) : s.segState i = some st := by
  rw [State.segState, is, Option.map_some, live]

/-- A retired segment stays retired, or the sweep frees it. -/
theorem execSegmentRetire_state {ctx old new : Nat} {o n : Seg} (isCtx : s.ctx? ctx = some c) (isOld : s.seg? old = some o)
    (isNew : s.seg? new = some n) (both : (c.objs.any fun x => x.segs.contains old && x.segs.contains new) = true)
    (oldLive : o.state = .live) (newLive : n.state = .live) (owned : o.owner = ctx) :
    ∃ t, exec (.segmentRetire ctx old new) s = .next t ∧ (t.segState old = some .retired ∨ t.segState old = some .free) := by
  obtain ⟨ob, held⟩ : ∃ ob, (c.objs.find? fun x => x.segs.contains old && x.segs.contains new) = some ob :=
    Option.isSome_iff_exists.mp (by rw [List.find?_isSome, ← List.any_eq_true]; exact both)
  change ∃ t, execSegmentRetire ctx old new s = .next t ∧ _
  simp only [execSegmentRetire, isCtx, isOld, isNew, held, oldLive, newLive, owned, bne_self_eq_false, Bool.or_self, Bool.false_eq_true,
    ↓reduceIte]
  refine ⟨_, rfl, State.segState_sweepSegs ?_⟩
  change (State.setSeg _ old .retired).segState old = _
  rw [State.segState_setSeg, if_pos rfl, State.segState_congr ((foldl_loaderStore_segs ..).trans (foldl_loaderStore_segs ..)),
    State.segState_live isOld oldLive]
  rfl

/-! Unload -/

variable {ctx obj : Nat} {o : Obj}

theorem execUnload_busy (is : s.obj? ctx obj = some (c, o))
    (used : ((s.segsOf o).all fun g => (g.state == .live || g.state == .retired) && s.refc g == 0) = false) :
    exec (.unload ctx obj) s = .next (s.loadAnswer "BUSY" []) := by
  change execUnload ctx obj s = _
  simp only [execUnload, is, used, Bool.false_eq_true, ↓reduceIte]

theorem execUnload_idle (is : s.obj? ctx obj = some (c, o))
    (idle : ((s.segsOf o).all fun g => (g.state == .live || g.state == .retired) && s.refc g == 0) = true) :
    exec (.unload ctx obj) s = .next ((((s.segsOf o).foldl (fun (t : State) g => t.freeSegment g)
      (s.unbind ctx (s.segsOf o))).dropObj ctx obj).loadAnswer "OK" []) := by
  change execUnload ctx obj s = _
  simp only [execUnload, is, idle, ↓reduceIte]

/-- What FORCED_UNLOAD of an object of a context comes to before its answer. -/
def State.forced (s : State) (ctx obj : Nat) (c : Ctx) (o : Obj) : State :=
  let live := (s.segsOf o).filter fun g => g.state == .live || g.state == .retired
  let s1 := live.foldl (fun (t : State) (g : Seg) => (t.unmapSeg g).setSeg g.idx .revoked) (s.unbind ctx live)
  let s2 := (c.ownLinks o).foldl (fun (t : State) (va : Nat) => t.loaderStore ctx va 0) s1
  (s2.dropObj ctx obj).sweepSegs

theorem execForcedUnload_forced (is : s.obj? ctx obj = some (c, o)) :
    exec (.forcedUnload ctx obj) s = .next ((s.forced ctx obj c o).loadAnswer "OK" []) := by
  change execForcedUnload ctx obj s = _
  simp only [execForcedUnload, is]
  rfl

/-- The object is gone. -/
theorem State.forced_lacks : (s.forced ctx obj c o).lacks ctx obj := State.sweepSegs_lacks (State.dropObj_lacks _ ctx obj)

/-- An object's segments are those of the table. -/
theorem State.seg?_of_mem_segsOf {g : Seg} (mem : g ∈ s.segsOf o) : s.seg? g.idx = some g := by
  obtain ⟨i, -, found⟩ := List.mem_filterMap.mp (List.mem_filter.mp mem).1
  have idx := List.find?_some found
  rw [beq_iff_eq] at idx
  rw [idx, found]

/-- Its segments are revoked, or the sweep frees them. -/
theorem State.forced_state {g : Seg} (mem : g ∈ s.segsOf o) (held : g.state = .live ∨ g.state = .retired) :
    (s.forced ctx obj c o).segState g.idx = some .revoked ∨ (s.forced ctx obj c o).segState g.idx = some .free := by
  have revoked : g ∈ (s.segsOf o).filter fun g => g.state == .live || g.state == .retired :=
    List.mem_filter.mpr ⟨mem, by simpa using held⟩
  refine State.segState_sweepSegs ?_
  refine (State.segState_congr (foldl_loaderStore_segs ctx id (fun _ => 0) (c.ownLinks o) _) g.idx).trans ?_
  rw [State.segState_revoke,
    if_pos (List.mem_map_of_mem revoked), State.segState_congr (s.unbind_segs ctx _),
    State.segState_live (State.seg?_of_mem_segsOf mem) rfl]
  rfl

theorem State.unbind_at (is : s.ctx? ctx = some c) (gs : List Seg) : s.unbind ctx gs =
    (((c.objs.flatMap fun x => x.cells.map (·.2) ++ x.slots.map (·.1)).dedup).filter fun va => gs.any fun g =>
      (capSeg (s.loaderRead ctx va)).toNat == g.idx && capGen (s.loaderRead ctx va) == g.gen).foldl
        (fun (t : State) (va : Nat) => t.loaderStore ctx va 0) s := by
  rw [State.unbind, is]
  rfl

/-- A store of the loader is one at its home. -/
theorem State.loaderStore_home {s1 : State} {va : Nat} {h : Home} {x : DWord} (home : s.homeOf ctx va .write = (s1, .ok h)) :
    s.loaderStore ctx va x = (s1.homeWrite ctx nCores 0 h (va % 128) (bvLe x 8)).1 := by
  rw [State.loaderStore, home]

/-! The resolver -/

theorem State.resolverFor_held {used : List Nat} {taken : List (Nat × Nat)} (is : s.ctx? ctx = some c)
    (valid : (s.checkEntry ctx c.resolver [.live]).isSome = true) : State.resolverFor r ctx s used taken = .ok (s, c.resolver) := by
  unfold State.resolverFor
  split
  · next none_ => cases is.symm.trans none_
  · next found =>
    cases is.symm.trans found
    exact if_pos valid

theorem State.resolverFor_wrong {used : List Nat} {taken : List (Nat × Nat)} (is : s.ctx? ctx = some c)
    (open_ : (s.checkEntry ctx c.resolver [.live]).isSome = false)
    (good : badFile { r with file := r.rslv, place := r.rslvPlace, swap := false } c = none) (wrong : resolverOk r.rslv = false) :
    State.resolverFor r ctx s used taken = .error "BADFMT" := by
  unfold State.resolverFor
  split
  · next none_ => cases is.symm.trans none_
  · next found =>
    cases is.symm.trans found
    rw [if_neg (by simp [open_])]
    extract_lets r1
    split
    · next bad => cases good.symm.trans bad
    · exact if_pos (by rw [wrong]; rfl)

/-! The sequencer (04/R104 to R106) -/

/-- A core's sequencer as SEQM sets it. -/
def Seqr.set (q : Seqr) (v : Word) : Seqr :=
  { q with
    flag := v.getLsbD 30
    link := (v.extractLsb' 16 14).toNat
    upc := if q.en then q.upc else (v.extractLsb' 0 14).toNat }

variable {core : Nat} {v : Word}

theorem execSeqmWrite_on (on : core < nCores) : exec (.seqmWrite core v) s = .next (
    if v.getLsbD 31 && !(s.seqOf core).en then
      if (s.residents core).any fun h => !h.seqr then s else s.startSeq ((s.seqOf core).set v)
    else if (s.seqOf core).en && !v.getLsbD 31 then
      match s.sheaf? (s.seqOf core).uid with
      | some h => s.endSeq h fun _ => (s.seqOf core).set v
      | none => s.putSeqr { (s.seqOf core).set v with en := false, next := none, chain0 := none }
    else s.putSeqr ((s.seqOf core).set v)) :=
  congrArg Host.Outcome.next (if_neg (Nat.not_le.mpr on))

theorem execSeqmWrite_keeps (on : core < nCores) (same : v.getLsbD 31 = (s.seqOf core).en) :
    exec (.seqmWrite core v) s = .next (s.putSeqr ((s.seqOf core).set v)) := by
  rw [execSeqmWrite_on on, same, Bool.and_not_self, if_neg Bool.false_ne_true, if_neg Bool.false_ne_true]

theorem execSeqmWrite_starts (on : core < nCores) (set : v.getLsbD 31 = true) (off : (s.seqOf core).en = false)
    (alone : ∀ h ∈ s.residents core, h.seqr = true) :
    exec (.seqmWrite core v) s = .next (s.startSeq ((s.seqOf core).set v)) := by
  have empty : ((s.residents core).any fun h => !h.seqr) = false := by simpa using alone
  rw [execSeqmWrite_on on, set, off, empty]
  rfl

theorem execSeqmWrite_ends {h : Sheaf} (on : core < nCores) (clear : v.getLsbD 31 = false) (runs : (s.seqOf core).en = true)
    (is : s.sheaf? (s.seqOf core).uid = some h) :
    exec (.seqmWrite core v) s = .next (s.endSeq h fun _ => (s.seqOf core).set v) := by
  rw [execSeqmWrite_on on, clear, runs, is]
  rfl

/-- The sequencer at its next microword `w`, which it has fetched for a sheaf. -/
def Seqr.onto (q : Seqr) (w : DWord) (h : Sheaf) : Seqr :=
  let a := q.next.getD q.upc
  { q with
    upc := a
    next := some (nextMicro w a q)
    link := if w.extractLsb' 62 2 == 1 then (a + 1) % 16384 else q.link
    chain0 := if h.chain.pc0.isNone then none else q.chain0 }

/-- The microword of a core's store at an index. -/
def State.microAt (s : State) (core a : Nat) : DWord := BitVec.ofNat 64 (leNat (s.scrRead (core * 524288 + 8 * a) 8))

/-- A microword without a fault hands its INSN to the sheaf. -/
theorem execMicroword_hands {q : Seqr} {h : Sheaf} (isQ : s.seqr? core = some q) (isH : s.sheaf? q.uid = some h) (runs : q.en = true)
    (empty : h.fbuf = none) (may : s.canIssue h = true) (whole : s.scrBad (core * 524288 + 8 * q.next.getD q.upc) 8 = false)
    (reserved : (s.microAt core (q.next.getD q.upc)).extractLsb' 32 16 = 0) :
    exec (.microword core) s = .next ((s.putSeqr (q.onto (s.microAt core (q.next.getD q.upc)) h)).putSheaf
      { h with fbuf := some ((s.microAt core (q.next.getD q.upc)).extractLsb' 0 32) }) := by
  have goes : (!q.en || h.fbuf.isSome || !s.canIssue h) = false := by rw [runs, empty, may]; rfl
  have noBits : ((s.microAt core (q.next.getD q.upc)).extractLsb' 32 16 != 0) = false := by rw [reserved]; rfl
  change execMicroword core s = _
  unfold execMicroword
  split
  · next none_ => cases isQ.symm.trans none_
  · next found =>
    cases isQ.symm.trans found
    split
    · next none_ => cases isH.symm.trans none_
    · next found =>
      cases isH.symm.trans found
      rw [if_neg (by rw [goes]; exact Bool.false_ne_true)]
      congr 1
      refine (if_neg (by rw [show scratchSize = 524288 from rfl, whole]; exact Bool.false_ne_true)).trans ?_
      exact if_neg (by rw [show scratchSize = 524288 from rfl]; exact (ne_true_of_eq_false noBits))

end Sys2Proof.Machine
end

section
open Sys2Proof Sys2Proof.Machine

/-- Settles O51, a clause for each of: what refuses a load, a load without imports, the steps of any load, the lazy slots' capability, SEGMENT_RETIRE,
UNLOAD and FORCED_UNLOAD, the cells that become 0, a store of the loader, SEQM, the microword after a microword, and the step of one. -/
theorem loaderAndSequencer : Obligations.LoaderAndSequencer := by
  refine ⟨fun s r c is => ⟨fun bad => ?_, fun format unsigned => ?_, fun format signed name => ?_⟩,
    fun s s1 r c segs is format signed name allotted room placed noImports noLinks noTensors => ?_,
    fun s r c is good => ⟨fun e fails => ?_, fun t segs loads => ?_, fun full => ?_⟩,
    fun s r c used taken is => ⟨State.resolverFor_held is, State.resolverFor_wrong is⟩,
    fun s ctx old new c o n isCtx isOld isNew both => execSegmentRetire_state isCtx isOld isNew both,
    fun s ctx obj c o is => ⟨execUnload_busy is, execUnload_idle is, execForcedUnload_forced is,
      _, execForcedUnload_forced is, State.loadAnswer_last .., fun d found => ?_, fun g => State.forced_state⟩,
    fun s ctx c gs is => State.unbind_at is gs,
    fun s s1 ctx va h x home => State.loaderStore_home home,
    fun s core v on => ⟨execSeqmWrite_keeps on, execSeqmWrite_starts on,
      fun h clear runs is => ⟨_, execSeqmWrite_ends on clear runs is, s.endSeq_ends h _⟩⟩,
    fun w a q => rfl,
    fun s core q h isQ isH runs empty may => execMicroword_hands isQ isH runs empty may⟩
  · exact execSegmentLoad_error is (State.loadObject_bad (badFile_format bad))
  · exact execSegmentLoad_error is (State.loadObject_bad (badFile_signature format unsigned))
  · exact execSegmentLoad_error is (State.loadObject_bad (badFile_name format signed name))
  · obtain ⟨t, loads, table⟩ := State.loadFile_bare (res := State.resolverFor r r.ctx) allotted room placed noImports noLinks noTensors
    refine ⟨_, execSegmentLoad_ok is ((State.loadObject_good (badFile_good format signed name)).trans loads), table, State.loadAnswer_last ..⟩
  · exact execSegmentLoad_error is ((State.loadObject_good good).trans fails)
  · exact execSegmentLoad_ok is ((State.loadObject_good good).trans loads)
  · exact execSegmentLoad_error is ((State.loadObject_good good).trans (State.loadFile_noSegs full))
  · exact State.forced_lacks d (List.mem_of_find?_eq_some found) (State.ctx?_id found)

end
